-- ==== Sys2Proof/Word.lean ====
section
/-!
DEFINITION. Words, bytes, the sparse list that holds a table of things, and the plainest arithmetic on them.
-/

namespace Sys2Proof

abbrev Byte := BitVec 8
abbrev Word := BitVec 64

/-- A sequence of bytes, lowest address first. -/
abbrev Bytes := List Byte

/-- A table of things by number: pairs with rising numbers, one entry a number. -/
abbrev Map (α : Type) := List (Nat × α)

/-- Sparse bytes by address: an address that is not listed reads as zero. -/
abbrev Mem := List (Nat × Byte)

end Sys2Proof
end

