-- ==== Sys2Proof/Syntax.lean ====
section
/-!
DEFINITION. The commands of the block: one constructor of Instr for each row of the table of operations and
events, with operands taken from the row's rule. A row that stands for an event inside the device names the unit
it happens to and carries what only the physical world decides (a reading, a check result, a choice that the
manual leaves to the device).
-/

namespace Sys2Proof

/-- A logical engine: terrace 0-7, number 0-4 (R9, R10). -/
structure EngId where
  t : Fin 8
  e : Fin 5
deriving DecidableEq, Repr

/-- A logical cluster of an engine (R9). -/
structure ClId where
  eng : EngId
  k   : Fin 20
deriving DecidableEq, Repr

/-- Result of a unit's check of what it reads (R107, R281, R297): what the circuits did, which no program decides. -/
inductive Check where
  | ok | corrected | uncorrectable
deriving DecidableEq, Repr

/-- The vector configuration and fixed-point CSRs of Zve64x (R94): SEW in bits, LMUL as a power of two, vl, vstart, the agnostic flags and vill of vtype, vxrm, vxsat. -/
structure VCfg where
  sew    : Nat
  lmul   : Int
  vl     : Nat
  vstart : Nat
  vta    : Bool := false
  vma    : Bool := false
  vill   : Bool := false
  vxrm   : Fin 4 := 0
  vxsat  : Bool := false
deriving DecidableEq, Repr

/-- What the core's base instructions (RV64IMC, Zicsr, Zve64x configuration and arithmetic, R94), which have no
row of their own, did since the cluster's last command: register values, vector bytes, the vector
configuration, and how many of them retired; the check of the line that this instruction is fetched from; and the other clusters that
trap in the core cycle of this instruction, with their causes and tval (R127, R128). -/
structure Pre where
  cl      : ClId
  pc      : Option Word
  xs      : List (Fin 32 × Word)
  vs      : List (Nat × Byte)
  vcfg    : Option VCfg
  retired : Nat
  chk     : Check := .ok
  also    : List (Fin 20 × Nat × Word) := []
deriving DecidableEq, Repr

/-- Whose run-time access a range-cache fill or a translation fault concerns (R263, R266): a cluster core, a mover request of a cluster
by its tag, or the gather stream of a DISPATCH or COMBINE part. -/
inductive Who where
  | core (k : Fin 20) | mover (k : Fin 20) (tag : Nat) | gather
deriving DecidableEq, Repr

/-- The form of a CSR instruction: CSRRW, CSRRS, CSRRC, and the immediate forms, whose rs1 field is the value. -/
inductive CsrOp where
  | rw | rs | rc | rwi | rsi | rci
deriving DecidableEq, Repr

/-- How a vector load or store finds its elements: unit stride, a stride register, offsets in a vector register, a mask (vlm, vsm), 2^n
whole registers, and unit stride that only the first element may fault at. -/
inductive VMode where
  | unit | strided (rs2 : Fin 32) | indexed (vs2 : Fin 32) | mask | whole (n : Fin 4) | first
deriving DecidableEq, Repr

/-- A mailbox: an attachment's own, a context's, or the messages of a queue pair (R345, R408). -/
inductive Mb where
  | att (a : Fin 8) | ctx (n : Fin 4096) | qp (q : Nat)
deriving DecidableEq, Repr

/-- Jormon's choice of a split where R160 leaves one: the number of parts wanted, the engines tried in order, and where it chooses them
the places at which it cuts the lines and dimension 0. -/
structure Split where
  parts : Nat
  engs  : List EngId
  lines : List Nat := []
  cols  : List Nat := []
deriving DecidableEq, Repr

/-- Who makes a register access (Table 1.3a). -/
inductive RegAgent where
  | host (a : Fin 8) | jormon | byolo | core (c : Fin 96) | kernel (p : Pre)
deriving DecidableEq, Repr

/-- Who reads a line at its home (Table 11.3). -/
inductive Reader where
  | plane (part : Nat) | ccFill (e : EngId) | core (c : Fin 96) | window (a : Fin 8) | rdma (q : Nat) | infuser
deriving DecidableEq, Repr

/-- Hardware fault classes (Table 16.8, ABSORBED). -/
inductive HwClass where
  | residue | accParity | cupParity | cisternEcc | controlCache | link | hang | other
deriving DecidableEq, Repr

/-- What strikes a matrix array while an operation runs (R73, R74, R92): an error in a column's sum of a cycle, a bit of a weight register, a bit of an
accumulator entry (A in bits 0-95, w in 96-111, EMPTY, STICKY, POISON, parity), and a parity failure of the cup row read in a cycle. -/
inductive Upset where
  | sum (step lane : Nat) (err : Int)
  | weight (row col : Fin 64) (bit : Fin 32)
  | entry (row : Fin 256) (col : Fin 64) (bit : Fin 116)
  | cupRow (step : Nat)
deriving DecidableEq, Repr

/-- Causes of a rollback (Table 16.8, ROLLED_BACK). -/
inductive RbCause where
  | poison | engineLost | partitionReset | deviceReset
deriving DecidableEq, Repr

/-- What a self-test of an engine finds (R444 step 4, R446). -/
structure SelfTest where
  badCluster : Option (Fin 20)
  badBeyond  : Bool
  badWays    : List (Fin 8)
  ledgerOk   : Bool
deriving DecidableEq, Repr

/-- A manager at Byolo's MCTP endpoint (Table 20.2). -/
inductive Requester where
  | tray | att (a : Fin 8)
deriving DecidableEq, Repr

/-- How an attachment is lost (R355). -/
inductive LossKind where
  | hotReset | flr | d3hot | linkDisable | dlDown
deriving DecidableEq, Repr

/-- How a flush read of an export ended (R353). -/
inductive FlushResult where
  | ok | unsupported | aborted
deriving DecidableEq, Repr

/-- Atomic operations of a server core (RISC-V A extension, R242). -/
inductive AmoOp where
  | swap | add | xor | and | or | min | max | minu | maxu
deriving DecidableEq, Repr

/-- What wakes a dormant device (R422). -/
inductive WakeCause where
  | tlp | l12Exit | hartTimer | holdEnd | byolo
deriving DecidableEq, Repr

/-- What a burst of the fabric carries: the requests of Table 11.5 in its order, and the control traffic of R306. -/
inductive Req where
  | ccFill | ccWriteBack | rangeFill | unitFill | jormon | coreRead
  | planeRead | gather | moverRead | windowRead | rdmaRead | outflowRead
  | engineWrite | coreStore | coreWriteBack | windowWrite | rdmaWrite
  | steep | sink | shadowFill | scrub | relocation | zeroing
  | gateMessage | notice | tableUpdate | alarm
deriving DecidableEq, Repr

/-- Where a burst comes from and goes to (Table 12.3): a die, or a memory port or cistern bank group of one. -/
inductive Node where
  | terrace (t : Fin 8) | headgate (h : Fin 4) | cpu (q : Fin 2)
  | hbm (stack : Fin 24) (pc : Fin 32) | caddy (chan : Fin 52) | bank (e : EngId) (g : Nat)
deriving DecidableEq, Repr

/-- One burst at the shared ports (R306, R307, R312): what it carries, whether it is a response, its length, its ends, the culvert that
the window number or the caddy address selects, and the writes on their way to their homes whose lines it brings. -/
structure Burst where
  kind  : Req
  resp  : Bool := false
  bytes : Nat
  src   : Node
  dst   : Node
  culvert : Fin 4 := 0
  writes : List Nat := []
deriving DecidableEq, Repr

/-- What a server core's privileged registers hold for its address translation and its timer (R318, R276): satp, vsatp, hgatp; whether it
runs virtualised; its privilege, 0 U, 1 S, 3 M; SUM and MXR; the timer compare of Sstc. -/
structure HartCsrs where
  satp  : Word := 0
  vsatp : Word := 0
  hgatp : Word := 0
  virt  : Bool := false
  mode  : Fin 4 := 1
  sum   : Bool := false
  mxr   : Bool := false
  stimecmp : Word := 0
deriving DecidableEq, Repr

/-- What a core's own instructions, which have no row, left in those registers before this access, and the check of the cache line that
the access uses: level (0 L2, 1 L3), way, finding (R322). -/
structure HPre where
  csrs : Option HartCsrs := none
  hit  : Option (Fin 2 × Fin 16 × Check) := none
deriving DecidableEq, Repr

/-- A data lane of an HBM pseudo-channel that self-test finds failing, and whether the stack can repair it (R290). -/
structure LaneFinding where
  stack : Fin 24
  pc    : Fin 32
  lane  : Nat
  fixable : Bool
deriving DecidableEq, Repr

/-- The safety partition's trip comparators (R437) and supervisors (R482). -/
inductive TripCause where
  | junction | hbm
deriving DecidableEq, Repr

inductive SupFault where
  | voltage | clock
deriving DecidableEq, Repr

/-- Sides of the input protection (R492). -/
inductive InputFault where
  | under | over | overCurrent | auxLost
deriving DecidableEq, Repr

/-- A client's answer to a packet of the device (R405). -/
inductive Ack where
  | ack | rnrNak | nak
deriving DecidableEq, Repr

/-- An IMSIC interrupt file: M, S or a guest file 1-7 (R329). -/
inductive ImsicFile where
  | m | s | guest (g : Fin 7)
deriving DecidableEq, Repr

/-- An image offered for a component (R473): header fields and the outcome of the checks that Byolo computes. -/
structure Image where
  component : Nat
  version   : Word
  svn       : Nat
  digest    : Nat
  keyOk     : Bool
  sigOk     : Bool
  digestOk  : Bool
deriving DecidableEq, Repr

/-- The commands. -/
inductive Instr where
  -- the matrix array, the mover and kernel code
  | kqWload (p : Pre) (rd rs1 rs2 : Fin 32)
  | kqStream (p : Pre) (rd rs1 : Fin 32)
  | kqStreamt (p : Pre) (rd rs1 : Fin 32)
  | kqDrain (p : Pre) (rd rs1 : Fin 32)
  | kqReload (p : Pre) (rd rs1 : Fin 32)
  | arrayOperationStart (cl : ClId) (ticket : Nat) (upsets : List Upset)
  | arrayOperationDone (cl : ClId) (ticket : Nat)
  | activityRamp (cl : ClId)
  | moverCopy (p : Pre) (rd rs1 : Fin 32)
  | moverConvert (p : Pre) (rd rs1 : Fin 32)
  | merge (p : Pre) (rd rs1 : Fin 32)
  | moverRequestComplete (cl : ClId) (tag : Nat) (only : Bool)
  | kqWaitM (p : Pre) (rs1 : Fin 32)
  | kqWaitA (p : Pre) (rs1 : Fin 32)
  | kqBar (p : Pre)
  | kqCnt (p : Pre) (rd : Fin 32) (idx : BitVec 12)
  | kqAmoaddW (p : Pre) (rd rs1 rs2 : Fin 32)
  | kqAmoxorW (p : Pre) (rd rs1 rs2 : Fin 32)
  | kqAmoaddD (p : Pre) (rd rs1 rs2 : Fin 32)
  | kqAmoxorD (p : Pre) (rd rs1 rs2 : Fin 32)
  | kqAmoswapD (p : Pre) (rd rs1 rs2 : Fin 32)
  | kqAmominD (p : Pre) (rd rs1 rs2 : Fin 32)
  | kqAmomaxD (p : Pre) (rd rs1 rs2 : Fin 32)
  | kqBexp (p : Pre) (vd vs2 : Fin 32)
  | kqFit (p : Pre) (vd vs2 : Fin 32) (vm : Bool)
  | kqPin (p : Pre) (vd vs2 : Fin 32) (vm : Bool)
  | kqAlign (p : Pre) (vd vs2 vs1 : Fin 32)
  | kqPack (p : Pre) (vd vs2 vs1 : Fin 32)
  | kqUnpack (p : Pre) (vd vs2 : Fin 32)
  | kqSrnd (p : Pre) (vd vs2 rs1 : Fin 32) (vm : Bool)
  | kqTopk (p : Pre) (vd vs2 rs1 : Fin 32) (vm : Bool)
  | kqcvtWrite (p : Pre) (op : CsrOp) (rd rs1 : Fin 32)
  | fenceI (p : Pre)
  | kernelLoad (p : Pre) (rd rs1 : Fin 32) (imm : BitVec 12) (log2 : Fin 4) (signed : Bool) (chk : Check)
  | kernelStore (p : Pre) (rs1 rs2 : Fin 32) (imm : BitVec 12) (log2 : Fin 4) (chk : Check)
  | ecall (p : Pre)
  | ebreak (p : Pre)
  | clusterExit (p : Pre)
  | kernelRunLimit (part : Nat)
  | ccFillComplete (e : EngId) (way : Fin 8) (victim : Check)
  | ccClean (e : EngId) (set : Option (Fin 20)) (chks : List (Nat × Check))
  | ccInvalidate (e : EngId) (set : Option (Fin 20)) (chks : List (Nat × Check))
  | ccMaintenanceDone (e : EngId) (set : Option (Fin 20))
  | ccWayDisabled (e : EngId) (way : Fin 8) (chks : List (Nat × Check))
  | ccFailCountHalving (e : EngId) (way : Fin 8)
  -- Jormon messages
  | attach (mb : Mb)
  | reattach (mb : Mb)
  | resendDone (a : Fin 8)
  | detach (mb : Mb)
  | ctxCreate (mb : Mb)
  | ctxDestroy (mb : Mb)
  | teardownReply (n : Fin 4096)
  | rangeMap (mb : Mb)
  | rangeUnmap (mb : Mb)
  | rangeUnmapDone (n : Fin 4096) (granule : Nat)
  | frameClass (mb : Mb)
  | objRegister (mb : Mb)
  | objPolicy (mb : Mb)
  | submit (mb : Mb) (split : Split)
  | submitList (mb : Mb) (split : Split)
  | abort (mb : Mb)
  | abortSettled (n : Fin 4096) (seq : Nat)
  | resumeRetry (mb : Mb) (split : Split)
  | resumeFail (mb : Mb)
  | gateAlloc (mb : Mb)
  | gateFree (mb : Mb)
  | statsReadContext (mb : Mb)
  | statsReadPartition (mb : Mb)
  | statsReadDevice (mb : Mb)
  | queryDevice (mb : Mb)
  | queryContext (mb : Mb)
  | queryObject (mb : Mb)
  | queryGate (mb : Mb)
  | queryRange (mb : Mb)
  | note (mb : Mb)
  | layoutRead (mb : Mb)
  | layoutStage (mb : Mb)
  | layoutCommit (mb : Mb)
  | layoutDiscard (mb : Mb)
  -- commands in execution
  | gemm (part : Nat)
  | gemmT (part : Nat)
  | route (part : Nat)
  | dispatch (part : Nat)
  | combine (part : Nat)
  | partialLands (part : Nat) (which : Nat)
  | convert (part : Nat)
  | copy (part : Nat)
  | copyHostDst (part : Nat)
  | reduce (part : Nat)
  | fill (part : Nat)
  | kernel (part : Nat)
  | steep (n : Fin 4096)
  | sink (n : Fin 4096)
  | sinkKeep (n : Fin 4096)
  | pin (n : Fin 4096)
  | unpin (n : Fin 4096)
  | gateSignal (n : Fin 4096)
  | gateWait (n : Fin 4096)
  | fence (n : Fin 4096)
  | stepMark (n : Fin 4096)
  | descriptorDispatch (n : Fin 4096)
  | partStart (e : EngId)
  | partCommit (part : Nat) (chks : List (Nat × Check))
  | commandFailureSettled (n : Fin 4096) (seq : Nat)
  | rangeCacheFill (e : EngId) (part : Nat) (w : Who)
  | faultEntryOpen (e : EngId)
  -- tiers and homes
  | riseRoom (pt : Fin 8) (obj : Nat)
  | infuserChunkDone (h : Fin 4) (fault : Bool)
  | riseComplete (pt : Fin 8) (obj : Nat)
  | residencyDeadlock (pt : Fin 8) (obj : Nat)
  | sinkReleasePoint (pt : Fin 8) (obj : Nat)
  | drainEnd (pt : Fin 8) (obj : Nat)
  | shadowFill (pt : Fin 8) (obj : Nat) (granule : Nat) (n : Fin 4096)
  | homeWrite (id : Nat)
  | homeRead (r : Reader) (pa : Nat) (len : Nat) (chk : Check)
  | patrolScrub (pa : Nat) (chk : Check)
  | rowRepair (stack : Fin 24) (pc : Fin 32) (bank row : Nat)
  | pseudoChannelRetirement (stack : Fin 24) (pc : Fin 32)
  | hbmTemperatureRead (stack : Fin 24) (quarter : Int)
  | refreshStepDown (stack : Fin 24)
  | caddyRetry (chan : Fin 52) (succeeded : Bool)
  | caddyChannelRetired (chan : Fin 52)
  | stripeBufferFlush (h : Fin 4) (stripe : Nat)
  -- fabric
  | linkReplay (link : Fin 50) (succeeded : Bool)
  | linkRetrained (link : Fin 50) (badLanes : List Nat)
  | linkFailed (link : Fin 50)
  | portRequest (port requester : Nat) (b : Burst)
  | arbiterGrant (port : Nat)
  | requesterAbsent (port requester : Nat) (absent : Bool)
  -- server cores
  | serverCoreLoad (c : Fin 96) (h : HPre) (va : Nat) (log2 : Fin 4)
  | serverCoreStore (c : Fin 96) (h : HPre) (va : Nat) (log2 : Fin 4) (v : Word)
  | storePerformed (c : Fin 96)
  | serverCoreAmo (c : Fin 96) (h : HPre) (va : Nat) (dbl aq rl : Bool) (op : AmoOp) (v : Word)
  | lr (c : Fin 96) (h : HPre) (va : Nat) (dbl aq rl : Bool)
  | sc (c : Fin 96) (h : HPre) (va : Nat) (dbl aq rl : Bool) (v : Word)
  | serverCoreFence (c : Fin 96) (predW : Bool)
  | ioRegionAccess (c : Fin 96) (h : HPre) (va : Nat) (log2 : Nat) (store : Option Word)
  | cboZero (c : Fin 96) (h : HPre) (va : Nat)
  | cboClean (c : Fin 96) (h : HPre) (va : Nat)
  | cboFlush (c : Fin 96) (h : HPre) (va : Nat)
  | cboInval (c : Fin 96) (h : HPre) (va : Nat)
  | prefetch (c : Fin 96) (h : HPre) (va : Nat)
  | wrsNto (c : Fin 96)
  | wrsSto (c : Fin 96)
  | bootStart (pt : Fin 8)
  | bootHalt (pt : Fin 8)
  | sbiSrstShutdown (c : Fin 96)
  | sbiSrstReboot (c : Fin 96)
  | hsmStart (c : Fin 96) (hart : Nat) (addr arg : Word)
  | hsmSuspend (c : Fin 96) (retentive : Bool)
  | imsicWrite (c : Fin 96) (h : HPre) (va : Nat) (v : BitVec 32)
  | hartLost (c : Fin 96)
  -- host attachment
  | windowWrite (a : Fin 8) (off : Nat) (data : Bytes)
  | windowRead (a : Fin 8) (off len : Nat)
  | windowBind (a : Fin 8)
  | mailboxSlotWrite (a : Fin 8) (mb : Mb) (off : Nat) (data : Bytes)
  | doorbell (a : Fin 8) (mb : Mb) (size8 upper : Bool) (v : Word)
  | outflowAck (a : Fin 8) (v : Word)
  | registerReadClear (who : RegAgent) (addr : Nat) (size8 : Bool)
  | registerWrite (who : RegAgent) (addr : Nat) (op : CsrOp) (rd rs1 : Fin 32) (size8 : Bool) (v : Word)
  | unsupportedRequest (a : Fin 8)
  | outflowItemComplete (a : Fin 8) (res : FlushResult)
  | ringEntryWrite (a : Fin 8) (ring : Nat)
  | interruptHoldoffEnd (n : Fin 4096)
  | attachmentLoss (a : Fin 8) (kind : LossKind)
  | orphanHoldExpiry (a : Fin 8)
  -- network
  | connectRequest (port : Fin 4) (ctx : Nat) (gen : Nat) (key : Word) (mtu : Nat)
  | send (q : Nat) (data : Bytes)
  | sendWithImmediate (q : Nat)
  | rdmaWrite (q : Nat) (va : Word) (rkey : BitVec 32) (data : Bytes)
  | rdmaWriteWithImmediate (q : Nat)
  | rdmaRead (q : Nat) (va : Word) (rkey : BitVec 32) (len : Nat)
  | compareAndSwap (q : Nat)
  | fetchAndAdd (q : Nat)
  | arpRequest (port : Fin 4) (ip : BitVec 32)
  | neighborSolicitation (port : Fin 4) (ip : BitVec 128)
  | echoRequest (port : Fin 4) (v6 : Bool) (ip : BitVec 128)
  | frameDiscard (port : Fin 4)
  | congestionExperienced (q : Nat)
  | cnpReceived (q : Nat)
  | rateLimitRaise (q : Nat)
  | pfcFrame (port : Fin 4) (prio : Fin 8) (pause : Bool)
  | receiveBufferThreshold (port : Fin 4) (fill : Nat)
  | portLinkDown (port : Fin 4)
  -- power
  | engineClockGate (e : EngId)
  | enginePowerGate (e : EngId)
  | engineWake (e : EngId)
  | terracePllOff (t : Fin 8)
  | terracePllWake (t : Fin 8)
  | dormantWake (cause : WakeCause)
  | fastLoop (d : Fin 14) (estimate : Nat)
  | droop (t : Fin 8)
  | slowLoop (d : Fin 15) (measured estimate : Nat) (dieQ : Option Int) (memQ : Option Int)
  | divergenceHoldEnd (d : Fin 15)
  | hardwareTrip (cause : TripCause) (source : Nat) (reading : Nat)
  | ceilingEnforcement (inputW : Nat)
  | ceilingRelease (inputW : Nat)
  | ceilingStop (inputW : Nat)
  | trayCeilingWrite (w : BitVec 16)
  | trayCapLower (level : Bool)
  | supervisorFault (f : SupFault) (source reading : Nat)
  -- recovery
  | commandReplay (part : Nat) (cls : HwClass)
  | engineReset (e : EngId) (cls : HwClass) (test : SelfTest)
  | engineResetLimit (e : EngId)
  | progressWatchdog (e : EngId)
  | contextRollback (n : Fin 4096) (cause : RbCause) (imageOk : Bool)
  | partitionAlarm (pt : Fin 8) (cause : RbCause) (badImages : List (Fin 4096)) (tests : List (EngId × SelfTest))
  | l2BoundExpiry (pt : Fin 8)
  | deviceReset (linksTrain : Bool) (badWays : List (EngId × Fin 8)) (badImages : List (Fin 4096)) (lanes : List LaneFinding)
  | dumpTruncated (t : Fin 8)
  | jormonCoreLost (h : Fin 4) (core : Fin 5)
  | byoloRestart (cause : Nat)
  -- management
  | logRead (r : Requester) (first : Nat) (count : Nat)
  | dumpList (r : Requester) (t : Nat)
  | dumpRead (r : Requester) (t slot off : Nat)
  | summaryRead (r : Requester) (slot idx : Nat)
  | serviceRead (r : Requester)
  | getVersion (r : Requester)
  | getCapabilities (r : Requester)
  | negotiateAlgorithms (r : Requester) (asym hash : Nat)
  | getDigests (r : Requester)
  | getCertificate (r : Requester) (slot off len : Nat)
  | challenge (r : Requester) (slot : Nat) (nonce : Nat)
  | getMeasurements (r : Requester) (idx : Nat)
  | pldmSensorRead (r : Requester) (sensor : BitVec 16)
  | requestUpdate (r : Requester)
  | updateComponent (r : Requester) (img : Image)
  | verifyComplete (r : Requester) (component : Nat)
  | activateFirmware (r : Requester) (starts : Bool)
  | cancelUpdate (r : Requester)
  | handover (n : Fin 4096)
  | powerUp (sockets : List (Nat × Option Nat)) (deadLinks : List (Fin 50)) (lanes : List LaneFinding) (fails : List (Nat × Nat))
  | inputDisconnect (f : InputFault)
  | perstNRelease (a : Fin 8)
  -- rows added at the table's end
  | illegalInstruction (p : Pre) (bits : BitVec 32)
  | vectorLoad (p : Pre) (vd rs1 : Fin 32) (mode : VMode) (log2 : Fin 4) (nf : Fin 8) (vm : Bool)
  | vectorStore (p : Pre) (vs3 rs1 : Fin 32) (mode : VMode) (log2 : Fin 4) (nf : Fin 8) (vm : Bool)
  | hartTimerInterrupt (c : Fin 96)
  | portLinkUp (port : Fin 4) (at200 : Bool)
  | retransmissionTimeout (q : Nat)
  | acknowledgementReceived (q : Nat) (a : Ack)
  | dlActive (a : Fin 8) (speed width : Nat) (flit : Bool)
  | coolantReport (inletQ : Int) (flowTenths : Nat)
  -- rows without operands
  | periodMark
  | refclkLost
  | dormantEntry
  | l3BoundExpiry
  | trayPowerCycle
  | spRequestDeviceReset
  | spRequestPowerRemoval
  | fuseRaise
  | powerDown
  | resetNLow
  | resetNHigh
  | usageHalving
  | refclkReturn
  | aux12vPresent
  | mainInputInRange
deriving DecidableEq, Repr

end Sys2Proof
end

