-- ==== Sys2Proof/Config.lean ====
section
/-!
DEFINITION. What the device leaves open: constants without a body, so that no proof can see their values. Each is
named in a row of the assumption log.
-/

namespace Sys2Proof.Config

/-- A 24-bit stochastic draw (R48), by the number of the free value. -/
opaque draw : Nat → BitVec 24

/-- An attach token (R354), drawn afresh. -/
opaque token : Nat → Word

/-- An R_Key (R406), drawn afresh. -/
opaque rkey : Nat → BitVec 32

/-- An undefined byte (R229, R277), by the number of the free value. -/
opaque freeByte : Nat → Byte

/-- An accumulator's A at launch (R101), by the number of the launch and the entry. -/
opaque freeAccA : Nat → Nat → BitVec 96

/-- An accumulator's w at launch (R101). -/
opaque freeAccW : Nat → Nat → BitVec 16

/-- An accumulator's flags EMPTY, STICKY, POISON at launch (R101), bits 0, 1, 2. -/
opaque freeAccF : Nat → Nat → BitVec 3

/-- Where a gate weight lies within its bound of a relative 2^-24 (R182), in units of 2^-52 of the value, by the
set's experts and logits and the member. -/
opaque gateNoise : List (Nat × Int) → Nat → Int

/-- The bytes that the coding of one chunk of 64 KiB takes before rounding (R218), by its content and the hint. -/
opaque chunkBytes : List (Nat × Byte) → Nat → Nat

/-- The cluster that forms a contribution of a dot product and its place in that cluster's order, where the device does
not fix them (R62, R72), by the number of the free value and of the contribution. -/
opaque spreadOver : Nat → Nat → Nat
opaque order : Nat → Nat → Word

/-- The severity of a log record by its type (Table 20.6 gives the field, no rule gives its value). -/
opaque severity : Nat → BitVec 2

/-- The exit address in the loader region of the cup (R129): the manual does not give it. -/
opaque exitAddress : Word

/-- Trap details that the manual does not state (Table 5.16): tval of causes that name no address and no instruction. -/
opaque trapValue : Nat → Word

/-- Bank and row of a byte address of a pseudo-channel (R290): the manual does not give the map. -/
opaque dramRow : Nat → Nat × Nat

/-- Rows that the repair resources of a bank can replace (R290): the manual gives no number. -/
opaque bankRepairs : Nat

/-- What a load from a register of a partition's APLIC domain returns (R325, R329): the manual gives no layout of it, by the number
of the free value. -/
opaque freeWord : Nat → Word

/-- Codes of the kinds of units in log records and swap records (Table 20.7): engine 0, cluster 1, server core 2, Jormon core 3. -/
opaque unitKind : Nat → Nat

/-- Retry and RNR retry counts of a connection (R408): its setup fixes them, and the manual gives no number. -/
opaque retryCount : Nat
opaque rnrCount : Nat

/-- The image that a component is delivered with (R473): version, svn, digest. -/
opaque factoryImage : Nat → Word × Nat × Nat

/-- SHA3-512 of the boot ROM, and the fused key hash (R473, R478, R479). -/
opaque bootRomDigest : BitVec 512
opaque keyHash : BitVec 512

/-- Bytes of a section of a dump (R472), by dump sequence, terrace, kind and unit, and each of them: the manual does not give what a
section holds. Terrace 0xFF stands for the brief of a summary. -/
opaque sectionLength : Nat → Nat → Nat → Nat → Nat
opaque sectionByte : Nat → Nat → Nat → Nat → Nat → Byte

/-- Bytes that a cistern bank group moves in 100 fabric cycles (R312): the manual gives no rate. -/
opaque bankRate : Nat → Nat

/-- Fabric cycles by which the time counter of a CPU die starts after power-up (R330): the two are not synchronised. -/
opaque dieSkew : Nat → Nat → Nat

/-- The ML-DSA-87 signature of the alias key over a request (R478), by the image digest, the fuse count and what is signed. -/
opaque signature : Nat → Nat → Nat → List Byte

/-- The certificate chain of slot 0 (R478), by the Byolo image digest and the fuse count. -/
opaque certChain : Nat → Nat → List Byte

end Sys2Proof.Config
end

