-- ==== Sys2Proof/Machine/State.lean ====
section
/-!
DEFINITION. Everything the spec gives the machine, as plain data. Each field's comment gives its width, the rule
that names it and its reset value; "log n" is the assumption log's row for a value the model names.
-/

namespace Sys2Proof.Machine

/-- A window accumulator (R57): A of 96 bits, w of 16 bits signed, the flags. Reset EMPTY. -/
structure Acc where
  a      : Int := 0
  w      : Int := 0
  empty  : Bool := true
  sticky : Bool := false
  poison : Bool := false
deriving DecidableEq, Repr

/-- An entry of the accumulator bank: the accumulator and its parity bit over A, w and the flags (R74). -/
structure AccEntry where
  acc : Acc := {}
  par : Bool := true
deriving DecidableEq, Repr

/-- A queued array operation (R81, R83, R86): what its operand blocks held when it was issued (R110). -/
inductive ArrKind where
  | load (base rows fmt : Nat)
  | stream (transposed : Bool) (elemBase elemStride expBase expStride n q fmt : Nat) (fresh : Bool)
  | drain (elemBase elemStride expBase expStride n q fmt : Nat) (conv : Nat)
  | reload (elemBase elemStride n q : Nat)
deriving DecidableEq, Repr

/-- An operation in the array's queue of four (R88): its ticket, whether it has started, the array cycles it has run, and what strikes the
array while it runs. -/
structure ArrOp where
  ticket  : Nat
  kind    : ArrKind
  started : Bool := false
  pos     : Nat := 0
  upsets  : List Upset := []
deriving DecidableEq, Repr

/-- Why a mover transfer or gather stream is held at an access (R208, R263, R266): a range-cache miss, a translation fault, an object; the
virtual address and the kind of access. -/
inductive Hold where
  | miss (va access : Nat) | fault (va access : Nat) | object (va access : Nat)
deriving DecidableEq, Repr

/-- Run-time translation of a mover request or gather stream: the granules translated so far, and what holds it. -/
structure Xlat where
  got  : List Nat := []
  hold : Option Hold := none
deriving DecidableEq, Repr

/-- A mover request of 64 bytes (Table 5.10), how far its addresses are translated, and once it has been performed the numbers of its
writes to device memory: the first, and the first that is not its own. -/
structure MovReq where
  tag : Nat
  op : Nat
  conv : Nat
  srcFmt : Nat
  dstFmt : Nat
  src : Nat
  srcScale : Nat
  dst : Nat
  dstScale : Nat
  rows : Nat
  rowLen : Nat
  srcStride : Nat
  dstStride : Nat
  mask : Nat
  mid : Nat
  xl : Xlat := {}
  performed : Option (Nat × Nat) := none
deriving DecidableEq, Repr

/-- A kernel access whose address is translated at run time (R263). -/
inductive KAccess where
  | load (rd : Fin 32) (log2 : Nat) (signed : Bool)
  | store (v : Word) (log2 : Nat)
  | amo (op : Nat) (dbl : Bool) (rd : Fin 32) (v : Word)
  | fetch
deriving DecidableEq, Repr

/-- Why a cluster core waits (R88, R103, R113, R114, R117, R118, R208, R266). -/
inductive Stall where
  | none
  | arrFull (k : ArrKind) (rd : Fin 32)
  | movFull (r : MovReq) (rd : Fin 32)
  | waitA (ticket : Nat)
  | waitM (tag : Nat)
  | bar
  | fillWait (line pa : Nat) (acc : KAccess)
  | blocked (line pa : Nat) (acc : KAccess)
  | rcMiss (va : Nat) (acc : KAccess)
  | faulted (va : Nat) (acc : KAccess)
  | object (va : Nat) (acc : KAccess)
deriving DecidableEq, Repr

/-- Whether kernel code runs on a cluster (R129, R130, R127). -/
inductive Run where
  | idle | running | exited
deriving DecidableEq, Repr

/-- A control-cache maintenance set (Tables 5.4 to 5.6). -/
structure Maint where
  /-- 57 bits; R106; reset 0 -/
  base    : Nat := 0
  /-- 25 bits; R106; reset 0 -/
  lines   : Nat := 0
  /-- 1 bit; R106; reset 0 -/
  overrun : Bool := false
  /-- 1 bit; R106; reset 0 -/
  busy    : Bool := false
  /-- 2 bits, the OP in progress; R106; reset 0 -/
  op      : Nat := 0
deriving DecidableEq, Repr

/-- One cluster: its core, its array and its cup. -/
structure Cluster where
  /-- R129, R130; reset idle -/
  run      : Run := .idle
  /-- the uid of the KERNEL part that runs here; R129; reset none -/
  part     : Option Nat := none
  /-- 64 bits; R129; reset DESIGN CHOICE 0, log 4 -/
  pc       : Word := 0
  /-- x1-x31, 64 bits each, x0 reads zero; R94; reset DESIGN CHOICE 0, log 4 -/
  x        : List (Nat × Word) := []
  /-- v0-v31, 1,024 bits each, as 4,096 bytes; R94; reset DESIGN CHOICE 0, log 4 -/
  v        : Mem := []
  /-- vtype SEW in bits; R129; reset 8 (the value at launch) -/
  sew      : Nat := 8
  /-- vtype LMUL as a power of two; R129; reset 0 -/
  lmul     : Int := 0
  /-- vl; R129; reset 0 -/
  vl       : Nat := 0
  /-- vstart; R96; reset 0 -/
  vstart   : Nat := 0
  /-- vta, vma and vill of vtype, 1 bit each; R94; reset DESIGN CHOICE 0, log 4 -/
  vta      : Bool := false
  vma      : Bool := false
  vill     : Bool := false
  /-- vxrm, 2 bits; R94; reset DESIGN CHOICE 0, log 4 -/
  vxrm     : Fin 4 := 0
  /-- vxsat, 1 bit; R94; reset DESIGN CHOICE 0, log 4 -/
  vxsat    : Bool := false
  /-- kqcvt, 64 bits; R122, R125; reset 0 -/
  kqcvt    : Word := 0
  /-- kqccbase, kqcclen, kqcccmd; R106, R125; reset 0 -/
  maint    : Maint := {}
  /-- why the core waits; reset none -/
  stall    : Stall := .none
  /-- the pc whose instruction the control cache has delivered and the core has not executed; R103; reset none -/
  fetched  : Option Word := none
  /-- array instructions issued since launch, 32 bits; R113; reset 0 -/
  tickets  : Nat := 0
  /-- the array's queue of four operations; R88; reset empty -/
  arrq     : List ArrOp := []
  /-- 256 x 64 accumulators with their parity bits by 64 * row + column; R74, R85; reset DESIGN CHOICE empty, log 4 -/
  bank     : List (Nat × AccEntry) := []
  /-- the accumulators that are not listed hold undefined contents since the launch numbered so; R101; reset none -/
  bankOpen : Option Nat := none
  /-- the weight tile's format; R79; reset DESIGN CHOICE 0, log 4 -/
  wFmt     : Nat := 0
  /-- rows loaded; R81; reset 0 -/
  wRows    : Nat := 0
  /-- PE words, 32 bits, by 64 * row + column; R76; reset DESIGN CHOICE 0, log 4 -/
  wWord    : List (Nat × BitVec 32) := []
  /-- weight exponents by 64 * group + column; R81; reset DESIGN CHOICE 0, log 4 -/
  wExp     : Mem := []
  /-- residues modulo 7 of the weight limbs by 4 * (64 * row + column) + limb; R73; reset 0 -/
  wRes     : List (Nat × Nat) := []
  /-- activity level 0-64; R91; reset 0 (R419) -/
  level    : Nat := 0
  /-- array cycles that operations have run and that have not elapsed, oldest first: their count of R93 and their number (log 2); reset none -/
  owed     : List (Nat × Nat) := []
  /-- ramp cycles elapsed since the level rose last; R91; reset 0 -/
  rampRun  : Nat := 0
  /-- idle count in array cycles; R91; reset DESIGN CHOICE 64, log 4 -/
  idle     : Nat := 64
  /-- ARR_STREAM, 64 bits; R93; reset 0 -/
  arrStream : Nat := 0
  /-- ARR_LOAD, 64 bits; R93; reset 0 -/
  arrLoad   : Nat := 0
  /-- ARR_RAMP, 64 bits; R93; reset 0 -/
  arrRamp   : Nat := 0
  /-- ARR_IDLE, 64 bits; R93; reset 0 -/
  arrIdle   : Nat := 0
  /-- the cup, 2 MiB; R99; reset DESIGN CHOICE 0, log 4 -/
  cup      : Mem := []
  /-- mover tags issued since launch; R114; reset 0 -/
  tags     : Nat := 0
  /-- outstanding mover requests, up to 16, in issue order; R114; reset empty -/
  movs     : List MovReq := []
  /-- tags of MERGE requests of this cluster that failed because a named cluster exited; R116; reset none -/
  mergeLost : List Nat := []
  /-- kq.bar instructions executed since launch; R118; reset 0 -/
  bars     : Nat := 0
  /-- CORE_CYCLES; R126; reset 0 -/
  cycles   : Nat := 0
  /-- CORE_INSTRET; R126; reset 0 -/
  instret  : Nat := 0
  /-- CC_HITS; R126; reset 0 -/
  ccHits   : Nat := 0
  /-- CC_MISSES; R126; reset 0 -/
  ccMisses : Nat := 0
  /-- CC_BLOCKED; R103; reset 0 -/
  ccBlocked : Nat := 0
  /-- MOV_BYTES; R126; reset 0 -/
  movBytes : Nat := 0
  /-- FMT_VIOLATION, FMT_SATURATE, FMT_EXP_CLAMP, FMT_POISON_READ, ACC_TRUNCATE, ACC_STICKY_OUT of this attempt; R126; reset 0 -/
  counts   : List (Nat × Nat) := []
  /-- SRND_DRAWS; R126; reset 0 -/
  draws    : Nat := 0
deriving DecidableEq, Repr

/-- A range entry (Table 10.1), its fields as numbers. -/
structure RangeEntry where
  va       : Nat
  granules : Nat
  kind     : Nat
  perms    : Nat
  attrs    : Nat
  target   : Nat
deriving DecidableEq, Repr

/-- A control-cache line (R102, R237): the line number of its physical address, whether it was fetched as code,
its 128 bytes and the mask of bytes stored since the fill. -/
structure CcLine where
  line  : Nat
  instr : Bool
  data  : Bytes
  dirty : BitVec 128
deriving DecidableEq, Repr

/-- A merge that is open on an engine (R116): the first request and the clusters that have joined, with their tags. -/
structure OpenMerge where
  first  : MovReq
  joined : List (Nat × Nat × Nat)
deriving DecidableEq, Repr

/-- A retained copy (R174): the context, and the lines' bytes as they were at commit. -/
structure Retained where
  ctx   : Nat
  lines : List (Nat × Bytes)
  /-- order of the commits that began copies (R173) -/
  order : Nat := 0
deriving DecidableEq, Repr

/-- What an engine's fault register or Jormon's held list keeps (R272): the context, the first address, the
access, and who waits: the part and whose access it is, or a parked command. -/
structure FaultRec where
  ctx    : Nat
  va     : Nat
  access : Nat
  eng    : Option Nat
  part   : Option Nat
  who    : Who := .gather
  seq    : Nat
  cause  : Nat
  /-- order in which records arose (R273), and the fabric cycle (R269) -/
  age    : Nat := 0
  since  : Nat := 0
  /-- a full queue holds it back, which has been counted (R272) -/
  full   : Bool := false
deriving DecidableEq, Repr

/-- Power states of an engine (Table 18.2). -/
inductive EngPower where
  | running | clockGated | powerGated
deriving DecidableEq, Repr

/-- One logical engine. -/
structure Engine where
  /-- parts waiting in the engine's queue, oldest first (which physical engine serves the number is in Terrace.serves); R156, R159; reset empty -/
  queue     : List Nat := []
  /-- parts executing, up to four; R159; reset empty -/
  executing : List Nat := []
  /-- range cache, up to 64 entries by context, most recent first; R263; reset empty -/
  rcache    : List (Nat × RangeEntry) := []
  /-- the fault register; R272; reset empty -/
  faultReg  : Option FaultRec := none
  /-- accesses that wait behind the full fault register; R272; reset empty -/
  faultWait : List FaultRec := []
  /-- control-cache lines by 8 * set + way; R102; reset empty -/
  cc        : List (Nat × CcLine) := []
  /-- the fill under way, by line number, and whether a fetch asked for it; R103; reset none -/
  ccFill    : Option (Nat × Bool) := none
  /-- clusters whose misses are blocked, in arrival order; R103; reset empty -/
  ccQueue   : List Nat := []
  /-- failure counts of the ways; R107; reset 0 -/
  wayFails  : List (Nat × Nat) := []
  /-- core-cycle times of the last halving of a way's count; R107; reset 0 -/
  wayHalved : List (Nat × Nat) := []
  /-- WAY_DISABLED; R107; reset none -/
  wayOff    : List Nat := []
  /-- CHECK_FAILS, 32 bits; R107; reset 0 -/
  checkFails : Nat := 0
  /-- Jormon's maintenance set; R106; reset 0 -/
  jmaint    : Maint := {}
  /-- maintenance requests waiting, in order; none is Jormon's set; R106; reset empty -/
  maintq    : List (Option Nat) := []
  /-- open merges by merge_id, up to 64; R116; reset empty -/
  merges    : List (Nat × OpenMerge) := []
  /-- retained copies, oldest first; R174; reset empty -/
  retained  : List Retained := []
  /-- whether the mover's last turn served the sequencer, and the cluster at which its round-robin goes on; R134; reset false, 0 -/
  movSeq    : Bool := false
  movPtr    : Nat := 0
  /-- the cistern's working space reached by kernels, 48 MiB; R136; reset DESIGN CHOICE 0, log 4 -/
  cistern   : Mem := []
  /-- array-cycle times of L0 replays since the engine was last reset; R443; reset empty -/
  replays   : List Nat := []
  /-- kettle times of engine resets; R446; reset empty -/
  resets    : List Nat := []
  /-- array cycles without progress; R458; reset 0 -/
  progress  : Nat := 0
  /-- the engine is isolated for L1 since that kettle time; R444; reset none -/
  isolated  : Option Nat := none
  /-- the requester-absent signal; R314; reset false -/
  absent    : Bool := false
  /-- Table 18.2; reset powerGated (R495: no part has been dispatched) -/
  power     : EngPower := .powerGated
  /-- array cycles idle; R418; reset 0 -/
  idleArr   : Nat := 0
  /-- the way that self-test or a fault decided needs the spare at the next reset; R107, R446; reset false -/
  needSpare : Bool := false
deriving DecidableEq, Repr

/-- What a part covers (Table 6.14). -/
inductive PartKind where
  | lines (lo hi : Nat)
  | tile (lo hi c0 c1 : Nat)
  | experts (list : List Nat)
  | sources (list : List Nat)
  | dests (lo hi : Nat)
  | kernel
  | whole
deriving DecidableEq, Repr

/-- Where a part stands. -/
inductive PartStage where
  | queued | executing | committed | failed (status : Nat) | aborted
deriving DecidableEq, Repr

/-- A partial on its way to a destination part (R198, R68, R69): row, column, slot, value. -/
structure Partial where
  row  : Nat
  slot : Nat
  vals : List Acc
deriving DecidableEq, Repr

/-- A part of a command (R13, R160). -/
structure Part where
  ctx    : Nat
  seq    : Nat
  idx    : Nat
  eng    : EngId
  kind   : PartKind
  stage  : PartStage := .queued
  /-- the part has computed its outputs and issued its writes -/
  ran    : Bool := false
  /-- kernel traps: cause, cluster, count, pc offset, tval (Table 5.16) -/
  trap   : Option (Nat × Nat × Nat × Nat × Nat) := none
  /-- program error met by this attempt (R440) -/
  error  : Option Nat := none
  /-- hardware faults of this part replayed so far (R443) -/
  replays : Nat := 0
  /-- last level used to absorb a fault, with its class, and whether a spare came in (R463) -/
  absorbed : Option (Nat × Nat × Bool) := none
  /-- counts of this attempt by context counter index (R53, R71, R188) -/
  counts : List (Nat × Nat) := []
  /-- the attempt drew on a poisoned input (R49) -/
  drew   : Bool := false
  /-- a KQ32 exponent byte that the last part writes: its place (R49) -/
  tail   : Option (Nat × Byte) := none
  /-- granted cistern space in bytes: working and ledger (R173) -/
  work   : Nat := 0
  ledger : Nat := 0
  /-- cistern bytes that a GEMM takes for prefetch beside its minimum (R173) -/
  extra  : Nat := 0
  /-- prior content of overlapped lines (R172) and of the atomic extent (R120) -/
  saved  : List (Nat × Bytes) := []
  /-- the atomic log: operation, address, operand, 16 bytes an entry (R120) -/
  atoms  : List (Nat × Nat × Bool × Word) := []
  /-- use pins: object numbers (R208) -/
  pins   : List Nat := []
  /-- partials that have been sent to this destination part and not landed (R68, R198) -/
  coming : List Partial := []
  /-- values held by a destination part by row, and the slot masks by row (R198) -/
  held   : List (Nat × List Acc) := []
  masks  : List (Nat × Nat) := []
  /-- a REDUCE part, or a destination part, has set out what it holds (R198) -/
  begun  : Bool := false
  /-- ROUTE: the experts of the plan in order (R189) -/
  planned : List Nat := []
  /-- lines written since the start, with the bytes written of each, by key (R169, R174): 0 for lines of memory; twice an object's registration
  number for lines of its image, and one more for those of its shadow -/
  wrote  : List (Nat × List (Nat × BitVec 128)) := []
  /-- detail bytes of the completion record (Table 6.16) -/
  detail : List (Nat × Nat) := []
  /-- lines that its inputs with RELEASE named as it read them (R174) -/
  released : List Nat := []
  /-- translation of its gather stream (R263, R266) -/
  xl     : Xlat := {}
  /-- array-cycle time of the launch (R131) -/
  since  : Nat := 0
deriving DecidableEq, Repr

/-- Where a command stands (R156, R166, R170). -/
inductive CmdState where
  | pending | running | failing (status : Nat) | aborting | completed | failed (status : Nat) | aborted
deriving DecidableEq, Repr

/-- A place a reply goes to: the mailbox, the slot, and the header fields that are echoed (R381). -/
structure ReplyTo where
  mb     : Mb
  slot   : Nat
  op     : Nat
  mflags : Nat
  ctx    : Nat
  seq    : Nat
deriving DecidableEq, Repr

/-- An accepted descriptor (R154). -/
structure Cmd where
  seq    : Nat
  desc   : Bytes
  /-- the step it belongs to (R175) -/
  step   : Nat
  /-- where the command stands; R156, R166, R170; at acceptance pending -/
  state  : CmdState := .pending
  /-- range entries recorded at queue time (R262) -/
  segs   : List RangeEntry := []
  /-- gate-independent: the split that Jormon chose (R160): kind and engine of each part -/
  plan   : List (PartKind × EngId) := []
  /-- parked on a translation fault: its granule (R265) -/
  parked : Option Nat := none
  /-- uids of its parts once dispatched -/
  parts  : List Nat := []
  /-- replayed from the journal: it posts no second record (R177), and counts as ended as its record said (R449) -/
  again  : Bool := false
  /-- what its record said before the replay; R449; none unless replayed -/
  prior  : Option CmdState := none
  /-- ABORT replies that wait for the settlement (R171) -/
  abortTo : List ReplyTo := []
  /-- DISPATCH and COMBINE under HOME: the expert home of each expert of the run when it was queued (R193) -/
  homes  : List Nat := []
  /-- STEP_MARK: the range table and the gates held when it was accepted (R448) -/
  snapRanges : List RangeEntry := []
  snapGates  : List Nat := []
  /-- objects that a STEEP or SINK still waits for, with the number of their registration (R214) -/
  waits  : List (Nat × Nat) := []
  /-- a failure that a STEEP or SINK ends with (R220, R223) -/
  late   : Option Nat := none
  /-- the registration numbers of the listed objects when the descriptor was queued (R214) -/
  objGen : List Nat := []
deriving DecidableEq, Repr

/-- A journal entry (R175). -/
inductive JKind where
  | desc (seq : Nat)
  | rmap (es : List RangeEntry)
  | runmap (granule : Nat)
  | galloc (first count : Nat) (initial : Word)
  | gfree (first count : Nat)
deriving DecidableEq, Repr

structure JEntry where
  step : Nat
  kind : JKind
deriving DecidableEq, Repr

/-- The context image of a step commit (R448). -/
structure CtxImage where
  ranges : List RangeEntry := []
  gates  : List (Nat × Word) := []
  pins   : List (Nat × Nat) := []
  latch  : Nat := 0
deriving DecidableEq, Repr

/-- A range-table row: the entry, and the RANGE_UNMAP that waits for its users (R267): the reply (none where a replay repeats a
removal that has been answered) and the number of the next command when it was taken. -/
structure RangeRow where
  entry : RangeEntry
  unmap : Option (Option ReplyTo × Nat) := none
deriving DecidableEq, Repr

/-- A statistics block (R394, R395): live and latched counters by index, latch generation, log number of the latch. -/
structure Stats where
  live    : List (Nat × Nat) := []
  latched : List (Nat × Nat) := []
  gen     : Nat := 0
  log     : Nat := 0
deriving DecidableEq, Repr

/-- A mailbox: 16 slots of 256 bytes and the words of Table 14.9. -/
structure Mailbox where
  /-- 4 KiB; R345; reset DESIGN CHOICE 0, log 4 -/
  page     : Mem := []
  /-- 16 bits; Table 14.9; reset 0 -/
  produced : Nat := 0
  /-- 16 bits; Table 14.9; reset 0 -/
  taken    : Nat := 0
  /-- 16 bits; Table 14.9; reset 0xFFFF -/
  free     : BitVec 16 := 0xFFFF
deriving DecidableEq, Repr

/-- Context states (Table 16.5). -/
inductive CtxState where
  | active | orphaned | parkedAtStep
deriving DecidableEq, Repr

/-- A context (R365). -/
structure Ctx where
  /-- 3 bits; R365 -/
  pt     : Nat
  /-- 4-bit generation of the tag; R367 -/
  gen    : Nat
  /-- home attachment; R343 -/
  home   : Nat
  /-- 0-7; Table 15.3 -/
  prio   : Nat
  /-- 1-63; Table 15.3 -/
  vector : Nat
  /-- gate quota; R366; given at creation (Table 16.3) -/
  quota  : Nat
  /-- engine share; R368; given at creation -/
  engShare : Nat
  /-- caddy reservation; R366; given at creation -/
  caddyShare : Nat
  /-- units of 256 fabric cycles; R392 -/
  holdoff : Nat
  /-- record ring: IOVA and log2 of its entries; R390; given at creation -/
  recIova : Nat
  recLog2 : Nat
  /-- event ring: IOVA and log2 of its entries; R390; given at creation -/
  evtIova : Nat
  evtLog2 : Nat
  /-- the mailbox of the context; R345; at creation empty -/
  mbox   : Mailbox := {}
  /-- R255, up to 1,024; at creation empty -/
  ranges : List RangeRow := []
  /-- next command sequence number, 32 bits; R154; at creation 1 -/
  nextSeq : Nat := 1
  /-- commands Jormon keeps, in acceptance order; R170 -/
  cmds   : List Cmd := []
  /-- number of the step that takes entries now; R175 -/
  step   : Nat := 0
  /-- up to 8,192 entries; R175 -/
  journal : List JEntry := []
  /-- steps that have overflowed; R176 -/
  overflow : List Nat := []
  /-- the context image of the last step commit; R448; at creation the image of a new context -/
  image  : CtxImage := {}
  /-- a rollback could not be made and no step commit has followed; R451 -/
  noImage : Bool := false
  /-- counters of the context; R394; at creation 0 -/
  stats  : Stats := {}
  /-- usage in 2^-10 fabric cycles; R368 -/
  usage  : Nat := 0
  /-- serial of the last dispatch, 0 never; R369 -/
  lastDisp : Nat := 0
  /-- whether it is active, orphaned or parked at its step mark; R355; at creation active -/
  state  : CtxState := .active
  /-- host pins by object; R213 -/
  pins   : List (Nat × Nat) := []
  /-- plan pins by object; R190 -/
  planPins : List (Nat × Nat) := []
  /-- poisoned lines this step has rolled back for; R286 -/
  rolled : List Nat := []
  /-- a rollback is due for that cause; R286 -/
  rollDue : Option RbCause := none
  /-- inflow ranges that the next replay parks on: first granule, length, and the number of the command that met the loss; R230 -/
  inflowLost : List (Nat × Nat × Nat) := []
  /-- lines written by the step's commands, with the bytes written of each, by key as in Part.wrote; R229 -/
  dirtied : List (Nat × List (Nat × BitVec 128)) := []
  /-- teardown under way: the reply if any, descriptors removed, parts stopped; R375 -/
  teardown : Option (Option ReplyTo × Nat × Nat) := none
  /-- fabric time at which a deferred send of its vector is due; R392 -/
  sendDue  : Option Nat := none
  /-- the step has posted its GUARANTEE_SHORTFALL event; R373 -/
  shortPosted : Bool := false
  /-- gates freed whose STEP_MARK has not completed, with the step of the GATE_FREE; R387 -/
  freed  : List (Nat × Nat × Word) := []
  /-- gates whose GATE_FREE a replay repeats once every command before it that names one has ended: first, number, step, and the number of
  the next command; R177 -/
  freeLater : List (Nat × Nat × Nat × Nat) := []
  /-- gates taken since the step commit that a rollback holds back; R387 -/
  heldGates : List Nat := []
  /-- HG_FW_VERSION of the Jormon version that serves it; R477 -/
  served : Nat := 0
  /-- journal entries replayed since the last rollback report -/
  replayed : Nat := 0
deriving DecidableEq, Repr

/-- A gate: its value and the context that holds it (R162). -/
structure Gate where
  value : Word
  owner : Nat
deriving DecidableEq, Repr

/-- Residency states (Table 8.4). -/
inductive Res where
  | caddyOnly | rising | resident | sinking
deriving DecidableEq, Repr

/-- Priority class of a rise's chunks (R217). -/
inductive RiseKind where
  | demand | plan | steep
deriving DecidableEq, Repr

/-- A rise under way (R215): class, context that caused it, order of the request, whether room was found,
chunks written, and the fabric time since which it has waited for room (R223). -/
structure Rise where
  kind   : RiseKind
  ctx    : Nat
  order  : Nat
  room   : Bool := false
  done   : List Nat := []
  waits  : Nat := 0
  /-- objects whose eviction found no room in the object store (R220) -/
  tried  : List Nat := []
  /-- the room it found takes the shadow of the pending image, too (R215) -/
  loads  : Bool := false
  /-- a chunk is being repeated after an absorbed fault (R231, R457) -/
  redo   : Bool := false
deriving DecidableEq, Repr

/-- A sink or write-back under way (R219, R221). -/
structure SinkOp where
  keep   : Bool
  evict  : Bool
  ctx    : Nat
  order  : Nat
  done   : List Nat := []
  slot   : Mem := []
  /-- stored bytes of the chunks in the slot so far, by chunk (R218) -/
  sizes  : List (Nat × Nat) := []
  /-- the release point has been passed; R219 -/
  released : Bool := false
  /-- poisoned lines that the write-down met, by line of the slot (R285) -/
  bad    : List Nat := []
  /-- a write has landed during a SINK with KEEP (R221) -/
  rewritten : Bool := false
deriving DecidableEq, Repr

/-- An object of a partition (R203, R204). -/
structure Obj where
  /-- number of the registration (R214: a later registration is another object) -/
  reg      : Nat
  /-- size in granules, home terrace, expert home, attributes, hint, and the offsets and lengths of the element and scale parts, as the policy block gives them; R206, Table 8.2 -/
  granules : Nat
  home     : Nat
  expertHome : Nat
  attrs    : Nat
  hint     : Nat
  elemOff  : Nat
  elemLen  : Nat
  scaleOff : Nat
  scaleLen : Nat
  /-- Table 8.4; at registration CADDY_ONLY -/
  res      : Res := .caddyOnly
  /-- the record's bytes; none is the null record (R203) -/
  record   : Option Mem := none
  /-- poisoned lines of the record, by line number in the object (R285) -/
  recBad   : List Nat := []
  /-- stored bytes of the record's chunks as they were coded, by granule (R206, R218) -/
  sizes    : List (Nat × Nat) := []
  /-- pending image of a stateful object: shadow granules as written down (R219) -/
  pend     : Option (List (Nat × Mem)) := none
  /-- stored bytes of the pending image's chunks, by granule (R218) -/
  pendSizes : List (Nat × Nat) := []
  /-- poisoned lines of the pending image, by line number in the object (R285) -/
  pendBad  : List Nat := []
  /-- HBM image: physical base of each granule in order (R210) -/
  image    : List Nat := []
  /-- a write has been performed since the last write-down; R221; at registration false -/
  dirty    : Bool := false
  /-- shadow granules by granule number (R224) -/
  shadow   : List (Nat × Nat) := []
  /-- the context that owns the shadow (R225) -/
  owner    : Option Nat := none
  /-- granules that left at a publication and are read by parts that bound before it (R226): granule, base and part -/
  old      : List (Nat × Nat × Nat) := []
  /-- the rise under way; R215; at registration none -/
  rise     : Option Rise := none
  /-- the sink or write-back under way; R219, R221; at registration none -/
  sinkOp   : Option SinkOp := none
  /-- sink requests that wait until RESIDENT or the end of a KEEP (Table 8.5, R221): keep, context, sequence number, 0 for an eviction -/
  sinkWait : List (Bool × Nat × Nat) := []
  /-- fabric time since which a write has waited for room for a shadow granule, 0 none (R224) -/
  shadowWait : Nat := 0
  /-- objects whose eviction for a shadow granule found no room in the object store (R220, R224) -/
  shadowTried : List Nat := []
  /-- a promotion arrived after the release point: its kind and context (Table 8.5) -/
  again    : Option (RiseKind × Nat) := none
  /-- a promotion follows a sink: waiting parts count SINK_CONFLICT (R211) -/
  conflict : Bool := false
  /-- order of the last binding by a part (R222) -/
  bound    : Nat := 0
deriving DecidableEq, Repr

/-- An open fault entry (Table 10.5). -/
structure FaultEntry where
  num     : Nat
  ctx     : Nat
  cause   : Nat
  va      : Nat
  engines : Nat
  seq     : Nat
  access  : Nat
  queueSrc : Bool
  runSrc   : Bool
  /-- parked commands by sequence number; held accesses by the uid of the part and whose access each is -/
  parked  : List Nat
  held    : List (Nat × Who)
deriving DecidableEq, Repr

/-- What a partition holds beside its terraces (R359). -/
structure Partn where
  /-- the fault queue, up to 4,096 entries; R268; reset empty -/
  faults   : List FaultEntry := []
  /-- next entry number, 32 bits; R268; reset 1 -/
  nextEntry : Nat := 1
  /-- held fault records at Jormon, oldest first; R272; reset empty -/
  heldRecs : List FaultRec := []
  /-- objects by number; R203; reset none -/
  objs     : List (Nat × Obj) := []
  /-- counters of the partition; R394; reset 0 -/
  stats    : Stats := {}
  /-- kettle times of L2; R454; reset empty -/
  l2s      : List Nat := []
  /-- an L2 runs since that kettle time with that cause; R453; reset none -/
  alarm    : Option (Nat × RbCause) := none
  /-- zeroing after a LAYOUT_WRITE has not finished; R362; reset false -/
  unformed : Bool := false
  /-- a path that the partition needs failed to train at power-up; R456; reset false -/
  noPath   : Bool := false
  /-- HG_FW_VERSION of the Jormon image whose monitor serves the partition; R475; reset DESIGN CHOICE 0, log 4 -/
  monitor  : Nat := 0
  /-- APLIC sources raised, bit n for source n (Table 13.4); R329; reset 0 -/
  sources  : Nat := 0
  /-- words stored to the APLIC domain, 16 KiB; R329; reset DESIGN CHOICE 0, log 26 -/
  aplic    : Mem := []
deriving DecidableEq, Repr

/-- A culvert window entry (Table 10.4). Reset unconfigured. -/
structure Window where
  refs    : Nat := 0
  region  : Nat := 0
  terrace : Nat := 0
  owner   : Nat := 0
  valid   : Bool := false
deriving DecidableEq, Repr

/-- A crash-dump slot that holds a dump (Tables 19.5, 20.8): level, dump sequence, TRUNCATED, and the summary. -/
structure Dump where
  level     : Nat
  seq       : Nat
  truncated : Bool := false
  summary   : Bytes
  /-- its sections in order: kind and unit; Table 20.8a -/
  sections  : List (Nat × Nat) := []
deriving DecidableEq, Repr

/-- A terrace. -/
structure Terrace where
  /-- physical engine serving logical engine e, by e; unlisted is e itself; R10, R446, R447 -/
  serves  : List (Nat × Nat) := []
  /-- physical engines fenced; R447, R460 -/
  fenced  : List Nat := []
  /-- the spare engine is in use; R446 -/
  spareUsed : Bool := false
  /-- spare clusters in use by physical engine; R9, R444 -/
  spareCl : List Nat := []
  /-- the PLL is off; R418; reset true -/
  pllOff  : Bool := true
  /-- fabric cycles since every engine has been power-gated; R418 -/
  allGated : Nat := 0
  /-- frame classes and pool marks by frame: 2 * pool + lean; unlisted is the state at power-up; R202, R283 -/
  frames  : List (Nat × Nat) := []
  /-- a droop halves the array clock for the remaining array cycles; R427 -/
  droop   : Nat := 0
  /-- array cycles in sixteenths since power-up; R5, R415 -/
  arr16   : Nat := 0
  /-- array cycles since the last fast-loop window; R427; reset 0 -/
  window  : Nat := 0
  /-- crash-dump slots by number, 32; R462; reset none -/
  dumps   : List (Nat × Dump) := []
  /-- the next dump slot; R462 -/
  dumpPos : Nat := 0
  /-- the dump of the recovery under way has been cut short and written; R462; reset false -/
  dumpCut : Bool := false
deriving DecidableEq, Repr

/-- One outflow item (R349): a record or event with its bytes and place, or an export. -/
inductive Item where
  | entry (ctx : Nat) (iova : Nat) (data : Bytes) (ring : Nat) (pos : Nat)
  | exportOf (part : Nat) (src : List (Nat × Nat × Nat)) (again : Bool)
deriving DecidableEq, Repr

/-- A posted or outstanding write of one line (R233). -/
inductive Origin where
  | part (uid : Nat) | window (a : Nat) | qp (q : Nat) | ccWb (uid : Nat)
deriving DecidableEq, Repr

structure LineWrite where
  id   : Nat
  from' : Origin
  /-- context tag: number and generation (R367) -/
  ctx  : Nat
  gen  : Nat
  /-- line number, mask of bytes and the 128 bytes; R233 -/
  line : Nat
  mask : BitVec 128
  data : Bytes
deriving DecidableEq, Repr

/-- An attachment (R334): its registers and its outflow. -/
structure Att where
  /-- link in DL_Active; R355; reset false -/
  dlActive : Bool := false
  /-- PERST_N released; R495; reset false -/
  perst    : Bool := false
  /-- HG_LINK fields SPEED, WIDTH, FLIT; Table 14.4; reset 0 -/
  speed    : Nat := 0
  width    : Nat := 0
  flit     : Bool := false
  /-- HG_LINK_RETRAINS, 64 bits; Table 14.4; reset 0 -/
  retrains : Nat := 0
  /-- HG_STATUS bits 14:8 and 2 (W1C) and 4, 3 as events set them, 64 bits; Table 14.6; reset 0 -/
  status   : Word := 0
  /-- HG_STATUS_MASK; Table 14.6; reset 0 -/
  mask     : Word := 0
  /-- HG_SCRATCH, 64 bits; Table 14.4; reset 0 -/
  scratch  : Word := 0
  /-- HG_WINDOW_CTX as staged; Table 14.7; reset 0 -/
  winCtx   : Word := 0
  /-- HG_WINDOW_VA as staged; Table 14.8; reset 0 -/
  winVa    : Word := 0
  /-- the window's binding: context, base; R342; reset unbound -/
  bound    : Option (Nat × Nat) := none
  /-- HG_WINDOW_DROPS, 64 bits; Table 14.4; reset 0 -/
  winDrops : Nat := 0
  /-- HG_DOORBELL_REJECTS; Table 14.4; reset 0 -/
  dbRejects : Nat := 0
  /-- HG_MAILBOX_DROPS; Table 14.4; reset 0 -/
  mbDrops  : Nat := 0
  /-- HG_UR_COUNT; Table 14.4; reset 0 -/
  urCount  : Nat := 0
  /-- the attachment mailbox; R345 -/
  mbox     : Mailbox := {}
  /-- MSI-X table, 1 KiB; Table 14.2; reset PRESUMED every vector masked and the rest 0 (PCI Express), log 6 -/
  msix     : Mem := (List.range 64).map fun n => (16 * n + 12, 1)
  /-- MSI-X pending bits, 64 bits; Table 14.2; reset PRESUMED 0 (PCI Express), log 6 -/
  pba      : Word := 0
  /-- MSI-X messages sent, by vector, in order -/
  sent     : List Nat := []
  /-- fabric time of the last send of each vector for entries of rings; R392 -/
  vecSent  : List (Nat × Nat) := []
  /-- HG_OUTFLOW_OSN, 64 bits; Table 14.4; reset 0 -/
  osn      : Nat := 0
  /-- HG_OUTFLOW_ACK, 64 bits; Table 14.10; reset 0 -/
  ack      : Nat := 0
  /-- outflow to this attachment is held (HELD, OUTFLOW_HELD); R355; reset false -/
  held     : Bool := false
  /-- items that wait or are issued, in order; R349 -/
  items    : List Item := []
  /-- completed and not acknowledged, with their OSN; R350 -/
  unacked  : List (Nat × Item) := []
  /-- RESENDING; R356; reset false -/
  resending : Bool := false
  /-- ATTACHED and the token; R354; reset none -/
  token    : Option Word := none
  /-- HG_ORPHAN_LEFT, kettle cycles, 32 bits; Table 14.4; reset 0 -/
  orphanLeft : Nat := 0
  /-- attachment event ring: IOVA, log2, INTR; R384 -/
  evtIova  : Nat := 0
  evtLog2  : Nat := 0
  evtIntr  : Bool := false
  /-- ring positions written, by ring (0 the attachment event ring, 2n+1 and 2n+2 the record and event ring of context n), and the OSN of the item that wrote the position last; R391 -/
  rings    : List (Nat × (Nat × List (Nat × Nat))) := []
  /-- entries held until the previous lap is acknowledged, by ring; R391 -/
  lapHeld  : List (Nat × Item) := []
  /-- host memory as this attachment's IOVAs reach it (what outflow wrote); R252 -/
  host     : Mem := []
  /-- the layout staging buffer, 4 KiB; R401; reset none -/
  staging  : Option Mem := none
  /-- bytes or value that the last read through this attachment returned, and whether it was poisoned or answered Unsupported Request -/
  rdata    : Bytes := []
  rbad     : Bool := false
  /-- a DETACH waits for its teardowns: the reply and the contexts destroyed; R354 -/
  detach   : Option (ReplyTo × Nat) := none
deriving DecidableEq, Repr

/-- A queue pair (R406). -/
structure Qp where
  port  : Nat
  ctx   : Nat
  gen   : Nat
  rkey  : BitVec 32
  /-- DSCP of what it sends and of its CNPs, from the tunables at connection; R403, R411 -/
  dscp  : Nat := 0
  dscpCnp : Nat := 0
  /-- connected, or in Error; R410 -/
  err   : Bool := false
  /-- messages received and not taken, up to 16; R407 -/
  msgs  : List Bytes := []
  /-- replies ready, oldest first; R408 -/
  replies : List Bytes := []
  /-- RDMA READs outstanding; Table 17.2 -/
  reads : Nat := 0
  /-- rate limit in 1/1,024 of line rate; R412; at connection 1,024 -/
  rate  : Nat := 1024
  /-- fabric times of the last CNP sent, the last CNP received, the last halving and the last raise of the limit; R411, R412 -/
  cnpSent : Option Nat := none
  cnpRecv : Option Nat := none
  halved  : Option Nat := none
  raised  : Nat := 0
  /-- retries and RNR retries left for the oldest reply; R408; at connection free constants of the connection (log 5) -/
  retries : Nat
  rnrRetries : Nat
  /-- last answer to the client: 0 ACK, 1 NAK Invalid Request, 2 NAK Remote Access Error, 3 RNR NAK; with READ data -/
  answer : Nat := 0
  rdata  : Bytes := []
deriving DecidableEq, Repr

/-- An Ethernet port (R402). -/
structure EPort where
  /-- reset false -/
  up      : Bool := false
  /-- receive buffer fill, bytes; R413; reset 0 -/
  fill    : Nat := 0
  /-- PFC sent and not released; R413; reset false -/
  pfcOut  : Bool := false
  /-- transmission paused on the configured priority; R413; reset false -/
  paused  : Bool := false
  /-- rows of Table 17.5 by row, 64 bits each; reset 0 -/
  counts  : List (Nat × Nat) := []
  /-- last reply frame sent: 1 ARP, 2 neighbor advertisement, 3 echo reply -/
  lastTx  : Nat := 0
  /-- REJ code or 0 of the last REQ (R406) and the number of the queue pair made -/
  cmCode  : Nat := 0
  cmQp    : Nat := 0
deriving DecidableEq, Repr

/-- Hart states (R327, R328, R332). -/
inductive Hart where
  | held | stopped | running | suspended | lost
deriving DecidableEq, Repr

/-- A store in a server core's buffer (R246): physical address, size, value, and whether its page makes it uncached (R319). -/
structure SbEntry where
  a  : Nat
  n  : Nat
  v  : Word
  nc : Bool := false
deriving DecidableEq, Repr

/-- A server core by logical number 0-95 (R18, R323). -/
structure Core where
  /-- reset stopped (R327: held in M-mode by the monitor) -/
  hart  : Hart := .held
  /-- pc, 64 bits, and a0, a1 as the monitor starts them; R327; reset DESIGN CHOICE 0, log 4 -/
  pc    : Word := 0
  a0    : Word := 0
  a1    : Word := 0
  /-- address translation, privilege and timer compare; R318, R327, R330; reset M-mode; satp, hgatp, vsatp and stimecmp DESIGN CHOICE 0,
  log 4 -/
  csrs  : HartCsrs := { mode := 3 }
  /-- check failures of the ways of the L2, by way, and its disabled ways; R322; reset none -/
  wayFails : List (Nat × Nat) := []
  wayOff   : List Nat := []
  /-- store buffer, up to 64 entries, oldest first; R246; reset empty -/
  sb    : List SbEntry := []
  /-- caddy lines held dirty: line and bytes; R236; reset empty -/
  dirty : List (Nat × Bytes) := []
  /-- lines held clean (L1, L2, L3); R235, R236; reset empty -/
  clean : List Nat := []
  /-- the reservation set: a line; R244; reset none -/
  resv  : Option Nat := none
  /-- the hart waits in WRS; R331; reset false -/
  wrs   : Bool := false
  /-- value of the last load, AMO, LR or SC -/
  rd    : Word := 0
  /-- cause of the last exception raised, by the RISC-V privileged architecture (log 58); R17, R242, R276; reset 0, none -/
  exc   : Nat := 0
  /-- the pieces of a store that stalls on a full buffer; R246; reset none -/
  stalled : List SbEntry := []
  /-- IMSIC pending identities by 256 * file + identity (file 0 M, 1 S, 2-8 guests); R329; reset none -/
  imsic : List Nat := []
  /-- a timer interrupt is pending; R422; reset false -/
  timer : Bool := false
  /-- a suspended hart keeps its state (HSM retentive suspend); R328; reset false -/
  retentive : Bool := false
  /-- physical core; R10; unlisted is the same number -/
  phys  : Option Nat := none
deriving DecidableEq, Repr

/-- An HBM stack (R278, R287, R290). -/
structure Stack where
  /-- refresh multiple 1, 2 or 4; R287; reset 1 -/
  refresh : Nat := 1
  /-- last hottest-die reading in 0.25 degC; R287; reset DESIGN CHOICE 0, log 4 -/
  temp    : Int := 0
  /-- kettle times since which readings have stayed at 82 degC or below, and at 92 degC or below (3 degC below the two
  thresholds); R287; reset none -/
  coolLo  : Option Nat := none
  coolHi  : Option Nat := none
  /-- kettle time of the last corrections record, and corrections since that no record holds; R303; reset none, 0 -/
  corrAt  : Option Nat := none
  corrN   : Nat := 0
  /-- lines with corrections or detections since device reset by pseudo-channel; R290 -/
  errs    : List (Nat × List Nat) := []
  /-- data lanes repaired: pseudo-channel and lane; R290; reset none -/
  lanes   : List (Nat × Nat) := []
  /-- rows repaired: 2^16 * pseudo-channel + bank, and row; R290 -/
  repaired : List (Nat × Nat) := []
  /-- detections since device reset by pseudo-channel; R290 -/
  detects : List (Nat × Nat) := []
  /-- the retired pseudo-channel; R292; reset none -/
  retired : Option Nat := none
  /-- pseudo-channels for which a retirement trigger has been met and not been acted on; R290; reset none -/
  triggers : List Nat := []
deriving DecidableEq, Repr

/-- A caddy channel (R293, R297). -/
structure Chan where
  /-- retired; R298; reset false -/
  retired : Bool := false
  /-- retries failed of the access under way; R297; reset 0 -/
  fails   : Nat := 0
  /-- module serial found in the socket, and the serial recorded as retired; R301, R503 -/
  serial  : Nat := 0
  badSerial : Option Nat := none
  /-- kettle time of the last corrections record, and corrections since that no record holds; R303; reset none, 0 -/
  corrAt  : Option Nat := none
  corrN   : Nat := 0
deriving DecidableEq, Repr

/-- A die-to-die link (R304, R309). -/
structure Link where
  /-- consecutive failed replays of one flit; R309; reset 0 -/
  consec  : Nat := 0
  /-- fabric times of replays in the last 2^16 cycles; R309; reset empty -/
  recent  : List Nat := []
  /-- the link needs a retrain; R309; reset false -/
  needs   : Bool := false
  /-- failed lanes by module; R310; reset 0 -/
  bad     : List (Nat × Nat) := []
  /-- modules at half width; R310; reset none -/
  half    : List Nat := []
  /-- failed; R311; reset false -/
  failed  : Bool := false
deriving DecidableEq, Repr

/-- A burst in a pending queue (R313, R315): class, length, revocation count, fabric time of arrival. -/
structure QBurst where
  b     : Burst
  rev   : Nat
  since : Nat
deriving DecidableEq, Repr

/-- A shared port's arbiter (R312). -/
structure APort where
  /-- pending queues of up to 16 by requester; R313; reset empty -/
  queues : List (Nat × List QBurst) := []
  /-- round-robin pointers by class: the requester that the next choice starts at; R312; reset 0 -/
  ptrs   : List (Nat × Nat) := []
  /-- the grant in force: requester and burst; R315; reset none -/
  grant  : Option (Nat × QBurst) := none
  /-- hundredths of a byte of the granted burst that have been sent; R315; reset 0 -/
  sent   : Nat := 0
  /-- heads of the queues at the end of the last cycle, by requester; R312; reset empty -/
  seen   : List (Nat × QBurst) := []
  /-- masked requesters; R314; reset none -/
  absent : List Nat := []
  /-- lines left of a batch of writes; R289; reset 0 -/
  batch  : Nat := 0
  /-- class of the last request that was served for its age; R289; reset 3 -/
  aged   : Nat := 3
deriving DecidableEq, Repr

/-- A power domain (Table 18.3). -/
structure Domain where
  /-- present step n of n/16; R427; reset 16 (WE_DOMAIN.STEP 0) -/
  step    : Nat := 16
  /-- top step; R428; reset 16 -/
  top     : Nat := 16
  /-- calibration factor as a fraction; R426; reset 1 -/
  kNum    : Nat := 1
  kDen    : Nat := 1
  /-- last measurement and mean scaled estimate, 0.25 W; Table 18.7; reset 0 -/
  meas    : Nat := 0
  est     : Nat := 0
  /-- divergence run with the sums E and M; R429; reset 0 -/
  runLen  : Nat := 0
  runE    : Nat := 0
  runM    : Nat := 0
  /-- divergence hold: intervals left and held budget; R429; reset none -/
  hold    : Option (Nat × Nat) := none
  /-- SENSOR_SUSPECT and its clear run; R430; reset false -/
  suspect : Bool := false
  clearRun : Nat := 0
  /-- thermal throttle in force, sixteenths taken off, release run; R436; reset 0 -/
  thermal : Bool := false
  cut     : Nat := 0
  /-- THERMAL_WARN has been logged for the present crossing of 95 degC; Table 18.9; reset false -/
  warned  : Bool := false
  /-- run of slow intervals in which the release condition has held; R436; reset 0 -/
  coolRun : Nat := 0
  /-- PART_HOLD and the run of intervals over budget at the floor; R431; reset 0 -/
  partHold : Bool := false
  overRun : Nat := 0
  /-- fabric time at the end of the last fast-loop window and kettle time at the end of the last slow interval; R426, R427; reset 0 -/
  fastAt  : Nat := 0
  slowAt  : Nat := 0
  /-- a cause of R432 has been present and the top step has not returned; R432; reset false -/
  short   : Bool := false
  /-- WE_EVENTS: DROOPS 16, DIVERGENCES 16, HELD_INTERVALS 32 bits; Table 18.8; reset 0 -/
  droops  : Nat := 0
  diverge : Nat := 0
  heldInt : Nat := 0
deriving DecidableEq, Repr

/-- Stages of the main-power sequence (Tables 21.6, 21.7): off; waiting at kettle cycle 0; rails up and held at S; up; stopped
until power is removed. -/
inductive PowerStage where
  | off | waiting | held | up | stopped
deriving DecidableEq, Repr

/-- Power, clocks, the weir and the safety partition. -/
structure Pow where
  /-- J20 inputs, 1 bit each; R488; reset undriven: PWR_EN 0, RESET_N 0, TRAY_CAP_LOWER 1, AUX_12V 0, REFCLK 0 -/
  pwrEn   : Bool := false
  resetN  : Bool := false
  capLower : Bool := true
  aux     : Bool := false
  refclk  : Bool := false
  /-- main input within 44-58 V; R495; reset false -/
  mainOk  : Bool := false
  /-- input protection has connected the main input; R492; reset false -/
  connected : Bool := false
  /-- Table 21.6; reset off -/
  stage   : PowerStage := .off
  /-- PWRGD; R488; reset 0 -/
  pwrgd   : Bool := false
  /-- kettle time at which PWRGD fell last; R500; reset none -/
  fellAt  : Option Nat := none
  /-- what Byolo and training find at the power-up under way: sockets whose module is another one (its serial number) or is missing,
  of another part number or not training (none), and links that fail to train; R456, R503; reset none -/
  sockets : List (Nat × Option Nat) := []
  deadLinks : List Nat := []
  /-- lanes that self-test finds failing, and starts that fail by component, at that power-up; R290, R474; reset none -/
  lanes   : List LaneFinding := []
  badStarts : List (Nat × Nat) := []
  /-- ALERT_N and THERMTRIP_N asserted; R488; reset false -/
  alert   : Bool := false
  thermtrip : Bool := false
  /-- CEILING_W; Table 20.14; reset 7,500 -/
  ceiling : Nat := 7500
  /-- FUSE_FLOOR_W and FUSE_MAX_W; Table 20.14; reset 2,500 and 7,500 -/
  fuseFloor : Nat := 2500
  fuseMax : Nat := 7500
  /-- SP_ID; Table 20.13; reset DESIGN CHOICE 0, log 4 -/
  spId    : Nat := 0
  /-- SP_STATUS bits 8:0; Table 20.15; reset 0 -/
  spStatus : BitVec 9 := 0
  /-- SP_INPUT_POWER: INPUT_W, PEAK_W, ENFORCEMENTS, 16 bits each; Table 20.16; reset 0 -/
  inputW  : Nat := 0
  peakW   : Nat := 0
  enforcements : Nat := 0
  /-- SP_TRIP: CAUSE, SOURCE, READING; Table 20.18; reset 0 -/
  tripCause : Nat := 0
  tripSource : Nat := 0
  tripReading : Nat := 0
  /-- consecutive kettle cycles with the input above 105 % of the ceiling, and at or below the ceiling; R438; reset 0 -/
  overRun : Nat := 0
  underRun : Nat := 0
  /-- kettle cycles of enforcement; R438; reset 0 -/
  enfRun  : Nat := 0
  /-- fast clocks stopped; R437; reset false -/
  clocksOff : Bool := false
  /-- WE_CAP.CAP_W; Table 18.5; reset 2,500 -/
  capW    : Nat := 2500
  /-- WE_CAP.EFFECTIVE_W; Table 18.5; reset 2,500 -/
  effW    : Nat := 2500
  /-- power domains 0-14; Table 18.3 -/
  doms    : List (Nat × Domain) := []
  /-- dormant, and the conditions' kettle cycles held; R420; reset false, 0 -/
  dormant : Bool := false
  dormantRun : Nat := 0
  /-- bytes of the last SP_ or WE_ register read by Jormon or Byolo -/
  rdata   : Word := 0
deriving DecidableEq, Repr

/-- A log record (Table 20.6) without its sequence number. -/
structure LogRec where
  type   : Nat
  attach : Nat
  sev    : Nat
  ctx    : Nat
  boot   : Nat
  data   : Bytes
deriving DecidableEq, Repr

/-- A firmware component: active slot, images in slots 0 and 1 (version, svn, digest; none is the image it was delivered with),
VALID flags (R469, R473, R474). -/
structure Component where
  active  : Nat := 0
  image0  : Option (Word × Nat × Nat) := none
  image1  : Option (Word × Nat × Nat) := none
  valid0  : Bool := true
  valid1  : Bool := true
  /-- whether the image in slot 0, 1 passes key, signature and digest of R473 -/
  ok0     : Bool := true
  ok1     : Bool := true
  /-- start attempts; R469, R474; reset 0 -/
  attempts : Nat := 0
  /-- the other slot takes effect at the next L3 or power-up; R475; reset false -/
  later   : Bool := false
deriving DecidableEq, Repr

/-- An open PLDM update (R467, R475): who opened it, the components written and verified. -/
structure Update where
  who      : Requester
  written  : List Image := []
  verified : List Nat := []
deriving DecidableEq, Repr

/-- Byolo and what it keeps. -/
structure Mgmt where
  /-- Byolo runs; R465; reset false (no AUX_12V) -/
  running : Bool := false
  /-- Byolo has used up its restarts and stays stopped; R465; reset false -/
  failed  : Bool := false
  /-- kettle times of restarts; R465; reset empty -/
  restarts : List Nat := []
  /-- kettle time of the restart under way, its cause, and whether it takes the other image slot; R465; reset none -/
  restarting : Option (Nat × Nat × Bool) := none
  /-- the log ring: number and record, oldest first, 65,536 kept; R471; reset empty -/
  log     : List (Nat × LogRec) := []
  /-- next log sequence number; R471; reset 1 -/
  nextLog : Nat := 1
  /-- end of the reservation in flash; R471; reset DESIGN CHOICE 1 (nothing reserved), log 4 -/
  resvEnd : Nat := 1
  /-- records Jormon keeps while Byolo restarts, and records dropped; R465; reset 0 -/
  kept    : List LogRec := []
  dropped : Nat := 0
  /-- power-up count, 16 bits; R471; reset 0 -/
  boot    : Nat := 0
  /-- SERVICE_REASON bits 7:0; R468; reset 0 -/
  service : BitVec 8 := 0
  /-- PlatformEventMessages sent; R468 -/
  events  : Nat := 0
  /-- last sensor readings by sensor ID; none is unavailable; R468; reset unlisted 0 -/
  sensors : List (Nat × Option Int) := []
  /-- components 1 Jormon, 2 Byolo, 3 loader; R473 -/
  comps   : List (Nat × Component) := []
  /-- open update; R467; reset none -/
  update  : Option Update := none
  /-- fuse count F, 0-64; R476; reset 0 -/
  fuse    : Nat := 0
  /-- kettle time since which every component has run its image with no Byolo restart and no L3; R476; reset 0 -/
  stableAt : Nat := 0
  /-- HG_FW_VERSION in force; Table 14.4; reset DESIGN CHOICE 0, log 4 -/
  fwVersion : Word := 0
  /-- a live Jormon update hands over from that version; R477; reset none -/
  fwOld   : Option Word := none
  /-- digest of that version's image; R479; reset 0 (no update is open) -/
  fwOldDigest : Nat := 0
  /-- loader version per engine that has taken the newest loader; R475; reset none -/
  loaderOn : List Nat := []
  /-- layout record in force, 4,096 bytes; R483; reset the factory defaults (Table 20.19) -/
  record  : Mem := [(0, 0x52), (1, 0x4C), (2, 0x51), (3, 0x4B), (4, 1), (12, 160), (13, 169), (14, 143), (15, 222), (20, 0xC4),
    (21, 0x09), (24, 0xFF), (32, 1), (41, 4)]
  /-- generation of the record in force, 32 bits; HG_LAYOUT_GEN; reset 0 -/
  layoutGen : Nat := 0
  /-- the copies in flash: record bytes and generation on devices 0 and 1; R469, R483; reset none readable -/
  copy0   : Option Mem := none
  copy1   : Option Mem := none
  /-- kettle cycle of Byolo's last period mark; R395; reset 0 -/
  lastMark : Nat := 0
  /-- LAYOUT_DEFAULTED; Table 14.6; reset true (no copy is readable) -/
  defaulted : Bool := true
  /-- SPLIT in force since power-up; R335; reset 0 -/
  split   : Nat := 0
  /-- HG_SERIAL, 64 bits, and HG_ID.STEPPING, 8 bits; Table 14.4; reset DESIGN CHOICE 0, log 4 -/
  serial  : Word := 0
  stepping : Nat := 0
  /-- dump sequence, 32 bits; R472; reset 0 -/
  dumpSeq : Nat := 0
  /-- flash dump summaries: sequence by slot 0, 1; R462; reset none -/
  summ    : List (Nat × Bytes) := []
  /-- swaps and fenced units recorded in management flash: kind, logical, physical out, physical in; R461 -/
  swaps   : List (Nat × Nat × Nat × Nat) := []
  fencedUnits : List (Nat × Nat) := []
  /-- Jormon cores lost: 5 * headgate + core; R459; reset none -/
  jorLost : List Nat := []
  /-- logical core that the spare Jormon core serves, by headgate; R10, R459; reset none -/
  jorSpare : List (Nat × Nat) := []
  /-- SPDM: a version and algorithms have been negotiated by the requester; R466; reset 0 -/
  spdm    : List (Nat × Nat) := []
  /-- the last reply to a management request: status or completion code, and bytes -/
  replyCode : Nat := 0
  reply   : Bytes := []
  /-- coolant back within rating for kettle cycles; R435; reset 0 -/
  coolRun : Option Nat := none
  /-- kettle times of L3, an L3 under way since, L3 held at step 4, device resets since power-up; R454, R455, R499 -/
  l3s     : List Nat := []
  l3Since : Option Nat := none
  l3Held  : Bool := false
  resets  : Nat := 0
  /-- an L4 has been called for; R456; reset false -/
  l4      : Bool := false
deriving DecidableEq, Repr

/-- A CPU die: what its cores share. -/
structure CpuDie where
  /-- server-core cycles in eightieths since the ways' counts were halved; R107, R322, R415; reset 0 -/
  cyc      : Nat := 0
  /-- check failures of the ways of the L3, by way, and its disabled ways; R322; reset none -/
  wayFails : List (Nat × Nat) := []
  wayOff   : List Nat := []
deriving DecidableEq, Repr

/-- The data path and Jormon. -/
structure Dev where
  /-- READY: Jormon takes messages; Table 14.6; reset false -/
  ready    : Bool := false
  /-- logical engines by 5 * terrace + engine, 0-39; R9; reset every engine at its default -/
  eng      : List (Nat × Engine) := []
  /-- logical clusters by 20 * engine + cluster, 0-799; R9; reset every cluster at its default -/
  cl       : List (Nat × Cluster) := []
  /-- terraces 0-7; R9; reset every terrace at its default -/
  terr     : List (Nat × Terrace) := []
  /-- parts by the model's number, and the next number; R13; reset none, 1 -/
  parts    : List (Nat × Part) := []
  nextUid  : Nat := 1
  /-- contexts by number, 0-4095; R365; reset none -/
  ctxs     : List (Nat × Ctx) := []
  /-- 4-bit generations of context numbers, kept across lives; R367; reset DESIGN CHOICE 15 (the first life is 0), log 4 -/
  gens     : List (Nat × Nat) := []
  /-- mailbox of a context that has ended, by number, with its home: it holds the last replies until the number is reused
  (R375 step 5); reset none -/
  ghosts   : List (Nat × (Nat × Mailbox)) := []
  /-- fabric time of the last halving of the contexts' usage; R368; reset 0 -/
  halvedAt : Nat := 0
  /-- gates held, by number; R162, R366; reset none -/
  gates    : List (Nat × Gate) := []
  /-- partitions 0-7; R359; reset every partition at its default -/
  partns   : List (Nat × Partn) := []
  /-- culvert windows by number (Table 10.4); R16, R261; reset unconfigured -/
  windows  : List (Nat × Window) := []
  /-- attachments 0-7; R334; reset every attachment at its default -/
  atts     : List (Nat × Att) := []
  /-- Ethernet ports 0-3; R402; reset every port at its default -/
  eports   : List (Nat × EPort) := []
  /-- queue pairs by number, and the next number; R406; reset none, 1 -/
  qps      : List (Nat × Qp) := []
  nextQp   : Nat := 1
  /-- server cores 0-95; R18; reset every core at its default -/
  cores    : List (Nat × Core) := []
  /-- spare server cores used by die; R25; reset 0 -/
  spareCores : List (Nat × Nat) := []
  /-- CPU dies 0 and 1; R321, R322; reset every die at its default -/
  cpus     : List (Nat × CpuDie) := []
  /-- HBM stacks 0-23; R278; reset every stack at its default -/
  hbm      : List (Nat × Stack) := []
  /-- caddy channels by 13 * group + channel, 0-51; R293; reset every channel at its default -/
  chans    : List (Nat × Chan) := []
  /-- stripe buffers: stripes gathering writes by headgate * 2^32 + stripe, with the lines written; R296 -/
  stripes  : List (Nat × List Nat) := []
  /-- die-to-die links 0-49 in the order of Table 12.1; R304; reset every link at its default -/
  links    : List (Nat × Link) := []
  /-- shared ports; R312; reset every port at its default -/
  ports    : List (Nat × APort) := []
  /-- the last fabric cycle in which some requester found a pending queue full; R317; reset none -/
  fullAt   : Option Nat := none
  /-- the device statistics block; R394; reset 0 -/
  stats    : Stats := {}
  /-- infuser chunk rounds since a sink chunk, by headgate; R217 -/
  sinceSink : List (Nat × Nat) := []
  /-- round-robin pointer over partitions by headgate; R217 -/
  infPtr   : List (Nat × Nat) := []
  /-- orders issued to rises, dispatches and bindings -/
  serial   : Nat := 1
  /-- registrations of objects -/
  nextReg  : Nat := 1
  /-- free values used so far: the model's own field, log 5; DESIGN CHOICE 0 -/
  free     : Nat := 0
deriving DecidableEq, Repr

/-- Device memory. -/
structure Memory where
  /-- bytes by physical address; an unlisted byte reads as zero (R496) -/
  bytes    : List Host.Cell := []
  /-- poisoned bytes by line (R284, R300); reset none -/
  poison   : List (Nat × BitVec 128) := []
  /-- writes on their way to their homes, in issue order (R135, R250); reset none -/
  flight   : List LineWrite := []
  nextId   : Nat := 1
deriving DecidableEq, Repr

/-- Elapsed time: the model's count, log 2. -/
structure Time where
  /-- fabric cycles (0.5 ns) since the always-on supply came -/
  fabric : Nat := 0
  /-- the fabric time at which the CPU dies' time counters were last started from zero; R330; reset 0 -/
  cpuStart : Nat := 0
deriving DecidableEq, Repr

/-- The machine. -/
structure State where
  /-- the commands that wait, first in first out: the model's own field, log 1; reset empty -/
  pending : List Instr := []
  /-- elapsed time: the model's own field, log 2 -/
  time    : Time := {}
  /-- device memory: HBM and caddy -/
  mem     : Memory := {}
  /-- power, clocks, the weir and the safety partition -/
  pow     : Pow := {}
  /-- Byolo, what management flash keeps, recovery levels -/
  mgmt    : Mgmt := {}
  /-- the data path, Jormon, server cores, attachments and network ports -/
  dev     : Dev := {}
deriving DecidableEq, Repr

/-- The module before anything is supplied (R488: undriven inputs); every register at its reset value. -/
def State.reset : State := {}

/-- Why the machine stops with a fault. No command raises one (every row's effect is given by the spec); the one
constructor stands for what R2 excludes, operation outside the ratings, of which no row tells the model. Safe: a
fault is a stop. -/
inductive Fault where
  | outsideRatings
deriving DecidableEq, Repr

/-- Why a command has no meaning. notModelled is raised by an arm of exec whose command has none yet; safe. -/
inductive Refusal where
  | notModelled (mnemonic : String)
deriving DecidableEq, Repr

end Sys2Proof.Machine
end

