-- ==== Sys2Proof/Machine/Map.lean ====
section
/-!
DEFINITION. Tables and bytes: the operations on sparse lists that everything else is built from.
-/

namespace Sys2Proof

/-- The entry of a number, if it is listed. -/
def Map.find {α : Type} (m : List (Nat × α)) (k : Nat) : Option α :=
  match m with
  | [] => none
  | (k', v) :: t => if k' = k then some v else Map.find t k

/-- The entry of a number, or the value that unlisted numbers have. -/
def Map.get {α : Type} (m : List (Nat × α)) (k : Nat) (d : α) : α := (Map.find m k).getD d

/-- Sets the entry of a number, keeping the numbers rising. -/
def Map.put {α : Type} (m : List (Nat × α)) (k : Nat) (v : α) : List (Nat × α) :=
  match m with
  | [] => [(k, v)]
  | (k', v') :: t =>
    if k < k' then (k, v) :: (k', v') :: t
    else if k = k' then (k, v) :: t
    else (k', v') :: Map.put t k v

/-- Removes the entry of a number. -/
def Map.del {α : Type} (m : List (Nat × α)) (k : Nat) : List (Nat × α) :=
  m.filter (fun e => e.1 ≠ k)

/-- Changes the entry of a number, if it is listed. -/
def Map.mod {α : Type} (m : List (Nat × α)) (k : Nat) (f : α → α) : List (Nat × α) :=
  match m with
  | [] => []
  | (k', v) :: t => if k' = k then (k', f v) :: t else (k', v) :: Map.mod t k f

/-- Adds to a count that is zero when unlisted, holding at a maximum. -/
def Map.addSat (m : List (Nat × Nat)) (k n max : Nat) : List (Nat × Nat) :=
  if n = 0 then m else Map.put m k (min max (Map.get m k 0 + n))

/-- Adds the marked bytes of a line to those on record. -/
def addMask (m : List (Nat × BitVec 128)) (line : Nat) (mask : BitVec 128) : List (Nat × BitVec 128) :=
  Map.put m line (Map.get m line 0 ||| mask)

/-- The sum of the sizes in a table. -/
def sizeSum (m : List (Nat × Nat)) : Nat := (m.map fun x => x.2).sum

/-- The largest 64-bit number, where counters stay (R52, R394). -/
def max64 : Nat := 2 ^ 64 - 1

/-- A byte of sparse memory: zero where nothing is listed. -/
def Mem.get (m : Mem) (a : Nat) : Byte := Map.get m a 0

/-- Writes a byte, keeping the canonical form: rising addresses, no listed zero. -/
def Mem.set (m : Mem) (a : Nat) (b : Byte) : Mem :=
  if b = 0 then Map.del m a else Map.put m a b

/-- Canonical form of sparse bytes: rising addresses, no listed zero. -/
def Mem.wf (m : Mem) : Bool :=
  match m with
  | [] => true
  | (a, b) :: t => b ≠ 0 && (t.all fun e => a < e.1) && Mem.wf t

/-- n bytes from an address. -/
def Mem.read (m : Mem) (a n : Nat) : Bytes := (List.range n).map fun i => Mem.get m (a + i)

/-- Writes bytes from an address on. -/
def Mem.write (m : Mem) (a : Nat) (bs : Bytes) : Mem :=
  match bs with
  | [] => m
  | b :: t => Mem.write (Mem.set m a b) (a + 1) t

/-- Zeroes n bytes from an address on. -/
def Mem.zero (m : Mem) (a n : Nat) : Mem := m.filter fun e => ¬ (a ≤ e.1 ∧ e.1 < a + n)

/-- The listed bytes of n addresses from a, moved to start at b. -/
def Mem.slice (m : Mem) (a n b : Nat) : Mem :=
  (m.filter fun e => a ≤ e.1 ∧ e.1 < a + n).map fun e => (e.1 - a + b, e.2)

/-- Little-endian number of some bytes (R3). -/
def leNat (bs : Bytes) : Nat :=
  match bs with
  | [] => 0
  | b :: t => b.toNat + 256 * leNat t

/-- n little-endian bytes of a number (R3). -/
def leBytes (n v : Nat) : Bytes :=
  match n with
  | 0 => []
  | n + 1 => BitVec.ofNat 8 v :: leBytes n (v / 256)

/-- A little-endian number of n bytes in sparse memory. -/
def Mem.le (m : Mem) (a n : Nat) : Nat := leNat (Mem.read m a n)

/-- A little-endian number of n bytes at an offset of a byte list; bytes past its end read as zero. -/
def field (bs : Bytes) (off n : Nat) : Nat :=
  leNat ((List.range n).map fun i => bs.getD (off + i) 0)

/-- Whether the bytes off to off + n - 1 are all zero. -/
def zeros (bs : Bytes) (off n : Nat) : Bool :=
  (List.range n).all fun i => bs.getD (off + i) 0 = 0

/-- Bits hi to lo of a number. -/
def bits (v hi lo : Nat) : Nat := (v >>> lo) % 2 ^ (hi + 1 - lo)

/-- Bit i of a number. -/
def bit (v i : Nat) : Bool := v.testBit i

/-- A number read as two's complement of w bits. -/
def signed (w v : Nat) : Int :=
  let u := v % 2 ^ w
  if 2 * u < 2 ^ w then u else (u : Int) - 2 ^ w

/-- The w-bit two's-complement code of an integer. -/
def code (w : Nat) (v : Int) : Nat := (v % (2 ^ w : Int)).toNat

/-- The number of bits of the binary form (R58): 0 for 0. -/
def bitlen (n : Nat) : Nat := if n = 0 then 0 else n.log2 + 1

/-- Rounding up of a quotient. -/
def ceilDiv (a b : Nat) : Nat := (a + b - 1) / b

/-- The list with its i-th element replaced. -/
def setAt {α : Type} (l : List α) (i : Nat) (v : α) : List α :=
  match l, i with
  | [], _ => []
  | _ :: t, 0 => v :: t
  | h :: t, i + 1 => h :: setAt t i v

/-- Repeats a step over a list from the left. -/
def forEach {α σ : Type} (l : List α) (s : σ) (f : α → σ → σ) : σ := l.foldl (fun s a => f a s) s

/-- Whether a list of numbers holds a number. -/
def has (l : List Nat) (n : Nat) : Bool := l.any fun m => m = n

/-- Adds a number to a list that holds each once. -/
def addOnce (l : List Nat) (n : Nat) : List Nat := if has l n then l else l ++ [n]

/-- Bytes from off on, n of them, of a list, missing ones as zero. -/
def sub (bs : Bytes) (off n : Nat) : Bytes := (List.range n).map fun i => bs.getD (off + i) 0

/-- A step of CRC-32C (R379): one bit of the reflected Castagnoli polynomial. -/
def crcBit (c : Nat) : Nat := if c % 2 = 1 then (c / 2) ^^^ 0x82F63B78 else c / 2

/-- Eight steps: one byte. -/
def crcByte (c : Nat) : Nat := crcBit (crcBit (crcBit (crcBit (crcBit (crcBit (crcBit (crcBit c)))))))

/-- CRC-32C of bytes, from a running value. Both cases of the match are the same: it has the kernel evaluate the value byte by byte. -/
def crcRun (bs : Bytes) (c : Nat) : Nat :=
  match bs with
  | [] => c
  | b :: t => match crcByte (c ^^^ b.toNat) with | 0 => crcRun t 0 | n + 1 => crcRun t (n + 1)

/-- CRC-32C (R379): initial value and final XOR of all ones. -/
def crc32c (bs : Bytes) : Nat := crcRun bs 0xFFFFFFFF ^^^ 0xFFFFFFFF

end Sys2Proof
end

