-- ==== Sys2Proof/Machine/Kq.lean ====
section
/-!
DEFINITION. The KQ formats: elements, scales, poison and conversion (R27 to R53).
-/

namespace Sys2Proof

/-- Bits of an element of a format (Table 2.1); 128 for KA96. -/
def fmtBits (f : Nat) : Nat :=
  match f with
  | 0 => 2 | 1 => 4 | 2 => 6 | 3 => 8 | 4 => 8 | 5 => 12 | 6 => 16 | 7 => 16 | 8 => 24 | 9 => 32 | _ => 128

/-- Elements of a block of a block format (Table 2.1); 0 for a line, tensor or element scale. -/
def fmtBlock (f : Nat) : Nat :=
  match f with
  | 0 => 64 | 1 => 32 | 2 => 32 | 3 => 32 | 5 => 16 | 6 => 16 | 8 => 8 | _ => 0

/-- Whether the format is KQ8L or KQ16L (R35). -/
def fmtLine (f : Nat) : Bool := f = 4 || f = 7

/-- Whether a format code is one of Table 2.1 (R29). -/
def fmtOk (f : Nat) : Bool := f ≤ 10

/-- Largest element magnitude (Qmax). -/
def qmax (f : Nat) : Nat := 2 ^ (fmtBits f - 1) - 1

/-- Elements of a packing group, and its bytes (Table 2.1). -/
def fmtPack (f : Nat) : Nat × Nat :=
  match f with
  | 0 => (4, 1) | 1 => (2, 1) | 2 => (4, 3) | 3 => (1, 1) | 4 => (1, 1) | 5 => (2, 3) | 6 => (1, 2) | 7 => (1, 2)
  | 8 => (1, 3) | 9 => (1, 4) | _ => (1, 16)

/-- Bytes of a line of n elements in the element plane (R31, R32). -/
def lineBytes (f n : Nat) : Nat := ceilDiv n (fmtPack f).1 * (fmtPack f).2

/-- Scale groups of a line of n elements: blocks, or one for a line format; KQ32 and KA96 have none of their own. -/
def lineScales (f n : Nat) : Nat :=
  if fmtBlock f ≠ 0 then ceilDiv n (fmtBlock f) else if fmtLine f then 1 else 0

/-- An exact value m * 2^e (R27, R37), with STICKY and poison. -/
structure Num where
  m      : Int
  e      : Int := 0
  sticky : Bool := false
  poison : Bool := false
deriving DecidableEq, Repr

/-- What an attempt counts (R52, R71) and the draws it takes (R48). -/
structure Cnt where
  viol  : Nat := 0
  sat   : Nat := 0
  clamp : Nat := 0
  pois  : Nat := 0
  trunc : Nat := 0
  stick : Nat := 0
  draws : Nat := 0
deriving DecidableEq, Repr

/-- Sum of two counts. -/
def Cnt.add (a b : Cnt) : Cnt :=
  { viol := a.viol + b.viol, sat := a.sat + b.sat, clamp := a.clamp + b.clamp, pois := a.pois + b.pois,
    trunc := a.trunc + b.trunc, stick := a.stick + b.stick, draws := a.draws + b.draws }

/-- The counts by index of the context's statistics block (Table 16.9). -/
def Cnt.toMap (c : Cnt) : List (Nat × Nat) :=
  [(4, c.viol), (5, c.sat), (6, c.clamp), (7, c.pois), (8, c.trunc), (9, c.stick)]

/-- Code of element i of a line, from the line's bytes (R31): elements of w bits, lowest first. -/
def elemCode (f : Nat) (byte : Nat → Byte) (i : Nat) : Nat :=
  let w := fmtBits f
  (leNat ((List.range 5).map fun k => byte (i * w / 8 + k)) >>> (i * w % 8)) % 2 ^ w

/-- An element code as a number: an excluded code reads as zero (R30). -/
def codeValue (f c : Nat) : Int := if c = 2 ^ (fmtBits f - 1) then 0 else signed (fmtBits f) c

/-- A field of w bits as a number: its excluded code reads as zero (R30, R37). -/
def codeNum (w c : Nat) : Int := if c = 2 ^ (w - 1) then 0 else signed w c

/-- An E8 as an exponent (R28): none is the poison code 0x80. -/
def e8 (b : Byte) : Option Int := if b = 0x80#8 then none else some b.toInt

/-- Reads a KA96 element (R37, R38, R40): an excluded A or w reads as zero and counts, each of the two; the STICKY of such an element is
left out (DESIGN CHOICE, log 54). -/
def readKa96 (byte : Nat → Byte) (off : Nat) : Num × Cnt :=
  let a := leNat ((List.range 12).map fun k => byte (off + k))
  let w := leNat ((List.range 2).map fun k => byte (off + 12 + k))
  let fl := (byte (off + 14)).toNat
  if bit fl 1 then ({ m := 0, poison := true }, { pois := 1 })
  else
    let badA := a = 2 ^ 95
    let badW := w = 2 ^ 15
    let n := (if badA then 1 else 0) + (if badW then 1 else 0)
    if badA ∨ badW then ({ m := 0 }, { viol := n })
    else ({ m := signed 96 a, e := signed 16 w, sticky := bit fl 0 }, {})

/-- Reads one scale group: elements lo to lo + n - 1 under one E8 (R40, R30); a poisoned group is not examined. -/
def readGroup (f : Nat) (byte : Nat → Byte) (scale : Byte) (lo n : Nat) : List Num × Cnt :=
  match e8 scale with
  | none => ((List.range n).map fun _ => { m := 0, poison := true }, { pois := 1 })
  | some e =>
    let cs := (List.range n).map fun i => elemCode f byte (lo + i)
    (cs.map fun c => { m := codeValue f c, e := e },
     { viol := (cs.filter fun c => c = 2 ^ (fmtBits f - 1)).length })

/-- Reads a line of n elements: its bytes, and the E8 of each of its groups (R31 to R36, R53). -/
def readLine (f n : Nat) (byte scale : Nat → Byte) : List Num × Cnt :=
  if f = 10 then
    (List.range n).foldl (fun (r : List Num × Cnt) i =>
      let x := readKa96 byte (16 * i)
      (r.1 ++ [x.1], r.2.add x.2)) ([], {})
  else if fmtBlock f = 0 then readGroup f byte (scale 0) 0 n
  else
    (List.range (ceilDiv n (fmtBlock f))).foldl (fun (r : List Num × Cnt) b =>
      let lo := b * fmtBlock f
      let x := readGroup f byte (scale b) lo (min (fmtBlock f) (n - lo))
      (r.1 ++ x.1, r.2.add x.2)) ([], {})

/-- The smallest k with a <= q * 2^k, for a and q positive (R44). -/
def fitExp (a q : Nat) : Int :=
  let k : Int := (bitlen a : Int) - bitlen q
  let ok : Bool := if 0 ≤ k then a ≤ q * 2 ^ k.toNat else a * 2 ^ (-k).toNat ≤ q
  if ok then k else k + 1

/-- The unclamped fitted exponent of a value; none for zero. -/
def fitNum (f : Nat) (x : Num) : Option Int :=
  if x.m = 0 then none else some (x.e + fitExp x.m.natAbs (qmax f))

/-- The larger of two fitted exponents. -/
def maxOpt (a b : Option Int) : Option Int :=
  match a, b with
  | none, b => b
  | a, none => a
  | some a, some b => some (max a b)

/-- The fitted exponent of a group and the number of clamps (R44). -/
def fitGroup (f : Nat) (xs : List Num) : Int × Nat :=
  match xs.foldl (fun r x => maxOpt r (fitNum f x)) none with
  | none => (0, 0)
  | some e => if 127 < e then (127, 1) else if e < -127 then (-127, 1) else (e, 0)

/-- Rounds m / 2^d (R46, R66): mode 0 nearest-even, 1 toward zero, 2 stochastic with the draw u. -/
def roundShift (mode : Nat) (m : Int) (d : Nat) (sticky : Bool) (u : Nat) : Int :=
  let n := m / (2 ^ d : Int)
  let r := (m % (2 ^ d : Int)).toNat
  match mode with
  | 0 =>
    if 2 * r < 2 ^ d then n
    else if 2 ^ d < 2 * r then n + 1
    else if sticky then n + 1
    else if n % 2 = 0 then n else n + 1
  | 1 => if m < 0 ∧ r ≠ 0 then n + 1 else n
  | _ => if u < r * 2 ^ 24 / 2 ^ d then n + 1 else n

/-- Rounds v / 2^E (R46). -/
def roundNum (mode : Nat) (x : Num) (e : Int) (u : Nat) : Int :=
  if e ≤ x.e then x.m * 2 ^ (x.e - e).toNat else roundShift mode x.m (e - x.e).toNat x.sticky u

/-- Holds a rounded integer within the range of the format (R47); the flag says that it saturated. -/
def clip (f : Nat) (n : Int) : Int × Bool :=
  let q : Int := qmax f
  if q < n then (q, true) else if n < -q then (-q, true) else (n, false)

/-- Converts elements to codes at a given exponent (R46 to R48): integers, counts; draws numbered from fr. -/
def roundGroup (f mode : Nat) (e : Int) (xs : List Num) (fr : Nat) : List Int × Cnt :=
  match xs with
  | [] => ([], {})
  | x :: t =>
    let st := mode = 2
    let r := clip f (roundNum mode x e (if st then (Config.draw fr).toNat else 0))
    let rest := roundGroup f mode e t (if st then fr + 1 else fr)
    (r.1 :: rest.1,
     ({ sat := if r.2 then 1 else 0, stick := if x.sticky then 1 else 0, draws := if st then 1 else 0 } : Cnt).add rest.2)

/-- A conversion control (Table 2.4): rounding mode, whether pinned, and the pinned E8. -/
structure Conv where
  mode   : Nat
  pinned : Bool
  pe     : Byte
deriving DecidableEq, Repr

/-- The conversion control of two bytes. -/
def Conv.of (c : Nat) : Conv := { mode := c % 4, pinned := bit c 2, pe := BitVec.ofNat 8 (c / 256) }

/-- Whether the device takes a conversion control for an output format (R43, R49); into KA96 it is ignored. -/
def convOk (f c : Nat) : Bool :=
  f = 10 || (c % 4 ≠ 3 && bits c 7 3 = 0 && !(bit c 2 && c / 256 % 256 = 0x80) && (f ≠ 9 || bit c 2))

/-- Converts one output scale group (R41, R44 to R47): E8, integers, counts. -/
def convGroup (f : Nat) (c : Conv) (xs : List Num) (fr : Nat) : Byte × List Int × Cnt :=
  if xs.any (fun x => x.poison) then (0x80, xs.map fun _ => 0, {})
  else
    let fe : Int × Nat := if c.pinned then (c.pe.toInt, 0) else fitGroup f xs
    let r := roundGroup f c.mode fe.1 xs fr
    (BitVec.ofInt 8 fe.1, r.1, r.2.add { clamp := fe.2 })

/-- Splits a list into pieces of n, n at least 1. -/
def chunks {α : Type} (fuel n : Nat) (l : List α) : List (List α) :=
  match fuel with
  | 0 => []
  | fuel + 1 => if l.isEmpty then [] else l.take n :: chunks fuel n (l.drop n)

/-- Packs integers into the element plane (R31, R32): w bits each, lowest first, padding zero. -/
def packCodes (f : Nat) (qs : List Int) : Bytes :=
  (chunks qs.length (fmtPack f).1 qs).flatMap fun g =>
    leBytes (fmtPack f).2 ((g.reverse.foldl (fun acc q => acc * 2 ^ fmtBits f + code (fmtBits f) q) 0))

/-- The 16 bytes of a KA96 element as it is written (R37, R38, R41, R50). -/
def ka96Bytes (x : Num) : Bytes :=
  if x.poison then leBytes 14 0 ++ [2, 0]
  else leBytes 12 (code 96 x.m) ++ leBytes 2 (code 16 x.e) ++ [if x.sticky then 1 else 0, 0]

/-- Writes a line: element bytes, scale bytes of its groups, counts, whether it drew on poison. For KQ32 the scale
byte is not written here (R49) and a line that drew on poison is written as zero. -/
def writeLine (f : Nat) (c : Conv) (xs : List Num) (fr : Nat) : Bytes × Bytes × Cnt :=
  if f = 10 then
    (xs.flatMap ka96Bytes, [], { stick := (xs.filter fun x => x.sticky && !x.poison).length })
  else
    let n := if fmtBlock f = 0 then xs.length else fmtBlock f
    let r := (chunks xs.length n xs).foldl
      (fun (r : List Int × Bytes × Cnt) g =>
        let o := convGroup f c g (fr + r.2.2.draws)
        (r.1 ++ o.2.1, r.2.1 ++ [o.1], r.2.2.add o.2.2)) (([] : List Int), ([] : Bytes), ({} : Cnt))
    (packCodes f r.1, if f = 9 then [] else r.2.1, r.2.2)

end Sys2Proof
end

