-- ==== Sys2Proof/Machine/Accum.lean ====
section
/-!
DEFINITION. Exact accumulation: the window accumulator, merges, contributions and the single rounding (R54 to R73).
-/

namespace Sys2Proof.Machine

/-- Whether an accumulator is saturated (R60): it ignores every later addition. R57 gives no flag for it: the model tells it by its value, so a
KA96 partial supplied with that value is saturated too (DESIGN CHOICE, log 54). -/
def Acc.full (x : Acc) : Bool := !x.empty && x.w = 32767 && x.sticky && x.a.natAbs = 2 ^ 95 - 1

/-- The upward slide of R58 and R60 from the sum v at weight w: the accumulator and the truncation events. -/
def Acc.slideUp (x : Acc) (v w : Int) : Acc × Nat :=
  if v.natAbs < 2 ^ 95 then ({ x with a := v, w := w }, 0)
  else
    let u0 := bitlen v.natAbs - 95
    let u := if (v / (2 ^ u0 : Int)).natAbs < 2 ^ 95 then u0 else u0 + 1
    if 32767 < w + u then
      ({ x with a := if 0 < v then 2 ^ 95 - 1 else -(2 ^ 95 - 1), w := 32767, sticky := true }, 1)
    else
      let lost := v % (2 ^ u : Int) ≠ 0
      ({ x with a := v / (2 ^ u : Int), w := w + u, sticky := x.sticky || lost }, if lost then 1 else 0)

/-- The placement of R58 and R60. A contribution that lies below the lowest window is truncated there, one above the highest or too large
for A slides up (log 54). -/
def Acc.place (x : Acc) (s e : Int) : Acc × Nat :=
  let x := { x with empty := false }
  if e < -32767 then
    let k := (-32767 - e).toNat
    let lost : Bool := s % (2 ^ k : Int) ≠ 0
    let r := Acc.slideUp { x with sticky := x.sticky || lost } (s / (2 ^ k : Int)) (-32767)
    (r.1, r.2 + if lost then 1 else 0)
  else if 32767 < e then Acc.slideUp x (s * 2 ^ (e - 32767).toNat) 32767
  else
    let g : Int := max 0 (min (min 40 (94 - (bitlen s.natAbs : Int))) (e + 32767))
    Acc.slideUp x (s * 2 ^ g.toNat) (e - g)

/-- add(s, e) of R58 with the bounds of R60: the accumulator and the truncation events. -/
def Acc.add (x : Acc) (s e : Int) : Acc × Nat :=
  if s = 0 ∨ x.full then (x, 0)
  else if x.empty then x.place s e
  else
    let d : Int := if e < x.w then min (min (x.w - e) (max (94 - (bitlen x.a.natAbs : Int)) 0)) (x.w + 32767) else 0
    let a := x.a * 2 ^ d.toNat
    let w := x.w - d
    let k := (w - e).toNat
    let t := if w ≤ e then s * 2 ^ (e - w).toNat else s / (2 ^ k : Int)
    let lost : Bool := e < w && s % (2 ^ k : Int) ≠ 0
    let r := Acc.slideUp { x with sticky := x.sticky || lost } (a + t) w
    (r.1, r.2 + if lost then 1 else 0)

/-- A partial as it stands (R61, R62, R69): an A of 0 leaves the accumulator EMPTY. -/
def Acc.ofNum (x : Num) : Acc :=
  { a := x.m, w := if x.m = 0 then 0 else x.e, empty := x.m = 0, sticky := x.sticky, poison := x.poison }

/-- Adds a later partial: add(A, w), and the flags are ORed (R62, R69). -/
def Acc.merge (x : Acc) (p : Num) : Acc × Nat :=
  let r := x.add p.m p.e
  ({ r.1 with sticky := r.1.sticky || p.sticky, poison := r.1.poison || p.poison }, r.2)

/-- The exact value an accumulator is rounded from (R65). -/
def Acc.num (x : Acc) : Num :=
  { m := if x.empty then 0 else x.a, e := if x.empty then 0 else x.w, sticky := x.sticky, poison := x.poison }

/-- Adds several contributions or partials in order. -/
def Acc.addAll (x : Acc) (l : List (Int × Int)) : Acc × Nat :=
  l.foldl (fun (r : Acc × Nat) c => let y := r.1.add c.1 c.2; (y.1, r.2 + y.2)) (x, 0)

/-- Merges partials in order: the first as it stands, each later one added (R62). -/
def mergeAll (l : List Num) : Acc × Nat :=
  match l with
  | [] => ({}, 0)
  | p :: t => t.foldl (fun (r : Acc × Nat) q => let y := r.1.merge q; (y.1, r.2 + y.2)) (Acc.ofNum p, 0)

/-- The limbs of an element (R55): 8 bits each, only the highest signed. -/
def limbs (f : Nat) (q : Int) : List Int :=
  let n := ceilDiv (fmtBits f) 8
  (List.range n).map fun i => if i + 1 = n then q / (2 ^ (8 * i) : Int) else q / (2 ^ (8 * i) : Int) % 256

/-- The number of limbs of a format (R55). -/
def limbCount (f : Nat) : Nat := ceilDiv (fmtBits f) 8

/-- An operand position of a dot product: the element, its group and its exponent; poisoned has no exponent. -/
structure OpElem where
  q    : Int
  e    : Option Int
  grp  : Nat
  /-- residues modulo 7 of a weight's limbs, as the array keeps them (R73) -/
  res  : List Nat := []
deriving DecidableEq, Repr

/-- Splits positions into segments (R54, R80): runs within one weight group and one activation group, of at most 32
positions, not crossing a multiple of `half`; `one` makes each position a segment (R78). -/
def segments (one : Bool) (half : Nat) (pos : Nat) (cur : List (OpElem × OpElem)) (l : List (OpElem × OpElem)) :
    List (List (OpElem × OpElem)) :=
  match l with
  | [] => if cur.isEmpty then [] else [cur.reverse]
  | x :: t =>
    match cur with
    | [] => segments one half (pos + 1) [x] t
    | y :: _ =>
      if one ∨ pos % half = 0 ∨ 32 ≤ cur.length ∨ x.1.grp ≠ y.1.grp ∨ x.2.grp ≠ y.2.grp then
        cur.reverse :: segments one half (pos + 1) [x] t
      else segments one half (pos + 1) (x :: cur) t

/-- Whether a segment draws on a poisoned group (R56). -/
def segPoison (g : List (OpElem × OpElem)) : Bool := g.any fun x => x.1.e.isNone || x.2.e.isNone

/-- The contribution of a segment for limb pair (i, j): S and e (R54, R55). -/
def contribution (wf af : Nat) (g : List (OpElem × OpElem)) (i j : Nat) : Int × Int :=
  let s := g.foldl (fun acc x => acc + (limbs wf x.1.q).getD i 0 * (limbs af x.2.q).getD j 0) 0
  match g with
  | [] => (0, 0)
  | x :: _ => (s, x.1.e.getD 0 + x.2.e.getD 0 + 8 * i + 8 * j)

/-- The contributions of one pass order (R84): weight limb outer, activation limb inner, segments in order. -/
def contributions (wf af : Nat) (gs : List (List (OpElem × OpElem))) : List (Int × Int) :=
  (List.range (limbCount wf)).flatMap fun i => (List.range (limbCount af)).flatMap fun j =>
    (gs.filter fun g => !segPoison g).map fun g => contribution wf af g i j

/-- The block-exponent spread D of the non-zero contributions (R64). -/
def spread (wf af : Nat) (gs : List (List (OpElem × OpElem))) : Nat :=
  let es := gs.filterMap fun g =>
    if (contributions wf af [g]).all (fun c => c.1 = 0) then none
    else match g with
      | [] => none
      | x :: _ => some (x.1.e.getD 0 + x.2.e.getD 0)
  match es with
  | [] => 0
  | e :: t => (t.foldl max e - t.foldl min e).toNat

/-- The number of bits of ceil(log2 k). -/
def clog2 (k : Nat) : Nat := if k ≤ 1 then 0 else bitlen (k - 1)

/-- Whether R64 holds: no bit leaves the window whatever the order. -/
def exact64 (wf af : Nat) (gs : List (List (OpElem × OpElem))) (k : Nat) : Bool :=
  spread wf af gs + fmtBits wf + fmtBits af + clog2 k ≤ 94

/-- Inserts by key, keeping the order of equal keys. -/
def insertKey {α : Type} (k : Nat) (x : α) (l : List (Nat × α)) : List (Nat × α) :=
  match l with
  | [] => [(k, x)]
  | y :: t => if k < y.1 then (k, x) :: y :: t else y :: insertKey k x t

/-- Sorts by key. -/
def sortKey {α : Type} (l : List (Nat × α)) : List α :=
  (l.foldl (fun acc x => insertKey x.1 x.2 acc) []).map fun x => x.2

/-- One output element of a GEMM (R58, R62 to R65). The device does not fix how the work is tiled and spread over
clusters: where R64 does not hold, or the accumulator itself is written, the cluster of each contribution and the
order within a cluster are free (`Config.spreadOver`, `Config.order`, by the number of the free value). -/
def dotProduct (wf af : Nat) (one : Bool) (half : Nat) (l : List (OpElem × OpElem)) (asIs : Bool) (fr : Nat) : Acc × Nat :=
  let gs := segments one half 0 [] l
  let cs := contributions wf af gs
  let r :=
    if exact64 wf af gs l.length ∧ !asIs then Acc.addAll {} cs
    else
      let keyed := (List.range cs.length).map fun i =>
        (Config.spreadOver fr i % 20 * 2 ^ 64 + (Config.order fr i).toNat, (Config.spreadOver fr i % 20, cs.getD i (0, 0)))
      let sorted := sortKey keyed
      let parts := (List.range 20).filterMap fun k =>
        let mine := (sorted.filter fun c => c.1 = k).map fun c => c.2
        if mine.isEmpty then none else some (Acc.addAll {} mine)
      let m := mergeAll (parts.map fun p => p.1.num)
      (m.1, m.2 + (parts.map fun p => p.2).sum)
  ({ r.1 with poison := r.1.poison || gs.any segPoison }, r.2)

end Sys2Proof.Machine
end

