-- ==== Sys2Proof/Machine/Ops.lean ====
section
/-!
DEFINITION. The named operations over the state: units by number, counters, the log, rings and interrupts, and the
lines of device memory at their homes.
-/

namespace Sys2Proof.Machine

/-- A command whose effect is a new state. -/
abbrev Out := Host.Outcome State Fault Refusal

/-! ### Lifts: a change of one component leaves the others as they are. -/

def State.onDev (s : State) (f : Dev → Dev) : State := { s with dev := f s.dev }
def State.onMem (s : State) (f : Memory → Memory) : State := { s with mem := f s.mem }
def State.onPow (s : State) (f : Pow → Pow) : State := { s with pow := f s.pow }
def State.onMgmt (s : State) (f : Mgmt → Mgmt) : State := { s with mgmt := f s.mgmt }

/-! ### Units by number. An unlisted unit stands at its reset value. -/

def eIdx (e : EngId) : Nat := 5 * e.t.val + e.e.val
def clIdx (c : ClId) : Nat := 20 * eIdx c.eng + c.k.val

def Dev.getEng (d : Dev) (e : Nat) : Engine := Map.get d.eng e {}
def Dev.modEng (d : Dev) (e : Nat) (f : Engine → Engine) : Dev := { d with eng := Map.put d.eng e (f (d.getEng e)) }
def Dev.getCl (d : Dev) (c : Nat) : Cluster := Map.get d.cl c {}
def Dev.setCl (d : Dev) (c : Nat) (x : Cluster) : Dev := { d with cl := Map.put d.cl c x }
def Dev.modCl (d : Dev) (c : Nat) (f : Cluster → Cluster) : Dev := d.setCl c (f (d.getCl c))
def Dev.getTerr (d : Dev) (t : Nat) : Terrace := Map.get d.terr t {}
def Dev.modTerr (d : Dev) (t : Nat) (f : Terrace → Terrace) : Dev := { d with terr := Map.put d.terr t (f (d.getTerr t)) }
def Dev.getAtt (d : Dev) (a : Nat) : Att := Map.get d.atts a {}
def Dev.modAtt (d : Dev) (a : Nat) (f : Att → Att) : Dev := { d with atts := Map.put d.atts a (f (d.getAtt a)) }
def Dev.getPt (d : Dev) (p : Nat) : Partn := Map.get d.partns p {}
def Dev.modPt (d : Dev) (p : Nat) (f : Partn → Partn) : Dev := { d with partns := Map.put d.partns p (f (d.getPt p)) }
def Dev.getCore (d : Dev) (c : Nat) : Core := Map.get d.cores c {}
def Dev.modCore (d : Dev) (c : Nat) (f : Core → Core) : Dev := { d with cores := Map.put d.cores c (f (d.getCore c)) }
def Dev.getStack (d : Dev) (n : Nat) : Stack := Map.get d.hbm n {}
def Dev.modStack (d : Dev) (n : Nat) (f : Stack → Stack) : Dev := { d with hbm := Map.put d.hbm n (f (d.getStack n)) }
def Dev.getChan (d : Dev) (n : Nat) : Chan := Map.get d.chans n {}
def Dev.modChan (d : Dev) (n : Nat) (f : Chan → Chan) : Dev := { d with chans := Map.put d.chans n (f (d.getChan n)) }
def Dev.getLink (d : Dev) (n : Nat) : Link := Map.get d.links n {}
def Dev.modLink (d : Dev) (n : Nat) (f : Link → Link) : Dev := { d with links := Map.put d.links n (f (d.getLink n)) }
def Dev.getEPort (d : Dev) (n : Nat) : EPort := Map.get d.eports n {}
def Dev.modEPort (d : Dev) (n : Nat) (f : EPort → EPort) : Dev := { d with eports := Map.put d.eports n (f (d.getEPort n)) }
def Dev.getAPort (d : Dev) (n : Nat) : APort := Map.get d.ports n {}
def Dev.modAPort (d : Dev) (n : Nat) (f : APort → APort) : Dev := { d with ports := Map.put d.ports n (f (d.getAPort n)) }
def Dev.getCtx (d : Dev) (n : Nat) : Option Ctx := Map.find d.ctxs n
def Dev.modCtx (d : Dev) (n : Nat) (f : Ctx → Ctx) : Dev := { d with ctxs := Map.mod d.ctxs n f }
def Dev.getPart (d : Dev) (u : Nat) : Option Part := Map.find d.parts u
def Dev.modPart (d : Dev) (u : Nat) (f : Part → Part) : Dev := { d with parts := Map.mod d.parts u f }
def Dev.getQp (d : Dev) (q : Nat) : Option Qp := Map.find d.qps q
def Dev.modQp (d : Dev) (q : Nat) (f : Qp → Qp) : Dev := { d with qps := Map.mod d.qps q f }
def Dev.getObj (d : Dev) (p o : Nat) : Option Obj := Map.find (d.getPt p).objs o
def Dev.modObj (d : Dev) (p o : Nat) (f : Obj → Obj) : Dev := d.modPt p fun x => { x with objs := Map.mod x.objs o f }
def Pow.getDom (w : Pow) (d : Nat) : Domain := Map.get w.doms d {}
def Pow.modDom (w : Pow) (d : Nat) (f : Domain → Domain) : Pow := { w with doms := Map.put w.doms d (f (w.getDom d)) }

/-! ### Statistics (R394): counters stay at 2^64 - 1. -/

def Stats.count (x : Stats) (k n : Nat) : Stats := { x with live := Map.addSat x.live k n max64 }
def Stats.flag (x : Stats) (b : Nat) : Stats := { x with live := Map.put x.live 0x1E (Map.get x.live 0x1E 0 ||| 2 ^ b) }
def Stats.countAll (x : Stats) (l : List (Nat × Nat)) : Stats := l.foldl (fun x c => x.count c.1 c.2) x
def Dev.countCtx (d : Dev) (n k c : Nat) : Dev := d.modCtx n fun x => { x with stats := x.stats.count k c }
def Dev.countPt (d : Dev) (p k c : Nat) : Dev := d.modPt p fun x => { x with stats := x.stats.count k c }
def Dev.count (d : Dev) (k c : Nat) : Dev := { d with stats := d.stats.count k c }

/-- Latches a statistics block (R395). -/
def Stats.latch (x : Stats) (log : Nat) : Stats := { live := [], latched := x.live, gen := x.gen + 1, log := log }

/-! ### The log (R471, R465). -/

/-- Issues the next log number; the next reservation is written once half of the present one is issued. -/
def Mgmt.takeSeq (m : Mgmt) : Mgmt :=
  let n := m.nextLog + 1
  { m with nextLog := n, resvEnd := if m.resvEnd ≤ n + 2048 then m.resvEnd + 4096 else m.resvEnd }

/-- Appends a record under the next number, keeping the newest 65,536; while Byolo does not run, Jormon keeps up to
4,096 records for it and counts those it drops. -/
def Mgmt.addLog (m : Mgmt) (r : LogRec) : Mgmt :=
  if m.running then
    let l := m.log ++ [(m.nextLog, r)]
    { m.takeSeq with log := l.drop (l.length - 65536) }
  else if m.failed then m
  else if m.kept.length < 4096 then { m with kept := m.kept ++ [r] }
  else { m with dropped := m.dropped + 1 }

/-- The number that the next record takes: after those that Jormon keeps (R465). -/
def Mgmt.logSeq (m : Mgmt) : Nat := m.nextLog + m.kept.length

/-- Logs a record (Table 20.6), with the boot count and the severity that the device gives its type. -/
def State.log (s : State) (type : Nat) (att ctx : Option Nat) (data : Bytes) : State :=
  s.onMgmt fun m => m.addLog
    { type := type, attach := match att with | some a => a | none => 0x80,
      sev := (Config.severity type).toNat, ctx := ctx.getD 0xFFFF, boot := m.boot, data := sub data 0 48 }

/-! ### HG_STATUS and interrupts (R340, R392). -/

/-- Whether MSI-X vector v of an attachment is masked, bit 0 of its vector control. -/
def Att.masked (x : Att) (v : Nat) : Bool := bit (Mem.get x.msix (16 * v + 12)).toNat 0

/-- Sends an MSI-X vector, or keeps it pending while it is masked. -/
def Att.vector (x : Att) (v : Nat) : Att :=
  if x.masked v then { x with pba := x.pba ||| BitVec.ofNat 64 (2 ^ v) } else { x with sent := x.sent ++ [v] }

/-- Whether contexts of an attachment are orphaned (R355). -/
def Dev.orphaned (d : Dev) (a : Nat) : Bool := d.ctxs.any fun c => c.2.home = a && c.2.state ≠ .active

/-- HG_STATUS of an attachment (Table 14.6). -/
def State.hgStatus (s : State) (a : Nat) : Word :=
  let x := s.dev.getAtt a
  let b (c : Bool) (n : Nat) : Nat := if c then 2 ^ n else 0
  (x.status &&& 0x7F04) |||
    BitVec.ofNat 64 (b s.dev.ready 0 + b s.mgmt.defaulted 1 + b (s.dev.orphaned a) 3 + b x.held 4
      + b s.mgmt.fwOld.isSome 5 + b (s.mgmt.service ≠ 0) 6)

/-- Sends vector 0 on each attachment where a bit of HG_STATUS has risen that HG_STATUS_MASK sets (R340). -/
def State.notify (old s : State) : State :=
  s.onDev fun d => (List.range 8).foldl (fun d a =>
    let x := d.getAtt a
    if (s.hgStatus a &&& ~~~(old.hgStatus a) &&& x.mask) ≠ 0 then d.modAtt a fun x => x.vector 0 else d) d

/-- Makes a change and sends the status interrupts that it causes. -/
def State.withStatus (s : State) (f : State → State) : State := State.notify s (f s)

/-- Sets W1C bits of HG_STATUS of an attachment. -/
def Att.setStatus (x : Att) (n : Nat) : Att := { x with status := x.status ||| BitVec.ofNat 64 (2 ^ n) }

/-! ### Rings (R390, R391). -/

/-- Whether a ring position may be written: its first lap, or the item written there last is acknowledged. -/
def Att.posFree (x : Att) (ring pos log2 : Nat) : Bool :=
  pos < 2 ^ log2 ||
    match Map.find ((Map.get x.rings ring (0, [])).2) (pos % 2 ^ log2) with
    | some osn => osn ≤ x.ack
    | none => false

/-- Posts an entry of a ring: takes the next position, sets its phase, and waits in the outflow, or for the previous
lap's acknowledgement behind earlier entries of the ring that wait so. -/
def Att.post (x : Att) (ring ctx base log2 size phaseAt : Nat) (bs : Bytes) : Att :=
  let r := Map.get x.rings ring (0, [])
  let pos := r.1
  let phase : Byte := BitVec.ofNat 8 ((pos / 2 ^ log2 + 1) % 2)
  let it := Item.entry ctx (base + pos % 2 ^ log2 * size) (setAt bs phaseAt phase) ring (pos % 2 ^ log2)
  let free := x.posFree ring pos log2 && !(x.lapHeld.any fun h => h.1 = ring)
  let x := { x with rings := Map.put x.rings ring (pos + 1, if free then Map.del r.2 (pos % 2 ^ log2) else r.2) }
  if free then { x with items := x.items ++ [it] } else { x with lapHeld := x.lapHeld ++ [(ring, it)] }

/-- The 64 bytes of an event record but its phase (Table 16.7). -/
def eventBytes (type cause ctx seq log : Nat) (payload : Bytes) : Bytes :=
  leBytes 1 type ++ leBytes 1 cause ++ leBytes 2 ctx ++ leBytes 4 seq ++ leBytes 8 log ++ sub payload 0 32
    ++ leBytes 16 0

/-- The log data of an event record (Table 20.7). -/
def eventLog (type cause seq : Nat) (payload : Bytes) : Bytes :=
  leBytes 1 type ++ leBytes 1 cause ++ leBytes 2 0 ++ leBytes 4 seq ++ sub payload 0 32

/-- Posts an event record to a context's event ring and to the log (R393). -/
def State.event (s : State) (n type cause seq : Nat) (payload : Bytes) : State :=
  match s.dev.getCtx n with
  | none => s
  | some c =>
    let log := s.mgmt.logSeq
    let s := s.log (0x10 + type) (some c.home) (some n) (eventLog type cause seq payload)
    s.onDev fun d => d.modAtt c.home fun x =>
      x.post (2 * n + 2) n c.evtIova c.evtLog2 64 63 (eventBytes type cause n seq log payload)

/-- Posts ATTACHMENT_RESTORED to the attachment event ring (Table 16.8) and to the log. -/
def State.attEvent (s : State) (a type cause : Nat) (payload : Bytes) : State :=
  let x := s.dev.getAtt a
  let log := s.mgmt.logSeq
  let s := s.log (0x10 + type) (some a) none (eventLog type cause 0 payload)
  s.onDev fun d => d.modAtt a fun _ => x.post 0 0xFFFF x.evtIova x.evtLog2 64 63 (eventBytes type cause 0xFFFF 0 log payload)

/-! ### Physical addresses (Table 1.3, R20 to R24). -/

/-- What a physical address names. -/
inductive Pa where
  | caddy (q : Nat) | hbm (t off : Nat) | window (n off : Nat) | reg | hole
deriving DecidableEq, Repr

def paOf (a : Nat) : Pa :=
  if a < 0x180000000000 then .caddy 0
  else if a < 0x300000000000 then .caddy 1
  else if a < 0x1000000000000 then .hole
  else if a < 0x1020000000000 then
    let off := a % 2 ^ 38
    if off < 0x3000000000 then .hbm (bits a 40 38) off else .hole
  else if a < 0x2000000000000 then .hole
  else if a < 0x2020000000000 then .window (bits a 40 32) (a % 2 ^ 32)
  else if a < 0x3000000000000 then .hole
  else if a < 0x4000000000000 then .reg
  else .hole

/-- The physical address of an offset of an HBM slot. -/
def hbmPa (t off : Nat) : Nat := 0x1000000000000 + t * 2 ^ 38 + off

/-- The home headgate of a caddy address (R24). -/
def caddyHg (a : Nat) : Nat := if a < 0x180000000000 then bits a 12 12 else 2 + bits (a - 0x180000000000) 12 12

/-- Headgate, stripe and data channel of a caddy address (R294): x within the quad, block j, stripe m. -/
def caddyPlace (a : Nat) : Nat × Nat × Nat :=
  let q := if a < 0x180000000000 then 0 else 1
  let x := a - q * 0x180000000000
  let j := x / 8192
  (2 * q + bits x 12 12, j / 12, j % 12)

/-- The lines that share a parity line with a caddy line: the 12 blocks of its stripe at the same place (R294). -/
def caddyMates (a : Nat) : List Nat :=
  let q := if a < 0x180000000000 then 0 else 1
  let x := a - q * 0x180000000000
  (List.range 12).map fun i => (q * 0x180000000000 + (x / 8192 / 12 * 12 + i) * 8192 + x % 8192) / 128

/-- The class and pool mark of a frame: at power-up guarded, plain but for frames 186 to 191 (R283). -/
def Terrace.frame (t : Terrace) (f : Nat) : Nat := Map.get t.frames f (if 186 ≤ f then 2 else 0)

/-- Whether an address lies in a lean frame (R281); caddy lines behave as guarded ones (R284). -/
def Dev.lean (d : Dev) (a : Nat) : Bool :=
  match paOf a with
  | .hbm t off => bit ((d.getTerr t).frame (off / 2 ^ 30)) 0
  | _ => false

/-! ### Lines at their homes (R232 to R237, R284). -/

/-- The mask of all bytes of a line. -/
def fullMask : BitVec 128 := BitVec.allOnes 128

/-- Bytes of a line under a mask, over what it holds. -/
def Memory.bytesUnder (m : Mem) (line : Nat) (mask : BitVec 128) (data : Bytes) : Mem :=
  (List.range 128).foldl (fun m i => if mask.getLsbD i then Mem.set m (line * 128 + i) (data.getD i 0) else m) m

/-- Poison after a write: a full mask clears it, a partial one clears only what it writes in a lean frame (R284). -/
def poisonAfter (lean : Bool) (p mask : BitVec 128) : BitVec 128 :=
  if mask = fullMask then 0 else if lean then p &&& ~~~mask else p

/-- Sets the poisoned bytes of a line. -/
def Memory.setPoison (m : Memory) (line : Nat) (p : BitVec 128) : Memory :=
  { m with poison := if p = 0 then Map.del m.poison line else Map.put m.poison line p }

/-- A write performed at a line's home under its mask (R233). -/
def Memory.writeLine (m : Memory) (lean : Bool) (line : Nat) (mask : BitVec 128) (data : Bytes) : Memory :=
  { m with bytes := Memory.bytesUnder m.bytes line mask data }.setPoison line
    (poisonAfter lean (Map.get m.poison line 0) mask)

/-- The bytes that a server core holds dirty for a line, if one does (R236). -/
def Dev.dirtyCopy (d : Dev) (line : Nat) : Option Bytes := (List.range 96).findSome? fun c => Map.find (d.getCore c).dirty line

/-- Invalidates every server-core copy of a line, and ends the reservations on it (R236, R244). -/
def Dev.dropLine (d : Dev) (line : Nat) : Dev :=
  { d with cores := d.cores.map fun c => (c.1, { c.2 with
      dirty := Map.del c.2.dirty line, clean := c.2.clean.filter (fun l => l ≠ line)
      resv := if c.2.resv = some line then none else c.2.resv }) }

/-- A byte of device memory as its home serves it: a dirty server-core copy is recalled (R236). -/
def State.byte (s : State) (a : Nat) : Byte :=
  match s.dev.dirtyCopy (a / 128) with
  | some bs => bs.getD (a % 128) 0
  | none => Mem.get s.mem.bytes a

/-- Whether the poison of a line is out of reach: the line lies on a retired caddy channel, and a partner of its stripe carries a
mark too, so that reconstruction does not serve it as poisoned (R300). -/
def State.markLost (s : State) (a : Nat) : Bool :=
  match paOf a with
  | .caddy _ =>
    let p := caddyPlace a
    (s.dev.getChan (13 * p.1 + p.2.2)).retired && (caddyMates a).any fun l => l ≠ a / 128 && (Map.find s.mem.poison l).isSome
  | _ => false

/-- Whether a byte is poisoned as its home serves it (R284, R300). -/
def State.bad (s : State) (a : Nat) : Bool := (Map.get s.mem.poison (a / 128) 0).getLsbD (a % 128) && !s.markLost a

/-- n bytes from a physical address, as their homes serve them. -/
def State.readPa (s : State) (a n : Nat) : Bytes := (List.range n).map fun i => s.byte (a + i)

/-- A caddy write joins its stripe in the headgate's stripe buffer (R296). -/
def Dev.gather (d : Dev) (line : Nat) : Dev :=
  match paOf (line * 128) with
  | .caddy _ =>
    let p := caddyPlace (line * 128)
    let k := p.1 * 2 ^ 32 + p.2.1
    { d with stripes := Map.put d.stripes k (addOnce (Map.get d.stripes k []) line) }
  | _ => d

/-- A write performed at its home: copies in server cores are recalled and invalidated first (R236). -/
def State.homeWrite (s : State) (line : Nat) (mask : BitVec 128) (data : Bytes) : State :=
  let lean := s.dev.lean (line * 128)
  let m := match s.dev.dirtyCopy line with
    | some bs => s.mem.writeLine lean line fullMask bs
    | none => s.mem
  { s with mem := m.writeLine lean line mask data, dev := (s.dev.dropLine line).gather line }

/-- The mask of n bytes from an offset of a line. -/
def maskOf (off n : Nat) : BitVec 128 := BitVec.ofNat 128 ((2 ^ n - 1) * 2 ^ off)

/-- Splits bytes at an address into writes of lines: line, mask, the line's bytes. -/
def lineSplit (fuel a : Nat) (bs : Bytes) : List (Nat × BitVec 128 × Bytes) :=
  match fuel with
  | 0 => []
  | fuel + 1 =>
    if bs.isEmpty then []
    else
      let off := a % 128
      let n := min (128 - off) bs.length
      (a / 128, maskOf off n, List.replicate off 0 ++ bs.take n ++ List.replicate (128 - off - n) 0)
        :: lineSplit fuel (a + n) (bs.drop n)

/-- Writes bytes at their homes at once, line by line. -/
def State.writePa (s : State) (a : Nat) (bs : Bytes) : State :=
  (lineSplit (bs.length + 1) a bs).foldl (fun s w => s.homeWrite w.1 w.2.1 w.2.2) s

/-- Zeroes n bytes of device memory from an address on, poison included (R283, R362). -/
def Memory.zero (m : Memory) (a n : Nat) : Memory :=
  { m with bytes := Mem.zero m.bytes a n, poison := m.poison.filter fun p => ¬ (a ≤ p.1 * 128 ∧ p.1 * 128 < a + n) }

/-- Puts a write on its way to its home (R135, R250). -/
def Memory.issue (m : Memory) (o : Origin) (ctx gen line : Nat) (mask : BitVec 128) (data : Bytes) : Memory :=
  { m with flight := m.flight ++ [{ id := m.nextId, from' := o, ctx := ctx, gen := gen, line := line, mask := mask, data := data }],
           nextId := m.nextId + 1 }

/-- Discards the writes on their way that come from an origin. -/
def Memory.discard (m : Memory) (o : Origin) : Memory := { m with flight := m.flight.filter fun w => w.from' ≠ o }

/-- Free values used: the number of the next one moves on (log 5). -/
def State.took (s : State) (n : Nat) : State := s.onDev fun d => { d with free := d.free + n }

end Sys2Proof.Machine
end

