-- ==== Sys2Proof/Machine/Place.lean ====
section
/-!
DEFINITION. Where a virtual address lies: range entries, windows, objects and their granules (R16, R207, R224 to R226,
R255 to R264).
-/

namespace Sys2Proof.Machine

/-- What an access by virtual address reaches. -/
inductive Place where
  /-- a physical address -/
  | phys (a : Nat)
  /-- no entry covers it (a translation fault, R266) -/
  | unmapped
  /-- the entry lacks the permission (R258) -/
  | denied
  /-- the object has no image that the access may bind (R208) -/
  | wait (pt obj : Nat)
  /-- the shadow granule of a stateful object is not filled yet (R224) -/
  | shadow (pt obj granule : Nat)
  /-- another context owns the object's shadow (R225) -/
  | owned
  /-- the culvert window refuses the sender (R16) -/
  | window (n : Nat)
deriving DecidableEq, Repr

/-- Bytes of a granule (R255). -/
def granule : Nat := 65536

/-- Whether an entry covers an address. -/
def RangeEntry.covers (e : RangeEntry) (va : Nat) : Bool :=
  e.va * granule ≤ va && va < (e.va + e.granules) * granule

/-- A set permission: 0 R, 1 W, 2 X, 3 A. -/
def RangeEntry.perm (e : RangeEntry) (k : Nat) : Bool := bit e.perms k

/-- The entry of a context's table that serves an access: entries whose removal waits still serve their users (R267). -/
def Ctx.entry (c : Ctx) (va : Nat) : Option RangeEntry := (c.ranges.find? fun r => r.entry.covers va).map fun r => r.entry

/-- The entry that serves queue-time translation: one whose unmap has not been taken (R267). -/
def Ctx.queueEntry (c : Ctx) (va : Nat) : Option RangeEntry :=
  (c.ranges.find? fun r => r.unmap.isNone && r.entry.covers va).map fun r => r.entry

/-- Whether the window check passes for an access of a partition through window n (R16, R261). -/
def Dev.windowOk (d : Dev) (pt n : Nat) (pa : Nat) : Bool :=
  let w := Map.get d.windows n {}
  w.valid && w.owner = pt && w.terrace = bits pa 40 38 && w.region = bits pa 37 32

/-- Bindings use a granule that has left at a publication when the part bound before it (R226). -/
def Obj.granuleFor (o : Obj) (uid g : Nat) : Option Nat :=
  match o.old.find? fun x => x.1 = g && x.2.2 = uid with
  | some x => some x.2.1
  | none => o.image[g]?

/-- Where an access to an object lands: reads to the published version, writes of a stateful object to its shadow. -/
def Obj.place (o : Obj) (pt num ctx uid : Nat) (pinned write : Bool) (off : Nat) : Place :=
  let g := off / granule
  if !(o.res = .resident || (o.res = .sinking && pinned)) then .wait pt num
  else if write && bit o.attrs 1 then
    match o.owner with
    | some n => if n ≠ ctx then .owned else
      match Map.find o.shadow g with
      | some base => .phys (base + off % granule)
      | none => .shadow pt num g
    | none => .shadow pt num g
  else
    match o.granuleFor uid g with
    | some base => .phys (base + off % granule)
    | none => .wait pt num

/-- Where an entry sends an address, for an agent of a quad (R259; quad 2 is an agent that uses no windows). -/
def Dev.through (d : Dev) (e : RangeEntry) (pt ctx uid quad : Nat) (pinned : Nat → Bool) (write : Bool) (va : Nat) : Place :=
  let off := va - e.va * granule
  match e.kind with
  | 0 => .phys (e.target % 2 ^ 34 * granule + off)
  | 1 =>
    let pa := e.target % 2 ^ 34 * granule + off
    let n := bits e.target 56 48
    if quad = 2 ∨ quad = bits pa 40 40 ∨ d.windowOk pt n pa then .phys pa else .window n
  | _ =>
    match d.getObj pt (e.target % 2 ^ 22) with
    | some o => o.place pt (e.target % 2 ^ 22) ctx uid (pinned (e.target % 2 ^ 22)) write off
    | none => .unmapped

/-- Access kinds: 0 read, 1 write, 2 execute, 3 atomic, with the permission each needs (Table 10.3) and R228. -/
def RangeEntry.allows (e : RangeEntry) (access : Nat) : Bool :=
  match access with
  | 0 => e.perm 0
  | 1 => e.perm 1 && !bit e.attrs 1
  | 2 => e.perm 2
  | _ => e.perm 0 && e.perm 1 && e.perm 3 && !bit e.attrs 1

/-- A run-time access of a part by virtual address (R263), by the entry the range cache serves. -/
def Dev.runPlace (d : Dev) (e : RangeEntry) (uid : Nat) (access va : Nat) : Place :=
  match d.getPart uid with
  | none => .unmapped
  | some p =>
    match d.getCtx p.ctx with
    | none => .unmapped
    | some c =>
      if e.allows access then
        d.through e c.pt p.ctx uid (p.eng.t.val / 4) (fun o => has p.pins o) (access = 1 || access = 3) va
      else .denied

/-- A run-time access through the context's table itself. -/
def Dev.place (d : Dev) (uid access va : Nat) : Place :=
  match d.getPart uid with
  | none => .unmapped
  | some p =>
    match d.getCtx p.ctx with
    | none => .unmapped
    | some c =>
      match c.entry va with
      | none => .unmapped
      | some e => d.runPlace e uid access va

end Sys2Proof.Machine
end

