-- ==== Sys2Proof/Machine/Parts.lean ====
section
/-!
DEFINITION. The life of commands and their parts: records, gate signals, completion, failure and release of what a part
holds (R154 to R171).
-/

namespace Sys2Proof.Machine

/-! ### Descriptor header (Table 6.1). -/

def Cmd.op (c : Cmd) : Nat := field c.desc 0 1
def Cmd.flag (c : Cmd) (k : Nat) : Bool := bit (field c.desc 1 1) k
def Cmd.conv (c : Cmd) : Nat := field c.desc 2 2
def Cmd.tag (c : Cmd) : Nat := field c.desc 8 8

/-- Changes the first command of a list that bears a number. -/
def modFirst (l : List Cmd) (seq : Nat) (f : Cmd → Cmd) : List Cmd :=
  match l with
  | [] => []
  | x :: t => if x.seq = seq then f x :: t else x :: modFirst t seq f

/-- Changes the most recently accepted command of a context that bears a number (R170). -/
def Ctx.modCmd (c : Ctx) (seq : Nat) (f : Cmd → Cmd) : Ctx := { c with cmds := (modFirst c.cmds.reverse seq f).reverse }

def Ctx.getCmd (c : Ctx) (seq : Nat) : Option Cmd := c.cmds.reverse.find? fun x => x.seq = seq
def Dev.modCmd (d : Dev) (n seq : Nat) (f : Cmd → Cmd) : Dev := d.modCtx n fun c => c.modCmd seq f
def Dev.getCmd (d : Dev) (n seq : Nat) : Option Cmd := (d.getCtx n).bind fun c => c.getCmd seq

/-- Whether a command has ended: completed, failed or been aborted. -/
def CmdState.ended (x : CmdState) : Bool :=
  match x with
  | .completed => true | .failed _ => true | .aborted => true | _ => false

/-- Whether a command has not been dispatched (R155). -/
def CmdState.waiting (x : CmdState) : Bool := match x with | .pending => true | _ => false

/-! ### Gates (R162 to R164). -/

/-- Adds to a gate that the context holds; past 2^64 - 1 it stays there and GATE_SATURATED is set (R163). -/
def Dev.signal (d : Dev) (n g inc : Nat) : Dev :=
  match Map.find d.gates g with
  | some x =>
    if x.owner ≠ n then d
    else if x.value.toNat + inc ≤ max64 then
      { d with gates := Map.put d.gates g { x with value := BitVec.ofNat 64 (x.value.toNat + inc) } }
    else
      { d with gates := Map.put d.gates g { x with value := BitVec.ofNat 64 max64 } }.modCtx n
        fun c => { c with stats := c.stats.flag 1 }
  | none => d

/-- The signals of a command: that of its header, and the entries of GATE_SIGNAL (R139, R151). -/
def Cmd.signals (c : Cmd) : List (Nat × Nat) :=
  (if c.flag 1 then [(field c.desc 18 2, field c.desc 20 4)] else [])
    ++ (if c.op = 0x20 then
          (List.range (field c.desc 32 1)).map fun i => (field c.desc (40 + 8 * i) 2, field c.desc (44 + 8 * i) 4)
        else [])

def Dev.signalAll (d : Dev) (n : Nat) (l : List (Nat × Nat)) : Dev := l.foldl (fun d g => d.signal n g.1 g.2) d

/-! ### Completion records (R167, R390). -/

/-- The 32 bytes of a completion record but its phase (Table 6.15). -/
def recordBytes (tag seq status op : Nat) (detail : Bytes) : Bytes :=
  leBytes 8 tag ++ leBytes 4 seq ++ leBytes 2 status ++ leBytes 1 op ++ leBytes 1 0 ++ sub detail 0 16

def Dev.record (d : Dev) (n : Nat) (bs : Bytes) : Dev :=
  match d.getCtx n with
  | none => d
  | some c => d.modAtt c.home fun x => x.post (2 * n + 1) n c.recIova c.recLog2 32 15 bs

/-- Status codes (Table 16.6) that commands end with. -/
def stOk : Nat := 0
def stNoResource : Nat := 5
def stBadRange : Nat := 6
def stNotOwner : Nat := 4
def stAborted : Nat := 10
def stTrap : Nat := 0x10
def stMismatch : Nat := 0x11
def stHostFault : Nat := 0x12
def stAttLost : Nat := 0x13
def stStepLost : Nat := 0x14

/-! ### What a part holds. -/

/-- The exports of a part that have not completed leave the outflow (R254). -/
def Att.dropExports (x : Att) (uid : Nat) : Att :=
  { x with items := x.items.filter fun i => match i with | .exportOf u _ _ => u ≠ uid | .entry _ _ _ _ _ => true }

def Dev.dropExports (d : Dev) (uid : Nat) : Dev := { d with atts := d.atts.map fun a => (a.1, a.2.dropExports uid) }

/-- The fault records of a part leave its engine: a register that they free takes the next access that waited behind it (R271, R272). -/
def Engine.dropFaults (x : Engine) (uid : Nat) : Engine :=
  let rest := x.faultWait.filter fun f => f.part ≠ some uid
  match x.faultReg with
  | none => { x with faultWait := rest }
  | some f => if f.part = some uid then { x with faultReg := rest.head?, faultWait := rest.drop 1 } else { x with faultWait := rest }

/-- The part ends its use of its engine: queue, execution place, clusters, pins and old granules. -/
def Dev.releasePart (d : Dev) (uid : Nat) : Dev :=
  match d.getPart uid with
  | none => d
  | some p =>
    let e := eIdx p.eng
    let pt := match d.getCtx p.ctx with | some c => c.pt | none => 0
    let d := d.modEng e fun x => { x.dropFaults uid with
      queue := x.queue.filter (fun u => u ≠ uid), executing := x.executing.filter (fun u => u ≠ uid)
      merges := if x.executing.any (fun u => u = uid) then [] else x.merges }
    let d := (List.range 20).foldl (fun d k =>
      let i := 20 * e + k
      if (d.getCl i).part = some uid then
        d.modCl i fun x => { x with run := .idle, part := none, stall := .none, fetched := none, arrq := [], rampRun := 0, movs := [] }
      else d) d
    let d := d.modPt pt fun x => { x with
      objs := x.objs.map fun o => (o.1, { o.2 with old := o.2.old.filter fun g => g.2.2 ≠ uid })
      faults := x.faults.map fun f => { f with held := f.held.filter fun u => u.1 ≠ uid } }
    (d.dropExports uid).modPart uid fun p => { p with pins := [], coming := [], xl := {} }

/-- The writes of a part that its engine's write buffer still holds are discarded; those that have left it are on their way (R171, R254).
Which of the writes in flight have left it is free (log 57). -/
def Memory.unbuffer (m : Memory) (uid fr : Nat) : Memory :=
  { m with flight := (m.flight.zipIdx.filter fun w =>
      !((w.1.from' = .part uid ∨ w.1.from' = .ccWb uid) ∧ (Config.freeByte (fr + w.2)).getLsbD 0)).map fun w => w.1 }

/-- What the control cache holds for a kernel that is stopped or abandoned: dirty lines, the fill, the misses that wait (R254). -/
def Engine.dropCc (e : Engine) : Engine := { e with cc := e.cc.filter (fun l => l.2.dirty = 0), ccFill := none, ccQueue := [] }

/-- Stops a part: its buffered writes are discarded and what it holds is released (R168, R171). -/
def State.stopPart (s : State) (uid : Nat) (stage : PartStage) : State :=
  match s.dev.getPart uid with
  | none => s
  | some p =>
    let n := s.mem.flight.length
    let d := if p.kind = .kernel ∧ p.ran then s.dev.modEng (eIdx p.eng) Engine.dropCc else s.dev
    ({ s with dev := (d.releasePart uid).modPart uid fun p => { p with stage := stage }, mem := s.mem.unbuffer uid s.dev.free } : State).took n

/-- Whether a part has neither committed nor ended. -/
def Part.live (p : Part) : Bool := match p.stage with | .queued => true | .executing => true | _ => false

/-- Fails a part with a program error: every part of the command that has not committed is stopped (R168). -/
def State.failPart (s : State) (uid status : Nat) : State :=
  match s.dev.getPart uid with
  | none => s
  | some p =>
    if !p.live then s
    else
      let s := s.stopPart uid (.failed status)
      let others := match s.dev.getCmd p.ctx p.seq with | some c => c.parts | none => []
      let s := others.foldl (fun s u =>
        match s.dev.getPart u with
        | some q => if q.live then s.stopPart u .aborted else s
        | none => s) s
      s.onDev fun d => d.modCmd p.ctx p.seq fun c => match c.state with
        | .aborting => c
        | _ => { c with state := .failing status }

/-- The parts of a command, in part order. -/
def Dev.partsOf (d : Dev) (c : Cmd) : List (Nat × Part) := c.parts.filterMap fun u => (d.getPart u).map fun p => (u, p)

/-- A part's own status in its part record (R168). -/
def Part.status (p : Part) : Nat := match p.stage with | .failed st => st | .committed => 0 | _ => stAborted

/-- The failure status of the lowest-numbered failed part (R168), or the given one for a command without parts. -/
def Dev.failStatus (d : Dev) (c : Cmd) (st : Nat) : Nat :=
  match ((d.partsOf c).filter fun p => match p.2.stage with | .failed _ => true | _ => false).head? with
  | some p => p.2.status
  | none => st

/-- The trap detail (Table 5.16) of the lowest-numbered trapping part. -/
def Dev.trapDetail (d : Dev) (c : Cmd) : Bytes :=
  match (d.partsOf c).findSome? fun p => p.2.trap with
  | some (cause, cl, count, off, tval) =>
    leBytes 1 cause ++ leBytes 1 cl ++ leBytes 1 count ++ leBytes 1 0 ++ leBytes 4 off ++ leBytes 8 tval
  | none => []

/-- The part records that follow a failed command's record (R168). -/
def Dev.partRecords (d : Dev) (n : Nat) (c : Cmd) : Dev :=
  let ps := d.partsOf c
  ps.foldl (fun d p => d.record n (recordBytes c.tag c.seq p.2.status 0xFF
    (leBytes 1 p.2.idx ++ leBytes 1 ps.length ++ leBytes 1 p.2.eng.t.val ++ leBytes 1 p.2.eng.e.val))) d

/-- Forgets the parts of an ended command. -/
def Dev.dropParts (d : Dev) (c : Cmd) : Dev := { d with parts := d.parts.filter fun p => !has c.parts p.1 }

/-- The gates that a command names (R139, R151). -/
def Cmd.gates (c : Cmd) : List Nat :=
  (if c.flag 0 then [field c.desc 16 2] else []) ++ c.signals.map (fun g => g.1) ++
    if c.op = 0x21 then (List.range (field c.desc 32 1)).map fun i => field c.desc (48 + 16 * i) 2 else []

/-- A context gives up a run of gates; they return to the pool when the STEP_MARK of this step completes (R387). -/
def Dev.freeGates (d : Dev) (n first count step : Nat) : Dev :=
  let vals := (List.range count).map fun i =>
    (first + i, step, match Map.find d.gates (first + i) with | some g => g.value | none => 0)
  ({ d with gates := d.gates.filter fun g => !(first ≤ g.1 && g.1 < first + count) } : Dev).modCtx n fun c =>
    { c with freed := c.freed ++ vals }

/-- Whether command number a was accepted before number b, numbers wrapping (R154). -/
def seqBefore (a b : Nat) : Bool := 2 ^ 31 ≤ (a + 2 ^ 32 - b) % 2 ^ 32

/-- The gates that a replayed GATE_FREE gives up once every command before it that names one of them has ended (R177). -/
def Dev.freeDue (d : Dev) (n : Nat) : Dev :=
  match d.getCtx n with
  | none => d
  | some c =>
    let waits (g : Nat × Nat × Nat × Nat) : Bool := c.cmds.any fun x =>
      !x.state.ended && seqBefore x.seq g.2.2.2 && x.gates.any fun k => g.1 ≤ k && k < g.1 + g.2.1
    ((c.freeLater.filter fun g => !waits g).foldl (fun d g => d.freeGates n g.1 g.2.1 g.2.2.1) d).modCtx n fun c =>
      { c with freeLater := c.freeLater.filter waits }

/-- A command ends: its state, its gates, its record, its count, in that order (R162, R164, R166, R168). -/
def Dev.endCmd (d : Dev) (n seq : Nat) (fin : CmdState) (detail : Bytes) : Dev :=
  match d.getCmd n seq with
  | none => d
  | some c =>
    let status := match fin with | .failed st => st | .aborted => stAborted | _ => 0
    let ok := fin = .completed
    let d := d.modCmd n seq fun c => { c with state := fin, parked := none }
    let d := if ok ∨ c.flag 2 then d.signalAll n c.signals else d
    let detail := match fin with | .failed st => if st = stTrap then d.trapDetail c else detail | _ => detail
    let d := if c.again ∨ (ok ∧ c.flag 3) then d else d.record n (recordBytes c.tag seq status c.op detail)
    let d := match fin with | .failed _ => if c.again then d else d.partRecords n c | _ => d
    let d := d.countCtx n (match fin with | .failed _ => 1 | .aborted => 2 | _ => 0) 1
    (d.dropParts c).freeDue n

end Sys2Proof.Machine
end

