-- ==== Sys2Proof/Machine/Kernel.lean ====
section
/-!
DEFINITION. What the rows of kernel code share: base-instruction effects, integer and vector registers, traps, local
addresses, retiring and the replay of a part (R94 to R99, R127, R442).
-/

namespace Sys2Proof.Machine

/-! ### Registers of a cluster. -/

/-- Changes one cluster. -/
def State.modC (s : State) (i : Nat) (f : Cluster → Cluster) : State := s.onDev fun d => d.modCl i f

/-- x register r; x0 reads zero (R94). -/
def Cluster.xget (c : Cluster) (r : Fin 32) : Word := if r.val = 0 then 0 else Map.get c.x r.val 0

/-- Writes x register r; x0 discards it. -/
def Cluster.xset (c : Cluster) (r : Fin 32) (v : Word) : Cluster :=
  if r.val = 0 then c else { c with x := Map.put c.x r.val v }

/-- What base instructions did before the command (R94). Each of them was fetched with one hit of the control cache (log 8). -/
def Cluster.applyPre (c : Cluster) (p : Pre) : Cluster :=
  let c := p.xs.foldl (fun c r => c.xset r.1 r.2) c
  let c := { c with v := p.vs.foldl (fun m b => Mem.set m (b.1 % 4096) b.2) c.v, instret := min max64 (c.instret + p.retired),
                     ccHits := min max64 (c.ccHits + p.retired), fetched := if p.retired = 0 ∧ p.pc.isNone then c.fetched else none }
  let c := match p.vcfg with
    | some v => { c with sew := v.sew, lmul := v.lmul, vl := v.vl, vstart := v.vstart, vta := v.vta, vma := v.vma, vill := v.vill, vxrm := v.vxrm,
                         vxsat := v.vxsat }
    | none => c
  match p.pc with
  | some a => { c with pc := a }
  | none => c

/-- Whether a cluster takes its next instruction. -/
def Cluster.ready (c : Cluster) : Bool := c.run = .running && c.stall = .none

/-- The instruction retires: it counts, the pc moves past it. -/
def Cluster.retire (c : Cluster) : Cluster := { c with pc := c.pc + 4, instret := min max64 (c.instret + 1), stall := .none }

/-- A progress event: the engine's count without progress starts afresh (R458). -/
def State.progressed (s : State) (e : Nat) : State :=
  if (s.dev.getEng e).progress = 0 then s else s.onDev fun d => d.modEng e fun x => { x with progress := 0 }

/-- Writes a result and retires. -/
def State.done (s : State) (i : Nat) (rd : Fin 32) (v : Word) : State := (s.modC i fun c => (c.xset rd v).retire).progressed (i / 20)

/-- Retires without a result. -/
def State.retire (s : State) (i : Nat) : State := (s.modC i Cluster.retire).progressed (i / 20)

/-- Adds to the counts of this attempt on a cluster (R126). -/
def Cluster.addCnt (c : Cluster) (n : Cnt) : Cluster :=
  { c with counts := n.toMap.foldl (fun m x => Map.addSat m x.1 x.2 max64) c.counts,
           draws := min max64 (c.draws + n.draws) }

/-! ### Traps (R127, R128). -/

/-- The code base of the KERNEL descriptor of a part. -/
def Dev.descOf (d : Dev) (uid : Nat) : Bytes :=
  match d.getPart uid with
  | some p => match d.getCmd p.ctx p.seq with | some c => c.desc | none => []
  | none => []

/-- Causes whose tval the manual does not state: neither an address nor instruction bits nor a return value (log 5). -/
def tvalFree (cause : Nat) : Bool := has [3, 8, 24, 25, 26, 29, 30] cause

/-- Traps of clusters of one engine in one core cycle: the command fails with KERNEL_TRAP and the detail of the lowest cluster, with the
number of those that trapped; all 20 clusters stop (R127, R128). -/
def State.traps (s : State) (l : List (Nat × Nat × Nat)) : State :=
  match l with
  | [] => s
  | x :: t =>
    let y := t.foldl (fun a b => if b.1 < a.1 then b else a) x
    let c := s.dev.getCl y.1
    match c.part with
    | none => s
    | some uid =>
      let off := (c.pc.toNat + 2 ^ 64 - field (s.dev.descOf uid) 32 8) % 2 ^ 32
      let tv := if tvalFree y.2.1 then (Config.trapValue s.dev.free).toNat else y.2.2
      ((s.took (if tvalFree y.2.1 then 1 else 0)).onDev fun d => d.modPart uid fun p =>
        { p with trap := some (y.2.1, y.1 % 20, l.length, off, tv) }).failPart uid stTrap

/-- A trap of one cluster. -/
def State.trap (s : State) (i cause tval : Nat) : State := s.traps [(i, cause, tval)]

/-! ### Local addresses (R97 to R99). -/

/-- What a local address names. -/
inductive Local where
  | cup (off : Nat) | loader | foreign | cistern (off : Nat) | none
deriving DecidableEq, Repr

/-- Decodes an address with bit 63 set for logical cluster k (Table 5.1). -/
def localOf (k a : Nat) : Local :=
  let o := a - 2 ^ 63
  let cup (x : Nat) : Local := if x < 0x1FE000 then .cup x else .loader
  if o < 0x200000 then cup o
  else if 0x1000000 ≤ o ∧ o < 0x1000000 + 20 * 0x200000 then
    if (o - 0x1000000) / 0x200000 = k then cup ((o - 0x1000000) % 0x200000) else .foreign
  else if 0x100000000 ≤ o ∧ o < 0x100000000 + 0x3000000 then .cistern (o - 0x100000000)
  else .none

/-- End of the part of the cup that operands may reach (R99). -/
def cupEnd : Nat := 0x1FE000

/-! ### Replay of a part at L0 (R442, R443). -/

/-- Kettle cycles elapsed: one in each 1,000 fabric cycles. -/
def State.kettle (s : State) : Nat := s.time.fabric / 1000

/-- Array cycles of a terrace elapsed. -/
def Terrace.arr (t : Terrace) : Nat := t.arr16 / 16

/-- The class number of Table 16.8. -/
def hwCode (c : HwClass) : Nat :=
  match c with
  | .residue => 1 | .accParity => 2 | .cupParity => 3 | .cisternEcc => 4 | .controlCache => 5 | .link => 6 | .hang => 7
  | .other => 8

/-- Undoes one logged atomic at its home: the inverse operation (R120). -/
def State.undoAtom (s : State) (a : Nat × Nat × Bool × Word) : State :=
  let n := if a.2.2.1 then 8 else 4
  let old := leNat (s.readPa a.2.1 n)
  let new := if a.1 = 0 then old + 2 ^ (8 * n) - a.2.2.2.toNat % 2 ^ (8 * n) else old ^^^ (a.2.2.2.toNat % 2 ^ (8 * n))
  s.writePa a.2.1 (leBytes n new)

/-- Abandons the attempt of an executing part: buffered writes, array and mover operations, dirty control-cache lines
and counts are discarded, atomics are undone and the atomic extent restored (R120, R121, R442). -/
def State.abandon (s : State) (uid : Nat) : State :=
  match s.dev.getPart uid with
  | none => s
  | some p =>
    let kernel := p.kind = .kernel
    let s := { s with mem := (s.mem.discard (.part uid)).discard (.ccWb uid) }
    let s := p.atoms.reverse.foldl (fun s a => s.undoAtom a) s
    let s := if kernel then p.saved.foldl (fun s l => s.homeWrite l.1 fullMask l.2) s else s
    s.onDev fun d =>
      let d := if kernel then
          (List.range 20).foldl (fun d k =>
            let i := 20 * eIdx p.eng + k
            if (d.getCl i).part = some uid then
              d.modCl i fun x => { x with run := .idle, part := none, stall := .none, fetched := none, arrq := [], movs := [], bank := [],
                                          wFmt := 0, wRows := 0, wWord := [], wExp := [], wRes := [], owed := [], rampRun := 0, counts := [] }
            else d)
            (d.modEng (eIdx p.eng) fun e => { e.dropCc with merges := [] })
        else d
      (d.dropExports uid).modPart uid fun p => { p with
        ran := false, trap := none, error := none, xl := {}, counts := [], drew := false, tail := none, atoms := [], coming := []
        held := [], masks := [], begun := false, planned := [], wrote := [], released := [], detail := [] }

/-- The class wrapper for a fault found while a part runs: a replay at L0, or the engine passes to L1 when the part has
been replayed twice or the engine has made 8 replays within 2^32 array cycles (R442, R443). -/
def State.absorb (s : State) (uid : Nat) (cls : HwClass) : State :=
  match s.dev.getPart uid with
  | none => s
  | some p =>
    if p.stage ≠ .executing then s
    else
      let e := eIdx p.eng
      let now := (s.dev.getTerr p.eng.t.val).arr
      let recent := (s.dev.getEng e).replays.filter fun t => now < t + 2 ^ 32
      if 2 ≤ p.replays ∨ 8 ≤ recent.length then
        (s.abandon uid).onDev fun d =>
          (d.modEng e fun x => { x with isolated := some s.kettle, absent := true, replays := recent }).modPart uid
            fun p => { p with absorbed := some (1, (hwCode cls), false) }
      else
        let pt := match s.dev.getCtx p.ctx with | some c => c.pt | none => 0
        (s.abandon uid).onDev fun d =>
          ((d.modEng e fun x => { x with replays := recent ++ [now] }).modPart uid
            fun p => { p with replays := p.replays + 1, absorbed := some (0, (hwCode cls), false) }).countPt pt 2 1

/-- A hardware fault of the kernel that runs on a cluster. -/
def State.absorbAt (s : State) (i : Nat) (cls : HwClass) : State :=
  match (s.dev.getCl i).part with
  | none => s
  | some uid => s.absorb uid cls

/-- A hardware fault of the kernel that holds an engine. -/
def State.absorbEng (s : State) (e : Nat) (cls : HwClass) : State :=
  match (List.range 20).findSome? fun k => (s.dev.getCl (20 * e + k)).part with
  | some uid => s.absorb uid cls
  | none => s

end Sys2Proof.Machine
end

