-- ==== Sys2Proof/Machine/Objects.lean ====
section
/-!
DEFINITION. Objects: promotions, room in the pool, dirty images and images that are discarded (R202, R209 to R212,
R222, R286).
-/

namespace Sys2Proof.Machine

/-- The better of two rise classes (R217): a promotion that joins a rise may raise its class. -/
def RiseKind.rank (k : RiseKind) : Nat := match k with | .demand => 0 | .plan => 1 | .steep => 2

def RiseKind.best (a b : RiseKind) : RiseKind := if a.rank ≤ b.rank then a else b

/-- Whether a sink request or write-back has passed its release point. -/
def Obj.released (o : Obj) : Bool := match o.sinkOp with | some k => k.released | none => false

/-- An object that a STEEP (op 0x10) or SINK (op 0x11) waits for has been acted on: the commands whose last one it was end
(R214, R220, R223). -/
def Dev.acted (d : Dev) (pt num op : Nat) : Dev :=
  let who := (d.ctxs.filter fun c => c.2.pt = pt).flatMap fun c =>
    (c.2.cmds.filter fun x => x.op = op && x.state = .running && x.waits.any fun w => w.1 = num).map fun x => (c.1, x.seq)
  who.foldl (fun d w =>
    let d := d.modCmd w.1 w.2 fun x => { x with waits := x.waits.filter fun y => y.1 ≠ num }
    match d.getCmd w.1 w.2 with
    | some x => if x.waits.isEmpty then d.endCmd w.1 w.2 (match x.late with | some st => .failed st | none => .completed) [] else d
    | none => d) d

/-- A wait on an object that ends badly: the commands that wait for it end with a status once their other objects are acted on
(R214, R223). -/
def Ctx.setLate (c : Ctx) (num op st : Nat) : Ctx :=
  { c with cmds := c.cmds.map fun x =>
      if x.op = op ∧ x.state = .running ∧ x.waits.any (fun w => w.1 = num) then { x with late := some st } else x }

def Dev.giveUp (d : Dev) (pt num op st : Nat) : Dev :=
  Dev.acted { d with ctxs := d.ctxs.map fun c => if c.2.pt = pt then (c.1, c.2.setLate num op st) else c } pt num op

/-- A promotion (R210, Table 8.5). -/
def Dev.promote (d : Dev) (pt num : Nat) (kind : RiseKind) (ctx : Nat) : Dev :=
  match d.getObj pt num with
  | none => d
  | some o =>
    let rise : Rise := { kind := kind, ctx := ctx, order := d.serial }
    match o.res with
    | .caddyOnly =>
      { d.modObj pt num fun o => { o with res := .rising, rise := some rise } with serial := d.serial + 1 }
    | .rising => d.modObj pt num fun o => { o with rise := o.rise.map fun r => { r with kind := r.kind.best kind } }
    | .resident => d
    | .sinking =>
      if o.released then
        { d.modObj pt num fun o => { o with res := .rising, rise := some rise, conflict := true } with serial := d.serial + 1 }
      else
        let who := match o.sinkOp with | some k => k.ctx | none => ctx
        let d := if o.sinkOp.isSome then d.countCtx who 0x10 1 else d
        ((d.modObj pt num fun o => { o with res := .resident, sinkOp := none }).acted pt num 0x11).acted pt num 0x10

/-- Physical bases of the granules that objects of a partition hold in HBM. -/
def Obj.held (o : Obj) : List Nat := o.image ++ o.shadow.map (fun g => g.2) ++ o.old.map (fun g => g.2.1)

def Dev.heldGranules (d : Dev) : List Nat := d.partns.flatMap fun p => p.2.objs.flatMap fun o => o.2.held

/-- Whether a reserve frame has left the pool (R280, R291). -/
def Dev.frameOut (d : Dev) (t f : Nat) : Bool := 186 ≤ f && ((d.getStack (3 * t + (f - 186) / 2)).retired).isSome

/-- The pool frames of a class on a terrace (R202). -/
def Dev.poolFrames (d : Dev) (t : Nat) (lean : Bool) : List Nat :=
  (List.range 192).filter fun f =>
    let x := (d.getTerr t).frame f
    bit x 1 && bit x 0 == lean && !d.frameOut t f

/-- The first n free granules among candidates. -/
def freeOf (used : List Nat) (n : Nat) (cands : List Nat) : List Nat := (cands.filter fun g => !has used g).take n

/-- Room for n granules in the pool of a class on a terrace: their physical bases, or none. Which granules of the pool
are taken is Jormon's choice: the lowest (log 12). -/
def Dev.room (d : Dev) (t : Nat) (lean : Bool) (n : Nat) : Option (List Nat) :=
  let used := d.heldGranules
  let g := (d.poolFrames t lean).flatMap fun f =>
    freeOf used n ((List.range (min 16384 (n + used.length))).map fun i => hbmPa t (f * 2 ^ 30 + i * granule))
  if (g.take n).length = n then some (g.take n) else none

/-- Whether the pool of a class on a terrace could hold n granules when empty (R223). -/
def Dev.fits (d : Dev) (t : Nat) (lean : Bool) (n : Nat) : Bool := n ≤ (d.poolFrames t lean).length * 16384

/-- The object whose image or shadow holds a physical address: partition, number, whether it is a shadow granule. -/
def Dev.objectAt (d : Dev) (pa : Nat) : Option (Nat × Nat × Bool) :=
  let base := pa / granule * granule
  d.partns.findSome? fun p => p.2.objs.findSome? fun o =>
    if has o.2.image base then some (p.1, o.1, false)
    else if o.2.shadow.any (fun g => g.2 = base) then some (p.1, o.1, true)
    else none

/-- The key of a line and its number under that key: a line of memory; of the image of an object, by its registration; of its shadow. -/
def Dev.lineKey (d : Dev) (line : Nat) : Nat × Nat :=
  let base := line / 512 * granule
  match d.objectAt (line * 128) with
  | none => (0, line)
  | some (p, n, shadow) =>
    match d.getObj p n with
    | none => (0, line)
    | some o =>
      if shadow then (2 * o.reg + 1, match o.shadow.find? fun g => g.2 = base with | some g => g.1 * 512 + line % 512 | none => 0)
      else (2 * o.reg, (o.image.takeWhile fun b => b ≠ base).length * 512 + line % 512)

/-- The partition, number and object of a registration. -/
def Dev.byReg (d : Dev) (reg : Nat) : Option (Nat × Nat × Obj) :=
  d.partns.findSome? fun p => (p.2.objs.find? fun o => o.2.reg = reg).map fun o => (p.1, o.1, o.2)

/-- Where a line that a key names stands in memory now. -/
def Dev.keyLine (d : Dev) (key l : Nat) : Option Nat :=
  if key = 0 then some l
  else
    match d.byReg (key / 2) with
    | none => none
    | some (_, _, o) =>
      let base := if key % 2 = 1 then Map.find o.shadow (l / 512) else o.image[l / 512]?
      base.map fun b => b / 128 + l % 512

/-- Marks bytes of a line as written, under its key. -/
def addWrote (m : List (Nat × List (Nat × BitVec 128))) (k : Nat × Nat) (mask : BitVec 128) : List (Nat × List (Nat × BitVec 128)) :=
  Map.put m k.1 (addMask (Map.get m k.1 []) k.2 mask)

/-- The bytes of a mask become free values at the line's home, and in an object's record where the line is one of its image (R169, R229,
log 57). -/
def State.freeLine (s : State) (key l : Nat) (mask : BitVec 128) : State :=
  let fr := s.dev.free
  let data := (List.range 128).map fun i => Config.freeByte (fr + i)
  let s := match s.dev.keyLine key l with
    | some line => s.homeWrite line mask data
    | none => s
  let s := if key = 0 ∨ key % 2 = 1 then s else
    match s.dev.byReg (key / 2) with
    | some (p, n, o) =>
      if o.record.isNone ∨ bit o.attrs 1 then s
      else
        let put (m : Mem) : Mem := (List.range 128).foldl (fun m i => if mask.getLsbD i then Mem.set m (l * 128 + i) (data.getD i 0) else m) m
        s.onDev fun d => d.modObj p n fun x => { x with record := x.record.map put }
    | none => s
  s.took 128

/-- All lines of a record of writes become free values. -/
def State.freeWrote (s : State) (m : List (Nat × List (Nat × BitVec 128))) : State :=
  m.foldl (fun s k => k.2.foldl (fun s l => s.freeLine k.1 l.1 l.2) s) s

/-- A write has landed in an object's image: the image is dirty (R212). -/
def Dev.markDirty (d : Dev) (pa : Nat) : Dev :=
  match d.objectAt pa with
  | some (p, o, false) => d.modObj p o fun x => { x with
      dirty := true, sinkOp := x.sinkOp.map fun k => { k with rewritten := true } }
  | _ => d

/-- The pin count of an object (R213): host, plan and use pins of every context of the partition. -/
def Dev.pinCount (d : Dev) (pt num : Nat) : Nat :=
  (d.ctxs.map fun c => if c.2.pt = pt then Map.get c.2.pins num 0 + Map.get c.2.planPins num 0 else 0).sum
    + (d.parts.filter fun p => has p.2.pins num && (match d.getCtx p.2.ctx with | some c => c.pt = pt | none => false)).length

/-- Discards an image: the object stands on its record, and rises again for the parts that wait for it (R230, R286). -/
def State.discardImage (s : State) (pt num : Nat) : State :=
  let bound := s.dev.parts.filter fun p => has p.2.pins num &&
    (match s.dev.getCtx p.2.ctx with | some c => c.pt = pt | none => false)
  let s := bound.foldl (fun s p =>
    let s := s.absorb p.1 .other
    s.onDev fun d => d.modPart p.1 fun x => { x with pins := x.pins.filter fun o => o ≠ num, stage := .queued }) s
  let s := s.onDev fun d => bound.foldl (fun d p =>
    d.modEng (eIdx p.2.eng) fun e => { e with
      executing := e.executing.filter fun u => u ≠ p.1, queue := p.1 :: e.queue.filter fun u => u ≠ p.1 }) d
  let s := s.onDev fun d => (d.modObj pt num fun o => { o with
    res := .caddyOnly, image := [], dirty := false, sinkOp := none, sinkWait := [], rise := none }).acted pt num 0x11
  match bound with
  | [] => s
  | p :: _ => s.onDev fun d => d.promote pt num .demand p.2.ctx

/-- What follows when a part reads a poisoned line (R230, R286): either the part is held, for a rollback of its context or a
replay, or the poison propagates. The flag says that it propagates. -/
def State.poisonRead (s : State) (uid line va : Nat) : State × Bool :=
  match s.dev.getPart uid with
  | none => (s, true)
  | some p =>
    match s.dev.getCtx p.ctx with
    | none => (s, true)
    | some c =>
      let rollback (s : State) : State := s.onDev fun d => d.modCtx p.ctx fun c => { c with
        rolled := addOnce c.rolled line, rollDue := some .poison }
      if has c.rolled line then
        (s.event p.ctx 1 4 p.seq (leBytes 8 va), true)
      else
        match s.dev.objectAt (line * 128) with
        | some (pt, o, true) => if pt = c.pt ∧ o < 2 ^ 22 then (rollback s, false) else (s, true)
        | some (pt, o, false) =>
          match s.dev.getObj pt o with
          | none => (s, true)
          | some x =>
            if !x.dirty then (s.discardImage pt o, false)
            else if s.dev.lean (line * 128) then (rollback (s.discardImage pt o), false)
            else
              let members := s.dev.ctxs.filter fun k => k.2.pt = pt
              (members.foldl (fun s k => s.event k.1 1 3 0 (leBytes 4 o)) s, true)
        | none =>
          match c.entry va with
          | some e =>
            if bit e.attrs 1 then
              ((rollback s).onDev fun d => d.modCtx p.ctx fun c => { c with
                inflowLost := if c.inflowLost.any (fun r => r.1 = e.va) then c.inflowLost else c.inflowLost ++ [(e.va, e.granules, p.seq)] },
               false)
            else (rollback s, false)
          | none => (rollback s, false)

end Sys2Proof.Machine
end

