-- ==== Sys2Proof/Machine/KMem.lean ====
section
/-!
DEFINITION. Kernel loads, stores and atomics, the range cache, the fault registers and the engine control cache (R96 to
R107, R119 to R121, R263 to R274).
-/

namespace Sys2Proof.Machine

/-! ### The control cache (R102, R103). -/

/-- The slot of a line that the cache holds: one copy, which loads, stores and fetches share (R102, log 8). -/
def Engine.ccSlot (e : Engine) (line : Nat) : Option (Nat × CcLine) := e.cc.find? fun l => l.2.line = line

/-- Bytes of a cached line. -/
def CcLine.get (l : CcLine) (off n : Nat) : Bytes := sub l.data off n

/-- Stores bytes into a cached line and marks them (R237). -/
def CcLine.put (l : CcLine) (off : Nat) (bs : Bytes) : CcLine :=
  { l with data := (List.range bs.length).foldl (fun d k => setAt d (off + k) (bs.getD k 0)) l.data
           dirty := l.dirty ||| maskOf off bs.length }

/-- Writes a dirty line back to its home: only the bytes stored since the fill (R237). -/
def State.writeBack (s : State) (l : CcLine) : State :=
  if l.dirty = 0 then s else (s.homeWrite l.line l.dirty l.data).onDev fun d => d.markDirty (l.line * 128)

/-- Writes back the dirty lines that a test selects, and keeps them clean. -/
def State.ccClean (s : State) (e : Nat) (sel : Nat × CcLine → Bool) : State :=
  let s := ((s.dev.getEng e).cc.filter sel).foldl (fun s l => s.writeBack l.2) s
  s.onDev fun d => d.modEng e fun x => { x with cc := x.cc.map fun l => if sel l then (l.1, { l.2 with dirty := 0 }) else l }

/-- Writes back and invalidates the lines that a test selects: no store is discarded (R106). -/
def State.ccDrop (s : State) (e : Nat) (sel : Nat × CcLine → Bool) : State :=
  (s.ccClean e sel).onDev fun d => d.modEng e fun x => { x with cc := x.cc.filter fun l => !sel l }

/-- A check failure in a way: the counts of the way and of the engine (R107). -/
def Engine.wayFail (e : Engine) (w : Nat) : Engine :=
  { e with wayFails := Map.put e.wayFails w (Map.get e.wayFails w 0 + 1), checkFails := min (2 ^ 32 - 1) (e.checkFails + 1) }

/-- What a check of a cached line found (R107): a correctable error is corrected; an uncorrectable one invalidates a clean line and is a
hardware fault in a dirty one. The flag says that no fault arose. -/
def State.ccCheck (s : State) (e slot : Nat) (chk : Check) : State × Bool :=
  match Map.find (s.dev.getEng e).cc slot with
  | none => (s, true)
  | some l =>
    match chk with
    | .ok => (s, true)
    | .corrected => (s.onDev fun d => d.modEng e fun x => x.wayFail (slot % 8), true)
    | .uncorrectable =>
      let s := s.onDev fun d => d.modEng e fun x => x.wayFail (slot % 8)
      if l.dirty ≠ 0 then (s.absorbEng e .controlCache, false)
      else (s.onDev fun d => d.modEng e fun x => { x with cc := Map.del x.cc slot }, true)

/-- The checks of several lines, of those that a test selects: evictions, maintenance and write-backs at commit (R107). -/
def State.ccChecks (s : State) (e : Nat) (sel : Nat × CcLine → Bool) (l : List (Nat × Check)) : State × Bool :=
  l.foldl (fun r x =>
    match Map.find (r.1.dev.getEng e).cc x.1 with
    | some y => if r.2 && sel (x.1, y) then r.1.ccCheck e x.1 x.2 else r
    | none => r) (s, true)

/-! ### Performing an access. -/

/-- The value a load writes. -/
def loadValue (log2 : Nat) (sgn : Bool) (bs : Bytes) : Word :=
  if sgn then BitVec.ofInt 64 (signed (8 * 2 ^ log2) (leNat bs)) else BitVec.ofNat 64 (leNat bs)

/-- The access kind of Table 10.3. -/
def KAccess.kind (a : KAccess) : Nat := match a with | .load .. => 0 | .store .. => 1 | .amo .. => 3 | .fetch => 2

/-- A write of a part reaches bytes of a line: retained copies of the line end (R174), the part and context remember it. -/
def Dev.wrote (d : Dev) (uid line : Nat) (mask : BitVec 128) : Dev :=
  match d.getPart uid with
  | none => d
  | some p =>
    let d := d.modEng (eIdx p.eng) fun e => { e with retained := e.retained.map fun r =>
      { r with lines := r.lines.filter fun l => l.1 ≠ line } }
    let k := d.lineKey line
    (d.modPart uid fun p => { p with wrote := addWrote p.wrote k mask }).modCtx p.ctx fun c => { c with dirtied := addWrote c.dirtied k mask }

/-- The new value of an atomic (R119): 0 ADD, 1 XOR, 2 SWAP, 3 MIN, 4 MAX, signed, at its width. -/
def amoValue (op w old v : Nat) : Nat :=
  match op with
  | 0 => (old + v) % 2 ^ w
  | 1 => old ^^^ v
  | 2 => v
  | 3 => if signed w v < signed w old then v else old
  | _ => if signed w old < signed w v then v else old

/-- A kq.amo whose target lies at a physical address (R119, R120). Of a stateful object it reads the published version and writes the shadow (R224). -/
def State.amo (s : State) (i uid va pa op : Nat) (dbl : Bool) (rd : Fin 32) (v : Word) : State :=
  match s.dev.getPart uid with
  | none => s
  | some p =>
    let desc := s.dev.descOf uid
    let ext := field desc 64 8
    let len := field desc 72 8
    let inExt := ext ≤ va ∧ va + (if dbl then 8 else 4) ≤ ext + len
    let home := match paOf pa with | .hbm t _ => t = p.eng.t.val | _ => false
    if !home then s.trap i 28 va
    else if 2 ≤ op ∧ ¬ inExt then s.trap i 28 va
    else if op < 2 ∧ 2 ^ 25 < len + 16 * (p.atoms.length + 1) then s.trap i 30 va
    else
      let line := pa / 128
      let s := s.ccDrop (eIdx p.eng) fun l => l.2.line = line
      let n := if dbl then 8 else 4
      let old := leNat (s.readPa (match s.dev.place uid 0 va with | .phys a => a | _ => pa) n)
      let new := amoValue op (8 * n) old (v.toNat % 2 ^ (8 * n))
      let s := (s.writePa pa (leBytes n new)).onDev fun d =>
        ((d.wrote uid line (maskOf (pa % 128) n)).markDirty pa).modPart uid fun p =>
          { p with atoms := if op < 2 then p.atoms ++ [(op, pa, dbl, v)] else p.atoms }
      s.done i rd (loadValue (if dbl then 3 else 2) true (leBytes n old))

/-- A load or store that hits a cached line. -/
def State.ccHit (s : State) (i e slot : Nat) (l : CcLine) (uid pa : Nat) (acc : KAccess) : State :=
  match acc with
  | .load rd log2 sgn => s.done i rd (loadValue log2 sgn (l.get (pa % 128) (2 ^ log2)))
  | .store v log2 =>
    (s.onDev fun d => (d.modEng e fun x => { x with cc := Map.mod x.cc slot fun l => l.put (pa % 128) (leBytes (2 ^ log2) v.toNat) }).wrote
      uid (pa / 128) (maskOf (pa % 128) (2 ^ log2))).retire i
  | .fetch => s.modC i fun c => { c with stall := .none, fetched := some c.pc }
  | .amo _ _ _ _ => s

/-- A load, store or fetch at a physical address through the control cache: a hit, a miss that starts a fill, a miss that joins
it, or a miss that blocks (R103). -/
def State.ccAccess (s : State) (i e uid pa : Nat) (acc : KAccess) : State :=
  let x := s.dev.getEng e
  let line := pa / 128
  match x.ccSlot line with
  | some (slot, l) => (s.modC i fun c => { c with ccHits := min max64 (c.ccHits + 1) }).ccHit i e slot l uid pa acc
  | none =>
    match x.ccFill with
    | none =>
      (s.onDev fun d => d.modEng e fun x => { x with ccFill := some (line, acc = .fetch) }).modC i fun c =>
        { c with stall := .fillWait line pa acc, ccMisses := min max64 (c.ccMisses + 1) }
    | some (fill, _) =>
      if fill = line then s.modC i fun c => { c with stall := .fillWait line pa acc }
      else (s.onDev fun d => d.modEng e fun x => { x with ccQueue := x.ccQueue ++ [i] }).modC i fun c =>
        { c with stall := .blocked line pa acc }

/-- The range cache's entry for an address of a context (R263). -/
def Engine.rcFind (e : Engine) (ctx va : Nat) : Option RangeEntry :=
  (e.rcache.find? fun x => x.1 = ctx && x.2.covers va).map fun x => x.2

/-- Makes an entry the most recently used of the range cache, which holds 64. -/
def Engine.rcTouch (e : Engine) (ctx : Nat) (r : RangeEntry) : Engine :=
  { e with rcache := ((ctx, r) :: e.rcache.filter fun x => ¬ (x.1 = ctx ∧ x.2.va = r.va)).take 64 }

/-- A part takes a use pin at its first run-time access to an object (R208). -/
def Dev.usePin (d : Dev) (uid num : Nat) : Dev :=
  match d.getPart uid with
  | none => d
  | some p =>
    if has p.pins num then d
    else
      let pt := match d.getCtx p.ctx with | some c => c.pt | none => 0
      { (d.modPart uid fun p => { p with pins := p.pins ++ [num] }).modObj pt num fun o => { o with bound := d.serial } with
        serial := d.serial + 1 }

/-- Where a run-time access of a part lies. An object that is not RESIDENT is promoted for it, which may end a sink at once (R208, R209). -/
def Dev.reach (d : Dev) (r : RangeEntry) (uid access va : Nat) : Dev × Place :=
  match d.runPlace r uid access va, d.getPart uid with
  | .wait pt o, some p => let d := d.promote pt o .demand p.ctx; (d, d.runPlace r uid access va)
  | pl, _ => (d, pl)

/-- A kernel access to a virtual address: translated by the range cache, refused, held, or performed (R258, R263). -/
def State.vaccess (s : State) (i va : Nat) (acc : KAccess) : State :=
  let c := s.dev.getCl i
  let e := i / 20
  match c.part with
  | none => s
  | some uid =>
    match s.dev.getPart uid with
    | none => s
    | some p =>
      match (s.dev.getEng e).rcFind p.ctx va with
      | none => s.modC i fun c => { c with stall := .rcMiss va acc }
      | some r =>
        let s := s.onDev fun d => d.modEng e fun x => x.rcTouch p.ctx r
        let h := s.dev.reach r uid acc.kind va
        let s := s.onDev fun _ => h.1
        match h.2 with
        | .denied =>
          match acc with
          | .amo .. => if bit r.attrs 1 then s.failPart uid stBadRange else s.trap i 28 va
          | .fetch => s.trap i 1 va
          | _ => s.failPart uid stBadRange
        | .unmapped => s.modC i fun c => { c with stall := .rcMiss va acc }
        | .wait _ _ => s.modC i fun c => { c with stall := .object va acc }
        | .shadow _ _ _ => s.modC i fun c => { c with stall := .object va acc }
        | .owned => s.failPart uid stNotOwner
        | .window n => (s.event p.ctx 1 5 p.seq (leBytes 8 n ++ leBytes 8 va)).failPart uid stNotOwner
        | .phys pa =>
          let s := if r.kind = 2 then s.onDev fun d => d.usePin uid (r.target % 2 ^ 22) else s
          match acc with
          | .amo op dbl rd v => s.amo i uid va pa op dbl rd v
          | _ => s.ccAccess i e uid pa acc

/-- Tries again the access that a cluster is held at. -/
def State.retry (s : State) (i : Nat) : State :=
  match (s.dev.getCl i).stall with
  | .rcMiss va acc => (s.modC i fun c => { c with stall := .none }).vaccess i va acc
  | .faulted va acc => (s.modC i fun c => { c with stall := .none }).vaccess i va acc
  | .object va acc => (s.modC i fun c => { c with stall := .none }).vaccess i va acc
  | _ => s

/-- Tries again every access that waits for an object on any cluster (R208, R224). -/
def State.retryObjects (s : State) : State :=
  (s.dev.cl.filter fun c => match c.2.stall with | .object .. => true | _ => false).foldl (fun s c => s.retry c.1) s

/-! ### Fetching and running an instruction (R97, R103, R127, R149, R264, R266). -/

/-- The line of the control cache that serves an access of a cluster by virtual address, by its slot. -/
def State.lineAt (s : State) (i access va : Nat) : Option Nat :=
  match (s.dev.getCl i).part with
  | some uid =>
    match s.dev.place uid access va with
    | .phys pa => ((s.dev.getEng (i / 20)).ccSlot (pa / 128)).map fun l => l.1
    | _ => none
  | none => none

/-- An access that a check of the line that serves it goes before (R107). -/
def State.checked (s : State) (i access va : Nat) (chk : Check) (f : State → State) : State :=
  match s.lineAt i access va with
  | some slot => let r := s.ccCheck (i / 20) slot chk; if r.2 then f r.1 else r.1
  | none => f s

/-- The fetch of the instruction at pc, which the range cache translates and the control cache serves: a trap of cause 1, a wait, or the
instruction. -/
def State.fetch (s : State) (i : Nat) (chk : Check) : State :=
  let c := s.dev.getCl i
  let pc := c.pc.toNat
  if c.fetched = some c.pc then s
  else if 2 ^ 48 ≤ pc then s.trap i 1 pc
  else s.checked i 2 pc chk fun s => s.vaccess i pc .fetch

/-- A cluster that has reached the command's instruction: what base instructions did before it is done, and it is fetched. -/
def State.atInstr (s : State) (p : Pre) : State :=
  let i := clIdx p.cl
  let s := s.modC i fun c => c.applyPre p
  (if p.retired = 0 then s else s.progressed (i / 20)).fetch i p.chk

/-- Whether the instruction that a cluster stands at has been fetched. -/
def Dev.atHand (d : Dev) (i : Nat) : Bool := (d.getCl i).fetched = some (d.getCl i).pc

/-- A cluster takes its instruction from the fetch. -/
def Cluster.takeInstr (c : Cluster) : Cluster := { c with fetched := none }

/-- The other clusters that trapped in the core cycle in which a part's trap was taken (R127, R128). -/
def State.alsoTraps (s t : State) (p : Pre) : State :=
  let e := eIdx p.cl.eng
  match (s.dev.getCl (clIdx p.cl)).part with
  | none => t
  | some uid =>
    match (s.dev.getPart uid).bind (fun x => x.trap), (t.dev.getPart uid).bind fun x => x.trap with
    | none, some (cause, k, n, off, tv) =>
      let more := p.also.filter fun x => x.1.val ≠ k && (s.dev.getCl (20 * e + x.1.val)).ready && (s.dev.getCl (20 * e + x.1.val)).part = some uid
      let low := more.foldl (fun (a : Nat × Nat × Nat × Nat) x =>
        if x.1.val < a.1 then
          (x.1.val, x.2.1, ((s.dev.getCl (20 * e + x.1.val)).pc.toNat + 2 ^ 64 - field (s.dev.descOf uid) 32 8) % 2 ^ 32, x.2.2.toNat)
        else a) (k, cause, off, tv)
      t.onDev fun d => d.modPart uid fun x => { x with trap := some (low.2.1, low.1, n + more.length, low.2.2.1, low.2.2.2) }
    | _, _ => t

/-- One instruction of kernel code: nothing where the cluster runs no kernel or waits (log 7). -/
def State.kernelStep (s : State) (p : Pre) (f : Nat → State → State) : State :=
  let i := clIdx p.cl
  if (s.dev.getCl i).ready then
    let u := s.atInstr p
    if u.dev.atHand i then
      let u := u.modC i Cluster.takeInstr
      u.alsoTraps (f i u) p
    else s.alsoTraps u p
  else s

/-! ### Loads, stores and atomics of kernel code. -/

/-- A scalar load (R96 to R99, R103). -/
def State.kload (s : State) (i : Nat) (rd : Fin 32) (a : Nat) (log2 : Nat) (sgn : Bool) (chk : Check) : State :=
  let c := s.dev.getCl i
  if a % 2 ^ log2 ≠ 0 then s.trap i 4 a
  else if 2 ^ 63 ≤ a then
    match localOf (i % 20) a with
    | .cup o =>
      if chk ≠ .ok then s.absorbAt i .cupParity
      else s.done i rd (loadValue log2 sgn (Mem.read c.cup o (2 ^ log2)))
    | .foreign => s.trap i 27 a
    | .cistern _ => s.trap i 27 a
    | _ => s.trap i 5 a
  else if 2 ^ 48 ≤ a then s.trap i 5 a
  else
    s.checked i 0 a chk fun s => s.vaccess i a (.load rd log2 sgn)

/-- A scalar store (R96 to R99, R103). -/
def State.kstore (s : State) (i a : Nat) (v : Word) (log2 : Nat) (chk : Check) : State :=
  if a % 2 ^ log2 ≠ 0 then s.trap i 6 a
  else if 2 ^ 63 ≤ a then
    match localOf (i % 20) a with
    | .cup o => (s.modC i fun c => { c with cup := Mem.write c.cup o (leBytes (2 ^ log2) v.toNat) }).retire i
    | .foreign => s.trap i 27 a
    | .cistern _ => s.trap i 27 a
    | _ => s.trap i 7 a
  else if 2 ^ 48 ≤ a then s.trap i 7 a
  else s.checked i 1 a chk fun s => s.vaccess i a (.store v log2)

/-- A kq.amo (R119, R264): op 0 ADD, 1 XOR, 2 SWAP, 3 MIN, 4 MAX. -/
def State.kamo (s : State) (i : Nat) (op : Nat) (dbl : Bool) (rd rs1 rs2 : Fin 32) : State :=
  let c := s.dev.getCl i
  let a := (c.xget rs1).toNat
  if a % (if dbl then 8 else 4) ≠ 0 then s.trap i 6 a
  else if 2 ^ 63 ≤ a then s.trap i 28 a
  else if 2 ^ 48 ≤ a then s.trap i 7 a
  else s.vaccess i a (.amo op dbl rd (c.xget rs2))

/-! ### Fills. -/

/-- Completes the accesses of the clusters that wait for a line that has been filled. -/
def State.serveFill (s : State) (e slot line : Nat) : State :=
  (List.range 20).foldl (fun s k =>
    let i := 20 * e + k
    let c := s.dev.getCl i
    match c.stall, c.part, (s.dev.getEng e).ccSlot line with
    | .fillWait l pa acc, some uid, some (_, x) =>
      if l = line then (s.modC i fun c => { c with stall := .none }).ccHit i e slot x uid pa acc else s
    | _, _, _ => s) s

/-- Starts the next blocked miss, in arrival order; blocked misses to the same line join it (R103). -/
def State.nextMiss (fuel : Nat) (s : State) (e : Nat) : State :=
  match fuel with
  | 0 => s
  | fuel + 1 =>
    match (s.dev.getEng e).ccQueue with
    | [] => s
    | i :: rest =>
      let s := s.onDev fun d => d.modEng e fun x => { x with ccQueue := rest }
      let c := s.dev.getCl i
      match c.stall, c.part with
      | .blocked line pa acc, some uid =>
        match (s.dev.getEng e).ccSlot line with
        | some (slot, l) => ((s.modC i fun c => { c with stall := .none }).ccHit i e slot l uid pa acc).nextMiss fuel e
        | none =>
          let joined := rest.filter fun j => match (s.dev.getCl j).stall with | .blocked l _ _ => l = line | _ => false
          let s := s.onDev fun d => d.modEng e fun x => { x with ccFill := some (line, acc = .fetch), ccQueue := rest.filter fun j => !has joined j }
          let s := s.modC i fun c => { c with stall := .fillWait line pa acc, ccMisses := min max64 (c.ccMisses + 1) }
          joined.foldl (fun s j => s.modC j fun c => match c.stall with
            | .blocked l pa acc => { c with stall := .fillWait l pa acc }
            | _ => c) s
      | _, _ => s.nextMiss fuel e

/-- The fill under way lands in a way of its set, whose choice is the cache's; the victim is written back first
(R102, R103, R107, R237). A poisoned line is not cached: its load is held, or returns zero in a replay (R285). -/
def State.fill (s : State) (e way : Nat) (victim : Check) : State :=
  let x := s.dev.getEng e
  match x.ccFill with
  | none => s
  | some (line, instr) =>
    if has x.wayOff way then s
    else
      let slot := 8 * (line % 256) + way
      let v := s.ccCheck e slot victim
      if !v.2 then v.1
      else
      let s := v.1
      let s := s.onDev fun d => d.modEng e fun x => { x with ccFill := none }
      let waiter := (List.range 20).findSome? fun k =>
        let c := s.dev.getCl (20 * e + k)
        match c.stall, c.part with
        | .fillWait l pa _, some uid => if l = line then some (uid, pa) else none
        | _, _ => none
      let poisoned := Map.get s.mem.poison line 0 ≠ 0
      let data := if poisoned then List.replicate 128 0 else s.readPa (line * 128) 128
      let s' := if !poisoned then (s, true) else
        match waiter with
        | some (uid, pa) => s.poisonRead uid line pa
        | none => (s, true)
      if !s'.2 then s'.1
      else
        let s := s'.1
        let s := match Map.find (s.dev.getEng e).cc slot with
          | some v => s.writeBack v
          | none => s
        let s := s.onDev fun d => d.modEng e fun x => { x with
          cc := Map.put x.cc slot { line := line, instr := instr, data := data, dirty := 0 } }
        let s := s.serveFill e slot line
        let s := if poisoned then s.onDev fun d => d.modEng e fun x => { x with
          cc := x.cc.filter fun l => ¬ (l.1 = slot ∧ l.2.dirty = 0) } else s
        s.nextMiss 21 e

/-! ### Range-cache fills and run-time faults (R263, R266, R268 to R272). -/

/-- Whether a run-time fault joins an open entry for its granule (R269). -/
def FaultEntry.joins (f : FaultEntry) (ctx va : Nat) : Bool := f.cause = 0 && f.ctx = ctx && f.va / granule = va / granule

/-- A held access joins an entry for its granule: the engine's bit, and one more that waits. -/
def FaultEntry.join (f : FaultEntry) (ctx va e uid : Nat) (w : Who) : FaultEntry :=
  if f.joins ctx va then { f with engines := f.engines ||| 2 ^ e, runSrc := true, held := f.held ++ [(uid, w)] } else f

/-- A run-time fault of an engine: it joins an open entry, or loads the fault register, or waits without a record behind it. Behind a record
that the full queue holds back, the queue holds it back too (R266, R269, R272). -/
def State.runFault (s : State) (e uid va access : Nat) (w : Who) : State :=
  match s.dev.getPart uid with
  | none => s
  | some p =>
    let pt := match s.dev.getCtx p.ctx with | some c => c.pt | none => 0
    let behind : Bool := match (s.dev.getEng e).faultReg with | some f => f.full | none => false
    let r : FaultRec := { ctx := p.ctx, va := va, access := access, eng := some e, part := some uid, who := w, seq := p.seq, cause := 0,
                           age := s.dev.serial, since := s.time.fabric, full := behind }
    if (s.dev.getPt pt).faults.any (fun f => f.joins p.ctx va) then
      s.onDev fun d => d.modPt pt fun q => { q with faults := q.faults.map fun f => f.join p.ctx va e uid w }
    else
      s.onDev fun d =>
        let d : Dev := { d with serial := d.serial + 1 }
        let d := if behind then d.countPt pt 1 1 else d
        d.modEng e fun x =>
          if x.faultReg.isNone then { x with faultReg := some r } else { x with faultWait := x.faultWait ++ [r] }

/-- Whether a run-time fault of a part for a granule is already held or open (R266). -/
def Dev.faultKnown (d : Dev) (e uid va : Nat) : Bool :=
  let x := d.getEng e
  let same (f : FaultRec) : Bool := f.part = some uid && f.va / granule = va / granule
  let pt := match d.getPart uid with
    | some p => match d.getCtx p.ctx with | some c => c.pt | none => 0
    | none => 0
  (match x.faultReg with | some f => same f | none => false) || x.faultWait.any same
    || (d.getPt pt).faults.any fun f => f.held.any (fun h => h.1 = uid) && f.va / granule = va / granule

/-- What a part's access that reaches no physical address leads to (R16, R208, R225, R258, R266). -/
def State.stopAt (s : State) (e uid access va : Nat) (pl : Place) : State :=
  match s.dev.getPart uid with
  | none => s
  | some p =>
    match pl with
    | .phys _ => s
    | .unmapped => if s.dev.faultKnown e uid va then s else s.runFault e uid va access .gather
    | .denied => s.failPart uid stBadRange
    | .wait pt o => s.onDev fun d => d.promote pt o .demand p.ctx
    | .shadow _ _ _ => s
    | .owned => s.failPart uid stNotOwner
    | .window n => (s.event p.ctx 1 5 p.seq (leBytes 8 n ++ leBytes 8 va)).failPart uid stNotOwner

/-! ### Translation of mover requests and gather streams (R208, R263, R266). -/

/-- Translates the accesses of a mover request or gather stream in order, each by its kind and first address in a granule: the flag says
that all of them are reached. Each object that is reached takes a use pin. -/
def State.xlate (s : State) (e uid : Nat) (x : Xlat) (l : List (Nat × Nat)) : State × Xlat × Bool :=
  match l with
  | [] => (s, { x with hold := none }, true)
  | (access, va) :: rest =>
    match s.dev.getPart uid with
    | none => (s, x, false)
    | some p =>
      let known := has x.got (va / granule)
      let entry := if known then (s.dev.getCtx p.ctx).bind fun c => c.entry va else (s.dev.getEng e).rcFind p.ctx va
      match entry with
      | none => (s, { x with hold := some (.miss va access) }, false)
      | some r =>
        let s := if known then s else s.onDev fun d => d.modEng e fun y => y.rcTouch p.ctx r
        let x := { x with got := addOnce x.got (va / granule) }
        let h := s.dev.reach r uid access va
        let s := s.onDev fun _ => h.1
        match h.2 with
        | .phys _ => (if r.kind = 2 then s.onDev fun d => d.usePin uid (r.target % 2 ^ 22) else s).xlate e uid x rest
        | .wait _ _ => (s, { x with hold := some (.object va access) }, false)
        | .shadow _ _ _ => (s, { x with hold := some (.object va access) }, false)
        | pl => (s.stopAt e uid access va pl, x, false)

/-- Whether a hold keeps a transfer from being tried: the translation unit, or host software, answers first. -/
def Xlat.held (x : Xlat) : Bool := match x.hold with | some (.miss _ _) => true | some (.fault _ _) => true | _ => false

/-- Changes the translation of a mover request or a gather stream. -/
def State.modXlat (s : State) (e uid : Nat) (w : Who) (f : Xlat → Xlat) : State :=
  match w with
  | .core _ => s
  | .mover k tag => s.modC (20 * e + k.val) fun c => { c with movs := c.movs.map fun r => if r.tag = tag then { r with xl := f r.xl } else r }
  | .gather => s.onDev fun d => d.modPart uid fun p => { p with xl := f p.xl }

/-- What the translation of a mover request or gather stream is held at. -/
def Dev.holdOf (d : Dev) (e uid : Nat) (w : Who) : Option Hold :=
  match w with
  | .core _ => none
  | .mover k tag =>
    let c := d.getCl (20 * e + k.val)
    if c.part = some uid then (c.movs.find? fun r => r.tag = tag).bind fun r => r.xl.hold else none
  | .gather => (d.getPart uid).bind fun p => p.xl.hold

/-- The translation unit answers a range-cache miss of a part (R263): the entry, or no entry. -/
def State.rcFill (s : State) (e uid : Nat) (w : Who) : State :=
  match s.dev.getPart uid with
  | none => s
  | some p =>
    let look (va : Nat) : Option RangeEntry := (s.dev.getCtx p.ctx).bind fun x => x.entry va
    if eIdx p.eng ≠ e ∨ p.stage ≠ .executing then s
    else
      match w with
      | .core k =>
        let i := 20 * e + k.val
        let c := s.dev.getCl i
        match c.stall with
        | .rcMiss va acc =>
          if c.part ≠ some uid then s
          else
            match look va with
            | some r => (s.onDev fun d => d.modEng e fun x => x.rcTouch p.ctx r).retry i
            | none => (s.modC i fun c => { c with stall := .faulted va acc }).runFault e uid va acc.kind w
        | _ => s
      | w =>
        match s.dev.holdOf e uid w with
        | some (.miss va access) =>
          match look va with
          | some r => (s.onDev fun d => d.modEng e fun x => x.rcTouch p.ctx r).modXlat e uid w fun x => { x with hold := none }
          | none => (s.modXlat e uid w fun x => { x with hold := some (.fault va access) }).runFault e uid va access w
        | _ => s

/-- An access that host software's RESUME releases translates again (R270). -/
def State.releaseHold (s : State) (e uid : Nat) (w : Who) : State :=
  match w with
  | .core k =>
    let c := s.dev.getCl (20 * e + k.val)
    match c.stall with
    | .faulted _ _ => if c.part = some uid then s.retry (20 * e + k.val) else s
    | _ => s
  | w => s.modXlat e uid w fun x => match x.hold with | some (.fault _ _) => { x with hold := none } | _ => x

/-! ### Maintenance (R106). -/

/-- The lines that a maintenance set's range covers, by physical line: those of its granules that the context maps. -/
def Dev.maintSel (d : Dev) (ctx : Nat) (m : Maint) (l : Nat × CcLine) : Bool :=
  match d.getCtx ctx with
  | none => false
  | some c =>
    c.ranges.any fun r =>
      let lo := max (m.base * 128) (r.entry.va * granule)
      let hi := min ((m.base + m.lines) * 128) ((r.entry.va + r.entry.granules) * granule)
      lo < hi &&
        match r.entry.kind with
        | 2 =>
          match d.getObj c.pt (r.entry.target % 2 ^ 22) with
          | none => false
          | some o =>
            let at' (b g : Nat) : Bool :=
              let va := (r.entry.va + g) * granule + (l.2.line * 128 - b)
              b ≤ l.2.line * 128 && l.2.line * 128 < b + granule && lo ≤ va && va < hi
            (List.range o.image.length).any (fun g => at' (o.image.getD g 0) g) || o.shadow.any fun g => at' g.2 g.1
        | _ =>
          let b := r.entry.target % 2 ^ 34 * granule
          let va := r.entry.va * granule + (l.2.line * 128 - b)
          b ≤ l.2.line * 128 && lo ≤ va && va < hi

/-- A maintenance set of an engine: none is Jormon's. -/
def Dev.getMaint (d : Dev) (e : Nat) (set : Option Nat) : Maint :=
  match set with | none => (d.getEng e).jmaint | some k => (d.getCl (20 * e + k)).maint

def Dev.modMaint (d : Dev) (e : Nat) (set : Option Nat) (f : Maint → Maint) : Dev :=
  match set with
  | none => d.modEng e fun x => { x with jmaint := f x.jmaint }
  | some k => d.modCl (20 * e + k) fun c => { c with maint := f c.maint }

/-- The context that a maintenance set acts for: that of the cluster's kernel; Jormon's set names no context and acts on
the kernel of cluster 0 (log 9). -/
def Dev.maintCtx (d : Dev) (e : Nat) (set : Option Nat) : Nat :=
  match (d.getCl (20 * e + set.getD 0)).part with
  | some uid => match d.getPart uid with | some p => p.ctx | none => 2 ^ 32
  | none => 2 ^ 32

/-- The place of a set among the 21: those of the clusters, then Jormon's. -/
def setNum (k : Option Nat) : Nat := k.getD 20

/-- A request joins the waiting ones in round-robin order after the one that is served (R106). -/
def maintJoin (q : List (Option Nat)) (k : Option Nat) : List (Option Nat) :=
  match q with
  | [] => [k]
  | h :: t =>
    let after (x : Option Nat) : Nat := (setNum x + 21 - setNum h) % 21
    h :: ((t.takeWhile fun x => after x < after k) ++ k :: t.dropWhile fun x => after x < after k)

/-- A write of OP (Table 5.6): while BUSY it only sets OVERRUN; 0 and 3 start nothing, nor does a range of no lines. -/
def Dev.maintOp (d : Dev) (e : Nat) (set : Option Nat) (op : Nat) : Dev :=
  let m := d.getMaint e set
  if m.busy then d.modMaint e set fun m => { m with overrun := true }
  else if (op = 1 ∨ op = 2) ∧ m.lines ≠ 0 then
    (d.modMaint e set fun m => { m with busy := true, op := op }).modEng e fun x => { x with maintq := maintJoin x.maintq set }
  else d

/-- The walk of a request of a given OP (R106). -/
def State.maintWalk (s : State) (e : Nat) (set : Option Nat) (op : Nat) (chks : List (Nat × Check)) : State :=
  let m := s.dev.getMaint e set
  if m.busy ∧ m.op = op ∧ (s.dev.getEng e).maintq.head? = some set then
    let sel := s.dev.maintSel (s.dev.maintCtx e set) m
    let r := s.ccChecks e sel chks
    if !r.2 then r.1
    else
    let s := if op = 1 then r.1.ccClean e sel else r.1.ccDrop e sel
    s.onDev fun d => d.modMaint e set fun m => { m with op := 0 }
  else s

/-- The walk has ended: BUSY clears and the next request is served (R106). -/
def State.maintDone (s : State) (e : Nat) (set : Option Nat) : State :=
  let m := s.dev.getMaint e set
  if m.busy ∧ m.op = 0 ∧ (s.dev.getEng e).maintq.head? = some set then
    s.onDev fun d => (d.modMaint e set fun m => { m with busy := false }).modEng e fun x => { x with maintq := x.maintq.tail }
  else s

/-- A way that has reached 16 failures is written back, invalidated and disabled; at a third way the engine goes to L1
with its spare (R107). -/
def State.wayDisable (s : State) (e way : Nat) (chks : List (Nat × Check)) : State :=
  let x := s.dev.getEng e
  if Map.get x.wayFails way 0 < 16 ∨ has x.wayOff way then s
  else if 2 ≤ x.wayOff.length then
    let s := x.executing.foldl (fun s u => (s.abandon u).onDev fun d => d.modPart u fun p => { p with absorbed := some (1, 5, false) }) s
    s.onDev fun d => d.modEng e fun x => { x with isolated := some s.kettle, absent := true, needSpare := true }
  else
    let r := s.ccChecks e (fun l => l.1 % 8 = way) chks
    if !r.2 then r.1
    else
    let s := r.1.ccDrop e fun l => l.1 % 8 = way
    let s := s.onDev fun d => d.modEng e fun x => { x with wayOff := addOnce x.wayOff way }
    let phys := Map.get (s.dev.getTerr (e / 5)).serves (e % 5) (e % 5)
    s.log 0x200 none none (leBytes 1 (e / 5) ++ leBytes 1 phys ++ leBytes 1 way)

/-! ### Meanings. -/

/-- KERNEL_LOAD (R96 to R99, R103). -/
def execKernelLoad (p : Pre) (rd rs1 : Fin 32) (imm : BitVec 12) (log2 : Fin 4) (sgn : Bool) (chk : Check) (s : State) : Out :=
  .next (s.kernelStep p fun i s => s.kload i rd ((s.dev.getCl i).xget rs1 + imm.signExtend 64).toNat log2.val sgn chk)

/-- KERNEL_STORE (R96 to R99, R103). -/
def execKernelStore (p : Pre) (rs1 rs2 : Fin 32) (imm : BitVec 12) (log2 : Fin 4) (chk : Check) (s : State) : Out :=
  .next (s.kernelStep p fun i s =>
    let c := s.dev.getCl i
    s.kstore i (c.xget rs1 + imm.signExtend 64).toNat (c.xget rs2) log2.val chk)

/-- KQ_AMOADD_W (R119, R120). -/
def execKqAmoaddW (p : Pre) (rd rs1 rs2 : Fin 32) (s : State) : Out :=
  .next (s.kernelStep p fun i s => s.kamo i 0 false rd rs1 rs2)

/-- KQ_AMOXOR_W (R119, R120). -/
def execKqAmoxorW (p : Pre) (rd rs1 rs2 : Fin 32) (s : State) : Out :=
  .next (s.kernelStep p fun i s => s.kamo i 1 false rd rs1 rs2)

/-- KQ_AMOADD_D (R119, R120). -/
def execKqAmoaddD (p : Pre) (rd rs1 rs2 : Fin 32) (s : State) : Out :=
  .next (s.kernelStep p fun i s => s.kamo i 0 true rd rs1 rs2)

/-- KQ_AMOXOR_D (R119, R120). -/
def execKqAmoxorD (p : Pre) (rd rs1 rs2 : Fin 32) (s : State) : Out :=
  .next (s.kernelStep p fun i s => s.kamo i 1 true rd rs1 rs2)

/-- KQ_AMOSWAP_D (R119, R120). -/
def execKqAmoswapD (p : Pre) (rd rs1 rs2 : Fin 32) (s : State) : Out :=
  .next (s.kernelStep p fun i s => s.kamo i 2 true rd rs1 rs2)

/-- KQ_AMOMIN_D (R119, R120). -/
def execKqAmominD (p : Pre) (rd rs1 rs2 : Fin 32) (s : State) : Out :=
  .next (s.kernelStep p fun i s => s.kamo i 3 true rd rs1 rs2)

/-- KQ_AMOMAX_D (R119, R120). -/
def execKqAmomaxD (p : Pre) (rd rs1 rs2 : Fin 32) (s : State) : Out :=
  .next (s.kernelStep p fun i s => s.kamo i 4 true rd rs1 rs2)

/-- FENCE_I (R105): every instruction line of the engine's control cache is invalidated; what was stored to one is written back first. -/
def execFenceI (p : Pre) (s : State) : Out :=
  .next (s.kernelStep p fun i s => (s.ccDrop (i / 20) fun l => l.2.instr).retire i)

/-- CC_FILL_COMPLETE (R103): `victim` is the check of the line that makes way. -/
def execCcFillComplete (e : EngId) (way : Fin 8) (victim : Check) (s : State) : Out := .next (s.fill (eIdx e) way.val victim)

/-- CC_CLEAN (R106). -/
def execCcClean (e : EngId) (set : Option (Fin 20)) (chks : List (Nat × Check)) (s : State) : Out :=
  .next (s.maintWalk (eIdx e) (set.map Fin.val) 1 chks)

/-- CC_INVALIDATE (R106). -/
def execCcInvalidate (e : EngId) (set : Option (Fin 20)) (chks : List (Nat × Check)) (s : State) : Out :=
  .next (s.maintWalk (eIdx e) (set.map Fin.val) 2 chks)

/-- CC_MAINTENANCE_DONE (R106). -/
def execCcMaintenanceDone (e : EngId) (set : Option (Fin 20)) (s : State) : Out :=
  .next (s.maintDone (eIdx e) (set.map Fin.val))

/-- CC_WAY_DISABLED (R107). -/
def execCcWayDisabled (e : EngId) (way : Fin 8) (chks : List (Nat × Check)) (s : State) : Out := .next (s.wayDisable (eIdx e) way.val chks)

/-- The failure count of a way halves where 2^30 core cycles have passed since it did last (R107). -/
def Engine.halve (x : Engine) (way now : Nat) : Engine :=
  if now < Map.get x.wayHalved way 0 + 2 ^ 30 then x
  else { x with wayFails := Map.put x.wayFails way (Map.get x.wayFails way 0 / 2)
                wayHalved := Map.put x.wayHalved way (Map.get x.wayHalved way 0 + 2 ^ 30) }

/-- CC_FAIL_COUNT_HALVING (R107). -/
def execCcFailCountHalving (e : EngId) (way : Fin 8) (s : State) : Out :=
  .next (s.onDev fun d => d.modEng (eIdx e) fun x => x.halve way.val ((d.getTerr e.t.val).arr16 / 32))

/-- RANGE_CACHE_FILL (R263): the translation unit answers the miss of an access of a part. -/
def execRangeCacheFill (e : EngId) (part : Nat) (w : Who) (s : State) : Out := .next (s.rcFill (eIdx e) part w)

end Sys2Proof.Machine
end

