-- ==== Sys2Proof/Machine/Array.lean ====
section
/-!
DEFINITION. The matrix array: issuing, starting and finishing its operations, the accumulator bank and the activity
ramp (R76 to R93, R109 to R113).
-/

namespace Sys2Proof.Machine

/-! ### Geometry (Table 4.1). -/

/-- Reduction positions of a PE. -/
def peP (f : Nat) : Nat := match f with | 0 => 4 | 1 => 2 | _ => 1

/-- Bytes of a PE word. -/
def peBytes (f : Nat) : Nat := match f with | 5 => 2 | 6 => 2 | 7 => 2 | 8 => 3 | 9 => 4 | _ => 1

/-- Exponent groups of a column. -/
def peGroups (f : Nat) : Nat :=
  match f with | 0 => 4 | 1 => 4 | 2 => 2 | 3 => 2 | 4 => 1 | 5 => 4 | 6 => 4 | 7 => 1 | 8 => 8 | _ => 1

/-- Bytes of n activation elements in the cup (R83): KQ6 takes a byte each, KQ12 two. -/
def actBytes (f n : Nat) : Nat := match f with | 2 => n | 5 => 2 * n | _ => lineBytes f n

/-- Activation scale groups of n positions (R83). -/
def actGroups (f n : Nat) : Nat := if fmtBlock f = 0 then 1 else ceilDiv n (fmtBlock f)

/-- Code of activation element k of a token at an offset of the cup. -/
def actCode (f : Nat) (cup : Mem) (base k : Nat) : Nat :=
  match f with
  | 2 => (Mem.get cup (base + k)).toNat % 64
  | 5 => Mem.le cup (base + 2 * k) 2 % 4096
  | _ => elemCode f (fun o => Mem.get cup (base + o)) k

/-! ### Issue (R88, R109 to R113). -/

/-- The format of the weight tile that an operation after those listed will use. -/
def Cluster.tileAfter (c : Cluster) (l : List ArrOp) : Nat :=
  match l.reverse.findSome? fun o => match o.kind with | .load _ _ f => some f | _ => none with
  | some f => f
  | none => c.wFmt

/-- The format of the weight tile that an operation issued now will use. -/
def Cluster.tileFmt (c : Cluster) : Nat := c.tileAfter c.arrq

/-- Enters an operation in the queue and writes its ticket; the 2^32-th traps, a fifth waits (R88, R113). -/
def State.issueArr (s : State) (i : Nat) (k : ArrKind) (rd : Fin 32) : State :=
  let c := s.dev.getCl i
  if c.tickets + 1 = 2 ^ 32 then s.trap i 30 0
  else if 4 ≤ c.arrq.length then s.modC i fun c => { c with stall := .arrFull k rd }
  else
    let s := s.modC i fun c => { c with tickets := c.tickets + 1, arrq := c.arrq ++ [{ ticket := c.tickets + 1, kind := k }] }
    s.done i rd (BitVec.ofNat 64 (c.tickets + 1))

/-- kq.wload (R81, R109). -/
def State.wload (s : State) (i : Nat) (rd rs1 rs2 : Fin 32) : State :=
  let c := s.dev.getCl i
  let base := (c.xget rs1).toNat
  let v := (c.xget rs2).toNat
  let rows := v % 128
  let f := bits v 11 8
  if rows = 0 ∨ 64 < rows ∨ bit v 7 ∨ 2 ^ 12 ≤ v then s.trap i 30 v
  else if 10 ≤ f then s.trap i 26 v
  else if base % 256 ≠ 0 then s.trap i 25 base
  else if cupEnd < base + 16896 then s.trap i 24 base
  else s.issueArr i (.load base rows f) rd

/-- kq.stream and kq.streamt (R83, R85, R110, R112). -/
def State.streamOp (s : State) (i : Nat) (t : Bool) (rd rs1 : Fin 32) : State :=
  let c := s.dev.getCl i
  let b := (c.xget rs1).toNat
  let w (o n : Nat) := Mem.le c.cup (b + o) n
  let f := w 20 1 % 16
  let fl := w 21 1
  let n := w 16 2
  let q := w 18 2
  let p := peP c.tileFmt
  let positions := if t then 64 else 64 * p
  let limit := if t then q + p * n ≤ 256 else q + n ≤ 256
  if b % 32 ≠ 0 then s.trap i 25 b
  else if cupEnd < b + 32 then s.trap i 24 b
  else if 16 ≤ w 20 1 ∨ 2 ≤ fl ∨ w 22 10 ≠ 0 ∨ 256 ≤ q then s.trap i 30 b
  else if 10 ≤ f then s.trap i 26 b
  else if w 4 4 % 64 ≠ 0 ∨ w 12 4 % 16 ≠ 0 then s.trap i 25 b
  else if !limit then s.trap i 30 b
  else if n ≠ 0 ∧ (cupEnd < w 0 4 + (n - 1) * w 4 4 + actBytes f positions
      ∨ cupEnd < w 8 4 + (n - 1) * w 12 4 + actGroups f positions) then s.trap i 24 b
  else s.issueArr i (.stream t (w 0 4) (w 4 4) (w 8 4) (w 12 4) n q f (fl = 1)) rd

/-- kq.drain (R86, R110 to R112). -/
def State.drainOp (s : State) (i : Nat) (rd rs1 : Fin 32) : State :=
  let c := s.dev.getCl i
  let b := (c.xget rs1).toNat
  let w (o n : Nat) := Mem.le c.cup (b + o) n
  let f := w 20 1 % 16
  let n := w 16 2
  let q := w 18 2
  let scales := if f = 10 then 0 else actGroups f 64
  if b % 32 ≠ 0 then s.trap i 25 b
  else if cupEnd < b + 32 then s.trap i 24 b
  else if 16 ≤ w 20 1 ∨ w 21 1 ≠ 0 ∨ w 24 8 ≠ 0 then s.trap i 30 b
  else if !fmtOk f ∨ !convOk f (w 22 2) ∨ ((f = 4 ∨ f = 7) ∧ !bit (w 22 2) 2) then s.trap i 26 b
  else if w 4 4 % 64 ≠ 0 ∨ (f ≠ 10 ∧ w 12 4 % 16 ≠ 0) then s.trap i 25 b
  else if 256 < q + n ∨ 256 ≤ q then s.trap i 30 b
  else if n ≠ 0 ∧ (cupEnd < w 0 4 + (n - 1) * w 4 4 + lineBytes f 64
      ∨ (f ≠ 10 ∧ cupEnd < w 8 4 + (n - 1) * w 12 4 + scales)) then s.trap i 24 b
  else s.issueArr i (.drain (w 0 4) (w 4 4) (w 8 4) (w 12 4) n q f (w 22 2)) rd

/-- kq.reload (R86, R110 to R112). -/
def State.reloadOp (s : State) (i : Nat) (rd rs1 : Fin 32) : State :=
  let c := s.dev.getCl i
  let b := (c.xget rs1).toNat
  let w (o n : Nat) := Mem.le c.cup (b + o) n
  let n := w 16 2
  let q := w 18 2
  if b % 32 ≠ 0 then s.trap i 25 b
  else if cupEnd < b + 32 then s.trap i 24 b
  else if w 21 1 ≠ 0 ∨ w 24 8 ≠ 0 then s.trap i 30 b
  else if w 4 4 % 64 ≠ 0 then s.trap i 25 b
  else if 256 < q + n ∨ 256 ≤ q then s.trap i 30 b
  else if n ≠ 0 ∧ cupEnd < w 0 4 + (n - 1) * w 4 4 + 1024 then s.trap i 24 b
  else s.issueArr i (.reload (w 0 4) (w 4 4) n q) rd

/-! ### The accumulator bank (R57, R74, R85). -/

/-- The bits that an accumulator's parity covers: A, w and the flags (R74). -/
def Acc.bits (x : Acc) : Nat :=
  code 96 x.a + 2 ^ 96 * code 16 x.w + 2 ^ 112 * ((if x.empty then 1 else 0) + (if x.sticky then 2 else 0) + if x.poison then 4 else 0)

/-- The accumulator that such bits hold. -/
def Acc.ofBits (n : Nat) : Acc :=
  { a := signed 96 n, w := signed 16 (n / 2 ^ 96), empty := bit n 112, sticky := bit n 113, poison := bit n 114 }

/-- The exclusive or of 128 bits. -/
def parity (n : Nat) : Bool :=
  let n := n ^^^ (n >>> 64)
  let n := n ^^^ (n >>> 32)
  let n := n ^^^ (n >>> 16)
  let n := n ^^^ (n >>> 8)
  let n := n ^^^ (n >>> 4)
  let n := n ^^^ (n >>> 2)
  bit (n ^^^ (n >>> 1)) 0

/-- An entry as it is written: the accumulator with its parity bit. -/
def AccEntry.of (a : Acc) : AccEntry := { acc := a, par := parity a.bits }

/-- Whether the parity of an entry holds. -/
def AccEntry.ok (e : AccEntry) : Bool := e.par = parity e.acc.bits

/-- An entry of the bank; one that nothing has set since launch is undefined (R101), with the parity of what it holds. -/
def Cluster.entry (c : Cluster) (k : Nat) : AccEntry :=
  match Map.find c.bank k with
  | some e => e
  | none =>
    match c.bankOpen with
    | none => .of {}
    | some n =>
      let f := Config.freeAccF n k
      .of { a := (Config.freeAccA n k).toInt, w := (Config.freeAccW n k).toInt,
            empty := f.getLsbD 0, sticky := f.getLsbD 1, poison := f.getLsbD 2 }

/-- An accumulator of the bank. -/
def Cluster.acc (c : Cluster) (k : Nat) : Acc := (c.entry k).acc

/-- Writes an accumulator with its parity. -/
def Cluster.setAcc (c : Cluster) (k : Nat) (a : Acc) : Cluster := { c with bank := Map.put c.bank k (.of a) }

/-- An entry with one of its bits turned: bit 115 is the parity bit. -/
def AccEntry.strike (e : AccEntry) (n : Nat) : AccEntry :=
  if n = 115 then { e with par := !e.par } else { e with acc := .ofBits (e.acc.bits ^^^ 2 ^ n) }

/-! ### The weight tile (R79, R81, R82). -/

/-- The element codes of a PE word: element j of the PE, ignoring the bits above a KQ6 or KQ12 code. -/
def peCode (f : Nat) (word j : Nat) : Nat := (word >>> (j * fmtBits f)) % 2 ^ fmtBits f

/-- Row r of a weight load: PE words, their residues, and eight exponent bytes (Table 4.3). -/
def Cluster.loadRow (c : Cluster) (base rows f r : Nat) : Cluster :=
  let word (col : Nat) : Nat := Mem.le c.cup (base + 256 * r + col * peBytes f) (peBytes f)
  let limb (col j l : Nat) : Nat := ((limbs f (codeValue f (peCode f (word col) j))).getD l 0 % 7).toNat
  let c := if r = 0 then { c with wFmt := f, wRows := rows, wWord := [], wRes := [], wExp := [] } else c
  let c := { c with wExp := c.wExp ++ Mem.slice c.cup (base + 16384 + 8 * r) 8 (8 * r) }
  if rows ≤ r then c
  else { c with
    wWord := c.wWord ++ (List.range 64).map fun col => (64 * r + col, BitVec.ofNat 32 (word col))
    wRes := c.wRes ++ (List.range 64).flatMap fun col =>
      if peP f = 1 then (List.range (limbCount f)).map fun l => (4 * (64 * r + col) + l, limb col 0 l)
      else (List.range (peP f)).map fun j => (4 * (64 * r + col) + j, limb col j 0) }

/-- Row of the exponents that a reduction position uses, and its E8. -/
def Cluster.wExpAt (c : Cluster) (r col : Nat) : Nat × Byte :=
  let g := r / (64 / peGroups c.wFmt)
  (g, if c.wFmt = 9 then Mem.get c.wExp 0 else Mem.get c.wExp (64 * g + col))

/-- What a weight load counts once it has read the image (R40, R53, R82): excluded codes outside poisoned groups, and poisoned groups
(log 54). -/
def Cluster.loadCount (c : Cluster) : Cnt :=
  let f := c.wFmt
  let exps := if f = 9 then 1 else 64 * peGroups f
  { viol := ((c.wWord.filter fun w => e8 (c.wExpAt (w.1 / 64) (w.1 % 64)).2 ≠ none).flatMap fun w =>
      (List.range (peP f)).filter fun j => peCode f w.2.toNat j = 2 ^ (fmtBits f - 1)).length
    pois := ((List.range exps).filter fun g => Mem.get c.wExp g = 0x80).length }

/-- Weight of reduction position k in column col. -/
def Cluster.weight (c : Cluster) (k col : Nat) : OpElem :=
  let f := c.wFmt
  let r := k / peP f
  let e := c.wExpAt r col
  let n := 64 * r + col
  if c.wRows ≤ r then { q := 0, e := e8 e.2, grp := e.1, res := [] }
  else
    { q := codeValue f (peCode f (Map.get c.wWord n 0).toNat (k % peP f)), e := e8 e.2, grp := e.1
      res := if peP f = 1 then (List.range (limbCount f)).map fun l => Map.get c.wRes (4 * n + l) 0
        else [Map.get c.wRes (4 * n + k % peP f) 0] }

/-! ### Activations and column sums (R54 to R58, R73, R83 to R85). -/

/-- Activation element k of the token whose elements and exponents lie at two places of the cup. -/
def actElem (cup : Mem) (f eb xb k : Nat) : OpElem :=
  let g := if fmtBlock f = 0 then 0 else k / fmtBlock f
  { q := codeValue f (actCode f cup eb k), e := e8 (Mem.get cup (xb + g)), grp := g }

/-- What decoding a token counts (R30, R53). -/
def actCount (cup : Mem) (f eb xb n : Nat) : Cnt :=
  let groups := List.range (actGroups f n)
  let poisoned (g : Nat) : Bool := Mem.get cup (xb + g) = 0x80
  { pois := (groups.filter poisoned).length
    viol := ((List.range n).filter fun k =>
      !poisoned (if fmtBlock f = 0 then 0 else k / fmtBlock f) && actCode f cup eb k = 2 ^ (fmtBits f - 1)).length }

/-- The residue that a column predicts for a contribution, from the residues kept with the weight limbs and those of the activation
limbs (R73). -/
def predicted (af : Nat) (g : List (OpElem × OpElem)) (i j : Nat) : Int :=
  (g.foldl (fun acc x => acc + (x.1.res.getD i 0 : Int) * ((limbs af x.2.q).getD j 0 % 7)) 0) % 7

/-- The contributions of one lane in one pass, an error reaching the first: the sums, and whether each agrees with its residue. -/
def laneSums (wf af : Nat) (gs : List (List (OpElem × OpElem))) (i j : Nat) (err : Int) : List (Int × Int) × Bool :=
  let ok := gs.filter fun g => !segPoison g
  let cs := ok.map fun g => contribution wf af g i j
  let cs := match cs with | x :: t => (x.1 + err, x.2) :: t | [] => []
  (cs, (ok.zip cs).all fun x => predicted af x.1 i j = x.2.1 % 7)

/-- What a cycle of an operation does: the cluster after it, draws taken, and a fault that a check found. -/
structure ArrStep where
  c     : Cluster
  draws : Nat := 0
  fault : Option HwClass := none

/-- One lane of a token in one pass adds its contributions to its accumulator, whose parity is checked (R58, R73, R74). -/
def ArrStep.lane (r : ArrStep) (af : Nat) (gs : List (List (OpElem × OpElem))) (i j : Nat) (err : Int) (k : Nat) : ArrStep :=
  if r.fault.isSome then r
  else
    let s := laneSums r.c.wFmt af gs i j err
    let pois := gs.any segPoison
    if !s.2 then { r with fault := some .residue }
    else if !pois ∧ s.1.all (fun x => x.1 = 0) then r
    else if !(r.c.entry k).ok then { r with fault := some .accParity }
    else
      let a := (r.c.acc k).addAll s.1
      { r with c := (r.c.setAcc k { a.1 with poison := a.1.poison || pois }).addCnt { trunc := a.2 } }

/-- Errors that strike a column sum of an operation at a cycle. -/
def sumError (us : List Upset) (step lane : Nat) : Int :=
  (us.map fun u => match u with | .sum s l e => if s = step ∧ l = lane then e else 0 | _ => 0).sum

/-- One cycle of a stream: a token enters for a pass (R84, R85). In transposed use each column position is a segment (R78). -/
def Cluster.streamStep (c : Cluster) (t : Bool) (eb es xb xs n q f : Nat) (fresh : Bool) (us : List Upset) (pos : Nat) : ArrStep :=
  let p := peP c.wFmt
  let la := limbCount f
  let m := pos % n
  let i := pos / n / la
  let j := pos / n % la
  let eb := eb + m * es
  let xb := xb + m * xs
  let row := if t then q + p * m else q + m
  let c := if pos < n then
      let c := if fresh then (List.range (64 * if t then p else 1)).foldl (fun c k => c.setAcc (64 * row + k) {}) c else c
      c.addCnt (actCount c.cup f eb xb (if t then 64 else 64 * p))
    else c
  (List.range (if t then 64 * p else 64)).foldl (fun r lane =>
    let l := if t then (List.range 64).map fun col => (c.weight lane col, actElem c.cup f eb xb col)
      else (List.range (64 * p)).map fun k => (c.weight k lane, actElem c.cup f eb xb k)
    r.lane f (segments t (32 * p) 0 [] l) i j (sumError us pos lane) (64 * row + lane)) { c := c }

/-! ### Drain and reload (R61, R86, R111). -/

/-- One row of a drain: 64 accumulators, their parity checked, are rounded and written to the cup; draws are numbered from fr. Into KA96
A, w, STICKY and POISON stay as they are (R61). -/
def Cluster.drainRow (c : Cluster) (eb es xb xs q f conv k fr : Nat) : ArrStep :=
  let es' := (List.range 64).map fun col => c.entry (64 * (q + k) + col)
  let ys := es'.map fun e => e.acc.num
  if es'.any (fun e => !e.ok) then { c := c, fault := some .accParity }
  else if f = 10 then
    let bs := ys.flatMap fun x => leBytes 12 (code 96 x.m) ++ leBytes 2 (code 16 x.e)
      ++ [BitVec.ofNat 8 ((if x.sticky then 1 else 0) + if x.poison then 2 else 0), 0]
    { c := ({ c with cup := Mem.write c.cup (eb + k * es) bs } : Cluster).addCnt { stick := (ys.filter fun y : Num => y.sticky).length } }
  else
    let w := writeLine f (Conv.of conv) ys fr
    let sc := if f = 9 then [if ys.any (fun x => x.poison) then 0x80 else (Conv.of conv).pe] else w.2.1
    { c := ({ c with cup := Mem.write (Mem.write c.cup (eb + k * es) w.1) (xb + k * xs) sc } : Cluster).addCnt w.2.2, draws := w.2.2.draws }

/-- A KA96 element as a reload takes it (R38, R40, R61): A, w, STICKY and POISON as they stand; A = 0 with w = 0 and no flag is EMPTY; an
excluded A or w reads as zero and counts unless the element is poisoned. -/
def Acc.ofKa96 (byte : Nat → Byte) : Acc × Cnt :=
  let a := leNat ((List.range 12).map byte)
  let w := leNat ((List.range 2).map fun k => byte (12 + k))
  let fl := (byte 14).toNat
  let x : Acc := { a := codeNum 96 a, w := codeNum 16 w, empty := a = 0 && w = 0 && fl % 4 = 0, sticky := bit fl 0, poison := bit fl 1 }
  if bit fl 1 then (x, { pois := 1 })
  else if a = 2 ^ 95 ∨ w = 2 ^ 15 then ({}, { viol := (if a = 2 ^ 95 then 1 else 0) + if w = 2 ^ 15 then 1 else 0 })
  else (x, {})

/-- One row of a reload. -/
def Cluster.reloadRow (c : Cluster) (eb es q k : Nat) : Cluster :=
  (List.range 64).foldl (fun c col =>
    let x := Acc.ofKa96 fun o => Mem.get c.cup (eb + k * es + 16 * col + o)
    (c.setAcc (64 * (q + k) + col) x.1).addCnt x.2) c

/-! ### The order of operations (R87, R88, R89). -/

/-- The operations before one in the queue. -/
def Cluster.before (c : Cluster) (o : ArrOp) : List ArrOp := c.arrq.takeWhile fun x => x.ticket ≠ o.ticket

/-- The weight format that an operation of the queue uses. -/
def Cluster.opFmt (c : Cluster) (o : ArrOp) : Nat := c.tileAfter (c.before o)

/-- Array cycles that a row of a drain or reload takes (R87). -/
def ArrKind.cadence (k : ArrKind) : Nat := match k with | .drain _ _ _ _ _ _ f _ => if f = 10 then 4 else 1 | .reload .. => 4 | _ => 1

/-- Array cycles that an operation takes (R82, R84, R87), with weights of format wf. -/
def ArrKind.span (k : ArrKind) (wf : Nat) : Nat :=
  match k with
  | .load .. => 64
  | .stream _ _ _ _ _ n _ f _ => n * limbCount wf * limbCount f
  | .drain _ _ _ _ n _ _ _ => n * k.cadence
  | .reload _ _ n _ => n * k.cadence

/-- Whether an operation has read and written all that it will. -/
def Cluster.through (c : Cluster) (o : ArrOp) : Bool := o.kind.span (c.opFmt o) ≤ o.pos

/-- Whether an operation is a drain or reload, which proceed during loads and streams of other rows (R88). -/
def ArrKind.side (k : ArrKind) : Bool := match k with | .drain .. => true | .reload .. => true | _ => false

/-- Bank rows that the next cycle of an operation touches: first and number. -/
def Cluster.rowsNow (c : Cluster) (o : ArrOp) : Nat × Nat :=
  match o.kind with
  | .load _ _ _ => (0, 0)
  | .stream t _ _ _ _ n q _ _ => if t then (q + peP (c.opFmt o) * (o.pos % n), peP (c.opFmt o)) else (q + o.pos % n, 1)
  | .drain _ _ _ _ _ q _ _ => (q + o.pos / o.kind.cadence, 1)
  | .reload _ _ _ q => (q + o.pos / o.kind.cadence, 1)

/-- Whether an operation is through with a bank row, or does not touch it. -/
def Cluster.left (c : Cluster) (e : ArrOp) (row : Nat) : Bool :=
  match e.kind with
  | .load _ _ _ => true
  | .stream t _ _ _ _ n q _ _ =>
    let w := if t then peP (c.opFmt e) else 1
    row < q || q + n * w ≤ row || e.kind.span (c.opFmt e) - n + (row - q) / w < e.pos
  | .drain _ _ _ _ n q _ _ => row < q || q + n ≤ row || (row - q) * e.kind.cadence < e.pos
  | .reload _ _ n q => row < q || q + n ≤ row || (row - q) * e.kind.cadence < e.pos

/-- Whether the next cycle of an operation may run: loads and streams in issue order, drains and reloads in issue order, and of an
earlier operation of the other kind only the rows that it is through with; passes run only at level 64 (R88, R91). -/
def Cluster.opReady (c : Cluster) (o : ArrOp) : Bool :=
  ((c.before o).all fun e =>
    if e.kind.side = o.kind.side then c.through e
    else (List.range (c.rowsNow o).2).all fun k => c.left e ((c.rowsNow o).1 + k))
  && match o.kind with | .stream _ _ _ _ _ n _ _ _ => n = 0 || c.level = 64 | _ => true

/-- Whether a queued operation may start (R88). -/
def Cluster.canStart (c : Cluster) (o : ArrOp) : Bool := !o.started && c.opReady o

/-- Whether a started operation can run its next cycle. -/
def Cluster.canStep (c : Cluster) (o : ArrOp) : Bool := o.started && !c.through o && c.opReady o

/-- Marks an operation started, with what strikes the array while it runs. -/
def Cluster.begun (c : Cluster) (ticket : Nat) (us : List Upset) : Cluster :=
  { c with arrq := c.arrq.map fun o => if o.ticket = ticket then { o with started := true, upsets := us } else o }

/-- A bit of a weight register or of an accumulator entry turns. -/
def Cluster.strike (c : Cluster) (u : Upset) : Cluster :=
  match u with
  | .weight row col n => { c with wWord := Map.mod c.wWord (64 * row.val + col.val) fun w => w ^^^ BitVec.twoPow 32 n.val }
  | .entry row col n =>
    let k := 64 * row.val + col.val
    { c with bank := Map.put c.bank k ((c.entry k).strike n.val) }
  | .sum _ _ _ => c
  | .cupRow _ => c

/-- One array cycle of an operation: it reads the cup as it is now (R89). -/
def Cluster.opStep (c : Cluster) (o : ArrOp) (fr : Nat) : ArrStep :=
  let r : ArrStep := match o.kind with
    | .load base rows f =>
      let c := c.loadRow base rows f o.pos
      { c := if o.pos = 63 then ({ c with level := 64 } : Cluster).addCnt c.loadCount else c }
    | .stream t eb es xb xs n q f fresh => c.streamStep t eb es xb xs n q f fresh o.upsets o.pos
    | .drain eb es xb xs _ q f conv =>
      if o.pos % o.kind.cadence = 0 then c.drainRow eb es xb xs q f conv (o.pos / o.kind.cadence) fr else { c := c }
    | .reload eb es _ q => { c := if o.pos % 4 = 0 then c.reloadRow eb es q (o.pos / 4) else c }
  let bad : Bool := o.upsets.any fun u => u = .cupRow o.pos
  { r with
    c := { r.c with arrq := r.c.arrq.map fun x => if x.ticket = o.ticket then { x with pos := x.pos + 1 } else x }
    fault := if bad then some .cupParity else r.fault }

/-- One array cycle of a started operation, if it can run: a check that fails is a hardware fault (R75, R92). -/
def State.arrStep (s : State) (i ticket : Nat) : State :=
  let c := s.dev.getCl i
  match c.arrq.find? fun o => o.ticket = ticket with
  | none => s
  | some o =>
    if !c.canStep o then s
    else
      let r := c.opStep o s.dev.free
      match r.fault with
      | some f => s.absorbAt i f
      | none => (s.modC i fun _ => r.c).took r.draws

/-- Starts an operation of a cluster's queue, with what strikes the array then or while it runs (R73, R74, R92). -/
def State.startArr (s : State) (i ticket : Nat) (us : List Upset) : State :=
  let c := s.dev.getCl i
  match c.arrq.find? fun o => o.ticket = ticket with
  | none => s
  | some o => if !c.canStart o then s else s.modC i fun c => us.foldl Cluster.strike (c.begun ticket us)

/-! ### Array cycles (R91, R93). -/

/-- Adds array cycles to one of the four counts, 0 STREAM, 1 LOAD, 2 RAMP, else IDLE, and to the idle count (R91, R93). -/
def Cluster.classed (c : Cluster) (k n : Nat) : Cluster :=
  let c := { c with idle := if k = 0 then 0 else c.idle + n }
  match k with
  | 0 => { c with arrStream := min max64 (c.arrStream + n) }
  | 1 => { c with arrLoad := min max64 (c.arrLoad + n) }
  | 2 => { c with arrRamp := min max64 (c.arrRamp + n) }
  | _ => { c with arrIdle := min max64 (c.arrIdle + n) }

/-- The count that a cycle of an operation falls in, if it decides it: a drain's or reload's does not. -/
def ArrKind.cls (k : ArrKind) : Option Nat := match k with | .load .. => some 1 | .stream .. => some 0 | _ => none

/-- Cycles of an operation that ran before their time came: they are classed as they elapse (log 2). -/
def Cluster.owe (c : Cluster) (k : Option Nat) (n : Nat) : Cluster :=
  match k with | some k => if n = 0 then c else { c with owed := c.owed ++ [(k, n)] } | none => c

/-- Whether a weight load is under way: during it the level does not fall (R91). -/
def Cluster.loading (c : Cluster) : Bool :=
  c.owed.any (fun x => x.1 = 1) || c.arrq.any fun o => o.started && !c.through o && match o.kind with | .load .. => true | _ => false

/-- Whether a stream waits for the ramp: it could run but for the level (R91). -/
def Cluster.rampDue (c : Cluster) : Bool :=
  c.arrq.any fun o => match o.kind with
    | .stream .. => !c.through o && ({ c with level := 64 } : Cluster).opReady o
    | _ => false

/-- One array cycle of a cluster: one that an operation has run already, or the next cycle of each operation that can run. -/
def State.arrCycle (s : State) (i : Nat) : State :=
  let c := s.dev.getCl i
  match c.owed with
  | (k, n) :: t => s.modC i fun c => ({ c with owed := if n ≤ 1 then t else (k, n - 1) :: t } : Cluster).classed k 1
  | [] =>
    let run := c.arrq.filter c.canStep
    let wait : Bool := c.rampDue && c.level < 64
    let k := match run.findSome? fun o => o.kind.cls with | some k => k | none => if wait then 2 else 3
    (run.foldl (fun s o => s.arrStep i o.ticket) s).modC i fun c =>
      ({ c with rampRun := if k = 2 then c.rampRun + 1 else 0 } : Cluster).classed k 1

/-- Array cycles of a cluster whose array has nothing to do. -/
def Cluster.rests (c : Cluster) : Bool := c.owed.isEmpty && c.arrq.isEmpty

/-! ### Finish, waits and the ramp. -/

/-- Runs what is left of a started operation, up to a number of cycles that are then owed. -/
def State.runOut (fuel : Nat) (s : State) (i ticket : Nat) : State :=
  match fuel with
  | 0 => s
  | fuel + 1 =>
    let c := s.dev.getCl i
    match c.arrq.find? fun o => o.ticket = ticket with
    | none => s
    | some o => if c.canStep o then State.runOut fuel ((s.arrStep i ticket).modC i fun c => c.owe o.kind.cls 1) i ticket else s

/-- Runs out an operation and the started ones before it, in order. -/
def State.catchUp (s : State) (i ticket : Nat) : State :=
  let c := s.dev.getCl i
  (c.arrq.filter fun o => o.started && o.ticket ≤ ticket).foldl (fun s o => s.runOut (o.kind.span (c.opFmt o)) i o.ticket) s

/-- Whether every operation with a ticket up to t has finished (R113). -/
def Cluster.arrDone (c : Cluster) (t : Nat) : Bool := c.arrq.all fun o => t < o.ticket

/-- Releases the core from a wait that the array holds it in (R88, R113). -/
def State.wakeArr (s : State) (i : Nat) : State :=
  let c := s.dev.getCl i
  match c.stall with
  | .waitA t => if c.arrDone t then s.retire i else s
  | .arrFull k rd => (s.modC i fun c => { c with stall := .none }).issueArr i k rd
  | _ => s

/-- Finishes a started operation: what is left of it runs, and it leaves the queue once it is through (R113). -/
def State.finishArr (s : State) (i ticket : Nat) : State :=
  let s := s.catchUp i ticket
  let c := s.dev.getCl i
  match c.arrq.find? fun o => o.ticket = ticket with
  | none => s
  | some o =>
    if !o.started ∨ !c.through o then s
    else
      ((s.modC i fun c => { c with arrq := c.arrq.filter fun x => x.ticket ≠ ticket }).progressed (i / 20)).wakeArr i

/-- One step of the activity level (R91, Table 4.7). A stream that waits sees it rise every 4 ramp cycles, counted as they elapse; during a load it does
not fall. -/
def Cluster.ramp (c : Cluster) : Cluster :=
  if c.loading then { c with level := min 64 (c.level + 8) }
  else if c.rampDue then
    if c.level < 64 then ({ c with level := min 64 (c.level + 8), rampRun := c.rampRun - 4 } : Cluster).owe (some 2) (4 - c.rampRun)
    else c
  else if 8 < c.level ∧ 4 * ((64 - c.level) / 8 + 1) ≤ c.idle then { c with level := c.level - 8 }
  else if c.level ≠ 0 ∧ 64 ≤ c.idle then { c with level := 0 }
  else c

/-! ### Meanings. -/

/-- KQ_WLOAD (R81, R109). -/
def execKqWload (p : Pre) (rd rs1 rs2 : Fin 32) (s : State) : Out := .next (s.kernelStep p fun i s => s.wload i rd rs1 rs2)

/-- KQ_STREAM (R77, R83, R110). -/
def execKqStream (p : Pre) (rd rs1 : Fin 32) (s : State) : Out := .next (s.kernelStep p fun i s => s.streamOp i false rd rs1)

/-- KQ_STREAMT (R78, R83, R110). -/
def execKqStreamt (p : Pre) (rd rs1 : Fin 32) (s : State) : Out := .next (s.kernelStep p fun i s => s.streamOp i true rd rs1)

/-- KQ_DRAIN (R86, R110). -/
def execKqDrain (p : Pre) (rd rs1 : Fin 32) (s : State) : Out := .next (s.kernelStep p fun i s => s.drainOp i rd rs1)

/-- KQ_RELOAD (R61, R86, R110). -/
def execKqReload (p : Pre) (rd rs1 : Fin 32) (s : State) : Out := .next (s.kernelStep p fun i s => s.reloadOp i rd rs1)

/-- ARRAY_OPERATION_START (R88). -/
def execArrayOperationStart (cl : ClId) (ticket : Nat) (upsets : List Upset) (s : State) : Out := .next (s.startArr (clIdx cl) ticket upsets)

/-- ARRAY_OPERATION_DONE (R113). -/
def execArrayOperationDone (cl : ClId) (ticket : Nat) (s : State) : Out := .next (s.finishArr (clIdx cl) ticket)

/-- ACTIVITY_RAMP (R91). -/
def execActivityRamp (cl : ClId) (s : State) : Out := .next (s.modC (clIdx cl) Cluster.ramp)

/-- KQ_WAIT_A (R113). -/
def execKqWaitA (p : Pre) (rs1 : Fin 32) (s : State) : Out :=
  .next (s.kernelStep p fun i s =>
    let c := s.dev.getCl i
    let t := (c.xget rs1).toNat
    if c.tickets < t then s.trap i 30 t
    else if c.arrDone t then s.retire i
    else s.modC i fun c => { c with stall := .waitA t })

end Sys2Proof.Machine
end

