-- ==== Sys2Proof/Machine/Tensor.lean ====
section
/-!
DEFINITION. Tensors in memory: references, lines and scale groups, reading with poison and writing (R34, R41, R49, R141,
R142, R285).
-/

namespace Sys2Proof.Machine

/-- A tensor reference (Table 6.2). -/
structure Ref where
  va    : Nat
  fmt   : Nat
  rfl   : Nat
  sva   : Nat
  n0    : Nat
  n1    : Nat
  n2    : Nat
  n3    : Nat
  s1    : Nat
  s2    : Nat
  /-- E8s of a line of the whole tensor, and its n1: what addresses the scale plane (R34) where the reference is narrowed to a part's share -/
  sper  : Nat
  sn1   : Nat
  /-- elem_va and n0 of the whole tensor -/
  wva   : Nat
  wn0   : Nat
deriving DecidableEq, Repr

/-- Bytes between lines: 0 stands for the packed length rounded up to 16 bytes (Table 6.2). -/
def Ref.of (b : Bytes) (o : Nat) : Ref :=
  let sh := field b (o + 16) 8
  let n0 := bits sh 19 0 + 1
  let n1 := bits sh 39 20 + 1
  let f := field b (o + 6) 1 % 16
  let st1 := field b (o + 24) 4 * 16
  let s1 := if st1 = 0 then ceilDiv (lineBytes f n0) 16 * 16 else st1
  let st2 := field b (o + 28) 4 * 16
  { va := field b o 6, fmt := f, rfl := field b (o + 7) 1, sva := field b (o + 8) 6,
    n0 := n0, n1 := n1, n2 := bits sh 51 40 + 1, n3 := bits sh 63 52 + 1,
    s1 := s1, s2 := if st2 = 0 then n1 * s1 else st2, sper := lineScales f n0, sn1 := n1, wva := field b o 6, wn0 := n0 }

/-- The whole tensor of a reference that is narrowed to a part's share. -/
def Ref.whole (r : Ref) : Ref := { r with va := r.wva, n0 := r.wn0, n1 := r.sn1 }

/-- The reference narrowed to elements c0 to c1 - 1 of its lines; c0 is a multiple of the packing group and of the block. -/
def Ref.cols (r : Ref) (c0 c1 : Nat) : Ref :=
  { r with va := r.va + (if r.fmt = 10 then 16 * c0 else c0 * fmtBits r.fmt / 8), n0 := c1 - c0,
           sva := r.sva + (if fmtBlock r.fmt = 0 then 0 else c0 / fmtBlock r.fmt) }

/-- The reference narrowed to lines c0 to c1 - 1 of dimension 1. -/
def Ref.rows (r : Ref) (c0 c1 : Nat) : Ref := { r with va := r.va + c0 * r.s1, n1 := c1 - c0, sva := if r.fmt = 9 then r.sva else r.sva + r.sper * c0 }

/-- Number of lines. -/
def Ref.lines (r : Ref) : Nat := r.n1 * r.n2 * r.n3

/-- Address of line L of the element plane (R34): L = i1 + n1 * (i2 + n2 * i3). -/
def Ref.lineVa (r : Ref) (l : Nat) : Nat :=
  r.va + l % r.n1 * r.s1 + l / r.n1 % r.n2 * r.s2 + l / r.n1 / r.n2 * (r.n2 * r.s2)

/-- Address of the first E8 of line L (Table 2.2). -/
def Ref.scaleVa (r : Ref) (l : Nat) : Nat := r.sva + r.sper * (l % r.n1 + r.sn1 * (l / r.n1))

/-- The bytes of elements lo to lo + n - 1 of a line: first and number. -/
def elemSpan (f lo n : Nat) : Nat × Nat :=
  if f = 10 then (16 * lo, 16 * n)
  else (lo * fmtBits f / 8, ceilDiv ((lo + n) * fmtBits f) 8 - lo * fmtBits f / 8)

/-- Elements of scale group b of a line of n elements: first and number. -/
def groupSpan (f n b : Nat) : Nat × Nat :=
  if fmtBlock f = 0 then (0, n) else (b * fmtBlock f, min (fmtBlock f) (n - b * fmtBlock f))

/-- Reads a line: a group with an element or its E8 in a poisoned byte is poisoned (R285, R41). -/
def readRow (f n ea sa : Nat) (rd : Nat → Byte) (bad : Nat → Bool) : List Num × Cnt :=
  let hit (a k : Nat) : Bool := (List.range k).any fun j => bad (a + j)
  if f = 10 then
    readLine f n (fun o => if o % 16 = 14 ∧ hit (ea + o - 14) 16 then 2 else rd (ea + o)) fun _ => 0
  else
    readLine f n (fun o => rd (ea + o)) fun b =>
      let g := groupSpan f n b
      let s := elemSpan f g.1 g.2
      if bad (sa + b) || hit (ea + s.1) s.2 then 0x80 else rd (sa + b)

/-- The content of a line that the retry ledger keeps for a part other than a KERNEL: a replay reads it from there (R172). -/
def Dev.ledger (d : Dev) (uid line : Nat) : Option Bytes :=
  match d.getPart uid with
  | some p => if p.kind = .kernel then none else Map.find p.saved line
  | none => none

/-- A line that an engine keeps a copy of for a context: reads of the context's parts on the engine are served from the newest (R174). -/
def Engine.copyOf (e : Engine) (ctx line : Nat) : Option Bytes :=
  e.retained.reverse.findSome? fun r => if r.ctx = ctx then Map.find r.lines line else none

/-- What stands before home memory for a part's reads of a line: the retry ledger, or a retained copy (R172, R174). -/
def Dev.kept (d : Dev) (uid line : Nat) : Option Bytes :=
  match d.ledger uid line with
  | some bs => some bs
  | none => match d.getPart uid with | some p => (d.getEng (eIdx p.eng)).copyOf p.ctx line | none => none

/-- Device memory as a part reads it by virtual address; what it cannot reach reads as zero. -/
def State.vbyte (s : State) (uid va : Nat) : Byte :=
  match s.dev.place uid 0 va with
  | .phys pa =>
    match s.dev.kept uid (pa / 128) with
    | some bs => bs.getD (pa % 128) 0
    | none => s.byte pa
  | _ => 0

/-- Whether a part's read of a virtual address touches poison (R284). -/
def State.vbad (s : State) (uid va : Nat) : Bool :=
  match s.dev.place uid 0 va with
  | .phys pa => (s.dev.kept uid (pa / 128)).isNone && s.bad pa
  | _ => false

/-- Whether poison strikes a KQ32 tensor: its one scale group is poisoned wherever a line of either plane is (R40, R285). -/
def State.tensorBad (s : State) (uid : Nat) (t : Ref) : Bool :=
  let r := t.whole
  r.fmt = 9 && !s.mem.poison.isEmpty &&
    (s.vbad uid r.sva || (List.range r.lines).any fun l => (List.range (lineBytes 9 r.n0)).any fun k => s.vbad uid (r.lineVa l + k))

/-- A line of a reference as a part reads it. -/
def State.refLine (s : State) (uid : Nat) (r : Ref) (l : Nat) : List Num × Cnt :=
  if s.tensorBad uid r then readRow r.fmt r.n0 (r.lineVa l) r.sva (fun a => if a = r.sva then 0x80 else s.vbyte uid a) (fun _ => false)
  else readRow r.fmt r.n0 (r.lineVa l) (if r.fmt = 9 then r.sva else r.scaleVa l) (s.vbyte uid) (s.vbad uid)

/-- Granules that an extent touches, each by the first address in it. -/
def pages (a n : Nat) : List Nat :=
  if n = 0 then []
  else (List.range ((a + n - 1) / granule - a / granule + 1)).map fun k => if k = 0 then a else (a / granule + k) * granule

/-- The first address of an extent that a part cannot reach for an access, with what it reaches. -/
def Dev.firstBad (d : Dev) (uid access a n : Nat) : Option (Nat × Place) :=
  (pages a n).findSome? fun va =>
    match d.place uid access va with
    | .phys _ => none
    | p => some (va, p)

/-- The first poisoned line that a read of an extent by a part touches: line and address. -/
def State.firstPoison (s : State) (uid a n : Nat) : Option (Nat × Nat) :=
  if s.mem.poison.isEmpty then none
  else
    (List.range n).findSome? fun k =>
      if s.vbad uid (a + k) then
        match s.dev.place uid 0 (a + k) with
        | .phys pa => some (pa / 128, a + k)
        | _ => none
      else none

/-- Splits a write by virtual address at granule bounds: each piece's physical address and bytes. -/
def Dev.vpieces (d : Dev) (fuel uid va : Nat) (bs : Bytes) : List (Nat × Bytes) :=
  match fuel with
  | 0 => []
  | fuel + 1 =>
    if bs.isEmpty then []
    else
      let n := min (granule - va % granule) bs.length
      let rest := d.vpieces fuel uid (va + n) (bs.drop n)
      match d.place uid 1 va with
      | .phys pa => (pa, bs.take n) :: rest
      | _ => rest

/-- The line writes of bytes written by virtual address. -/
def Dev.vlines (d : Dev) (uid va : Nat) (bs : Bytes) : List (Nat × BitVec 128 × Bytes) :=
  (d.vpieces (bs.length + 1) uid va bs).flatMap fun p => lineSplit (p.2.length + 1) p.1 p.2

/-- One line of a part reaches its home now. -/
def State.landNow (s : State) (uid : Nat) (w : Nat × BitVec 128 × Bytes) : State :=
  (s.homeWrite w.1 w.2.1 w.2.2).onDev fun d => (d.wrote uid w.1 w.2.1).markDirty (w.1 * 128)

/-- Writes bytes by virtual address at their homes at once. -/
def State.vwrite (s : State) (uid va : Nat) (bs : Bytes) : State := (s.dev.vlines uid va bs).foldl (fun s w => s.landNow uid w) s

/-- Keeps the prior content of a line that an overlap covers, once (R172). -/
def Part.keep (p : Part) (line : Nat) (bs : Bytes) : Part :=
  if p.saved.any (fun l => l.1 = line) then p else { p with saved := p.saved ++ [(line, bs)] }

/-- Sends bytes written by virtual address towards their homes (R135). -/
def State.vsend (s : State) (uid va : Nat) (bs : Bytes) : State :=
  match s.dev.getPart uid with
  | none => s
  | some p =>
    let gen := match s.dev.getCtx p.ctx with | some c => c.gen | none => 0
    (s.dev.vlines uid va bs).foldl (fun s w =>
      (s.onMem fun m => m.issue (.part uid) p.ctx gen w.1 w.2.1 w.2.2).onDev fun d => d.wrote uid w.1 w.2.1) s

/-- The elements of a whole KQ32 output written by one unit: poison anywhere zeroes all of it and marks its E8 (R49). -/
def zeroIfPoisoned (rows : List (List Num)) : List (List Num) × Bool :=
  if rows.any (fun r => r.any fun x => x.poison) then (rows.map fun r => r.map fun _ => { m := 0 }, true) else (rows, false)

end Sys2Proof.Machine
end

