-- ==== Sys2Proof/Machine/Mover.lean ====
section
/-!
DEFINITION. The engine mover and synchronisation of clusters: kq.mov, kq.wait.m, kq.bar, exit and the run limit (R114 to
R118, R130, R131).
-/

namespace Sys2Proof.Machine

/-- The request of 64 bytes at an offset of the cup (Table 5.10). -/
def movReq (cup : Mem) (b tag : Nat) : MovReq :=
  let w (o n : Nat) := Mem.le cup (b + o) n
  { tag := tag, op := w 0 1, conv := w 2 2, srcFmt := w 4 1, dstFmt := w 5 1, src := w 8 8, srcScale := w 16 8, dst := w 24 8
    dstScale := w 32 8, rows := w 40 4, rowLen := w 44 4, srcStride := w 48 4, dstStride := w 52 4, mask := w 56 4, mid := w 60 4 }

/-- Bytes of a row in the source and in the destination. -/
def MovReq.srcRow (r : MovReq) : Nat := if r.op = 0 then r.rowLen else lineBytes r.srcFmt r.rowLen
def MovReq.dstRow (r : MovReq) : Nat := if r.op = 0 then r.rowLen else lineBytes r.dstFmt r.rowLen

/-- Bytes of the scale planes (R34, R115). -/
def MovReq.scales (r : MovReq) (f : Nat) : Nat :=
  if r.op = 0 ∨ f = 10 then 0 else if f = 9 then 1 else r.rows * lineScales f r.rowLen

/-- The extents that a request reads and writes, row by row: what lies between the rows is not touched (R115). An address past 2^64 names
nothing (log 55). -/
def MovReq.reads (r : MovReq) : List (Nat × Nat) :=
  (List.range r.rows).map (fun n => (r.src + n * r.srcStride, r.srcRow)) ++ [(r.srcScale, if r.op = 1 then r.scales r.srcFmt else 0)]

def MovReq.writes (r : MovReq) : List (Nat × Nat) :=
  (List.range r.rows).map (fun n => (r.dst + n * r.dstStride, r.dstRow)) ++ [(r.dstScale, r.scales r.dstFmt)]

/-- Whether an extent breaks the rules of the local space or of R264: a trap cause and the first address that does (R97 to R99). -/
def movBad (k grant : Nat) (load : Bool) (x : Nat × Nat) : Option (Nat × Nat) :=
  let a := x.1
  let access := if load then 5 else 7
  if x.2 = 0 then none
  else if a < 2 ^ 63 then if 2 ^ 48 < a + x.2 then some (access, max a (2 ^ 48)) else none
  else
    match localOf k a with
    | .cup o => if o + x.2 ≤ cupEnd then none else some (24, a)
    | .loader => some (24, a)
    | .foreign => some (27, a)
    | .cistern o => if o + x.2 ≤ grant then none else some (27, a + (grant - o))
    | .none => some (access, a)

/-- The checks of a request when it is issued (R39, R43, R98, R112, R114 to R116, R264): a trap cause and value. -/
def movCheck (c : Cluster) (b k grant : Nat) (r : MovReq) : Option (Nat × Nat) :=
  let w (o n : Nat) := Mem.le c.cup (b + o) n
  let fmts := r.op ≠ 0
  if 2 < r.op ∨ w 1 1 ≠ 0 ∨ w 6 2 ≠ 0 ∨ 16 ≤ r.srcFmt ∨ 16 ≤ r.dstFmt then some (30, b)
  else if r.op ≠ 2 ∧ (r.mask ≠ 0 ∨ r.mid ≠ 0) then some (30, b)
  else if r.op = 2 ∧ (2 ^ 20 ≤ r.mask ∨ 64 ≤ r.mid) then some (30, b)
  else if fmts ∧ (!fmtOk r.srcFmt ∨ !fmtOk r.dstFmt ∨ !convOk r.dstFmt r.conv ∨ (r.op = 2 ∧ r.srcFmt ≠ 10)) then some (26, b)
  else if fmts ∧ (fmtLine r.srcFmt ∨ fmtLine r.dstFmt) ∧ 65536 < r.rowLen then some (26, b)
  else if 65536 < r.rows then some (30, b)
  else if r.rows = 0 then none
  else if r.rowLen = 0 ∨ 65536 < r.rowLen then some (30, b)
  else if r.op = 2 ∧ !bit r.mask k then some (29, b)
  else
    match r.reads.findSome? (movBad k grant true) with
    | some x => some x
    | none => r.writes.findSome? (movBad k grant false)

/-- Whether a MERGE request agrees with the first of its merge_id (R116). -/
def MovReq.agrees (r x : MovReq) : Bool :=
  r.dst = x.dst && r.dstScale = x.dstScale && r.dstFmt = x.dstFmt && r.conv = x.conv && r.rows = x.rows && r.rowLen = x.rowLen
    && r.dstStride = x.dstStride && r.mask = x.mask

/-- A request joins the merge of its merge_id (R116); none where it disagrees. -/
def Engine.join (e : Engine) (k : Nat) (r : MovReq) : Option Engine :=
  match Map.find e.merges r.mid with
  | none => some { e with merges := Map.put e.merges r.mid { first := r, joined := [(k, r.tag, 0)] } }
  | some m => if m.first.agrees r ∧ ¬ m.joined.any (fun x => x.1 = k)
    then some { e with merges := Map.put e.merges r.mid { m with joined := m.joined ++ [(k, r.tag, 0)] } } else none

/-- Enters a request; the tag is written, a request of no rows is complete at once, a 17th waits (R114). -/
def State.issueMov (s : State) (i : Nat) (r : MovReq) (rd : Fin 32) : State :=
  let c := s.dev.getCl i
  if 16 ≤ c.movs.length then s.modC i fun c => { c with stall := .movFull r rd }
  else
    let r := { r with tag := c.tags + 1 }
    let ok (s : State) : State := (s.modC i fun c => { c with
      tags := c.tags + 1, movs := if r.rows = 0 then c.movs else c.movs ++ [r] }).done i rd (BitVec.ofNat 64 (c.tags + 1))
    if r.op = 2 ∧ r.rows ≠ 0 then
      match (s.dev.getEng (i / 20)).join (i % 20) r with
      | none => s.trap i 29 r.mid
      | some e => ok (s.onDev fun d => d.modEng (i / 20) fun _ => e)
    else ok s

/-- The cistern extent granted to a kernel part: its first byte is byte 0 of the cistern (log 10). -/
def Dev.grant (d : Dev) (i : Nat) : Nat :=
  match (d.getCl i).part with
  | some uid => field (d.descOf uid) 56 4
  | none => 0

/-- kq.mov (R114): the request is read at the address in rs1, which lies in the own cup. `want` are the operation codes that
the row stands for. -/
def State.movOp (s : State) (i : Nat) (want : Nat → Bool) (rd rs1 : Fin 32) : State :=
  let c := s.dev.getCl i
  let a := (c.xget rs1).toNat
  let k := i % 20
  if a < 2 ^ 63 then s.trap i 5 a
  else
    match localOf k a with
    | .cup o =>
      if a % 64 ≠ 0 then s.trap i 25 a
      else
        let r := movReq c.cup o 0
        if !want r.op then s.modC i fun c => { c with fetched := some c.pc }
        else
          match movCheck c o k (s.dev.grant i) r with
          | some (cause, v) => s.trap i cause v
          | none => s.issueMov i r rd
    | .loader => s.trap i 24 a
    | .none => s.trap i 5 a
    | .foreign => s.trap i 27 a
    | .cistern _ => s.trap i 27 a

/-! ### Performing a request. -/

/-- A byte that a cluster's mover request reads. -/
def State.movByte (s : State) (i uid a : Nat) : Byte :=
  if a < 2 ^ 63 then s.vbyte uid a
  else
    match localOf (i % 20) a with
    | .cup o => Mem.get (s.dev.getCl i).cup o
    | .cistern o => Mem.get (s.dev.getEng (i / 20)).cistern o
    | _ => 0

/-- Whether a byte that a request reads is poisoned. -/
def State.movPoison (s : State) (uid a : Nat) : Bool := a < 2 ^ 63 && s.vbad uid a

/-- Writes bytes where a cluster's mover request sends them: to the cup or cistern at once, towards device memory line by line (R117,
R135). -/
def State.movWrite (s : State) (i uid a : Nat) (bs : Bytes) : State :=
  if a < 2 ^ 63 then s.vsend uid a bs
  else
    match localOf (i % 20) a with
    | .cup o => s.modC i fun c => { c with cup := Mem.write c.cup o bs }
    | .cistern o => s.onDev fun d => d.modEng (i / 20) fun e => { e with cistern := Mem.write e.cistern o bs }
    | _ => s

/-- The rows that a request writes out as numbers: CONVERT and MERGE (R115, R116), with their counts. -/
def State.movRows (s : State) (i uid : Nat) (r : MovReq) (n : Nat) : List Num × Cnt :=
  if r.op = 1 then
    readRow r.srcFmt r.rowLen (r.src + n * r.srcStride)
      (if r.srcFmt = 9 then r.srcScale else r.srcScale + n * lineScales r.srcFmt r.rowLen) (s.movByte i uid) (s.movPoison uid)
  else
    let e := s.dev.getEng (i / 20)
    let who : List (Nat × Nat) := match Map.find e.merges r.mid with
      | some m => sortKey (m.joined.map fun x => (x.1, (x.1, x.2.1)))
      | none => []
    let lines : List (List Num × Cnt) := who.map fun x =>
      let j := i / 20 * 20 + x.1
      match (s.dev.getCl j).movs.find? fun q => q.tag = x.2 with
      | some q => readRow 10 r.rowLen (q.src + n * q.srcStride) 0 (s.movByte j uid) (s.movPoison uid)
      | none => ([], {})
    (List.range r.rowLen).foldl (fun (acc : List Num × Cnt) k =>
      let a := mergeAll (lines.map fun l => l.1.getD k { m := 0 })
      (acc.1 ++ [a.1.num], acc.2.add { trunc := a.2 })) ([], lines.foldl (fun c l => c.add l.2) {})

/-- Writes the rows of CONVERT or MERGE in the destination format (R43 to R50). -/
def State.movPut (s : State) (i uid : Nat) (r : MovReq) : State :=
  let rows := (List.range r.rows).map fun n => s.movRows i uid r n
  let z := if r.dstFmt = 9 then zeroIfPoisoned (rows.map fun x => x.1) else (rows.map fun x => x.1, false)
  let s := s.modC i fun c => c.addCnt (rows.foldl (fun c x => c.add x.2) {})
  let s := (List.range r.rows).foldl (fun s n =>
    let w := writeLine r.dstFmt (Conv.of r.conv) (z.1.getD n []) s.dev.free
    let s := (s.modC i fun c => c.addCnt w.2.2).took w.2.2.draws
    (s.movWrite i uid (r.dst + n * r.dstStride) w.1).movWrite i uid (r.dstScale + n * lineScales r.dstFmt r.rowLen) w.2.1) s
  if r.dstFmt = 9 then s.movWrite i uid r.dstScale [if z.2 then 0x80 else (Conv.of r.conv).pe] else s

/-- COPY moves bytes unchanged (R115); a byte that is poisoned at its home is not used, and what arrives is free (log 5). -/
def State.movCopyRows (s : State) (i uid : Nat) (r : MovReq) : State :=
  (List.range r.rows).foldl (fun s n =>
    let a := r.src + n * r.srcStride
    let bs := (List.range r.rowLen).map fun k =>
      if s.movPoison uid (a + k) then Config.freeByte (s.dev.free + k) else s.movByte i uid (a + k)
    let any := (List.range r.rowLen).any fun k => s.movPoison uid (a + k)
    (s.movWrite i uid (r.dst + n * r.dstStride) bs).took (if any then r.rowLen else 0)) s

/-- Whether two extents share a byte. -/
def overlaps (a b : Nat × Nat) : Bool := 0 < a.2 && 0 < b.2 && a.1 < b.1 + b.2 && b.1 < a.1 + a.2

/-- The memory that an extent of a cluster's request names, whatever alias it goes by: an offset of the own cup, of the cistern, or
physical addresses (R97, R117). -/
def Dev.canon (d : Dev) (i uid access : Nat) (x : Nat × Nat) : List (Nat × Nat) :=
  if 2 ^ 63 ≤ x.1 then
    match localOf (i % 20) x.1 with
    | .cup o => [(2 ^ 63 + o, x.2)]
    | _ => [x]
  else
    (pages x.1 x.2).map fun va =>
      let n := min (granule - va % granule) (x.1 + x.2 - va)
      match d.place uid access va with
      | .phys pa => (pa, n)
      | _ => (2 ^ 62 + va, n)

/-- Whether two requests must keep their order: they share a byte that one of them writes (R117). -/
def Dev.orders (d : Dev) (i uid : Nat) (a b : MovReq) : Bool :=
  let w (r : MovReq) := r.writes.flatMap (d.canon i uid 1)
  let r' (r : MovReq) := r.reads.flatMap (d.canon i uid 0)
  let meet (x y : List (Nat × Nat)) : Bool := x.any fun p => y.any fun q => overlaps p q
  meet (w a) (w b) || meet (w a) (r' b) || meet (r' a) (w b)

/-- Releases the core from a wait that the mover holds it in (R114, R117). -/
def State.wakeMov (s : State) (i : Nat) : State :=
  let c := s.dev.getCl i
  match c.stall with
  | .waitM t => if c.movs.all (fun r => t < r.tag) then s.retire i else s
  | .movFull r rd => (s.modC i fun c => { c with stall := .none }).issueMov i r rd
  | _ => s

/-- The requests that act together: every participant's of a MERGE that is whole, by cluster, or the one itself; none while a MERGE waits
for a participant (R116). -/
def Dev.movGroup (d : Dev) (i : Nat) (r : MovReq) : Option (List (Nat × MovReq)) :=
  if r.op ≠ 2 then some [(i, r)]
  else
    match Map.find (d.getEng (i / 20)).merges r.mid with
    | none => none
    | some m =>
      if (List.range 20).all fun k => !bit r.mask k || m.joined.any fun x => x.1 = k then
        some ((sortKey (m.joined.map fun x => (x.1, x))).filterMap fun x =>
          ((d.getCl (i / 20 * 20 + x.1)).movs.find? fun q => q.tag = x.2.1).map fun q => (i / 20 * 20 + x.1, q))
      else none

/-- Whether an earlier request of one of the clusters must be performed before a group (R117). -/
def Dev.movBehind (d : Dev) (uid : Nat) (g : List (Nat × MovReq)) : Bool :=
  g.any fun x => ((d.getCl x.1).movs.takeWhile fun q => q.tag ≠ x.2.tag).any fun q => d.orders x.1 uid q x.2

/-! ### Turns of the mover (R114, R134). -/

/-- Whether a transfer that the sequencer planned waits for the mover: an executing part has not moved its data and nothing else holds it. -/
def Dev.seqWaits (d : Dev) (e : Nat) : Bool :=
  (d.getEng e).executing.any fun u =>
    match d.getPart u with
    | some p => p.kind ≠ .kernel && !p.ran && !p.begun && p.xl.hold.isNone && match d.getCtx p.ctx with | some c => c.rollDue.isNone | none => false
    | none => false

/-- Whether what a request waited for has come: it waits for nothing, or the object that it waited for is there. -/
def Dev.holdOver (d : Dev) (uid : Nat) (x : Xlat) : Bool :=
  match x.hold with
  | none => true
  | some (.object va access) => match d.place uid access va with | .phys _ => true | _ => false
  | some _ => false

/-- Whether a request of a cluster waits for the mover alone. -/
def Dev.movReady (d : Dev) (i uid : Nat) (r : MovReq) : Bool :=
  r.performed.isNone && d.holdOver uid r.xl && match d.movGroup i r with | some g => !d.movBehind uid g | none => false

/-- The cluster of an engine whose turn it is in the round-robin of cluster requests, if any request waits for the mover. -/
def Dev.movNext (d : Dev) (e : Nat) : Option Nat :=
  ((List.range 20).map fun k => ((d.getEng e).movPtr + k) % 20).find? fun k =>
    let c := d.getCl (20 * e + k)
    match c.part with | some uid => c.movs.any fun r => d.movReady (20 * e + k) uid r | none => false

/-- Whether it is the sequencer's turn: with requests of clusters waiting, too, it alternates with them. -/
def Dev.seqTurn (d : Dev) (e : Nat) : Bool := !(d.getEng e).movSeq || (d.movNext e).isNone

/-- Whether it is a cluster's turn. -/
def Dev.movTurn (d : Dev) (i : Nat) : Bool := d.movNext (i / 20) = some (i % 20) && ((d.getEng (i / 20)).movSeq || !d.seqWaits (i / 20))

/-- The virtual accesses of a group, by granule: every participant's reads, and the writes of the request that acts for them. -/
def movPages (r : MovReq) (g : List (Nat × MovReq)) : List (Nat × Nat) :=
  let far (k : Nat) (l : List (Nat × Nat)) : List (Nat × Nat) :=
    ((l.filter fun x => 0 < x.2 && x.1 < 2 ^ 63).flatMap fun x => (pages x.1 x.2).map fun va => (k, va)).eraseDups
  (g.flatMap fun x => far 0 x.2.reads) ++ far 1 r.writes

/-- Marks the requests of a group as performed, with the numbers of their writes. -/
def State.movDone (s : State) (g : List (Nat × MovReq)) (ids : Nat × Nat) : State :=
  g.foldl (fun s x => s.modC x.1 fun c => { c with
    movs := c.movs.map fun q => if q.tag = x.2.tag then { q with performed := some ids } else q }) s

/-- The mover performs a request in its turn (R115 to R117, R134): held where an address is not translated or an object has no image, or where a poisoned
line calls for a rollback or replay. -/
def State.movPerform (s : State) (i uid : Nat) (r : MovReq) : State :=
  match s.dev.movGroup i r with
  | none => s
  | some g =>
    if !s.dev.movReady i uid r ∨ !s.dev.movTurn i then s
    else
      let h := s.xlate (i / 20) uid r.xl (movPages r g)
      let s := (h.1.onDev fun d => d.modEng (i / 20) fun x => { x with movSeq := false, movPtr := (i % 20 + 1) % 20 }).modC i fun c => { c with movs := c.movs.map fun q => if q.tag = r.tag then { q with xl := h.2.1 } else q }
      if !h.2.2 then s
      else
        let poison := (g.flatMap fun x => x.2.reads).findSome? fun x => if x.1 < 2 ^ 63 then s.firstPoison uid x.1 x.2 else none
        let h := match poison with | some (line, va) => s.poisonRead uid line va | none => (s, true)
        if !h.2 then h.1
        else
          let first := h.1.mem.nextId
          let s := if r.op = 0 then h.1.movCopyRows i uid r else h.1.movPut i uid r
          let n := r.rows * r.dstRow + r.scales r.dstFmt
          let s := s.modC i fun c => { c with movBytes := min max64 (c.movBytes + n) }
          let s := if r.op = 2 then s.onDev fun d => d.modEng (i / 20) fun e => { e with merges := Map.del e.merges r.mid } else s
          s.movDone g (first, s.mem.nextId)

/-- The writes of a part up to a number land at their homes, in the order in which they were issued (R117, R135). -/
def State.landUpTo (s : State) (uid last : Nat) : State :=
  let mine (w : LineWrite) : Bool := w.from' = .part uid && w.id < last
  let s' := (s.mem.flight.filter mine).foldl (fun s w => s.landNow uid (w.line, w.mask, w.data)) s
  s'.onMem fun m => { m with flight := m.flight.filter fun w => !mine w }

/-- A request that has been performed completes once its writes are at their homes, with every other participant's of its MERGE; waits for
it end (R116, R117). -/
def State.movFinish (s : State) (i uid : Nat) (r : MovReq) (ids : Nat × Nat) : State :=
  let s := s.landUpTo uid ids.2
  let mine (j : Nat) (q : MovReq) : Bool :=
    if r.op = 2 then q.op = 2 && q.mid = r.mid && q.performed = some ids else j = i && q.tag = r.tag
  let hit := ((List.range 20).map fun k => i / 20 * 20 + k).filter fun j => (s.dev.getCl j).movs.any (mine j)
  hit.foldl (fun s j => (s.modC j fun c => { c with movs := c.movs.filter fun q => !mine j q }).wakeMov j) (s.progressed (i / 20))

/-- The mover acts on a request: it performs it where it has not, and completes it unless it only performs it. -/
def State.movComplete (s : State) (i tag : Nat) (only : Bool) : State :=
  let look (s : State) : Option (Nat × MovReq) :=
    let c := s.dev.getCl i
    c.part.bind fun uid => (c.movs.find? fun r => r.tag = tag).map fun r => (uid, r)
  let s := match look s with
    | some (uid, r) => if r.performed.isNone then s.movPerform i uid r else s
    | none => s
  if only then s
  else
    match look s with
    | some (uid, r) => match r.performed with | some ids => s.movFinish i uid r ids | none => s
    | none => s

/-! ### Barrier, exit, run limit. -/

/-- Whether every cluster of an engine has arrived at barrier n; one that has exited counts as arrived (R118). -/
def Dev.barOpen (d : Dev) (e n : Nat) : Bool :=
  (List.range 20).all fun k => let c := d.getCl (20 * e + k); c.run = .exited || n ≤ c.bars

/-- Lets the clusters of an engine leave the barriers that are open (R118). -/
def State.barCheck (s : State) (e : Nat) : State :=
  (List.range 20).foldl (fun s k =>
    let i := 20 * e + k
    let c := s.dev.getCl i
    if c.stall = .bar ∧ s.dev.barOpen e c.bars then s.retire i else s) s

/-- A merge that a named cluster can no longer join fails: its requests leave the mover, and their tags are lost (R116, log 55). -/
def Cluster.loseMerge (c : Cluster) (tag : Nat) : Cluster :=
  { c with movs := c.movs.filter (fun q => q.tag ≠ tag), mergeLost := c.mergeLost ++ [tag] }

/-- Whether a wait for a tag covers a lost merge (R116, R117). -/
def Cluster.lost (c : Cluster) (t : Nat) : Bool := c.mergeLost.any fun x => x ≤ t

/-- A cluster exits with its return value; clusters that wait for a merge that it has not joined trap, in one core cycle (R116, R128, R130). -/
def State.exit (s : State) (i : Nat) : State :=
  let c := s.dev.getCl i
  let e := i / 20
  if c.arrq.isEmpty ∧ c.movs.isEmpty then
    if c.xget 10 ≠ 0 then s.trap i 0xFF (c.xget 10).toNat
    else
      let s := s.modC i fun c => { c with run := .exited }
      let gone := (s.dev.getEng e).merges.filter fun m => bit m.2.first.mask (i % 20) && !m.2.joined.any fun x => x.1 = i % 20
      let s := s.onDev fun d => d.modEng e fun x => { x with merges := x.merges.filter fun m => !gone.any fun g => g.1 = m.1 }
      let s := (gone.flatMap fun m => m.2.joined).foldl (fun s x => s.modC (20 * e + x.1) fun c => c.loseMerge x.2.1) s
      let traps := ((List.range 20).map fun k => 20 * e + k).filterMap fun j =>
        let c := s.dev.getCl j
        match c.stall with
        | .waitM t => if c.lost t then some (j, 29, t) else none
        | _ => none
      if traps.isEmpty then ((List.range 20).foldl (fun s k => s.wakeMov (20 * e + k)) s).barCheck e else s.traps traps
  else s

/-! ### Meanings. -/

/-- MOVER_COPY (R114, R115): kq.mov with op 0; a reserved op is refused here too. -/
def execMoverCopy (p : Pre) (rd rs1 : Fin 32) (s : State) : Out :=
  .next (s.kernelStep p fun i s => s.movOp i (fun op => op = 0 || 2 < op) rd rs1)

/-- MOVER_CONVERT (R115): kq.mov with op 1. -/
def execMoverConvert (p : Pre) (rd rs1 : Fin 32) (s : State) : Out :=
  .next (s.kernelStep p fun i s => s.movOp i (fun op => op = 1) rd rs1)

/-- MERGE (R116): kq.mov with op 2. -/
def execMerge (p : Pre) (rd rs1 : Fin 32) (s : State) : Out :=
  .next (s.kernelStep p fun i s => s.movOp i (fun op => op = 2) rd rs1)

/-- MOVER_REQUEST_COMPLETE (R117): the mover performs a request and, unless `only` says that its writes are still on their way, completes
it. -/
def execMoverRequestComplete (cl : ClId) (tag : Nat) (only : Bool) (s : State) : Out := .next (s.movComplete (clIdx cl) tag only)

/-- KQ_WAIT_M (R117). -/
def execKqWaitM (p : Pre) (rs1 : Fin 32) (s : State) : Out :=
  .next (s.kernelStep p fun i s =>
    let c := s.dev.getCl i
    let t := (c.xget rs1).toNat
    if c.tags < t then s.trap i 30 t
    else if c.lost t then s.trap i 29 t
    else if c.movs.all (fun r => t < r.tag) then s.retire i
    else s.modC i fun c => { c with stall := .waitM t })

/-- KQ_BAR (R118). -/
def execKqBar (p : Pre) (s : State) : Out :=
  .next (s.kernelStep p fun i s => (s.modC i fun c => { c with bars := c.bars + 1, stall := .bar }).barCheck (i / 20))

/-- The counter of an index (Table 5.14): a reserved index reads as zero. -/
def cntValue (c : Cluster) (idx : Nat) : Nat :=
  match idx with
  | 0x000 => c.arrStream | 0x001 => c.arrLoad | 0x002 => c.arrRamp | 0x003 => c.arrIdle
  | 0x010 => c.cycles | 0x011 => c.instret | 0x020 => c.ccHits | 0x021 => c.ccMisses | 0x022 => c.ccBlocked
  | 0x030 => c.movBytes
  | 0x040 => Map.get c.counts 4 0 | 0x041 => Map.get c.counts 5 0 | 0x042 => Map.get c.counts 6 0 | 0x043 => Map.get c.counts 7 0
  | 0x044 => Map.get c.counts 8 0 | 0x045 => Map.get c.counts 9 0
  | 0x050 => c.draws
  | _ => 0

/-- KQ_CNT (R126). -/
def execKqCnt (p : Pre) (rd : Fin 32) (idx : BitVec 12) (s : State) : Out :=
  .next (s.kernelStep p fun i s => s.done i rd (BitVec.ofNat 64 (cntValue (s.dev.getCl i) idx.toNat)))

/-- ECALL (Table 5.15): environment call, cause 8. -/
def execEcall (p : Pre) (s : State) : Out := .next (s.kernelStep p fun i s => s.trap i 8 0x73)

/-- EBREAK (Table 5.15): breakpoint, cause 3. -/
def execEbreak (p : Pre) (s : State) : Out := .next (s.kernelStep p fun i s => s.trap i 3 0x100073)

/-- CLUSTER_EXIT (R130): the loader takes the return value once the cluster's operations and requests have finished. -/
def execClusterExit (p : Pre) (s : State) : Out :=
  .next (let i := clIdx p.cl
    if (s.dev.getCl i).ready then s.alsoTraps ((s.modC i fun c => c.applyPre p).exit i) p else s)

/-- KERNEL_RUN_LIMIT (R131): a KERNEL part that has run for 2^36 array cycles fails with cause 0xFE; the rest of the
detail is not stated (log 5). -/
def execKernelRunLimit (part : Nat) (s : State) : Out :=
  .next (match s.dev.getPart part with
    | some p =>
      if p.kind = .kernel ∧ p.stage = .executing ∧ p.ran ∧ p.since + 2 ^ 36 ≤ (s.dev.getTerr p.eng.t.val).arr then
        let v (k : Nat) : Nat := (Config.trapValue (s.dev.free + k)).toNat
        ((s.took 4).onDev fun d => d.modPart part fun p =>
          { p with trap := some (0xFE, v 0 % 20, v 1 % 256, v 2 % 2 ^ 32, v 3) }).failPart part stTrap
      else s
    | none => s)

end Sys2Proof.Machine
end

