-- ==== Sys2Proof/Machine/Layout.lean ====
section
/-!
DEFINITION. The layout record: its fields, the partitions and attachments that it forms, and the rules of its content (R335,
R359 to R364, R483, R484).
-/

namespace Sys2Proof.Machine

/-! ### Fields of a record (Tables 20.19, 20.20). -/

def recOwner (r : Mem) : Nat := Mem.le r 16 1
def recSplit (r : Mem) : Nat := Mem.le r 17 1
def recCap (r : Mem) : Nat := Mem.le r 20 2
def recMask (r : Mem) (p : Nat) : Nat := if p < 8 then Mem.le r (24 + p) 1 else 0
def recTenancy (r : Mem) (a : Nat) : Nat := Mem.le r (32 + a) 1
def recSysmem (r : Mem) (p : Nat) : Nat := Mem.le r (40 + 4 * p) 4
def recMark (r : Mem) : Nat := Mem.le r 72 4
def recDormant (r : Mem) : Nat := Mem.le r 76 4
/-- n bytes at an offset of port p's network block. -/
def recNet (r : Mem) (p off n : Nat) : Nat := Mem.le r (128 + 128 * p + off) n

/-- The terraces of a mask. -/
def terrOf (mask : Nat) : List Nat := (List.range 8).filter fun t => bit mask t

/-- The terraces of a partition of the record in force. -/
def Mgmt.terraces (m : Mgmt) (p : Nat) : List Nat := terrOf (recMask m.record p)

/-- The partition that holds a terrace. -/
def Mgmt.ptOf (m : Mgmt) (t : Nat) : Option Nat := (List.range 8).find? fun p => bit (recMask m.record p) t

/-- Whether an attachment exists under a split (R11, R335). -/
def attExists (split a : Nat) : Bool := a < 8 && (a % 2 = 0 || bit split (a / 2))

/-- The owner attachment is that of the record in force. -/
def Mgmt.isOwner (m : Mgmt) (a : Nat) : Bool := recOwner m.record = a

/-! ### Caddy slices (R361). -/

/-- Bytes of a terrace's caddy slice. -/
def sliceBytes : Nat := 6 * 2 ^ 40

/-- Where the slice of a terrace begins. -/
def sliceBase (t : Nat) : Nat := (t / 4) * 0x180000000000 + t % 4 * sliceBytes

/-- System memory of a partition of the record in force: base and bytes. -/
def Mgmt.sysmem (m : Mgmt) (p : Nat) : Nat × Nat :=
  (match (m.terraces p).head? with | some t => sliceBase t | none => 0, recSysmem m.record p * 2 ^ 30)

/-- The object store of a partition in bytes, less the crash-dump area of its terraces (R361). -/
def Mgmt.store (m : Mgmt) (p : Nat) : Nat :=
  (m.terraces p).length * (sliceBytes - 2 ^ 29) - recSysmem m.record p * 2 ^ 30

/-! ### Content rules (R359, R361, R484). -/

/-- The shapes of Table 15.1. -/
def shapeOk (mask : Nat) : Bool :=
  has [1, 2, 4, 8, 16, 32, 64, 128, 0x03, 0x0C, 0x30, 0xC0, 0x0F, 0xF0, 0xFF] mask

/-- Whether the bytes off to off + n - 1 of a record are zero. -/
def recZero (r : Mem) (off n : Nat) : Bool := (Mem.slice r off n 0).isEmpty

/-- The partitions: shapes, disjointness and system memory. -/
def recPartsOk (r : Mem) : Bool :=
  (List.range 8).all fun p =>
    let m := recMask r p
    let n := (terrOf m).length
    let sm := recSysmem r p
    if m = 0 then sm = 0
    else shapeOk m && ((List.range 8).all fun q => q = p || m &&& recMask r q = 0) && 1 ≤ sm
      && sm * 2 ^ 30 + n * 2 ^ 29 + 2 ^ 30 ≤ n * sliceBytes

/-- The partitions that a record forms, as a mask. -/
def recPresent (r : Mem) : Nat := ((List.range 8).map fun p => if recMask r p = 0 then 0 else 2 ^ p).sum

/-- A network block: reserved bytes, ranges, and fields that nflags marks valid. A PFC priority of 0 lies in its range and is
taken as set (DEDUCED, log 13). -/
def recNetOk (r : Mem) (p : Nat) : Bool :=
  let f (o n : Nat) : Nat := recNet r p o n
  let z (o n : Nat) : Bool := recZero r (128 + 128 * p + o) n
  let fl := f 5 1
  z 29 3 && z 36 12 && z 64 64 && fl < 16 && f 4 1 ≤ 32 && f 6 2 ≤ 4094 && f 24 1 ≤ 128 && f 25 1 ≤ 7 && f 26 1 ≤ 63 && f 27 1 ≤ 63
    && (!bit fl 0 || (f 0 4 ≠ 0 && f 4 1 ≠ 0)) && (!bit fl 1 || (f 8 16 ≠ 0 && f 24 1 ≠ 0)) && (!bit fl 2 || f 6 2 ≠ 0)
    && f 28 1 &&& (255 - recPresent r) = 0

/-- The content of a record under the splits that the owner must exist under (R484). -/
def recOk (r : Mem) (splits : List Nat) : Bool :=
  Mem.le r 0 4 = 0x4B514C52 && Mem.le r 4 2 = 1 && recZero r 6 2 && recZero r 18 2 && recZero r 22 2 && recZero r 80 48
    && recZero r 640 3456 && recSplit r < 16 && splits.all (fun s => attExists s (recOwner r))
    && 2500 ≤ recCap r && recCap r ≤ 7500 && recPartsOk r
    && ((List.range 8).all fun a => recTenancy r a &&& (255 - recPresent r) = 0) && (List.range 4).all fun p => recNetOk r p

/-- The check word of a record (R483). -/
def recCheck (r : Mem) : Bool := crc32c (Mem.read (Mem.zero r 12 4) 0 4096) = Mem.le r 12 4

/-- The record with its check word made right. -/
def recSeal (r : Mem) : Mem := Mem.write r 12 (leBytes 4 (crc32c (Mem.read (Mem.zero r 12 4) 0 4096)))

/-- The factory defaults (Table 20.19). -/
def recDefault : Mem := (({} : Mgmt)).record

end Sys2Proof.Machine
end

