-- ==== Sys2Proof/Machine/Msg.lean ====
section
/-!
DEFINITION. Messages: taking the next message of a mailbox, the checks of its header, and replies (R346 to R348, R378 to R383,
R408).
-/

namespace Sys2Proof.Machine

/-- A message that Jormon has taken: where its reply goes, its 256 bytes, the context of its mailbox, and its attachment
(a context's home). -/
structure MsgIn where
  back : ReplyTo
  b   : Bytes
  ctx : Option Nat
  att : Nat
deriving DecidableEq, Repr

def MsgIn.op (m : MsgIn) : Nat := field m.b 0 1
/-- The context of a message taken in a context mailbox. -/
def MsgIn.n (m : MsgIn) : Nat := m.ctx.getD 0

/-! ### Mailboxes. -/

/-- Changes an attachment's mailbox or a context's; that of a context that has ended stands in `ghosts`. -/
def Dev.modMbox (d : Dev) (mb : Mb) (f : Mailbox → Mailbox) : Dev :=
  match mb with
  | .att a => d.modAtt a.val fun x => { x with mbox := f x.mbox }
  | .ctx n =>
    match d.getCtx n.val with
    | some _ => d.modCtx n.val fun c => { c with mbox := f c.mbox }
    | none => { d with ghosts := Map.mod d.ghosts n.val fun g => (g.1, f g.2) }
  | .qp _ => d

def echo (mb : Mb) (slot : Nat) (b : Bytes) : ReplyTo :=
  { mb := mb, slot := slot, op := field b 0 1, mflags := field b 1 1, ctx := field b 2 2, seq := field b 4 4 }

/-- The oldest message of a mailbox that has been produced and not taken. -/
def Mailbox.head (x : Mailbox) (mb : Mb) : Option (ReplyTo × Bytes) :=
  if x.taken = x.produced then none
  else let b := Mem.read x.page (256 * (x.taken % 16)) 256; some (echo mb (x.taken % 16) b, b)

/-- Whether Jormon takes messages of a context: it is neither orphaned, nor being torn down, rolled back or restored, nor
between two Jormon versions (R355, R374, R449, R453, R477). -/
def Dev.takes (d : Dev) (c : Ctx) : Bool :=
  c.state = .active && c.teardown.isNone && c.rollDue.isNone && (d.getPt c.pt).alarm.isNone

/-- The next message of a mailbox, if Jormon takes one now. -/
def State.headMsg (s : State) (mb : Mb) : Option MsgIn :=
  if !s.dev.ready then none
  else
    match mb with
    | .att a =>
      if attExists s.mgmt.split a.val then
        ((s.dev.getAtt a.val).mbox.head mb).map fun m => { back := m.1, b := m.2, ctx := none, att := a.val }
      else none
    | .ctx n =>
      match s.dev.getCtx n.val with
      | none => none
      | some c => if s.dev.takes c then (c.mbox.head mb).map fun m => { back := m.1, b := m.2, ctx := some n.val, att := c.home } else none
    | .qp q =>
      match s.dev.getQp q with
      | none => none
      | some x =>
        match s.dev.getCtx x.ctx with
        | none => none
        | some c =>
          if x.err || c.gen ≠ x.gen || !s.dev.takes c then none
          else x.msgs.head?.map fun b => { back := echo mb 0 b, b := b, ctx := some x.ctx, att := c.home }

/-- The message is taken (R348). -/
def State.takeHead (s : State) (mb : Mb) : State :=
  match mb with
  | .qp q => s.onDev fun d => d.modQp q fun x => { x with msgs := x.msgs.drop 1 }
  | _ => s.onDev fun d => d.modMbox mb fun x => { x with taken := (x.taken + 1) % 65536 }

/-! ### Header checks (R378 to R380). -/

/-- A message with its check word taken as zero. -/
def unchecked (b : Bytes) : Bytes := b.take 12 ++ leBytes 4 0 ++ b.drop 16

/-- Whether the check word matches (R379). -/
def checkOk (b : Bytes) : Bool := crc32c (unchecked b) = field b 12 4

/-- Opcodes of Table 16.2. -/
def opListed (op : Nat) : Bool := 1 ≤ op && op ≤ 0x15

/-- Whether a mailbox takes an opcode: attachment only, context only, or both. -/
def opMailbox (op : Nat) (ctx : Bool) : Bool :=
  if has [0x01, 0x02, 0x03, 0x04, 0x14, 0x15] op then !ctx else if has [0x11, 0x12, 0x13] op then true else ctx

/-- The length that Table 16.2 gives, or allows. -/
def lengthOk (b : Bytes) : Bool :=
  let l := field b 8 2
  match field b 0 1 with
  | 0x01 => l = 10 | 0x02 => l = 8 | 0x03 => l = 0 | 0x04 => l = 40 | 0x05 => l = 0
  | 0x06 => l = 16 + 32 * field b 16 1 && 1 ≤ field b 16 1 && field b 16 1 ≤ 7
  | 0x07 => l = 4 | 0x08 => l = 4 | 0x09 => l = 32 | 0x0A => l = 32 | 0x0B => l = 128 | 0x0C => l = 10 | 0x0D => l = 4
  | 0x0E => l = 5 | 0x0F => l = 16 | 0x10 => l = 3 | 0x11 => l = 6 | 0x12 => l = 16 | 0x13 => l = 64 | 0x14 => l = 4
  | 0x15 => if field b 16 1 = 0 then l = 16 + field b 20 2 else l = 12
  | _ => false

/-- The payload bytes that Table 16.3 defines: offset and size. -/
def payloadFields (b : Bytes) : List (Nat × Nat) :=
  match field b 0 1 with
  | 0x01 => [(16, 10)] | 0x02 => [(16, 8)] | 0x04 => [(16, 3), (20, 10), (32, 10), (48, 8)]
  | 0x06 => [(16, 1), (32, 32 * field b 16 1)]
  | 0x07 => [(16, 4)] | 0x08 => [(16, 4)] | 0x09 => [(16, 32)] | 0x0A => [(16, 32)] | 0x0B => [(16, 128)] | 0x0C => [(16, 10)]
  | 0x0D => [(16, 4)] | 0x0E => [(16, 5)] | 0x0F => [(16, 1), (24, 8)] | 0x10 => [(16, 3)] | 0x11 => [(16, 3), (20, 2)]
  | 0x12 => [(16, 1), (20, 12)] | 0x13 => [(16, 1), (32, min 47 (field b 16 1))] | 0x14 => [(16, 4)]
  | 0x15 => [(16, 1), (18, 4), (24, 4), (32, if field b 16 1 = 0 then field b 20 2 else 0)]
  | _ => []

/-- Whether every payload byte outside the defined ones is zero (R8). -/
def reservedOk (b : Bytes) : Bool :=
  let fs := payloadFields b
  ((b.drop 16).zipIdx 16).all fun x => x.1 = 0 || fs.any fun f => f.1 ≤ x.2 && x.2 < f.1 + f.2

/-- The refusal that the header calls for. The manual judges the check word first and gives no order among the others: opcode
and mailbox, context, ATTACH, length, reserved fields (DESIGN CHOICE, log 14). -/
def State.precheck (s : State) (m : MsgIn) : Option Nat :=
  let op := m.op
  if !checkOk m.b then some 2
  else if !opListed op ∨ !opMailbox op m.ctx.isSome then some 3
  else if field m.b 2 2 ≠ m.ctx.getD 0xFFFF then some 4
  else if m.ctx.isNone ∧ (s.dev.getAtt m.att).token.isNone ∧ ¬ (op = 0x14 ∨ op = 0x12 ∧ field m.b 16 1 = 0 ∨ op = 1) then some 4
  else if !lengthOk m.b then some 3
  else if field m.b 10 2 ≠ 0 ∨ 2 ≤ field m.b 1 1 ∨ !reservedOk m.b then some 3
  else none

/-! ### Replies (R381, R382). -/

/-- The 256 bytes of a reply. R381 names the opcode, the context and the sequence number as echoed; that the mflags byte is echoed too, as it
stands in the message, is the model's choice (DESIGN CHOICE, log 58). -/
def replyBytes (r : ReplyTo) (status : Nat) (payload : Bytes) : Bytes :=
  let h (chk : Nat) : Bytes := leBytes 1 r.op ++ leBytes 1 r.mflags ++ leBytes 2 r.ctx ++ leBytes 4 r.seq
    ++ leBytes 2 payload.length ++ leBytes 2 status ++ leBytes 4 chk ++ sub payload 0 240
  h (crc32c (h 0))

/-- The reply lands in the message's slot, its FREE bit is set, and the interrupt that INTR asks for is sent; on a queue pair it
joins the replies that are ready (R348, R408). -/
def State.reply (s : State) (r : ReplyTo) (status : Nat) (payload : Bytes) : State :=
  let bs := replyBytes r status payload
  let put (d : Dev) : Dev := d.modMbox r.mb fun x => { x with
    page := Mem.write x.page (256 * r.slot) bs, free := x.free ||| BitVec.ofNat 16 (2 ^ r.slot) }
  match r.mb with
  | .qp q => s.onDev fun d => d.modQp q fun x => { x with replies := x.replies ++ [bs] }
  | .att a => s.onDev fun d => (put d).modAtt a.val fun x => if bit r.mflags 0 then x.vector 0 else x
  | .ctx n => s.onDev fun d =>
    match d.getCtx n.val with
    | some c => (put d).modAtt c.home fun x => if bit r.mflags 0 then x.vector c.vector else x
    | none => put d

/-- Answers a message that it refuses: no payload. -/
def State.refuse (s : State) (m : MsgIn) (status : Nat) : State := s.reply m.back status []

/-- The row of a message: it takes the next message of its mailbox if that is its own, or bears an opcode of no row; what the
header checks refuse is answered so, and anything else is handed on. -/
def State.message (s : State) (mb : Mb) (mine : Bytes → Bool) (f : MsgIn → State → State) : State :=
  match s.headMsg mb with
  | none => s
  | some m =>
    if mine m.b ∨ !opListed m.op then
      match s.precheck m with
      | some st =>
        let s := s.takeHead mb
        let s := if st = 2 then s.onDev fun d => d.count 0x0B 1 else s
        s.refuse m st
      | none => f m (s.takeHead mb)
    else s

/-- The messages of an opcode. -/
def isOp (op : Nat) (b : Bytes) : Bool := field b 0 1 = op

/-- A handler over the context that sent the message. -/
def State.inCtx (s : State) (m : MsgIn) (f : Ctx → State → State) : State :=
  match s.dev.getCtx m.n with
  | some c => f c s
  | none => s

end Sys2Proof.Machine
end

