-- ==== Sys2Proof/Machine/Faults.lean ====
section
/-!
DEFINITION. The fault queue of a partition: entries, records held back by a full queue, and what removes waiters (R265 to
R274).
-/

namespace Sys2Proof.Machine

/-- Parked descriptors plus held parts. -/
def FaultEntry.waiting (f : FaultEntry) : Nat := f.parked.length + f.held.length

/-- The fault record (Table 10.5). -/
def FaultEntry.bytes (f : FaultEntry) : Bytes :=
  leBytes 4 f.num ++ leBytes 2 f.ctx ++ leBytes 1 f.cause
    ++ leBytes 1 ((if f.queueSrc then 1 else 0) + (if f.runSrc then 2 else 0)) ++ leBytes 8 (f.va % 2 ^ 48) ++ leBytes 8 f.engines
    ++ leBytes 4 f.seq ++ leBytes 1 f.access ++ leBytes 1 0 ++ leBytes 2 (min 65535 f.waiting)

/-- The entry that a record opens. -/
def FaultRec.entry (r : FaultRec) (num : Nat) : FaultEntry :=
  { num := num, ctx := r.ctx, cause := r.cause, va := r.va, engines := match r.eng with | some e => 2 ^ e | none => 0,
    seq := r.seq, access := 2 ^ r.access, queueSrc := r.eng.isNone, runSrc := r.eng.isSome,
    parked := if r.eng.isNone then [r.seq] else [], held := match r.part with | some u => [(u, r.who)] | none => [] }

/-- Opens an entry and posts its event (R268). -/
def State.openEntry (s : State) (pt : Nat) (r : FaultRec) : State :=
  let f := r.entry (s.dev.getPt pt).nextEntry
  let s := s.onDev fun d => (d.modPt pt fun q => { q with
    faults := q.faults ++ [f], nextEntry := if q.nextEntry = 2 ^ 32 - 1 then 1 else q.nextEntry + 1 }).countPt pt 0 1
  s.event r.ctx 1 r.cause r.seq f.bytes

/-- A record joins an open entry (R269). -/
def FaultEntry.joinRec (f : FaultEntry) (r : FaultRec) : FaultEntry :=
  match r.eng, r.part with
  | some e, some u => f.join r.ctx r.va e u r.who
  | _, _ => if f.joins r.ctx r.va then { f with queueSrc := true, parked := addOnce f.parked r.seq } else f

/-- Whether an open entry takes the record. -/
def Partn.joins (q : Partn) (r : FaultRec) : Bool := r.cause = 0 && q.faults.any fun f => f.joins r.ctx r.va

/-- Records that a full queue holds back in a partition, oldest first: Jormon's and those of its engines' registers (R272, R273). -/
def Dev.backlog (d : Dev) (pt : Nat) : List FaultRec :=
  let mine (r : FaultRec) : Bool := match d.getCtx r.ctx with | some c => c.pt = pt | none => false
  let regs := (d.eng.filterMap fun e => e.2.faultReg).filter fun r => r.full && mine r
  sortKey (((d.getPt pt).heldRecs ++ regs).map fun r => (r.age, r))

/-- Whether an open entry takes a record, or the queue has room for it. -/
def Dev.enters (d : Dev) (pt : Nat) (r : FaultRec) : Bool := (d.getPt pt).joins r || (d.getPt pt).faults.length < 4096

/-- A record enters the queue. -/
def State.enter (s : State) (pt : Nat) (r : FaultRec) : State :=
  if (s.dev.getPt pt).joins r then
    s.onDev fun d => d.modPt pt fun q => { q with faults := q.faults.map fun f => f.joinRec r }
  else s.openEntry pt r

/-- The register gives its record up, and the next access that waited behind it loads its own (R272, R273). -/
def Engine.freeReg (x : Engine) : Engine := { x with faultReg := x.faultWait.head?, faultWait := x.faultWait.drop 1 }

/-- A record leaves where it was held: Jormon's list, or an engine's register. -/
def Dev.unhold (d : Dev) (pt : Nat) (r : FaultRec) : Dev :=
  match r.eng with
  | some e => d.modEng e Engine.freeReg
  | none => d.modPt pt fun q => { q with heldRecs := q.heldRecs.filter fun x => x ≠ r }

/-- Held records enter the queue as there is room, oldest first (R273). -/
def State.refillN (fuel : Nat) (s : State) (pt : Nat) : State :=
  match fuel with
  | 0 => s
  | fuel + 1 =>
    match (s.dev.backlog pt).find? fun r => s.dev.enters pt r with
    | some r => ((s.onDev fun d => d.unhold pt r).enter pt r).refillN fuel pt
    | none => s

def State.refill (s : State) (pt : Nat) : State :=
  s.refillN ((s.dev.getPt pt).heldRecs.length + (s.dev.eng.map fun e => 1 + e.2.faultWait.length).sum) pt

/-- A queue-time fault: its record enters the queue, or Jormon holds it (R265, R269, R272). -/
def State.queueFault (s : State) (pt ctx seq va access cause : Nat) : State :=
  let r : FaultRec := { ctx := ctx, va := va, access := access, eng := none, part := none, seq := seq, cause := cause, age := s.dev.serial,
                        since := s.time.fabric, full := true }
  let s := s.onDev fun d => { d with serial := d.serial + 1 }
  if (s.dev.getPt pt).joins r ∨ (s.dev.enters pt r ∧ (s.dev.backlog pt).isEmpty) then s.enter pt { r with full := false }
  else s.onDev fun d => (d.modPt pt fun q => { q with heldRecs := q.heldRecs ++ [r] }).countPt pt 1 1

/-- Removes a parked descriptor from the entries and the held records that it waits in (R271). -/
def Partn.unpark (q : Partn) (ctx seq : Nat) : Partn :=
  { q with
    faults := q.faults.map fun f => if f.ctx = ctx then { f with parked := f.parked.filter fun x => x ≠ seq } else f
    heldRecs := q.heldRecs.filter fun r => ¬ (r.ctx = ctx ∧ r.seq = seq) }

/-- Removes every waiter of a context, whose entries stay open (R271). -/
def Partn.unwait (q : Partn) (ctx : Nat) : Partn :=
  { q with
    faults := q.faults.map fun f => if f.ctx = ctx then { f with parked := [], held := [] } else f
    heldRecs := q.heldRecs.filter fun r => r.ctx ≠ ctx }

/-- Closes every open entry of a context without action (R271). -/
def Partn.closeCtx (q : Partn) (ctx : Nat) : Partn :=
  { q with faults := q.faults.filter (fun f => f.ctx ≠ ctx), heldRecs := q.heldRecs.filter fun r => r.ctx ≠ ctx }

def State.closeFaults (s : State) (pt ctx : Nat) : State :=
  (s.onDev fun d => d.modPt pt fun q => q.closeCtx ctx).refill pt

/-- A full queue holds back the record in an engine's register and every access behind it: each that has not been counted counts (R272). -/
def Dev.holdBack (d : Dev) (pt e : Nat) : Dev :=
  let x := d.getEng e
  let late (r : FaultRec) : Bool := !r.full && !(d.getPt pt).joins r
  let n := (x.faultReg.toList.filter late).length + (x.faultWait.filter late).length
  let mark (r : FaultRec) : FaultRec := if late r then { r with full := true } else r
  (d.modEng e fun x => { x with faultReg := x.faultReg.map mark, faultWait := x.faultWait.map mark }).countPt pt 1 n

/-- Whether a lower engine's record reaches Jormon in the same fabric cycle (R269). -/
def Dev.lowerFirst (d : Dev) (pt i : Nat) (r : FaultRec) : Bool :=
  (List.range i).any fun k => match (d.getEng k).faultReg with
    | some q => !q.full && q.since = r.since && (match d.getCtx q.ctx with | some c => c.pt = pt | none => false)
    | none => false

/-- The record in an engine's fault register reaches Jormon (R268, R269, R272, R273): it joins or opens an entry and frees the register, or
the full queue holds it back. Records of one fabric cycle are taken in the order of their engines. -/
def State.faultOpen (s : State) (i : Nat) : State :=
  match (s.dev.getEng i).faultReg with
  | none => s
  | some r =>
    match s.dev.getCtx r.ctx with
    | none => s.onDev fun d => d.modEng i Engine.freeReg
    | some c =>
      if s.dev.lowerFirst c.pt i r then s
      else if (s.dev.getPt c.pt).joins r ∨ (s.dev.enters c.pt r ∧ (s.dev.backlog c.pt).isEmpty) then
        ((s.onDev fun d => d.modEng i Engine.freeReg).enter c.pt r).refill c.pt
      else s.onDev fun d => d.holdBack c.pt i

/-- FAULT_ENTRY_OPEN. -/
def execFaultEntryOpen (e : EngId) (s : State) : Out := .next (s.faultOpen (eIdx e))

end Sys2Proof.Machine
end

