-- ==== Sys2Proof/Machine/Outputs.lean ====
section
/-!
DEFINITION. A descriptor's fields, the byte extents of its planes, and what becomes of the outputs of a command that does not end well
(R137 to R149, R169, R171, R172, R376).
-/

namespace Sys2Proof.Machine

/-! ### Header (Table 6.1). -/

def dOp (b : Bytes) : Nat := field b 0 1
def dFlag (b : Bytes) (k : Nat) : Bool := bit (field b 1 1) k
def dPlace (b : Bytes) : Nat := field b 4 1 % 4
def dTerr (b : Bytes) : Nat := field b 5 1 % 8
def dEng (b : Bytes) : Nat := bits (field b 5 1) 6 4
def dMax (b : Bytes) : Nat := if field b 6 1 = 0 then 64 else field b 6 1

/-- The opcodes of Table 6.1a. -/
def dListed (op : Nat) : Bool := (1 ≤ op && op ≤ 10) || has [0x10, 0x11, 0x12, 0x13, 0x20, 0x21, 0x22, 0x30] op

/-- The opcodes that read conv (R139). -/
def dConverts (op : Nat) : Bool := has [1, 2, 3, 5, 6, 8] op

/-- A run on an engine (Table 6.1a). -/
def dEngine (op : Nat) : Bool := op ≤ 10

/-- COPY with HOST_DST. -/
def dHost (b : Bytes) : Bool := dOp b = 7 && bit (field b 113 1) 0

/-- ADD_DST of REDUCE and COMBINE. -/
def dAdd (b : Bytes) : Bool := (dOp b = 8 && bit (field b 97 1) 0) || (dOp b = 5 && bit (field b 121 1) 0)

/-- partial_fmt: whether partials are KA96. -/
def dKa (b : Bytes) : Bool := (dOp b = 8 && field b 96 1 = 1) || (dOp b = 5 && field b 120 1 = 1)

/-- Input references, at their offsets. -/
def dIns (b : Bytes) : List Nat :=
  match dOp b with
  | 1 => [32, 64] | 2 => [32, 64] | 3 => [32] | 4 => [32] | 5 => [32] | 6 => [32] | 7 => [32] | 8 => [32] | _ => []

/-- Output references, at their offsets. -/
def dOuts (b : Bytes) : List Nat :=
  match dOp b with
  | 1 => [96] | 2 => [96] | 4 => [64] | 5 => [64] | 6 => [64] | 7 => [64] | 8 => [64] | 9 => [32] | _ => []

/-! ### ROUTE (Tables 6.4, 7.1). -/

def rE (b : Bytes) : Nat := (Ref.of b 32).n0
def rT (b : Bytes) : Nat := (Ref.of b 32).n1
def rK (b : Bytes) : Nat := field b 104 1
def rCap (b : Bytes) : Nat := field b 108 4
def rObj (b : Bytes) : Nat := field b 112 4
def rWfmt (b : Bytes) : Nat := field b 116 1

/-- The five output regions: first byte and length. -/
def rRegions (b : Bytes) : List (Nat × Nat) :=
  [(field b 64 8, 16 + 33 * rT b), (field b 72 8, 4 * rE b * rCap b), (field b 80 8, 8 * rE b),
   (field b 88 8, 16 + 8 * rK b * rT b), (field b 96 8, 16 + 16 * rE b)]

/-! ### Spans and extents of a reference (R141, R172). -/

/-- The span of the element plane over lines lo to hi - 1: from the lowest to the highest byte. -/
def Ref.subSpan (r : Ref) (lo hi : Nat) : Nat × Nat :=
  if hi ≤ lo then (r.va, 0)
  else
    let j0 := lo / r.n1
    let j1 := (hi - 1) / r.n1
    let a := if j0 = j1 then r.lineVa lo else min (r.lineVa lo) (r.va + (j0 + 1) * r.s2)
    let z := if j0 = j1 then r.lineVa (hi - 1) else max (r.lineVa (hi - 1)) (r.va + (j1 - 1) * r.s2 + (r.n1 - 1) * r.s1)
    (a, z + lineBytes r.fmt r.n0 - a)

/-- The span of the scale plane over lines lo to hi - 1. -/
def Ref.scaleSpan (r : Ref) (lo hi : Nat) : Nat × Nat :=
  if r.fmt = 10 ∨ hi ≤ lo then (r.sva, 0)
  else if r.fmt = 9 then (r.sva, 1)
  else (r.scaleVa lo, r.scaleVa (hi - 1) + lineScales r.fmt r.n0 - r.scaleVa lo)

/-- The byte extents of lines lo to hi - 1, element and scale planes: packed lines as one, others each on its own. -/
def Ref.extents (r : Ref) (lo hi : Nat) : List (Nat × Nat) :=
  let n := lineBytes r.fmt r.n0
  let one : Bool := lo / r.n1 = (hi - 1) / r.n1
  let each (f : Nat → Nat × Nat) : List (Nat × Nat) := (List.range (hi - lo)).map fun k => f (lo + k)
  let e := if r.s1 = n ∧ (one ∨ r.s2 = r.n1 * r.s1) then [r.subSpan lo hi] else each fun l => (r.lineVa l, n)
  let dense : Bool := r.fmt = 9 || r.fmt = 10 || (r.sper = lineScales r.fmt r.n0 && (one || r.sn1 = r.n1))
  let x := if dense then [r.scaleSpan lo hi] else each fun l => (r.scaleVa l, lineScales r.fmt r.n0)
  (e ++ x).filter fun y => y.2 ≠ 0

/-! ### Undefined outputs (R169, R171, R376). -/

/-- Bytes of an extent that a context may write become free values where they stand (R169, log 57). -/
def State.freeExtent (s : State) (n : Nat) (x : Nat × Nat) : State :=
  (pages x.1 x.2).foldl (fun s va =>
    match s.dev.getCtx n with
    | none => s
    | some c =>
      match c.entry va with
      | none => s
      | some e =>
        let k := min (granule - va % granule) (x.1 + x.2 - va)
        match (if e.allows 1 then s.dev.through e c.pt n 0 2 (fun _ => true) true va else .denied) with
        | .phys pa => ((s.writePa pa ((List.range k).map fun i => Config.freeByte (s.dev.free + i))).onDev fun d => d.markDirty pa).took k
        | _ => s) s

/-- The output planes of a descriptor, in device memory and in host memory. -/
def outExtents (b : Bytes) : List (Nat × Nat) :=
  match dOp b with
  | 10 => [(field b 64 8, field b 72 8)]
  | 3 => rRegions b
  | _ => if dHost b then [] else (dOuts b).flatMap fun o => (Ref.of b o).extents 0 (Ref.of b o).lines

def hostExtents (b : Bytes) : List (Nat × Nat) :=
  if dHost b then let r := { Ref.of b 64 with va := field b 96 8, sva := field b 104 8 }; r.extents 0 r.lines else []

/-- Bytes of host memory that an export aims at become free values. -/
def State.freeHost (s : State) (a : Nat) (x : Nat × Nat) : State :=
  (s.onDev fun d => d.modAtt a fun y => { y with
    host := Mem.write y.host x.1 ((List.range x.2).map fun i => Config.freeByte (s.dev.free + i)) }).took x.2

/-- Every output element of a failed, aborted, removed or stopped command is undefined, and what its kernels wrote (R169, R171, R376). -/
def State.freeOutputs (s : State) (n : Nat) (x : Cmd) : State :=
  let s := (outExtents x.desc).foldl (fun s e => s.freeExtent n e) s
  let s := (hostExtents x.desc).foldl (fun s e => s.freeHost (field x.desc 112 1) e) s
  (s.dev.partsOf x).foldl (fun s p => s.freeWrote p.2.wrote) s

end Sys2Proof.Machine
end

