-- ==== Sys2Proof/Machine/Context.lean ====
section
/-!
DEFINITION. Contexts: creation, teardown, attaching, detaching and orphaning (R342, R343, R354 to R357, R363 to R367, R374 to
R377, R385).
-/

namespace Sys2Proof.Machine

/-! ### What contexts and objects take from their partition. -/

/-- Space of a context in the object store: journal and image (R361, R448). -/
def ctxSpace (quota : Nat) : Nat := 2 ^ 20 + 4096 + 32768 + 8 * quota

/-- Object-store bytes in use in a partition (R201, R361, R448). -/
def Dev.storeUsed (d : Dev) (p : Nat) : Nat :=
  ((d.ctxs.filter fun c => c.2.pt = p).map fun c => ctxSpace c.2.quota).sum
    + ((d.getPt p).objs.map fun o => sizeSum o.2.sizes + sizeSum o.2.pendSizes + (match o.2.sinkOp with | some k => sizeSum k.sizes | none => 0)).sum

/-- Contexts of a partition. -/
def Dev.ctxsOf (d : Dev) (p : Nat) : List (Nat × Ctx) := d.ctxs.filter fun c => c.2.pt = p

/-- Contexts whose home is an attachment. -/
def Dev.homedAt (d : Dev) (a : Nat) : List (Nat × Ctx) := d.ctxs.filter fun c => c.2.home = a

/-- The lowest context number that is free (DESIGN CHOICE: Jormon chooses, log 15). -/
def Dev.freeCtx (d : Dev) : Option Nat := (List.range (d.ctxs.length + 1)).find? fun n => (d.getCtx n).isNone && n < 4096

/-! ### Windows of the culvert (R260). -/

/-- A range entry stops counting at its window. -/
def Dev.unref (d : Dev) (e : RangeEntry) : Dev :=
  if e.kind ≠ 1 then d
  else
    let n := bits e.target 56 48
    let w := Map.get d.windows n {}
    if w.refs ≤ 1 then { d with windows := Map.del d.windows n }
    else { d with windows := Map.put d.windows n { w with refs := w.refs - 1 } }

/-! ### Stateful objects (R227). -/

/-- A context's shadows and pending images are discarded and its step ownership ends. -/
def Obj.disown (o : Obj) (n : Nat) : Obj :=
  if o.owner = some n then { o with owner := none, shadow := [], pend := none, pendSizes := [], pendBad := [], shadowWait := 0, shadowTried := [] } else o

def Dev.disown (d : Dev) (p n : Nat) : Dev := d.modPt p fun x => { x with objs := x.objs.map fun o => (o.1, o.2.disown n) }

/-! ### Retained copies and range caches. -/

def Dev.dropRetained (d : Dev) (n : Nat) : Dev :=
  { d with eng := d.eng.map fun e => (e.1, { e.2 with retained := e.2.retained.filter fun r => r.ctx ≠ n }) }

def Dev.dropCached (d : Dev) (n : Nat) : Dev :=
  { d with eng := d.eng.map fun e => (e.1, { e.2 with rcache := e.2.rcache.filter fun r => r.1 ≠ n }) }

/-! ### CTX_CREATE (R365, R366, R385). -/

/-- The refusal of a CTX_CREATE: BAD_FIELD, NOT_OWNER, BUSY, NO_RESOURCE in that order (log 14). -/
def State.createRefusal (s : State) (m : MsgIn) : Option Nat :=
  let f (o n : Nat) : Nat := field m.b o n
  let p := f 16 1
  let logBad (l : Nat) : Bool := l < 6 || 16 < l
  let n := (s.mgmt.terraces p).length
  let mates := s.dev.ctxsOf p
  if 7 < p ∨ 7 < f 17 1 ∨ f 18 1 = 0 ∨ 63 < f 18 1 ∨ f 20 4 = 0 ∨ 65536 < f 20 4 ∨ 1024 < f 24 2 ∨ 1024 < f 26 2 then some 3
  else if logBad (f 40 1) ∨ logBad (f 41 1) ∨ f 32 8 % 4096 ≠ 0 ∨ f 48 8 % 4096 ≠ 0 then some 3
  else if !bit (recTenancy s.mgmt.record m.att) p then some 4
  else if 8192 * n < f 20 4 then some 3
  else if (s.mgmt.terraces p).any fun t => s.dev.partns.any fun q => q.2.unformed && bit (recMask s.mgmt.record q.1) t then some 1
  else if s.dev.ctxs.length = 4096 ∨ 1024 ≤ mates.length ∨ 8192 * n < f 20 4 + (mates.map fun c => c.2.quota).sum
      ∨ 1024 < f 24 2 + (mates.map fun c => c.2.engShare).sum ∨ 1024 < f 26 2 + (mates.map fun c => c.2.caddyShare).sum
      ∨ s.mgmt.store p < s.dev.storeUsed p + ctxSpace (f 20 4) ∨ (s.dev.getPt p).noPath then some 5
  else none

/-- CTX_CREATE (R365, R367, R385, R395). -/
def State.create (s : State) (m : MsgIn) : State :=
  match s.createRefusal m with
  | some st => s.refuse m st
  | none =>
    match s.dev.freeCtx with
    | none => s.refuse m 5
    | some n =>
      let f (o k : Nat) : Nat := field m.b o k
      let gen := (Map.get s.dev.gens n 15 + 1) % 16
      let c : Ctx := {
        pt := f 16 1, gen := gen, home := m.att, prio := f 17 1, vector := f 18 1, quota := f 20 4, engShare := f 24 2,
        caddyShare := f 26 2, holdoff := f 28 2, recIova := f 32 8, recLog2 := f 40 1, evtIova := f 48 8, evtLog2 := f 41 1,
        served := s.mgmt.fwVersion.toNat }
      let s := s.onDev fun d => { d with
        ctxs := Map.put d.ctxs n c, gens := Map.put d.gens n gen, ghosts := Map.del d.ghosts n }
      (s.onDev fun d => d.modAtt m.att fun x => { x with rings := Map.del (Map.del x.rings (2 * n + 1)) (2 * n + 2) }).reply
        m.back 0 (leBytes 2 n ++ leBytes 1 gen)

/-! ### Images in force (R469, R473). -/

/-- The image in a slot of a component: version, svn, digest. -/
def Component.slot (x : Component) (comp k : Nat) : Word × Nat × Nat :=
  (if k = 0 then x.image0 else x.image1).getD (Config.factoryImage comp)

def Mgmt.comp (m : Mgmt) (c : Nat) : Component := Map.get m.comps c {}

def Mgmt.modComp (m : Mgmt) (c : Nat) (f : Component → Component) : Mgmt := { m with comps := Map.put m.comps c (f (m.comp c)) }

/-- The image of a component in its active slot. -/
def Mgmt.inForce (m : Mgmt) (c : Nat) : Word × Nat × Nat := (m.comp c).slot c (m.comp c).active

/-! ### Live Jormon update (R477). -/

/-- The old version is unloaded once no context is served by it; a firmware record of stage 2 is logged. -/
def State.fwDone (s : State) : State :=
  match s.mgmt.fwOld with
  | none => s
  | some _ =>
    if s.dev.ctxs.any fun c => c.2.served ≠ s.mgmt.fwVersion.toNat then s
    else (s.onMgmt fun g => { g with fwOld := none }).log 0x0270 none none
      (leBytes 1 1 ++ leBytes 1 2 ++ leBytes 8 s.mgmt.fwVersion.toNat ++ leBytes 1 (s.mgmt.inForce 1).2.1)

/-! ### Teardown (R374 to R377). -/

/-- Number of the range entries in a table. -/
def Ctx.rangeCount (c : Ctx) : Nat := c.ranges.length

/-- The live parts of a context. -/
def Dev.livePartsOf (d : Dev) (n : Nat) : List Nat := (d.parts.filter fun p => p.2.ctx = n && p.2.live).map fun p => p.1

/-- Drops the items of a context that outflow is not to write: its exports, entries that wait for the host's acknowledgement,
and every entry where `all`. -/
def Att.dropItems (x : Att) (n : Nat) (mine : Nat → Bool) (all : Bool) : Att :=
  let full := 65536 ≤ x.osn - x.ack
  { x with
    lapHeld := x.lapHeld.filter fun h => match h.2 with | .entry c _ _ _ _ => c ≠ n | .exportOf p _ _ => !mine p,
    items := x.items.filter fun i => match i with
      | .entry c _ _ _ _ => !(c = n && (full || all))
      | .exportOf p _ _ => !mine p }

/-- Replies that a teardown brings about: unmaps whose users are gone, and aborts (R374). -/
def State.teardownReplies (s : State) (n : Nat) (c : Ctx) : State :=
  let s := c.cmds.foldl (fun s x => x.abortTo.foldl (fun s r => s.reply r stAborted []) s) s
  let waiting := c.ranges.filterMap fun r => r.unmap
  (List.range waiting.length).foldl (fun s k =>
    match waiting[k]? with
    | some (some back, _) => s.reply back 0 (leBytes 2 (c.ranges.length - (k + 1)))
    | _ => s) (s.onDev fun d => d.modCtx n fun c => { c with ranges := c.ranges.filter fun r => r.unmap.isNone })

/-- Teardown steps 1 to 4 (R375): dispatch stops, the tag is fenced, outflow issues no export of the context, resources are
released. Of the writes on their way, the fence discards every one (which have landed before it is the order of HOME_WRITE
events, log 17); the outputs of the commands stopped or removed are undefined (R376, log 57). -/
def State.teardownBegin (s : State) (n : Nat) (back : Option ReplyTo) : State :=
  match s.dev.getCtx n with
  | none => s
  | some c =>
    if c.teardown.isSome then s
    else
      let live := s.dev.livePartsOf n
      let removed := (c.cmds.filter fun x => !x.state.ended && x.parts.isEmpty).length
      let mine (u : Nat) : Bool := match s.dev.getPart u with | some p => p.ctx = n | none => false
      let s := live.foldl (fun s u => s.stopPart u .aborted) s
      let s := (c.cmds.filter fun x => !x.state.ended).foldl (fun s x => s.freeOutputs n x) s
      let s := s.teardownReplies n c
      let errs := (s.dev.qps.filter fun q => q.2.ctx = n && q.2.gen = c.gen && !q.2.err).map fun q => q.2.port
      let s := s.onDev fun d =>
        let d : Dev := errs.foldl (fun d p => d.modEPort p fun x => { x with counts := Map.addSat x.counts 12 1 max64 }) d
        let d : Dev := { d with
          qps := d.qps.map fun q => if q.2.ctx = n ∧ q.2.gen = c.gen then (q.1, { q.2 with err := true, msgs := [] }) else q,
          atts := d.atts.map fun a => (a.1, a.2.dropItems n mine false),
          gates := d.gates.filter fun g => g.2.owner ≠ n,
          parts := d.parts.filter fun p => p.2.ctx ≠ n }
        let d : Dev := c.ranges.foldl (fun d r => d.unref r.entry) d
        let d : Dev := ((d.dropRetained n).dropCached n).disown c.pt n
        let d : Dev := { d with atts := d.atts.map fun a => (a.1, if a.2.bound.any (fun b => b.1 = n) then { a.2 with bound := none } else a.2) }
        d.modCtx n fun c => { c with
          teardown := some (back, removed, live.length), cmds := [], ranges := [], pins := [], planPins := [], journal := [],
          freed := [], heldGates := [], rollDue := none, inflowLost := [] }
      let s := s.onMem fun m => { m with flight := m.flight.filter fun w => ¬ (w.ctx = n ∧ w.gen = c.gen) }
      s.closeFaults c.pt n

/-- DETACH ends once its contexts are destroyed and outflow is drained; a hold that runs on the attachment ends with it (R354, log 46). -/
def State.detachEnd (s : State) (a : Nat) : State :=
  let x := s.dev.getAtt a
  match x.detach with
  | none => s
  | some (r, k) =>
    if (s.dev.homedAt a).isEmpty ∧ x.items.isEmpty then
      (s.onDev fun d => d.modAtt a fun x => {
        x with token := none, detach := none, lapHeld := [], held := false, orphanLeft := 0 }).reply r 0 (leBytes 2 k)
    else s

/-- The end of a teardown: the reply, and the context is gone; its mailbox keeps the replies (log 18). -/
def State.teardownEnd (s : State) (n : Nat) : State :=
  match s.dev.getCtx n with
  | none => s
  | some c =>
    match c.teardown with
    | none => s
    | some (back, removed, stopped) =>
      let s := match back with
        | some r => s.reply r 0 (leBytes 4 removed ++ leBytes 4 stopped)
        | none => s
      let box := match s.dev.getCtx n with | some c => c.mbox | none => {}
      let s := s.onDev fun d => { d with ctxs := Map.del d.ctxs n, ghosts := Map.put d.ghosts n (c.home, box) }
      s.fwDone.detachEnd c.home

/-! ### Orphaning (R355, R357). -/

/-- The orphan hold in kettle cycles (R355). -/
def orphanHold : Nat := 1200000000

/-- Contexts of an attachment become orphaned, with an event each, outflow is held and the hold starts unless one runs. -/
def State.orphan (s : State) (a cause : Nat) : State :=
  let left := if (s.dev.getAtt a).orphanLeft = 0 then orphanHold else (s.dev.getAtt a).orphanLeft
  let s := s.onDev fun d => d.modAtt a fun x => { x with held := true, orphanLeft := left, bound := none }
  let who := (s.dev.homedAt a).filter fun c => c.2.state = .active && c.2.teardown.isNone
  let s := s.onDev fun d => who.foldl (fun d c => d.modCtx c.1 fun x => { x with state := .orphaned }) d
  who.foldl (fun s c => s.event c.1 4 cause 0 (leBytes 4 left)) s

/-- Parts whose export waits or is issued on an attachment. -/
def Att.exporters (x : Att) : List Nat := x.items.filterMap fun i => match i with | .exportOf p _ _ => some p | _ => none

/-- Fails every part that exports to an attachment (R357). -/
def State.failExports (s : State) (a : Nat) : State :=
  let who := (s.dev.getAtt a).exporters
  let s := s.onDev fun d => d.modAtt a fun x => { x with items := x.items.filter fun i => match i with | .exportOf _ _ _ => false | _ => true }
  who.foldl (fun s u => s.failPart u stAttLost) s

/-- An attachment is lost (R339, R355, R357, R401). -/
def State.lose (s : State) (a : Nat) (kind : LossKind) : State :=
  let down := match kind with | .hotReset => true | .linkDisable => true | .dlDown => true | _ => false
  let clear := match kind with | .d3hot => false | _ => true
  let s := s.onDev fun d => d.modAtt a fun x =>
    let x := { x with staging := none }
    let x := if down then { x with
      dlActive := false, speed := 0, width := 0, flit := false, retrains := min max64 (x.retrains + 1) } else x
    if clear then { x with
      mask := 0, scratch := 0, winCtx := 0, winVa := 0, msix := ({} : Att).msix, status := x.status &&& ~~~0x7F04#64 } else x
  if (s.dev.getAtt a).token.isSome then s.orphan a 0 else s.failExports a

/-- The orphan hold ends without a REATTACH (R357). -/
def State.holdEnds (s : State) (a : Nat) : State :=
  let who := ((s.dev.homedAt a).filter fun c => c.2.state ≠ .active).map fun c => c.1
  let s := who.foldl (fun s n => s.teardownBegin n none) s
  let s := s.failExports a
  let s := s.onDev fun d => d.modAtt a fun x => { x with items := [], lapHeld := [], token := none, held := false, orphanLeft := 0 }
  let s := who.foldl (fun s n => s.teardownEnd n) s
  s.log 0x0260 (some a) none (leBytes 2 who.length)

/-! ### Attachment messages. -/

/-- ATTACH (R354, Table 16.3). -/
def State.attach (s : State) (m : MsgIn) : State :=
  let f (o n : Nat) : Nat := field m.b o n
  if f 16 8 % 4096 ≠ 0 ∨ f 24 1 < 6 ∨ 16 < f 24 1 ∨ 2 ≤ f 25 1 then s.refuse m 3
  else if (s.dev.getAtt m.att).token.isSome then s.refuse m 1
  else
    let t := Config.token s.dev.free
    ((s.onDev fun d => d.modAtt m.att fun x => { x with
      token := some t, evtIova := f 16 8, evtLog2 := f 24 1, evtIntr := bit (f 25 1) 0, rings := Map.del x.rings 0 }).took 1).reply
        m.back 0 (leBytes 8 t.toNat ++ leBytes 1 m.att)

/-- REATTACH (R356). -/
def State.reattach (s : State) (m : MsgIn) : State :=
  let x := s.dev.getAtt m.att
  if x.token ≠ some (BitVec.ofNat 64 (field m.b 16 8)) then s.refuse m 4
  else if !s.dev.orphaned m.att ∧ x.orphanLeft = 0 then s.refuse m 1
  else
    let who := (s.dev.homedAt m.att).filter fun c => c.2.state ≠ .active
    let s := s.onDev fun d => { d with ctxs := d.ctxs.map fun c => (c.1, if c.2.home = m.att then { c.2 with state := .active } else c.2) }
    let s := s.onDev fun d => d.modAtt m.att fun x => { x with
      held := false, orphanLeft := 0, resending := true, status := x.status &&& ~~~4#64 }
    s.reply m.back 0 (leBytes 2 who.length ++ leBytes 6 0 ++ leBytes 8 x.ack)

/-- DETACH (R354): every context that has this home is torn down, and the reply waits. -/
def State.detach (s : State) (m : MsgIn) : State :=
  if (s.dev.getAtt m.att).detach.isSome then s.refuse m 1 else
  let who := (s.dev.homedAt m.att).map fun c => c.1
  let s := who.foldl (fun s n => s.teardownBegin n none) s
  (s.onDev fun d => d.modAtt m.att fun x => { x with detach := some (m.back, who.length) }).detachEnd m.att

/-! ### Meanings. -/

/-- ATTACH. -/
def execAttach (mb : Mb) (s : State) : Out := .next (s.message mb (isOp 1) fun m s => s.attach m)

/-- REATTACH. -/
def execReattach (mb : Mb) (s : State) : Out := .next (s.message mb (isOp 2) fun m s => s.reattach m)

/-- DETACH. -/
def execDetach (mb : Mb) (s : State) : Out := .next (s.message mb (isOp 3) fun m s => s.detach m)

/-- CTX_CREATE. -/
def execCtxCreate (mb : Mb) (s : State) : Out := .next (s.message mb (isOp 4) fun m s => s.create m)

/-- CTX_DESTROY: its teardown begins; the reply is the row TEARDOWN_REPLY. -/
def execCtxDestroy (mb : Mb) (s : State) : Out := .next (s.message mb (isOp 5) fun m s => s.teardownBegin m.n (some m.back))

/-- TEARDOWN_REPLY (R375 step 5): when the outflow unit holds no item of the context. -/
def execTeardownReply (n : Fin 4096) (s : State) : Out :=
  .next (match s.dev.getCtx n.val with
    | none => s
    | some c =>
      let busy := (s.dev.getAtt c.home).items.any fun i => match i with | .entry k _ _ _ _ => k = n.val | _ => false
      if busy then s else s.teardownEnd n.val)

end Sys2Proof.Machine
end

