-- ==== Sys2Proof/Machine/Ranges.lean ====
section
/-!
DEFINITION. Range tables and frame classes: RANGE_MAP, RANGE_UNMAP, FRAME_CLASS (R20, R202, R255 to R261, R267, R280, R283, R388),
and the step journal that keeps range changes (R175, R176).
-/

namespace Sys2Proof.Machine

/-! ### The journal (R175, R176). -/

/-- Records an entry, or overflows the step. -/
def Ctx.note (c : Ctx) (k : JKind) : Ctx :=
  if has c.overflow c.step ∨ 8192 ≤ c.journal.length then
    { c with overflow := addOnce c.overflow c.step, stats := c.stats.flag 0 }
  else { c with journal := c.journal ++ [{ step := c.step, kind := k }] }

/-! ### Range entries (Tables 10.1, 10.2). -/

/-- The entry in 32 bytes at an offset. -/
def entryAt (b : Bytes) (o : Nat) : RangeEntry :=
  { va := field b o 4, granules := field b (o + 4) 4, kind := field b (o + 8) 1, perms := field b (o + 9) 1,
    attrs := field b (o + 10) 1, target := field b (o + 16) 8 }

/-- Its 32 bytes. -/
def RangeEntry.bytes (e : RangeEntry) : Bytes :=
  leBytes 4 e.va ++ leBytes 4 e.granules ++ leBytes 1 e.kind ++ leBytes 1 e.perms ++ leBytes 1 e.attrs ++ leBytes 5 0
    ++ leBytes 8 e.target ++ leBytes 8 0

/-- First physical byte and length of a PHYSICAL or WINDOW entry. -/
def RangeEntry.base (e : RangeEntry) : Nat := e.target % 2 ^ 34 * granule
def RangeEntry.len (e : RangeEntry) : Nat := e.granules * granule
def RangeEntry.lean (e : RangeEntry) : Bool := bit e.attrs 0

/-- Whether two intervals meet. -/
def meets (a n b m : Nat) : Bool := a < b + m && b < a + n

/-- End of the caddy addresses (Table 1.3). -/
def caddyEnd : Nat := 0x300000000000

/-- Whether an extent touches an HBM slot. -/
def slotOf (a n t : Nat) : Bool := meets a n (hbmPa t 0) (2 ^ 38)

/-- Whether an extent touches a hole, a reserved range or the registers (R20). -/
def touchesHole (a n : Nat) : Bool :=
  meets a n caddyEnd (0x1000000000000 - caddyEnd) || meets a n 0x1020000000000 (2 ^ 64)
    || (List.range 8).any fun t => meets a n (hbmPa t 0x3000000000) 0x1000000000

/-- Whether an extent touches memory that is not the partition's: another slot, caddy beyond its system memory, or a culvert window's
addresses, which Table 1.3 makes neither a hole nor reserved. -/
def Mgmt.foreign (m : Mgmt) (p a n : Nat) : Bool :=
  meets a n 0x2000000000000 (2 ^ 41) || ((List.range 8).any fun t => slotOf a n t && !has (m.terraces p) t)
    || (meets a n 0 caddyEnd &&
        let x := m.sysmem p
        !(x.1 ≤ a && min (a + n) caddyEnd ≤ x.1 + x.2))

/-- The frames of an HBM extent: terrace and frame. -/
def framesOf (a n : Nat) : List (Nat × Nat) :=
  match paOf a with
  | .hbm t off => (List.range 192).filterMap fun f => if meets off n (f * 2 ^ 30) (2 ^ 30) then some (t, f) else none
  | _ => []

/-- BAD_FIELD of an entry (Table 10.2); the object's attribute counts where the object is registered. -/
def Dev.entryField (d : Dev) (p : Nat) (b : Bytes) (o : Nat) : Bool :=
  let e := entryAt b o
  let stateful := bit e.attrs 2
  !zeros b (o + 11) 5 || !zeros b (o + 24) 8 || 2 < e.kind || 16 ≤ e.perms || e.perms = 0 || 8 ≤ e.attrs || e.granules = 0
    || 2 ^ 32 < e.va + e.granules
    || (match e.kind with
        | 0 => 2 ^ 34 ≤ e.target
        | 1 => bits e.target 47 34 ≠ 0 || bits e.target 63 57 ≠ 0
        | _ => 2 ^ 22 ≤ e.target)
    || (stateful && e.kind ≠ 2) || (e.kind = 2 && bit e.attrs 1)
    || (e.kind = 2 && match d.getObj p (e.target % 2 ^ 22) with | some x => bit x.attrs 1 ≠ stateful | none => false)
    || (e.kind ≠ 2 && e.lean && meets e.base e.len 0 caddyEnd)

/-- NOT_OWNER of an entry. -/
def State.entryOwner (s : State) (p : Nat) (e : RangeEntry) : Bool :=
  if e.kind = 2 then (s.dev.getObj p (e.target % 2 ^ 22)).isNone else s.mgmt.foreign p e.base e.len

/-- R260: whether the window of a WINDOW entry takes it. -/
def windowTakes (windows : List (Nat × Window)) (p : Nat) (e : RangeEntry) : Bool :=
  let n := bits e.target 56 48
  let w := Map.get windows n {}
  let region := bits e.base 37 32
  (match paOf e.base with | .hbm _ _ => true | _ => false) && bits n 8 8 = 1 - bits e.base 40 40
    && (e.base + e.len - 1) / 2 ^ 32 = e.base / 2 ^ 32
    && (!w.valid || (w.region = region && w.terrace = bits e.base 40 38 && w.owner = p))

/-- The window table with an entry counted. -/
def bindWindow (windows : List (Nat × Window)) (p : Nat) (e : RangeEntry) : List (Nat × Window) :=
  if e.kind ≠ 1 then windows
  else
    let n := bits e.target 56 48
    let w := Map.get windows n {}
    Map.put windows n { refs := w.refs + 1, region := bits e.base 37 32, terrace := bits e.base 40 38, owner := p, valid := true }

/-- BAD_RANGE of an entry, after the entries that stand and the windows as they are by then. -/
def State.entryRange (s : State) (p : Nat) (standing : List RangeEntry) (windows : List (Nat × Window)) (e : RangeEntry) : Bool :=
  let eight := (s.mgmt.terraces p).length = 8
  let hbm := (List.range 8).any fun t => slotOf e.base e.len t
  (standing.any fun x => meets e.va e.granules x.va x.granules) ||
    match e.kind with
    | 2 =>
      match s.dev.getObj p (e.target % 2 ^ 22) with
      | some o => o.granules ≠ e.granules || bit o.attrs 0 ≠ e.lean
      | none => true
    | k =>
      touchesHole e.base e.len
        || ((framesOf e.base e.len).any fun f =>
              let x := (s.dev.getTerr f.1).frame f.2
              bit x 1 || bit x 0 ≠ e.lean)
        || (k = 0 && hbm && eight) || (k = 1 && !eight) || (k = 1 && !windowTakes windows p e)

/-- Adds entries in order: the entries and windows that stand after them, or none where one breaks a range rule. -/
def State.addEntries (s : State) (p : Nat) (standing : List RangeEntry) (windows : List (Nat × Window)) (es : List RangeEntry) :
    Option (List (Nat × Window)) :=
  match es with
  | [] => some windows
  | e :: t =>
    if s.entryRange p standing windows e then none else s.addEntries p (standing ++ [e]) (bindWindow windows p e) t

/-- Whether a row counts in the table: not one whose removal has been answered and only waits, in a replay, for users before it (R177). -/
def RangeRow.stands (r : RangeRow) : Bool := match r.unmap with | some (none, _) => false | _ => true

/-- Maps entries into a context's table, all or none (R257): the refusal, or the new state. -/
def State.mapEntries (s : State) (n : Nat) (c : Ctx) (es : List RangeEntry) : Except Nat State :=
  if es.any fun e => s.entryOwner c.pt e then .error 4
  else
    let rows := c.ranges.filter RangeRow.stands
    match s.addEntries c.pt (rows.map fun r => r.entry) s.dev.windows es with
    | none => .error 6
    | some w =>
      if 1024 < rows.length + es.length then .error 5
      else .ok (s.onDev fun d => ({ d with windows := w } : Dev).modCtx n fun c =>
        { c with ranges := c.ranges ++ es.map fun e => ({ entry := e } : RangeRow) })

/-- RANGE_MAP (R257, R267). -/
def State.rangeMap (s : State) (m : MsgIn) : State :=
  s.inCtx m fun c s =>
    let offs := (List.range (field m.b 16 1)).map fun i => 32 + 32 * i
    let es := offs.map fun o => entryAt m.b o
    if offs.any fun o => s.dev.entryField c.pt m.b o then s.refuse m 3
    else
      match s.mapEntries m.n c es with
      | .error st => s.refuse m st
      | .ok s => (s.onDev fun d => d.modCtx m.n fun c => c.note (.rmap es)).reply m.back 0 (leBytes 2 (c.ranges.length + es.length))

/-- An entry stops serving queue-time translation; its reply waits, before the command with the next number. -/
def Ctx.markUnmap (c : Ctx) (va : Nat) (back : ReplyTo) : Ctx :=
  { c with ranges := c.ranges.map fun r => if r.entry.va = va ∧ r.unmap.isNone then { r with unmap := some (some back, c.nextSeq) } else r }

/-- RANGE_UNMAP (R267): the entry stops serving queue-time translation; the reply is the row RANGE_UNMAP_DONE. An entry whose
removal waits already is refused as one that no longer starts there (log 14). -/
def State.rangeUnmap (s : State) (m : MsgIn) : State :=
  s.inCtx m fun c s =>
    let va := field m.b 16 4
    if c.ranges.any fun r => r.entry.va = va && r.unmap.isNone then
      s.onDev fun d => d.modCtx m.n fun c => (c.markUnmap va m.back).note (.runmap va)
    else s.refuse m 6

/-- Whether a command uses an entry (R267): it recorded it, or is a KERNEL, DISPATCH or COMBINE. -/
def Cmd.uses (x : Cmd) (e : RangeEntry) : Bool := x.segs.any (fun r => r.va = e.va) || has [0x04, 0x05, 0x0A] x.op

/-- Whether an unmap waits for users taken before it. -/
def Ctx.inUse (c : Ctx) (e : RangeEntry) (seq : Nat) : Bool :=
  c.cmds.any fun x => !x.state.ended && seqBefore x.seq seq && x.uses e

/-- An entry whose users are gone leaves every copy and every range cache, and the reply is posted (R267). -/
def State.unmapEnd (s : State) (n granuleVa : Nat) : State :=
  match s.dev.getCtx n with
  | none => s
  | some c =>
    match c.ranges.find? fun r => r.entry.va = granuleVa && r.unmap.isSome with
    | none => s
    | some r =>
      match r.unmap with
      | none => s
      | some (back, seq) =>
        if c.inUse r.entry seq then s
        else
          let s := s.onDev fun d =>
            let d : Dev := (d.unref r.entry).modCtx n fun c => { c with ranges := c.ranges.erase r }
            { d with eng := d.eng.map fun e => (e.1, { e.2 with rcache := e.2.rcache.filter fun x => ¬ (x.1 = n ∧ x.2.va = granuleVa) }) }
          match back with | some b => s.reply b 0 (leBytes 2 (c.ranges.length - 1)) | none => s

/-! ### Frame classes (R202, R280, R283, R388). -/

/-- Whether a range entry of any context maps part of a frame. -/
def Dev.frameMapped (d : Dev) (t f : Nat) : Bool :=
  d.ctxs.any fun c => c.2.ranges.any fun r => r.entry.kind ≠ 2 && meets r.entry.base r.entry.len (hbmPa t (f * 2 ^ 30)) (2 ^ 30)

/-- Whether an object image or shadow occupies part of a frame. -/
def Dev.frameOccupied (d : Dev) (t f : Nat) : Bool :=
  d.heldGranules.any fun g => hbmPa t (f * 2 ^ 30) ≤ g && g < hbmPa t (f * 2 ^ 30) + 2 ^ 30

/-- The refusal of one frame's change: BAD_RANGE where a mapped frame would enter the pool, BUSY where R202 or R283 says so. -/
def Dev.frameRefusal (d : Dev) (t f cls : Nat) : Option Nat :=
  let cur := (d.getTerr t).frame f
  let mapped := d.frameMapped t f
  let occ := d.frameOccupied t f
  if bit cls 1 ∧ !bit cur 1 ∧ mapped then some 6
  else if bit cur 1 ∧ !bit cls 1 ∧ occ then some 1
  else if bit cur 0 ≠ bit cls 0 ∧ (mapped ∨ occ) then some 1
  else none

/-- FRAME_CLASS: a frame whose class changes is rewritten as zero. -/
def State.frameClass (s : State) (m : MsgIn) : State :=
  s.inCtx m fun c s =>
    let t := field m.b 16 1
    let first := field m.b 17 1
    let count := field m.b 18 1
    let cls := field m.b 19 1
    let fs := (List.range count).map fun k => first + k
    if 191 < first ∨ count = 0 ∨ 192 < first + count ∨ 4 ≤ cls then s.refuse m 3
    else if !has (s.mgmt.terraces c.pt) t then s.refuse m 4
    else if fs.any fun f => 186 ≤ f && !bit cls 1 then s.refuse m 6
    else if fs.any fun f => s.dev.frameRefusal t f cls = some 6 then s.refuse m 6
    else if fs.any fun f => (s.dev.frameRefusal t f cls).isSome then s.refuse m 1
    else
      let changed := fs.filter fun f => bit ((s.dev.getTerr t).frame f) 0 ≠ bit cls 0
      let s := changed.foldl (fun s f => s.onMem fun x => x.zero (hbmPa t (f * 2 ^ 30)) (2 ^ 30)) s
      (s.onDev fun d => d.modTerr t fun x => { x with frames := fs.foldl (fun l f => Map.put l f cls) x.frames }).reply m.back 0 []

/-! ### Meanings. -/

/-- RANGE_MAP. -/
def execRangeMap (mb : Mb) (s : State) : Out := .next (s.message mb (isOp 6) fun m s => s.rangeMap m)

/-- RANGE_UNMAP. -/
def execRangeUnmap (mb : Mb) (s : State) : Out := .next (s.message mb (isOp 7) fun m s => s.rangeUnmap m)

/-- RANGE_UNMAP_DONE: its last user has ended. -/
def execRangeUnmapDone (n : Fin 4096) (granule : Nat) (s : State) : Out := .next (s.unmapEnd n.val granule)

/-- FRAME_CLASS. -/
def execFrameClass (mb : Mb) (s : State) : Out := .next (s.message mb (isOp 8) fun m s => s.frameClass m)

end Sys2Proof.Machine
end

