-- ==== Sys2Proof/Machine/ObjMsg.lean ====
section
/-!
DEFINITION. OBJ_REGISTER and OBJ_POLICY (R203 to R206).
-/

namespace Sys2Proof.Machine

/-- Reserved bits of a policy block at offset 16 of its message. -/
def policyReserved (b : Bytes) : Bool :=
  let f (o n : Nat) : Nat := field b (16 + o) n
  8 ≤ f 8 1 || (f 9 1 ≠ 0xFF && (bit (f 9 1) 3 || bit (f 9 1) 7)) || 4 ≤ f 10 1 || bits (f 11 1) 6 4 ≠ 0 || f 29 3 ≠ 0

/-- BAD_FIELD of R205, for an object of so many granules. -/
def policyField (b : Bytes) (granules : Nat) : Bool :=
  let f (o n : Nat) : Nat := field b (16 + o) n
  (f 9 1 ≠ 0xFF && 4 < bits (f 9 1) 6 4) || f 10 1 = 3
    || (bit (f 11 1) 7 && (!fmtOk (f 11 1 % 16) || granules * 4096 < f 12 4 + f 16 4 || granules * 4096 < f 20 4 + f 24 4))

/-- NOT_OWNER of R205. -/
def Mgmt.policyOwner (m : Mgmt) (pt : Nat) (b : Bytes) : Bool :=
  !has (m.terraces pt) (field b 24 1 % 8) || (field b 25 1 ≠ 0xFF && !has (m.terraces pt) (field b 25 1 % 8))

/-- OBJ_REGISTER (R203). -/
def State.objRegister (s : State) (m : MsgIn) : State :=
  s.inCtx m fun c s =>
    let f (o n : Nat) : Nat := field m.b (16 + o) n
    if policyReserved m.b ∨ f 28 1 ≠ 0 ∨ 2 ^ 22 ≤ f 0 4 ∨ f 4 4 = 0 ∨ 262144 < f 4 4 ∨ policyField m.b (f 4 4)
        ∨ (s.dev.getObj c.pt (f 0 4)).isSome then s.refuse m 3
    else if s.mgmt.policyOwner c.pt m.b then s.refuse m 4
    else
      let o : Obj := { reg := s.dev.nextReg, granules := f 4 4, home := f 8 1, expertHome := f 9 1, attrs := f 10 1, hint := f 11 1,
                       elemOff := f 12 4, elemLen := f 16 4, scaleOff := f 20 4, scaleLen := f 24 4 }
      (s.onDev fun d => { d.modPt c.pt fun q => { q with objs := Map.put q.objs (f 0 4) o } with nextReg := d.nextReg + 1 }).reply m.back 0 []

/-- Whether a range entry of any context of the partition names an object. -/
def Dev.named (d : Dev) (pt num : Nat) : Bool :=
  (d.ctxsOf pt).any fun c => c.2.ranges.any fun r => r.entry.kind = 2 && r.entry.target % 2 ^ 22 = num

/-- Whether Table 8.3 turns a change down. -/
def Dev.policyBusy (d : Dev) (pt num change : Nat) (o : Obj) : Bool :=
  (bit change 0 && o.res ≠ .caddyOnly) || (bit change 2 && (o.res ≠ .caddyOnly || o.owner.isSome || o.pend.isSome))
    || (bit change 7 && (d.pinCount pt num ≠ 0 || o.owner.isSome || d.named pt num))

/-- The fields that a policy block changes. -/
def Obj.policy (o : Obj) (b : Bytes) (change : Nat) : Obj :=
  let f (k n : Nat) : Nat := field b (16 + k) n
  let o := if bit change 0 then { o with home := f 8 1 } else o
  let o := if bit change 1 then { o with expertHome := f 9 1 } else o
  let o := if bit change 2 then { o with attrs := f 10 1 } else o
  if bit change 3 then { o with hint := f 11 1, elemOff := f 12 4, elemLen := f 16 4, scaleOff := f 20 4, scaleLen := f 24 4 } else o

/-- OBJ_POLICY (R206). -/
def State.objPolicy (s : State) (m : MsgIn) : State :=
  s.inCtx m fun c s =>
    let num := field m.b 16 4
    let change := field m.b 44 1
    if 2 ^ 22 ≤ num ∨ policyReserved m.b ∨ bits change 6 4 ≠ 0 then s.refuse m 3
    else
      match s.dev.getObj c.pt num with
      | none => s.refuse m 4
      | some o =>
        if policyField m.b o.granules then s.refuse m 3
        else if s.mgmt.policyOwner c.pt m.b then s.refuse m 4
        else if s.dev.policyBusy c.pt num change o then s.refuse m 1
        else
          let s := s.onDev fun d =>
            if bit change 7 then
              ((d.modPt c.pt fun q => { q with objs := Map.del q.objs num }).giveUp c.pt num 0x10 4).giveUp c.pt num 0x11 4
            else d.modObj c.pt num fun o => o.policy m.b change
          s.reply m.back 0 []

/-- OBJ_REGISTER. -/
def execObjRegister (mb : Mb) (s : State) : Out := .next (s.message mb (isOp 9) fun m s => s.objRegister m)

/-- OBJ_POLICY. -/
def execObjPolicy (mb : Mb) (s : State) : Out := .next (s.message mb (isOp 10) fun m s => s.objPolicy m)

end Sys2Proof.Machine
end

