-- ==== Sys2Proof/Machine/Desc.lean ====
section
/-!
DEFINITION. Descriptors: the refusals of Table 6.12, their planes and queue-time translation (R137 to R154, R172,
R183, R193, R262, R264).
-/

namespace Sys2Proof.Machine

/-! ### Extents that meet. -/

/-- Whether two byte extents share a byte. -/
def touch (x y : Nat × Nat) : Bool := x.2 ≠ 0 && y.2 ≠ 0 && meets x.1 x.2 y.1 y.2

/-! ### BAD_FIELD (R137 to R153, R182, R183). -/

/-- A tensor reference that R142 rejects: format codes, alignment, output strides, flags, line lengths (R35). -/
def refBad (b : Bytes) (o : Nat) (out addr : Bool) : Bool :=
  let r := Ref.of b o
  let f := field b (o + 6) 1
  let st1 := field b (o + 24) 4 * 16
  let st2 := field b (o + 28) 4 * 16
  16 ≤ f || !fmtOk f || 4 ≤ r.rfl || field b (o + 14) 2 ≠ 0 || (addr && r.va % 16 ≠ 0) || (fmtLine f && 65536 < r.n0)
    || (out && bit r.rfl 1) || (!out && bit r.rfl 0)
    || (out && ((st1 ≠ 0 && st1 < lineBytes r.fmt r.n0) || (st2 ≠ 0 && st2 < r.n1 * r.s1)))

/-- A reference of a descriptor as a part sees it: a part that takes a run of dimension 0 sees that run of its output, and what of the
inputs it is formed from (R143, R160). -/
def pRef (b : Bytes) (k : PartKind) (o : Nat) : Ref :=
  let r := Ref.of b o
  match k with
  | .tile _ _ c0 c1 =>
    match dOp b with
    | 1 => if o = 96 then r.cols c0 c1 else if o = 64 then r.rows c0 c1 else r
    | 2 => if o = 32 then r else r.cols c0 c1
    | _ => r.cols c0 c1
  | _ => r

/-- The run of output lines of a part that is split by lines. -/
def PartKind.span (k : PartKind) : Option (Nat × Nat) :=
  match k with | .lines lo hi => some (lo, hi) | .tile lo hi _ _ => some (lo, hi) | _ => none

/-- Same extents. -/
def Ref.same (r q : Ref) : Bool := r.n0 = q.n0 && r.n1 = q.n1 && r.n2 = q.n2 && r.n3 = q.n3

/-- Body rules of R143. -/
def gemmBad (b : Bytes) (t : Bool) : Bool :=
  let a := Ref.of b 32
  let w := Ref.of b 64
  let o := Ref.of b 96
  (if t then a.n0 ≠ w.n1 || o.n0 ≠ w.n0 else a.n0 ≠ w.n0 || o.n0 ≠ w.n1)
    || a.n1 ≠ o.n1 || a.n2 ≠ o.n2 || a.n3 ≠ o.n3 || (w.n2 ≠ 1 && w.n2 ≠ a.n2) || (w.n3 ≠ 1 && w.n3 ≠ a.n3)
    || a.fmt = 10 || w.fmt = 10 || !convOk o.fmt (field b 2 2)

/-- Body rules of ROUTE (R144, R182, R183). -/
def routeBad (b : Bytes) : Bool :=
  let l := Ref.of b 32
  let rs := rRegions b
  l.fmt ≠ 6 || 4096 < l.n0 || l.n2 ≠ 1 || l.n3 ≠ 1 || rK b = 0 || 8 < rK b || l.n0 < rK b || 1 < field b 105 1 || !zeros b 106 2
    || rCap b = 0 || 2 ^ 20 < rCap b || rWfmt b < 3 || 7 < rWfmt b || !zeros b 117 11 || !convOk (rWfmt b) (field b 2 2)
    || (rs.any fun x => x.1 % 16 ≠ 0)
    || ((List.range 5).any fun i => (List.range i).any fun j => touch (rs.getD i (0, 0)) (rs.getD j (0, 0)))
    || rs.any fun x => (l.extents 0 l.lines).any fun y => touch x y

/-- Body rules of DISPATCH and COMBINE (R145). -/
def routedBad (b : Bytes) (combine : Bool) : Bool :=
  let s := Ref.of b 32
  let d := Ref.of b 64
  let ex := if combine then s else d
  let tk := if combine then d else s
  s.n0 ≠ d.n0 || ex.n2 < field b 114 2 || ex.n3 ≠ 1 || tk.n2 ≠ 1 || tk.n3 ≠ 1 || field b 114 2 = 0
    || 4096 < field b 112 2 + field b 114 2 || !zeros b 122 6
    || (if combine then 1 < field b 120 1 || 1 < field b 121 1 || !convOk d.fmt (field b 2 2)
        else field b 120 2 ≠ 0 || s.fmt ≠ d.fmt || s.fmt = 10)

/-- Body rules of FILL (R148). -/
def fillBad (b : Bytes) : Bool :=
  let f := field b 38 1
  !zeros b 80 48 ||
    if f = 10 then
      let a := field b 64 12
      a = 2 ^ 95 || field b 76 2 = 2 ^ 15 || 4 ≤ field b 78 1 || field b 79 1 ≠ 0
    else
      let v := signed 32 (field b 64 4)
      !zeros b 69 11 || qmax f < v.natAbs

/-- Body rules of KERNEL (R149). -/
def kernelBad (b : Bytes) : Bool :=
  let parts := field b 46 1
  parts = 0 || 40 < parts || (dPlace b = 1 && parts ≠ 1) || 16 * 2 ^ 20 < field b 56 4 || field b 56 4 % (128 * 1024) ≠ 0
    || 4096 < field b 44 2 || 2 ≤ field b 47 1 || !zeros b 60 4 || !zeros b 80 48 || field b 64 8 % 128 ≠ 0 || field b 72 8 % 128 ≠ 0
    || ((field b 64 8 = 0) ≠ (field b 72 8 = 0))

/-- Body rules of the gate commands (R151) and the object commands (R152, R214). -/
def listBad (b : Bytes) : Bool :=
  let n := field b 32 1
  let past (size first : Nat) : Bool := !zeros b (first + size * n) (128 - (first + size * n))
  match dOp b with
  | 0x20 => n = 0 || 8 < n || !zeros b 33 7 || past 8 40
      || (List.range n).any fun i => field b (42 + 8 * i) 2 ≠ 0 || field b (44 + 8 * i) 4 = 0
  | 0x21 => n = 0 || 5 < n || !zeros b 33 15 || past 16 48 || (List.range n).any fun i => field b (50 + 16 * i) 6 ≠ 0
  | op => n = 0 || 22 < n || !zeros b 34 6 || past 4 40
      || (match op with | 0x10 => 2 | 0x11 => 4 | 0x12 => 2 | _ => 1) ≤ field b 33 1

/-- Every cause of BAD_FIELD that the descriptor alone shows (R8, R137 to R153). -/
def descBad (b : Bytes) : Bool :=
  let op := dOp b
  let fl := field b 1 1
  let home := dPlace b = 3
  !dListed op || 16 ≤ fl || (!dConverts op && field b 2 2 ≠ 0) || 4 ≤ field b 4 1 || 64 < field b 6 1 || field b 7 1 ≠ 0
    || (bit fl 2 && !bit fl 1) || (bit fl 1 && field b 20 4 = 0)
    || ((dPlace b = 1 || dPlace b = 2) && (bit (field b 5 1) 3 || bit (field b 5 1) 7)) || (dPlace b = 1 && 4 < dEng b)
    || (home && op ≠ 4 && op ≠ 5)
    || ((dIns b).any fun o => refBad b o false true) || ((dOuts b).any fun o => refBad b o true (!dHost b))
    || match op with
       | 1 => gemmBad b false
       | 2 => gemmBad b true
       | 3 => routeBad b
       | 4 => routedBad b false
       | 5 => routedBad b true
       | 6 => !zeros b 96 32 || !(Ref.of b 32).same (Ref.of b 64) || !convOk (Ref.of b 64).fmt (field b 2 2)
       | 7 => (if dHost b then field b 113 1 ≠ 1 || 7 < field b 112 1 || !zeros b 114 14 else !zeros b 96 32)
                || !(Ref.of b 32).same (Ref.of b 64) || (Ref.of b 32).fmt ≠ (Ref.of b 64).fmt
       | 8 => let s := Ref.of b 32
              let d := Ref.of b 64
              !zeros b 98 30 || 1 < field b 96 1 || 1 < field b 97 1 || d.n3 ≠ 1 || s.n0 ≠ d.n0 || s.n1 ≠ d.n1 || s.n2 ≠ d.n2
                || !convOk d.fmt (field b 2 2)
       | 9 => fillBad b
       | 10 => kernelBad b
       | 0x22 => !zeros b 32 96
       | 0x30 => !zeros b 32 96
       | _ => listBad b

/-! ### NOT_OWNER. -/

/-- The gates that a descriptor names. -/
def dGates (b : Bytes) : List Nat :=
  (if dFlag b 0 then [field b 16 2] else []) ++ (if dFlag b 1 then [field b 18 2] else []) ++
    match dOp b with
    | 0x20 => (List.range (field b 32 1)).map fun i => field b (40 + 8 * i) 2
    | 0x21 => (List.range (field b 32 1)).map fun i => field b (48 + 16 * i) 2
    | _ => []

/-- The objects that an object command lists. -/
def dObjs (b : Bytes) : List Nat :=
  if has [0x10, 0x11, 0x12, 0x13] (dOp b) then (List.range (field b 32 1)).map fun i => field b (40 + 4 * i) 4 else []

/-- The objects of the run of DISPATCH and COMBINE under HOME (R193). -/
def dRun (b : Bytes) : List Nat :=
  if has [4, 5] (dOp b) ∧ dPlace b = 3 then (List.range (field b 114 2)).map fun i => field b 116 4 + field b 112 2 + i else []

/-- NOT_OWNER: gates, terrace, attachment, objects outside the context or its partition. -/
def State.descOwner (s : State) (n : Nat) (c : Ctx) (b : Bytes) : Bool :=
  ((dGates b).any fun g => match Map.find s.dev.gates g with | some x => x.owner ≠ n | none => true)
    || ((dPlace b = 1 || dPlace b = 2) && !has (s.mgmt.terraces c.pt) (dTerr b))
    || (dHost b && (let a := field b 112 1; !attExists s.mgmt.split a || (a ≠ c.home && !bit (recTenancy s.mgmt.record a) c.pt)))
    || ((dObjs b ++ dRun b).any fun o => (s.dev.getObj c.pt o).isNone)

/-! ### Planes and translation (R141, R262). -/

/-- What a descriptor reaches at queue time: extents with the access each needs (0 read, 1 write, 2 execute, 3 atomic). Rows
that DISPATCH gathers and COMBINE reads by list are translated at run time (R263). -/
def dPlanes (b : Bytes) : List (Nat × Nat × Nat) :=
  let whole (r : Ref) (k : Nat) : List (Nat × Nat × Nat) := (r.extents 0 r.lines).map fun x => (x.1, x.2, k)
  let lists (cap : Nat) : List (Nat × Nat × Nat) :=
    [(field b 96 8 + 4 * cap * field b 112 2, 4 * cap * field b 114 2, 0)]
  let all : List (Nat × Nat × Nat) := match dOp b with
  | 4 => whole (Ref.of b 64) 1 ++ lists (Ref.of b 64).n1 ++ [(field b 104 8 + 8 * field b 112 2, 8 * field b 114 2, 0)]
  | 5 => whole (Ref.of b 64) 1 ++ (if dAdd b then whole (Ref.of b 64) 0 else []) ++ lists (Ref.of b 32).n1
      ++ [(field b 104 8, 16 + 33 * (Ref.of b 64).n1, 0)]
  | 10 => [(field b 32 8, 1, 2), (field b 32 8 + field b 40 4, 1, 2), (field b 48 8, field b 44 2, 0), (field b 64 8, field b 72 8, 3)]
  | _ => ((dIns b).flatMap fun o => whole (Ref.of b o) 0)
      ++ (if dHost b then [] else (dOuts b).flatMap fun o => whole (Ref.of b o) 1)
      ++ (if dAdd b then (dOuts b).flatMap fun o => whole (Ref.of b o) 0 else [])
      ++ (if dOp b = 3 then (rRegions b).map fun x => (x.1, x.2, 1) else [])
  all.filter fun x => x.2.1 ≠ 0

/-- Regions of run-time rows: they too must lie below 2^48 (R141). -/
def dRows (b : Bytes) : List (Nat × Nat) :=
  if has [4, 5] (dOp b) then let r := Ref.of b 32; r.extents 0 r.lines else []

/-- What translation of an extent finds: entries used, whether a permission lacks, the first address without entry. -/
structure Trans where
  segs   : List RangeEntry := []
  denied : Bool := false
  gap    : Option (Nat × Nat) := none
deriving DecidableEq, Repr

def Trans.add (x : Trans) (y : Trans) : Trans :=
  { segs := y.segs.foldl (fun l e => if l.any (fun r => r.va = e.va) then l else l ++ [e]) x.segs,
    denied := x.denied || y.denied, gap := match x.gap with | some g => some g | none => y.gap }

/-- Walks an extent entry by entry. -/
def Ctx.translate (c : Ctx) (fuel a n access : Nat) : Trans :=
  match fuel with
  | 0 => {}
  | fuel + 1 =>
    if n = 0 then {}
    else
      match c.queueEntry a with
      | none => { gap := some (a, access) }
      | some e =>
        let k := min n ((e.va + e.granules) * granule - a)
        Trans.add { segs := [e], denied := !e.allows access } (c.translate fuel (a + k) (n - k) access)

/-- Translation of every plane of a descriptor. -/
def Ctx.transAll (c : Ctx) (b : Bytes) : Trans :=
  (dPlanes b).foldl (fun x p => x.add (c.translate (c.ranges.length + 1) p.1 p.2.1 p.2.2)) {}

/-- The terrace of the HBM that an entry names, if it names HBM of one terrace. -/
def Dev.entryTerr (d : Dev) (pt : Nat) (e : RangeEntry) : Option Nat :=
  if e.kind = 2 then (d.getObj pt (e.target % 2 ^ 22)).map fun o => o.home
  else match paOf e.base with | .hbm t _ => some t | _ => none

/-- Whether what is mapped of an atomic extent lies outside HBM, or in HBM of more than one terrace, or of another than a given one
(R14, R149). -/
def Dev.atomicBad (d : Dev) (c : Ctx) (b : Bytes) (named : Option Nat) : Bool :=
  let ts := ((c.translate (c.ranges.length + 1) (field b 64 8) (field b 72 8) 3).segs).map fun e => d.entryTerr c.pt e
  ts.any fun t => t.isNone || ts.any (fun u => u ≠ t) || (named.isSome && t ≠ named)

/-- The terrace of an atomic extent: none where it does not lie wholly in HBM of one terrace (R149). -/
def Dev.atomicTerr (d : Dev) (c : Ctx) (b : Bytes) : Option Nat :=
  let es := (c.translate (c.ranges.length + 1) (field b 64 8) (field b 72 8) 3).segs
  match es with
  | [] => none
  | e :: t =>
    match d.entryTerr c.pt e with
    | none => none
    | some k => if t.all fun x => d.entryTerr c.pt x = some k then some k else none

/-- Whether some byte that a descriptor names lies at or above 2^48 (R141). -/
def dHigh (b : Bytes) : Bool :=
  ((dPlanes b).any fun p => 2 ^ 48 < p.1 + p.2.1) || (dRows b).any fun p => 2 ^ 48 < p.1 + p.2

end Sys2Proof.Machine
end

