-- ==== Sys2Proof/Machine/Split.lean ====
section
/-!
DEFINITION. Splitting a command into parts (R140, R149, R160, R161, R172, R193, R196), within the choice that a command of the
table leaves to Jormon.
-/

namespace Sys2Proof.Machine

/-- The five logical engines of a terrace. -/
def terrEngs (t : Nat) : List EngId := (List.range 5).map fun e => { t := Fin.ofNat 8 t, e := Fin.ofNat 5 e }

/-- The engines of terraces. -/
def engsOf (ts : List Nat) : List EngId := ts.flatMap terrEngs

/-- Candidates in the order that Jormon tries them. -/
def pickOrder (cands wanted : List EngId) : List EngId :=
  let w := wanted.filter fun e => cands.any fun c => c = e
  w.eraseDups ++ cands.filter fun c => !w.any fun e => e = c

/-- The engine of part i among engines used in turn. -/
def engAt (l : List EngId) (i : Nat) : EngId := l.getD (i % max 1 l.length) { t := 0, e := 0 }

/-- Cuts L lines, rows or experts into p consecutive runs. -/
def cuts (p l : Nat) : List (Nat × Nat) := (List.range p).map fun i => (i * l / p, (i + 1) * l / p)

/-! ### What a part reads and writes. -/

/-- Which batch of W serves a line of the output (R143). -/
def gemmBatch (w o : Ref) (l : Nat) : Nat :=
  let i2 := l / o.n1 % o.n2
  let i3 := l / o.n1 / o.n2
  (if w.n2 = 1 then 0 else i2) + w.n2 * (if w.n3 = 1 then 0 else i3)

/-- The batches of W that serve lines lo to hi - 1. -/
def usedBatches (w o : Ref) (lo hi : Nat) : List Nat := ((List.range (hi - lo)).map fun k => gemmBatch w o (lo + k)).eraseDups

/-- The list and the count of the expert at position p of a run (R185, R194). -/
def listExt (b : Bytes) (p : Nat) : Nat × Nat :=
  let cap := if dOp b = 4 then (Ref.of b 64).n1 else (Ref.of b 32).n1
  (field b 96 8 + 4 * cap * (field b 112 2 + p), 4 * cap)

def countExt (b : Bytes) (p : Nat) : Nat × Nat := (field b 104 8 + 8 * (field b 112 2 + p), 8)

/-- The choices region of a COMBINE. -/
def choiceExt (b : Bytes) : Nat × Nat := (field b 104 8, 16 + 33 * (Ref.of b 64).n1)

/-- Extents that a part's planes name and that it reads; rows reached by list are not among them (R263). -/
def partIn (b : Bytes) (k : PartKind) : List (Nat × Nat) :=
  let r := pRef b k
  match k with
  | .experts l => l.flatMap fun p => [listExt b p, countExt b p]
  | .sources l => choiceExt b :: l.map (listExt b)
  | .dests lo hi => choiceExt b :: if dAdd b then (r 64).extents lo hi else []
  | .kernel => (dPlanes b).map fun x => (x.1, x.2.1)
  | .whole => (r 32).extents 0 (r 32).lines
  | k =>
    match k.span with
    | none => []
    | some (lo, hi) =>
      match dOp b with
      | 8 =>
        let slice := (r 64).lines
        ((List.range (r 32).n3).flatMap fun i => (r 32).extents (i * slice + lo) (i * slice + hi))
          ++ (if dAdd b then (r 64).extents lo hi else [])
      | 9 => []
      | op =>
        (r 32).extents lo hi ++
          if op = 1 ∨ op = 2 then
            (usedBatches (r 64) (r 96) lo hi).flatMap fun j => (r 64).extents (j * (r 64).n1) ((j + 1) * (r 64).n1)
          else []

/-- Where the output reference of a command stands. -/
def outAt (b : Bytes) : Nat := match dOp b with | 1 => 96 | 2 => 96 | 9 => 32 | _ => 64

/-- Extents that a part writes in device memory. -/
def partOut (b : Bytes) (k : PartKind) : List (Nat × Nat) :=
  let r := pRef b k
  match k with
  | .experts l => l.flatMap fun p => (r 64).extents (p * (r 64).n1) ((p + 1) * (r 64).n1)
  | .sources _ => []
  | .dests lo hi => (r 64).extents lo hi
  | .kernel => []
  | .whole => (rRegions b).filter fun x => x.2 ≠ 0
  | k => match k.span with | some (lo, hi) => if dHost b then [] else (r (outAt b)).extents lo hi | none => []

/-- The objects that a part's planes name, by the entries that the command recorded (R159, R207). -/
def partObjs (b : Bytes) (k : PartKind) (segs : List RangeEntry) : List Nat :=
  let xs := partIn b k ++ partOut b k
  ((segs.filter fun e => e.kind = 2 && xs.any fun x => x.2 ≠ 0 && meets x.1 x.2 (e.va * granule) e.len).map fun e => e.target % 2 ^ 22).eraseDups

/-! ### Overlap (R161, R172). -/

/-- Spans of a reference over some lines. -/
def Ref.spans (r : Ref) (lo hi : Nat) : List (Nat × Nat) := [r.subSpan lo hi, r.scaleSpan lo hi].filter fun x => x.2 ≠ 0

/-- The spans of a part's input and output planes, each from its lowest to its highest byte. -/
def ioSpans (b : Bytes) (k : PartKind) : List (Nat × Nat) × List (Nat × Nat) :=
  let r := pRef b k
  match k with
  | .experts l => ((r 32).spans 0 (r 32).lines ++ partIn b k, l.flatMap fun p => (r 64).spans (p * (r 64).n1) ((p + 1) * (r 64).n1))
  | .sources _ => ([], [])
  | .dests lo hi => (choiceExt b :: (if dAdd b then (r 64).spans lo hi else []), (r 64).spans lo hi)
  | .kernel => ([], [])
  | .whole => ((r 32).spans 0 (r 32).lines, (rRegions b).filter fun x => x.2 ≠ 0)
  | k =>
    match k.span with
    | none => ([], [])
    | some (lo, hi) =>
      let out := if dHost b then [] else (r (outAt b)).spans lo hi
      match dOp b with
      | 8 =>
        ((r 32).spans lo ((r 32).n1 * (r 32).n2 * ((r 32).n3 - 1) + hi) ++ (if dAdd b then (r 64).spans lo hi else []), out)
      | 9 => ([], out)
      | op =>
        let js := usedBatches (r 64) (r 96) lo hi
        let w := if op = 1 ∨ op = 2 then
            (r 64).spans (js.foldl min (js.headD 0) * (r 64).n1) ((js.foldl max 0 + 1) * (r 64).n1) else []
        ((r 32).spans lo hi ++ w, out)

/-- The lines of 128 bytes that an extent touches: first and past the last. -/
def lineIv (x : Nat × Nat) : Nat × Nat := if x.2 = 0 then (0, 0) else (x.1 / 128, (x.1 + x.2 - 1) / 128 + 1)

/-- Length of a union of intervals that stand in order of their starts. -/
def unionLen (from' : Nat) (l : List (Nat × Nat)) : Nat :=
  match l with
  | [] => 0
  | x :: t => (x.2 - max from' x.1) + unionLen (max from' x.2) t

/-- The overlap of a part in bytes (R172). -/
def overlapBytes (b : Bytes) (k : PartKind) : Nat :=
  let io := ioSpans b k
  let ivs := io.1.flatMap fun i => io.2.filterMap fun o =>
    let x := lineIv i
    let y := lineIv o
    let lo := max x.1 y.1
    let hi := min x.2 y.2
    if lo < hi then some (lo, (lo, hi)) else none
  128 * unionLen 0 (sortKey ivs) + (if dOp b = 10 then field b 72 8 else 0)

/-- The limit of the retry ledger (R172). -/
def ledgerMax : Nat := 32 * 2 ^ 20

/-- What a part may read, rows reached by list included. -/
def allIn (b : Bytes) (k : PartKind) : List (Nat × Nat) :=
  partIn b k ++ match k with | .experts _ => (Ref.of b 32).extents 0 (Ref.of b 32).lines | _ => []

/-- Whether no part's output touches another part's input (R161). -/
def crossFree (b : Bytes) (ks : List PartKind) : Bool :=
  let io := ks.map fun k => (allIn b k, partOut b k)
  (List.range io.length).all fun i => (List.range io.length).all fun j =>
    i = j || !((io.getD i ([], [])).2.any fun o => (io.getD j ([], [])).1.any fun x => touch o x)

/-! ### Space that a part needs (R70, R173, R196). -/

/-- Bytes that a destination holds for one line: accumulators, or values in the output format. -/
def heldLine (b : Bytes) (k : PartKind) : Nat :=
  let d := pRef b k 64
  if dKa b then 16 * d.n0 else lineBytes d.fmt d.n0 + lineScales d.fmt d.n0

/-- Minimum working space of a part (R173): a destination part of a COMBINE holds a byte of slot mask for each row, too (R196). -/
def minWork (b : Bytes) (k : PartKind) : Nat :=
  match k with
  | .kernel => field b 56 4
  | .dests lo hi => min (16 * 2 ^ 20) ((hi - lo) * (heldLine b k + 1))
  | k =>
    match k.span with
    | some (lo, hi) => if dOp b = 1 ∨ dOp b = 2 then 4 * 2 ^ 20 else if dOp b = 8 then min (16 * 2 ^ 20) ((hi - lo) * heldLine b k) else 2 ^ 20
    | none => 2 ^ 20

/-! ### Plans. -/

/-- Lines of the output of a command that is split by lines. -/
def dLines (b : Bytes) : Nat := (Ref.of b (outAt b)).lines

/-- The engines that the placement offers (R140). -/
def State.offered (s : State) (c : Ctx) (b : Bytes) : List EngId :=
  match dPlace b with
  | 1 => [{ t := Fin.ofNat 8 (dTerr b), e := Fin.ofNat 5 (dEng b) }]
  | 2 => terrEngs (dTerr b)
  | _ => engsOf (s.mgmt.terraces c.pt)

/-- Whether a split keeps the limit of a REDUCE's accumulators (R70). -/
def accFits (b : Bytes) (ks : List PartKind) : Bool :=
  dOp b ≠ 8 || ks.all fun k => match k.span with | some (lo, hi) => (hi - lo) * heldLine b k ≤ 16 * 2 ^ 20 | none => true

/-- Whether every part keeps the ledger's limit. -/
def ledgerOk (b : Bytes) (ks : List PartKind) : Bool := ks.all fun k => overlapBytes b k ≤ ledgerMax

/-- Whether a split keeps every rule: in number, in accumulators, in overlap. -/
def splitOk (b : Bytes) (most : Nat) (ks : List PartKind) : Bool :=
  !ks.isEmpty && ks.length ≤ most && accFits b ks && ledgerOk b ks && (ks.length = 1 || crossFree b ks)

/-- The unit in which dimension 0 of an output may be cut (Table 6.14): none for a line format, of the output or of what is converted. -/
def colUnit (b : Bytes) : Option Nat :=
  let line (o : Nat) : Bool := fmtLine (Ref.of b o).fmt
  if line (outAt b) then none
  else if dOp b = 1 ∨ dOp b = 2 then some 64
  else if dOp b ≠ 9 ∧ line 32 then none
  else some 4096

/-- The runs between cut points below n. -/
def runsAt (n : Nat) (points : List Nat) : List (Nat × Nat) :=
  let ps := sortKey ((points.filter fun p => 0 < p && p < n).eraseDups.map fun p => (p, p))
  (0 :: ps).zip (ps ++ [n])

/-- The parts of runs of lines by runs of dimension 0. -/
def boxes (ls cs : List (Nat × Nat)) : List PartKind :=
  ls.flatMap fun l => if cs.length ≤ 1 then [.lines l.1 l.2] else cs.map fun c => .tile l.1 l.2 c.1 c.2

/-- The columns cut into k runs of whole units. -/
def colRuns (n0 unit k : Nat) : List (Nat × Nat) := runsAt n0 ((cuts k (ceilDiv n0 unit)).map fun c => c.1 * unit)

/-- The fewest runs of lines whose parts each keep the limits, cut only where no part's output meets the other side's input. -/
def greedyRuns (fuel : Nat) (b : Bytes) (cs : List (Nat × Nat)) (points : List Nat) (lo n : Nat) : Option (List (Nat × Nat)) :=
  match fuel with
  | 0 => none
  | fuel + 1 =>
    match (points.filter fun p => lo < p && (let ks := boxes [(lo, p)] cs; accFits b ks && ledgerOk b ks)).getLast? with
    | none => none
    | some p => if p = n then some [(lo, n)] else (greedyRuns fuel b cs points p n).map fun t => (lo, p) :: t

/-- The splits of a command by output lines and dimension 0, in the order in which Jormon takes one: where it cuts itself, equal runs of lines as
many as it wants, equal runs, and the fewest runs that the limits allow, with more and more runs of dimension 0 (R160, R161). -/
def lineSplits (b : Bytes) (sp : Split) (want most : Nat) : List (List PartKind) :=
  let n := dLines b
  let n0 := (Ref.of b (outAt b)).n0
  let whole : List (Nat × Nat) := [(0, n0)]
  let chosen : List (List PartKind) := if sp.lines.isEmpty ∧ sp.cols.isEmpty then [] else
    [boxes (runsAt n sp.lines) (match colUnit b with | some u => runsAt n0 (sp.cols.filter fun c => c % u = 0) | none => whole)]
  let points := ((List.range n).map fun i => i + 1).filter fun p => p = n || crossFree b [.lines 0 p, .lines p n]
  let least : List (List (Nat × Nat)) := whole :: match colUnit b with
    | some u => (List.range (min most (ceilDiv n0 u) - 1)).map fun k => colRuns n0 u (k + 2)
    | none => []
  chosen ++ (want :: (List.range (min n most)).map fun i => i + 1).map (fun p => boxes (cuts p n) whole)
    ++ least.filterMap fun cs => (greedyRuns n b cs points 0 n).map fun ls => boxes ls cs

/-- The first split that keeps every rule; the refusal is NO_RESOURCE where R70 alone stands in the way, else OVERLAP_TOO_LARGE. -/
def chooseSplit (b : Bytes) (most : Nat) (cands : List (List PartKind)) : Except Nat (List PartKind) :=
  match cands.find? (splitOk b most) with
  | some ks => .ok ks
  | none => if cands.any fun ks => !ks.isEmpty && ks.length ≤ most && accFits b ks then .error 7 else .error 5

/-- Number of parts wanted, at least 1 and at most a bound. -/
def clampParts (sp : Split) (most : Nat) : Nat := max 1 (min sp.parts most)

/-- Runs of experts, by the placement: one part for each home engine, or consecutive runs (R160, R193). Where a DISPATCH overwrites what another
of its parts reads it runs as one part (R161). -/
def expertParts (b : Bytes) (homes : List Nat) (order : List EngId) (sp : Split) (mk : List Nat → PartKind) :
    Except Nat (List (PartKind × EngId)) :=
  let n := field b 114 2
  let home (h : Nat) : EngId := { t := Fin.ofNat 8 (h % 8), e := Fin.ofNat 5 (bits h 6 4) }
  let all : PartKind := mk (List.range n)
  if dPlace b = 3 then
    let hs := homes.eraseDups
    let ks := hs.map fun h => mk ((List.range n).filter fun p => homes.getD p 0xFF = h)
    if ks.length ≤ 1 ∨ crossFree b ks then if ledgerOk b ks then .ok (ks.zip (hs.map home)) else .error 7
    else if ledgerOk b [all] then .ok [(all, home (hs.headD 0))] else .error 7
  else
    let most := if dPlace b = 1 then 1 else min n (min (dMax b) order.length)
    let ks (p : Nat) : List PartKind := (cuts p n).map fun x => mk ((List.range (x.2 - x.1)).map fun i => x.1 + i)
    match chooseSplit b most ((clampParts sp most :: (List.range most).map fun i => i + 1).map ks) with
    | .error st => .error st
    | .ok l => .ok ((List.range l.length).map fun i => (l.getD i .whole, engAt order i))

/-- The destination parts of a COMBINE with at most some rows each. -/
def destRuns (b : Bytes) (rows : Nat) : List PartKind :=
  let n := (Ref.of b 64).n1
  (List.range (ceilDiv n rows)).map fun i => .dests (i * rows) (min n (i * rows + rows))

/-- The first of a number and its halves whose destination parts keep the ledger's limit. -/
def destHalve (fuel : Nat) (b : Bytes) (rows : Nat) : Nat :=
  match fuel with
  | 0 => rows
  | fuel + 1 => if rows ≤ 1 ∨ ledgerOk b (destRuns b rows) then rows else destHalve fuel b (rows / 2)

/-- Token rows that one destination part takes: held values and slot masks within 16 MiB, overlap within the ledger (R196). -/
def destRows (b : Bytes) : Nat := destHalve 21 b (max 1 (min (Ref.of b 64).n1 (16 * 2 ^ 20 / (heldLine b (.dests 0 0) + 1))))

/-- The terrace that homes the rows of a destination part, if one does (R196). -/
def Dev.rowsTerr (d : Dev) (c : Ctx) (b : Bytes) (lo hi : Nat) : Option Nat :=
  let es := ((Ref.of b 64).extents lo hi).flatMap fun x => (c.translate (c.ranges.length + 1) x.1 x.2 1).segs
  match es with
  | [] => none
  | e :: t =>
    match d.entryTerr c.pt e with
    | some k => if t.all fun x => d.entryTerr c.pt x = some k then some k else none
    | none => none

/-- Destination parts of a COMBINE: one alone where one would overwrite what another reads (R161, R196). -/
def State.destParts (s : State) (c : Ctx) (b : Bytes) (order : List EngId) : Except Nat (List (PartKind × EngId)) :=
  let n := (Ref.of b 64).n1
  let rows := destRows b
  let ks := destRuns b rows
  let ks := if ks.length ≤ 1 ∨ crossFree b ks then ks else [.dests 0 n]
  let pool (lo hi : Nat) : List EngId := if has [1, 2] (dPlace b) then order else
    match s.dev.rowsTerr c b lo hi with
    | some t => if has (s.mgmt.terraces c.pt) t then order.filter (fun e => e.t.val = t) else order
    | none => order
  if !ledgerOk b ks ∨ (ks.length = 1 ∧ rows < n) then .error 7
  else .ok (ks.zipIdx.map fun k => (k.1, engAt (match k.1 with | .dests lo hi => pool lo hi | _ => order) k.2))

/-- The parts of a command, with the engine of each: none for a command that Jormon carries out. -/
def State.plan (s : State) (c : Ctx) (b : Bytes) (sp : Split) (homes : List Nat) : Except Nat (List (PartKind × EngId)) :=
  let order := pickOrder (s.offered c b) sp.engs
  let spread (ks : List PartKind) (l : List EngId) : List (PartKind × EngId) :=
    (List.range ks.length).map fun i => (ks.getD i .whole, engAt l i)
  match dOp b with
  | 3 => match chooseSplit b 1 [[.whole]] with
    | .error st => .error st
    | .ok ks => .ok (spread ks order)
  | 4 => expertParts b homes order sp .experts
  | 5 =>
    match expertParts b homes order sp .sources with
    | .error st => .error st
    | .ok src =>
      match s.destParts c b order with
      | .error st => .error st
      | .ok d => if 64 < src.length + d.length then .error 5 else .ok (src ++ d)
  | 10 =>
    let parts := field b 46 1
    let atomic : Bool := field b 72 8 ≠ 0
    if atomic ∧ s.dev.atomicBad c b (if has [1, 2] (dPlace b) then some (dTerr b) else none) then .error 6
    else if ledgerMax < field b 72 8 then .error 7
    else
      let order := if !(atomic && dPlace b = 0) then order else
        match s.dev.atomicTerr c b with
        | some t => order.filter fun e => e.t.val = t
        | none => order.take 5
      if order.length < parts then .error 5 else .ok (spread (List.replicate parts .kernel) order)
  | op =>
    if dEngine op then
      let used := order.take (dMax b)
      let most := if op = 8 then 64 else dMax b
      let want := if dPlace b = 1 then 1 else clampParts sp (min (min (dLines b) most) used.length)
      match chooseSplit b most (lineSplits b sp want most) with
      | .error st => .error st
      | .ok ks => .ok (spread ks used)
    else .ok []

end Sys2Proof.Machine
end

