-- ==== Sys2Proof/Machine/Queue.lean ====
section
/-!
DEFINITION. Queueing descriptors, aborting commands, resuming faults (R154, R155, R164, R168 to R171, R262, R265, R270, R386).
-/

namespace Sys2Proof.Machine

/-- What Jormon finds when it checks a descriptor. -/
structure Judged where
  trans : Trans
  plan  : List (PartKind × EngId)
  homes : List Nat
deriving DecidableEq, Repr

/-- The checks of R154 in the order of Table 6.12; `homes` are those recorded earlier, for a descriptor that was parked. -/
def State.judge (s : State) (n : Nat) (c : Ctx) (b : Bytes) (sp : Split) (homes : Option (List Nat)) : Except Nat Judged :=
  if descBad b then .error 3
  else if s.descOwner n c b then .error 4
  else
    let hs := match homes with
      | some h => h
      | none => (dRun b).map fun o => match s.dev.getObj c.pt o with | some x => x.expertHome | none => 0xFF
    if hs.any fun h => h = 0xFF then .error 3
    else if dHigh b then .error 6
    else
      let t := c.transAll b
      if t.denied then .error 6
      else
        match s.plan c b sp hs with
        | .error st => .error st
        | .ok p => .ok { trans := t, plan := p, homes := hs }

/-- Descriptors accepted and not dispatched (R155). -/
def Ctx.pendingCount (c : Ctx) : Nat := (c.cmds.filter fun x => x.state.waiting).length

/-- The number after a command sequence number (R154). -/
def seqNext (n : Nat) : Nat := if n = 2 ^ 32 - 1 then 1 else n + 1

/-- The gates that a context holds. -/
def Dev.gatesOf (d : Dev) (n : Nat) : List Nat := (d.gates.filter fun g => g.2.owner = n).map fun g => g.1

/-- The command that an accepted descriptor makes. -/
def State.newCmd (s : State) (n : Nat) (c : Ctx) (b : Bytes) (j : Judged) (seq : Nat) : Cmd :=
  { seq := seq, desc := b, step := c.step, segs := j.trans.segs, plan := j.plan, homes := j.homes,
    parked := j.trans.gap.map fun g => g.1
    objGen := (dObjs b).map fun o => match s.dev.getObj c.pt o with | some x => x.reg | none => 0
    snapRanges := if dOp b = 0x30 then (c.ranges.filter fun r => r.unmap.isNone).map fun r => r.entry else []
    snapGates := if dOp b = 0x30 then s.dev.gatesOf n else [] }

/-- Accepts or refuses one descriptor (R154, R265): the new state, its number, whether it is parked. -/
def State.submitOne (s : State) (n : Nat) (b : Bytes) (sp : Split) : Except Nat (State × Nat × Bool) :=
  match s.dev.getCtx n with
  | none => .error 4
  | some c =>
    match s.judge n c b sp none with
    | .error st => .error st
    | .ok j =>
      if 1024 ≤ c.pendingCount then .error 1
      else
        let seq := c.nextSeq
        let x := s.newCmd n c b j seq
        let s := s.onDev fun d => d.modCtx n fun c =>
          let c := { c with cmds := c.cmds ++ [x], nextSeq := seqNext seq }.note (.desc seq)
          if dOp b = 0x30 then { c with step := c.step + 1 } else c
        match j.trans.gap with
        | none => .ok (s, seq, false)
        | some g => .ok (s.queueFault c.pt n seq g.1 g.2 0, seq, true)

/-- SUBMIT. -/
def State.submit (s : State) (m : MsgIn) (sp : Split) : State :=
  match s.submitOne m.n (sub m.b 16 128) sp with
  | .error st => s.refuse m st
  | .ok (s, seq, parked) => s.reply m.back (if parked then 8 else 0) (leBytes 4 seq)

/-- How a list went: numbers of descriptors queued and parked, the first number, the index of note, the refusal. -/
structure ListRun where
  queued  : Nat := 0
  parked  : Nat := 0
  first   : Nat := 0
  index   : Nat := 0
  refused : Nat := 0
deriving DecidableEq, Repr

/-- Queues the descriptors of a list in order until one is refused (R386). -/
def State.submitAll (s : State) (n : Nat) (sp : Split) (l : List Bytes) (r : ListRun) : State × ListRun :=
  match l with
  | [] => (s, r)
  | b :: t =>
    match s.submitOne n b sp with
    | .error st => (s, { r with index := r.queued, refused := st })
    | .ok (s, seq, parked) =>
      s.submitAll n sp t { queued := r.queued + 1, parked := r.parked + (if parked then 1 else 0),
                           first := if r.queued = 0 then seq else r.first,
                           index := if parked ∧ r.parked = 0 then r.queued else r.index, refused := 0 }

/-- The physical address of a byte that Jormon reads for a context, at queue time. -/
def Dev.jormonPa (d : Dev) (n : Nat) (c : Ctx) (va : Nat) : Option Nat :=
  match c.queueEntry va with
  | none => none
  | some e =>
    if !e.perm 0 then none
    else match d.through e c.pt n 0 2 (fun _ => false) false va with
      | .phys pa => some pa
      | _ => none

/-- SUBMIT_LIST. -/
def State.submitList (s : State) (m : MsgIn) (sp : Split) : State :=
  s.inCtx m fun c s =>
    let va := field m.b 16 8
    let k := field m.b 24 2
    if va % 128 ≠ 0 ∨ k = 0 ∨ 1024 < k then s.refuse m 3
    else if 2 ^ 48 < va + 128 * k then s.refuse m 6
    else
      let pas := (List.range k).map fun i => s.dev.jormonPa m.n c (va + 128 * i)
      if pas.any fun p => p.isNone then s.refuse m 6
      else if 1024 < c.pendingCount + k then s.refuse m 1
      else
        let r := s.submitAll m.n sp (pas.map fun p => s.readPa (p.getD 0) 128) {}
        let x := r.2
        r.1.reply m.back (if x.refused ≠ 0 then x.refused else if x.parked ≠ 0 then 8 else 0)
          (leBytes 4 x.first ++ leBytes 2 x.queued ++ leBytes 2 x.parked ++ leBytes 2 x.index ++ leBytes 2 x.refused)

/-! ### Abort (R170, R171). -/

/-- Stops what remains of a command: undispatched and parked work is removed, live parts are stopped. -/
def State.stopCmd (s : State) (n : Nat) (x : Cmd) : State :=
  let pt := match s.dev.getCtx n with | some c => c.pt | none => 0
  let s := x.parts.foldl (fun s u =>
    match s.dev.getPart u with
    | some p => if p.live then s.stopPart u .aborted else s
    | none => s) s
  s.onDev fun d => d.modPt pt fun q => q.unpark n x.seq

/-- ABORT: exactly one of the abort and the completion takes effect. -/
def State.abortMsg (s : State) (m : MsgIn) : State :=
  s.inCtx m fun c s =>
    match c.getCmd (field m.b 16 4) with
    | none => s.refuse m 3
    | some x =>
      match if x.again then x.prior.getD x.state else x.state with
      | .completed => s.refuse m 9
      | .failed st => s.refuse m st
      | .failing st => s.refuse m (s.dev.failStatus x st)
      | .aborted => s.refuse m stAborted
      | _ =>
        (s.stopCmd m.n x).onDev fun d => d.modCmd m.n x.seq fun x =>
          { x with state := .aborting, parked := none, abortTo := x.abortTo ++ [m.back], waits := [] }

/-- Whether writes of a command's parts are still on their way. -/
def State.landing (s : State) (x : Cmd) : Bool := s.mem.flight.any fun w => match w.from' with
  | .part u => has x.parts u
  | .ccWb u => has x.parts u
  | _ => false

/-- The abort is settled: no landed line is put back, but every output is undefined (R171, log 57); the record, then the replies. -/
def State.abortEnd (s : State) (n seq : Nat) : State :=
  match s.dev.getCmd n seq with
  | none => s
  | some x =>
    if x.state = .aborting ∧ !s.landing x then
      x.abortTo.foldl (fun s r => s.reply r stAborted []) ((s.freeOutputs n x).onDev fun d => d.endCmd n seq .aborted [])
    else s

/-- A failure is settled once every write of the command has landed (R164, R168). -/
def State.failEnd (s : State) (n seq : Nat) : State :=
  match s.dev.getCmd n seq with
  | none => s
  | some x =>
    match x.state with
    | .failing st =>
      if s.landing x then s else (s.freeOutputs n x).onDev fun d => d.endCmd n seq (.failed (d.failStatus x st)) []
    | _ => s

/-! ### RESUME (R270). -/

/-- A parked command fails with a status (R270). -/
def State.failParked (s : State) (n seq st : Nat) : State :=
  (match s.dev.getCmd n seq with | some x => s.freeOutputs n x | none => s).onDev fun d => d.endCmd n seq (.failed st) []

/-- A parked descriptor is translated afresh. -/
def State.unparkCmd (s : State) (n seq : Nat) (sp : Split) : State :=
  match s.dev.getCtx n with
  | none => s
  | some c =>
    match c.getCmd seq with
    | none => s
    | some x =>
      if !x.state.waiting then s
      else
        match s.judge n c x.desc sp (if x.homes.isEmpty then none else some x.homes) with
        | .error st => s.failParked n seq st
        | .ok j =>
          let s := s.onDev fun d => d.modCmd n seq fun x =>
            { x with segs := j.trans.segs, plan := j.plan, parked := j.trans.gap.map fun g => g.1 }
          match j.trans.gap with
          | none => s
          | some g => s.queueFault c.pt n seq g.1 g.2 0

/-- The held accesses of an entry translate again (R270). -/
def State.releaseHeld (s : State) (f : FaultEntry) : State :=
  f.held.foldl (fun s h => match s.dev.getPart h.1 with | some p => s.releaseHold (eIdx p.eng) h.1 h.2 | none => s) s

/-- RESUME of an open entry of the context. -/
def State.resume (s : State) (m : MsgIn) (sp : Split) : State :=
  s.inCtx m fun c s =>
    match (s.dev.getPt c.pt).faults.find? fun f => f.num = field m.b 16 4 with
    | none => s.refuse m 3
    | some f =>
      if 1 < field m.b 20 1 then s.refuse m 3
      else if f.ctx ≠ m.n then s.refuse m 4
      else
        let s := (s.onDev fun d => d.modPt c.pt fun q => { q with faults := q.faults.filter fun x => x.num ≠ f.num }).refill c.pt
        let s :=
          if field m.b 20 1 = 0 then
            if f.cause = 1 then
              s.onDev fun d => f.parked.foldl (fun d q => d.modCmd m.n q fun x => { x with parked := none }) d
            else (f.parked.foldl (fun s q => s.unparkCmd m.n q sp) s).releaseHeld f
          else
            f.held.foldl (fun s u => s.failPart u.1 stBadRange) (f.parked.foldl (fun s q => s.failParked m.n q stBadRange) s)
        (s.refill c.pt).reply m.back 0 []

/-! ### Meanings. -/

/-- SUBMIT. -/
def execSubmit (mb : Mb) (split : Split) (s : State) : Out := .next (s.message mb (isOp 11) fun m s => s.submit m split)

/-- SUBMIT_LIST. -/
def execSubmitList (mb : Mb) (split : Split) (s : State) : Out := .next (s.message mb (isOp 12) fun m s => s.submitList m split)

/-- ABORT: its reply is the row ABORT_SETTLED where it takes effect. -/
def execAbort (mb : Mb) (s : State) : Out := .next (s.message mb (isOp 13) fun m s => s.abortMsg m)

/-- ABORT_SETTLED (R171). -/
def execAbortSettled (n : Fin 4096) (seq : Nat) (s : State) : Out := .next (s.abortEnd n.val seq)

/-- COMMAND_FAILURE_SETTLED (R164, R168). -/
def execCommandFailureSettled (n : Fin 4096) (seq : Nat) (s : State) : Out := .next (s.failEnd n.val seq)

/-- RESUME with RETRY, or with an action that no rule gives. -/
def execResumeRetry (mb : Mb) (split : Split) (s : State) : Out :=
  .next (s.message mb (fun b => isOp 14 b && field b 20 1 ≠ 1) fun m s => s.resume m split)

/-- RESUME with FAIL. -/
def execResumeFail (mb : Mb) (s : State) : Out :=
  .next (s.message mb (fun b => isOp 14 b && field b 20 1 = 1) fun m s => s.resume m { parts := 1, engs := [] })

end Sys2Proof.Machine
end

