-- ==== Sys2Proof/Machine/Misc.lean ====
section
/-!
DEFINITION. Gates, statistics, queries and notes (R387, R388, R394 to R399).
-/

namespace Sys2Proof.Machine

/-! ### Gates (R366, R387). Gates are numbered over the device: terrace t brings 8,192 t to 8,192 t + 8,191 (log 16). -/

/-- Gates that no context holds and that none keeps back. -/
def Dev.gateFree (d : Dev) (g : Nat) : Bool :=
  (Map.find d.gates g).isNone && !d.ctxs.any fun c => has c.2.heldGates g || c.2.freed.any fun f => f.1 = g

/-- Whether g to g + n - 1 are free. -/
def Dev.runFree (d : Dev) (g n : Nat) : Bool := (List.range n).all fun i => d.gateFree (g + i)

/-- The lowest free run of n gates in a partition's pool (DESIGN CHOICE: which run is Jormon's choice, log 16). -/
def State.freeRun (s : State) (p n : Nat) : Option Nat :=
  let pool := (s.mgmt.terraces p).flatMap fun t => (List.range 8192).map fun i => 8192 * t + i
  let top := 8192 * ((s.mgmt.terraces p).getLastD 0 + 1)
  pool.find? fun g => g + n ≤ top && s.dev.runFree g n

/-- Gives a context a run of gates. -/
def Dev.giveGates (d : Dev) (n first count : Nat) (v : Word) : Dev :=
  { d with gates := (List.range count).foldl (fun m i => Map.put m (first + i) { value := v, owner := n }) d.gates }

/-- GATE_ALLOC. -/
def State.gateAlloc (s : State) (m : MsgIn) : State :=
  s.inCtx m fun c s =>
    let k := field m.b 16 1
    let v : Word := BitVec.ofNat 64 (field m.b 24 8)
    if k = 0 ∨ 64 < k then s.refuse m 3
    else if c.quota < (s.dev.gatesOf m.n).length + k then s.refuse m 5
    else
      match s.freeRun c.pt k with
      | none => s.refuse m 5
      | some g =>
        (s.onDev fun d => (d.giveGates m.n g k v).modCtx m.n fun c => c.note (.galloc g k v)).reply m.back 0 (leBytes 2 g)

/-- GATE_FREE. -/
def State.gateFree (s : State) (m : MsgIn) : State :=
  s.inCtx m fun c s =>
    let g := field m.b 16 2
    let k := field m.b 18 1
    let run := (List.range k).map fun i => g + i
    if k = 0 ∨ 64 < k then s.refuse m 3
    else if run.any fun x => match Map.find s.dev.gates x with | some y => y.owner ≠ m.n | none => true then s.refuse m 4
    else if c.cmds.any fun x => !x.state.ended && (dGates x.desc).any fun y => has run y then s.refuse m 1
    else (s.onDev fun d => (d.freeGates m.n g k c.step).modCtx m.n fun c => c.note (.gfree g k)).reply m.back 0 []

/-! ### Statistics (R395, R397). -/

/-- The number of the last log record that was issued (DEDUCED: the current log sequence number, log 19). -/
def Mgmt.curLog (m : Mgmt) : Nat := m.logSeq - 1

/-- A period mark: every partition's block and the device's latch together (R395). -/
def State.periodMark (s : State) : State :=
  let n := s.mgmt.curLog
  s.onDev fun d => { d with
    stats := d.stats.latch n
    partns := ((List.range 8).filter fun p => recMask s.mgmt.record p ≠ 0).foldl
      (fun m p => Map.put m p { (Map.get m p {}) with stats := (Map.get m p {}).stats.latch n }) d.partns }

/-- The reply of STATS_READ over a block. -/
def State.statsReply (s : State) (m : MsgIn) (x : Stats) (live : Bool) : State :=
  let tbl := if live then x.live else x.latched
  s.reply m.back 0 (leBytes 4 x.gen ++ leBytes 4 0 ++ leBytes 8 x.log
    ++ (List.range (field m.b 21 1)).flatMap fun i => leBytes 8 (Map.get tbl (field m.b 20 1 + i) 0))

/-- STATS_READ. -/
def State.statsRead (s : State) (m : MsgIn) : State :=
  let kind := field m.b 16 1
  let fl := field m.b 17 1
  let p := field m.b 18 1
  let mark := bit fl 1
  let owner := m.ctx.isNone && s.mgmt.isOwner m.att
  if 4 ≤ fl ∨ field m.b 21 1 = 0 ∨ 28 < field m.b 21 1 ∨ 2 < kind ∨ (kind = 0 ∧ m.ctx.isNone) ∨ (kind = 2 ∧ m.ctx.isSome) then s.refuse m 3
  else if kind = 1 ∧ m.ctx.isNone ∧ !owner then s.refuse m 4
  else if mark ∧ !(owner && kind ≠ 0) then s.refuse m 4
  else if kind = 1 ∧ m.ctx.isNone ∧ recMask s.mgmt.record p = 0 then s.refuse m 3
  else
    let s := if mark then s.periodMark else s
    let live := bit fl 0 && !mark
    match kind with
    | 0 => s.inCtx m fun c s => s.statsReply m c.stats live
    | 1 =>
      let q := match m.ctx with | some n => (match s.dev.getCtx n with | some c => c.pt | none => 0) | none => p
      s.statsReply m (s.dev.getPt q).stats live
    | _ => s.statsReply m s.dev.stats live

/-! ### QUERY (R388, Table 16.5). -/

/-- HG_ID (Table 14.4). -/
def Mgmt.hgId (m : Mgmt) : Nat := 0x4B512408 + m.stepping % 256 * 2 ^ 32

def ctxStateCode (c : Ctx) : Nat := match c.state with | .active => 0 | .orphaned => 1 | .parkedAtStep => 2

def resCode (r : Res) : Nat := match r with | .caddyOnly => 0 | .rising => 1 | .resident => 2 | .sinking => 3

/-- The reply payload of kind CONTEXT. -/
def Dev.queryCtx (d : Dev) (n : Nat) (c : Ctx) : Bytes :=
  leBytes 1 (ctxStateCode c) ++ leBytes 3 0 ++ leBytes 4 c.nextSeq ++ leBytes 2 c.pendingCount ++ leBytes 2 (d.livePartsOf n).length
    ++ leBytes 2 ((d.getPt c.pt).faults.filter fun f => f.ctx = n).length ++ leBytes 4 (d.gatesOf n).length
    ++ leBytes 2 c.ranges.length ++ leBytes 2 c.journal.length

/-- The reply payload of kind OBJECT. -/
def Dev.queryObj (d : Dev) (pt num : Nat) (o : Obj) : Bytes :=
  leBytes 1 (resCode o.res) ++ leBytes 1 o.attrs ++ leBytes 1 o.expertHome ++ leBytes 1 (if o.dirty then 1 else 0)
    ++ leBytes 4 (d.pinCount pt num) ++ leBytes 2 (o.owner.getD 0xFFFF) ++ leBytes 6 0 ++ leBytes 8 (o.granules * granule)
    ++ leBytes 8 (sizeSum o.sizes) ++ leBytes 8 (sizeSum o.pendSizes)

/-- The payload of a QUERY reply is 240 bytes (Table 16.4): zeros follow the fields of its kind. -/
def pad240 (bs : Bytes) : Bytes := bs ++ List.replicate (240 - bs.length) 0

/-- QUERY of any kind. -/
def State.query (s : State) (m : MsgIn) : State :=
  let key := field m.b 20 4
  match field m.b 16 1 with
  | 0 => s.reply m.back 0 (pad240 (leBytes 8 s.mgmt.hgId ++ leBytes 8 s.mgmt.serial.toNat ++ leBytes 8 s.mgmt.fwVersion.toNat
      ++ leBytes 4 s.mgmt.layoutGen ++ leBytes 2 s.dev.ctxs.length ++ leBytes 2 0 ++ leBytes 8 s.mgmt.curLog))
  | k =>
    if 4 < k ∨ m.ctx.isNone then s.refuse m 3
    else
      s.inCtx m fun c s =>
        match k with
        | 1 => s.reply m.back 0 (pad240 (s.dev.queryCtx m.n c))
        | 2 =>
          match s.dev.getObj c.pt key with
          | none => s.refuse m 4
          | some o => s.reply m.back 0 (pad240 (s.dev.queryObj c.pt key o))
        | 3 =>
          match Map.find s.dev.gates key with
          | some g => if g.owner = m.n then s.reply m.back 0 (pad240 (leBytes 8 g.value.toNat)) else s.refuse m 4
          | none => s.refuse m 4
        | _ =>
          match c.entry (field m.b 24 8) with
          | some e => s.reply m.back 0 (pad240 e.bytes)
          | none => s.refuse m 6

/-- NOTE (R399). -/
def State.noteMsg (s : State) (m : MsgIn) : State :=
  let n := field m.b 16 1
  if n = 0 ∨ 47 < n then s.refuse m 3
  else
    let k := s.mgmt.logSeq
    (s.log 1 (some m.att) m.ctx (leBytes 1 n ++ sub m.b 32 47)).reply m.back 0 (leBytes 8 k)

/-! ### Meanings. -/

def qKind (k : Nat) (b : Bytes) : Bool := isOp 18 b && field b 16 1 = k
def sKind (k : Nat) (b : Bytes) : Bool := isOp 17 b && field b 16 1 = k

/-- GATE_ALLOC. -/
def execGateAlloc (mb : Mb) (s : State) : Out := .next (s.message mb (isOp 15) fun m s => s.gateAlloc m)

/-- GATE_FREE. -/
def execGateFree (mb : Mb) (s : State) : Out := .next (s.message mb (isOp 16) fun m s => s.gateFree m)

/-- STATS_READ of kind CONTEXT, or of a kind that no rule gives. -/
def execStatsReadContext (mb : Mb) (s : State) : Out :=
  .next (s.message mb (fun b => isOp 17 b && !sKind 1 b && !sKind 2 b) fun m s => s.statsRead m)

/-- STATS_READ of kind PARTITION. -/
def execStatsReadPartition (mb : Mb) (s : State) : Out := .next (s.message mb (sKind 1) fun m s => s.statsRead m)

/-- STATS_READ of kind DEVICE. -/
def execStatsReadDevice (mb : Mb) (s : State) : Out := .next (s.message mb (sKind 2) fun m s => s.statsRead m)

/-- PERIOD_MARK by Byolo, at the interval of the layout record (R395). -/
def execPeriodMark (s : State) : Out :=
  .next (let i := recMark s.mgmt.record * 65536
    if s.mgmt.running ∧ i ≠ 0 ∧ s.mgmt.lastMark + i ≤ s.kettle then
      s.periodMark.onMgmt fun m => { m with lastMark := s.kettle }
    else s)

/-- QUERY of kind DEVICE, or of a kind that no rule gives. -/
def execQueryDevice (mb : Mb) (s : State) : Out :=
  .next (s.message mb (fun b => isOp 18 b && !(1 ≤ field b 16 1 && field b 16 1 ≤ 4)) fun m s => s.query m)

/-- QUERY of kind CONTEXT. -/
def execQueryContext (mb : Mb) (s : State) : Out := .next (s.message mb (qKind 1) fun m s => s.query m)

/-- QUERY of kind OBJECT. -/
def execQueryObject (mb : Mb) (s : State) : Out := .next (s.message mb (qKind 2) fun m s => s.query m)

/-- QUERY of kind GATE. -/
def execQueryGate (mb : Mb) (s : State) : Out := .next (s.message mb (qKind 3) fun m s => s.query m)

/-- QUERY of kind RANGE. -/
def execQueryRange (mb : Mb) (s : State) : Out := .next (s.message mb (qKind 4) fun m s => s.query m)

/-- NOTE. -/
def execNote (mb : Mb) (s : State) : Out := .next (s.message mb (isOp 19) fun m s => s.noteMsg m)

end Sys2Proof.Machine
end

