-- ==== Sys2Proof/Machine/LayoutMsg.lean ====
section
/-!
DEFINITION. LAYOUT_READ and LAYOUT_WRITE (R362, R400, R401, R403, R483, R484).
-/

namespace Sys2Proof.Machine

/-- offset and bytes as Table 16.3 admits them. -/
def layoutRun (o n : Nat) : Bool := o ≤ 4080 && o % 16 = 0 && 16 ≤ n && n ≤ 224 && n % 16 = 0 && o + n ≤ 4096

/-- LAYOUT_READ. -/
def State.layoutRead (s : State) (m : MsgIn) : State :=
  let o := field m.b 16 2
  let n := field m.b 18 2
  if layoutRun o n then
    s.reply m.back (if s.mgmt.defaulted ∧ s.mgmt.layoutGen = 0 then 11 else 0)
      (leBytes 4 s.mgmt.layoutGen ++ leBytes 12 0 ++ Mem.read s.mgmt.record o n)
  else s.refuse m 3

/-- STAGE. -/
def State.layoutStage (s : State) (m : MsgIn) : State :=
  let o := field m.b 18 2
  let n := field m.b 20 2
  if !layoutRun o n ∨ field m.b 24 4 ≠ 0 then s.refuse m 3
  else
    let base := (s.dev.getAtt m.att).staging.getD s.mgmt.record
    (s.onDev fun d => d.modAtt m.att fun x => { x with staging := some (Mem.write base o (sub m.b 32 n)) }).reply m.back 0 []

/-- The terraces of the server core c. -/
def coreTerr (c : Nat) : Nat := c / 12

/-- Whether a partition's terrace set changes between two records. -/
def ptChanges (old new : Mem) (p : Nat) : Bool := recMask old p ≠ 0 && recMask old p ≠ recMask new p

/-- Whether a hart of a partition runs or is suspended (R362). -/
def State.hartsUp (s : State) (p : Nat) : Bool :=
  s.dev.cores.any fun c => has (s.mgmt.terraces p) (coreTerr c.1) && (c.2.hart = .running || c.2.hart = .suspended)

/-- R362, and the sysmem rule of R484: BUSY. -/
def State.layoutBusy (s : State) (new : Mem) : Bool :=
  (List.range 8).any fun p =>
    (ptChanges s.mgmt.record new p && (!(s.dev.ctxsOf p).isEmpty || s.hartsUp p))
      || (recSysmem s.mgmt.record p ≠ recSysmem new p && !(s.dev.ctxsOf p).isEmpty)

/-- Terraces that leave a partition. -/
def leaving (old new : Mem) : List Nat :=
  (List.range 8).filter fun t => (List.range 8).any fun p => bit (recMask old p) t && !bit (recMask new p) t

/-- What a partition keeps when its set changes: nothing where it is removed; else its objects without the images that stood on
terraces that left (log 20). -/
def Partn.relayout (q : Partn) (removed : Bool) (gone : List Nat) : Partn :=
  if removed then { stats := q.stats }
  else { q with objs := q.objs.map fun o => (o.1,
    if has gone o.2.home then { o.2 with res := .caddyOnly, image := [], dirty := false, rise := none, sinkOp := none } else o.2) }

/-- Fields of a port's network block whose change moves its queue pairs to Error (R403): addresses and VLAN. -/
def netMoved (old new : Mem) (p : Nat) : Bool :=
  let f (r : Mem) : List Nat := [recNet r p 0 4, recNet r p 4 1, recNet r p 5 1 % 8, recNet r p 6 2, recNet r p 8 16, recNet r p 24 1]
  f old ≠ f new

/-- Queue pairs of a port move to Error, and count. -/
def Dev.qpErrors (d : Dev) (port : Nat) : Dev :=
  let n := (d.qps.filter fun q => q.2.port = port && !q.2.err).length
  { d.modEPort port fun x => { x with counts := Map.addSat x.counts 12 n max64 } with
    qps := d.qps.map fun q => if q.2.port = port then (q.1, { q.2 with err := true }) else q }

/-- A port that a record leaves without an address stays down (R403). -/
def netBare (r : Mem) (p : Nat) : Bool := !bit (recNet r p 5 1) 0 && !bit (recNet r p 5 1) 1

/-- The effects of a record that comes into force (R362, R403, R424). -/
def State.relayout (s : State) (new : Mem) : State :=
  let old := s.mgmt.record
  let gone := leaving old new
  let s := gone.foldl (fun s t => s.onMem fun m => (m.zero (sliceBase t) sliceBytes).zero (hbmPa t 0) (2 ^ 38)) s
  let s := s.onDev fun d =>
    let d : Dev := gone.foldl (fun d t => d.modTerr t fun x => { x with frames := [] }) d
    let d : Dev := (List.range 8).foldl (fun d p =>
      let d : Dev := if ptChanges old new p then d.modPt p fun q => q.relayout (recMask new p = 0) gone else d
      if (terrOf (recMask new p)).any fun t => has gone t then d.modPt p fun q => { q with unformed := true } else d) d
    let d : Dev := { d with windows := d.windows.filter fun w => !ptChanges old new w.2.owner }
    (List.range 4).foldl (fun d p =>
      let d : Dev := if netMoved old new p then d.qpErrors p else d
      if netBare new p then d.modEPort p fun x => { x with up := false, fill := 0, pfcOut := false, paused := false } else d) d
  s.onPow fun w => { w with capW := recCap new }

/-- COMMIT: the refusals in the order of R401; with no buffer staged there is nothing whose check word holds (log 14). -/
def State.layoutCommit (s : State) (m : MsgIn) : State :=
  if field m.b 18 2 ≠ 0 ∨ field m.b 20 2 ≠ 0 then s.refuse m 3
  else if field m.b 24 4 ≠ s.mgmt.layoutGen then s.refuse m 1
  else
    match (s.dev.getAtt m.att).staging with
    | none => s.refuse m 2
    | some r =>
      if !recCheck r then s.refuse m 2
      else if !recOk r [s.mgmt.split, recSplit r] then s.refuse m 3
      else if s.layoutBusy r then s.refuse m 1
      else
        let g := (s.mgmt.layoutGen + 1) % 2 ^ 32
        let new := recSeal (Mem.write r 8 (leBytes 4 g))
        let s := (s.relayout new).onMgmt fun x => { x with record := new, layoutGen := g, copy0 := some new, copy1 := some new }
        let s := s.onDev fun d => d.modAtt m.att fun x => { x with staging := none }
        (s.log 0x0100 (some m.att) none (leBytes 4 g)).reply m.back 0 (leBytes 4 g)

/-- DISCARD. -/
def State.layoutDiscard (s : State) (m : MsgIn) : State :=
  if field m.b 18 2 ≠ 0 ∨ field m.b 20 2 ≠ 0 ∨ field m.b 24 4 ≠ 0 then s.refuse m 3
  else (s.onDev fun d => d.modAtt m.att fun x => { x with staging := none }).reply m.back 0 []

/-- LAYOUT_WRITE is taken from the owner attachment alone (R401). -/
def State.byOwner (s : State) (m : MsgIn) (f : State → State) : State := if s.mgmt.isOwner m.att then f s else s.refuse m 4

def wOp (k : Nat) (b : Bytes) : Bool := isOp 21 b && field b 16 1 = k

/-! ### Meanings. -/

/-- LAYOUT_READ. -/
def execLayoutRead (mb : Mb) (s : State) : Out := .next (s.message mb (isOp 20) fun m s => s.layoutRead m)

/-- LAYOUT_WRITE STAGE, or an op that no rule gives. -/
def execLayoutStage (mb : Mb) (s : State) : Out :=
  .next (s.message mb (fun b => isOp 21 b && !wOp 1 b && !wOp 2 b) fun m s =>
    s.byOwner m fun s => if 2 < field m.b 16 1 then s.refuse m 3 else s.layoutStage m)

/-- LAYOUT_WRITE COMMIT. -/
def execLayoutCommit (mb : Mb) (s : State) : Out :=
  .next (s.message mb (wOp 1) fun m s => s.byOwner m fun s => s.layoutCommit m)

/-- LAYOUT_WRITE DISCARD. -/
def execLayoutDiscard (mb : Mb) (s : State) : Out :=
  .next (s.message mb (wOp 2) fun m s => s.byOwner m fun s => s.layoutDiscard m)

end Sys2Proof.Machine
end

