-- ==== Sys2Proof/Machine/Jormon.lean ====
section
/-!
DEFINITION. Dispatch, and the commands that Jormon carries out: objects, gates, FENCE and STEP_MARK (R155 to R163, R175 to R178,
R209 to R214, R219 to R227, R368, R369, R448).
-/

namespace Sys2Proof.Machine

/-! ### Engines by what serves them (R10, R446, R447). -/

/-- The physical engine that serves a logical one: none where every engine of its terrace has failed. -/
def Terrace.phys (t : Terrace) (e : Nat) : Option Nat :=
  let p := Map.get t.serves e e
  if has t.fenced p then none else some p

/-- The logical engines that share the physical engine of one (R447), by index. -/
def Dev.sharers (d : Dev) (e : EngId) : List Nat :=
  let t := d.getTerr e.t.val
  match t.phys e.e.val with
  | none => []
  | some p => ((List.range 5).filter fun k => t.phys k = some p).map fun k => 5 * e.t.val + k

/-- Parts in flight on the engine that serves a logical one (R157). -/
def Dev.inFlight (d : Dev) (e : EngId) : Nat :=
  let es := d.sharers e
  (d.parts.filter fun p => p.2.live && has es (eIdx p.2.eng)).length

/-- Whether each engine of a split can take its parts (R156, R157). -/
def Dev.takesParts (d : Dev) (plan : List (PartKind × EngId)) : Bool :=
  plan.all fun k =>
    !(d.sharers k.2).isEmpty && ((d.sharers k.2).all fun e => (d.getEng e).isolated.isNone)
      && d.inFlight k.2 + (plan.filter fun j => has (d.sharers k.2) (eIdx j.2)).length ≤ 64

/-! ### Which descriptor is next (R156, R267). -/

/-- Whether a gate that the context holds has reached a value (R163). -/
def Dev.reached (d : Dev) (n g v : Nat) : Bool :=
  match Map.find d.gates g with
  | some x => x.owner = n && v ≤ x.value.toNat
  | none => false

/-- The conditions of the header and of GATE_WAIT (R151). -/
def Cmd.conditions (c : Cmd) : List (Nat × Nat) :=
  (if c.flag 0 then [(field c.desc 16 2, field c.desc 24 8)] else [])
    ++ (if c.op = 0x21 then
          (List.range (field c.desc 32 1)).map fun i => (field c.desc (48 + 16 * i) 2, field c.desc (56 + 16 * i) 8)
        else [])

/-- A FENCE or STEP_MARK that holds later commands back. -/
def Ctx.fenced (c : Ctx) : Bool := c.cmds.any fun x => x.state = .running && (x.op = 0x22 || x.op = 0x30)

/-- The oldest descriptor of a context that has not been dispatched, if nothing but its gate wait may hold it. -/
def Dev.nextUp (d : Dev) (n : Nat) : Option Cmd :=
  match d.getCtx n with
  | none => none
  | some c =>
    match c.cmds.find? fun x => x.state.waiting with
    | none => none
    | some x =>
      if d.ready ∧ c.state ≠ .parkedAtStep ∧ c.teardown.isNone ∧ c.rollDue.isNone ∧ (d.getPt c.pt).alarm.isNone ∧ x.parked.isNone
          ∧ !c.fenced ∧ (c.ranges.all fun r => match r.unmap with | some u => seqBefore x.seq u.2 | none => true)
          ∧ d.takesParts x.plan then some x
      else none

/-- Whether every condition of a command is met. -/
def Dev.gatesMet (d : Dev) (n : Nat) (x : Cmd) : Bool := x.conditions.all fun g => d.reached n g.1 g.2

/-- The descriptor of a context that may be dispatched now. -/
def Dev.dispatchable (d : Dev) (n : Nat) : Option Cmd := (d.nextUp n).filter fun x => d.gatesMet n x

/-! ### Choice among contexts (R368, R369). -/

/-- Whether a context is under its share. -/
def Dev.underShare (d : Dev) (c : Ctx) : Bool :=
  c.engShare ≠ 0 && (c.usage = 0 || c.usage * 1024 < c.engShare * ((d.ctxsOf c.pt).map fun x => x.2.usage).sum)

/-- Whether context a comes before context b when an engine can take one of them. -/
def Dev.before (d : Dev) (a : Nat) (x : Ctx) (b : Nat) (y : Ctx) : Bool :=
  let ux := d.underShare x
  let uy := d.underShare y
  if ux ≠ uy then ux
  else if x.prio ≠ y.prio then y.prio < x.prio
  else if ux ∧ x.usage * y.engShare ≠ y.usage * x.engShare then x.usage * y.engShare < y.usage * x.engShare
  else if x.lastDisp ≠ y.lastDisp then x.lastDisp < y.lastDisp
  else a < b

/-- Whether another context's dispatchable descriptor needs an engine that this plan needs, and comes first. -/
def Dev.yields (d : Dev) (n : Nat) (c : Ctx) (plan : List (PartKind × EngId)) : Bool :=
  let mine := plan.flatMap fun k => d.sharers k.2
  (d.ctxsOf c.pt).any fun y =>
    y.1 ≠ n &&
      match d.dispatchable y.1 with
      | some x => (x.plan.any fun k => (d.sharers k.2).any fun e => has mine e) && d.before y.1 y.2 n c
      | none => false

/-! ### Waiting parts and promotions (R209). -/

/-- Objects that a command's planes name (R207). -/
def Cmd.objs (c : Cmd) : List Nat := (c.segs.filter fun e => e.kind = 2).map fun e => e.target % 2 ^ 22

/-- Objects that a run-time access of a part waits for: a cluster's, a mover request's, or that of its gather stream (R208, R224). -/
def Dev.runWaits (d : Dev) (u : Nat) : List Nat :=
  let at' (access va : Nat) : List Nat := match d.place u access va with | .wait _ o => [o] | .shadow _ o _ => [o] | _ => []
  let hold (x : Xlat) : List Nat := match x.hold with | some (.object va access) => at' access va | _ => []
  (match d.getPart u with | some p => hold p.xl | none => []) ++ d.cl.flatMap fun c =>
    if c.2.part = some u then
      (match c.2.stall with | .object va acc => at' acc.kind va | _ => []) ++ c.2.movs.flatMap fun r => hold r.xl
    else []

/-- Objects that a part waits for before it starts: those of its planes that are not RESIDENT (R208). -/
def Dev.startWaits (d : Dev) (p : Part) (pt : Nat) : List Nat :=
  match d.getCmd p.ctx p.seq with
  | some x => (partObjs x.desc p.kind x.segs).filter fun o => match d.getObj pt o with | some y => y.res ≠ .resident | none => true
  | none => []

/-- Objects that a part of a partition waits for, at its start or at a run-time access, with its context. -/
def Dev.wants (d : Dev) (pt : Nat) : List (Nat × Nat) :=
  (d.parts.filter fun p => p.2.live).flatMap fun p =>
    match d.getCtx p.2.ctx with
    | some c => if c.pt ≠ pt then [] else ((if p.2.stage = .queued then d.startWaits p.2 pt else []) ++ d.runWaits p.1).map fun o => (o, p.2.ctx)
    | none => []

/-- A demand steep for every object that a part waits for and that is CADDY_ONLY or SINKING (R209). -/
def Dev.demand (d : Dev) (pt : Nat) : Dev :=
  (d.wants pt).foldl (fun d w =>
    match d.getObj pt w.1 with
    | some o => if o.res = .caddyOnly ∨ o.res = .sinking then d.promote pt w.1 .demand w.2 else d
    | none => d) d

/-! ### DESCRIPTOR_DISPATCH of commands with parts. -/

/-- Adds the parts of a command to the queues of their engines. -/
def Dev.makeParts (d : Dev) (n : Nat) (x : Cmd) (idx : Nat) (plan : List (PartKind × EngId)) : Dev :=
  match plan with
  | [] => d
  | (k, e) :: t =>
    let p : Part := { ctx := n, seq := x.seq, idx := idx, eng := e, kind := k, work := minWork x.desc k,
                      ledger := overlapBytes x.desc k }
    let u := d.nextUid
    let d : Dev := { d with parts := Map.put d.parts u p, nextUid := u + 1 }
    let d := d.modEng (eIdx e) fun q => { q with queue := q.queue ++ [u] }
    (d.modCmd n x.seq fun c => { c with parts := c.parts ++ [u] }).makeParts n x (idx + 1) t

/-- A command leaves the list of those that wait: it runs, and its context was dispatched last. -/
def Dev.begin (d : Dev) (n seq : Nat) : Dev :=
  { (d.modCmd n seq fun x => { x with state := .running }).modCtx n fun c => { c with lastDisp := d.serial } with
    serial := d.serial + 1 }

def State.dispatchParts (s : State) (n : Nat) : State :=
  match s.dev.dispatchable n, s.dev.getCtx n with
  | some x, some c =>
    if x.plan.isEmpty ∨ s.dev.yields n c x.plan then s
    else s.onDev fun d => (((d.begin n x.seq).makeParts n x 0 x.plan).demand c.pt)
  | _, _ => s

/-- The row of a command that Jormon carries out at dispatch. -/
def State.jormon (s : State) (n : Nat) (mine : Cmd → Bool) (f : Ctx → Cmd → State → State) : State :=
  match s.dev.dispatchable n, s.dev.getCtx n with
  | some x, some c => if mine x then f c x (s.onDev fun d => d.begin n x.seq) else s
  | _, _ => s

/-! ### Object commands (R211, R213, R214, R221). -/

/-- The listed objects that still are the ones listed when the descriptor was queued: those before the first retired one, and
whether one is retired. -/
def Dev.listed (d : Dev) (pt : Nat) (objs : List Nat) (regs : List Nat) : List (Nat × Nat) × Bool :=
  match objs, regs with
  | o :: t, r :: rs =>
    match d.getObj pt o with
    | some x => if x.reg = r then let z := d.listed pt t rs; ((o, r) :: z.1, z.2) else ([], true)
    | none => ([], true)
  | _, _ => ([], false)

/-- A sink request (Table 8.5): the flag says that the requester waits. -/
def Dev.sinkRequest (d : Dev) (pt num : Nat) (evict : Bool) (ctx seq : Nat) : Dev × Bool :=
  match d.getObj pt num with
  | none => (d, false)
  | some o =>
    match o.res with
    | .caddyOnly => (d, false)
    | .rising => (d.modObj pt num fun o => { o with sinkWait := o.sinkWait ++ [(false, ctx, seq)] }, true)
    | .resident =>
      if o.sinkOp.isSome then (d.modObj pt num fun o => { o with sinkWait := o.sinkWait ++ [(false, ctx, seq)] }, true)
      else
        ({ d.modObj pt num fun o => { o with
             res := .sinking, sinkOp := some { keep := false, evict := evict, ctx := ctx, order := d.serial } } with
           serial := d.serial + 1 }, true)
    | .sinking => (d, !o.released)

/-- A SINK with KEEP (R221): the flag says that the requester waits. -/
def Dev.keepRequest (d : Dev) (pt num ctx seq : Nat) : Dev × Bool :=
  match d.getObj pt num with
  | none => (d, false)
  | some o =>
    match o.res with
    | .caddyOnly => (d, false)
    | .rising => (d, false)
    | .resident =>
      match o.sinkOp with
      | some _ => (d.modObj pt num fun o => { o with sinkWait := o.sinkWait ++ [(true, ctx, seq)] }, true)
      | none =>
        if o.dirty then
          ({ d.modObj pt num fun o => { o with sinkOp := some { keep := true, evict := false, ctx := ctx, order := d.serial } } with
             serial := d.serial + 1 }, true)
        else (d, false)
    | .sinking => (d, !o.released)

/-- Acts on listed objects in order and keeps those whose end the command waits for. -/
def Dev.actOn (d : Dev) (n seq : Nat) (l : List (Nat × Nat)) (f : Dev → Nat → Dev × Bool) : Dev :=
  l.foldl (fun d o =>
    let r := f d o.1
    if r.2 then r.1.modCmd n seq fun x => { x with waits := x.waits ++ [o] } else r.1) d

/-- Ends a STEEP or SINK at dispatch where nothing is left to wait for. -/
def Dev.settleList (d : Dev) (n seq : Nat) (retired async : Bool) : Dev :=
  if retired then d.endCmd n seq (.failed stNotOwner) []
  else
    match d.getCmd n seq with
    | some x => if x.state = .running ∧ (async ∨ x.waits.isEmpty) then (d.modCmd n seq fun x => { x with waits := [] }).endCmd n seq .completed [] else d
    | none => d

def Dev.steep (d : Dev) (n : Nat) (c : Ctx) (x : Cmd) : Dev :=
  let l := d.listed c.pt (dObjs x.desc) x.objGen
  (d.actOn n x.seq l.1 fun d o =>
    let d := d.promote c.pt o .steep n
    (d, match d.getObj c.pt o with | some k => k.res ≠ .resident | none => false)).settleList n x.seq l.2 (bit (field x.desc 33 1) 0)

def Dev.sink (d : Dev) (n : Nat) (c : Ctx) (x : Cmd) (keep : Bool) : Dev :=
  let l := d.listed c.pt (dObjs x.desc) x.objGen
  ((d.actOn n x.seq l.1 fun d o => if keep then d.keepRequest c.pt o n x.seq else d.sinkRequest c.pt o false n x.seq).demand c.pt).settleList
    n x.seq l.2 (bit (field x.desc 33 1) 0)

/-- How often an object stands in a list. -/
def timesIn (l : List (Nat × Nat)) (o : Nat) : Nat := (l.filter fun x => x.1 = o).length

def Dev.pinCmd (d : Dev) (n : Nat) (c : Ctx) (x : Cmd) : Dev :=
  let l := d.listed c.pt (dObjs x.desc) x.objGen
  if l.1.any fun o => 65535 < Map.get c.pins o.1 0 + timesIn l.1 o.1 then d.endCmd n x.seq (.failed stNoResource) []
  else
    let d := l.1.foldl (fun d o =>
      let d := d.modCtx n fun c => { c with pins := Map.put c.pins o.1 (Map.get c.pins o.1 0 + 1) }
      if bit (field x.desc 33 1) 0 then d.promote c.pt o.1 .steep n else d) d
    d.settleList n x.seq l.2 true

def Dev.unpinCmd (d : Dev) (n : Nat) (c : Ctx) (x : Cmd) : Dev :=
  let l := d.listed c.pt (dObjs x.desc) x.objGen
  if l.1.any fun o => Map.get c.pins o.1 0 < timesIn l.1 o.1 then d.endCmd n x.seq (.failed 3) []
  else
    let d := l.1.foldl (fun d o => d.modCtx n fun c =>
      let k := Map.get c.pins o.1 0
      { c with pins := if k ≤ 1 then Map.del c.pins o.1 else Map.put c.pins o.1 (k - 1) }) d
    d.settleList n x.seq l.2 true

/-! ### FENCE and STEP_MARK (R153, R158, R178, R226, R448). -/

/-- The commands accepted before a given one. -/
def Ctx.earlier (c : Ctx) (seq : Nat) : List Cmd := c.cmds.takeWhile fun x => !(x.seq = seq && !x.state.ended)

/-- A command that stands behind every earlier one ends once they have. -/
def State.behind (s : State) (n op : Nat) (f : Ctx → Cmd → State → State) : State :=
  if !s.dev.ready then s else
  match s.dev.getCtx n with
  | none => s
  | some c =>
    match c.cmds.find? fun x => x.op = op && x.state = .running with
    | none => s
    | some x => if (c.earlier x.seq).all fun y => y.state.ended then f c x s else s

/-- Stored bytes of one granule (R218): what coding gives, or the granule unchanged, rounded up to 256. -/
def chunkSize (content : Mem) (hint : Nat) : Nat := ceilDiv (min granule (Config.chunkBytes content hint)) 256 * 256

/-- A record with granules of a pending image put in. -/
def mergePend (r : Option Mem) (pend : List (Nat × Mem)) : Mem :=
  pend.foldl (fun m g => g.2.foldl (fun m e => Mem.set m (g.1 * granule + e.1) e.2) (Mem.zero m (g.1 * granule) granule)) (r.getD [])

/-- A write-down that a publication overtakes: a KEEP's image becomes dirty again (R221); a sink writes the granules that were replaced down
afresh, and has no shadow left (R212, R219). -/
def SinkOp.overtaken (k : SinkOp) (granules : Nat) (replaced : List Nat) : SinkOp :=
  if k.keep then { k with rewritten := k.rewritten || !replaced.isEmpty }
  else if k.released then k
  else
    let stays (c : Nat) : Bool := c < granules && !has replaced c
    { k with done := k.done.filter stays, sizes := k.sizes.filter fun x => stays x.1, bad := k.bad.filter fun l => stays (l / 512) }

/-- Publication of one object (R226): shadow granules become published ones, those they replace stay for the parts that bound
them, and a pending image becomes the record. -/
def Obj.publish (o : Obj) (holders : List Nat) : Obj :=
  let left := o.shadow.flatMap fun g => match o.image[g.1]? with | some b => holders.map fun u => (g.1, b, u) | none => []
  let replaced := o.shadow.map fun g => g.1
  { o with
    old := o.old ++ left
    image := o.shadow.foldl (fun im g => setAt im g.1 g.2) o.image
    dirty := o.dirty || (o.res ≠ .rising && !o.shadow.isEmpty)
    record := match o.pend with | some p => some (mergePend o.record p) | none => o.record
    recBad := match o.pend with | some p => o.recBad.filter (fun l => !p.any fun g => g.1 = l / 512) ++ o.pendBad | none => o.recBad
    sizes := o.pendSizes.foldl (fun m g => Map.put m g.1 g.2) o.sizes
    pendBad := [], shadowWait := 0, shadowTried := []
    pend := none, pendSizes := [], shadow := [], owner := none
    rise := o.rise.map fun r => { r with done := [], loads := false }
    sinkOp := o.sinkOp.map fun k => k.overtaken o.granules replaced }

/-- Live parts that hold a use pin on an object. -/
def Dev.holders (d : Dev) (pt num : Nat) : List Nat :=
  (d.parts.filter fun p => p.2.live && has p.2.pins num && (match d.getCtx p.2.ctx with | some c => c.pt = pt | none => false)).map
    fun p => p.1

/-- Publication of every object that a context owns. -/
def Dev.publish (d : Dev) (n pt : Nat) : Dev :=
  let f (o : Nat × Obj) : Nat × Obj := if o.2.owner = some n then (o.1, o.2.publish (d.holders pt o.1)) else o
  d.modPt pt fun q => { q with objs := q.objs.map f }

/-- The value that a gate of the image has: present, or as it stood when it was freed (R448). -/
def Dev.gateImage (d : Dev) (c : Ctx) (g : Nat) : Option (Nat × Word) :=
  match Map.find d.gates g with
  | some x => some (g, x.value)
  | none => (c.freed.find? fun f => f.1 = g).map fun f => (g, f.2.2)

/-- The detail of a STEP_MARK's record (Table 6.16). -/
def Ctx.markDetail (c : Ctx) (k : Nat) : Bytes :=
  let bad := (c.cmds.filter fun y => y.step ≤ k && match y.state with | .failed _ => true | .aborted => true | _ => false).length
  let kept := (c.journal.filter fun j => j.step ≤ k && match j.kind with | .desc _ => true | _ => false).length
  leBytes 4 kept ++ leBytes 4 bad ++ leBytes 1 (if c.overflow.any (fun o => o ≤ k) then 1 else 0)

/-- Steps 2 to 4 of R178 on the context. -/
def Ctx.closeStep (c : Ctx) (k log : Nat) (im : CtxImage) : Ctx :=
  { c with
    image := { im with latch := c.stats.gen + 1 }
    stats := c.stats.latch log
    journal := c.journal.filter fun j => k < j.step
    overflow := c.overflow.filter fun o => k < o
    planPins := [], rolled := [], noImage := false, dirtied := [], shortPosted := false, heldGates := []
    freed := c.freed.filter fun f => k < f.2.1
    state := if c.state = .orphaned then .parkedAtStep else c.state }

/-- STEP_MARK commits (R178, R448). -/
def State.commitStep (s : State) (n : Nat) (c : Ctx) (x : Cmd) : State :=
  let detail := c.markDetail x.step
  let im : CtxImage := { ranges := x.snapRanges, gates := x.snapGates.filterMap fun g => s.dev.gateImage c g, pins := c.pins }
  let s := s.onDev fun d => ((d.publish n c.pt).modCtx n fun c => c.closeStep x.step s.mgmt.curLog im).dropRetained n
  let s := s.onDev fun d => (d.endCmd n x.seq .completed detail).modCtx n fun c => { c with
    cmds := c.cmds.filter fun y => ¬ (y.step ≤ x.step ∧ y.state.ended)
    served := s.mgmt.fwVersion.toNat }
  s.fwDone

/-! ### Meanings. -/

/-- DESCRIPTOR_DISPATCH (R156, R369): the parts of the next descriptor enter the queues of their engines. -/
def execDescriptorDispatch (n : Fin 4096) (s : State) : Out := .next (s.dispatchParts n.val)

/-- STEEP. -/
def execSteep (n : Fin 4096) (s : State) : Out :=
  .next (s.jormon n.val (fun x => x.op = 0x10) fun c x s => s.onDev fun d => d.steep n.val c x)

/-- SINK. -/
def execSink (n : Fin 4096) (s : State) : Out :=
  .next (s.jormon n.val (fun x => x.op = 0x11 && !bit (field x.desc 33 1) 1) fun c x s => s.onDev fun d => d.sink n.val c x false)

/-- SINK with KEEP. -/
def execSinkKeep (n : Fin 4096) (s : State) : Out :=
  .next (s.jormon n.val (fun x => x.op = 0x11 && bit (field x.desc 33 1) 1) fun c x s => s.onDev fun d => d.sink n.val c x true)

/-- PIN. -/
def execPin (n : Fin 4096) (s : State) : Out :=
  .next (s.jormon n.val (fun x => x.op = 0x12) fun c x s => s.onDev fun d => d.pinCmd n.val c x)

/-- UNPIN. -/
def execUnpin (n : Fin 4096) (s : State) : Out :=
  .next (s.jormon n.val (fun x => x.op = 0x13) fun c x s => s.onDev fun d => d.unpinCmd n.val c x)

/-- GATE_SIGNAL: its signals are those of its completion (R162). -/
def execGateSignal (n : Fin 4096) (s : State) : Out :=
  .next (s.jormon n.val (fun x => x.op = 0x20) fun _ x s => s.onDev fun d => d.endCmd n.val x.seq .completed [])

/-- GATE_WAIT: it is dispatched, and completes, when its conditions hold. -/
def execGateWait (n : Fin 4096) (s : State) : Out :=
  .next (s.jormon n.val (fun x => x.op = 0x21) fun _ x s => s.onDev fun d => d.endCmd n.val x.seq .completed [])

/-- FENCE (Table 6.13): it completes once every earlier command has ended. -/
def execFence (n : Fin 4096) (s : State) : Out :=
  .next ((s.jormon n.val (fun x => x.op = 0x22) fun _ _ s => s).behind n.val 0x22
    fun _ x s => s.onDev fun d => d.endCmd n.val x.seq .completed [])

/-- STEP_MARK (R178). -/
def execStepMark (n : Fin 4096) (s : State) : Out :=
  .next ((s.jormon n.val (fun x => x.op = 0x30) fun _ _ s => s).behind n.val 0x30 fun c x s => s.commitStep n.val c x)

end Sys2Proof.Machine
end

