-- ==== Sys2Proof/Machine/Run.lean ====
section
/-!
DEFINITION. Parts on their engines: start, the tensor commands, the launch of kernels and the commit (R129 to R132, R143,
R146 to R148, R159, R165, R168, R172 to R174).
-/

namespace Sys2Proof.Machine

/-! ### The planes of a part. -/

/-- The first address among extents that a part cannot reach, with its access and what it reaches. -/
def Dev.planeStop (d : Dev) (uid : Nat) (reads writes : List (Nat × Nat)) : Option (Nat × Nat × Place) :=
  let all : List (Nat × Nat × Nat) := reads.map (fun x => (0, x)) ++ writes.map fun x => (1, x)
  all.findSome? fun x => (d.firstBad uid x.1 x.2.1 x.2.2).map fun y => (x.1, y.1, y.2)

/-- Poisoned lines among extents that a part reads: line and address. -/
def State.poisoned (s : State) (uid : Nat) (xs : List (Nat × Nat)) : List (Nat × Nat) :=
  if s.mem.poison.isEmpty then []
  else
    (xs.flatMap fun x => (List.range x.2).filterMap fun k =>
      if s.vbad uid (x.1 + k) then
        match s.dev.place uid 0 (x.1 + k) with
        | .phys pa => some (pa / 128, x.1 + k)
        | _ => none
      else none).foldl (fun l y => if l.any (fun z => z.1 = y.1) then l else l ++ [y]) []

/-- What poisoned lines among what a part reads lead to (R286): the flag says that it goes on. -/
def State.poisonReads (s : State) (uid : Nat) (l : List (Nat × Nat)) : State × Bool :=
  match l with
  | [] => (s, true)
  | x :: t =>
    let h := s.poisonRead uid x.1 x.2
    if h.2 then h.1.poisonReads uid t else h

/-! ### The retry ledger (R172). -/

/-- Virtual lines of a part's overlap. -/
def overlapLines (b : Bytes) (k : PartKind) : List Nat :=
  let io := ioSpans b k
  io.1.flatMap fun i => io.2.flatMap fun o =>
    let x := lineIv i
    let y := lineIv o
    (List.range (min x.2 y.2 - max x.1 y.1)).map fun j => max x.1 y.1 + j

/-- Copies lines that a part is about to write into its ledger, once. A poisoned line has no content to keep. -/
def State.keepLines (s : State) (uid : Nat) (vlines : List Nat) : State :=
  vlines.foldl (fun s v =>
    match s.dev.place uid 0 (v * 128) with
    | .phys pa =>
      if s.bad pa then s
      else
        let bs := s.readPa (pa / 128 * 128) 128
        s.onDev fun d => d.modPart uid fun p => p.keep (pa / 128) bs
    | _ => s) s

/-! ### Retained copies (R174). -/

/-- Physical lines of extents as a part reaches them. -/
def Dev.physLines (d : Dev) (uid : Nat) (xs : List (Nat × Nat)) : List Nat :=
  xs.flatMap fun x =>
    let v := lineIv x
    (List.range (v.2 - v.1)).filterMap fun k =>
      match d.place uid 0 ((v.1 + k) * 128) with
      | .phys pa => some (pa / 128)
      | _ => none

/-- Lines of the input references that carry RELEASE as a part reads them; `rows` are the rows that it reaches by list. -/
def Dev.releaseLines (d : Dev) (uid : Nat) (b : Bytes) (k : PartKind) (rows : List (Nat × Nat)) : List Nat :=
  let on (o : Nat) : Bool := bit (Ref.of b o).rfl 1
  let r (o : Nat) : Ref := pRef b k o
  match k with
  | .experts _ => if on 32 then d.physLines uid rows else []
  | .sources _ => if on 32 then d.physLines uid rows else []
  | .dests _ _ => []
  | .kernel => []
  | .whole => if on 32 then d.physLines uid ((r 32).extents 0 (r 32).lines) else []
  | k =>
    match k.span with
    | none => []
    | some (lo, hi) =>
      let a : List (Nat × Nat) := if !on 32 then [] else
        match dOp b with
        | 8 => (List.range (r 32).n3).flatMap fun i => (r 32).extents (i * (r 64).lines + lo) (i * (r 64).lines + hi)
        | 9 => []
        | _ => (r 32).extents lo hi
      let w : List (Nat × Nat) := if !((dOp b = 1 || dOp b = 2) && on 64) then [] else
        (usedBatches (r 64) (r 96) lo hi).flatMap fun j => (r 64).extents (j * (r 64).n1) ((j + 1) * (r 64).n1)
      d.physLines uid (a ++ w)

/-- Notes the lines that a part reads under RELEASE, each with one RETAIN_MISS where no copy of the context on the engine holds it
(R174, log 21). -/
def Dev.noteReleases (d : Dev) (uid : Nat) (b : Bytes) (rows : List (Nat × Nat)) : Dev :=
  match d.getPart uid with
  | none => d
  | some p =>
    let ls := d.releaseLines uid b p.kind rows
    (d.countCtx p.ctx 0x11 (ls.filter fun l => ((d.getEng (eIdx p.eng)).copyOf p.ctx l).isNone).length).modPart uid fun p =>
      { p with released := ls }

/-- Bytes of retained copies. -/
def Retained.size (r : Retained) : Nat := 128 * r.lines.length

/-- Drops the oldest copies while they take more than a limit. -/
def dropOld (fuel limit : Nat) (l : List Retained) : List Retained :=
  match fuel, l with
  | fuel + 1, _ :: t => if limit < (l.map Retained.size).sum then dropOld fuel limit t else l
  | _, l => l

/-- Drops the oldest copies on the engines that share a physical one while together they take more than a limit (R173, R174). -/
def Dev.trimRetained (d : Dev) (es : List Nat) (limit : Nat) : Dev :=
  let all := sortKey ((es.flatMap fun e => (d.getEng e).retained).map fun r => (r.order, r))
  let kept := dropOld all.length limit all
  if kept.length = all.length then d
  else es.foldl (fun d e => d.modEng e fun x => { x with retained := x.retained.filter fun r => kept.any fun k => k.order = r.order }) d

/-! ### PART_START (R159, R173, R208). -/

/-- Whether an engine runs: its supply and clocks are on, and it is not isolated (R418, R444). -/
def Dev.engineOn (d : Dev) (e : EngId) : Bool :=
  let x := d.getEng (eIdx e)
  x.power = .running && !(d.getTerr e.t.val).pllOff && x.isolated.isNone && !x.absent

/-- Whether every object that a part's own planes name is RESIDENT (R159, R208). -/
def Dev.partReady (d : Dev) (uid : Nat) : Bool :=
  match d.getPart uid with
  | none => false
  | some p =>
    match d.getCtx p.ctx, d.getCmd p.ctx p.seq with
    | some c, some x => c.rollDue.isNone && (d.getPt c.pt).alarm.isNone &&
        (partObjs x.desc p.kind x.segs).all fun o => match d.getObj c.pt o with | some k => k.res = .resident | none => false
    | _, _ => false

/-- Cistern bytes that the executing parts of engines hold. -/
def Dev.cisternUsed (d : Dev) (es : List Nat) : Nat :=
  (es.flatMap fun e => (d.getEng e).executing.map fun u =>
    match d.getPart u with | some p => p.work + p.ledger | none => 0).sum

/-- Cistern bytes that the executing parts of engines hold with their prefetch space, but for one part. -/
def Dev.cisternHeld (d : Dev) (es : List Nat) (but : Nat) : Nat :=
  (es.flatMap fun e => ((d.getEng e).executing.filter fun u => u ≠ but).map fun u =>
    match d.getPart u with | some p => p.work + p.ledger + p.extra | none => 0).sum

/-- The cistern (Table 1.1). -/
def cisternSize : Nat := 48 * 2 ^ 20

/-- Bytes of retained copies on engines. -/
def Dev.retainedUsed (d : Dev) (es : List Nat) : Nat := (es.flatMap fun e => (d.getEng e).retained.map Retained.size).sum

/-- Prefetch space of a part that starts with nothing waiting behind it: a GEMM takes what is free, up to 40 MiB with its minimum (R173). -/
def prefetch (b : Bytes) (waiting : Bool) (work free : Nat) : Nat :=
  if (dOp b = 1 ∨ dOp b = 2) ∧ !waiting then min (40 * 2 ^ 20 - work) free else 0

/-- The first ready part of an engine starts where it finds a place and its space; parts that hold prefetch space give it back (R173). -/
def State.partStart (s : State) (e : EngId) : State :=
  let i := eIdx e
  let es := s.dev.sharers e
  match (s.dev.getEng i).queue.find? fun u => s.dev.partReady u with
  | none => s
  | some u =>
    match s.dev.getPart u with
    | none => s
    | some p =>
      let need := p.work + p.ledger + s.dev.cisternUsed es
      if !s.dev.engineOn e ∨ (s.pow.getDom e.t.val).partHold ∨ 4 ≤ (es.map fun k => (s.dev.getEng k).executing.length).sum
          ∨ cisternSize < need then s
      else
        let b := s.dev.descOf u
        let objs := match s.dev.getCmd p.ctx p.seq with | some x => partObjs b p.kind x.segs | none => []
        s.onDev fun d =>
          let d := d.trimRetained es (cisternSize - need)
          let d := es.foldl (fun d k => (d.getEng k).executing.foldl (fun d v => d.modPart v fun q => { q with extra := 0 }) d) d
          let d := d.modEng i fun x => { x with queue := x.queue.filter (fun q => q ≠ u), executing := x.executing ++ [u], idleArr := 0 }
          let waiting := es.any fun k => !(d.getEng k).queue.isEmpty
          let more := prefetch b waiting p.work (cisternSize - need - d.retainedUsed es)
          let d := d.modPart u fun p => { p with stage := .executing, extra := more }
          objs.foldl (fun d o => d.usePin u o) d

/-! ### A part computes. -/

/-- Adds counts to an attempt. -/
def Part.addCnt (p : Part) (n : Cnt) : Part :=
  { p with counts := n.toMap.foldl (fun m x => Map.addSat m x.1 x.2 max64) p.counts }

/-- What a part reaches: the extents that its planes name, read and written, and the rows that it reads by list (R263). -/
structure PartIo where
  reads  : List (Nat × Nat) := []
  writes : List (Nat × Nat) := []
  rows   : List (Nat × Nat) := []

/-- The rows of a gather stream by granule, as reads. -/
def rowPages (rows : List (Nat × Nat)) : List (Nat × Nat) := (rows.flatMap fun x => (pages x.1 x.2).map fun va => (0, va)).eraseDups

/-- A part is about to read its inputs: the lines of its overlap are kept, and those that it reads under RELEASE are noted (R172, R174). -/
def State.prepare (s : State) (uid : Nat) (p : Part) (b : Bytes) (rows : List (Nat × Nat)) : State :=
  (s.keepLines uid (overlapLines b p.kind)).onDev fun d => d.noteReleases uid b rows

/-- The run of a part that executes and has not computed, in the sequencer's turn of the mover (R134): what it reads and writes is reached,
poison is dealt with, the lines of its overlap are kept, and its outputs are formed. -/
def State.runPart (s : State) (uid : Nat) (mine : Part → Bytes → Bool) (io : State → Nat → Part → Bytes → PartIo)
    (f : Part → Bytes → State → State) : State :=
  match s.dev.getPart uid with
  | none => s
  | some p =>
    let b := s.dev.descOf uid
    let e := eIdx p.eng
    if p.stage = .executing ∧ !p.ran ∧ mine p b ∧ s.dev.engineOn p.eng ∧ (p.kind = .kernel ∨ s.dev.seqTurn e) ∧ !p.xl.held then
      let x := io s uid p b
      match s.dev.planeStop uid x.reads x.writes with
      | some (access, va, pl) => s.stopAt e uid access va pl
      | none =>
        let g := s.xlate e uid p.xl (rowPages x.rows)
        let s := g.1.onDev fun d => d.modPart uid fun p => { p with xl := g.2.1 }
        if !g.2.2 then s
        else
          let h := s.poisonReads uid (s.poisoned uid (x.reads ++ x.rows))
          let s := if p.kind = .kernel then h.1 else h.1.onDev fun d => d.modEng e fun y => { y with movSeq := true }
          if h.2 then f p b (s.prepare uid p b x.rows) else s
    else s

/-- Planes of a part. -/
def planeIo (_ : State) (_ : Nat) (p : Part) (b : Bytes) : PartIo := { reads := partIn b p.kind, writes := partOut b p.kind }

/-- The run of a part that covers lines, or a run of dimension 0 of them. -/
def State.runLines (s : State) (uid : Nat) (mine : Bytes → Bool) (f : (Nat → Ref) → Bytes → Nat → Nat → State → State) : State :=
  s.runPart uid (fun p b => mine b && !p.begun) planeIo fun p b s =>
    match p.kind.span with
    | some (lo, hi) => f (pRef b p.kind) b lo hi s
    | none => s

/-- The part has computed its outputs and issued its writes. -/
def State.ranPart (s : State) (uid : Nat) : State :=
  let s := s.onDev fun d => d.modPart uid fun p => { p with ran := true }
  match s.dev.getPart uid with | some p => s.progressed (eIdx p.eng) | none => s

/-- Sends one converted line. -/
def State.sendLine (s : State) (uid : Nat) (r : Ref) (l : Nat) (el sc : Bytes) : State :=
  (s.vsend uid (r.lineVa l) el).vsend uid (r.scaleVa l) sc

/-- Converts and sends lines of numbers; a KQ32 output is zeroed where any of it drew on poison, and its E8 waits for the part
that commits last (R49). -/
def State.putRows (s : State) (uid : Nat) (r : Ref) (conv : Nat) (rows : List (Nat × List Num)) : State :=
  let z := if r.fmt = 9 then zeroIfPoisoned (rows.map fun x => x.2) else (rows.map fun x => x.2, false)
  let s := (rows.map fun x => x.1).zip z.1 |>.foldl (fun s x =>
    let w := writeLine r.fmt (Conv.of conv) x.2 s.dev.free
    let s := (s.onDev fun d => d.modPart uid fun p => p.addCnt w.2.2).took w.2.2.draws
    s.sendLine uid r x.1 w.1 w.2.1) s
  if r.fmt = 9 then s.onDev fun d => d.modPart uid fun p => { p with drew := z.2, tail := some (r.sva, (Conv.of conv).pe) } else s

/-! ### GEMM, GEMM_T (R54, R63, R65, R143). -/

/-- Numbers of a line as operand positions. -/
def opElems (f : Nat) (row : List Num) : List OpElem :=
  row.zipIdx.map fun x =>
    { q := x.1.m, e := if x.1.poison then none else some x.1.e, grp := if fmtBlock f = 0 then 0 else x.2 / fmtBlock f }

/-- One line of the output: values and truncation events. -/
def gemmLine (t : Bool) (wf af of' n : Nat) (ws : List (List OpElem)) (a : List OpElem) (fr : Nat) : List Num × Nat :=
  let outs := (List.range n).map fun j =>
    let w := if t then ws.map fun r => r.getD j { q := 0, e := some 0, grp := 0 } else ws.getD j []
    dotProduct wf af t (32 * peP wf) (w.zip a) (of' = 10) (fr + j)
  (outs.map fun o => o.1.num, (outs.map fun o => o.2).sum)

/-- All lines of a GEMM part. Each line of A is read once, and each line of W once for the lines that share it (log 22). -/
def State.gemmRun (s : State) (uid : Nat) (t : Bool) (r : Nat → Ref) (b : Bytes) (lo hi : Nat) : State :=
  let a := r 32
  let w := r 64
  let o := r 96
  let fr := s.dev.free
  let lines := (List.range (hi - lo)).map fun k => lo + k
  let wl := (usedBatches w o lo hi).map fun k => (k, (List.range w.n1).map fun j => s.refLine uid w (j + w.n1 * k))
  let al := lines.map fun l => (l, s.refLine uid a l)
  let cnt : Cnt := (wl.flatMap fun k => k.2.map fun x => x.2).foldl Cnt.add ((al.map fun x => x.2.2).foldl Cnt.add {})
  let rows := al.map fun x =>
    let ws := match Map.find wl (gemmBatch w o x.1) with | some l => l.map fun y => opElems w.fmt y.1 | none => []
    (x.1, gemmLine t w.fmt a.fmt o.fmt o.n0 ws (opElems a.fmt x.2.1) (fr + (x.1 - lo) * o.n0))
  let s := (s.onDev fun d => d.modPart uid fun p => (p.addCnt cnt).addCnt { trunc := (rows.map fun r => r.2.2).sum }).took
    ((hi - lo) * o.n0)
  (s.putRows uid o (field b 2 2) (rows.map fun r => (r.1, r.2.1))).ranPart uid

/-! ### CONVERT, COPY, FILL (R30, R41, R147, R148, R285). -/

def State.convertRun (s : State) (uid : Nat) (q : Nat → Ref) (b : Bytes) (lo hi : Nat) : State :=
  let r := q 32
  let rows := (List.range (hi - lo)).map fun k => (lo + k, s.refLine uid r (lo + k))
  let s := s.onDev fun d => d.modPart uid fun p => p.addCnt ((rows.map fun x => x.2.2).foldl Cnt.add {})
  (s.putRows uid (q 64) (field b 2 2) (rows.map fun x => (x.1, x.2.1))).ranPart uid

/-- Whether a scale group of a line touches poison: the one group of a KQ32 tensor does wherever any of the tensor is struck (R40, R285). -/
def State.groupBad (s : State) (uid : Nat) (r : Ref) (l g : Nat) : Bool :=
  if r.fmt = 9 then s.tensorBad uid r
  else
    let sp := elemSpan r.fmt (groupSpan r.fmt r.n0 g).1 (groupSpan r.fmt r.n0 g).2
    s.vbad uid (r.scaleVa l + g) || (List.range sp.2).any fun k => s.vbad uid (r.lineVa l + sp.1 + k)

/-- The bytes of a line that is moved unchanged: those of the element plane and of the scale plane. A group that touches poison
arrives with E8 0x80 (every part of a KQ32 tensor sends the same), a KA96 element with POISON; a byte of the element plane that is not used is free (log 5). -/
def State.movedLine (s : State) (uid : Nat) (r : Ref) (l : Nat) : Bytes × Bytes :=
  let a := r.lineVa l
  let n := lineBytes r.fmt r.n0
  if s.mem.poison.isEmpty then
    ((List.range n).map fun k => s.vbyte uid (a + k),
     if r.fmt = 9 then [s.vbyte uid r.sva] else (List.range (lineScales r.fmt r.n0)).map fun k => s.vbyte uid (r.scaleVa l + k))
  else if r.fmt = 10 then
    ((List.range n).map fun k =>
      if (List.range 16).any fun j => s.vbad uid (a + k / 16 * 16 + j) then (if k % 16 = 14 then 2 else 0) else s.vbyte uid (a + k), [])
  else
    ((List.range n).map fun k => if s.vbad uid (a + k) then Config.freeByte (s.dev.free + k) else s.vbyte uid (a + k),
     if r.fmt = 9 then [if s.groupBad uid r l 0 then 0x80 else s.vbyte uid r.sva]
     else (List.range (lineScales r.fmt r.n0)).map fun g => if s.groupBad uid r l g then 0x80 else s.vbyte uid (r.scaleVa l + g))

/-- Where the scale bytes of a line stand. -/
def Ref.scaleAt (r : Ref) (l : Nat) : Nat := if r.fmt = 9 then r.sva else r.scaleVa l

def State.copyRun (s : State) (uid : Nat) (q : Nat → Ref) (lo hi : Nat) : State :=
  let r := q 32
  let d := q 64
  let rows := (List.range (hi - lo)).map fun k => (lo + k, s.movedLine uid r (lo + k))
  let s := s.took (if s.mem.poison.isEmpty then 0 else lineBytes r.fmt r.n0)
  (rows.foldl (fun s x => (s.vsend uid (d.lineVa x.1) x.2.1).vsend uid (d.scaleAt x.1) x.2.2) s).ranPart uid

/-- The bytes of a filled line (R148). -/
def fillLine (r : Ref) (b : Bytes) : Bytes × Bytes :=
  if r.fmt = 10 then ((List.range r.n0).flatMap fun _ => sub b 64 16, [])
  else (packCodes r.fmt ((List.range r.n0).map fun _ => signed 32 (field b 64 4)),
        (List.range (if r.fmt = 9 then 1 else lineScales r.fmt r.n0)).map fun _ => b.getD 68 0)

def State.fillRun (s : State) (uid : Nat) (q : Nat → Ref) (b : Bytes) (lo hi : Nat) : State :=
  let r := q 32
  let w := fillLine r b
  ((List.range (hi - lo)).foldl (fun s k => (s.vsend uid (r.lineVa (lo + k)) w.1).vsend uid (r.scaleAt (lo + k)) w.2) s).ranPart uid

/-! ### COPY with HOST_DST (R147, R349, R357). -/

/-- Pieces of an export by source address, host address and length. An address from 2^60 on stands for a literal byte: a byte
that poison spoils. -/
def State.exportBytes (s : State) (uid va iova : Nat) (bs : Bytes) (plain : Bool) : List (Nat × Nat × Nat) :=
  if plain then
    (pages va bs.length).map fun p =>
      let k := p - va
      let n := min bs.length ((p / granule + 1) * granule - va) - k
      (match s.dev.place uid 0 p with | .phys pa => pa | _ => 2 ^ 60, iova + k, n)
  else bs.zipIdx.map fun x => (2 ^ 60 + x.1.toNat, iova + x.2, 1)

/-- The export of a part joins the outflow of the attachment, or the part fails where the attachment's link is down and no ATTACH
is in force. -/
def State.hostRun (s : State) (uid : Nat) (q : Nat → Ref) (b : Bytes) (lo hi : Nat) : State :=
  let r := q 32
  let d := q 64
  let a := field b 112 1
  let x := s.dev.getAtt a
  if !x.dlActive ∧ x.token.isNone then s.failPart uid stAttLost
  else
    let src := (List.range (hi - lo)).flatMap fun k =>
      let l := lo + k
      let w := s.movedLine uid r l
      let plain := !(List.range w.1.length).any (fun j => s.vbad uid (r.lineVa l + j))
        && !(List.range (lineScales r.fmt r.n0)).any fun g => s.groupBad uid r l g
      s.exportBytes uid (r.lineVa l) (field b 96 8 + (d.lineVa l - d.wva)) w.1 plain
        ++ s.exportBytes uid (r.scaleAt l) (field b 104 8 + (d.scaleAt l - (Ref.of b 64).sva)) w.2 plain
    ((s.onDev fun y => y.modAtt a fun x => { x with items := x.items ++ [.exportOf uid src false] }).took
      (if s.mem.poison.isEmpty then 0 else lineBytes r.fmt r.n0)).ranPart uid

/-! ### Partials at a destination (R68 to R70, R198). -/

/-- A line rounded under a conversion control, held as codes and exponents; into KA96 as it stands. -/
def roundLine (f conv : Nat) (xs : List Num) (fr : Nat) : List Acc × Cnt :=
  if f = 10 then (xs.map Acc.ofNum, { stick := (xs.filter fun x => x.sticky && !x.poison).length })
  else
    let n := if fmtBlock f = 0 then xs.length else fmtBlock f
    (chunks xs.length n xs).foldl (fun (r : List Acc × Cnt) g =>
      let o := convGroup f (Conv.of conv) g (fr + r.2.draws)
      (r.1 ++ o.2.1.map (fun q => { a := q, w := o.1.toInt, empty := false, poison := o.1 = 0x80#8 }), r.2.add o.2.2)) ([], {})

/-- A later partial is added to each value held: the sums and the truncation events. -/
def addPartial (held vals : List Acc) : List Acc × Nat :=
  let r := (held.zip vals).map fun x => x.1.merge x.2.num
  (r.map fun x => x.1, (r.map fun x => x.2).sum)

/-- A partial lands (R68, R69): `ka` says that partials are KA96. -/
def landPartial (ka : Bool) (f conv : Nat) (held : Option (List Acc)) (vals : List Acc) (fr : Nat) : List Acc × Cnt :=
  match held with
  | none => (if ka then vals.map fun v => Acc.ofNum v.num else vals, {})
  | some h =>
    let r := addPartial (if ka then h else h.map fun v => Acc.ofNum v.num) vals
    if ka then (r.1, { trunc := r.2 })
    else
      let w := roundLine f conv (r.1.map Acc.num) fr
      (w.1, w.2.add { trunc := r.2 })

/-- The bytes of a line held in the output format. -/
def heldBytes (f : Nat) (h : List Acc) : Bytes × Bytes :=
  if f = 10 then (h.flatMap fun x => ka96Bytes x.num, [])
  else
    let n := if fmtBlock f = 0 then h.length else fmtBlock f
    (packCodes f (h.map fun x => if x.poison then 0 else x.a),
     if f = 9 then [] else (chunks h.length n h).map fun g =>
       match g with | x :: _ => if x.poison then 0x80 else BitVec.ofInt 8 x.w | [] => 0)

/-- The value held at the start of ADD_DST: what stands in the output. -/
def State.startHeld (s : State) (uid : Nat) (r : Ref) (b : Bytes) (lo hi : Nat) : State :=
  if !dAdd b then s
  else
    let rows := (List.range (hi - lo)).map fun k => (lo + k, s.refLine uid r (lo + k))
    let cnt : Cnt := (rows.map fun x => x.2.2).foldl Cnt.add {}
    s.onDev fun d => d.modPart uid fun p => Part.addCnt { p with held := rows.map fun x => (x.1, x.2.1.map Acc.ofNum) } cnt

/-- A partial arrives at its destination part and is added to the value held (R68, R69, R198); one whose slot is held already is
discarded. -/
def State.landOne (s : State) (uid which : Nat) : State :=
  match s.dev.getPart uid with
  | none => s
  | some p =>
    match p.coming[which]? with
    | none => s
    | some c =>
      let b := s.dev.descOf uid
      let r := pRef b p.kind 64
      if bit (Map.get p.masks c.row 0) c.slot then
        s.onDev fun d => d.modPart uid fun p => { p with coming := p.coming.eraseIdx which }
      else
      let w := landPartial (dKa b) r.fmt (field b 2 2) (Map.find p.held c.row) c.vals s.dev.free
      (s.onDev fun d => d.modPart uid fun p => Part.addCnt
        { p with held := Map.put p.held c.row w.1, masks := Map.put p.masks c.row (Map.get p.masks c.row 0 + 2 ^ c.slot),
                 coming := p.coming.eraseIdx which } w.2).took w.2.draws

/-- A destination part writes its rows once every partial has landed; KA96 partials are rounded now, once (R69). -/
def State.finishDest (s : State) (uid : Nat) (rows : List Nat) : State :=
  match s.dev.getPart uid with
  | none => s
  | some p =>
    let b := s.dev.descOf uid
    let r := pRef b p.kind 64
    let hs := rows.map fun l => (l, Map.get p.held l [])
    if dKa b then (s.putRows uid r (field b 2 2) (hs.map fun h => (h.1, h.2.map Acc.num))).ranPart uid
    else
      let drew := hs.any fun h => h.2.any fun x => x.poison
      let hs := if r.fmt = 9 ∧ drew then hs.map fun h => (h.1, h.2.map fun _ => ({ a := 0, empty := false } : Acc)) else hs
      let s := hs.foldl (fun s h => let w := heldBytes r.fmt h.2; s.sendLine uid r h.1 w.1 w.2) s
      let s := if r.fmt = 9 then
          s.onDev fun d => d.modPart uid fun p => { p with drew := drew, tail := some (r.sva, (Conv.of (field b 2 2)).pe) }
        else s
      s.ranPart uid

/-! ### REDUCE (R146). -/

/-- The slices of a REDUCE part set out for its lines, each rounded once, or unrounded as KA96. -/
def State.reduceRun (s : State) (uid : Nat) (q : Nat → Ref) (b : Bytes) (lo hi : Nat) : State :=
  let r := q 32
  let d := q 64
  let todo := (List.range (hi - lo)).flatMap fun k => (List.range r.n3).map fun i => (lo + k, i)
  let s := (s.startHeld uid d b lo hi).onDev fun y => y.modPart uid fun p => { p with begun := true }
  todo.foldl (fun s x =>
    let l := s.refLine uid r (x.1 + d.lines * x.2)
    let v : List Acc × Cnt := if dKa b then (l.1.map Acc.ofNum, {}) else roundLine d.fmt (field b 2 2) l.1 s.dev.free
    (s.onDev fun y => y.modPart uid fun p =>
      (Part.addCnt { p with coming := p.coming ++ [{ row := x.1, slot := x.2, vals := v.1 }] } l.2).addCnt v.2).took v.2.draws) s

/-! ### KERNEL launch (R101, R104, R120, R129). -/

/-- The launch block (Table 5.17). -/
def launchBlock (p : Part) (parts k : Nat) (b : Bytes) : Bytes :=
  leBytes 2 p.ctx ++ leBytes 1 k ++ leBytes 1 20 ++ leBytes 1 p.eng.e.val ++ leBytes 1 p.eng.t.val ++ leBytes 2 0
    ++ leBytes 4 p.idx ++ leBytes 4 parts ++ leBytes 4 0 ++ leBytes 4 (field b 56 4) ++ leBytes 8 (field b 64 8)
    ++ leBytes 8 (field b 72 8) ++ leBytes 8 (field b 32 8) ++ leBytes 4 (field b 44 2) ++ leBytes 12 0

/-- A cluster as the sequencer prepares it: accumulators and the rest of the cup stay undefined or as they were. -/
def Cluster.launch (c : Cluster) (uid : Nat) (p : Part) (parts k : Nat) (b args : Bytes) (fr : Nat) : Cluster :=
  let base : Word := BitVec.ofNat 64 (2 ^ 63)
  { c with
    run := .running, part := some uid, pc := BitVec.ofNat 64 (field b 32 8 + field b 40 4)
    x := [(1, Config.exitAddress), (2, base + 0x1FC000), (10, base + 0x1FC000), (11, BitVec.ofNat 64 k), (12, 20),
      (13, base + 0x1FD000)]
    v := [], sew := 8, lmul := 0, vl := 0, vstart := 0, vta := false, vma := false, vill := false, kqcvt := 0, stall := .none
    fetched := none, tickets := 0, arrq := [], rampRun := 0, bank := []
    bankOpen := some (fr + k), tags := 0, movs := [], mergeLost := [], bars := 0, instret := 0, ccHits := 0, ccMisses := 0
    ccBlocked := 0, movBytes := 0, counts := [], draws := 0
    cup := Mem.write (Mem.write (Mem.zero c.cup 0x1FC000 0x2000) 0x1FC000 (launchBlock p parts k b)) 0x1FD000 args }

/-- Extents that a launch reads, and the lines of the atomic extent that the ledger keeps. -/
def kernelIo (_ : State) (_ : Nat) (_ : Part) (b : Bytes) : PartIo :=
  { reads := [(field b 48 8, field b 44 2), (field b 64 8, field b 72 8)].filter fun x => x.2 ≠ 0 }

/-- A launch: on the 20 clusters of the engine, one KERNEL at a time (R130). -/
def State.launch (s : State) (uid : Nat) (p : Part) (b : Bytes) : State :=
  let e := eIdx p.eng
  let busy := (List.range 20).any fun k => (s.dev.getCl (20 * e + k)).part.isSome
  if busy then s
  else
    let lines := lineIv (field b 64 8, field b 72 8)
    let s := if p.saved.isEmpty then s.keepLines uid ((List.range (lines.2 - lines.1)).map fun k => lines.1 + k) else s
    let bad := !s.mem.poison.isEmpty
    let args := (List.range (field b 44 2)).map fun k =>
      if bad && s.vbad uid (field b 48 8 + k) then Config.freeByte (s.dev.free + k) else s.vbyte uid (field b 48 8 + k)
    let parts := match s.dev.getCmd p.ctx p.seq with | some x => x.parts.length | none => 0
    let fr := s.dev.free
    let now := (s.dev.getTerr p.eng.t.val).arr
    let s := s.onDev fun d =>
      let d := (d.modPart uid fun q => { q with since := now }).modEng e fun x => { x with
        cc := if bit (field b 47 1) 0 then x.cc.filter (fun l => l.2.instr) else [], ccFill := none, ccQueue := [], merges := [] }
      (List.range 20).foldl (fun d k => d.modCl (20 * e + k) fun c => c.launch uid p parts k b args fr) d
    (s.took (20 + field b 44 2)).ranPart uid

/-! ### PART_COMMIT (R121, R130, R165, R166, R174, R463). -/

/-- Whether writes of a part are still on their way, or its export. -/
def State.partBusy (s : State) (uid : Nat) : Bool :=
  (s.mem.flight.any fun w => w.from' = .part uid || w.from' = .ccWb uid)
    || s.dev.atts.any fun a => a.2.items.any fun i => match i with | .exportOf u _ _ => u = uid | _ => false

/-- Whether every cluster of a KERNEL part has exited. -/
def Dev.allExited (d : Dev) (uid : Nat) (e : Nat) : Bool :=
  (List.range 20).all fun k => let c := d.getCl (20 * e + k); c.part = some uid && c.run = .exited

/-- What the ABSORBED event of a part says (R463). -/
def State.absorbedEvent (s : State) (p : Part) : State :=
  match p.absorbed with
  | none => s
  | some (level, cls, spare) =>
    (s.event p.ctx 2 cls p.seq (leBytes 1 level ++ leBytes 1 p.eng.t.val ++ leBytes 1 p.eng.e.val ++ leBytes 1 (if spare then 1 else 0))).onDev
      fun d => d.countCtx p.ctx 0x1C 1

/-- Retained copies begin with the lines that a part wrote; at most 16 MiB an engine, in cistern space that no other part holds (R173, R174, log 21). -/
def State.retain (s : State) (uid : Nat) (p : Part) (b : Bytes) : State :=
  if (dOuts b).any fun o => bit (Ref.of b o).rfl 0 then
    let now := p.wrote.flatMap fun k => k.2.filterMap fun l => s.dev.keyLine k.1 l.1
    let r : Retained := { ctx := p.ctx, lines := now.map fun l => (l, s.readPa (l * 128) 128), order := s.dev.serial }
    s.onDev fun d => Dev.trimRetained { d.modEng (eIdx p.eng) (fun x => { x with retained := x.retained ++ [r] }) with serial := d.serial + 1 }
      (d.sharers p.eng) (min (16 * 2 ^ 20) (cisternSize - d.cisternHeld (d.sharers p.eng) uid))
  else s

/-- A part whose input carried RELEASE drops the copies it read (R174). -/
def Dev.dropRead (d : Dev) (p : Part) : Dev :=
  if p.released.isEmpty then d
  else d.modEng (eIdx p.eng) fun x => { x with retained := x.retained.map fun r =>
    if r.ctx = p.ctx then { r with lines := r.lines.filter fun l => !has p.released l.1 } else r }

/-- The one E8 of a KQ32 output, written by the part that commits last (R49). -/
def State.writeTail (s : State) (uid : Nat) (p : Part) : State :=
  match p.tail, s.dev.getCmd p.ctx p.seq with
  | some (va, pe), some x =>
    let others := (s.dev.partsOf x).filter fun q => q.1 ≠ uid && match q.2.kind with | .sources _ => false | _ => true
    if others.all fun q => q.2.stage = .committed then
      s.vwrite uid va [if p.drew || others.any (fun q => q.2.drew) then 0x80 else pe]
    else s
  | _, _ => s

/-- What a kernel leaves at its commit: its dirty lines, which have passed their checks, are written back, its counts are taken. -/
def State.kernelEnd (s : State) (uid : Nat) (p : Part) : State :=
  if p.kind ≠ .kernel then s
  else
    let e := eIdx p.eng
    let s := s.ccClean e fun l => l.2.dirty ≠ 0
    s.onDev fun d => (List.range 20).foldl (fun d k =>
      let c := d.getCl (20 * e + k)
      d.modPart uid fun p => { p with counts := c.counts.foldl (fun m x => Map.addSat m x.1 x.2 max64) p.counts }) d

/-- What else happens at the commit of the last part of a command: plan pins that a COMBINE covers are released (R191). -/
def Dev.unplan (d : Dev) (n : Nat) (b : Bytes) : Dev :=
  if dOp b ≠ 5 then d
  else
    let lo := field b 116 4 + field b 112 2
    d.modCtx n fun c => { c with planPins := c.planPins.filter fun o => ¬ (lo ≤ o.1 ∧ o.1 < lo + field b 114 2) }

/-- Whether a part is ready to commit: it has run, every write is at its home, and a kernel's clusters have exited (R130, R165). -/
def State.canCommit (s : State) (uid : Nat) (p : Part) : Bool :=
  p.stage = .executing && p.ran && !s.partBusy uid && (p.kind ≠ .kernel || s.dev.allExited uid (eIdx p.eng))

/-- The checks of the dirty lines that a kernel's commit writes back (R107): the flag says that no fault arose. -/
def State.commitChecks (s : State) (p : Part) (chks : List (Nat × Check)) : State × Bool :=
  if p.kind = .kernel then s.ccChecks (eIdx p.eng) (fun l => l.2.dirty ≠ 0) chks else (s, true)

/-- A part commits; `pre` acts for its opcode before the gates of the command are signalled (R190). -/
def State.commitPart (s : State) (uid : Nat) (chks : List (Nat × Check)) (pre : Part → Bytes → State → State) : State :=
  match s.dev.getPart uid with
  | none => s
  | some p =>
    let b := s.dev.descOf uid
    let chk := s.commitChecks p chks
    if !s.canCommit uid p then s
    else if !chk.2 then chk.1
    else
      let s := ((chk.1.kernelEnd uid p).writeTail uid p).retain uid p b
      let s := s.onDev fun d => d.dropRead p
      let cnt := match s.dev.getPart uid with | some q => q.counts | none => []
      let s := s.onDev fun d => (d.modCtx p.ctx fun c => { c with stats := c.stats.countAll cnt }).modEng (eIdx p.eng)
        fun x => { x with progress := 0 }
      let s := pre p b (s.absorbedEvent p)
      let s := s.onDev fun d => (d.releasePart uid).modPart uid fun q => { q with stage := .committed, saved := [], atoms := [] }
      match s.dev.getCmd p.ctx p.seq with
      | none => s
      | some x =>
        if x.state = .running ∧ (s.dev.partsOf x).all fun q => q.2.stage = .committed then
          let detail := match s.dev.getPart uid with | some q => q.detail.flatMap fun y => leBytes 4 y.2 | none => []
          s.onDev fun d => (d.endCmd p.ctx p.seq .completed detail).unplan p.ctx b
        else s

/-! ### Meanings. -/

/-- PART_START (R159). -/
def execPartStart (e : EngId) (s : State) : Out := .next (s.partStart e)

/-- GEMM (R143). -/
def execGemm (part : Nat) (s : State) : Out :=
  .next (s.runLines part (fun b => dOp b = 1) fun r b lo hi s => s.gemmRun part false r b lo hi)

/-- GEMM_T (R143). -/
def execGemmT (part : Nat) (s : State) : Out :=
  .next (s.runLines part (fun b => dOp b = 2) fun r b lo hi s => s.gemmRun part true r b lo hi)

/-- CONVERT (R147). -/
def execConvert (part : Nat) (s : State) : Out :=
  .next (s.runLines part (fun b => dOp b = 6) fun r b lo hi s => s.convertRun part r b lo hi)

/-- COPY (R147). -/
def execCopy (part : Nat) (s : State) : Out :=
  .next (s.runLines part (fun b => dOp b = 7 && !dHost b) fun r _ lo hi s => s.copyRun part r lo hi)

/-- COPY with HOST_DST (R147). -/
def execCopyHostDst (part : Nat) (s : State) : Out :=
  .next (s.runLines part dHost fun r b lo hi s => s.hostRun part r b lo hi)

/-- REDUCE (R146): its partials are set out; each lands by PARTIAL_LANDS. -/
def execReduce (part : Nat) (s : State) : Out :=
  .next (s.runLines part (fun b => dOp b = 8) fun r b lo hi s => s.reduceRun part r b lo hi)

/-- FILL (R148). -/
def execFill (part : Nat) (s : State) : Out :=
  .next (s.runLines part (fun b => dOp b = 9) fun r b lo hi s => s.fillRun part r b lo hi)

/-- KERNEL (R129): the launch on every cluster of the engine. -/
def execKernel (part : Nat) (s : State) : Out :=
  .next (s.runPart part (fun p _ => p.kind = .kernel) kernelIo fun p b s => s.launch part p b)

end Sys2Proof.Machine
end

