-- ==== Sys2Proof/Machine/Routed.lean ====
section
/-!
DEFINITION. Routed expert execution: ROUTE and its residency plan, DISPATCH, COMBINE, the landing of partials and the commit of
parts (R144, R145, R165, R179 to R200).
-/

namespace Sys2Proof.Machine

/-! ### Gate weights (R182). -/

/-- ln 2 in units of 2^-320. -/
def ln2 : Nat :=
  1480553391661173448385607439722553250922680800745876974795605978609098082859138712941075737848984

/-- e^-r in units of 2^-128 for r in units of 2^-128: the sum of the series from term i on. -/
def expSeries (fuel i : Nat) (term r : Int) : Int :=
  match fuel with
  | 0 => 0
  | fuel + 1 => term + expSeries fuel (i + 1) (-(term * r / (2 ^ 128 * (i + 1)))) r

/-- u_j in units of 2^-256 for a distance x below the largest logit in units of 2^-320: 0 where its exponent lies below -126. -/
def gateU (x : Nat) : Nat :=
  if 126 * ln2 < x then 0
  else (expSeries 60 0 (2 ^ 128) ((x % ln2) / 2 ^ 192 : Nat)).toNat * 2 ^ 128 / 2 ^ (x / ln2)

/-- A logit in units of 2^-127. -/
def logitKey (x : Num) : Int := x.m * 2 ^ (x.e + 127).toNat

/-- The weights of a set, in the order given: within a relative 2^-24 of their exact values (log 5). -/
def gateWeights (set : List (Nat × Num)) : List Num :=
  let keys := set.map fun x => logitKey x.2
  let top := keys.foldl max (keys.headD 0)
  let us := keys.map fun k => gateU ((top - k).toNat * 2 ^ 193)
  let arg := set.map fun x => (x.1, logitKey x.2)
  us.zipIdx.map fun u =>
    let noise : Int := Config.gateNoise arg u.2 % (2 ^ 29 - 3) - (2 ^ 28 - 2)
    { m := (u.1 * 2 ^ 200 / us.sum : Nat) * (2 ^ 52 + noise), e := -252 }

/-! ### ROUTE (R179 to R189). -/

/-- Inserts an expert into a ranking: highest logit first, lower index first among equals. -/
def rankIns (x : Nat × Num) (l : List (Nat × Num)) : List (Nat × Num) :=
  match l with
  | [] => [x]
  | y :: t => if logitKey y.2 < logitKey x.2 then x :: y :: t else y :: rankIns x t

/-- The ranking of a token's experts: none for a token that drew on poison (R179). -/
def ranking (row : List Num) : Option (List (Nat × Num)) :=
  if row.any fun x => x.poison then none else some (row.zipIdx.foldl (fun l x => rankIns (x.2, x.1) l) [])

/-- How a ROUTE stands: assignments by expert in the order made (token, slot), slot entries by 8 * token + slot, drops, moves. -/
structure RouteRun where
  lists   : List (Nat × List (Nat × Nat)) := []
  slots   : List (Nat × Nat) := []
  dropped : List (Nat × Nat × Nat × Nat) := []
  moved   : Nat := 0
deriving DecidableEq, Repr

def RouteRun.list (r : RouteRun) (e : Nat) : List (Nat × Nat) := Map.get r.lists e []

/-- Assigns slot `slot` of a token to an expert. -/
def RouteRun.assign (r : RouteRun) (t slot e mark : Nat) : RouteRun :=
  { r with lists := Map.put r.lists e (r.list e ++ [(t, slot)]), slots := Map.put r.slots (8 * t + slot) (mark + e) }

/-- Drops a slot with a reason. -/
def RouteRun.drop (r : RouteRun) (t slot e reason : Nat) : RouteRun :=
  { r with slots := Map.put r.slots (8 * t + slot) (0x8000 + e), dropped := r.dropped ++ [(t, slot, reason, e)] }

/-- One offer of a rank pass (R180, R181). -/
def RouteRun.offer (r : RouteRun) (cap policy k t slot : Nat) (order : List Nat) : RouteRun :=
  let e := order.getD slot 0
  if (r.list e).length < cap then r.assign t slot e 0
  else if policy = 0 then r.drop t slot e 0
  else
    match ((order.take 16).drop k).find? fun c => (r.list c).length < cap && !(r.list c).any fun a => a.1 = t with
    | some c => { r.assign t slot c 0x4000 with moved := r.moved + 1 }
    | none => r.drop t slot e 1

/-- A token's turn in pass `slot`: a poisoned token's records stand together at its turn in pass 0 (R187). -/
def RouteRun.turn (r : RouteRun) (cap policy k slot t : Nat) (rank : Option (List (Nat × Num))) : RouteRun :=
  match rank with
  | some l => r.offer cap policy k t slot (l.map fun x => x.1)
  | none =>
    if slot = 0 then { r with dropped := r.dropped ++ (List.range k).map fun j => (t, j, 2, 0xFFF) } else r

def routeAll (cap policy k : Nat) (ranks : List (Option (List (Nat × Num)))) : RouteRun :=
  (List.range k).foldl (fun r slot => ranks.zipIdx.foldl (fun r x => r.turn cap policy k slot x.2 x.1) r) {}

/-- The slot entry of a token: 0xFFFF where unused (Table 7.3). -/
def RouteRun.entry (r : RouteRun) (t slot : Nat) : Nat := Map.get r.slots (8 * t + slot) 0xFFFF

/-- The weights of a token's slots 0 to 7 (R182): those of dropped and unassigned slots are zero. -/
def RouteRun.weights (r : RouteRun) (policy k t : Nat) (l : List (Nat × Num)) : List Num :=
  let entries := (List.range 8).map fun s => r.entry t s
  let live := entries.filter fun x => x < 0x8000
  let names := if policy = 0 then (l.take k).map fun x => x.1 else live.map fun x => x % 4096
  let set := l.filter fun x => has names x.1
  let set := sortKey (set.map fun x => (x.1, x))
  let ws := (set.map fun x => x.1).zip (gateWeights set)
  entries.map fun x => if x < 0x8000 then (match ws.find? fun w => w.1 = x % 4096 with | some w => w.2 | none => { m := 0 }) else { m := 0 }

/-- Demand of an expert before capacity (R186). -/
def demand (k : Nat) (ranks : List (Option (List (Nat × Num)))) (e : Nat) : Nat :=
  (ranks.filter fun r => match r with | some l => (l.take k).any fun x => x.1 = e | none => false).length

/-- Experts of the plan: largest assigned count first, lower index first among equals (R189). -/
def RouteRun.plan (r : RouteRun) (n : Nat) : List Nat :=
  sortKey (((List.range n).filter fun e => !(r.list e).isEmpty).map fun e => (2 ^ 21 - (r.list e).length, e))

/-- An entry of a list (R185). -/
def listEntry (a : Nat × Nat) : Bytes := leBytes 4 (a.1 + a.2 * 2 ^ 20)

/-- A record of the dropped region (R187). -/
def dropRecord (x : Nat × Nat × Nat × Nat) : Bytes := leBytes 8 (x.1 + x.2.1 * 2 ^ 20 + x.2.2.1 * 2 ^ 23 + x.2.2.2 * 2 ^ 25)

/-- The expert home of an object of a partition, 0xFF where it has none. -/
def Dev.expertHomeOf (d : Dev) (pt o : Nat) : Nat := match d.getObj pt o with | some x => x.expertHome | none => 0xFF

/-- What ROUTE forms and writes. The state and action bytes of the plan are Jormon's, at the commit. -/
def State.routeRun (s : State) (uid : Nat) (p : Part) (b : Bytes) : State :=
  let r := Ref.of b 32
  let k := rK b
  let policy := field b 105 1
  let tn := rT b
  let rows := (List.range tn).map fun t => s.refLine uid r t
  let ranks := rows.map fun x => ranking x.1
  let z := routeAll (rCap b) policy k ranks
  let pt := match s.dev.getCtx p.ctx with | some c => c.pt | none => 0
  let plan := z.plan (rE b)
  let assigned := ((List.range (rE b)).map fun e => (z.list e).length).sum
  let cnt : Cnt := (rows.map fun x => x.2).foldl Cnt.add {}
  let s := s.onDev fun d => d.modPart uid fun q =>
    let q := q.addCnt cnt
    { q with planned := plan, detail := [(0, assigned), (1, z.dropped.length), (2, z.moved)],
             counts := [(0x0A, assigned), (0x0B, z.dropped.length), (0x0C, z.moved)].foldl (fun m x => Map.addSat m x.1 x.2 max64) q.counts }
  let cva := field b 64 8
  let s := s.vsend uid cva (leBytes 4 tn ++ leBytes 1 k ++ leBytes 1 (rWfmt b) ++ leBytes 2 (rE b - 1) ++ leBytes 4 (rCap b)
    ++ leBytes 1 policy ++ leBytes 3 0 ++ (List.range tn).flatMap fun t => (List.range 8).flatMap fun j => leBytes 2 (z.entry t j))
  let s := ranks.zipIdx.foldl (fun s x =>
    let ws : List Num := match x.1 with
      | some l => z.weights policy k x.2 l
      | none => (List.range 8).map fun _ => { m := 0, poison := true }
    let w := writeLine (rWfmt b) (Conv.of (field b 2 2)) ws s.dev.free
    let s := (s.onDev fun d => d.modPart uid fun q => q.addCnt w.2.2).took w.2.2.draws
    (s.vsend uid (cva + 16 + 16 * tn + 16 * x.2) (sub w.1 0 16)).vsend uid (cva + 16 + 32 * tn + x.2) w.2.1) s
  let s := (List.range (rE b)).foldl (fun s e =>
    let l := sortKey ((z.list e).map fun a => (a.1, a))
    (s.vsend uid (field b 72 8 + 4 * rCap b * e) (l.flatMap listEntry)).vsend uid (field b 80 8 + 8 * e)
      (leBytes 4 l.length ++ leBytes 4 (demand k ranks e))) s
  let s := s.vsend uid (field b 88 8) (leBytes 4 z.dropped.length ++ leBytes 12 0 ++ z.dropped.flatMap dropRecord)
  (s.vsend uid (field b 96 8) (leBytes 4 plan.length ++ leBytes 4 tn ++ leBytes 8 0 ++ plan.flatMap fun e =>
    leBytes 4 (rObj b + e) ++ leBytes 4 (z.list e).length ++ leBytes 4 (demand k ranks e)
      ++ leBytes 1 (s.dev.expertHomeOf pt (rObj b + e)) ++ leBytes 3 0)).ranPart uid

/-! ### The residency plan (R190). -/

/-- Jormon acts on one entry: a plan pin, a steep where there is need, and the state and action bytes. -/
def State.planEntry (s : State) (uid n pt obj at' : Nat) : State :=
  match s.dev.getObj pt obj with
  | none => s
  | some o =>
    let act := match o.res with | .resident => 0 | .caddyOnly => 1 | .rising => 2 | .sinking => if o.released then 3 else 1
    let s := s.onDev fun d =>
      let d := d.modCtx n fun c => { c with planPins := Map.put c.planPins obj (Map.get c.planPins obj 0 + 1) }
      match o.res with
      | .resident => d.countCtx n 0x0E 1
      | .rising => d
      | _ => (d.promote pt obj .plan n).countCtx n 0x0D 1
    s.vwrite uid at' (leBytes 1 (resCode o.res) ++ leBytes 1 act)

/-- The plan is acted on at ROUTE's commit, before its gates are signalled. -/
def State.actPlan (s : State) (uid : Nat) (p : Part) (b : Bytes) : State :=
  if dOp b ≠ 3 then s
  else
    let pt := match s.dev.getCtx p.ctx with | some c => c.pt | none => 0
    p.planned.zipIdx.foldl (fun s x => s.planEntry uid p.ctx pt (rObj b + x.1) (field b 96 8 + 16 + 16 * x.2 + 13)) s

/-! ### Lists and choices as parts read them. -/

/-- A little-endian number that a part reads; a byte that poison spoils is free (log 5). -/
def State.vle (s : State) (uid va n : Nat) : Nat :=
  leNat ((List.range n).map fun k => if s.vbad uid (va + k) then Config.freeByte (s.dev.free + k) else s.vbyte uid (va + k))

/-- The run of experts: position p is expert first + p. -/
def dFirst (b : Bytes) : Nat := field b 112 2
def dCount (b : Bytes) : Nat := field b 114 2

/-- The capacity: n1 of the expert-side tensor. -/
def dCap (b : Bytes) : Nat := if dOp b = 4 then (Ref.of b 64).n1 else (Ref.of b 32).n1

/-- Entries of the list at position p: token and slot. -/
def State.listOf (s : State) (uid : Nat) (b : Bytes) (p n : Nat) : List (Nat × Nat) :=
  (List.range n).map fun i =>
    let e := s.vle uid (field b 96 8 + 4 * dCap b * (dFirst b + p) + 4 * i) 4
    (e % 2 ^ 20, bits e 22 20)

/-! ### DISPATCH (R194). -/

/-- The assigned count at position p. -/
def State.countOf (s : State) (uid : Nat) (b : Bytes) (p : Nat) : Nat := s.vle uid (field b 104 8 + 8 * (dFirst b + p)) 4

/-- What a DISPATCH part reaches: its counts and list entries, the src rows that these name, the dst rows that it fills. -/
def dispatchIo (s : State) (uid : Nat) (p : Part) (b : Bytes) : PartIo :=
  match p.kind with
  | .experts ps =>
    let r := Ref.of b 32
    let d := Ref.of b 64
    let each := ps.map fun k => (k, min (s.countOf uid b k) (dCap b))
    { reads := each.flatMap fun k => [countExt b k.1, ((listExt b k.1).1, 4 * k.2)]
      rows := each.flatMap fun k => (s.listOf uid b k.1 k.2).flatMap fun e => if e.1 < r.n1 then r.extents e.1 (e.1 + 1) else []
      writes := each.flatMap fun k => if k.2 = 0 then [] else d.extents (k.1 * d.n1) (k.1 * d.n1 + k.2) }
  | _ => {}

/-- Status LIST_MISMATCH (Table 16.6). -/
def State.dispatchRun (s : State) (uid : Nat) (p : Part) (b : Bytes) : State :=
  match p.kind with
  | .experts ps =>
    let r := Ref.of b 32
    let d := Ref.of b 64
    let each := ps.map fun k => (k, s.countOf uid b k, s.listOf uid b k (min (s.countOf uid b k) (dCap b)))
    if each.any fun k => dCap b < k.2.1 || k.2.2.any fun e => r.n1 ≤ e.1 then s.failPart uid stMismatch
    else
      let rows := each.flatMap fun k => k.2.2.zipIdx.map fun e => (k.1 * d.n1 + e.2, s.movedLine uid r e.1.1)
      let s := s.took (if s.mem.poison.isEmpty then 0 else lineBytes r.fmt r.n0)
      (rows.foldl (fun s x => (s.vsend uid (d.lineVa x.1) x.2.1).vsend uid (d.scaleAt x.1) x.2.2) s).ranPart uid
  | _ => s

/-! ### COMBINE (R196 to R200). -/

/-- The choices region of a COMBINE. -/
def cVa (b : Bytes) : Nat := field b 104 8

/-- Slot entry (t, j) of the choices. -/
def State.slotOf (s : State) (uid : Nat) (b : Bytes) (t j : Nat) : Nat := s.vle uid (cVa b + 16 + 16 * t + 2 * j) 2

/-- Whether a slot entry assigns an expert (R200). -/
def assigns (entry e : Nat) : Bool := entry < 0x8000 && entry % 4096 = e

/-- The gate-weight tensor of the choices (Table 7.2). -/
def State.weightRef (s : State) (uid : Nat) (b : Bytes) : Ref :=
  let tn := (Ref.of b 64).n1
  { va := cVa b + 16 + 16 * tn, fmt := s.vle uid (cVa b + 5) 1 % 16, rfl := 0, sva := cVa b + 16 + 32 * tn,
    n0 := 8, n1 := tn, n2 := 1, n3 := 1, s1 := 16, s2 := 16 * tn, sper := 1, sn1 := tn, wva := cVa b + 16 + 16 * tn, wn0 := 8 }

/-- Whether the choices header is one that R200 refuses. -/
def State.headerBad (s : State) (uid : Nat) (b : Bytes) : Bool :=
  let k := s.vle uid (cVa b + 4) 1
  let f := s.vle uid (cVa b + 5) 1 % 16
  s.vle uid (cVa b) 4 ≠ (Ref.of b 64).n1 || s.vle uid (cVa b + 8) 4 ≠ (Ref.of b 32).n1 || k = 0 || 8 < k || f < 3 || 7 < f

/-- The number of list entries that a source part reads for the expert at position p (R197). -/
def State.combineCount (s : State) (uid : Nat) (b : Bytes) (p : Nat) : Nat :=
  ((List.range (Ref.of b 64).n1).map fun t =>
    ((List.range 8).filter fun j => assigns (s.slotOf uid b t j) (dFirst b + p)).length).sum

/-- The expected slots of a row (R198). -/
def State.expected (s : State) (uid : Nat) (b : Bytes) (t : Nat) : List Nat :=
  (List.range 8).filter fun j =>
    let x := s.slotOf uid b t j
    x < 0x8000 && dFirst b ≤ x % 4096 && x % 4096 < dFirst b + dCount b

/-- What a COMBINE part reaches: a source part the choices, its list entries and the src rows that they name in turn; a destination part the
choices and its rows of dst. -/
def combineIo (s : State) (uid : Nat) (p : Part) (b : Bytes) : PartIo :=
  match p.kind with
  | .sources ps =>
    let r := Ref.of b 32
    let each := ps.map fun k => (k, min (s.combineCount uid b k) r.n1)
    { reads := choiceExt b :: each.map fun k => ((listExt b k.1).1, 4 * k.2)
      rows := each.flatMap fun k => if k.2 = 0 then [] else r.extents (k.1 * r.n1) (k.1 * r.n1 + k.2) }
  | k => { reads := partIn b k, writes := partOut b k }

/-- The exact product of a row by a gate weight, in a window accumulator. -/
def product (x w : Num) : Acc × Nat :=
  let r := ({} : Acc).add (x.m * w.m) (x.e + w.e)
  ({ r.1 with sticky := r.1.sticky || x.sticky, poison := x.poison || w.poison }, r.2)

/-- A source part forms the partials of one list entry for a destination part. -/
def State.formPartial (s : State) (src dst : Nat) (b : Bytes) (p i t j : Nat) : State :=
  let r := Ref.of b 32
  let d := Ref.of b 64
  let row := s.refLine src r (p * r.n1 + i)
  let wl := s.refLine src (s.weightRef src b) t
  let w := wl.1.getD j { m := 0 }
  let ps := row.1.map fun x => product x w
  let v : List Acc × Cnt := if dKa b then (ps.map fun x => x.1, {})
    else roundLine d.fmt (field b 2 2) (ps.map fun x => x.1.num) s.dev.free
  (s.onDev fun y => (y.modPart src fun q =>
      (((q.addCnt row.2).addCnt wl.2).addCnt v.2).addCnt { trunc := (ps.map fun x => x.2).sum }).modPart dst fun q =>
    { q with coming := q.coming ++ [{ row := t, slot := j, vals := v.1 }] }).took v.2.draws

/-- What a source part sends to a destination part: its list entries for the rows of that part. A list entry whose slot does not
assign the expert fails the destination part of its row (R200); one whose token has no row fails the first. -/
def State.sendPartials (s : State) (src dst : Nat) (b : Bytes) (ps : List Nat) (lo hi : Nat) : State :=
  let es := ps.flatMap fun p =>
    (s.listOf src b p (min (s.combineCount src b p) (dCap b))).zipIdx.map fun e => (p, e.2, e.1.1, e.1.2)
  let tn := (Ref.of b 64).n1
  let mine := es.filter fun e => (lo ≤ e.2.2.1 && e.2.2.1 < hi) || (tn ≤ e.2.2.1 && lo = 0)
  if mine.any fun e => tn ≤ e.2.2.1 || !assigns (s.slotOf src b e.2.2.1 e.2.2.2) (dFirst b + e.1) then s.failPart dst stMismatch
  else mine.foldl (fun s e => s.formPartial src dst b e.1 e.2.1 e.2.2.1 e.2.2.2) s

/-- Rows of a destination part with expected slots, with their masks. -/
def State.wantedRows (s : State) (uid : Nat) (b : Bytes) (lo hi : Nat) : List (Nat × Nat) :=
  ((List.range (hi - lo)).map fun k => (lo + k, ((s.expected uid b (lo + k)).map fun j => 2 ^ j).sum)).filter fun x => x.2 ≠ 0

/-- A destination part whose masks are complete writes its rows; a row with no expected slot is left with ADD_DST and written as
zero without it. -/
def State.finishRows (s : State) (uid : Nat) (b : Bytes) (lo hi : Nat) : State :=
  let d := Ref.of b 64
  let want := (s.wantedRows uid b lo hi).map fun x => x.1
  let s := if dAdd b then s
    else ((List.range (hi - lo)).filter fun k => !has want (lo + k)).foldl (fun s k =>
      s.sendLine uid d (lo + k) (List.replicate (lineBytes d.fmt d.n0) 0)
        (if d.fmt = 9 then [] else List.replicate (lineScales d.fmt d.n0) 0)) s
  s.finishDest uid want

/-- Looks after a destination part that has begun: it writes its rows, or fails where every source part has sent its partials and
a slot is still missing (R198, R200). -/
def State.checkDest (s : State) (uid : Nat) : State :=
  match s.dev.getPart uid with
  | none => s
  | some p =>
    match p.kind with
    | .dests lo hi =>
      if p.stage ≠ .executing ∨ !p.begun ∨ p.ran then s
      else
        let b := s.dev.descOf uid
        let want := s.wantedRows uid b lo hi
        if want.all fun x => Map.get p.masks x.1 0 = x.2 then s.finishRows uid b lo hi
        else
          let parts := match s.dev.getCmd p.ctx p.seq with | some x => s.dev.partsOf x | none => []
          let sent := parts.all fun q => match q.2.kind with | .sources _ => q.2.ran | _ => true
          if sent ∧ p.coming.isEmpty then s.failPart uid stMismatch else s
    | _ => s

/-- The parts of the command of a part. -/
def Dev.siblings (d : Dev) (uid : Nat) : List (Nat × Part) :=
  match d.getPart uid with
  | none => []
  | some p => match d.getCmd p.ctx p.seq with | some x => d.partsOf x | none => []

/-- A source part sends to every destination part that has begun; a destination part that begins is sent what every source part
that has run forms for it (R199). -/
def State.combineRun (s : State) (uid : Nat) (p : Part) (b : Bytes) : State :=
  match p.kind with
  | .sources ps =>
    let s := (s.dev.siblings uid).foldl (fun s q =>
      match q.2.kind with
      | .dests lo hi => if q.2.begun ∧ q.2.stage = .executing ∧ !q.2.ran then s.sendPartials uid q.1 b ps lo hi else s
      | _ => s) s
    let s := s.ranPart uid
    (s.dev.siblings uid).foldl (fun s q => s.checkDest q.1) s
  | .dests lo hi =>
    if s.headerBad uid b then s.failPart uid stMismatch
    else
      let s := (s.startHeld uid (Ref.of b 64) b lo hi).onDev fun d => d.modPart uid fun q => { q with begun := true }
      let s := (s.dev.siblings uid).foldl (fun s q =>
        match q.2.kind with
        | .sources ps => if q.2.ran ∧ q.2.stage = .executing then s.sendPartials q.1 uid b ps lo hi else s
        | _ => s) s
      s.checkDest uid
  | _ => s

/-! ### PARTIAL_LANDS and PART_COMMIT. -/

/-- A partial lands, and the part writes once it has all of them. -/
def State.landAny (s : State) (uid which : Nat) : State :=
  let s := s.landOne uid which
  match s.dev.getPart uid with
  | none => s
  | some p =>
    match p.kind with
    | .dests _ _ => s.checkDest uid
    | k =>
      match k.span with
      | some (lo, hi) =>
        if p.begun ∧ !p.ran ∧ p.coming.isEmpty ∧ p.stage = .executing then s.finishDest uid ((List.range (hi - lo)).map fun k => lo + k) else s
      | none => s

/-- The parts of a COMBINE commit together, once each has run and its writes have landed (R199). -/
def State.commitAny (s : State) (uid : Nat) (chks : List (Nat × Check)) : State :=
  if dOp (s.dev.descOf uid) = 5 then
    let ps := s.dev.siblings uid
    if ps.all fun q => q.2.stage = .executing && q.2.ran && !s.partBusy q.1 then ps.foldl (fun s q => s.commitPart q.1 [] fun _ _ s => s) s
    else s
  else s.commitPart uid chks fun p b s => s.actPlan uid p b

/-! ### Meanings. -/

/-- ROUTE (R179 to R189). -/
def execRoute (part : Nat) (s : State) : Out :=
  .next (s.runPart part (fun _ b => dOp b = 3) planeIo fun p b s => s.routeRun part p b)

/-- DISPATCH (R194). -/
def execDispatch (part : Nat) (s : State) : Out :=
  .next (s.runPart part (fun _ b => dOp b = 4) dispatchIo fun p b s => s.dispatchRun part p b)

/-- COMBINE (R196 to R200). -/
def execCombine (part : Nat) (s : State) : Out :=
  .next (s.runPart part (fun p b => dOp b = 5 && !p.begun) combineIo fun p b s => s.combineRun part p b)

/-- PARTIAL_LANDS (R68, R69, R198). -/
def execPartialLands (part which : Nat) (s : State) : Out := .next (s.landAny part which)

/-- PART_COMMIT (R165, R166): `chks` are the checks of the dirty lines that a kernel's commit writes back. -/
def execPartCommit (part : Nat) (chks : List (Nat × Check)) (s : State) : Out := .next (s.commitAny part chks)

end Sys2Proof.Machine
end

