-- ==== Sys2Proof/Machine/Tiers.lean ====
section
/-!
DEFINITION. How objects rise and sink: room, eviction, infuser chunks, release points, drains, deadlocks and shadow granules
(R210 to R224).
-/

namespace Sys2Proof.Machine

/-! ### Helpers. -/

/-- Whether the class of an object is lean (R205). -/
def Obj.lean (o : Obj) : Bool := bit o.attrs 0

/-- Whether a rise takes the shadow from the pending image: it does where the object has no shadow that stands in HBM (R215). -/
def Obj.loads (o : Obj) : Bool :=
  match o.rise with
  | some r => if r.room then r.loads else o.shadow.isEmpty
  | none => o.shadow.isEmpty

/-- The granules of the pending image that a rise writes. -/
def Obj.risePend (o : Obj) : List (Nat × Mem) := if o.loads then o.pend.getD [] else []

/-- Granules that a rise allocates: the image and the shadow of a pending image (R215). -/
def Obj.riseGranules (o : Obj) : Nat := o.granules + o.risePend.length

/-- A sink request or a SINK with KEEP that waited on the object goes ahead; one that has nothing to wait for is acted on. -/
def Dev.actedFor (d : Dev) (n seq num : Nat) : Dev :=
  let d := d.modCmd n seq fun x => { x with waits := x.waits.filter fun y => y.1 ≠ num }
  match d.getCmd n seq with
  | some x =>
    if x.state = .running ∧ x.op = 0x11 ∧ x.waits.isEmpty then
      d.endCmd n seq (match x.late with | some st => .failed st | none => .completed) []
    else d
  | none => d

def Dev.resumeSinks (d : Dev) (pt num : Nat) : Dev :=
  match d.getObj pt num with
  | none => d
  | some o =>
    o.sinkWait.foldl (fun d w =>
      let r := if w.1 then d.keepRequest pt num w.2.1 w.2.2 else d.sinkRequest pt num (w.2.2 = 0) w.2.1 w.2.2
      if r.2 then r.1 else r.1.actedFor w.2.1 w.2.2 num) (d.modObj pt num fun o => { o with sinkWait := [] })

/-- The commands whose SINK of an object has ended: those that wait on it and stand in no list of requests that wait. -/
def Dev.sinkEnded (d : Dev) (pt num : Nat) (late : Option Nat) : Dev :=
  let later : List (Nat × Nat) := match d.getObj pt num with | some o => o.sinkWait.map fun w => w.2 | none => []
  let who : List (Nat × Nat) := (d.ctxsOf pt).flatMap fun c =>
    (c.2.cmds.filter fun x => x.op = 0x11 && x.state = .running && (x.waits.any fun w => w.1 = num)
      && !later.any fun (w : Nat × Nat) => w.1 = c.1 && w.2 = x.seq).map fun x => (c.1, x.seq)
  who.foldl (fun (d : Dev) (w : Nat × Nat) =>
    let d := match late with | some st => d.modCmd w.1 w.2 (fun x => { x with late := some st }) | none => d
    d.actedFor w.1 w.2 num) d

/-! ### Room and eviction (R222). -/

/-- Whether an eviction of an object waits for the end of a write-back (R221). -/
def Obj.evicting (o : Obj) : Bool := o.sinkWait.any fun w => w.2.2 = 0

/-- Candidates of an eviction: clean before dirty, then the least recently bound. -/
def Dev.victims (d : Dev) (pt t : Nat) (lean : Bool) (skip : List Nat) : List Nat :=
  let wanted := (d.wants pt).map fun w => w.1
  sortKey (((d.getPt pt).objs.filter fun o =>
      o.2.res = .resident && !o.2.evicting && o.2.home = t && o.2.lean = lean && d.pinCount pt o.1 = 0 && !has wanted o.1
        && !has skip o.1).map fun o => ((if o.2.dirty then 2 ^ 80 else 0) + o.2.bound, o.1))

/-- Granules of a class on a terrace that sinks under way will return: those that no pin holds before the release point. -/
def Dev.leaving (d : Dev) (pt t : Nat) (lean : Bool) : Nat :=
  ((d.getPt pt).objs.map fun o =>
    let goes : Bool := match o.2.sinkOp with
      | some k => if k.keep then o.2.evicting && d.pinCount pt o.1 = 0 else k.released || d.pinCount pt o.1 = 0
      | none => false
    if o.2.home = t ∧ o.2.lean = lean ∧ goes then
      o.2.image.length + o.2.shadow.length else 0).sum

/-- Free granules of a class on a terrace, counted up to n. -/
def Dev.freeUpTo (d : Dev) (t : Nat) (lean : Bool) (n : Nat) : Nat :=
  let used := d.heldGranules
  min n ((d.poolFrames t lean).map fun f =>
    16384 - (used.filter fun g => hbmPa t (f * 2 ^ 30) ≤ g && g < hbmPa t (f * 2 ^ 30) + 2 ^ 30).length).sum

/-- Evicts candidates in order until n granules are free or on their way. -/
def Dev.evict (d : Dev) (pt t : Nat) (lean : Bool) (n ctx : Nat) (l : List Nat) : Dev :=
  match l with
  | [] => d
  | o :: rest =>
    if n ≤ d.freeUpTo t lean n + d.leaving pt t lean then d
    else ((d.sinkRequest pt o true ctx 0).1.countCtx ctx 0x0F 1).evict pt t lean n ctx rest

/-- A rise takes its granules, or makes room. -/
def State.riseRoom (s : State) (pt num : Nat) : State :=
  if !s.dev.ready then s else
  match s.dev.getObj pt num with
  | none => s
  | some o =>
    match o.rise with
    | none => s
    | some r =>
      if r.room ∨ o.sinkOp.isSome then s
      else
        let n := o.riseGranules
        match s.dev.room o.home o.lean n with
        | some gs =>
          let sh := (o.risePend.map fun x => x.1).zip (gs.drop o.granules)
          s.onDev fun d => d.modObj pt num fun o => { o with
            image := gs.take o.granules, shadow := if o.loads then sh else o.shadow
            rise := o.rise.map fun r => { r with room := true, waits := 0, loads := o.loads } }
        | none =>
          let vs := s.dev.victims pt o.home o.lean r.tried
          s.onDev fun d => (d.evict pt o.home o.lean n r.ctx vs).modObj pt num fun o => { o with
            rise := o.rise.map fun r => { r with waits := if r.waits = 0 then max 1 s.time.fabric else r.waits } }

/-! ### Chunks (R216 to R219). -/

/-- Chunks that a sink writes down: the image where it is dirty, and the shadow granules, numbered after it. -/
def Obj.sinkChunks (o : Obj) (keep : Bool) : List Nat :=
  (if o.dirty then List.range o.granules else []) ++ (if keep then [] else (List.range o.shadow.length).map fun j => o.granules + j)

/-- Whether a sink is at its write-down: it keeps, or its pin count is zero (R219, R221). -/
def Dev.writesDown (d : Dev) (pt : Nat) (o : Nat × Obj) : Bool :=
  match o.2.sinkOp with
  | none => false
  | some k => !k.released && (k.keep || d.pinCount pt o.1 = 0) && (o.2.sinkChunks k.keep).any fun c => !has k.done c

/-- Whether chunk c is on an infuser: a record's chunks alternate between the headgates of the quad. -/
def onInfuser (h c : Nat) : Bool := c % 2 = h % 2

/-- The next chunk of a rise on an infuser. -/
def Obj.nextRise (o : Obj) (h : Nat) : Option Nat :=
  match o.rise with
  | some r => if r.room then (List.range o.riseGranules).find? fun c => onInfuser h c && !has r.done c else none
  | none => none

/-- The next chunk of a sink on an infuser. -/
def Dev.nextSink (d : Dev) (pt : Nat) (o : Nat × Obj) (h : Nat) : Option Nat :=
  match o.2.sinkOp with
  | some k => if d.writesDown pt o then (o.2.sinkChunks k.keep).find? fun c => onInfuser h c && !has k.done c else none
  | none => none

/-- Work of a partition on an infuser in the order of R217: object, chunk, whether it is a sink. -/
def Dev.infuserWork (d : Dev) (pt h : Nat) : List (Nat × Nat × Bool) :=
  let objs := (d.getPt pt).objs.filter fun o => o.2.home / 4 = h / 2
  let rises := objs.filterMap fun o =>
    match o.2.rise, o.2.nextRise h with
    | some r, some c => some (r.kind.rank * 2 ^ 64 + r.order, (o.1, c, false))
    | _, _ => none
  let sinks := objs.filterMap fun o =>
    match o.2.sinkOp, d.nextSink pt o h with
    | some k, some c => some (k.order, (o.1, c, true))
    | _, _ => none
  sortKey rises ++ sortKey sinks

/-- Partitions in turn on an infuser, each as often as it has terraces, from the pointer on (R217). -/
def State.turns (s : State) (h : Nat) : List (Nat × Nat) :=
  let seq := (List.range 8).flatMap fun p =>
    let ts := s.mgmt.terraces p
    if ts.any fun t => t / 4 = h / 2 then List.replicate ts.length p else []
  let k := Map.get s.dev.infPtr h 0
  let n := seq.length
  (List.range n).map fun i => let j := (k + i) % n; (seq.getD j 0, (j + 1) % n)

/-- What the infuser does next: partition, new pointer, object, chunk, whether a sink; one chunk in four is a sink's while sinks
wait. -/
def State.infuserNext (s : State) (h : Nat) : Option (Nat × Nat × Nat × Nat × Bool) :=
  let due := 3 ≤ Map.get s.dev.sinceSink h 0
  let pick (sinksOnly : Bool) : Option (Nat × Nat × Nat × Nat × Bool) :=
    (s.turns h).findSome? fun t =>
      let w := (s.dev.infuserWork t.1 h).filter fun x => !sinksOnly || x.2.2
      w.head?.map fun x => (t.1, t.2, x.1, x.2.1, x.2.2)
  if due then (match pick true with | some x => some x | none => pick false) else pick false

/-- Lines of a granule at a physical base that are poisoned, numbered within a slot. -/
def State.badLines (s : State) (base c : Nat) : List Nat :=
  (s.mem.poison.filter fun p => base ≤ p.1 * 128 && p.1 * 128 < base + granule).map fun p => c * 512 + (p.1 - base / 128)

/-- Content of a granule of device memory. -/
def State.granuleMem (s : State) (base : Nat) : Mem :=
  (List.range granule).foldl (fun m k => let b := s.byte (base + k); if b = 0 then m else m ++ [(k, b)]) []

/-- Writes a granule and poisons given lines of it. -/
def State.putGranule (s : State) (base : Nat) (content : Mem) (bad : List Nat) : State :=
  let s := (List.range 512).foldl (fun s k => s.onDev fun d => d.dropLine (base / 128 + k)) s
  s.onMem fun m =>
    let m := m.zero base granule
    let m := { m with bytes := content.foldl (fun b e => Mem.set b (base + e.1) e.2) m.bytes }
    bad.foldl (fun m l => m.setPoison (base / 128 + l) fullMask) m

/-- A chunk of a rise is written (R215). -/
def State.riseChunk (s : State) (pt num c : Nat) (o : Obj) : State :=
  let src : Nat × Mem × List Nat × Nat :=
    if c < o.granules then
      let m := match o.record with | some m => Mem.slice m (c * granule) granule 0 | none => []
      (o.image.getD c 0, m, (o.recBad.filter fun l => l / 512 = c).map fun l => l % 512,
       Map.get o.sizes c 0)
    else
      let g := o.risePend.getD (c - o.granules) (0, [])
      ((o.shadow.getD (c - o.granules) (0, 0)).2, g.2, (o.pendBad.filter fun l => l / 512 = g.1).map fun l => l % 512, Map.get o.pendSizes g.1 0)
  let s := s.putGranule src.1 src.2.1 src.2.2.1
  s.onDev fun d => ((d.modObj pt num fun o => { o with rise := o.rise.map fun r => { r with done := c :: r.done, redo := false } }).countPt pt 0x06
    granule).countPt pt 0x07 src.2.2.2

/-- A write-down that finds no room is cancelled (R220): the object stays RESIDENT and dirty, the SINK commands that wait for it fail, and what an
eviction was for passes to its next candidate. -/
def State.sinkNoRoom (s : State) (pt num : Nat) (k : SinkOp) : State :=
  let s := s.onDev fun d => (d.modObj pt num fun o => { o with res := .resident, sinkOp := none }).countCtx k.ctx 0x10 1
  let s := s.onDev fun d => if !k.evict then d else d.modPt pt fun q => { q with objs := q.objs.map fun o =>
    (o.1, { o.2 with
      rise := o.2.rise.map fun r => { r with tried := addOnce r.tried num }
      shadowTried := if o.2.shadowWait = 0 then o.2.shadowTried else addOnce o.2.shadowTried num }) }
  s.onDev fun d => ((d.sinkEnded pt num (some stNoResource)).resumeSinks pt num).demand pt

/-- A chunk of a sink is written down (R219). -/
def State.sinkChunk (s : State) (pt num c : Nat) (o : Obj) (k : SinkOp) : State :=
  let base := if c < o.granules then o.image.getD c 0 else (o.shadow.getD (c - o.granules) (0, 0)).2
  let m := s.granuleMem base
  let n := chunkSize m o.hint
  if s.mgmt.store pt < s.dev.storeUsed pt + n then s.sinkNoRoom pt num k
  else
    let bad := s.badLines base c
    let upd (k : SinkOp) : SinkOp := { k with
      done := c :: k.done, sizes := Map.put k.sizes c n, bad := k.bad ++ bad,
      slot := m.foldl (fun z e => Mem.set z (c * granule + e.1) e.2) (Mem.zero k.slot (c * granule) granule) }
    s.onDev fun d => ((d.modObj pt num fun o => { o with sinkOp := o.sinkOp.map upd }).countPt pt 0x08 granule).countPt pt 0x09 n

/-- An infuser finishes a chunk, or repeats a rise's after a fault that its own retries absorb (R231, R457). -/
def State.infuserChunk (s : State) (h : Nat) (fault : Bool) : State :=
  if !s.dev.ready then s else
  match s.infuserNext h with
  | none => s
  | some (pt, ptr, num, c, sink) =>
    match s.dev.getObj pt num with
    | none => s
    | some o =>
      if fault then
        if sink then s else s.onDev fun d => d.modObj pt num fun o => { o with rise := o.rise.map fun r => { r with redo := true } }
      else
      let s := s.onDev fun d => { d with
        infPtr := Map.put d.infPtr h ptr
        sinceSink := Map.put d.sinceSink h (if sink then 0 else Map.get d.sinceSink h 0 + 1) }
      match sink, o.sinkOp with
      | true, some k => s.sinkChunk pt num c o k
      | _, _ => s.riseChunk pt num c o

/-! ### Ends (R215, R219, R221). -/

/-- The image is complete. -/
def State.riseComplete (s : State) (pt num : Nat) : State :=
  match s.dev.getObj pt num with
  | none => s
  | some o =>
    match o.res, o.rise with
    | .rising, some r =>
      if r.room ∧ (List.range o.riseGranules).all fun c => has r.done c then
        let s := s.onDev fun d => (d.modObj pt num fun o => { o with
          res := .resident, rise := none, dirty := false, conflict := false }).acted pt num 0x10
        (s.onDev fun d => (d.resumeSinks pt num).demand pt).retryObjects
      else s
    | _, _ => s

/-- What the object store holds of an object once a write-down has become its record or pending image. -/
def Obj.take (o : Obj) (k : SinkOp) : Obj :=
  let img := Mem.slice k.slot 0 (o.granules * granule) 0
  let o := if has k.done 0 then { o with
      record := some img, sizes := k.sizes.filter fun x => x.1 < o.granules,
      recBad := k.bad.filter fun l => l < o.granules * 512 } else o
  if k.keep ∨ o.shadow.isEmpty then o
  else
    let p := o.shadow.zipIdx.map fun g => (g.1.1, Mem.slice k.slot ((o.granules + g.2) * granule) granule 0)
    { o with
      pend := some p, pendSizes := o.shadow.zipIdx.map fun g => (g.1.1, Map.get k.sizes (o.granules + g.2) 0)
      pendBad := o.shadow.zipIdx.flatMap fun g =>
        (k.bad.filter fun l => l / 512 = o.granules + g.2).map fun l => g.1.1 * 512 + l % 512 }

/-- The release point of a sink, or the end of a write-back. -/
def State.sinkRelease (s : State) (pt num : Nat) : State :=
  match s.dev.getObj pt num with
  | none => s
  | some o =>
    match o.sinkOp with
    | none => s
    | some k =>
      let full := (o.sinkChunks k.keep).all fun c => has k.done c
      if k.released ∨ !full ∨ (!k.keep ∧ s.dev.pinCount pt num ≠ 0) then s
      else if k.keep then
        let s := s.onDev fun d => (d.modObj pt num fun o => { o.take k with dirty := k.rewritten, sinkOp := none }).sinkEnded pt num none
        s.onDev fun d => d.resumeSinks pt num
      else
        s.onDev fun d => ((d.modObj pt num fun o => { o.take k with
          dirty := false, sinkOp := some { k with released := true, slot := [], sizes := [] } }).sinkEnded pt num none).demand pt

/-- The drain ends: the granules return to the pool. -/
def State.drainEnd (s : State) (pt num : Nat) : State :=
  match s.dev.getObj pt num with
  | none => s
  | some o =>
    if o.released then
      s.onDev fun d => (d.modObj pt num fun o => { o with
        image := [], shadow := [], sinkOp := none, res := if o.res = .sinking then .caddyOnly else o.res }).demand pt
    else s

/-! ### Shadow granules (R224, R225). -/

/-- Whether a write of a context waits for a shadow granule: a part that runs, or a kernel access or mover request. -/
def Dev.shadowWanted (d : Dev) (n pt num g : Nat) : Bool :=
  let hits (uid va : Nat) : Bool := d.place uid 1 va = .shadow pt num g
  d.parts.any fun p => p.2.ctx = n && p.2.stage = .executing &&
    ((!p.2.ran && (match d.getCmd n p.2.seq with
        | some x => (dPlanes x.desc).any fun pl => pl.2.2 = 1 && (pages pl.1 pl.2.1).any fun va => hits p.1 va
        | none => false))
     || d.cl.any fun c => c.2.part = some p.1 &&
          ((match c.2.stall with | .object va _ => hits p.1 va | _ => false)
            || c.2.movs.any fun r => r.writes.any fun w => w.1 < 2 ^ 63 && (pages w.1 w.2).any fun va => hits p.1 va))

/-- Before the first write to a shadow granule, a pool granule is allocated and filled from the published one; the context
becomes the object's step owner. -/
def State.shadowFill (s : State) (pt num g n : Nat) : State :=
  match s.dev.getObj pt num with
  | none => s
  | some o =>
    if !bit o.attrs 1 ∨ !(o.owner.isNone ∨ o.owner = some n) ∨ (Map.find o.shadow g).isSome ∨ o.image.length ≤ g
        ∨ !s.dev.shadowWanted n pt num g then s
    else
      match s.dev.room o.home o.lean 1 with
      | none =>
        s.onDev fun d => (d.evict pt o.home o.lean 1 n (d.victims pt o.home o.lean o.shadowTried)).modObj pt num fun o =>
          { o with shadowWait := if o.shadowWait = 0 then max 1 s.time.fabric else o.shadowWait }
      | some gs =>
        let base := gs.headD 0
        let src := o.image.getD g 0
        let s := s.putGranule base (s.granuleMem src) (s.badLines src 0)
        (s.onDev fun d => d.modObj pt num fun o => { o with
          owner := some n, shadow := o.shadow ++ [(g, base)], shadowWait := 0, shadowTried := [] }).retryObjects

/-! ### Residency deadlock (R223). -/

/-- Objects that a write of a part waits to shadow. -/
def Dev.shadowWaits (d : Dev) (p : Part) (pt : Nat) : List Nat :=
  if p.stage = .executing ∧ !p.ran then
    match d.getCmd p.ctx p.seq with
    | some x => (partObjs x.desc p.kind x.segs).filter fun o => match d.getObj pt o with | some y => y.shadowWait ≠ 0 | none => false
    | none => []
  else []

/-- Whether a cluster waits for its own held access, or for what held accesses of others keep from it. -/
def Stall.holds (x : Stall) : Bool :=
  match x with | .object .. => true | .faulted .. => true | .waitM _ => true | .movFull .. => true | .bar => true | _ => false

/-- Whether nothing of a part goes on: a kernel's running clusters all wait, another part has not computed. -/
def Dev.stuck (d : Dev) (u : Nat) (p : Part) : Bool :=
  let mine := d.cl.filter fun c => c.2.part = some u && c.2.run = .running
  if p.kind = .kernel ∧ p.ran then !mine.isEmpty && mine.all fun c => c.2.stall.holds else !p.ran

/-- Whether a part is held under R208 or R224. -/
def Dev.objHeld (d : Dev) (u : Nat) (p : Part) (pt : Nat) : Bool :=
  (!(d.runWaits u).isEmpty || !(d.shadowWaits p pt).isEmpty) && d.stuck u p

/-- Whether something in a partition can still make room: a candidate, a part that executes, a sink under way. A part that objects hold does
not execute. -/
def Dev.canProgress (d : Dev) (pt t : Nat) (lean : Bool) (skip : List Nat) : Bool :=
  !(d.victims pt t lean skip).isEmpty
    || (d.parts.any fun p => p.2.stage = .executing && (match d.getCtx p.2.ctx with | some c => c.pt = pt | none => false)
          && !d.objHeld p.1 p.2 pt)
    || (d.getPt pt).objs.any fun o => o.2.sinkOp.isSome

/-- Parts that wait for an object: to start, or at a run-time access to it or to its shadow. -/
def Dev.waiters (d : Dev) (pt num : Nat) : List (Nat × Nat) :=
  (d.parts.filter fun p =>
    p.2.live && (match d.getCtx p.2.ctx with | some c => c.pt = pt | none => false) &&
    ((p.2.stage = .queued && has (d.startWaits p.2 pt) num) || has (d.runWaits p.1) num)).map fun p => (p.1, p.2.ctx)

/-- A rise, or a write that waits for a shadow granule, ends as a deadlock: waiters fail with NO_RESOURCE, with an event to each of
their contexts. -/
def State.deadlock (s : State) (pt num : Nat) (o : Obj) : State :=
  let parts := s.dev.waiters pt num
  let steeps := (s.dev.ctxsOf pt).filter fun c =>
    c.2.cmds.any fun x => x.op = 0x10 && x.state = .running && x.waits.any fun w => w.1 = num
  let shadowParts := (s.dev.parts.filter fun p => p.2.stage = .executing && !p.2.ran && o.shadowWait ≠ 0 &&
    (List.range o.granules).any fun g => s.dev.shadowWanted p.2.ctx pt num g).map fun p => (p.1, p.2.ctx)
  let parts := parts ++ shadowParts
  let s := s.onDev fun d => d.modObj pt num fun o => { o with
    shadowWait := 0, shadowTried := []
    res := if o.rise.isSome then .caddyOnly else o.res, rise := none
    image := if o.rise.isSome then [] else o.image, shadow := if o.rise.isSome then [] else o.shadow }
  let s := parts.foldl (fun s p => s.failPart p.1 stNoResource) s
  let s := s.onDev fun d => (d.giveUp pt num 0x10 stNoResource).resumeSinks pt num
  ((parts.map fun p => p.2) ++ steeps.map fun c => c.1).eraseDups.foldl (fun s n =>
    s.event n 1 2 0 (leBytes 4 num ++ leBytes 1 o.home)) s

def State.residencyDeadlock (s : State) (pt num : Nat) : State :=
  match s.dev.getObj pt num with
  | none => s
  | some o =>
    match o.rise with
    | some r =>
      let never := !s.dev.fits o.home o.lean o.riseGranules
      let long := r.waits ≠ 0 && r.waits + 2 ^ 24 ≤ s.time.fabric && !s.dev.canProgress pt o.home o.lean r.tried
      if !r.room ∧ o.sinkOp.isNone ∧ (never ∨ long) then s.deadlock pt num o else s
    | none =>
      let never := !s.dev.fits o.home o.lean (o.held.length + 1)
      let long := o.shadowWait + 2 ^ 24 ≤ s.time.fabric && !s.dev.canProgress pt o.home o.lean o.shadowTried
      if o.shadowWait ≠ 0 ∧ (never ∨ long) then s.deadlock pt num o else s

/-! ### Meanings. -/

/-- RISE_ROOM (R215, R222). -/
def execRiseRoom (pt : Fin 8) (obj : Nat) (s : State) : Out := .next (s.riseRoom pt.val obj)

/-- INFUSER_CHUNK_DONE (R217): `fault` says that the chunk is repeated after a fault that the infuser's retries absorb (R457). -/
def execInfuserChunkDone (h : Fin 4) (fault : Bool) (s : State) : Out := .next (s.infuserChunk h.val fault)

/-- RISE_COMPLETE (R215). -/
def execRiseComplete (pt : Fin 8) (obj : Nat) (s : State) : Out := .next (s.riseComplete pt.val obj)

/-- RESIDENCY_DEADLOCK (R223). -/
def execResidencyDeadlock (pt : Fin 8) (obj : Nat) (s : State) : Out := .next (s.residencyDeadlock pt.val obj)

/-- SINK_RELEASE_POINT (R219), or the end of a SINK with KEEP (R221). -/
def execSinkReleasePoint (pt : Fin 8) (obj : Nat) (s : State) : Out := .next (s.sinkRelease pt.val obj)

/-- DRAIN_END (R219). -/
def execDrainEnd (pt : Fin 8) (obj : Nat) (s : State) : Out := .next (s.drainEnd pt.val obj)

/-- SHADOW_FILL (R224, R225). -/
def execShadowFill (pt : Fin 8) (obj : Nat) (granule : Nat) (n : Fin 4096) (s : State) : Out :=
  .next (s.shadowFill pt.val obj granule n.val)

end Sys2Proof.Machine
end

