-- ==== Sys2Proof/Machine/Care.lean ====
section
/-!
DEFINITION. What several units call for: service reasons, sensor readings, and the stop of the device (R456, R461, R468).
-/

namespace Sys2Proof.Machine

/-- A service reason is set; its rise sends a PlatformEventMessage, and SERVICE is the OR of the reasons (R468). -/
def State.needsService (s : State) (reason : Nat) : State :=
  s.withStatus fun s => s.onMgmt fun m =>
    if m.service.getLsbD reason then m
    else { m with service := m.service ||| BitVec.ofNat 8 (2 ^ reason), events := m.events + 1 }

/-- A service reason ends. -/
def State.serviced (s : State) (reason : Nat) : State :=
  s.onMgmt fun m => { m with service := m.service &&& ~~~BitVec.ofNat 8 (2 ^ reason) }

/-- Byolo's most recent reading of a sensor; none is the state unavailable (R434, R468). -/
def State.sensor (s : State) (id : Nat) (v : Option Int) : State :=
  s.onMgmt fun m => { m with sensors := Map.put m.sensors id v }

/-- Engines, server cores and Jormon stop, and READY is clear (R455 step 1, R456). -/
def Dev.halt (d : Dev) : Dev :=
  { d with
    ready := false
    eng := d.eng.map fun e => (e.1, { e.2 with power := .powerGated, executing := [] })
    cl := d.cl.map fun c => (c.1, { c.2 with run := .idle, part := none, stall := .none })
    cores := d.cores.map fun c => (c.1, if c.2.hart = .lost then c.2 else { c.2 with hart := .held })
    parts := [] }

/-- L4 is called for: the device stays stopped until power is removed (R456). -/
def State.callL4 (s : State) : State := (s.onMgmt fun m => { m with l4 := true }).onDev Dev.halt

/-- L3 is called for: the device stops, and its reset is the row DEVICE_RESET; the third L3 within 2^31 kettle cycles calls for L4
(R454 to R456). -/
def State.callL3 (s : State) : State :=
  let now := s.kettle
  let recent := s.mgmt.l3s.filter fun t => now < t + 2 ^ 31
  if s.mgmt.l4 ∨ s.mgmt.l3Since.isSome then s
  else if 2 ≤ recent.length then s.callL4
  else (s.onMgmt fun m => { m with l3Since := some now, l3s := recent ++ [now] }).onDev Dev.halt

/-- A dormant device wakes: the steps of its entry are undone (R422). -/
def State.awake (s : State) : State :=
  if s.pow.dormant then
    s.withStatus fun s => (s.onPow fun w => { w with dormant := false, dormantRun := 0 }).onDev fun d => { d with ready := true }
  else s

end Sys2Proof.Machine
end

