-- ==== Sys2Proof/Machine/Fabric.lean ====
section
/-!
DEFINITION. Die-to-die links, the paths of requests, their classes and channels, and the arbiters of shared ports (R288, R289, R304 to R317).
-/

namespace Sys2Proof.Machine

/-! ### Links (R304, R305, R309 to R311), numbered in the order of Table 12.1 (log 25). -/

/-- UCIe modules of a link. -/
def linkModules (l : Nat) : Nat := if l < 12 then 4 else if l < 32 then 2 else 1

/-- Redundant data lanes of a module: four in an x64 module, none in the kettle links' (PRESUMED of UCIe 2.0, log 25). -/
def spareLanes (l : Nat) : Nat := if l < 44 then 4 else 0

/-- A replay of a flit: the link needs a retrain after 8 failures in a row, or 256 replays within 2^16 fabric cycles. -/
def Link.replay (x : Link) (ok : Bool) (now : Nat) : Link :=
  let consec := if ok then 0 else x.consec + 1
  let recent := (x.recent.filter fun t => now < t + 2 ^ 16) ++ [now]
  { x with consec := consec, recent := recent, needs := x.needs || consec = 8 || 256 ≤ recent.length }

/-- Failed lanes by module: lane 64m + k is lane k of module m. -/
def laneCounts (l : Nat) (bad : List Nat) : List (Nat × Nat) :=
  (List.range (linkModules l)).filterMap fun m =>
    let n := (bad.eraseDups.filter fun b => b / 64 = m).length
    if n = 0 then none else some (m, n)

/-- Modules whose failed lanes exceed the redundant ones. -/
def halfModules (l : Nat) (counts : List (Nat × Nat)) : List Nat :=
  (counts.filter fun c => spareLanes l < c.2).map fun c => c.1

/-- The 8-byte map of the lanes remapped: bit k for lane k of any module that repair covers (DEDUCED, log 25). -/
def laneMap (l : Nat) (bad : List Nat) : Nat :=
  let half := halfModules l (laneCounts l bad)
  (bad.filter fun b => b < 64 * linkModules l && !has half (b / 64)).foldl (fun m b => m ||| 2 ^ (b % 64)) 0

/-- A retrain applies lane repair; a module beyond its redundant lanes runs at half width until the next device reset. -/
def State.retrained (s : State) (l : Nat) (bad : List Nat) : State :=
  let x := s.dev.getLink l
  if !x.needs ∨ x.failed then s
  else
    let counts := laneCounts l bad
    let half := (halfModules l counts).foldl addOnce x.half
    let s := (s.onDev fun d => (d.modLink l fun x => { x with
      consec := 0, recent := [], needs := false, bad := counts, half := half }).count 6 1).log 0x220 none none
        (leBytes 1 l ++ leBytes 8 (laneMap l bad))
    if half.length = x.half.length then s
    else (s.log 0x221 none none (leBytes 1 l ++ leBytes 8 (laneMap l bad))).needsService 6

/-! ### What crosses the fabric, and its paths (R288, R306, R307, Tables 11.5 and 12.3). -/

/-- The class of a request (Table 11.5): 0 CRITICAL, 1 READ, 2 WRITE, 3 BULK. Control traffic that the table does not list ranks with the
gate bookkeeping, CRITICAL (DEDUCED, log 25). -/
def reqClass (k : Req) : Nat :=
  match k with
  | .ccFill | .ccWriteBack | .rangeFill | .unitFill | .jormon | .coreRead => 0
  | .planeRead | .gather | .moverRead | .windowRead | .rdmaRead | .outflowRead => 1
  | .engineWrite | .coreStore | .coreWriteBack | .windowWrite | .rdmaWrite => 2
  | .steep | .sink | .shadowFill | .scrub | .relocation | .zeroing => 3
  | .gateMessage | .notice | .tableUpdate | .alarm => 0

/-- The channel of a link that a burst takes: 0 request, 1 response, 2 control (R306). -/
def burstChan (b : Burst) : Nat :=
  match b.kind with
  | .gateMessage | .notice | .tableUpdate | .unitFill | .alarm => 2
  | _ => if b.resp then 1 else 0

/-- The die of an end, numbered: terrace t is t, headgate h is 8 + h, CPU die q is 12 + q. -/
def nodeDie (n : Node) : Nat :=
  match n with
  | .terrace t => t.val
  | .headgate h => 8 + h.val
  | .cpu q => 12 + q.val
  | .hbm s _ => s.val / 3
  | .caddy c => 8 + c.val / 13
  | .bank e _ => e.t.val

/-- The quad of a die. -/
def dieQuad (d : Nat) : Nat := if d < 8 then d / 4 else if d < 12 then (d - 8) / 2 else d - 12

/-- Terraces of the two ends of link l inside a quad, 0 to 5. -/
def pairOf (l : Nat) : Nat × Nat := match l with | 0 => (0, 1) | 1 => (0, 2) | 2 => (0, 3) | 3 => (1, 2) | 4 => (1, 3) | _ => (2, 3)

/-- The link between two terraces of a quad, by their numbers in it, the lower first. -/
def pairLink (i j : Nat) : Nat := ((List.range 6).find? fun l => pairOf l = (i, j)).getD 0

/-- The port over which one die sends to another that a link joins to it: 2l + k, end k of link l; end 0 is the side that Table 12.1 names
first, or the lower terrace. -/
def hop (a b : Nat) : List Nat :=
  if a = b then []
  else if a < 8 ∧ b < 8 then
    if a / 4 = b / 4 then
      [2 * (6 * (a / 4) + pairLink (min (a % 4) (b % 4)) (max (a % 4) (b % 4))) + (if a < b then 0 else 1)]
    else [2 * (12 + a % 4) + (if a < b then 0 else 1)]
  else if 8 ≤ a ∧ a < 12 ∧ b < 8 then [2 * (16 + 4 * (a - 8) + b % 4)]
  else if a < 8 ∧ 8 ≤ b ∧ b < 12 then [2 * (16 + 4 * (b - 8) + a % 4) + 1]
  else if 12 ≤ a ∧ b < 8 then [2 * (32 + b)]
  else if a < 8 ∧ 12 ≤ b then [2 * (32 + a) + 1]
  else if 12 ≤ a ∧ 8 ≤ b ∧ b < 12 then [2 * (40 + (b - 8))]
  else if 8 ≤ a ∧ a < 12 ∧ 12 ≤ b then [2 * (40 + (a - 8)) + 1]
  else []

/-- Link ports of the fixed path between two dies: the direct link within a quad; otherwise terrace c of the own quad, culvert c, and from
terrace c of the other quad to the target. For a CPU die or headgate that goes to a terrace, c is that terrace's. -/
def diePath (a b c : Nat) : List Nat :=
  let c := if 8 ≤ a ∧ b < 8 then b % 4 else c
  if dieQuad a = dieQuad b then hop a b
  else
    let near := 4 * dieQuad a + c
    let far := 4 * dieQuad b + c
    hop a near ++ hop near far ++ hop far b

/-- The last port of a path: the memory port or cistern bank group that the burst goes to. Pseudo-channel p of stack s is 128 + 32s + p,
caddy channel c is 1,024 + c, bank group g of engine e is 16,384 + 256e + g (log 25). -/
def endPort (n : Node) : List Nat :=
  match n with
  | .hbm s p => [128 + 32 * s.val + p.val]
  | .caddy c => [1024 + c.val]
  | .bank e g => [16384 + 256 * eIdx e + g]
  | _ => []

/-- Every port that a burst passes, in order: those of its links, each in the burst's channel (link port p of channel k is p + 2,048 k),
and the one that it ends at. -/
def burstPath (b : Burst) : List Nat :=
  ((diePath (nodeDie b.src) (nodeDie b.dst) b.culvert.val).map fun p => p + 2048 * burstChan b) ++ endPort b.dst

/-- The port after one on a path. -/
def nextPort (l : List Nat) (p : Nat) : Option Nat := ((l.dropWhile fun q => q ≠ p).drop 1).head?

/-! ### Ports (R312 to R316). -/

/-- A memory port: an HBM pseudo-channel or a caddy channel. -/
def memPort (p : Nat) : Bool := 128 ≤ p && p < 1024 + 52

/-- The link that a port belongs to. -/
def portLink (p : Nat) : Option Nat := if p % 2048 < 88 ∧ p < 3 * 2048 then some (p % 2048 / 2) else none

/-- Bytes in 100 fabric cycles (Table 12.5). The rate of a cistern bank group is open (log 25). -/
def portRate (p : Nat) : Nat :=
  match portLink p with
  | some l => if l < 12 then 50000 else if l < 16 then 25000 else if l < 32 then 20000 else 12500
  | none => if 16384 ≤ p then Config.bankRate p else if p < 1024 then 2235 else 3520

/-- The payload capacity of a link in 100 fabric cycles (Table 12.1), less the half share of every module at half width (R310). -/
def linkCapacity (l half : Nat) : Nat :=
  let full := if l < 12 then 50000 else if l < 32 then 25000 else 12500
  full * (2 * linkModules l - half) / (2 * linkModules l)

/-- Whether a port has something to send. -/
def APort.busy (x : APort) : Bool := x.grant.isSome || !x.seen.isEmpty

/-- Bytes that a port sends in 100 fabric cycles: the lesser of its rate and its link's capacity; of a link's, control traffic takes one
sixteenth while it waits, and requests and responses share the rest evenly (log 25). -/
def Dev.rateOf (d : Dev) (p : Nat) : Nat :=
  match portLink p with
  | none => portRate p
  | some l =>
    let r := min (portRate p) (linkCapacity l (d.getLink l).half.length)
    let other (k : Nat) : Bool := (d.getAPort (p % 2048 + 2048 * k)).busy
    if p / 2048 = 2 then r / 16
    else
      let r := if other 2 then r * 15 / 16 else r
      if other (1 - p / 2048) then r / 2 else r

/-- Whether a port holds its traffic: its link is being retrained or has failed (R309, R311). -/
def Dev.portHeld (d : Dev) (p : Nat) : Bool :=
  match portLink p with
  | some l => (d.getLink l).needs || (d.getLink l).failed
  | none => false

def QBurst.cls (q : QBurst) : Nat := reqClass q.b.kind

/-- Whether a burst is a partition alarm, which goes ahead of all other control traffic (R306). -/
def QBurst.alarm (q : QBurst) : Bool := q.b.kind = .alarm

/-- Heads of the pending queues of requesters that are not masked. -/
def APort.heads (x : APort) : List (Nat × QBurst) :=
  x.queues.filterMap fun q => if has x.absent q.1 then none else q.2.head?.map fun b => (q.1, b)

/-- The first requester from the pointer on, in rising order and round again. -/
def nextFrom (ptr : Nat) (l : List (Nat × QBurst)) : Option (Nat × QBurst) :=
  match l.find? fun r => ptr ≤ r.1 with
  | some r => some r
  | none => l.head?

/-- The choice of one cycle among the requests seen at the end of the last: a partition alarm before all; a request that has waited 512
cycles, one class after another; then a batch of writes under way; then the highest class. It says too whether age decided. -/
def APort.choose (x : APort) (now : Nat) : Option (Nat × QBurst × Bool) :=
  let ofClass (k : Nat) (l : List (Nat × QBurst)) : Option (Nat × QBurst) :=
    nextFrom (Map.get x.ptrs k 0) (l.filter fun r => r.2.cls = k)
  let old := x.seen.filter fun r => 1 ≤ r.2.cls && r.2.since + 512 ≤ now
  let order := (List.range 3).map fun i => (x.aged + i) % 3 + 1
  match ofClass 0 (x.seen.filter fun r => r.2.alarm), order.findSome? fun k => ofClass k old with
  | some r, _ => some (r.1, r.2, false)
  | none, some r => some (r.1, r.2, true)
  | none, none =>
    let k := if 0 < x.batch then [0, 2, 1, 3] else [0, 1, 2, 3]
    (k.findSome? fun k => ofClass k x.seen).map fun r => (r.1, r.2, false)

/-- Takes a burst from the head of its requester's queue; a request that has been withdrawn leaves the cycle idle. -/
def APort.take (x : APort) (p : Nat) (r : Nat) (b : QBurst) (age : Bool) : APort :=
  let x : APort := { x with ptrs := Map.put x.ptrs b.cls (r + 1), aged := if age then b.cls else x.aged }
  match Map.get x.queues r [] with
  | h :: t =>
    if h = b then
      let reads : Bool := x.seen.any fun q => q.2.cls = 1
      let lines := ceilDiv b.b.bytes 128
      { x with
        queues := Map.put x.queues r t, grant := some (r, b), sent := 0
        batch := if memPort p ∧ b.cls = 2 ∧ reads then (if x.batch = 0 then 16 else x.batch) - lines else 0 }
    else x
  | [] => x

/-- A CRITICAL request that is seen revokes a BULK burst whose count is below 4: the burst returns to the head of its queue. -/
def APort.revoke (x : APort) : Option (APort × Bool) :=
  match x.grant with
  | some (r, b) =>
    if b.cls = 3 ∧ b.rev < 4 ∧ x.seen.any fun q => q.2.cls = 0 then
      some ({ x with
        grant := none, sent := 0
        queues := Map.put x.queues r ({ b with rev := b.rev + 1 } :: Map.get x.queues r []) }, b.rev + 1 = 4)
    else none
  | none => none

/-- A queue with a burst that has arrived: at its end, but an alarm before everything that is none. -/
def enqueue (q : List QBurst) (b : QBurst) : List QBurst :=
  if b.alarm then (q.takeWhile QBurst.alarm) ++ b :: (q.dropWhile QBurst.alarm) else q ++ [b]

/-- A burst arrives at a port: it is parked in its requester's queue, or finds it full and waits where it is; the flag says that it has
left. An absent requester's is discarded. -/
def Dev.park (d : Dev) (p r : Nat) (b : Burst) (now : Nat) : Dev × Bool :=
  let x := d.getAPort p
  let q := Map.get x.queues r []
  if has x.absent r then (d, true)
  else if q.length < 16 then
    (d.modAPort p fun x => { x with queues := Map.put x.queues r (enqueue q { b := b, rev := 0, since := now }) }, true)
  else if d.fullAt = some now then (d, false)
  else ({ d.count 9 1 with fullAt := some now }, false)

/-- The grant in force has sent its burst: it goes on to the next port of its path, where the port that it comes from is its requester
(4,096 + that port's number), or has arrived. The flag says that it has left this port. -/
def Dev.forward (d : Dev) (p now : Nat) : Dev × Bool :=
  match (d.getAPort p).grant with
  | none => (d, true)
  | some (_, q) =>
    match nextPort (burstPath q.b) p with
    | some n => d.park n (4096 + p) q.b now
    | none => (d, true)

/-- One fabric cycle of a port: the grant in force sends its bytes; when its burst has left, is revoked, or there is none, the next is
chosen. A channel sends into the next port's queue for it, and so waits for no other channel (R306). -/
def Dev.arbitrate (d : Dev) (p now : Nat) : Dev :=
  if d.portHeld p then d
  else
    let x := d.getAPort p
    let sent := x.sent + (if x.grant.isSome then d.rateOf p else 0)
    let ended : Bool := match x.grant with | some g => 100 * g.2.b.bytes ≤ sent | none => true
    let pick (x : APort) : APort :=
      match x.choose now with
      | some (r, b, age) => x.take p r b age
      | none => x
    let fin (x : APort) : APort := { x with seen := x.heads }
    let r := if ended then d.forward p now else (d, false)
    if r.2 then r.1.modAPort p fun x => fin (pick { x with grant := none, sent := 0 })
    else
      match ({ x with sent := sent } : APort).revoke with
      | some (y, last) =>
        let d := (r.1.modAPort p fun _ => fin (pick { y with seen := y.seen.filter fun q => q.2.cls = 0 })).count 7 1
        if last then d.count 8 1 else d
      | none => r.1.modAPort p fun x => fin { x with sent := sent }

/-- The writes that bursts at a port bring. -/
def APort.writes (x : APort) : List Nat :=
  (x.queues.flatMap fun q => q.2.flatMap fun b => b.b.writes) ++ match x.grant with | some g => g.2.b.writes | none => []

/-- Whether a write's burst has arrived: none at any port brings it (R234). -/
def Dev.arrived (d : Dev) (id : Nat) : Bool := d.ports.all fun p => !has p.2.writes id

/-- Writes that are not performed: their bursts were cut short or held by a link that failed (R234, R311, R314). -/
def Memory.drop (m : Memory) (ids : List Nat) : Memory := { m with flight := m.flight.filter fun w => !has ids w.id }

/-- A requester's absence at a port (R314): its queue goes, and its grant if it has not started or sends a write; when the signal falls it
starts with an empty queue. -/
def APort.setAbsent (x : APort) (r : Nat) (absent : Bool) : APort :=
  if absent then
    let cut : Bool := match x.grant with | some g => g.1 = r && (x.sent = 0 || g.2.cls = 2) | none => false
    { x with
      absent := addOnce x.absent r, queues := Map.del x.queues r
      grant := if cut then none else x.grant, sent := if cut then 0 else x.sent }
  else { x with absent := x.absent.filter fun q => q ≠ r }

/-- REQUESTER_ABSENT at a port: the writes of what is discarded are not performed. -/
def State.absentAt (s : State) (port r : Nat) (absent : Bool) : State :=
  let x := s.dev.getAPort port
  let y := x.setAbsent r absent
  (s.onDev fun d => d.modAPort port fun _ => y).onMem fun m => m.drop (x.writes.filter fun i => !has y.writes i)

/-- Whether a burst of a steep to a terrace waits at a port, revoked (R231, R315). -/
def Dev.revokedTo (d : Dev) (t : Nat) : Bool :=
  d.ports.any fun p => p.2.queues.any fun q => q.2.any fun b => b.b.kind = .steep && 0 < b.rev && nodeDie b.b.dst = t

/-- A link fails: it does not train, or all its modules run at half width and a further lane is lost. What it holds is not performed. -/
def State.linkFails (s : State) (l : Nat) : State :=
  let x := s.dev.getLink l
  if x.failed ∨ !(x.needs ∨ x.half.length = linkModules l) then s
  else
    let mine := s.dev.ports.filter fun p => portLink p.1 = some l
    let s := (s.onMem fun m => m.drop (mine.flatMap fun p => p.2.writes)).onDev fun d => { d with
      ports := d.ports.map fun p => (p.1, if portLink p.1 = some l then { p.2 with queues := [], grant := none, sent := 0, seen := [] } else p.2) }
    ((s.onDev fun d => d.modLink l fun x => { x with failed := true, needs := false }).log 0x222 none none
      (leBytes 1 l ++ leBytes 8 0)).callL3

/-! ### Meanings. -/

/-- LINK_REPLAY (R309). -/
def execLinkReplay (link : Fin 50) (succeeded : Bool) (s : State) : Out :=
  .next (let x := s.dev.getLink link.val
    if x.needs ∨ x.failed then s
    else s.onDev fun d => (d.modLink link.val fun x => x.replay succeeded s.time.fabric).count 5 1)

/-- LINK_RETRAINED (R309, R310). -/
def execLinkRetrained (link : Fin 50) (badLanes : List Nat) (s : State) : Out := .next (s.retrained link.val badLanes)

/-- LINK_FAILED (R311, R454). -/
def execLinkFailed (link : Fin 50) (s : State) : Out := .next (s.linkFails link.val)

/-- PORT_REQUEST (R307, R313, R317): a burst enters the fabric at the first port of its path; no other port takes it. -/
def execPortRequest (port requester : Nat) (b : Burst) (s : State) : Out :=
  .next (if (burstPath b).head? = some port then s.onDev fun d => (d.park port requester b s.time.fabric).1 else s)

/-- ARBITER_GRANT (R312, R315). -/
def execArbiterGrant (port : Nat) (s : State) : Out := .next (s.onDev fun d => d.arbitrate port s.time.fabric)

/-- REQUESTER_ABSENT (R314). -/
def execRequesterAbsent (port requester : Nat) (absent : Bool) (s : State) : Out :=
  .next (s.absentAt port requester absent)

end Sys2Proof.Machine
end

