-- ==== Sys2Proof/Machine/Homes.lean ====
section
/-!
DEFINITION. The homes of HBM and caddy memory: writes and reads performed there, correction, detection and poison, repair and
retirement, refresh, and the caddy's retries and stripes (R232 to R237, R278 to R303).
-/

namespace Sys2Proof.Machine

/-! ### Where a line lies (R279, R280, R291). -/

/-- Stack, pseudo-channel and byte address within it of an offset of a slot. -/
def hbmUnit (t off : Nat) : Nat × Nat × Nat :=
  if off < 0x2E80000000 then
    let u := off / 256
    let v := u / 3
    (3 * t + u % 3, bits v 4 0 ^^^ bits v 20 16, v / 32 * 256 + off % 256)
  else
    let j := (off - 0x2E80000000) / 2 ^ 31
    let r := (off - 0x2E80000000 - j * 2 ^ 31) / 256
    (3 * t + j, r % 32, 0x7C000000 + r / 32 * 256 + off % 256)

/-- The new place of a byte address of a retired pseudo-channel (R291). -/
def hbmMoved (p a : Nat) : Nat × Nat :=
  let i := a / 256
  ((p + 1 + i % 31) % 32, 0x7C000000 + i / 31 * 256 + a % 256)

/-- Where an offset is served from now. -/
def Dev.hbmPlace (d : Dev) (t off : Nat) : Nat × Nat × Nat :=
  let u := hbmUnit t off
  if (d.getStack u.1).retired = some u.2.1 then (u.1, hbmMoved u.2.1 u.2.2) else u

/-- The caddy channel of an address (R294). -/
def caddyChan (a : Nat) : Nat := let p := caddyPlace a; 13 * p.1 + p.2.2

/-! ### Checks (R281 to R284, R290, R297, R303). -/

/-- Counts a correction towards a record of its stack or channel: at most one in 2^20 kettle cycles (R303). -/
def corrRecord (now : Nat) (at' : Option Nat) (n : Nat) : Option Nat × Nat × Option Nat :=
  let due : Bool := match at' with | some t => t + 2 ^ 20 ≤ now | none => true
  if due then (some now, 0, some (n + 1)) else (at', n + 1, none)

/-- A line of an error joins those of its pseudo-channel. -/
def Stack.err (x : Stack) (p line : Nat) : Stack := { x with errs := Map.put x.errs p (addOnce (Map.get x.errs p []) line) }

/-- A guarded line is corrected (R282): counted, and logged at most once per interval. -/
def State.hbmCorrected (s : State) (st p line : Nat) : State :=
  let x := s.dev.getStack st
  let r := corrRecord s.kettle x.corrAt x.corrN
  let s := s.onDev fun d => (d.modStack st fun x => { x.err p line with corrAt := r.1, corrN := r.2.1 }).count 0 1
  match r.2.2 with
  | some n => s.log 0x206 none none (leBytes 1 st ++ leBytes 4 n)
  | none => s

/-- A detection: the whole line is poisoned, counted and logged; the 64th of a pseudo-channel since device reset triggers its
retirement (R284, R290). -/
def State.hbmDetected (s : State) (st p line : Nat) : State :=
  let n := Map.get (s.dev.getStack st).detects p 0 + 1
  let s := s.onMem fun m => m.setPoison line fullMask
  let s := s.onDev fun d => (d.modStack st fun x =>
    let x := x.err p line
    { x with detects := Map.put x.detects p n, triggers := if n = 64 then addOnce x.triggers p else x.triggers }).count 1 1
  s.log 0x203 none none (leBytes 8 (line * 128))

/-- A correctable caddy read is corrected (R297, R303). -/
def State.caddyCorrected (s : State) (ch : Nat) : State :=
  let x := s.dev.getChan ch
  let r := corrRecord s.kettle x.corrAt x.corrN
  let s := s.onDev fun d => (d.modChan ch fun x => { x with corrAt := r.1, corrN := r.2.1 }).count 2 1
  match r.2.2 with
  | some n => s.log 0x206 none none (leBytes 1 (0x80 + ch) ++ leBytes 4 n)
  | none => s

/-- What the check of a line read does. A lean frame corrects nothing. -/
def State.homeChecked (s : State) (pa : Nat) (chk : Check) : State :=
  match paOf pa, chk with
  | .hbm t off, .corrected => if s.dev.lean pa then s else let u := s.dev.hbmPlace t off; s.hbmCorrected u.1 u.2.1 (pa / 128)
  | .hbm t off, .uncorrectable => let u := s.dev.hbmPlace t off; s.hbmDetected u.1 u.2.1 (pa / 128)
  | .caddy _, .corrected => s.caddyCorrected (caddyChan pa)
  | _, _ => s

/-! ### Writes (R233, R234). -/

/-- Whether a write on its way may be performed now: writes of one window, and of one queue pair, to one line keep their order
(R250). -/
def Memory.mayLand (m : Memory) (w : LineWrite) : Bool :=
  match w.from' with
  | .part _ => true
  | .ccWb _ => true
  | o => ((m.flight.takeWhile fun x => x.id ≠ w.id).all fun x => x.from' ≠ o || x.line ≠ w.line)

/-- A write on its way is performed at its line's home, once the burst that brings it has arrived (R234). -/
def State.land (s : State) (id : Nat) : State :=
  match s.mem.flight.find? fun w => w.id = id with
  | none => s
  | some w =>
    if s.mem.mayLand w ∧ s.dev.arrived id then
      ((s.onMem fun m => { m with flight := m.flight.filter fun x => x.id ≠ id }).homeWrite w.line w.mask w.data).onDev
        fun d => d.markDirty (w.line * 128)
    else s

/-! ### Repair and retirement (R290 to R292). -/

/-- Row repair: at 4 distinct addresses of a row. Its lines no longer count; a bank without repair resources triggers the
retirement of its pseudo-channel instead. -/
def State.rowRepair (s : State) (st p bank row : Nat) : State :=
  let x := s.dev.getStack st
  let inRow (line : Nat) : Bool :=
    match paOf (line * 128) with
    | .hbm t off => Config.dramRow ((s.dev.hbmPlace t off).2.2) = (bank, row)
    | _ => false
  let lines := Map.get x.errs p []
  if (lines.filter inRow).length < 4 then s
  else
    let rest := lines.filter fun l => !inRow l
    if Config.bankRepairs ≤ (x.repaired.filter fun r => r.1 = 2 ^ 16 * p + bank).length then
      s.onDev fun d => d.modStack st fun x => { x with errs := Map.put x.errs p rest, triggers := addOnce x.triggers p }
    else
      (s.onDev fun d => d.modStack st fun x => { x with
        errs := Map.put x.errs p rest, repaired := x.repaired ++ [(2 ^ 16 * p + bank, row)] }).log 0x201 none none
          (leBytes 1 st ++ leBytes 1 p ++ leBytes 4 row)

/-- Lanes that self-test finds failing, at power-up and at device reset: repaired and logged, or beyond repair, which triggers the
retirement of their pseudo-channel (R290, Table 20.7). -/
def State.laneFound (s : State) (l : List LaneFinding) : State :=
  l.foldl (fun s x =>
    if x.fixable then
      (s.onDev fun d => d.modStack x.stack.val fun y => { y with lanes := y.lanes ++ [(x.pc.val, x.lane)] }).log 0x202 none none
        (leBytes 1 x.stack.val ++ leBytes 1 x.pc.val ++ leBytes 4 x.lane)
    else s.onDev fun d => d.modStack x.stack.val fun y => { y with triggers := addOnce y.triggers x.pc.val }) s

/-- Objects with granules in the reserve frames of a stack: partition and number. -/
def Dev.inReserve (d : Dev) (st : Nat) : List (Nat × Nat) :=
  let lo := hbmPa (st / 3) ((186 + 2 * (st % 3)) * 2 ^ 30)
  d.partns.flatMap fun q => (q.2.objs.filter fun o => o.2.held.any fun g => lo ≤ g && g < lo + 2 ^ 31).map fun o => (q.1, o.1)

/-- Retirement: the reserve frames are emptied, then leave the pool (Dev.frameOut), and the pseudo-channel is served from its new places. A second
trigger of a stack retires nothing. -/
def State.retirePc (s : State) (st p : Nat) : State :=
  let x := s.dev.getStack st
  let t := st / 3
  let data := leBytes 1 t ++ leBytes 1 st ++ leBytes 1 p
  if !has x.triggers p then s
  else if x.retired.isSome then
    ((s.onDev fun d => d.modStack st fun x => { x with triggers := x.triggers.filter fun q => q ≠ p }).log 0x205 none none
      data).needsService 1
  else
    let who := s.dev.inReserve st
    if who.isEmpty then
      (s.onDev fun d => d.modStack st fun x => { x with
        retired := some p, triggers := x.triggers.filter fun q => q ≠ p }).log 0x204 none none data
    else
      s.onDev fun d => who.foldl (fun d o =>
        match d.getObj o.1 o.2 with
        | some y => if y.res = .resident ∧ y.sinkOp.isNone then (d.sinkRequest o.1 o.2 true 0xFFFF 0).1 else d
        | none => d) d

/-! ### Refresh (R287). -/

/-- The refresh multiple that a reading in 0.25 degC asks for (Table 11.4). -/
def refreshFor (q : Int) : Nat := if q ≤ 340 then 1 else if q ≤ 380 then 2 else 4

/-- A temperature reading: the rate steps up at once, and the time since which readings have stayed 3 degC below each threshold
runs on or starts afresh. -/
def Stack.read (x : Stack) (q : Int) (now : Nat) : Stack :=
  { x with
    temp := q, refresh := max x.refresh (refreshFor q)
    coolLo := if q ≤ 328 then some (x.coolLo.getD now) else none
    coolHi := if q ≤ 368 then some (x.coolHi.getD now) else none }

/-- The rate steps down once readings have stayed so for 2^11 kettle cycles. -/
def Stack.stepDown (x : Stack) (now : Nat) : Stack :=
  let long (c : Option Nat) : Bool := match c with | some t => t + 2 ^ 11 ≤ now | none => false
  if x.refresh = 4 ∧ long x.coolHi then { x with refresh := 2 }
  else if x.refresh = 2 ∧ long x.coolLo then { x with refresh := 1 }
  else x

/-! ### The caddy (R297 to R299, R301). -/

/-- A retry of an access. -/
def Chan.retry (x : Chan) (ok : Bool) : Chan := { x with fails := if ok then 0 else x.fails + 1 }

/-- The 8th failed retry of an access retires its channel, or loses the group when another of it is retired already. -/
def State.retireChan (s : State) (ch : Nat) : State :=
  let x := s.dev.getChan ch
  let g := ch / 13
  let data := leBytes 1 ch ++ leBytes 8 x.serial
  if x.fails < 8 ∨ x.retired then s
  else if (List.range 13).any fun k => 13 * g + k ≠ ch && (s.dev.getChan (13 * g + k)).retired then
    ((s.onDev fun d => d.modChan ch fun x => { x with fails := 0 }).log 0x211 none none data).callL4
  else
    ((s.onDev fun d => d.modChan ch fun x => { x with fails := 0, retired := true, badSerial := some x.serial }).log 0x210 none none
      data).needsService 2

/-! ### Meanings. -/

/-- HOME_WRITE (R233). -/
def execHomeWrite (id : Nat) (s : State) : Out := .next (s.land id)

/-- PATROL_SCRUB (R290): a line of a frame is read; it is corrected or marked, and nothing beyond. -/
def execPatrolScrub (pa : Nat) (chk : Check) (s : State) : Out :=
  .next (match paOf pa with
    | .hbm _ _ => s.homeChecked pa chk
    | _ => s)

/-- ROW_REPAIR (R290). -/
def execRowRepair (stack : Fin 24) (pc : Fin 32) (bank row : Nat) (s : State) : Out := .next (s.rowRepair stack.val pc.val bank row)

/-- PSEUDO_CHANNEL_RETIREMENT (R291, R292). -/
def execPseudoChannelRetirement (stack : Fin 24) (pc : Fin 32) (s : State) : Out := .next (s.retirePc stack.val pc.val)

/-- HBM_TEMPERATURE_READ (R287): used for refresh and reported (R468). -/
def execHbmTemperatureRead (stack : Fin 24) (quarter : Int) (s : State) : Out :=
  .next ((s.onDev fun d => d.modStack stack.val fun x => x.read quarter s.kettle).sensor (0x2000 + stack.val) (some quarter))

/-- REFRESH_STEP_DOWN (R287). -/
def execRefreshStepDown (stack : Fin 24) (s : State) : Out :=
  .next (s.onDev fun d => d.modStack stack.val fun x => x.stepDown s.kettle)

/-- CADDY_RETRY (R297): each retry counts one CADDY_RETRIES. -/
def execCaddyRetry (chan : Fin 52) (succeeded : Bool) (s : State) : Out :=
  .next (s.onDev fun d => (d.modChan chan.val fun x => x.retry succeeded).count 3 1)

/-- CADDY_CHANNEL_RETIRED (R298, R299). -/
def execCaddyChannelRetired (chan : Fin 52) (s : State) : Out := .next (s.retireChan chan.val)

/-- STRIPE_BUFFER_FLUSH (R296): the gathered writes of a stripe and its parity are applied; parity then is the XOR of the data
(R295), so that it needs no place of its own. -/
def execStripeBufferFlush (h : Fin 4) (stripe : Nat) (s : State) : Out :=
  .next (s.onDev fun d => { d with stripes := Map.del d.stripes (h.val * 2 ^ 32 + stripe) })

end Sys2Proof.Machine
end

