-- ==== Sys2Proof/Machine/Vector.lean ====
section
/-!
DEFINITION. The vector instructions of Xkq, vector loads and stores of the cup, and kqcvt (R96, R122 to R124).
-/

namespace Sys2Proof.Machine

/-! ### Vector registers: v0 to v31 of 128 bytes each (R94). -/

/-- Element k of a group that starts at register r, w bytes wide. -/
def Cluster.vget (c : Cluster) (r w k : Nat) : Nat := Mem.le c.v (128 * r + w * k) w

def Cluster.vset (c : Cluster) (r w k v : Nat) : Cluster := { c with v := Mem.write c.v (128 * r + w * k) (leBytes w v) }

/-- Writes consecutive elements from element 0 on. -/
def Cluster.vfill (c : Cluster) (r w : Nat) (vs : List Nat) : Cluster :=
  (List.range vs.length).foldl (fun c k => c.vset r w k (vs.getD k 0)) c

/-- Mask bit k of v0. -/
def Cluster.vmask (c : Cluster) (k : Nat) : Bool := bit (Mem.get c.v (k / 8)).toNat (k % 8)

/-- Registers of a group of elements of a width in bits: EMUL of one register or more (R122). -/
def Cluster.regs (c : Cluster) (eew : Nat) : Nat :=
  let l := c.lmul + (eew.log2 : Int) - (c.sew.log2 : Int)
  if l ≤ 0 then 1 else 2 ^ l.toNat

/-- Registers that the packed bytes of a format take, for as many elements as a group can hold. -/
def Cluster.packRegs (c : Cluster) (f : Nat) : Nat :=
  let vlmax := if 0 ≤ c.lmul then 1024 * 2 ^ c.lmul.toNat / c.sew else 1024 / 2 ^ (-c.lmul).toNat / c.sew
  max 1 (ceilDiv (vlmax * fmtBits f) 1024)

/-- Whether two register groups overlap. -/
def vover (a n b m : Nat) : Bool := a < b + m && b < a + n

/-- Whether a group is aligned, within the file, and of at most 8 registers (R122). -/
def vlegal (r n : Nat) : Bool := n ≤ 8 && r % n = 0 && r + n ≤ 32

/-! ### kqcvt (Table 5.11). -/

def Cluster.fmt (c : Cluster) : Nat := bits c.kqcvt.toNat 19 16
def Cluster.mode (c : Cluster) : Nat := bits c.kqcvt.toNat 1 0
def Cluster.pe8 (c : Cluster) : Byte := c.kqcvt.extractLsb' 8 8
def Cluster.e0 (c : Cluster) : Int := signed 16 (bits c.kqcvt.toNat 47 32)
def Cluster.lineIdx (c : Cluster) : Nat := bits c.kqcvt.toNat 63 48

/-- Whether kqcvt takes a value (R122): a format of Table 2.1 but KA96, and a mode and pinned E8 that R43 takes. -/
def kqcvtOk (v : Word) : Bool :=
  let n := v.toNat
  bits n 19 16 < 10 && bits n 1 0 ≠ 3 && bits n 7 3 = 0 && !(bit n 2 && bits n 15 8 = 0x80)

/-- The group size of kqcvt's format: a block, or all of vl (R122). -/
def Cluster.group (c : Cluster) : Nat := if fmtBlock c.fmt = 0 then c.vl else fmtBlock c.fmt

/-- The number of groups. -/
def Cluster.groups (c : Cluster) : Nat := if c.vl = 0 then 0 else if fmtBlock c.fmt = 0 then 1 else c.vl / fmtBlock c.fmt

/-- Narrowest SEW that holds the codes of a format (R123). -/
def fmtSew (f : Nat) : Nat := if fmtBits f ≤ 8 then 8 else if fmtBits f ≤ 16 then 16 else 32

/-- The signed integer elements of group g. -/
def Cluster.elems (c : Cluster) (vs2 g : Nat) : List Int :=
  (List.range c.group).map fun k => signed c.sew (c.vget vs2 (c.sew / 8) (g * c.group + k))

/-- The exact values of group g, poisoned where v0 marks them and the instruction is masked (R123). -/
def Cluster.nums (c : Cluster) (vs2 g : Nat) (vm : Bool) : List Num :=
  (List.range c.group).map fun k =>
    { m := signed c.sew (c.vget vs2 (c.sew / 8) (g * c.group + k)), e := c.e0,
      poison := !vm && c.vmask (g * c.group + k) }

/-! ### Checks. -/

/-- A vector instruction's register fields: vtype is set, vstart is 0, the destination overlaps no source and every group is legal (R96,
R122). -/
def Cluster.vok (c : Cluster) (vd nd : Nat) (srcs : List (Nat × Nat)) : Bool :=
  c.vstart = 0 && !c.vill && vlegal vd nd && srcs.all fun x => vlegal x.1 x.2 && !vover vd nd x.1 x.2

/-- The checks of the kqcvt instructions: illegal instruction, KQ_FORMAT, KQ_LIMIT (R122, R123). `codes` marks those whose
elements are codes. -/
def Cluster.cvtBad (c : Cluster) (vd nd : Nat) (srcs : List (Nat × Nat)) (codes : Bool) : Option Nat :=
  if !c.vok vd nd srcs then some 2
  else if codes ∧ c.sew < fmtSew c.fmt then some 26
  else if codes ∧ fmtLine c.fmt ∧ 65536 < c.lineIdx + c.vl then some 26
  else if fmtBlock c.fmt ≠ 0 ∧ c.vl % fmtBlock c.fmt ≠ 0 then some 30
  else none

/-- Runs a vector instruction of an encoding, or traps. -/
def State.vrun (s : State) (i enc : Nat) (bad : Option Nat) (f : State → State) : State :=
  match bad with
  | some cause => s.trap i cause enc
  | none => f s

/-- The bits of a vector instruction of Xkq (Table 5.8). -/
def xkqBits (f6 : Nat) (vm : Bool) (vs2 r1 f3 vd : Nat) : Nat :=
  f6 * 2 ^ 26 + (if vm then 2 ^ 25 else 0) + vs2 * 2 ^ 20 + r1 * 2 ^ 15 + f3 * 2 ^ 12 + vd * 2 ^ 7 + 0x2B

/-- The bits of a vector load or store of nf + 1 fields (the V extension's encoding, log 56). -/
def vmemBits (vd rs1 : Nat) (mode : VMode) (log2 nf : Nat) (vm store : Bool) : Nat :=
  let m : Nat × Nat × Nat := match mode with
    | .unit => (0, 0, nf)
    | .strided r => (2, r.val, nf)
    | .indexed v => (1, v.val, nf)
    | .mask => (0, 11, nf)
    | .whole n => (0, 8, 2 ^ n.val - 1)
    | .first => (0, 16, nf)
  m.2.2 * 2 ^ 29 + m.1 * 2 ^ 26 + (if vm then 2 ^ 25 else 0) + m.2.1 * 2 ^ 20 + rs1 * 2 ^ 15
    + (if log2 = 0 then 0 else 4 + log2) * 2 ^ 12 + vd * 2 ^ 7 + if store then 0x27 else 0x07

/-! ### Results (Table 5.12, R124). -/

/-- kq.bexp of a group; a sum outside 16 bits has no stated result and is free (log 5). -/
def bexp (e0 : Int) (xs : List Int) (fr : Nat) : Nat × Nat :=
  let m := xs.foldl (fun a x => max a x.natAbs) 0
  let r : Int := if m = 0 then -32768 else e0 + bitlen m - 1
  if r < -32768 ∨ 32767 < r then (leNat [Config.freeByte fr, Config.freeByte (fr + 1)], 2) else (code 16 r, 0)

/-- kq.bexp over all groups. -/
def Cluster.bexpAll (c : Cluster) (vd vs2 fr : Nat) : Cluster × Nat :=
  let r := (List.range c.groups).foldl (fun (a : List Nat × Nat) g =>
    let x := bexp c.e0 (c.elems vs2 g) (fr + a.2)
    (a.1 ++ [x.1], a.2 + x.2)) (([] : List Nat), 0)
  (c.vfill vd 2 r.1, r.2)

/-- kq.fit: the fitted E8 of each group (R44). -/
def Cluster.fitAll (c : Cluster) (vd vs2 : Nat) (vm : Bool) : Cluster :=
  let r := (List.range c.groups).map fun g =>
    let xs := c.nums vs2 g vm
    if xs.any (fun x => x.poison) then (0x80, 0)
    else let f := fitGroup c.fmt xs; (code 8 f.1, f.2)
  (c.vfill vd 1 (r.map fun x => x.1)).addCnt { clamp := (r.map fun x => x.2).sum }

/-- kq.pin: PINNED_E8 for each group. -/
def Cluster.pinAll (c : Cluster) (vd vs2 : Nat) (vm : Bool) : Cluster :=
  c.vfill vd 1 ((List.range c.groups).map fun g =>
    if (c.nums vs2 g vm).any (fun x => x.poison) then 0x80 else c.pe8.toNat)

/-- kq.align: codes of each group at the exponent of vs1 (R46, R47). -/
def Cluster.alignAll (c : Cluster) (vd vs2 vs1 fr : Nat) : Cluster × Cnt :=
  let r := (List.range c.groups).foldl (fun (a : List Int × Cnt) g =>
    match e8 (BitVec.ofNat 8 (c.vget vs1 1 g)) with
    | none => (a.1 ++ List.replicate c.group 0, a.2.add { pois := 1 })
    | some e =>
      let o := roundGroup c.fmt c.mode e (c.nums vs2 g true) (fr + a.2.draws)
      (a.1 ++ o.1, a.2.add o.2)) (([] : List Int), ({} : Cnt))
  ((c.vfill vd (c.sew / 8) (r.1.map fun x => code c.sew x)).addCnt r.2, r.2)

/-- kq.pack: element-plane bytes (R31, R32, R41, R47). -/
def Cluster.packAll (c : Cluster) (vd vs2 vs1 : Nat) : Cluster :=
  let r := (List.range c.groups).foldl (fun (a : List Int × Nat) g =>
    if c.vget vs1 1 g = 0x80 then (a.1 ++ List.replicate c.group 0, a.2)
    else
      let xs := (c.elems vs2 g).map fun x => clip c.fmt x
      (a.1 ++ xs.map (fun x => x.1), a.2 + (xs.filter fun x => x.2).length)) (([] : List Int), 0)
  (c.vfill vd 1 ((packCodes c.fmt r.1).map fun b => b.toNat)).addCnt { sat := r.2 }

/-- kq.unpack: codes sign-extended to SEW; an excluded code reads as zero and counts (R30). -/
def Cluster.unpackAll (c : Cluster) (vd vs2 : Nat) : Cluster :=
  let cs := (List.range c.vl).map fun k => elemCode c.fmt (fun o => Mem.get c.v (128 * vs2 + o)) k
  (c.vfill vd (c.sew / 8) (cs.map fun x => code c.sew (codeValue c.fmt x))).addCnt
    { viol := (cs.filter fun x => x = 2 ^ (fmtBits c.fmt - 1)).length }

/-- kq.srnd: x / 2^sh rounded stochastically; one draw per active element (R46, R48). -/
def Cluster.srndAll (c : Cluster) (vd vs2 sh : Nat) (vm : Bool) (fr : Nat) : Cluster × Nat :=
  (List.range c.vl).foldl (fun (a : Cluster × Nat) k =>
    if !vm && !c.vmask k then a
    else
      let x := roundShift 2 (signed c.sew (c.vget vs2 (c.sew / 8) k)) sh false (Config.draw (fr + a.2)).toNat
      (a.1.vset vd (c.sew / 8) k (code c.sew x), a.2 + 1)) (c, 0)

/-- Whether one candidate of kq.topk comes before another: greater value, then lower index (R124). -/
def topkLe (a b : Nat × Int) : Bool := b.2 < a.2 || (a.2 = b.2 && a.1 ≤ b.1)

/-- Inserts a candidate in order. -/
def topkIns (x : Nat × Int) (l : List (Nat × Int)) : List (Nat × Int) :=
  match l with
  | [] => [x]
  | y :: t => if topkLe x y then x :: y :: t else y :: topkIns x t

/-- kq.topk (R124): the k best of vs2's candidates, and with MERGE of the pairs in vd. -/
def Cluster.topkAll (c : Cluster) (vd vs2 rs1 : Nat) (vm : Bool) : Cluster :=
  let k := rs1 % 16
  let base := bits rs1 31 16
  let mine := (List.range c.vl).filterMap fun j =>
    if !vm && !c.vmask j then none else some ((base + j) % 2 ^ 32, signed c.sew (c.vget vs2 (c.sew / 8) j))
  let held := if bit rs1 8 then (List.range 8).filterMap fun j =>
      let n := c.vget vd 4 j
      if n = 0xFFFFFFFF then none else some (n, signed 32 (c.vget vd 4 (8 + j)))
    else []
  let best := ((mine ++ held).foldl (fun l x => topkIns x l) []).take k
  (List.range 8).foldl (fun c j =>
    match best[j]? with
    | some x => (c.vset vd 4 j x.1).vset vd 4 (8 + j) (code 32 x.2)
    | none => (c.vset vd 4 j 0xFFFFFFFF).vset vd 4 (8 + j) (2 ^ 31)) c

/-! ### Vector loads and stores (R94, R96; their forms are those of the V extension, log 56). -/

/-- Element width in bytes of a vector access: that of the encoding, or SEW when indexed. -/
def vwidth (c : Cluster) (mode : VMode) (log2 : Nat) : Nat := match mode with | .indexed _ => c.sew / 8 | _ => 2 ^ log2

/-- Number of elements of an access, or of segments. -/
def vcount (c : Cluster) (mode : VMode) (log2 : Nat) : Nat :=
  match mode with
  | .mask => ceilDiv c.vl 8
  | .whole n => 2 ^ n.val * 128 / 2 ^ log2
  | _ => c.vl

/-- Registers of the group of one field. -/
def vgroup (c : Cluster) (mode : VMode) (log2 : Nat) : Nat :=
  match mode with
  | .mask => 1
  | .whole n => 2 ^ n.val
  | _ => c.regs (8 * vwidth c mode log2)

/-- Address of field f of segment k, of nf + 1 fields of w bytes. -/
def vaddr (c : Cluster) (mode : VMode) (base : Word) (log2 nf k f : Nat) : Nat :=
  let w := vwidth c mode log2
  let seg : Word := match mode with
    | .strided rs2 => BitVec.ofNat 64 k * c.xget rs2
    | .indexed vs2 => BitVec.ofNat 64 (c.vget vs2.val (2 ^ log2) k)
    | _ => BitVec.ofNat 64 (k * (nf + 1) * w)
  (base + seg + BitVec.ofNat 64 (f * w)).toNat

/-- The trap that an active element raises: misaligned (cause 4 or 6), outside the own cup (5 or 7). A vector access to another cluster's cup or
to the cistern raises the access fault of R96, not KQ_FOREIGN (log 56). -/
def vfault (k a w : Nat) (store : Bool) : Option (Nat × Nat) :=
  if a % w ≠ 0 then some (if store then 6 else 4, a)
  else if a < 2 ^ 63 then some (if store then 7 else 5, a)
  else match localOf k a with
    | .cup _ => none
    | _ => some (if store then 7 else 5, a)

/-- The cup offset of a local address in the own cup. -/
def cupOff (k a : Nat) : Nat := match localOf k a with | .cup o => o | _ => 0

/-- Whether EMUL of an element width lies below 1/8. -/
def Cluster.emulLow (c : Cluster) (eew : Nat) : Bool := c.lmul + (eew.log2 : Int) - (c.sew.log2 : Int) < -3

/-- Whether the data group of a load may share registers with its index group of another width: in its lowest registers where the data are
narrower, in its highest where they are wider. -/
def idxShare (vd nd w vs ns v : Nat) : Bool :=
  !vover vd nd vs ns || w = v || (w < v && vd = vs) || (v < w && vd + nd = vs + ns)

/-- Whether the form of a vector load or store is illegal: its encoding, vtype, vstart, or its register groups. -/
def Cluster.vmemBad (c : Cluster) (vd : Nat) (mode : VMode) (log2 nf : Nat) (vm store : Bool) : Bool :=
  let w := vwidth c mode log2
  let nd := vgroup c mode log2
  let plain : Bool := match mode with
    | .mask => log2 = 0 && nf = 0 && vm
    | .whole _ => nf = 0 && vm && (!store || log2 = 0)
    | .first => !store && !c.vill && !c.emulLow (8 * w)
    | _ => !c.vill && !c.emulLow (8 * w)
  let idx : Bool := match mode with
    | .indexed vs2 =>
      let ns := c.regs (8 * 2 ^ log2)
      !c.emulLow (8 * 2 ^ log2) && vlegal vs2.val ns &&
        (store || if nf = 0 then idxShare vd nd w vs2.val ns (2 ^ log2) else !vover vd (nd * (nf + 1)) vs2.val ns)
    | _ => true
  let ill : Bool := match mode with | .mask => c.vill | _ => false
  c.vstart ≠ 0 || 3 < log2 || ill || !plain || !idx || !vlegal vd nd || 8 < nd * (nf + 1) || 32 < vd + nd * (nf + 1)
    || (!store && !vm && vd = 0)

/-- The first trap of the fields of segment k. -/
def vsegFault (c : Cluster) (kcl : Nat) (mode : VMode) (base : Word) (log2 nf k : Nat) (store : Bool) : Option (Nat × Nat) :=
  (List.range (nf + 1)).findSome? fun f => vfault kcl (vaddr c mode base log2 nf k f) (vwidth c mode log2) store

/-- Moves segment k between the cup and the registers. -/
def Cluster.vmove (c : Cluster) (kcl vd : Nat) (mode : VMode) (base : Word) (log2 nf : Nat) (store : Bool) (x : Cluster) (k : Nat) : Cluster :=
  let w := vwidth c mode log2
  let nd := vgroup c mode log2
  (List.range (nf + 1)).foldl (fun (x : Cluster) f =>
    let o := cupOff kcl (vaddr c mode base log2 nf k f)
    if store then { x with cup := Mem.write x.cup o (leBytes w (c.vget (vd + f * nd) w k)) }
    else x.vset (vd + f * nd) w k (Mem.le c.cup o w)) x

/-- A vector load or store. A load that only its first element may fault at ends before the first later element that would, which becomes
vl (log 56). -/
def State.vmem (s : State) (i vd : Nat) (rs1 : Fin 32) (mode : VMode) (log2 nf : Nat) (vm store : Bool) : State :=
  let c := s.dev.getCl i
  let base := c.xget rs1
  let act := (List.range (vcount c mode log2)).filter fun k => vm || c.vmask k
  if c.vmemBad vd mode log2 nf vm store then s.trap i 2 (vmemBits vd rs1.val mode log2 nf vm store)
  else
    let bad := act.findSome? fun k => (vsegFault c (i % 20) mode base log2 nf k store).map fun x => (k, x)
    let go (l : List Nat) (f : Cluster → Cluster) : State :=
      (s.modC i fun c => f (l.foldl (c.vmove (i % 20) vd mode base log2 nf store) c)).retire i
    match bad with
    | none => go act id
    | some (k, cause, a) =>
      if mode = .first ∧ 0 < k then go (act.filter fun j => j < k) fun c => { c with vl := k }
      else s.trap i cause a

/-! ### Meanings. -/

/-- KQ_BEXP (R123). -/
def execKqBexp (p : Pre) (vd vs2 : Fin 32) (s : State) : Out :=
  .next (s.kernelStep p fun i s =>
    let c := s.dev.getCl i
    s.vrun i (xkqBits 0 true vs2.val 0 0 vd.val) (c.cvtBad vd.val (c.regs 16) [(vs2.val, c.regs c.sew)] false) fun s =>
      let r := c.bexpAll vd.val vs2.val s.dev.free
      ((s.modC i fun _ => r.1).took r.2).retire i)

/-- KQ_FIT (R44, R123). -/
def execKqFit (p : Pre) (vd vs2 : Fin 32) (vm : Bool) (s : State) : Out :=
  .next (s.kernelStep p fun i s =>
    let c := s.dev.getCl i
    s.vrun i (xkqBits 1 vm vs2.val 0 0 vd.val) (c.cvtBad vd.val (c.regs 8) [(vs2.val, c.regs c.sew)] false) fun s =>
      (s.modC i fun c => c.fitAll vd.val vs2.val vm).retire i)

/-- KQ_PIN (R45, R123). -/
def execKqPin (p : Pre) (vd vs2 : Fin 32) (vm : Bool) (s : State) : Out :=
  .next (s.kernelStep p fun i s =>
    let c := s.dev.getCl i
    s.vrun i (xkqBits 2 vm vs2.val 0 0 vd.val) (c.cvtBad vd.val (c.regs 8) [(vs2.val, c.regs c.sew)] false) fun s =>
      (s.modC i fun c => c.pinAll vd.val vs2.val vm).retire i)

/-- KQ_ALIGN (R46, R47, R123). -/
def execKqAlign (p : Pre) (vd vs2 vs1 : Fin 32) (s : State) : Out :=
  .next (s.kernelStep p fun i s =>
    let c := s.dev.getCl i
    s.vrun i (xkqBits 3 true vs2.val vs1.val 0 vd.val) (c.cvtBad vd.val (c.regs c.sew) [(vs2.val, c.regs c.sew), (vs1.val, c.regs 8)] true) fun s =>
      let r := c.alignAll vd.val vs2.val vs1.val s.dev.free
      ((s.modC i fun _ => r.1).took r.2.draws).retire i)

/-- KQ_PACK (R31, R41, R123). -/
def execKqPack (p : Pre) (vd vs2 vs1 : Fin 32) (s : State) : Out :=
  .next (s.kernelStep p fun i s =>
    let c := s.dev.getCl i
    s.vrun i (xkqBits 4 true vs2.val vs1.val 0 vd.val) (c.cvtBad vd.val (c.packRegs c.fmt) [(vs2.val, c.regs c.sew), (vs1.val, c.regs 8)] true) fun s =>
      (s.modC i fun c => c.packAll vd.val vs2.val vs1.val).retire i)

/-- KQ_UNPACK (R30, R123). -/
def execKqUnpack (p : Pre) (vd vs2 : Fin 32) (s : State) : Out :=
  .next (s.kernelStep p fun i s =>
    let c := s.dev.getCl i
    s.vrun i (xkqBits 5 true vs2.val 0 0 vd.val) (c.cvtBad vd.val (c.regs c.sew) [(vs2.val, c.packRegs c.fmt)] true) fun s =>
      (s.modC i fun c => c.unpackAll vd.val vs2.val).retire i)

/-- KQ_SRND (R46, R48, R123). -/
def execKqSrnd (p : Pre) (vd vs2 rs1 : Fin 32) (vm : Bool) (s : State) : Out :=
  .next (s.kernelStep p fun i s =>
    let c := s.dev.getCl i
    let v := (c.xget rs1).toNat
    s.vrun i (xkqBits 0 vm vs2.val rs1.val 4 vd.val) (if !c.vok vd.val (c.regs c.sew) [(vs2.val, c.regs c.sew)] then some 2 else if 64 ≤ v then some 30 else none) fun s =>
      let r := c.srndAll vd.val vs2.val v vm s.dev.free
      ((s.modC i fun _ => { r.1 with draws := min max64 (r.1.draws + r.2) }).took r.2).retire i)

/-- KQ_TOPK (R124). -/
def execKqTopk (p : Pre) (vd vs2 rs1 : Fin 32) (vm : Bool) (s : State) : Out :=
  .next (s.kernelStep p fun i s =>
    let c := s.dev.getCl i
    let v := (c.xget rs1).toNat
    let odd := bits v 7 4 ≠ 0 ∨ bits v 15 9 ≠ 0 ∨ 2 ^ 32 ≤ v
    s.vrun i (xkqBits 1 vm vs2.val rs1.val 4 vd.val) (if !c.vok vd.val 1 [(vs2.val, c.regs c.sew)] then some 2
        else if v % 16 = 0 ∨ 8 < v % 16 ∨ odd ∨ 32 < c.sew then some 30 else none) fun s =>
      (s.modC i fun c => c.topkAll vd.val vs2.val v vm).retire i)

/-- The value a CSR instruction writes. -/
def csrNew (op : CsrOp) (old v : Word) : Word :=
  match op with
  | .rw => v | .rs => old ||| v | .rc => old &&& ~~~v
  | .rwi => v | .rsi => old ||| v | .rci => old &&& ~~~v

/-- The operand of a CSR instruction: a register, or its five-bit field. -/
def Cluster.csrArg (c : Cluster) (op : CsrOp) (rs1 : Fin 32) : Word :=
  match op with | .rw => c.xget rs1 | .rs => c.xget rs1 | .rc => c.xget rs1 | _ => BitVec.ofNat 64 rs1.val

/-- Whether a CSR instruction writes: the set and clear forms do not where their field is 0. -/
def csrWrites (op : CsrOp) (rs1 : Fin 32) : Bool := op = .rw || op = .rwi || rs1.val ≠ 0

/-- A CSR instruction on kqcvt (R122): a value that kqcvt does not take raises KQ_FORMAT and leaves it. -/
def State.kqcvtOp (s : State) (i : Nat) (op : CsrOp) (rd rs1 : Fin 32) : State :=
  let c := s.dev.getCl i
  let new := csrNew op c.kqcvt (c.csrArg op rs1)
  if csrWrites op rs1 ∧ !kqcvtOk new then s.trap i 26 0
  else (s.modC i fun c => if csrWrites op rs1 then { c with kqcvt := new &&& 0xFFFFFFFF000FFFFF } else c).done i rd c.kqcvt

/-- KQCVT_WRITE (R122). -/
def execKqcvtWrite (p : Pre) (op : CsrOp) (rd rs1 : Fin 32) (s : State) : Out :=
  .next (s.kernelStep p fun i s => s.kqcvtOp i op rd rs1)

/-- VECTOR_LOAD (R96). -/
def execVectorLoad (p : Pre) (vd rs1 : Fin 32) (mode : VMode) (log2 : Fin 4) (nf : Fin 8) (vm : Bool) (s : State) : Out :=
  .next (s.kernelStep p fun i s => s.vmem i vd.val rs1 mode log2.val nf.val vm false)

/-- VECTOR_STORE (R96). -/
def execVectorStore (p : Pre) (vs3 rs1 : Fin 32) (mode : VMode) (log2 : Fin 4) (nf : Fin 8) (vm : Bool) (s : State) : Out :=
  .next (s.kernelStep p fun i s => s.vmem i vs3.val rs1 mode log2.val nf.val vm true)

end Sys2Proof.Machine
end

