-- ==== Sys2Proof/Machine/Regs.lean ====
section
/-!
DEFINITION. What the registers read as, and the writes of those that no other row writes: HG_, SP_, WE_ and EN_ registers, and the
maintenance CSRs of a cluster (R6, R7, R21, R106, R125, R338 to R340, R433, R480).
-/

namespace Sys2Proof.Machine

/-- A flag at a bit. -/
def flagAt (c : Bool) (n : Nat) : Nat := if c then 2 ^ n else 0

/-! ### Budgets (R423, R424, R429, R436), in 0.25 W. -/

/-- Normal budget of a domain under an effective cap in watts. -/
def normalBudget (d effW : Nat) : Nat :=
  if d < 8 then effW * 33 / 100 else if d < 10 then effW * 16 / 100 else if d < 14 then effW * 24 / 100 else effW * 8 / 100

/-- The budget in force: that of a divergence hold or the normal one, lowered by a thermal throttle to no less than 4/16. -/
def Pow.budget (w : Pow) (d : Nat) : Nat :=
  let x := w.getDom d
  let n := normalBudget d w.effW
  let base := match x.hold with | some h => h.2 | none => n
  min base (max (n / 4) (base - n * x.cut / 16))

/-- The ceiling that the weir sees: the fused floor while TRAY_CAP_LOWER is asserted (R424, R481). -/
def Pow.ceilingNow (w : Pow) : Nat := if w.capLower then w.fuseFloor else w.ceiling

/-! ### SP_ registers (Tables 20.13 to 20.18). -/

def Pow.spReg (w : Pow) (off : Nat) : Nat :=
  match off with
  | 0x000 => w.spId
  | 0x008 => w.ceiling % 2 ^ 13 + w.fuseMax % 2 ^ 13 * 2 ^ 16 + w.fuseFloor % 2 ^ 13 * 2 ^ 32 + flagAt w.capLower 48
  | 0x010 => w.spStatus.toNat
  | 0x018 => w.inputW % 2 ^ 16 + w.peakW % 2 ^ 16 * 2 ^ 16 + w.enforcements % 2 ^ 16 * 2 ^ 32
  | 0x028 => w.tripCause % 2 ^ 8 + w.tripSource % 2 ^ 8 * 2 ^ 8 + w.tripReading % 2 ^ 16 * 2 ^ 16
  | _ => 0

/-! ### WE_ registers (Tables 18.4 to 18.8). -/

/-- The domains that a condition holds for, as a bit map. -/
def Pow.domBits (w : Pow) (p : Domain → Bool) : Nat := ((List.range 15).map fun d => flagAt (p (w.getDom d)) d).sum

def Pow.weReg (w : Pow) (off : Nat) : Nat :=
  if off = 0 then
    w.capW % 2 ^ 13 + w.effW % 2 ^ 13 * 2 ^ 16 + flagAt (w.ceilingNow < w.capW) 32 + flagAt w.capLower 33
  else if off = 8 then
    (w.domBits fun d => d.suspect) + (w.domBits fun d => d.hold.isSome) * 2 ^ 16 + (w.domBits fun d => d.thermal) * 2 ^ 32
      + flagAt (w.spStatus.getLsbD 2) 48
  else if 0x100 ≤ off ∧ off < 0x100 + 16 * 15 then
    let d := (off - 0x100) / 16
    let x := w.getDom d
    if off % 16 = 0 then
      w.budget d % 2 ^ 16 + x.meas % 2 ^ 16 * 2 ^ 16 + x.est % 2 ^ 16 * 2 ^ 32 + flagAt x.partHold 55
        + (if d = 14 then 0 else (16 - x.step) % 16 * 2 ^ 56)
    else if off % 16 = 8 then x.heldInt % 2 ^ 32 + x.diverge % 2 ^ 16 * 2 ^ 32 + x.droops % 2 ^ 16 * 2 ^ 48
    else 0
  else 0

/-- A read of WE_EVENTS clears its counts (Table 18.8). -/
def Pow.weRead (w : Pow) (off : Nat) : Pow :=
  if 0x100 ≤ off ∧ off < 0x100 + 16 * 15 ∧ off % 16 = 8 then
    w.modDom ((off - 0x100) / 16) fun x => { x with droops := 0, diverge := 0, heldInt := 0 }
  else w

/-- A write of WE_CAP: a value outside 2,500 to 7,500 leaves the field (Table 18.5). -/
def Pow.weWrite (w : Pow) (off v : Nat) : Pow :=
  let c := v % 2 ^ 13
  if off = 0 ∧ 2500 ≤ c ∧ c ≤ 7500 then { w with capW := c } else w

/-! ### EN_ registers and the maintenance CSRs (Tables 5.4 to 5.7). -/

def Maint.baseReg (m : Maint) : Nat := m.base * 128
def Maint.lenReg (m : Maint) : Nat := m.lines * 128
def Maint.cmdReg (m : Maint) : Nat := flagAt m.overrun 9 + flagAt m.busy 8

/-- EN_CC_STATUS. -/
def Engine.ccStatus (e : Engine) : Nat :=
  (e.wayOff.map fun w => 2 ^ w).sum + e.wayOff.length * 2 ^ 8 + e.checkFails % 2 ^ 32 * 2 ^ 32

/-- The EN_ block that an address lies in: engine and offset. -/
def enBlock (a : Nat) : Option (Nat × Nat) :=
  if a < 0x3000010000000 then none
  else
    let o := a - 0x3000010000000
    let t := o / 0x1000000
    let e := o % 0x1000000 / 0x100000
    if t < 8 ∧ e < 5 then some (5 * t + e, o % 0x100000) else none

/-- A write of a maintenance register: 0 BASE, 8 LEN, 16 CMD. OVERRUN is cleared by a 1 before OP is taken. -/
def Dev.maintWrite (d : Dev) (e : Nat) (set : Option Nat) (off v : Nat) : Dev :=
  match off with
  | 0 => d.modMaint e set fun m => { m with base := v / 128 % 2 ^ 57 }
  | 8 => d.modMaint e set fun m => { m with lines := bits v 31 7 }
  | 16 =>
    let d := if bit v 9 then d.modMaint e set fun m => { m with overrun := false } else d
    if v % 4 = 0 then d else d.maintOp e set (v % 4)
  | _ => d

/-! ### The device register range as Jormon and Byolo reach it (Table 1.3a). -/

/-- What Jormon or Byolo reads at an address. R21 gives zero for what Table 1.3a does not list; that a block which it lists but does not give
to the reader (interrupt files, an APLIC domain) reads as zero too, and ignores writes, is the model's choice (DESIGN CHOICE, log 58). -/
def State.ioReg (s : State) (a : Nat) : Nat :=
  if 0x3000000010000 ≤ a ∧ a < 0x3000000011000 then s.pow.spReg (a - 0x3000000010000)
  else if 0x3000000020000 ≤ a ∧ a < 0x3000000021000 then s.pow.weReg (a - 0x3000000020000)
  else
    match enBlock a with
    | some (e, 0) => (s.dev.getEng e).jmaint.baseReg
    | some (e, 8) => (s.dev.getEng e).jmaint.lenReg
    | some (e, 16) => (s.dev.getEng e).jmaint.cmdReg
    | some (e, 24) => (s.dev.getEng e).ccStatus
    | _ => 0

/-! ### HG_ registers (Tables 14.3 to 14.11). -/

/-- HG_CAPS. -/
def hgCaps : Nat := 28 + 16 * 2 ^ 8 + 0xFFF * 2 ^ 16 + 0xFFFF * 2 ^ 32 + 63 * 2 ^ 48

/-- HG_ATTACH (Table 14.5). -/
def State.hgAttach (s : State) (a : Nat) : Nat :=
  a + a / 2 * 2 ^ 4 + flagAt (s.mgmt.isOwner a) 8 + flagAt (s.dev.getAtt a).token.isSome 9
    + recTenancy s.mgmt.record a % 2 ^ 8 * 2 ^ 16

/-- HG_LINK. -/
def State.hgLink (s : State) (a : Nat) : Nat :=
  let x := s.dev.getAtt a
  x.speed % 16 + x.width % 64 * 2 ^ 4 + flagAt x.flit 10 + flagAt (bit s.mgmt.split (a / 2)) 11

/-- State word of a mailbox (Table 14.9). -/
def Mailbox.stateReg (x : Mailbox) : Nat := x.produced % 2 ^ 16 + x.taken % 2 ^ 16 * 2 ^ 16 + x.free.toNat * 2 ^ 32

/-- Whether the limit of unacknowledged items is reached (R351). -/
def Att.full (x : Att) : Bool := 65536 ≤ x.osn - x.ack

/-- HG_OUTFLOW_STATE (Table 14.11). -/
def Att.outflowReg (x : Att) : Nat :=
  flagAt x.held 0 + flagAt x.full 1 + flagAt x.resending 2
    + (if x.held then min (2 ^ 32 - 1) (x.items.length + x.lapHeld.length) else 0) * 2 ^ 32

/-- HG_WINDOW_VA as the binding in force gives it. -/
def Att.boundVa (x : Att) : Nat := match x.bound with | some b => b.2 * 2 ^ 16 | none => 0

def State.hgReg (s : State) (a off : Nat) : Nat :=
  let x := s.dev.getAtt a
  match off with
  | 0x000 => s.mgmt.hgId
  | 0x008 => s.mgmt.serial.toNat
  | 0x010 => s.mgmt.fwVersion.toNat
  | 0x018 => hgCaps
  | 0x020 => s.hgAttach a
  | 0x028 => s.hgLink a
  | 0x030 => x.retrains
  | 0x038 => s.mgmt.layoutGen
  | 0x040 => (s.hgStatus a).toNat
  | 0x048 => x.mask.toNat
  | 0x050 => x.scratch.toNat
  | 0x058 => ((List.range 8).map fun p => recMask s.mgmt.record p * 2 ^ (8 * p)).sum
  | 0x060 => x.winCtx.toNat
  | 0x068 => x.boundVa
  | 0x070 => x.winDrops
  | 0x088 => x.mbox.stateReg
  | 0x090 => x.dbRejects
  | 0x098 => x.mbDrops
  | 0x0A0 => x.urCount
  | 0x0A8 => (s.dev.homedAt a).length
  | 0x0C0 => x.osn
  | 0x0C8 => x.ack
  | 0x0D0 => x.outflowReg
  | 0x0D8 => x.orphanLeft
  | _ => 0

/-- A read of an RC register clears it. -/
def Att.readClear (x : Att) (off : Nat) : Att :=
  match off with
  | 0x070 => { x with winDrops := 0 }
  | 0x090 => { x with dbRejects := 0 }
  | 0x098 => { x with mbDrops := 0 }
  | 0x0A0 => { x with urCount := 0 }
  | _ => x

/-- Bits of a 64-bit register that a write of 8 bytes, or of 4 at an offset, covers. -/
def coverMask (off : Nat) (size8 : Bool) : Word :=
  if size8 then BitVec.allOnes 64 else if off % 8 = 0 then 0xFFFFFFFF#64 else 0xFFFFFFFF00000000#64

/-- A register after a write of some of its bits: the writable ones take the value. -/
def rwField (old v cover writable : Word) : Word := (old &&& ~~~(cover &&& writable)) ||| (v &&& cover &&& writable)

/-- MSI-X vectors that are unmasked and pending are sent (PCI Express, log 6). -/
def Att.flushVectors (x : Att) : Att :=
  (List.range 64).foldl (fun (x : Att) v =>
    if x.pba.getLsbD v && !x.masked v then { x with pba := x.pba &&& ~~~BitVec.ofNat 64 (2 ^ v), sent := x.sent ++ [v] } else x) x

/-- A write by the host to a register that has no row of its own; v is the value in its place in the 64-bit register. -/
def Att.hgWrite (x : Att) (off : Nat) (size8 : Bool) (v : Word) : Att :=
  let cover := coverMask off size8
  if 0x800 ≤ off ∧ off < 0xC00 then
    let n := if size8 then 8 else 4
    ({ x with msix := Mem.write x.msix (off - 0x800) (leBytes n (v.toNat / (if size8 ∨ off % 8 = 0 then 1 else 2 ^ 32))) }).flushVectors
  else
    match off / 8 * 8 with
    | 0x040 => { x with status := x.status &&& ~~~(v &&& cover &&& 0x7F04#64) }
    | 0x048 => { x with mask := rwField x.mask v cover 0x7F7F#64 }
    | 0x050 => { x with scratch := rwField x.scratch v cover (BitVec.allOnes 64) }
    | 0x060 => { x with winCtx := rwField x.winCtx v cover 0x10FFF#64 }
    | 0x068 => { x with winVa := rwField x.winVa v cover 0xFFFFFFFF0000#64 }
    | _ => x

/-! ### CSRs of a cluster (Table 5.13). -/

/-- kqid. -/
def State.kqid (s : State) (i : Nat) : Nat :=
  let e := i / 20
  let ctx := match (s.dev.getCl i).part with
    | some u => (match s.dev.getPart u with | some p => p.ctx | none => 0)
    | none => 0
  i % 20 + e % 5 * 2 ^ 8 + e / 5 * 2 ^ 16 + ctx % 2 ^ 12 * 2 ^ 32

/-- vtype (the V extension's layout, log 56): vill alone, or vma, vta, SEW and LMUL. -/
def Cluster.vtypeReg (c : Cluster) : Nat :=
  if c.vill then 2 ^ 63
  else flagAt c.vma 7 + flagAt c.vta 6 + (c.sew.log2 - 3) * 2 ^ 3 + (c.lmul % 8).toNat

/-- A write of a vector CSR: vstart of 10 bits, vxsat, vxrm, or both as vcsr. -/
def Cluster.vcsrWrite (c : Cluster) (csr : Nat) (v : Word) : Cluster :=
  let rm (n : Nat) : Fin 4 := Fin.ofNat 4 n
  match csr with
  | 0x008 => { c with vstart := v.toNat % 1024 }
  | 0x009 => { c with vxsat := v.getLsbD 0 }
  | 0x00A => { c with vxrm := rm v.toNat }
  | 0x00F => { c with vxsat := v.getLsbD 0, vxrm := rm (v.toNat / 2) }
  | _ => c

/-- What a CSR reads as; none where neither Table 5.13 nor R94 gives one. -/
def State.csr (s : State) (i csr : Nat) : Option Nat :=
  let c := s.dev.getCl i
  match csr with
  | 0x008 => some c.vstart
  | 0x009 => some (flagAt c.vxsat 0)
  | 0x00A => some c.vxrm.val
  | 0x00F => some (flagAt c.vxsat 0 + 2 * c.vxrm.val)
  | 0xC20 => some c.vl
  | 0xC21 => some c.vtypeReg
  | 0xC22 => some 128
  | 0x800 => some c.kqcvt.toNat
  | 0x810 => some c.maint.baseReg
  | 0x811 => some c.maint.lenReg
  | 0x812 => some c.maint.cmdReg
  | 0xCC0 => some (s.kqid i)
  | 0xCC8 => some (s.dev.getEng (i / 20)).ccStatus
  | _ => none

/-- The encoding of a CSR instruction, which an illegal one reports as tval (R128). -/
def csrBits (csr : Nat) (op : CsrOp) (rd rs1 : Fin 32) : Nat :=
  let f3 : Nat := match op with | .rw => 1 | .rs => 2 | .rc => 3 | .rwi => 5 | .rsi => 6 | .rci => 7
  csr % 2 ^ 12 * 2 ^ 20 + rs1.val * 2 ^ 15 + f3 * 2 ^ 12 + rd.val * 2 ^ 7 + 0x73

/-- A write of a CSR of a cluster. -/
def State.csrWrite (s : State) (i csr : Nat) (v : Word) : State :=
  if 0x810 ≤ csr then s.onDev fun d => d.maintWrite (i / 20) (some (i % 20)) (8 * (csr - 0x810)) v.toNat
  else s.modC i fun c => c.vcsrWrite csr v

/-- A CSR instruction of a kernel (R122, R125): a CSR that is not defined, and a write of a read-only one, raise an illegal instruction. -/
def State.csrOp (s : State) (i csr : Nat) (op : CsrOp) (rd rs1 : Fin 32) : State :=
  let c := s.dev.getCl i
  if csr = 0x800 then s.kqcvtOp i op rd rs1
  else
    match s.csr i csr with
    | none => s.trap i 2 (csrBits csr op rd rs1)
    | some old =>
      if csrWrites op rs1 ∧ 0xC00 ≤ csr then s.trap i 2 (csrBits csr op rd rs1)
      else
        let new := csrNew op (BitVec.ofNat 64 old) (c.csrArg op rs1)
        (if csrWrites op rs1 then s.csrWrite i csr new else s).done i rd (BitVec.ofNat 64 old)

end Sys2Proof.Machine
end

