-- ==== Sys2Proof/Machine/Pages.lean ====
section
/-!
DEFINITION. The page tables of the server cores (R276, R318, R319): Sv39, Sv48 and Sv57, the G-stage tables Sv39x4, Sv48x4 and Sv57x4,
Svade, Svnapot and Svpbmt, as the RISC-V privileged architecture lays them out (PRESUMED, log 58).
-/

namespace Sys2Proof.Machine

/-- What a translation yields: an address and its page type (0 PMA, 1 NC, 2 IO), or what stops it. -/
inductive Xlated where
  | ok (pa ty : Nat) | page | guest | access
deriving DecidableEq, Repr

/-- What the memory that holds a page-table entry answers. -/
inductive PteRead where
  | pte (v : Nat) | stop (x : Xlated)
deriving DecidableEq, Repr

/-- What an access asks of its page: to load, to store, or a cache-block operation that stores nothing. -/
inductive PageUse where
  | load | store | block
deriving DecidableEq, Repr

/-- Levels of a mode field of satp, vsatp or hgatp: 0 is none. -/
def pageLevels (atp : Word) : Nat := match bits atp.toNat 63 60 with | 8 => 3 | 9 => 4 | 10 => 5 | _ => 0

/-- The root table that such a register names. -/
def pageRoot (atp : Word) : Nat := bits atp.toNat 43 0 * 4096

/-- Whether a leaf serves a use: R, W, X, with MXR; A, and D for a store (Svade). -/
def leafServes (use : PageUse) (mxr : Bool) (v : Nat) : Bool :=
  let r := bit v 1
  let w := bit v 2
  let x := bit v 3
  match use with
  | .load => (r || (mxr && x)) && bit v 6
  | .store => w && bit v 6 && bit v 7
  | .block => (r || w || x) && bit v 6

/-- Whether an entry breaks its format: not valid, W without R, or a reserved bit. -/
def pteBad (v : Nat) : Bool := !bit v 0 || (!bit v 1 && bit v 2) || bits v 60 54 ≠ 0

/-- A leaf at a level: the address that it gives, or a fault for a superpage or a NAPOT range that is out of place. -/
def leafAddr (fault : Xlated) (level v va : Nat) : Xlated :=
  let ppn := bits v 53 10
  let size := if bit v 63 then 2 ^ 16 else 2 ^ (12 + 9 * level)
  if ppn % 2 ^ (9 * level) ≠ 0 ∨ bits v 62 61 = 3 ∨ (bit v 63 ∧ (level ≠ 0 ∨ ppn % 16 ≠ 8)) then fault
  else .ok (ppn * 4096 / size * size + va % size) (bits v 62 61)

/-- A walk down the levels from a table; the top table of a G-stage is four times as wide. -/
def pageWalk (rd : Nat → PteRead) (leafOk : Nat → Bool) (fault : Xlated) (va : Nat) (wide : Bool) (levels base : Nat) : Xlated :=
  match levels with
  | 0 => fault
  | k + 1 =>
    match rd (base + 8 * (va / 2 ^ (12 + 9 * k) % (if wide then 2 ^ 11 else 2 ^ 9))) with
    | .stop x => x
    | .pte v =>
      if pteBad v then fault
      else if !bit v 1 && !bit v 3 then
        if bit v 4 ∨ bit v 6 ∨ bit v 7 ∨ bits v 63 61 ≠ 0 then fault
        else pageWalk rd leafOk fault va false k (bits v 53 10 * 4096)
      else if leafOk v then leafAddr fault k v va
      else fault

/-- The G-stage: its leaves must be user pages, and its input is 2 bits wider than that of a first stage. -/
def gStage (rd : Nat → PteRead) (hgatp : Word) (use : PageUse) (gpa : Nat) : Xlated :=
  let n := pageLevels hgatp
  if n = 0 then .ok gpa 0
  else if 2 ^ (14 + 9 * n) ≤ gpa then .guest
  else pageWalk rd (fun v => bit v 4 && leafServes use false v) .guest gpa true n (pageRoot hgatp / 2 ^ 14 * 2 ^ 14)

/-- The first stage, by satp or vsatp: the bits above the address's width equal its highest. -/
def firstStage (rd : Nat → PteRead) (atp : Word) (c : HartCsrs) (use : PageUse) (va : Nat) : Xlated :=
  let n := pageLevels atp
  let top := va / 2 ^ (11 + 9 * n)
  let leafOk (v : Nat) : Bool := (if c.mode = 0 then bit v 4 else !bit v 4 || c.sum) && leafServes use c.mxr v
  if n = 0 then .ok va 0
  else if top ≠ 0 ∧ top ≠ 2 ^ (53 - 9 * n) - 1 then .page
  else pageWalk rd leafOk .page va false n (pageRoot atp)

/-- Translation of an address of a hart: none in M-mode; under the hypervisor extension two stages, whose first reads its tables through
the second. A page type of the first stage overrides that of the second. -/
def pageXlate (rd : Nat → PteRead) (c : HartCsrs) (use : PageUse) (va : Nat) : Xlated :=
  if c.mode = 3 then .ok va 0
  else if !c.virt then firstStage rd c.satp c use va
  else
    let tables (a : Nat) : PteRead :=
      match gStage rd c.hgatp .load a with
      | .ok pa _ => rd pa
      | x => .stop x
    match firstStage tables c.vsatp c use va with
    | .ok gpa ty =>
      (match gStage rd c.hgatp use gpa with
       | .ok pa ty2 => .ok pa (if ty ≠ 0 then ty else ty2)
       | x => x)
    | x => x

end Sys2Proof.Machine
end

