-- ==== Sys2Proof/Machine/Cores.lean ====
section
/-!
DEFINITION. Server cores: accesses to memory through page tables, the store buffer and the caches, atomics and reservations, the device
register range, cache-block operations, and the monitor that starts, stops and loses harts (R17, R18, R236, R242 to R249, R318 to R333).
-/

namespace Sys2Proof.Machine

/-! ### Partitions and harts (R323, R324). -/

/-- The partition of a core: that of its terrace. -/
def State.corePt (s : State) (c : Nat) : Option Nat := s.mgmt.ptOf (c / 12)

/-- The cores of a partition, by hart number. -/
def Mgmt.cores (m : Mgmt) (p : Nat) : List Nat := (m.terraces p).flatMap fun t => (List.range 12).map fun k => 12 * t + k

/-- The hart number of a core in a partition: 12 times the rank of its terrace, plus its number there. -/
def Mgmt.hartOf (m : Mgmt) (p c : Nat) : Nat := 12 * ((m.terraces p).takeWhile fun t => t ≠ c / 12).length + c % 12

/-- The partition filter: HBM slots and system memory of the core's partition (R17, R324). -/
def Mgmt.admits (m : Mgmt) (p a n : Nat) : Bool :=
  match paOf a with
  | .hbm t off => has (m.terraces p) t && off + n ≤ 0x3000000000
  | .caddy _ => (m.sysmem p).1 ≤ a && a + n ≤ (m.sysmem p).1 + (m.sysmem p).2
  | _ => false

def State.admits (s : State) (c a n : Nat) : Bool :=
  match s.corePt c with
  | some p => s.mgmt.admits p a n
  | none => false

/-- Whether a core executes: its hart runs and it waits neither for its store buffer nor in WRS. -/
def Core.acts (x : Core) : Bool := x.hart = .running && x.stalled.isEmpty && !(x.wrs && x.resv.isSome)

def isCaddy (a : Nat) : Bool := match paOf a with | .caddy _ => true | _ => false
def isReg (a : Nat) : Bool := match paOf a with | .reg => true | _ => false

/-! ### The store buffer (R236, R246, R247). -/

/-- Bytes of a line with those under a mask replaced. -/
def mergeLine (old : Bytes) (mask : BitVec 128) (data : Bytes) : Bytes :=
  (List.range 128).map fun i => if mask.getLsbD i then data.getD i 0 else old.getD i 0

/-- Lines that a core holds. -/
def Core.lines (x : Core) : Nat := x.dirty.length + x.clean.length

/-- Lines that a core's L2 holds at most: 16 ways of 128 KiB, less the disabled ones (R1, Table 13.2). -/
def Core.l2Cap (x : Core) : Nat := (16 - x.wayOff.length) * 2 ^ 10

/-- Lines of a die that lie beyond its L2 caches, in its L3. -/
def Dev.beyond (d : Dev) (q : Nat) : Nat :=
  ((List.range 48).map fun k => let x := d.getCore (48 * q + k); x.lines - x.l2Cap).sum

/-- Lines that the L3 of a die holds at most: 16 ways of 8 MiB, less the disabled ones. -/
def CpuDie.cap (x : CpuDie) : Nat := (16 - x.wayOff.length) * 2 ^ 16

/-- A dirty copy of a line is written to its home and held clean. -/
def State.cleanLine (s : State) (line : Nat) : State :=
  match s.dev.dirtyCopy line with
  | none => s
  | some bs =>
    (s.onMem fun m => m.writeLine (s.dev.lean (line * 128)) line fullMask bs).onDev fun d =>
      ({ d with cores := d.cores.map fun x => (x.1, if (Map.find x.2.dirty line).isSome then
          { x.2 with dirty := Map.del x.2.dirty line, clean := addOnce x.2.clean line } else x.2) } : Dev).gather line

/-- A line is about to enter a core's caches: where they are full, the oldest clean line leaves, or a dirty one that is written back first
(log 58). -/
def State.makeRoom (s : State) (c : Nat) : State :=
  let x := s.dev.getCore c
  if x.lines < x.l2Cap then s
  else if s.dev.beyond (c / 48) < (Map.get s.dev.cpus (c / 48) {}).cap then s
  else
    match x.clean, x.dirty with
    | _ :: rest, _ => s.onDev fun d => d.modCore c fun x => { x with clean := rest }
    | [], l :: _ => (s.cleanLine l.1).onDev fun d => d.modCore c fun x => { x with clean := x.clean.filter fun k => k ≠ l.1 }
    | [], [] => s

/-- A core holds a line clean from now. -/
def State.holds (s : State) (c line : Nat) : State :=
  let x := s.dev.getCore c
  if has x.clean line ∨ (Map.find x.dirty line).isSome then s
  else (s.makeRoom c).onDev fun d => d.modCore c fun x => { x with clean := addOnce x.clean line }

/-- A write of a core through a pool frame makes the content of the object there undefined (R277). -/
def State.freeObject (s : State) (pa : Nat) : State :=
  match s.dev.objectAt pa with
  | none => s
  | some (p, n, sh) =>
    match s.dev.getObj p n with
    | none => s
    | some o =>
      (List.range (o.granules * 512)).foldl (fun s l => s.freeLine (2 * o.reg + if sh then 1 else 0) l fullMask)
        (s.onDev fun d => d.markDirty pa)

/-- One line of a store is performed: to HBM, and uncached, at its home; to the caddy in the core's L2, with ownership, unless the line is
poisoned, when it is merged at the home (R236, R300, R319). -/
def State.coreLine (s : State) (c : Nat) (nc : Bool) (w : Nat × BitVec 128 × Bytes) : State :=
  if isCaddy (w.1 * 128) ∧ !nc ∧ (Map.find s.mem.poison w.1).isNone then
    let bs := mergeLine (s.readPa (w.1 * 128) 128) w.2.1 w.2.2
    ((s.onDev fun d => d.dropLine w.1).makeRoom c).onDev fun d => d.modCore c fun x => { x with dirty := Map.put x.dirty w.1 bs }
  else (s.homeWrite w.1 w.2.1 w.2.2).freeObject (w.1 * 128)

/-- A store is performed (R236). -/
def State.perform (s : State) (c : Nat) (e : SbEntry) : State :=
  (lineSplit (e.n + 1) e.a (leBytes e.n e.v.toNat)).foldl (fun s w => s.coreLine c e.nc w) s

/-- Pieces of a store enter the buffer as far as it has room; the rest stalls the core (R246). -/
def Core.enter (x : Core) (l : List SbEntry) : Core :=
  let room := 64 - x.sb.length
  { x with sb := x.sb ++ l.take room, stalled := l.drop room }

/-- The n oldest entries of a store buffer are performed in program order; a store that stalled on the full buffer enters it. -/
def State.drainN (s : State) (c n : Nat) : State :=
  let es := (s.dev.getCore c).sb.take n
  let s := s.onDev fun d => d.modCore c fun x => { x with sb := x.sb.drop n }
  let s := es.foldl (fun s e => s.perform c e) s
  s.onDev fun d => d.modCore c fun x => x.enter x.stalled

/-- The store buffer drains (Table 9.3). -/
def State.drain (s : State) (c : Nat) : State := (s.drainN c 64).drainN c 64

/-- Whether an entry holds bytes of a line. -/
def touchesLine (line : Nat) (e : SbEntry) : Bool := e.a / 128 ≤ line && line ≤ (e.a + e.n - 1) / 128

/-- Entries up to the last one that holds bytes of a line. -/
def Core.upTo (x : Core) (line : Nat) : Nat := x.sb.length - (x.sb.reverse.takeWhile fun e => !touchesLine line e).length

/-- The core's earlier stores to a line are performed (R247). -/
def State.settleLine (s : State) (c line : Nat) : State := s.drainN c ((s.dev.getCore c).upTo line)

/-- Bytes as the core's own store buffer shows them over memory. -/
def State.forwarded (s : State) (c a n : Nat) : Bytes :=
  (List.range n).map fun i =>
    (s.dev.getCore c).sb.foldl (fun b e =>
      if e.a ≤ a + i ∧ a + i < e.a + e.n then (leBytes e.n e.v.toNat).getD (a + i - e.a) 0 else b) (s.byte (a + i))

/-- An exception: the store buffer drains before its handler's first instruction (Table 9.3), and the cause is kept. -/
def State.except (s : State) (c cause : Nat) : State := (s.drain c).onDev fun d => d.modCore c fun x => { x with exc := cause }

/-- An instruction of a core that waits for nothing, after what its own instructions left in its privileged registers. -/
def State.coreStep (s : State) (c : Nat) (h : HPre) (f : State → State) : State :=
  if (s.dev.getCore c).acts then
    f (s.onDev fun d => d.modCore c fun x => { x with wrs := false, csrs := h.csrs.getD x.csrs })
  else s

/-- A value of 4 or 8 bytes as a register holds it. -/
def sext (n : Nat) (bs : Bytes) : Word := if n = 4 then (BitVec.ofNat 32 (leNat bs)).signExtend 64 else BitVec.ofNat 64 (leNat bs)

def State.poisonedAt (s : State) (a n : Nat) : Bool := (List.range n).any fun i => s.bad (a + i)

/-! ### The boot record (R326, Table 13.3). -/

/-- A field of a partition's boot record. -/
def State.bootField (s : State) (p off n : Nat) : Nat := leNat (s.readPa ((s.mgmt.sysmem p).1 + off) n)

/-- The monitor writes a field. -/
def State.bootPut (s : State) (p off n v : Nat) : State := s.writePa ((s.mgmt.sysmem p).1 + off) (leBytes n v)

def State.bootValid (s : State) (p : Nat) : Bool := s.bootField p 0 4 = 0x4B515342 && s.bootField p 4 4 = 1

/-- Whether entry_pa keeps its rule. -/
def State.entryOk (s : State) (p : Nat) : Bool :=
  let a := s.bootField p 16 8
  a % 4096 = 0 && s.mgmt.admits p a 1

/-! ### Interrupts and failures (R329, R332). -/

/-- An APLIC source of a partition is raised. -/
def Dev.raiseSource (d : Dev) (p n : Nat) : Dev := d.modPt p fun q => { q with sources := q.sources ||| 2 ^ n }

/-- A rollback of contexts of a partition: the count in the boot record, then the source (R329, R333). -/
def State.rollbackNotice (s : State) (p : Nat) : State :=
  (s.bootPut p 56 8 ((s.bootField p 56 8 + 1) % 2 ^ 64)).onDev fun d => d.raiseSource p 1

/-- A caddy line loses the data that a lost cache held: it is marked, and logged as a detection (R300). -/
def State.markCaddy (s : State) (line : Nat) : State :=
  (s.onMem fun m => m.setPoison line fullMask).log 0x203 none none (leBytes 8 (line * 128))

/-- A core is lost: its hart stops, its dirty caddy lines are poisoned, and a spare of its die takes its number (R332). -/
def State.hartLost (s : State) (c : Nat) : State :=
  let x := s.dev.getCore c
  let die := c / 48
  let used := Map.get s.dev.spareCores die 0
  if x.hart = .lost then s
  else
    let s := x.dirty.foldl (fun s l => s.markCaddy l.1) s
    let out := x.phys.getD (c % 48)
    let kind := Config.unitKind 2
    let s :=
      if used < 4 then
        let s := s.onDev fun d => { (d.modCore c fun _ => { hart := .stopped, phys := some (48 + used) }) with
          spareCores := Map.put d.spareCores die (used + 1) }
        let s := s.onMgmt fun m => { m with swaps := m.swaps ++ [(kind, c, out, 48 + used)] }
        let s := s.log 0x230 none none (leBytes 1 kind ++ leBytes 2 c ++ leBytes 2 out ++ leBytes 2 (48 + used))
        if used = 3 then s.needsService 0 else s
      else s.onDev fun d => d.modCore c fun x => { hart := .lost, phys := x.phys }
    match s.corePt c with
    | none => s
    | some p =>
      let h := s.mgmt.hartOf p c
      (s.bootPut p 40 16 (s.bootField p 40 16 ||| 2 ^ h)).onDev fun d => d.raiseSource p 2

/-! ### Checks of the caches (R322). -/

/-- A count of check failures by way. -/
def wayCount (l : List (Nat × Nat)) (w : Nat) : List (Nat × Nat) := Map.put l w (Map.get l w 0 + 1)

/-- The counts halve (R107). -/
def waysHalve (l : List (Nat × Nat)) : List (Nat × Nat) := l.map fun x => (x.1, x.2 / 2)

/-- The lines of a core are written back and invalidated. -/
def State.emptyCaches (s : State) (c : Nat) : State :=
  ((s.dev.getCore c).dirty.foldl (fun s l => s.cleanLine l.1) s).onDev fun d => d.modCore c fun x => { x with clean := [] }

/-- A failed check of a way of the L2 of a core (level 0) or of the L3 of its die: at 16 failures the way is disabled and its lines are
written back (the model writes back all that the cache may hold, log 58); a third way loses the core that found it. -/
def State.coreWay (s : State) (c lv way : Nat) : State :=
  let x := s.dev.getCore c
  let y := Map.get s.dev.cpus (c / 48) {}
  let fails := wayCount (if lv = 0 then x.wayFails else y.wayFails) way
  let off := if lv = 0 then x.wayOff else y.wayOff
  let put (off : List Nat) (s : State) : State := s.onDev fun d =>
    if lv = 0 then d.modCore c fun x => { x with wayFails := fails, wayOff := off }
    else { d with cpus := Map.put d.cpus (c / 48) { y with wayFails := fails, wayOff := off } }
  if Map.get fails way 0 < 16 ∨ has off way then put off s
  else if 2 ≤ off.length then (put off s).hartLost c
  else if lv = 0 then put (addOnce off way) (s.emptyCaches c)
  else put (addOnce off way) ((List.range 48).foldl (fun s k => s.emptyCaches (48 * (c / 48) + k)) s)

/-- The check of a line that a core holds: corrected in place; uncorrectable in a clean line, which is refetched; in a dirty one the core is
lost. The flag says that the access goes on. -/
def State.cacheCheck (s : State) (c line : Nat) (hit : Option (Fin 2 × Fin 16 × Check)) : State × Bool :=
  let x := s.dev.getCore c
  let dirty := (Map.find x.dirty line).isSome
  match hit with
  | none => (s, true)
  | some (lv, way, chk) =>
    if !dirty ∧ !has x.clean line then (s, true)
    else
      match chk with
      | .ok => (s, true)
      | .corrected =>
        let s := s.coreWay c lv.val way.val
        (s, (s.dev.getCore c).hart = .running)
      | .uncorrectable =>
        if dirty then (s.hartLost c, false)
        else
          let s := (s.onDev fun d => d.modCore c fun x => { x with clean := x.clean.filter fun l => l ≠ line }).coreWay c lv.val way.val
          (s, (s.dev.getCore c).hart = .running)

/-! ### Time (R330). -/

/-- The time CSR of a CPU die's cores: 100 MHz, from zero at power-up. -/
def State.timeCsr (s : State) (q : Nat) : Nat := (s.time.fabric - s.time.cpuStart - Config.dieSkew s.mgmt.boot q) / 20 % 2 ^ 64

/-! ### Translation of a core's own accesses (R276, R319, R324). -/

/-- A page-table entry, which the filter must admit. -/
def State.pteAt (s : State) (c a : Nat) : PteRead :=
  if s.admits c a 8 ∧ !s.poisonedAt a 8 then .pte (leNat (s.readPa a 8)) else .stop .access

/-- The cause of an exception, by use: load, or store and atomic. -/
def xlateCause (use : PageUse) (x : Xlated) : Nat :=
  match x, use with
  | .page, .load => 13
  | .page, _ => 15
  | .guest, .load => 21
  | .guest, _ => 23
  | _, .load => 5
  | _, _ => 7

/-- A piece of an access within one page: physical address, bytes, page type. -/
structure Piece where
  a  : Nat
  n  : Nat
  ty : Nat
deriving DecidableEq, Repr

/-- The pieces of an access, or the cause of its exception. -/
inductive Span where
  | ok (l : List Piece) | fault (cause : Nat)
deriving DecidableEq, Repr

def State.span (s : State) (c : Nat) (use : PageUse) (va n : Nat) : Span :=
  let x := (s.dev.getCore c).csrs
  let one (va n : Nat) : Span :=
    match pageXlate (s.pteAt c) x use va with
    | .ok pa ty => .ok [⟨pa, n, ty⟩]
    | k => .fault (xlateCause use k)
  let k := 4096 - va % 4096
  if n ≤ k then one va n
  else
    match one va k, one ((va + k) % 2 ^ 64) (n - k) with
    | .ok l, .ok m => .ok (l ++ m)
    | .ok _, f => f
    | f, _ => f

/-- An access of a core to memory: translated, and the line that it uses checked in the caches. -/
def State.coreMem (s : State) (c : Nat) (h : HPre) (use : PageUse) (va n : Nat) (f : List Piece → State → State) : State :=
  s.coreStep c h fun s =>
    match s.span c use va n with
    | .fault k => s.except c k
    | .ok l =>
      let r := s.cacheCheck c ((l.head?.map fun p => p.a / 128).getD 0) h.hit
      if r.2 then f l r.1 else r.1

/-! ### The device register range (R248, R325, R329). -/

/-- What a core reaches there: SP_ registers; an interrupt file (hart, file, offset) of its own partition; its APLIC domain. -/
inductive CoreReg where
  | sp (off : Nat) | file (hart f off : Nat) | aplic (off : Nat) | none
deriving DecidableEq, Repr

/-- What an address reaches for a core of a partition of n harts, by its mode: the M-level files from M-mode only. -/
def coreReg (p n mode a : Nat) : CoreReg :=
  if 0x3000000010000 ≤ a ∧ a < 0x3000000011000 then .sp (a - 0x3000000010000)
  else
    let m := 0x3001000000000 + p * 0x1000000
    let g := 0x3001100000000 + p * 0x1000000
    let d := 0x3001200000000 + p * 0x100000
    if mode = 3 ∧ m ≤ a ∧ a < m + n * 0x1000 then .file ((a - m) / 0x1000) 0 ((a - m) % 0x1000)
    else if g ≤ a ∧ a < g + n * 0x8000 then .file ((a - g) / 0x8000) (1 + (a - g) % 0x8000 / 0x1000) ((a - g) % 0x1000)
    else if d ≤ a ∧ a < d + 0x4000 then .aplic (a - d)
    else .none

/-- An identity becomes pending in an interrupt file of a hart, which wakes a suspended hart and ends a wait in WRS (R328, R329). -/
def Core.interrupt (x : Core) (f ident : Nat) : Core :=
  if 1 ≤ ident ∧ ident ≤ 255 then
    { x with imsic := addOnce x.imsic (256 * f + ident), wrs := false, hart := if x.hart = .suspended then .running else x.hart }
  else x

/-- A write to an interrupt file: identity v becomes pending (register seteipnum at offset 0; PRESUMED of the RISC-V AIA, log 26). The
hart's store buffer drains before it enters the interrupt (Table 9.3). -/
def State.fileWrite (s : State) (p hart f off v : Nat) : State :=
  match (s.mgmt.cores p)[hart]? with
  | some c => if off = 0 then (s.drain c).onDev fun d => d.modCore c fun x => x.interrupt f (v % 2 ^ 32) else s
  | none => s

/-- An access of a core to the device register range, performed once and after the store buffer has drained (R248). A load of the
APLIC domain returns a free value (log 26); an interrupt file reads zero. -/
def State.ioAccess (s : State) (c a n : Nat) (store : Option Word) : State :=
  let fault := if store.isSome then 7 else 5
  match s.corePt c with
  | none => s.except c fault
  | some p =>
    let mode := (s.dev.getCore c).csrs.mode.val
    if !has [1, 2, 4, 8] n ∨ a % n ≠ 0 then s.except c fault
    else
      let s := s.drain c
      let load (s : State) (v : Nat) : State := s.onDev fun d => d.modCore c fun x => { x with rd := BitVec.ofNat 64 (v % 2 ^ (8 * n)) }
      match coreReg p (s.mgmt.cores p).length mode a, store with
      | .none, _ => s.except c fault
      | .sp off, none => load s (s.pow.spReg (off / 8 * 8) / 2 ^ (8 * (off % 8)))
      | .sp _, some _ => s
      | .file _ _ _, none => load s 0
      | .file h f off, some v => if n = 4 then s.fileWrite p h f off v.toNat else s
      | .aplic _, none => load (s.took 1) (Config.freeWord s.dev.free).toNat
      | .aplic off, some v => s.onDev fun d => d.modPt p fun q => { q with aplic := Mem.write q.aplic off (leBytes n v.toNat) }

/-! ### Loads, stores, atomics (R17, R242 to R247). -/

/-- Whether an access keeps the rules of an I/O region: one piece, of 1, 2, 4 or 8 bytes, naturally aligned (R248). -/
def ioOk (l : List Piece) : Bool := l.length = 1 && l.all fun p => has [1, 2, 4, 8] p.n && p.a % p.n = 0

/-- What the core's own stores ask before a load of a piece: all are performed before an I/O access, and those to its lines before an
uncached load or one of HBM (R247, R248, R319). -/
def State.beforeLoad (s : State) (c : Nat) (p : Piece) : State :=
  if p.ty = 2 then s.drain c
  else if isCaddy p.a ∧ p.ty = 0 then s
  else (s.settleLine c (p.a / 128)).settleLine c ((p.a + p.n - 1) / 128)

/-- A load: HBM after the core's own stores to the line, the caddy with its store buffer over it. -/
def State.coreLoad (s : State) (c : Nat) (l : List Piece) : State :=
  match l.find? fun p => isReg p.a with
  | some p => if l.length = 1 then s.ioAccess c p.a p.n none else s.except c 5
  | none =>
    if !(l.all fun p => s.admits c p.a p.n) ∨ ((l.any fun p => p.ty = 2) ∧ !ioOk l) then s.except c 5
    else
      let s := l.foldl (fun s p => s.beforeLoad c p) s
      if l.any fun p => s.poisonedAt p.a p.n then s.except c 5
      else
        let v := BitVec.ofNat 64 (leNat (l.flatMap fun p => s.forwarded c p.a p.n))
        let s := l.foldl (fun s p => if p.ty = 0 then s.holds c (p.a / 128) else s) s
        s.onDev fun d => d.modCore c fun x => { x with rd := v }

/-- The pieces of a store with their bytes. -/
def storePieces (l : List Piece) (v : Nat) : List SbEntry :=
  match l with
  | [] => []
  | p :: rest => { a := p.a, n := p.n, v := BitVec.ofNat 64 (v % 2 ^ (8 * p.n)), nc := p.ty ≠ 0 } :: storePieces rest (v / 2 ^ (8 * p.n))

/-- A store enters the store buffer, or stalls the core on a full one; through an IO page it is performed at once, after the buffer has
drained. -/
def State.coreStore (s : State) (c : Nat) (l : List Piece) (v : Word) : State :=
  match l.find? fun p => isReg p.a with
  | some p => if l.length = 1 then s.ioAccess c p.a p.n (some v) else s.except c 7
  | none =>
    if !(l.all fun p => s.admits c p.a p.n) ∨ ((l.any fun p => p.ty = 2) ∧ !ioOk l) then s.except c 7
    else if l.any fun p => p.ty = 2 then
      ((s.drain c).onDev fun d => d.modCore c fun x => x.enter (storePieces l v.toNat)).drain c
    else s.onDev fun d => d.modCore c fun x => x.enter (storePieces l v.toNat)

/-- Whether a core may run an atomic there, or the exception: system memory only, naturally aligned (R17, R242). -/
def State.atomFault (s : State) (c a n fault : Nat) : Option Nat :=
  if !s.admits c a n ∨ !isCaddy a then some fault else if a % n ≠ 0 then some 6 else none

/-- Result of an AMO in a width (RISC-V A). -/
def amoResult (op : AmoOp) (w old v : Nat) : Nat :=
  match op with
  | .swap => v
  | .add => (old + v) % 2 ^ w
  | .xor => old ^^^ v
  | .and => old &&& v
  | .or => old ||| v
  | .min => if signed w old ≤ signed w v then old else v
  | .max => if signed w old ≤ signed w v then v else old
  | .minu => min old v
  | .maxu => max old v

/-- What an atomic waits for: a release, all earlier stores of the core (RVWMO); any, those to its line. -/
def State.beforeAtomic (s : State) (c a : Nat) (rl : Bool) : State := if rl then s.drain c else s.settleLine c (a / 128)

/-- An AMO performed at the caddy home in one action (R243). -/
def State.coreAmo (s : State) (c a : Nat) (dbl rl : Bool) (op : AmoOp) (v : Word) : State :=
  let n := if dbl then 8 else 4
  match s.atomFault c a n 7 with
  | some e => s.except c e
  | none =>
    let s := s.beforeAtomic c a rl
    if s.poisonedAt a n then s.except c 7
    else
      let bs := s.readPa a n
      let s := s.writePa a (leBytes n (amoResult op (8 * n) (leNat bs) (v.toNat % 2 ^ (8 * n))))
      s.onDev fun d => d.modCore c fun x => { x with rd := sext n bs }

def State.coreLr (s : State) (c a : Nat) (dbl rl : Bool) : State :=
  let n := if dbl then 8 else 4
  match s.atomFault c a n 5 with
  | some e => s.except c e
  | none =>
    let s := s.beforeAtomic c a rl
    if s.poisonedAt a n then s.except c 5
    else
      let bs := s.readPa a n
      s.onDev fun d => d.modCore c fun x => { x with rd := sext n bs, resv := some (a / 128) }

/-- SC: it stores and returns 0 when no agent has written the line since the LR, and returns 1 otherwise. -/
def State.coreSc (s : State) (c a : Nat) (dbl rl : Bool) (v : Word) : State :=
  let n := if dbl then 8 else 4
  match s.atomFault c a n 7 with
  | some e => s.except c e
  | none =>
    let s := s.beforeAtomic c a rl
    if (s.dev.getCore c).resv = some (a / 128) then
      (s.writePa a (leBytes n v.toNat)).onDev fun d => d.modCore c fun x => { x with rd := 0, resv := none }
    else s.onDev fun d => d.modCore c fun x => { x with rd := 1, resv := none }

/-- An atomic on the place of its one piece, or the misalignment of one that lies in two pages. -/
def State.atomic (s : State) (c : Nat) (l : List Piece) (f : Nat → State → State) : State :=
  match l with
  | [p] => f p.a s
  | _ => s.except c 6

/-! ### Cache-block operations (R320). -/

/-- Every copy of a line is invalidated; it was written back first. -/
def State.flushLine (s : State) (line : Nat) : State :=
  (s.cleanLine line).onDev fun d =>
    { d with cores := d.cores.map fun x => (x.1, { x.2 with clean := x.2.clean.filter fun l => l ≠ line }) }

/-- A cache-block operation on the line that holds a block, after the core's own stores to it. -/
def State.cbo (s : State) (c : Nat) (l : List Piece) (f : State → Nat → State) : State :=
  match l with
  | [p] => if s.admits c p.a 64 then f (s.settleLine c (p.a / 128)) (p.a / 128) else s.except c 7
  | _ => s

/-- A prefetch, which raises no exception: the whole line is fetched where the filter admits it. -/
def State.prefetch (s : State) (c va : Nat) : State :=
  match s.span c .block (va / 64 * 64) 64 with
  | .ok [p] => if s.admits c (p.a / 128 * 128) 128 ∧ p.ty = 0 then s.holds c (p.a / 128) else s
  | _ => s

/-! ### Starting and stopping harts (R327, R328). -/

/-- Whether the partition waits in the monitor: none of its harts runs or is suspended. -/
def State.allHeld (s : State) (p : Nat) : Bool :=
  (s.mgmt.cores p).all fun c => let h := (s.dev.getCore c).hart; h ≠ .running && h ≠ .suspended

/-- A hart starts at an address in HS-mode, with satp and hgatp zero (R327). -/
def Core.start (x : Core) (pc a0 a1 : Word) : Core :=
  { x with hart := .running, pc := pc, a0 := a0, a1 := a1, csrs := {}, resv := none, wrs := false, exc := 0 }

/-- The monitor sees go = 1: it refuses the entry address or starts hart 0. -/
def State.bootStart (s : State) (p : Nat) : State :=
  if !s.dev.ready ∨ (s.mgmt.terraces p).isEmpty ∨ !s.bootValid p ∨ s.bootField p 8 4 ≠ 1 ∨ !s.allHeld p then s
  else if !s.entryOk p then s.bootPut p 8 4 4
  else
    let entry := BitVec.ofNat 64 (s.bootField p 16 8)
    let arg := BitVec.ofNat 64 (s.bootField p 24 8)
    let s := s.bootPut p 8 4 2
    s.onDev fun d => (s.mgmt.cores p).foldl (fun d c => d.modCore c fun x =>
      if x.hart = .lost then x
      else if s.mgmt.hartOf p c = 0 then x.start entry 0 arg
      else { x with hart := .stopped }) d

/-- Every hart of a partition stops: its stores are performed, its dirty lines written back, its state lost. -/
def State.stopHarts (s : State) (p : Nat) : State :=
  (s.mgmt.cores p).foldl (fun s c =>
    let x := s.dev.getCore c
    if x.hart = .lost then s
    else
      let s := s.drain c
      let s := (s.dev.getCore c).dirty.foldl (fun s l => s.cleanLine l.1) s
      s.onDev fun d => d.modCore c fun x => { hart := .held, phys := x.phys, wayFails := x.wayFails, wayOff := x.wayOff }) s

/-- A hart of a partition, if the core's call names one. -/
def State.hart (s : State) (p h : Nat) : Option Nat := (s.mgmt.cores p)[h]?

/-- SBI HSM start: error codes of SBI 2.0 in a0 (PRESUMED, log 27). -/
def State.hsmStart (s : State) (c h : Nat) (addr arg : Word) : State :=
  let ret (s : State) (v : Int) : State := s.onDev fun d => d.modCore c fun x => { x with a0 := BitVec.ofInt 64 v }
  match s.corePt c with
  | none => s
  | some p =>
    match s.hart p h with
    | none => ret s (-3)
    | some t =>
      if (s.dev.getCore t).hart ≠ .stopped then ret s (-6)
      else if !s.mgmt.admits p addr.toNat 1 then ret s (-5)
      else
        let s := s.bootPut p 40 16 (s.bootField p 40 16 &&& (2 ^ 128 - 1 - 2 ^ h))
        ret (s.onDev fun d => d.modCore t fun x => x.start addr (BitVec.ofNat 64 h) arg) 0

/-! ### Meanings. -/

/-- SERVER_CORE_LOAD (R245, R247). -/
def execServerCoreLoad (c : Fin 96) (h : HPre) (va : Nat) (log2 : Fin 4) (s : State) : Out :=
  .next (s.coreMem c.val h .load va (2 ^ log2.val) fun l s => s.coreLoad c.val l)

/-- SERVER_CORE_STORE (R246). -/
def execServerCoreStore (c : Fin 96) (h : HPre) (va : Nat) (log2 : Fin 4) (v : Word) (s : State) : Out :=
  .next (s.coreMem c.val h .store va (2 ^ log2.val) fun l s => s.coreStore c.val l v)

/-- STORE_PERFORMED (R236): the oldest entry. -/
def execStorePerformed (c : Fin 96) (s : State) : Out := .next (s.drainN c.val 1)

/-- SERVER_CORE_AMO (R242, R243). The model's core runs its accesses in program order, so that aq asks for nothing more. -/
def execServerCoreAmo (c : Fin 96) (h : HPre) (va : Nat) (dbl _aq rl : Bool) (op : AmoOp) (v : Word) (s : State) : Out :=
  .next (s.coreMem c.val h .store va (if dbl then 8 else 4) fun l s => s.atomic c.val l fun a s => s.coreAmo c.val a dbl rl op v)

/-- LR (R244). -/
def execLr (c : Fin 96) (h : HPre) (va : Nat) (dbl _aq rl : Bool) (s : State) : Out :=
  .next (s.coreMem c.val h .load va (if dbl then 8 else 4) fun l s => s.atomic c.val l fun a s => s.coreLr c.val a dbl rl)

/-- SC (R244). -/
def execSc (c : Fin 96) (h : HPre) (va : Nat) (dbl _aq rl : Bool) (v : Word) (s : State) : Out :=
  .next (s.coreMem c.val h .store va (if dbl then 8 else 4) fun l s => s.atomic c.val l fun a s => s.coreSc c.val a dbl rl v)

/-- SERVER_CORE_FENCE (R246). -/
def execServerCoreFence (c : Fin 96) (predW : Bool) (s : State) : Out :=
  .next (s.coreStep c.val {} fun s => if predW then s.drain c.val else s)

/-- The access of a core that its address takes to the device register range; in two pages it is misaligned there. -/
def State.ioPieces (s : State) (c : Nat) (l : List Piece) (store : Option Word) : State :=
  match l with
  | [p] => s.ioAccess c p.a p.n store
  | _ => s.except c (if store.isSome then 7 else 5)

/-- IO_REGION_ACCESS (R248, R325). -/
def execIoRegionAccess (c : Fin 96) (h : HPre) (va : Nat) (log2 : Nat) (store : Option Word) (s : State) : Out :=
  .next (s.coreMem c.val h (if store.isSome then .store else .load) va (2 ^ log2) fun l s => s.ioPieces c.val l store)

/-- CBO_ZERO (R320): a store of 64 zero bytes. -/
def execCboZero (c : Fin 96) (h : HPre) (va : Nat) (s : State) : Out :=
  .next (s.coreMem c.val h .store (va / 64 * 64) 64 fun l s => s.coreStore c.val l 0)

/-- CBO_CLEAN (R320). -/
def execCboClean (c : Fin 96) (h : HPre) (va : Nat) (s : State) : Out :=
  .next (s.coreMem c.val h .block (va / 64 * 64) 64 fun l s => s.cbo c.val l fun s k => s.cleanLine k)

/-- CBO_FLUSH (R320). -/
def execCboFlush (c : Fin 96) (h : HPre) (va : Nat) (s : State) : Out :=
  .next (s.coreMem c.val h .block (va / 64 * 64) 64 fun l s => s.cbo c.val l fun s k => s.flushLine k)

/-- CBO_INVAL (R320): a line held dirty is written back before it is invalidated. -/
def execCboInval (c : Fin 96) (h : HPre) (va : Nat) (s : State) : Out :=
  .next (s.coreMem c.val h .block (va / 64 * 64) 64 fun l s => s.cbo c.val l fun s k => (s.cleanLine k).flushLine k)

/-- PREFETCH (R320): the whole line is fetched; an address that is not mapped or that the filter does not admit is not. -/
def execPrefetch (c : Fin 96) (h : HPre) (va : Nat) (s : State) : Out :=
  .next (s.coreStep c.val h fun s => s.prefetch c.val va)

/-- WRS_NTO (R331). -/
def execWrsNto (c : Fin 96) (s : State) : Out :=
  .next (s.coreStep c.val {} fun s => s.onDev fun d => d.modCore c.val fun x => { x with wrs := x.resv.isSome })

/-- WRS_STO (R331): its bounded wait may end at once (DESIGN CHOICE, log 28). -/
def execWrsSto (c : Fin 96) (s : State) : Out := .next (s.coreStep c.val {} fun s => s)

/-- BOOT_START (R327). -/
def execBootStart (pt : Fin 8) (s : State) : Out := .next (s.bootStart pt.val)

/-- BOOT_HALT (R327). -/
def execBootHalt (pt : Fin 8) (s : State) : Out :=
  .next (if (s.mgmt.terraces pt.val).isEmpty ∨ !s.bootValid pt.val ∨ s.bootField pt.val 8 4 ≠ 5 ∨ s.allHeld pt.val then s
    else (s.stopHarts pt.val).bootPut pt.val 8 4 3)

/-- SBI_SRST_SHUTDOWN (R328). -/
def execSbiSrstShutdown (c : Fin 96) (s : State) : Out :=
  .next (s.coreStep c.val {} fun s =>
    match s.corePt c.val with
    | some p => (s.stopHarts p).bootPut p 8 4 3
    | none => s)

/-- SBI_SRST_REBOOT (R328); a monitor activated since serves the partition from now (Table 20.10). -/
def execSbiSrstReboot (c : Fin 96) (s : State) : Out :=
  .next (s.coreStep c.val {} fun s =>
    match s.corePt c.val with
    | some p =>
      (((s.stopHarts p).bootPut p 12 4 1).bootPut p 8 4 1).onDev fun d => d.modPt p fun q => { q with monitor := s.mgmt.fwVersion.toNat }
    | none => s)

/-- HSM_START (R328). -/
def execHsmStart (c : Fin 96) (hart : Nat) (addr arg : Word) (s : State) : Out :=
  .next (s.coreStep c.val {} fun s => s.hsmStart c.val hart addr arg)

/-- HSM_SUSPEND (R328): a non-retentive suspend drains the store buffer, and what the core's caches hold dirty is written back before
its power goes (DEDUCED, log 28). -/
def execHsmSuspend (c : Fin 96) (retentive : Bool) (s : State) : Out :=
  .next (s.coreStep c.val {} fun s =>
    let s := if retentive then s else
      (s.drain c.val).emptyCaches c.val
    s.onDev fun d => d.modCore c.val fun x => { x with hart := .suspended, retentive := retentive })

/-- IMSIC_WRITE (R329): a store of 4 bytes to an interrupt file. -/
def execImsicWrite (c : Fin 96) (h : HPre) (va : Nat) (v : BitVec 32) (s : State) : Out :=
  .next (s.coreMem c.val h .store va 4 fun l s => s.ioPieces c.val l (some (v.zeroExtend 64)))

/-- HART_LOST (R332). -/
def execHartLost (c : Fin 96) (s : State) : Out := .next (s.hartLost c.val)

end Sys2Proof.Machine
end

