-- ==== Sys2Proof/Machine/Attach.lean ====
section
/-!
DEFINITION. An attachment: its window, mailboxes and doorbells, its registers, its outflow and rings, and its loss and return (R6,
R250, R251, R334 to R358, R390 to R392).
-/

namespace Sys2Proof.Machine

/-! ### Requests of a host. -/

/-- Whether requests of a host reach the device: the attachment exists and its link is in DL_Active. -/
def State.linked (s : State) (a : Nat) : Bool := attExists s.mgmt.split a && (s.dev.getAtt a).dlActive

/-- A request of a host: a dormant device wakes first, and the request is then served (R337). -/
def State.host (s : State) (a : Nat) (f : State → State) : State := if s.linked a then f s.awake else s

/-- A count of an attachment rises, and with it its bit of HG_STATUS. -/
def State.attCount (s : State) (a bitN : Nat) (f : Att → Att) : State :=
  s.withStatus fun s => s.onDev fun d => d.modAtt a fun x => (f x).setStatus bitN

def State.windowDrop (s : State) (a : Nat) : State :=
  s.attCount a 10 fun x => { x with winDrops := min max64 (x.winDrops + 1) }

def State.mailboxDrop (s : State) (a : Nat) : State :=
  s.attCount a 9 fun x => { x with mbDrops := min max64 (x.mbDrops + 1) }

def State.doorbellReject (s : State) (a : Nat) : State :=
  s.attCount a 8 fun x => { x with dbRejects := min max64 (x.dbRejects + 1) }

def State.urSeen (s : State) (a : Nat) : State :=
  s.attCount a 12 fun x => { x with urCount := min max64 (x.urCount + 1) }

/-! ### The data window (R250, R258, R341 to R344). -/

/-- The physical address that an access of a window or of a network client reaches: the context's table serves it, an object does
not take it, and it needs R or W (Table 10.3). -/
def Dev.clientPa (d : Dev) (n va : Nat) (write : Bool) : Option Nat :=
  match d.getCtx n with
  | none => none
  | some c =>
    if 2 ^ 48 ≤ va then none
    else
      match c.entry va with
      | some e =>
        if e.kind = 2 ∨ !e.perm (if write then 1 else 0) then none
        else some (e.target % 2 ^ 34 * granule + (va - e.va * granule))
      | none => none

/-- Splits an extent of virtual addresses at line bounds: address and length. -/
def lineExtents (fuel va n : Nat) : List (Nat × Nat) :=
  match fuel with
  | 0 => []
  | fuel + 1 => if n = 0 then [] else let k := min (128 - va % 128) n; (va, k) :: lineExtents fuel (va + k) (n - k)

/-- Writes by virtual address of a context, each line on its way to its home under an origin; a line that is refused is discarded and
counts one WINDOW_DROPPED. -/
def State.clientWrite (s : State) (o : Origin) (n va : Nat) (data : Bytes) : State :=
  let gen := match s.dev.getCtx n with | some c => c.gen | none => 0
  (lineExtents (data.length + 1) va data.length).foldl (fun s x =>
    match s.dev.clientPa n x.1 true with
    | some pa =>
      let off := pa % 128
      let bs := List.replicate off 0 ++ sub data (x.1 - va) x.2 ++ List.replicate (128 - off - x.2) 0
      s.onMem fun m => m.issue o n gen (pa / 128) (maskOf off x.2) bs
    | none => s.onDev fun d => d.countCtx n 0x12 1) s

/-- Bytes read by virtual address of a context, with what was refused as all ones, lines that poison touches, and the refusals. -/
def State.clientRead (s : State) (n va len : Nat) : Bytes × Bool × Nat :=
  (lineExtents (len + 1) va len).foldl (fun r x =>
    match s.dev.clientPa n x.1 false with
    | some pa =>
      let bad := s.poisonedAt pa x.2
      (r.1 ++ (if bad then List.replicate x.2 0xFF else s.readPa pa x.2), r.2.1 || bad, r.2.2)
    | none => (r.1 ++ List.replicate x.2 0xFF, r.2.1, r.2.2 + 1)) ([], false, 0)

/-- Every write of an origin that is on its way is performed, in order (R250, R253). -/
def State.landAll (s : State) (o : Origin) : State :=
  (s.mem.flight.filter fun w => w.from' = o).foldl (fun s w => s.land w.id) s

/-! ### Reads at a home (R16, R24, R233, R247, R250, R253, R285). -/

/-- The partition of a reader, for the checks of a receiving culvert or headgate. -/
def State.readerPt (s : State) (r : Reader) : Option Nat :=
  let ofCtx (n : Nat) : Option Nat := (s.dev.getCtx n).map fun c => c.pt
  match r with
  | .plane u => (s.dev.getPart u).bind fun p => ofCtx p.ctx
  | .ccFill e => s.mgmt.ptOf e.t.val
  | .core c => s.corePt c.val
  | .window a => (s.dev.getAtt a.val).bound.bind fun b => ofCtx b.1
  | .rdma q => (s.dev.getQp q).bind fun x => ofCtx x.ctx
  | .infuser => none

/-- The engine that reads, if one does. -/
def State.readerEng (s : State) (r : Reader) : Option EngId :=
  match r with
  | .plane u => (s.dev.getPart u).map fun p => p.eng
  | .ccFill e => some e
  | _ => none

/-- The terrace whose caddy slice holds an address (R361). -/
def sliceTerr (a : Nat) : Nat := a / 0x180000000000 * 4 + a % 0x180000000000 / sliceBytes

/-- The device address that a read reaches: an address of a culvert window goes through the receiver's table (R16); an engine's read of
caddy homed in the other quad is checked by the receiving headgate (R24), and a server core's by its partition filter before it leaves the die
(R324). -/
def State.target (s : State) (r : Reader) (pa : Nat) : Option Nat :=
  let barred : Bool := match r with | .core c => !s.admits c.val pa 1 | _ => false
  if barred then none
  else
  match paOf pa with
  | .window n off =>
    let w := Map.get s.dev.windows n {}
    if w.valid ∧ s.readerPt r = some w.owner then some (hbmPa w.terrace (w.region * 2 ^ 32 + off)) else none
  | .hbm _ _ => some pa
  | .caddy _ =>
    (match s.readerEng r with
     | some e => if e.t.val / 4 = caddyHg pa / 2 ∨ (s.readerPt r).isNone ∨ s.mgmt.ptOf (sliceTerr pa) = s.readerPt r then some pa else none
     | none => some pa)
  | _ => none

/-- The parts whose reads a refusal fails: the reader, or those whose clusters wait for the fill. -/
def State.refusedParts (s : State) (r : Reader) (pa : Nat) : List Nat :=
  match r with
  | .plane u => [u]
  | .ccFill e =>
    ((List.range 20).filterMap fun k =>
      let c := s.dev.getCl (20 * eIdx e + k)
      match c.stall, c.part with
      | .fillWait l _ _, some u => if l = pa / 128 then some u else none
      | _, _ => none).eraseDups
  | _ => []

/-- The virtual address by which a part's command names an address. -/
def State.vaOf (s : State) (p : Part) (pa : Nat) : Option Nat :=
  match s.dev.getCtx p.ctx with
  | none => none
  | some c =>
    c.ranges.findSome? fun r =>
      let e := r.entry
      match paOf pa with
      | .window n off =>
        let o := e.base % 2 ^ 32
        if e.kind = 1 ∧ bits e.target 56 48 = n ∧ o ≤ off ∧ off < o + e.len then some (e.va * granule + (off - o)) else none
      | _ => if e.kind < 2 ∧ e.base ≤ pa ∧ pa < e.base + e.len then some (e.va * granule + (pa - e.base)) else none

/-- A refused read fails its command with NOT_OWNER and posts a FAULT event with cause WINDOW_OWNER (R16, R24). For a caddy address, which
no window brings, the record's window field is a free value, and so is the address where no entry names it (log 58). -/
def State.refused (s : State) (r : Reader) (pa : Nat) : State :=
  (s.refusedParts r pa).foldl (fun s u =>
    match s.dev.getPart u with
    | none => s
    | some p =>
      let fr := s.dev.free
      let n := match paOf pa with | .window n _ => n | _ => (Config.freeWord fr).toNat % 2 ^ 16
      let va := (s.vaOf p pa).getD (Config.freeWord (fr + 1)).toNat
      ((s.took 2).event p.ctx 1 5 p.seq (leBytes 8 n ++ leBytes 8 va)).failPart u stNotOwner) s

/-- The writes of its own that a reader waits for: a server core's stores to the line (R247), the posted writes of a window (R250) and the
RDMA WRITEs of a queue pair (R253). -/
def State.beforeRead (s : State) (r : Reader) (pa n : Nat) : State :=
  match r with
  | .core c => s.beforeLoad c.val ⟨pa, n, 0⟩
  | .window a => s.landAll (.window a.val)
  | .rdma q => s.landAll (.qp q)
  | _ => s

/-- The bytes that a reader gets: a core's own store buffer stands over those of the caddy. -/
def State.dataFor (s : State) (r : Reader) (pa n : Nat) : Bytes :=
  match r with
  | .core c => s.forwarded c.val pa n
  | _ => s.readPa pa n

/-- A read answers its reader: bytes, or what Table 11.3 gives for a line whose poison it touches. -/
def State.served (s : State) (r : Reader) (data : Bytes) (bad : Bool) : State :=
  match r with
  | .core c => if bad then s.except c.val 5 else s.onDev fun d => d.modCore c.val fun x => { x with rd := BitVec.ofNat 64 (leNat data) }
  | .window a => s.onDev fun d => d.modAtt a.val fun x => { x with
      rdata := if bad then List.replicate data.length 0xFF else data, rbad := bad }
  | .rdma q => s.onDev fun d => d.modQp q fun x => if bad then { x with answer := 2, rdata := [] } else { x with answer := 0, rdata := data }
  | _ => s

/-- A read of bytes of one line at its home. -/
def State.homeRead (s : State) (r : Reader) (pa len : Nat) (chk : Check) : State :=
  match s.target r pa with
  | none => s.refused r pa
  | some pa =>
    let n := min len (128 - pa % 128)
    let s := s.beforeRead r pa n
    match paOf pa, chk with
    | .caddy _, .uncorrectable => s
    | k, _ =>
      let s := s.homeChecked pa chk
      let s := match k with
        | .caddy _ => if (s.dev.getChan (caddyChan pa)).retired then s.onDev fun d => d.count 4 1 else s
        | _ => s
      s.served r (s.dataFor r pa n) ((List.range n).any fun i => s.bad (pa + i))

/-! ### The window's accesses (R250, R341 to R344). -/

def State.windowWrite (s : State) (a off : Nat) (data : Bytes) : State :=
  match (s.dev.getAtt a).bound with
  | some (n, base) => if s.dev.ready then s.clientWrite (.window a) n (base * 2 ^ 16 + off) data else s.windowDrop a
  | none => s.windowDrop a

/-- What a read returned. -/
def State.returns (s : State) (a : Nat) (data : Bytes) (bad : Bool) : State :=
  s.onDev fun d => d.modAtt a fun x => { x with rdata := data, rbad := bad }

def State.windowRead (s : State) (a off len : Nat) : State :=
  let ones := List.replicate len (0xFF : Byte)
  match (s.dev.getAtt a).bound with
  | some (n, base) =>
    if s.dev.ready then
      let s := s.landAll (.window a)
      let r := s.clientRead n (base * 2 ^ 16 + off) len
      (s.onDev fun d => d.countCtx n 0x12 r.2.2).returns a r.1 r.2.1
    else (s.windowDrop a).returns a ones false
  | none => (s.windowDrop a).returns a ones false

/-- A read of HG_WINDOW_VA (R342, R343). -/
def State.windowBind (s : State) (a : Nat) : State :=
  let s := s.landAll (.window a)
  let x := s.dev.getAtt a
  let n := x.winCtx.toNat % 2 ^ 12
  let base := bits x.winVa.toNat 47 16
  let ok : Bool := match s.dev.getCtx n with | some c => c.home = a && c.state = .active | none => false
  let s :=
    if !x.winCtx.getLsbD 16 then s.onDev fun d => d.modAtt a fun x => { x with bound := none }
    else if ok then s.onDev fun d => d.modAtt a fun x => { x with bound := some (n, base) }
    else s.attCount a 11 fun x => { x with bound := none, winCtx := x.winCtx &&& ~~~0x10000#64 }
  s.returns a (leBytes 8 (s.dev.getAtt a).boundVa) false

/-! ### Mailboxes (R345 to R347, R358). -/

/-- The mailbox that a host's access names, if this attachment reaches it now. -/
def State.reach (s : State) (a : Nat) (mb : Mb) : Option Mailbox :=
  if !s.dev.ready then none
  else
    match mb with
    | .att b => if b.val = a then some (s.dev.getAtt a).mbox else none
    | .ctx n =>
      match s.dev.getCtx n.val with
      | some c => if c.home = a then some c.mbox else none
      | none => none
    | .qp _ => none

/-- A write into a page: bytes of slots that are not free are discarded. -/
def State.slotWrite (s : State) (a : Nat) (mb : Mb) (off : Nat) (data : Bytes) : State :=
  match s.reach a mb with
  | none => s.mailboxDrop a
  | some x =>
    let free (k : Nat) : Bool := x.free.getLsbD ((off + k) / 256) && off + k < 4096
    let s := s.onDev fun d => d.modMbox mb fun x => { x with
      page := (List.range data.length).foldl (fun m k => if free k then Mem.set m (off + k) (data.getD k 0) else m) x.page }
    if (List.range data.length).all free then s else s.mailboxDrop a

/-- A doorbell (R346): accepted, or rejected. -/
def Mailbox.ring (x : Mailbox) (v : Nat) : Option Mailbox :=
  let n := (v + 2 ^ 16 - x.produced) % 2 ^ 16
  let slots := (List.range n).map fun i => (x.produced + i) % 16
  if v < 2 ^ 16 ∧ 1 ≤ n ∧ n ≤ 16 ∧ slots.all fun k => x.free.getLsbD k then
    some { x with produced := v, free := slots.foldl (fun f k => f &&& ~~~BitVec.ofNat 16 (2 ^ k)) x.free }
  else none

def State.doorbell (s : State) (a : Nat) (mb : Mb) (size8 upper : Bool) (v : Nat) : State :=
  match s.reach a mb with
  | none => s.mailboxDrop a
  | some x =>
    if !size8 ∧ upper then s.doorbellReject a
    else
      match x.ring (if size8 then v else v % 2 ^ 32) with
      | some y => s.onDev fun d => d.modMbox mb fun _ => y
      | none => s.doorbellReject a

/-! ### Outflow (R349 to R353, R356, R357). -/

/-- A write of HG_OUTFLOW_ACK; v is the whole value that the register would take, after a write of 4 bytes too (log 58). -/
def State.outflowAck (s : State) (a v : Nat) : State :=
  let x := s.dev.getAtt a
  if v < x.ack ∨ x.osn < v then s.withStatus fun s => s.onDev fun d => d.modAtt a fun x => x.setStatus 13
  else s.onDev fun d => d.modAtt a fun x => { x with ack := v, unacked := x.unacked.filter fun i => v < i.1 }

/-- Bytes of one piece of an export now: an address from 2^60 on is a literal byte. -/
def State.pieceBytes (s : State) (p : Nat × Nat × Nat) : Bytes :=
  if 2 ^ 60 ≤ p.1 then [BitVec.ofNat 8 (p.1 - 2 ^ 60)] else s.readPa p.1 p.2.2

/-- An item's writes reach host memory. -/
def State.itemWrites (s : State) (a : Nat) (i : Item) : State :=
  match i with
  | .entry _ iova data _ _ => s.onDev fun d => d.modAtt a fun x => { x with host := Mem.write x.host iova data }
  | .exportOf _ src _ =>
    src.foldl (fun s p =>
      let bs := s.pieceBytes p
      s.onDev fun d => d.modAtt a fun x => { x with host := Mem.write x.host p.2.1 bs }) s

/-- The item takes its OSN. -/
def Att.complete (x : Att) (i : Item) : Att :=
  let osn := x.osn + 1
  let x : Att := { x with osn := osn, items := x.items.drop 1, unacked := x.unacked ++ [(osn, i)] }
  match i with
  | .entry _ _ _ ring pos =>
    let r := Map.get x.rings ring (0, [])
    { x with rings := Map.put x.rings ring (r.1, Map.put r.2 pos osn) }
  | .exportOf _ _ _ => x

/-- Sends a vector for entries of rings, and notes when (R392). -/
def Att.entrySend (x : Att) (now v : Nat) : Att := { x.vector v with vecSent := Map.put (x.vector v).vecSent v now }

/-- The interrupt of an entry: the context's vector, which waits where it was sent less than the context's holdoff ago (contexts may
share it); vector 0 for the attachment event ring (R392). -/
def State.entryInterrupt (s : State) (a ctx ring : Nat) : State :=
  if ring = 0 then s.onDev fun d => d.modAtt a fun x => if x.evtIntr then x.vector 0 else x
  else
    match s.dev.getCtx ctx with
    | none => s
    | some c =>
      let now := s.time.fabric
      match Map.find (s.dev.getAtt a).vecSent c.vector with
      | some t =>
        if now < t + c.holdoff * 256 then s.onDev fun d => d.modCtx ctx fun c => { c with sendDue := some (t + c.holdoff * 256) }
        else s.onDev fun d => d.modAtt a fun x => x.entrySend now c.vector
      | none => s.onDev fun d => d.modAtt a fun x => x.entrySend now c.vector

/-- The first item of an attachment completes, or its export's flush read fails the part. -/
def State.itemComplete (s : State) (a : Nat) (res : FlushResult) : State :=
  let x := s.dev.getAtt a
  match x.items.head? with
  | none => s
  | some i =>
    if x.held ∨ x.resending ∨ x.full then s
    else
      match i with
      | .entry ctx _ _ ring _ =>
        if !x.dlActive then s
        else ((s.itemWrites a i).onDev fun d => d.modAtt a fun x => x.complete i).entryInterrupt a ctx ring
      | .exportOf u _ _ =>
        if !x.dlActive then (if x.token.isNone then s.failPart u stAttLost else s)
        else if res = .ok then (s.itemWrites a i).onDev fun d => d.modAtt a fun x => x.complete i
        else s.failPart u stHostFault

/-- The oldest entry of a ring that waits for the previous lap is written once that lap's item is acknowledged (R391). -/
def Att.ringWrite (x : Att) (ring : Nat) : Att :=
  match x.lapHeld.find? fun h => h.1 = ring with
  | none => x
  | some h =>
    match h.2 with
    | .entry _ _ _ _ pos =>
      let r := Map.get x.rings ring (0, [])
      match Map.find r.2 pos with
      | some osn =>
        if osn ≤ x.ack then
          { x with
            items := x.items ++ [h.2]
            lapHeld := (x.lapHeld.takeWhile fun y => y.1 ≠ ring) ++ (x.lapHeld.dropWhile fun y => y.1 ≠ ring).drop 1
            rings := Map.put x.rings ring (r.1, Map.del r.2 pos) }
        else x
      | none => x
    | .exportOf _ _ _ => x

/-- The end of a holdoff: one send of the vector covers every context of the attachment that waits for it (R392). -/
def State.holdoffEnd (s : State) (n : Nat) : State :=
  match s.dev.getCtx n with
  | none => s
  | some c =>
    let now := s.time.fabric
    match c.sendDue with
    | some t =>
      if t ≤ now then
        (s.onDev fun d => d.modAtt c.home fun x => x.entrySend now c.vector).onDev fun d =>
          { d with ctxs := d.ctxs.map fun y =>
              (y.1, if y.2.home = c.home ∧ y.2.vector = c.vector ∧ y.2.sendDue = some t then { y.2 with sendDue := none } else y.2) }
      else s
    | none => s

/-- The items above ACK are written again, from the start of each buffer; RESEND_DONE is set (R356). -/
def State.resend (s : State) (a : Nat) : State :=
  let x := s.dev.getAtt a
  if !x.resending then s
  else
    let s := (x.unacked.filter fun i => x.ack < i.1).foldl (fun s i => s.itemWrites a i.2) s
    s.withStatus fun s => s.onDev fun d => d.modAtt a fun x => { x.setStatus 14 with resending := false }

/-! ### The link (R334, R335, R355, R495). -/

/-- A link trains, or retrains and stays active: only Flit mode reaches DL_Active. -/
def State.linkUp (s : State) (a speed width : Nat) (flit : Bool) : State :=
  let x := s.dev.getAtt a
  if !attExists s.mgmt.split a ∨ !x.perst ∨ !flit ∨ s.pow.stage ≠ .up then s
  else s.onDev fun d => d.modAtt a fun x => { x with
    dlActive := true, speed := speed, width := width, flit := true
    retrains := if x.dlActive then min max64 (x.retrains + 1) else x.retrains }

/-! ### Register accesses of every agent (R6, R7, R21, R338). -/

/-- Offsets of BAR0 whose writes have rows of their own. -/
def ownRow (off : Nat) : Bool := off = 0x080 || off = 0x0C8 || 0x1000 ≤ off

/-- Jormon writes WE_CAP and its maintenance sets; SP_ registers ignore it. -/
def State.ioWrite (s : State) (addr : Nat) (v : Word) : State :=
  if 0x3000000020000 ≤ addr ∧ addr < 0x3000000021000 then s.onPow fun w => w.weWrite (addr - 0x3000000020000) v.toNat
  else
    match enBlock addr with
    | some (e, off) => s.onDev fun d => d.maintWrite e none off v.toNat
    | none => s

/-- Byolo writes WE_CAP; it reaches the EN_ blocks for reads only. -/
def State.byoloWrite (s : State) (addr : Nat) (v : Word) : State :=
  if 0x3000000020000 ≤ addr ∧ addr < 0x3000000021000 then s.onPow fun w => w.weWrite (addr - 0x3000000020000) v.toNat else s

/-- A read by Jormon or Byolo; WE_EVENTS is cleared by it. -/
def State.ioRead (s : State) (addr : Nat) : State :=
  let v := BitVec.ofNat 64 (s.ioReg addr)
  s.onPow fun w =>
    let w : Pow := if 0x3000000020000 ≤ addr ∧ addr < 0x3000000021000 then w.weRead (addr - 0x3000000020000) else w
    { w with rdata := v }

/-- A register write, or for a kernel a CSR instruction. A server core's address is the physical one that its page tables gave. -/
def State.registerWrite (s : State) (who : RegAgent) (addr : Nat) (op : CsrOp) (rd rs1 : Fin 32) (size8 : Bool) (v : Word) : State :=
  match who with
  | .host a =>
    s.host a.val fun s =>
      if addr % (if size8 then 8 else 4) ≠ 0 then s.urSeen a.val
      else if ownRow (addr / 8 * 8) then s
      else
        s.withStatus fun s => s.onDev fun d => d.modAtt a.val fun x =>
          x.hgWrite addr size8 (if size8 ∨ addr % 8 = 0 then v else v <<< 32)
  | .jormon => s.ioWrite addr v
  | .byolo => if s.mgmt.running then s.byoloWrite addr v else s
  | .core c => s.coreStep c.val {} fun s => s.ioAccess c.val addr (if size8 then 8 else 4) (some v)
  | .kernel p => s.kernelStep p fun i s => s.csrOp i addr op rd rs1

/-- Eight bytes that a host reads in BAR0: registers, the MSI-X table and PBA, and mailboxes. -/
def State.bar0 (s : State) (a off : Nat) : Option Nat :=
  if off < 0x800 then some (s.hgReg a off)
  else if off < 0xC00 then some (Mem.le (s.dev.getAtt a).msix (off - 0x800) 8)
  else if off < 0xC08 then some (s.dev.getAtt a).pba.toNat
  else if 0x1000 ≤ off ∧ off < 0x2000 then (s.reach a (.att (Fin.ofNat 8 a))).map fun x => Mem.le x.page (off - 0x1000) 8
  else if 0x10000 ≤ off ∧ off < 0x20000 then
    (s.reach a (.ctx (Fin.ofNat 4096 ((off - 0x10000) / 16)))).map fun x => if off % 16 = 8 then x.stateReg else 0
  else if 0x1000000 ≤ off ∧ off < 0x2000000 then
    (s.reach a (.ctx (Fin.ofNat 4096 ((off - 0x1000000) / 0x1000)))).map fun x => Mem.le x.page (off % 0x1000) 8
  else some 0

/-- A read of a register, whole or one half of it (R336); an RC register then reads zero, whichever half was read (DEDUCED, log 58). -/
def State.registerRead (s : State) (who : RegAgent) (addr : Nat) (size8 : Bool) : State :=
  let n := if size8 then 8 else 4
  let reg := addr / 8 * 8
  match who with
  | .host a =>
    s.host a.val fun s =>
      if addr % n ≠ 0 then s.urSeen a.val
      else if reg = 0x068 then
        let s := s.windowBind a.val
        s.returns a.val (sub (s.dev.getAtt a.val).rdata (addr % 8) n) false
      else
        match s.bar0 a.val reg with
        | some v => (s.returns a.val (sub (leBytes 8 v) (addr % 8) n) false).onDev fun d => d.modAtt a.val fun x => x.readClear reg
        | none => (s.mailboxDrop a.val).returns a.val (List.replicate n 0xFF) false
  | .jormon => s.ioRead addr
  | .byolo => if s.mgmt.running then s.ioRead addr else s
  | .core c => s.coreStep c.val {} fun s => s.ioAccess c.val addr n none
  | .kernel p => s.kernelStep p fun i s => s.csrOp i addr .rs 0 0

/-! ### Meanings. -/

/-- HOME_READ (R233, R285). -/
def execHomeRead (r : Reader) (pa : Nat) (len : Nat) (chk : Check) (s : State) : Out := .next (s.homeRead r pa len chk)

/-- WINDOW_WRITE (R341). -/
def execWindowWrite (a : Fin 8) (off : Nat) (data : Bytes) (s : State) : Out :=
  .next (s.host a.val fun s => s.windowWrite a.val off data)

/-- WINDOW_READ (R250, R251). -/
def execWindowRead (a : Fin 8) (off len : Nat) (s : State) : Out := .next (s.host a.val fun s => s.windowRead a.val off len)

/-- WINDOW_BIND (R342, R343). -/
def execWindowBind (a : Fin 8) (s : State) : Out := .next (s.host a.val fun s => s.windowBind a.val)

/-- MAILBOX_SLOT_WRITE (R345, R347). -/
def execMailboxSlotWrite (a : Fin 8) (mb : Mb) (off : Nat) (data : Bytes) (s : State) : Out :=
  .next (s.host a.val fun s => s.slotWrite a.val mb off data)

/-- DOORBELL (R346). -/
def execDoorbell (a : Fin 8) (mb : Mb) (size8 upper : Bool) (v : Word) (s : State) : Out :=
  .next (s.host a.val fun s => s.doorbell a.val mb size8 upper v.toNat)

/-- OUTFLOW_ACK (R350). -/
def execOutflowAck (a : Fin 8) (v : Word) (s : State) : Out := .next (s.host a.val fun s => s.outflowAck a.val v.toNat)

/-- REGISTER_READ_CLEAR (R6). -/
def execRegisterReadClear (who : RegAgent) (addr : Nat) (size8 : Bool) (s : State) : Out := .next (s.registerRead who addr size8)

/-- REGISTER_WRITE (R6, R7). -/
def execRegisterWrite (who : RegAgent) (addr : Nat) (op : CsrOp) (rd rs1 : Fin 32) (size8 : Bool) (v : Word) (s : State) : Out :=
  .next (s.registerWrite who addr op rd rs1 size8 v)

/-- UNSUPPORTED_REQUEST (R336). -/
def execUnsupportedRequest (a : Fin 8) (s : State) : Out := .next (s.host a.val fun s => s.urSeen a.val)

/-- OUTFLOW_ITEM_COMPLETE (R349, R353). -/
def execOutflowItemComplete (a : Fin 8) (res : FlushResult) (s : State) : Out := .next (s.itemComplete a.val res)

/-- RING_ENTRY_WRITE (R391). -/
def execRingEntryWrite (a : Fin 8) (ring : Nat) (s : State) : Out :=
  .next (s.onDev fun d => d.modAtt a.val fun x => x.ringWrite ring)

/-- INTERRUPT_HOLDOFF_END (R392). -/
def execInterruptHoldoffEnd (n : Fin 4096) (s : State) : Out := .next (s.holdoffEnd n.val)

/-- ATTACHMENT_LOSS (R339, R355). -/
def execAttachmentLoss (a : Fin 8) (kind : LossKind) (s : State) : Out :=
  .next (if s.linked a.val then s.awake.withStatus fun s => s.lose a.val kind else s)

/-- ORPHAN_HOLD_EXPIRY (R357). -/
def execOrphanHoldExpiry (a : Fin 8) (s : State) : Out :=
  .next (let x := s.dev.getAtt a.val
    if x.held ∧ x.token.isSome ∧ x.orphanLeft = 0 then s.awake.holdEnds a.val else s)

/-- RESEND_DONE (R356). -/
def execResendDone (a : Fin 8) (s : State) : Out := .next (s.resend a.val)

/-- PERST_N_RELEASE (R495). -/
def execPerstNRelease (a : Fin 8) (s : State) : Out := .next (s.onDev fun d => d.modAtt a.val fun x => { x with perst := true })

/-- DL_ACTIVE (R334, R355). -/
def execDlActive (a : Fin 8) (speed width : Nat) (flit : Bool) (s : State) : Out := .next (s.linkUp a.val speed width flit)

end Sys2Proof.Machine
end

