-- ==== Sys2Proof/Machine/Network.lean ====
section
/-!
DEFINITION. The Ethernet ports: connections, the operations of the RoCEv2 subset, address resolution, congestion and link state (R253,
R402 to R414).
-/

namespace Sys2Proof.Machine

/-! ### Ports and their counters (R402 to R404, R414). Rows of Table 17.5 are numbered in its order, each name a row. -/

def EPort.count (x : EPort) (row n : Nat) : EPort := { x with counts := Map.addSat x.counts row n max64 }

def Dev.netCount (d : Dev) (p row n : Nat) : Dev := d.modEPort p fun x => x.count row n

/-- Tunables of a port in the layout record (Table 20.20): flags IPV4 0, IPV6 1, VLAN 2, PFC 3. -/
def Mgmt.netFlag (m : Mgmt) (p k : Nat) : Bool := bit (recNet m.record p 5 1) k

/-- An address in network byte order as a number. -/
def netAddr (bs : Bytes) : Nat := leNat bs.reverse

def Mgmt.ipv4 (m : Mgmt) (p : Nat) : Nat := netAddr (Mem.read m.record (128 + 128 * p) 4)
def Mgmt.ipv6 (m : Mgmt) (p : Nat) : Nat := netAddr (Mem.read m.record (128 + 128 * p + 8) 16)

/-- Whether a port that is up owns an address. -/
def State.owns4 (s : State) (p : Nat) (ip : Nat) : Bool := s.mgmt.netFlag p 0 && s.mgmt.ipv4 p = ip
def State.owns6 (s : State) (p : Nat) (ip : Nat) : Bool := s.mgmt.netFlag p 1 && s.mgmt.ipv6 p = ip

/-- A frame received: with PFC disabled and a full receive buffer it is dropped (R413). -/
def State.frame (s : State) (p : Nat) (f : State → State) : State :=
  let x := s.dev.getEPort p
  if !x.up then s
  else if 2 ^ 23 ≤ x.fill ∧ !s.mgmt.netFlag p 3 then s.onDev fun d => d.netCount p 11 1
  else f s

/-- A frame that the port answers, with a kind of reply, or discards and counts. -/
def State.answerFrame (s : State) (p : Nat) (own : Bool) (kind : Nat) : State :=
  s.onDev fun d => if own then d.modEPort p fun x => { x with lastTx := kind } else d.netCount p 2 1

/-! ### Connections (R405, R406). -/

/-- The code of a REJ, or none; a path MTU other than the two is refused with a reason that the manual does not number. -/
def State.connectCode (s : State) (p ctx gen : Nat) (key : Word) (mtu : Nat) : Option Nat :=
  match s.dev.getCtx ctx with
  | none => some 1
  | some c =>
    if c.gen ≠ gen then some 1
    else if (s.dev.getAtt c.home).token ≠ some key then some 2
    else if !bit (recNet s.mgmt.record p 28 1) c.pt then some 3
    else if 4096 ≤ s.dev.qps.length then some 4
    else if c.state ≠ .active then some 5
    else if mtu ≠ 4096 ∧ mtu ≠ 1024 then some ((Config.freeWord s.dev.free).toNat % 256)
    else none

def State.connect (s : State) (p ctx gen : Nat) (key : Word) (mtu : Nat) : State :=
  match s.connectCode p ctx gen key mtu with
  | some code => (s.took 1).onDev fun d => d.modEPort p fun x => { x with cmCode := code, cmQp := 0 }
  | none =>
    let q := s.dev.nextQp
    let x : Qp := { port := p, ctx := ctx, gen := gen, rkey := Config.rkey s.dev.free, raised := s.time.fabric,
                    dscp := recNet s.mgmt.record p 26 1, dscpCnp := recNet s.mgmt.record p 27 1,
                    retries := Config.retryCount, rnrRetries := Config.rnrCount }
    (s.took 1).onDev fun d => ({ d with qps := Map.put d.qps q x, nextQp := q + 1 } : Dev).modEPort p fun y =>
      { y with cmCode := 0, cmQp := q }

/-! ### Requests of a client (R405, R407 to R409). -/

/-- A packet of a queue pair received on its port. -/
def State.packet (s : State) (q : Nat) (f : Qp → State → State) : State :=
  match s.dev.getQp q with
  | none => s
  | some x => s.frame x.port fun s => f x s

/-- An answer to the client; NAKs of every kind count. -/
def State.answer (s : State) (q port a : Nat) : State :=
  s.onDev fun d =>
    let d := d.modQp q fun x => { x with answer := a }
    let d := if a = 0 then d else d.netCount port 5 1
    if a = 3 then d.netCount port 6 1 else d

/-- SEND (R407, R408, R410). -/
def State.send (s : State) (q : Nat) (data : Bytes) : State :=
  s.packet q fun x s =>
    let s := s.onDev fun d => d.netCount x.port 0 data.length
    let orphan : Bool := match s.dev.getCtx x.ctx with | some c => c.state ≠ .active | none => false
    if x.err then s.answer q x.port 2
    else if data.length ≠ 256 then s.answer q x.port 1
    else if orphan ∨ 16 ≤ x.msgs.length then s.answer q x.port 3
    else (s.onDev fun d => d.modQp q fun x => { x with msgs := x.msgs ++ [data] }).answer q x.port 0

/-- Whether an RDMA request breaks a rule of R409. -/
def Qp.rejects (x : Qp) (va : Word) (rkey : BitVec 32) : Bool := x.err || rkey ≠ x.rkey || 2 ^ 48 ≤ va.toNat

def State.rdmaWrite (s : State) (q : Nat) (va : Word) (rkey : BitVec 32) (data : Bytes) : State :=
  s.packet q fun x s =>
    let s := s.onDev fun d => d.netCount x.port 0 data.length
    if x.rejects va rkey then s.answer q x.port 2
    else (s.clientWrite (.qp q) x.ctx va.toNat data).answer q x.port 0

/-- RDMA READ: after every earlier WRITE of the queue pair has been performed; one that touches poison ends in a remote access error
(R253, R285, R409). -/
def State.rdmaRead (s : State) (q : Nat) (va : Word) (rkey : BitVec 32) (len : Nat) : State :=
  s.packet q fun x s =>
    if x.rejects va rkey then s.answer q x.port 2
    else if 16 ≤ x.reads then s.answer q x.port 1
    else
      let s := s.landAll (.qp q)
      let r := s.clientRead x.ctx va.toNat len
      let s := s.onDev fun d => d.countCtx x.ctx 0x12 r.2.2
      if r.2.1 then s.answer q x.port 2
      else
        (s.onDev fun d => (d.modQp q fun x => { x with reads := x.reads + 1, rdata := r.1 }).netCount x.port 1 len).answer q x.port 0

/-- An operation that the subset refuses (Table 17.2). -/
def State.refuseOp (s : State) (q : Nat) : State := s.packet q fun x s => s.answer q x.port (if x.err then 2 else 1)

/-! ### Replies and retries (R405, R408, R410). -/

/-- A queue pair moves to Error. -/
def Dev.qpError (d : Dev) (q : Nat) : Dev :=
  match d.getQp q with
  | some x => if x.err then d else (d.modQp q fun x => { x with err := true, msgs := [] }).netCount x.port 12 1
  | none => d

/-- Retry counts as at connection. -/
def Qp.fresh (x : Qp) : Qp := { x with retries := Config.retryCount, rnrRetries := Config.rnrCount }

/-- The client has taken the oldest reply, or, with no reply outstanding, a READ response (log 29). -/
def Qp.accepted (x : Qp) : Qp :=
  if x.replies.isEmpty then { x.fresh with reads := x.reads - 1 } else { x.fresh with replies := x.replies.drop 1 }

/-- A retry of what is outstanding: while retries are left it is sent again, unless PFC pauses the port (R413). -/
def Dev.retry (d : Dev) (q : Nat) (rnr : Bool) : Dev :=
  match d.getQp q with
  | none => d
  | some x =>
    if x.err ∨ (d.getEPort x.port).paused ∨ (x.replies.isEmpty ∧ x.reads = 0) then d
    else if (if rnr then x.rnrRetries else x.retries) = 0 then d.qpError q
    else
      (d.modQp q fun x => if rnr then { x with rnrRetries := x.rnrRetries - 1 } else { x with retries := x.retries - 1 }).netCount
        x.port 1 (if x.replies.isEmpty then x.rdata.length else 256)

def Dev.ackFor (d : Dev) (q : Nat) (a : Ack) : Dev :=
  match a, d.getQp q with
  | .ack, some x =>
    if x.err then d
    else (d.modQp q Qp.accepted).netCount x.port 1 (if x.replies.isEmpty then 0 else 256)
  | .rnrNak, _ => d.retry q true
  | .nak, _ => d.retry q false
  | .ack, none => d

/-! ### Congestion (R411 to R413). -/

/-- The interval of CNPs and of the rate limit. -/
def cnpInterval : Nat := 2 ^ 17

/-- Whether an interval has passed since a time. -/
def passed (t : Option Nat) (now : Nat) : Bool := match t with | some t => t + cnpInterval ≤ now | none => true

def Dev.sendCnp (d : Dev) (q now : Nat) : Dev :=
  match d.getQp q with
  | some x => if passed x.cnpSent now then (d.modQp q fun x => { x with cnpSent := some now }).netCount x.port 7 1 else d
  | none => d

/-- A CNP received halves the limit, at most once an interval, never below 1/1,024 of line rate. -/
def Qp.halve (x : Qp) (now : Nat) : Qp :=
  let x := { x with cnpRecv := some now }
  if passed x.halved now then { x with rate := max 1 (x.rate / 2), halved := some now } else x

/-- An interval without a CNP raises the limit by 1/64 of line rate, up to line rate. -/
def Qp.raiseRate (x : Qp) (now : Nat) : Qp :=
  if passed x.cnpRecv now ∧ passed (some x.raised) now then { x with rate := min 1024 (x.rate + 16), raised := now } else x

/-- The receive buffer's fill: PFC is sent above 6 MiB and released below 4 MiB; each is a PFC frame (log 29). -/
def EPort.setFill (x : EPort) (fill : Nat) (pfc : Bool) : EPort :=
  let x := { x with fill := fill }
  if pfc ∧ !x.pfcOut ∧ 6 * 2 ^ 20 < fill then { x with pfcOut := true }.count 9 1
  else if pfc ∧ x.pfcOut ∧ fill < 4 * 2 ^ 20 then { x with pfcOut := false }.count 9 1
  else x

/-! ### Link state (R402, R403, R410, R421). -/

/-- A port that trains at 200 Gb/s comes up when an address is configured; a dormant device takes its ports down. -/
def State.portUp (s : State) (p : Nat) (at200 : Bool) : State :=
  if at200 ∧ (s.mgmt.netFlag p 0 ∨ s.mgmt.netFlag p 1) ∧ s.pow.stage = .up ∧ !s.pow.dormant then
    s.onDev fun d => d.modEPort p fun x => { x with up := true }
  else s

def EPort.down (x : EPort) : EPort := { x with up := false, fill := 0, pfcOut := false, paused := false }

/-! ### Meanings. -/

/-- CONNECT_REQUEST (R406). -/
def execConnectRequest (port : Fin 4) (ctx : Nat) (gen : Nat) (key : Word) (mtu : Nat) (s : State) : Out :=
  .next (s.frame port.val fun s => s.connect port.val ctx gen key mtu)

/-- SEND (R408). -/
def execSend (q : Nat) (data : Bytes) (s : State) : Out := .next (s.send q data)

/-- SEND_WITH_IMMEDIATE (R405). -/
def execSendWithImmediate (q : Nat) (s : State) : Out := .next (s.refuseOp q)

/-- RDMA_WRITE (R409). -/
def execRdmaWrite (q : Nat) (va : Word) (rkey : BitVec 32) (data : Bytes) (s : State) : Out := .next (s.rdmaWrite q va rkey data)

/-- RDMA_WRITE_WITH_IMMEDIATE (R405). -/
def execRdmaWriteWithImmediate (q : Nat) (s : State) : Out := .next (s.refuseOp q)

/-- RDMA_READ (R409). -/
def execRdmaRead (q : Nat) (va : Word) (rkey : BitVec 32) (len : Nat) (s : State) : Out := .next (s.rdmaRead q va rkey len)

/-- COMPARE_AND_SWAP (R405). -/
def execCompareAndSwap (q : Nat) (s : State) : Out := .next (s.refuseOp q)

/-- FETCH_AND_ADD (R405). -/
def execFetchAndAdd (q : Nat) (s : State) : Out := .next (s.refuseOp q)

/-- ARP_REQUEST (R404). -/
def execArpRequest (port : Fin 4) (ip : BitVec 32) (s : State) : Out :=
  .next (s.frame port.val fun s => s.answerFrame port.val (s.owns4 port.val ip.toNat) 1)

/-- NEIGHBOR_SOLICITATION (R404). -/
def execNeighborSolicitation (port : Fin 4) (ip : BitVec 128) (s : State) : Out :=
  .next (s.frame port.val fun s => s.answerFrame port.val (s.owns6 port.val ip.toNat) 2)

/-- ECHO_REQUEST (R404). -/
def execEchoRequest (port : Fin 4) (v6 : Bool) (ip : BitVec 128) (s : State) : Out :=
  .next (s.frame port.val fun s =>
    s.answerFrame port.val (if v6 then s.owns6 port.val ip.toNat else s.owns4 port.val ip.toNat) 3)

/-- FRAME_DISCARD (R402, R404). -/
def execFrameDiscard (port : Fin 4) (s : State) : Out := .next (s.frame port.val fun s => s.answerFrame port.val false 0)

/-- CONGESTION_EXPERIENCED (R411). -/
def execCongestionExperienced (q : Nat) (s : State) : Out :=
  .next (s.packet q fun _ s => s.onDev fun d => d.sendCnp q s.time.fabric)

/-- CNP_RECEIVED (R412). -/
def execCnpReceived (q : Nat) (s : State) : Out :=
  .next (s.packet q fun x s => s.onDev fun d => (d.modQp q fun x => x.halve s.time.fabric).netCount x.port 8 1)

/-- RATE_LIMIT_RAISE (R412). -/
def execRateLimitRaise (q : Nat) (s : State) : Out := .next (s.onDev fun d => d.modQp q fun x => x.raiseRate s.time.fabric)

/-- PFC_FRAME (R413): a frame on another priority, or with PFC disabled, is discarded (R404). -/
def execPfcFrame (port : Fin 4) (prio : Fin 8) (pause : Bool) (s : State) : Out :=
  .next (s.frame port.val fun s => s.onDev fun d =>
    if s.mgmt.netFlag port.val 3 ∧ recNet s.mgmt.record port.val 25 1 = prio.val then
      d.modEPort port.val fun x => { x with paused := pause }.count 10 1
    else d.netCount port.val 2 1)

/-- RECEIVE_BUFFER_THRESHOLD (R413). -/
def execReceiveBufferThreshold (port : Fin 4) (fill : Nat) (s : State) : Out :=
  .next (s.onDev fun d => d.modEPort port.val fun x => if x.up then x.setFill fill (s.mgmt.netFlag port.val 3) else x)

/-- PORT_LINK_DOWN (R410): transport retries run by their own rows. -/
def execPortLinkDown (port : Fin 4) (s : State) : Out := .next (s.onDev fun d => d.modEPort port.val EPort.down)

/-- PORT_LINK_UP (R402, R403). -/
def execPortLinkUp (port : Fin 4) (at200 : Bool) (s : State) : Out := .next (s.portUp port.val at200)

/-- RETRANSMISSION_TIMEOUT (R408). -/
def execRetransmissionTimeout (q : Nat) (s : State) : Out := .next (s.onDev fun d => d.retry q false)

/-- ACKNOWLEDGEMENT_RECEIVED (R405, R408). -/
def execAcknowledgementReceived (q : Nat) (a : Ack) (s : State) : Out := .next (s.packet q fun _ s => s.onDev fun d => d.ackFor q a)

end Sys2Proof.Machine
end

