-- ==== Sys2Proof/Machine/Power.lean ====
section
/-!
DEFINITION. Power states of engines, terraces and the device, the weir, the temperature thresholds and the stops of the safety
partition (R416 to R438, R481, R482).
-/

namespace Sys2Proof.Machine

/-! ### Engines and terraces (R418, R419). -/

/-- Whether an engine is idle: no part executes, every array is at activity level 0, and no maintenance request waits. -/
def Dev.engIdle (d : Dev) (e : Nat) : Bool :=
  let x := d.getEng e
  x.executing.isEmpty && x.maintq.isEmpty && x.ccFill.isNone && (List.range 20).all fun k => (d.getCl (20 * e + k)).level = 0

/-- Clock gating: idle for 64 array cycles. -/
def Dev.clockGate (d : Dev) (e : Nat) : Dev :=
  let x := d.getEng e
  if x.power = .running ∧ d.engIdle e ∧ 64 ≤ x.idleArr then d.modEng e fun x => { x with power := .clockGated, idleArr := 0 } else d

/-- What an engine keeps without power: the cistern while it holds retained copies, and what Jormon and self-test know of it. -/
def Engine.unpowered (x : Engine) : Engine :=
  { queue := x.queue, cistern := if x.retained.isEmpty then [] else x.cistern, retained := x.retained, wayFails := x.wayFails,
    wayOff := x.wayOff, checkFails := x.checkFails, replays := x.replays, resets := x.resets, needSpare := x.needSpare
    isolated := x.isolated, power := .powerGated, absent := true }

/-- Power gating: clock-gated, with no part queued, for 2^16 array cycles. -/
def Dev.powerGate (d : Dev) (e : Nat) : Dev :=
  let x := d.getEng e
  if x.power = .clockGated ∧ d.engIdle e ∧ x.queue.isEmpty ∧ 2 ^ 16 ≤ x.idleArr then
    (List.range 20).foldl (fun d k => d.setCl (20 * e + k) {}) (d.modEng e Engine.unpowered)
  else d

/-- The power-gated engines of a terrace that a part waits for, with the first part: the earliest dispatched is served first. -/
def Dev.waking (d : Dev) (t : Nat) : List (Nat × Nat) :=
  (List.range 5).filterMap fun k =>
    let x := d.getEng (5 * t + k)
    match x.queue.head? with
    | some u => if x.power = .powerGated ∧ x.isolated.isNone then some (5 * t + k, u) else none
    | none => none

/-- A gated engine wakes: supply, requester-absent, clocks, and the arrays from level 0. A loader update takes effect. -/
def State.engineWake (s : State) (e : Nat) : State :=
  let d := s.dev
  let x := d.getEng e
  let wanted : Bool := !x.queue.isEmpty || !x.maintq.isEmpty
  if !d.ready ∨ !wanted ∨ x.isolated.isSome ∨ x.power = .running ∨ (d.getTerr (e / 5)).pllOff then s
  else if x.power = .powerGated then
    if (d.waking (e / 5)).all fun w => w.1 = e || match x.queue.head? with | some u => u < w.2 | none => false then
      (s.onDev fun d => d.modEng e fun x => { x with power := .running, absent := false, idleArr := 0 }).onMgmt fun m =>
        { m with loaderOn := addOnce m.loaderOn e }
    else s
  else s.onDev fun d => d.modEng e fun x => { x with power := .running, idleArr := 0 }

/-- The power state of a physical engine: that of the logical engine it serves; one that serves none, a spare in reserve or a fenced
engine, is power-gated (R26, R418, R460). -/
def Dev.physPower (d : Dev) (t k : Nat) : EngPower :=
  match (List.range 5).find? fun e => (d.getTerr t).phys e = some k with
  | some e => (d.getEng (5 * t + e)).power
  | none => .powerGated

/-- Whether a cluster place of a physical engine, 0 to 20, is powered: the spare only once it is in use (R26). -/
def Dev.clusterOn (d : Dev) (t k c : Nat) : Bool :=
  d.physPower t k ≠ .powerGated && (c < 20 || has (d.getTerr t).spareCl k)

/-- A terrace's PLL turns off: every engine, spare included, power-gated for 2^24 fabric cycles, or the terrace in no partition. -/
def State.pllOff (s : State) (t : Nat) : State :=
  let d := s.dev
  let x := d.getTerr t
  if ((List.range 6).all fun k => d.physPower t k = .powerGated) ∧ (2 ^ 24 ≤ x.allGated ∨ (s.mgmt.ptOf t).isNone) then
    s.onDev fun d => d.modTerr t fun x => { x with pllOff := true }
  else s

/-- A part dispatched to the terrace turns it on. -/
def Dev.pllWake (d : Dev) (t : Nat) : Dev :=
  if d.ready ∧ (d.getTerr t).pllOff ∧ (List.range 5).any fun k => !(d.getEng (5 * t + k)).queue.isEmpty then
    d.modTerr t fun x => { x with pllOff := false, allGated := 0 }
  else d

/-! ### Dormant (R420 to R422). -/

/-- Whether a context has work: a command that has not ended. -/
def Ctx.working (c : Ctx) : Bool := (c.cmds.any fun x => !x.state.ended) || c.teardown.isSome || c.rollDue.isSome

/-- The conditions of R420 but the tunable and the time. -/
def State.quiet (s : State) : Bool :=
  let d := s.dev
  d.ready && ((List.range 8).all fun t => (d.getTerr t).pllOff)
    && (d.ctxs.all fun c => !c.2.working)
    && (d.partns.all fun p => p.2.faults.isEmpty && p.2.alarm.isNone && p.2.objs.all fun o => o.2.rise.isNone && o.2.sinkOp.isNone)
    && (d.atts.all fun a => (a.2.items.isEmpty || a.2.held) && a.2.staging.isNone)
    && (d.qps.all fun q => q.2.err)
    && (d.cores.all fun c => match c.2.hart with | .running => false | .suspended => !c.2.retentive | _ => true)
    && s.mgmt.fwOld.isNone && s.mem.flight.isEmpty

/-- DORMANT_ENABLE, and DORMANT_IDLE in kettle cycles. -/
def Mgmt.dormantOn (m : Mgmt) : Bool := bit (recDormant m.record) 31
def Mgmt.dormantIdle (m : Mgmt) : Nat := recDormant m.record % 2 ^ 31 * 2 ^ 10

/-- Dirty server-core lines are written back, and no core holds any line. -/
def State.writeBackCores (s : State) : State :=
  let lines := s.dev.cores.flatMap fun c => c.2.dirty.map fun l => l.1
  (lines.foldl (fun s l => s.cleanLine l) s).onDev fun d => { d with cores := d.cores.map fun c => (c.1, { c.2 with clean := [] }) }

/-- Entry into dormant. -/
def State.dormantEntry (s : State) : State :=
  if s.quiet ∧ s.mgmt.dormantOn ∧ s.mgmt.dormantIdle ≤ s.pow.dormantRun then
    let s := s.writeBackCores
    let s := s.onDev fun d => { d with ready := false, eports := d.eports.map fun p => (p.1, p.2.down) }
    s.onPow fun w => { w with dormant := true }
  else s

/-- Whether a cause of a wake is present. -/
def State.wakes (s : State) (c : WakeCause) : Bool :=
  match c with
  | .tlp => true
  | .l12Exit => true
  | .hartTimer => s.dev.cores.any fun c => c.2.hart = .suspended && (c.2.timer || !c.2.imsic.isEmpty)
  | .holdEnd => s.dev.atts.any fun a => a.2.held && a.2.orphanLeft = 0
  | .byolo => s.mgmt.running

/-! ### The fast loop (R427), in 0.25 W. -/

/-- The scaled estimate of a domain, in whole units of 0.25 W (log 31). -/
def Domain.scaled (x : Domain) (estimate : Nat) : Nat := estimate * x.kNum / x.kDen

/-- The end of a window. An enforcement of the safety partition stands above it (R438). -/
def Pow.fastLoop (w : Pow) (d estimate : Nat) : Pow :=
  let x := w.getDom d
  let est := x.scaled estimate
  let b := w.budget d
  if w.spStatus.getLsbD 2 then w
  else if b < est then w.modDom d fun x => { x with step := if 4 < x.step then x.step - 1 else x.step }
  else if 16 * est < 15 * b then w.modDom d fun x => { x with step := if x.step < x.top then x.step + 1 else x.step }
  else w

/-! ### The slow loop (R424, R428 to R431, R434 to R436). -/

/-- Whether a reading in 0.25 degC is valid: -20 to 150 degC. -/
def validTemp (q : Int) : Bool := -80 ≤ q && q ≤ 600

/-- Sensor ID of a domain's die. -/
def dieSensor (d : Nat) : Nat :=
  if d < 8 then 0x1000 + 32 * d else if d < 10 then 0x1100 + 32 * (d - 8) else if d < 14 then 0x1200 + 32 * (d - 10) else 0x1300

/-- Sensor ID of the memory that a domain carries: its first stack or channel. -/
def memSensor (d : Nat) : Nat := if d < 8 then 0x2000 + 3 * d else 0x3000 + 13 * (d - 10)

/-- Two bytes of a reading. -/
def reading2 (q : Int) : Bytes := leBytes 2 (code 16 q)

/-- A reading of a sensor: an invalid one is logged and left out. -/
def State.tempRead (s : State) (id : Nat) (q : Option Int) : State :=
  match q with
  | none => s.sensor id none
  | some v => if validTemp v then s.sensor id (some v) else (s.sensor id none).log 0x243 none none (leBytes 2 id ++ reading2 v)

/-- The temperature that a die stands at: without valid readings its throttle threshold, 100 degC. -/
def dieTemp (q : Option Int) : Int :=
  match q with
  | some v => if validTemp v then v else 400
  | none => 400

/-- Whether a valid memory reading is at or above a threshold, or below a release. -/
def memAt (q : Option Int) (t : Int) : Bool := match q with | some v => validTemp v && t ≤ v | none => false
def memBelow (q : Option Int) (t : Int) : Bool := match q with | some v => !validTemp v || v < t | none => true

/-- The thermal throttle of a domain at a slow interval. -/
def Domain.throttle (x : Domain) (exceeded released : Bool) : Domain :=
  if exceeded then { x with thermal := true, cut := min 12 (x.cut + 1), coolRun := 0 }
  else if !x.thermal then x
  else if released then
    let run := x.coolRun + 1
    if run < 16 then { x with coolRun := run }
    else { x with coolRun := run, cut := x.cut - 1, thermal := 1 < x.cut }
  else { x with coolRun := 0 }

/-- THERMAL_WARN once per crossing of 95 degC, until the die falls below 92 degC. -/
def State.thermalWarn (s : State) (d : Nat) (t : Int) : State :=
  let x := s.pow.getDom d
  if 380 ≤ t ∧ !x.warned then
    (s.onPow fun w => w.modDom d fun x => { x with warned := true }).log 0x244 none none (leBytes 2 (dieSensor d) ++ reading2 t)
  else if t < 368 then s.onPow fun w => w.modDom d fun x => { x with warned := false }
  else s

/-- Temperatures at a slow interval. The kettle die is never throttled. -/
def State.slowTemps (s : State) (d : Nat) (dieQ memQ : Option Int) : State :=
  let t := dieTemp dieQ
  let s := s.tempRead (dieSensor d) dieQ
  let carries : Bool := d < 8 || (10 ≤ d && d < 14)
  let s := if carries ∧ memQ.isSome then s.tempRead (memSensor d) memQ else s
  let s := s.thermalWarn d t
  let m : Option Int := if carries then memQ else none
  let exceeded : Bool := 400 ≤ t || memAt m (if d < 8 then 400 else 380)
  let released : Bool := t < 388 && memBelow m (if d < 8 then 388 else 368)
  if d = 14 then s else s.onPow fun w => w.modDom d fun x => x.throttle exceeded released

/-- A divergence: the measurement exceeds the scaled estimate by more than 15 %. -/
def diverges (m e : Nat) : Bool := 115 * e < 100 * m
/-- The measurement lies within 15 % of the scaled estimate. -/
def nearby (m e : Nat) : Bool := 85 * e ≤ 100 * m && 100 * m ≤ 115 * e

/-- Extends a divergence run. -/
def Domain.extend (x : Domain) (m e : Nat) : Domain := { x with runLen := x.runLen + 1, runE := x.runE + e, runM := x.runM + m }
def Domain.endRun (x : Domain) : Domain := { x with runLen := 0, runE := 0, runM := 0 }

/-- The one action of R429 at the third interval: with E zero the factor is a free value (log 5). -/
def State.divergence (s : State) (d : Nat) : State :=
  let x := s.pow.getDom d
  let e := x.runE
  let m := x.runM
  let k : Nat × Nat := if e = 0 then ((Config.freeWord s.dev.free).toNat, 1) else (x.kNum * m, x.kDen * e)
  let s := if e = 0 then s.took 1 else s
  let s := s.onPow fun w => w.modDom d fun x => ({ x with
    hold := some (16, normalBudget d w.effW * e / m), kNum := k.1, kDen := k.2
    diverge := min (2 ^ 16 - 1) (x.diverge + 1) } : Domain).endRun
  s.log 0x241 none none (leBytes 1 d ++ leBytes 4 e ++ leBytes 4 m)

/-- A suspect sensor is watched until 64 intervals in a row agree. -/
def State.watchSuspect (s : State) (d m e : Nat) : State :=
  let x := s.pow.getDom d
  if !nearby m e then s.onPow fun w => w.modDom d fun x => { x with clearRun := 0 }
  else if x.clearRun < 63 then s.onPow fun w => w.modDom d fun x => { x with clearRun := x.clearRun + 1 }
  else
    let s := s.onPow fun w => w.modDom d fun x => { x with clearRun := 0, suspect := false }
    if (List.range 15).any fun k => (s.pow.getDom k).suspect then s else s.serviced 3

/-- R429 and R430 on a measurement and a scaled estimate. -/
def State.compare (s : State) (d m e : Nat) : State :=
  let x := s.pow.getDom d
  if x.suspect then s.watchSuspect d m e
  else if 2 * m < e then
    ((s.onPow fun w => w.modDom d fun x => ({ x with suspect := true, clearRun := 0 } : Domain).endRun).log 0x242 none none
      (leBytes 1 d ++ leBytes 4 e ++ leBytes 4 m)).needsService 3
  else if diverges m e then
    let s := s.onPow fun w => w.modDom d fun x => x.extend m e
    if (s.pow.getDom d).runLen = 3 then s.divergence d else s
  else s.onPow fun w => w.modDom d Domain.endRun

/-- R428 and R431: the top step, the part hold, and the interval's count. -/
def Domain.holdTo (x : Domain) (d budget : Nat) (m e : Nat) (suspect enforcing : Bool) : Domain :=
  let p := if suspect then e else max m e
  let top := if budget < p then max 4 (x.top - 1) else if 16 * p < 15 * budget then min 16 (x.top + 1) else x.top
  let step := if enforcing then x.step else min x.step top
  let high : Bool := d < 8 && x.step = 4 && budget < p
  let run := if high then min 3 (x.overRun + 1) else 0
  { x with
    top := top, step := step, overRun := run
    partHold := if p < budget then false else x.partHold || run = 3
    heldInt := if top < 16 then min (2 ^ 32 - 1) (x.heldInt + 1) else x.heldInt }

/-- The end of a hold whose intervals have passed (R429), and one interval of a hold. -/
def Domain.endHold (x : Domain) : Domain := match x.hold with | some (0, _) => { x with hold := none } | _ => x
def Domain.tickHold (x : Domain) : Domain := match x.hold with | some (n, b) => { x with hold := some (n - 1, b) } | none => x

/-- A cause of R432: a thermal throttle, a lowered ceiling, its enforcement, or a divergence hold. -/
def Pow.shortCause (w : Pow) (x : Domain) : Bool := x.thermal || x.hold.isSome || w.ceilingNow < w.capW || w.spStatus.getLsbD 2

/-- Whether a domain is held, since a cause of R432, below the top step that the layout cap's budget would allow at a power of p. -/
def Pow.markShort (w : Pow) (d p : Nat) : Pow :=
  let x := w.getDom d
  let back : Bool := !w.shortCause x && 15 * normalBudget d w.capW ≤ 16 * p
  w.modDom d fun x => { x with short := (w.shortCause x || x.short) && (x.top < 16 || w.spStatus.getLsbD 2) && !back }

/-- Power sensors of a domain (Table 20.4). -/
def State.powerSensors (s : State) (d m e : Nat) : State :=
  ((s.sensor (0x5000 + d) (some m)).sensor (0x5100 + d) (some e)).sensor (0x5200 + d) (some (s.pow.budget d))

/-- One slow interval of a domain. The cap and the ceiling take effect; a hold that begins in this interval lasts for the 16 that follow. -/
def State.slowLoop (s : State) (d measured estimate : Nat) (dieQ memQ : Option Int) : State :=
  let s := s.onPow fun w => { w with effW := min w.capW w.ceilingNow }.modDom d Domain.endHold
  let s := s.slowTemps d dieQ memQ
  let was := s.pow.getDom d
  let e := was.scaled estimate
  let s := s.onPow fun w => w.modDom d fun x => { x with meas := measured, est := e }
  let s := s.compare d measured e
  let began : Bool := (s.pow.getDom d).diverge ≠ was.diverge || (s.pow.getDom d).hold ≠ was.hold
  let suspect : Bool := was.suspect || (s.pow.getDom d).suspect
  let s := if d = 14 then s else
    s.onPow fun w => w.modDom d fun x => x.holdTo d (w.budget d) measured e suspect (w.spStatus.getLsbD 2)
  let s := if began then s else s.onPow fun w => w.modDom d Domain.tickHold
  let s := s.onPow fun w => w.markShort d (if suspect then e else max measured e)
  s.powerSensors d measured e

/-! ### Stops (R437, R438, R482). -/

/-- Sets bits of SP_STATUS. -/
def Pow.setSp (w : Pow) (l : List Nat) : Pow := { w with spStatus := l.foldl (fun x n => x ||| BitVec.ofNat 9 (2 ^ n)) w.spStatus }

/-- Readings by temperature, the hottest first. -/
def byHeat (l : List (Nat × Int)) : List (Nat × Int) :=
  l.foldl (fun acc x => (acc.takeWhile fun y => x.2 ≤ y.2) ++ x :: (acc.dropWhile fun y => x.2 ≤ y.2)) []

/-- The last readings of the hottest 8 sensors: sensor ID and reading. -/
def Mgmt.hottest (m : Mgmt) : Bytes :=
  let temps := m.sensors.filterMap fun x => match x.2 with | some v => if 0x1000 ≤ x.1 ∧ x.1 < 0x4000 then some (x.1, v) else none | none => none
  ((byHeat temps).take 8).flatMap fun x => leBytes 2 x.1 ++ reading2 x.2

/-- Every fast clock stops and power removal is requested (Table 18.10, R482): the device stays stopped, which is L4. -/
def State.safetyStop (s : State) (cause source reading : Nat) (spBits : List Nat) (thermal : Bool) : State :=
  let s := s.onPow fun w =>
    ({ w with clocksOff := true, stage := .stopped, tripCause := cause, tripSource := source % 2 ^ 8, tripReading := reading % 2 ^ 16,
              thermtrip := w.thermtrip || thermal, alert := w.alert || !thermal } : Pow).setSp (8 :: spBits)
  let s := s.onMgmt fun m => { m with events := m.events + 1 }
  s.withStatus State.callL4

/-- Whether main power runs the device's fast clocks. -/
def Pow.runs (w : Pow) : Bool := w.pwrgd && !w.clocksOff

/-- The thresholds of the trip comparators: 115 degC and 105 degC. -/
def tripAt (c : TripCause) : Nat := match c with | .junction => 460 | .hbm => 420

def State.hardwareTrip (s : State) (c : TripCause) (source reading : Nat) : State :=
  if s.pow.runs ∧ tripAt c ≤ reading then
    let s := s.safetyStop (match c with | .junction => 1 | .hbm => 2) source reading [1] true
    s.log 0x250 none none (leBytes 8 (s.pow.spReg 0x28) ++ s.mgmt.hottest)
  else s

/-- The last reading of the busbar (Table 20.16). -/
def Pow.input (w : Pow) (n : Nat) : Pow := { w with inputW := n % 2 ^ 16, peakW := max w.peakW (n % 2 ^ 16) }

/-- Log data of an enforcement. -/
def enforceData (n c begins : Nat) : Bytes := leBytes 2 n ++ leBytes 2 c ++ leBytes 1 begins

/-- Enforcement, after 2,000 kettle cycles above 105 % of the ceiling: terraces and CPU groups at 4/16, BULK traffic of the headgates at
1/16. -/
def State.enforce (s : State) (n : Nat) : State :=
  let s := s.onPow fun w => w.input n
  if !s.pow.runs ∨ s.pow.spStatus.getLsbD 2 ∨ 100 * n ≤ 105 * s.pow.ceilingNow ∨ s.pow.overRun < 2000 then s
  else
    let s := s.onPow fun w =>
      (List.range 14).foldl (fun w d => w.modDom d fun x => { x with step := if d < 10 then 4 else 1 })
        (({ w with enforcements := min (2 ^ 16 - 1) (w.enforcements + 1), enfRun := 0 } : Pow).setSp [2])
    s.log 0x246 none none (enforceData n s.pow.ceilingNow 1)

/-- Release, after 2,000 kettle cycles at or below the ceiling. -/
def State.release (s : State) (n : Nat) : State :=
  let s := s.onPow fun w => w.input n
  if !s.pow.spStatus.getLsbD 2 ∨ s.pow.ceilingNow < n ∨ s.pow.underRun < 2000 then s
  else
    (s.onPow fun w => { w with spStatus := w.spStatus &&& ~~~4#9, enfRun := 0 }).log 0x246 none none (enforceData n s.pow.ceilingNow 0)

def State.ceilingStop (s : State) (n : Nat) : State :=
  let s := s.onPow fun w => w.input n
  if s.pow.runs ∧ s.pow.spStatus.getLsbD 2 ∧ 105 * s.pow.ceilingNow < 100 * n ∧ 20000 ≤ s.pow.enfRun then
    let s := s.safetyStop 3 0 n [3] false
    s.log 0x250 none none (leBytes 8 (s.pow.spReg 0x28) ++ s.mgmt.hottest)
  else s

/-- A write of the ceiling through the tray path (R481). -/
def Pow.trayWrite (w : Pow) (v : Nat) : Pow := if v < w.ceiling then { w with ceiling := max v w.fuseFloor } else w

/-- A supervisor fault (R482), 0 voltage and 1 clock. -/
def State.supervisor (s : State) (f : SupFault) (source reading : Nat) : State :=
  if s.pow.runs ∨ s.pow.stage = .waiting then
    let s := s.safetyStop (match f with | .voltage => 4 | .clock => 5) source reading [match f with | .voltage => 4 | .clock => 5] false
    s.log 0x251 none none (leBytes 1 source ++ leBytes 2 reading)
  else s

/-- The reference goes: the kettle takes its internal oscillator, and with the fast PLLs running it is a clock supervisor fault (R416,
Table 21.8) whose PLL and reading are free values (log 5). -/
def State.refclkLost (s : State) : State :=
  if !s.pow.refclk then s
  else
    let s := (s.onPow fun w => ({ w with refclk := false } : Pow).setSp [6]).log 0x240 none none []
    if s.pow.runs then
      let n := s.dev.free
      (s.took 2).supervisor .clock (Config.freeWord n).toNat (Config.freeWord (n + 1)).toNat
    else s

/-! ### The coolant (R435), 0.25 degC and 0.1 L/min. -/

/-- The service reason ends after 2^23 kettle cycles within rating. -/
def State.coolantEnd (s : State) : State :=
  match s.mgmt.coolRun with
  | some t => if s.mgmt.service.getLsbD 4 ∧ t + 2 ^ 23 ≤ s.kettle then s.serviced 4 else s
  | none => s

def State.coolant (s : State) (inletQ : Int) (flow : Nat) : State :=
  let s := (s.sensor 0x6000 (some inletQ)).sensor 0x6100 (some flow)
  if 160 < inletQ ∨ flow < 80 then
    let fresh : Bool := !s.mgmt.service.getLsbD 4
    let s := s.onMgmt fun m => { m with coolRun := none }
    let s := if fresh ∧ 160 < inletQ then s.log 0x245 none none (leBytes 2 0x6000 ++ reading2 inletQ) else s
    let s := if fresh ∧ flow < 80 then s.log 0x245 none none (leBytes 2 0x6100 ++ leBytes 2 flow) else s
    s.needsService 4
  else (s.onMgmt fun m => { m with coolRun := some (m.coolRun.getD s.kettle) }).coolantEnd

/-! ### Meanings. -/

/-- ENGINE_CLOCK_GATE (R418). -/
def execEngineClockGate (e : EngId) (s : State) : Out := .next (s.onDev fun d => d.clockGate (eIdx e))

/-- ENGINE_POWER_GATE (R418, R314). -/
def execEnginePowerGate (e : EngId) (s : State) : Out := .next (s.onDev fun d => d.powerGate (eIdx e))

/-- ENGINE_WAKE (R417, R419). -/
def execEngineWake (e : EngId) (s : State) : Out := .next (s.engineWake (eIdx e))

/-- TERRACE_PLL_OFF (R418). -/
def execTerracePllOff (t : Fin 8) (s : State) : Out := .next (s.pllOff t.val)

/-- TERRACE_PLL_WAKE (R418). -/
def execTerracePllWake (t : Fin 8) (s : State) : Out := .next (s.onDev fun d => d.pllWake t.val)

/-- DORMANT_ENTRY (R420, R421). -/
def execDormantEntry (s : State) : Out := .next s.dormantEntry

/-- DORMANT_WAKE (R422). -/
def execDormantWake (cause : WakeCause) (s : State) : Out := .next (if s.wakes cause then s.awake else s)

/-- Whether the fast loop's window of a domain has ended: 512 array cycles of a terrace, 2^12 fabric cycles of the others (R427). -/
def State.windowEnded (s : State) (d : Nat) : Bool :=
  if d < 8 then 512 ≤ (s.dev.getTerr d).window else (s.pow.getDom d).fastAt + 2 ^ 12 ≤ s.time.fabric

/-- The next window of a domain begins. -/
def State.nextWindow (s : State) (d : Nat) : State :=
  if d < 8 then s.onDev fun v => v.modTerr d fun x => { x with window := x.window - 512 }
  else s.onPow fun w => w.modDom d fun x => { x with fastAt := x.fastAt + 2 ^ 12 }

/-- FAST_LOOP (R427). -/
def execFastLoop (d : Fin 14) (estimate : Nat) (s : State) : Out :=
  .next (if s.windowEnded d.val then (s.nextWindow d.val).onPow fun w => w.fastLoop d.val estimate else s)

/-- DROOP (R427). -/
def execDroop (t : Fin 8) (s : State) : Out :=
  .next ((s.onDev fun d => d.modTerr t.val fun x => { x with droop := 64 }).onPow fun w => w.modDom t.val fun x =>
    { x with droops := min (2 ^ 16 - 1) (x.droops + 1) })

/-- SLOW_LOOP (R428 to R431, R434 to R436): at the end of each slow interval, 200 kettle cycles. -/
def execSlowLoop (d : Fin 15) (measured estimate : Nat) (dieQ memQ : Option Int) (s : State) : Out :=
  .next (if (s.pow.getDom d.val).slowAt + 200 ≤ s.kettle then
      (s.onPow fun w => w.modDom d.val fun x => { x with slowAt := x.slowAt + 200 }).slowLoop d.val measured estimate dieQ memQ
    else s)

/-- DIVERGENCE_HOLD_END (R429). -/
def execDivergenceHoldEnd (d : Fin 15) (s : State) : Out := .next (s.onPow fun w => w.modDom d.val Domain.endHold)

/-- HARDWARE_TRIP (R437). -/
def execHardwareTrip (cause : TripCause) (source reading : Nat) (s : State) : Out := .next (s.hardwareTrip cause source reading)

/-- CEILING_ENFORCEMENT (R438 item 1). -/
def execCeilingEnforcement (inputW : Nat) (s : State) : Out := .next (s.enforce inputW)

/-- CEILING_RELEASE (R438 item 2). -/
def execCeilingRelease (inputW : Nat) (s : State) : Out := .next (s.release inputW)

/-- CEILING_STOP (R438 item 3). -/
def execCeilingStop (inputW : Nat) (s : State) : Out := .next (s.ceilingStop inputW)

/-- TRAY_CEILING_WRITE (R481). -/
def execTrayCeilingWrite (v : BitVec 16) (s : State) : Out := .next (s.onPow fun w => w.trayWrite v.toNat)

/-- TRAY_CAP_LOWER (R424). -/
def execTrayCapLower (level : Bool) (s : State) : Out := .next (s.onPow fun w => { w with capLower := level })

/-- REFCLK_LOST (R416). -/
def execRefclkLost (s : State) : Out := .next s.refclkLost

/-- SUPERVISOR_FAULT (R482). -/
def execSupervisorFault (f : SupFault) (source reading : Nat) (s : State) : Out := .next (s.supervisor f source reading)

/-- COOLANT_REPORT (R435). -/
def execCoolantReport (inletQ : Int) (flowTenths : Nat) (s : State) : Out := .next (s.coolant inletQ flowTenths)

/-- HART_TIMER_INTERRUPT (R330, R422): the time CSR has reached the hart's stimecmp (Sstc). The buffered stores are performed before the
handler's first instruction (Table 9.3). -/
def execHartTimerInterrupt (c : Fin 96) (s : State) : Out :=
  .next (
    let x := s.dev.getCore c.val
    if s.timeCsr (c.val / 48) < x.csrs.stimecmp.toNat then s
    else
    let s := if x.hart = .suspended then s.awake else s
    let s := if x.hart = .running then s.drain c.val else s
    s.onDev fun d => d.modCore c.val fun x =>
      { x with timer := true, wrs := false, hart := if x.hart = .suspended then .running else x.hart })

/-- USAGE_HALVING (R368): every 2^24 fabric cycles. -/
def execUsageHalving (s : State) : Out :=
  .next (if s.dev.halvedAt + 2 ^ 24 ≤ s.time.fabric then
      s.onDev fun d => { d with halvedAt := d.halvedAt + 2 ^ 24, ctxs := d.ctxs.map fun c => (c.1, { c.2 with usage := c.2.usage / 2 }) }
    else s)

end Sys2Proof.Machine
end

