-- ==== Sys2Proof/Machine/Rollback.lean ====
section
/-!
DEFINITION. Rollback of a context to its last step commit, the replay of its journal, and a rollback that cannot be made (R177, R227,
R229, R230, R271, R275, R387, R396, R448 to R451, R463).
-/

namespace Sys2Proof.Machine

/-- The number of a rollback's cause (Table 16.8). -/
def rbCode (c : RbCause) : Nat := match c with | .poison => 0 | .engineLost => 1 | .partitionReset => 2 | .deviceReset => 3

/-! ### Step 1: everything of the context stops. -/

/-- A descriptor under abort is settled as aborted, with its record and replies (DEDUCED, log 33). -/
def State.settleAborts (s : State) (n : Nat) (c : Ctx) : State :=
  (c.cmds.filter fun x => x.state = .aborting).foldl (fun s x =>
    x.abortTo.foldl (fun s r => s.reply r stAborted []) (s.onDev fun d => d.endCmd n x.seq .aborted [])) s

/-- Live parts are abandoned, and every part of the context is forgotten. -/
def State.stopWork (s : State) (n : Nat) : State :=
  let s := (s.dev.livePartsOf n).foldl (fun s u => (s.abandon u).stopPart u .aborted) s
  s.onDev fun d => { d with parts := d.parts.filter fun p => p.2.ctx ≠ n }

/-! ### Step 2: the image. -/

/-- Scratch that the step may have written is undefined (R229): the output planes of its dispatched commands, and what kernels, mover and
atomics wrote; shadow granules go with their shadows. -/
def State.freeScratch (s : State) (n : Nat) (c : Ctx) : State :=
  let s := (c.cmds.filter fun x => !x.state.waiting).foldl (fun s x => (outExtents x.desc).foldl (fun s e => s.freeExtent n e) s) s
  (s.freeWrote (c.dirtied.filter fun k => k.1 % 2 = 0)).onDev fun d => d.modCtx n fun c => { c with dirtied := [] }

/-- The window table after the context's entries are replaced by those of its image; none where another context has taken a window
(R275). -/
def bindAll (windows : List (Nat × Window)) (p : Nat) (es : List RangeEntry) : Option (List (Nat × Window)) :=
  match es with
  | [] => some windows
  | e :: t => if e.kind = 1 ∧ !windowTakes windows p e then none else bindAll (bindWindow windows p e) p t

/-- The range table of the image in place of the present one. -/
def Dev.restoreRanges (d : Dev) (n : Nat) (c : Ctx) : Option Dev :=
  let d1 := c.ranges.foldl (fun d r => d.unref r.entry) d
  (bindAll d1.windows c.pt c.image.ranges).map fun w =>
    (({ d1 with windows := w } : Dev).modCtx n fun c => { c with ranges := c.image.ranges.map fun e => ({ entry := e } : RangeRow) }).dropCached n

/-- The gates of the image; gates taken since are held back from the pool (R387). -/
def Dev.restoreGates (d : Dev) (n : Nat) (c : Ctx) : Dev :=
  let mine := (d.gates.filter fun g => g.2.owner = n).map fun g => g.1
  let back := (c.heldGates ++ mine ++ c.freed.map fun f => f.1).filter fun g => (Map.find c.image.gates g).isNone
  let put (m : List (Nat × Gate)) (g : Nat × Word) : List (Nat × Gate) := Map.put m g.1 { value := g.2, owner := n }
  let rest := d.gates.filter fun g => g.2.owner ≠ n
  let d : Dev := { d with gates := c.image.gates.foldl put rest }
  d.modCtx n fun c => { c with heldGates := back.foldl addOnce [], freed := [] }

/-- Counters that keep counting through a rollback (R396): GUARANTEE_SHORTFALL, the stall counters, ABSORBED and ROLLBACKS, with the
shortfall causes of FLAGS (log 33). -/
def Stats.rolled (x : Stats) : Stats :=
  { x with live := x.live.filterMap fun k =>
      if 0x13 ≤ k.1 ∧ k.1 ≤ 0x1D then some k
      else if k.1 = 0x1E ∧ k.2 &&& 0xF00 ≠ 0 then some (k.1, k.2 &&& 0xF00)
      else none }

/-- What is discarded whether or not the rollback can be made: shadows, pending images and step ownership, plan pins, the retained
copies, the waits of its descriptors. The fault entries close in a rollback of the partition; where the context alone rolls back, they lose their
waiters and stay open (R271, log 33). -/
def State.discardStep (s : State) (n : Nat) (c : Ctx) (cause : RbCause) : State :=
  let s := s.freeScratch n c
  let s := s.onDev fun d => ((d.disown c.pt n).dropRetained n).modCtx n fun c => { c with planPins := [], rollDue := none, freeLater := [] }
  match cause with
  | .partitionReset => s.closeFaults c.pt n
  | .deviceReset => s.closeFaults c.pt n
  | _ => (s.onDev fun d => d.modPt c.pt fun q => q.unwait n).refill c.pt

/-! ### Step 3: the replay. -/

/-- The descriptor's command as the replay queues it. -/
def Cmd.again' (x : Cmd) (j : Judged) (fresh : Cmd) : Cmd :=
  { seq := x.seq, desc := x.desc, step := x.step, segs := j.trans.segs, plan := j.plan, homes := j.homes, parked := fresh.parked
    objGen := fresh.objGen, snapRanges := fresh.snapRanges, snapGates := fresh.snapGates
    again := x.again || x.state.ended, prior := if x.again then x.prior else if x.state.ended then some x.state else none }

/-- Whether a descriptor's planes read a range by their recorded entries: one of its segments is the range (R230). A command that reads it by
addresses of its own is known by its number, where it met the loss. -/
def readsRange (segs : List RangeEntry) (r : Nat × Nat) : Bool := segs.any fun e => meets e.va e.granules r.1 r.2

/-- The split of a descriptor that is queued again: as many parts as before, on the same engines first. -/
def Cmd.split (x : Cmd) : Split := { parts := max 1 x.plan.length, engs := x.plan.map fun p => p.2 }

/-- Queues a journalled descriptor again: none where it is refused and was not recorded as failed (R177). -/
def State.requeue (s : State) (n seq : Nat) : Option State :=
  match s.dev.getCtx n with
  | none => some s
  | some c =>
    match c.getCmd seq with
    | none => some s
    | some x =>
      if x.state = .aborted then some s
      else
        match s.judge n c x.desc x.split none with
        | .error st =>
          let was := if x.again then x.prior.getD x.state else x.state
          match was with
          | .failed _ =>
            some (s.onDev fun d => (d.modCmd n seq fun x => { x with again := true, prior := some was, state := .running }).endCmd
              n seq (.failed st) [])
          | _ => none
        | .ok j =>
          let y := x.again' j (s.newCmd n c x.desc j seq)
          let s := s.onDev fun d => d.modCmd n seq fun _ => y
          match j.trans.gap with
          | some g => some (s.queueFault c.pt n seq g.1 g.2 0)
          | none =>
            match c.inflowLost.find? fun r => readsRange y.segs (r.1, r.2.1) || r.2.2 = seq with
            | none => some s
            | some r =>
              some ((s.onDev fun d => (d.modCmd n seq fun x => { x with parked := some r.1 }).modCtx n fun c =>
                { c with inflowLost := c.inflowLost.filter fun q => q ≠ r }).queueFault c.pt n seq (r.1 * granule) 0 1)

/-- The number of the descriptor that follows in a journal. -/
def nextDesc (l : List JEntry) (dflt : Nat) : Nat :=
  (l.findSome? fun e => match e.kind with | .desc q => some q | _ => none).getD dflt

/-- Applies the journal in order (R177, R275); none where an entry fails. `owed` are the replies of removals not yet answered. -/
def State.replay (s : State) (n : Nat) (l : List JEntry) (owed : List (Nat × ReplyTo)) : Option State :=
  match l with
  | [] => some s
  | e :: t =>
    match s.dev.getCtx n with
    | none => some s
    | some c =>
      let r : Option State := match e.kind with
        | .desc q => s.requeue n q
        | .rmap es => (match s.mapEntries n c es with | .ok s => some s | .error _ => none)
        | .runmap va =>
          let last : Bool := !t.any fun e => e.kind = .runmap va
          let back := if last then (owed.find? fun o => o.1 = va).map fun o => o.2 else none
          some (s.onDev fun d => d.modCtx n fun c => { c with ranges := c.ranges.map fun r =>
            if r.entry.va = va ∧ r.unmap.isNone then { r with unmap := some (back, nextDesc t c.nextSeq) } else r })
        | .galloc first k v =>
          some (s.onDev fun d => (d.giveGates n first k v).modCtx n fun c =>
            { c with heldGates := c.heldGates.filter fun g => !(first ≤ g && g < first + k) })
        | .gfree first k =>
          some (s.onDev fun d => (d.modCtx n fun c => { c with freeLater := c.freeLater ++ [(first, k, e.step, nextDesc t c.nextSeq)] }).freeDue n)
      match r with
      | none => none
      | some s => s.replay n t owed

/-- Replies of removals that were waiting. -/
def Ctx.owed (c : Ctx) : List (Nat × ReplyTo) :=
  c.ranges.filterMap fun r => match r.unmap with | some (some b, _) => some (r.entry.va, b) | _ => none

/-- Removals whose entry the image does not hold are answered: their users have ended. -/
def State.answerOwed (s : State) (n : Nat) (owed : List (Nat × ReplyTo)) : State :=
  let waiting := match s.dev.getCtx n with | some c => c.owed.map fun o => o.1 | none => []
  let left := match s.dev.getCtx n with | some c => c.ranges.length | none => 0
  (owed.filter fun o => !has waiting o.1).foldl (fun s o => s.reply o.2 0 (leBytes 2 left)) s

/-! ### Steps 4 and 5. -/

/-- ROLLED_BACK: cause, entries replayed, first command replayed. -/
def State.rolledBack (s : State) (n : Nat) (cause : RbCause) (entries first : Nat) : State :=
  (s.event n 3 (rbCode cause) 0 (leBytes 4 entries ++ leBytes 4 first)).onDev fun d => d.countCtx n 0x1D 1

/-- A context that is rolled back is served by the new version of a live update (R477). -/
def State.nowServed (s : State) (n : Nat) : State :=
  (s.onDev fun d => d.modCtx n fun c => { c with served := s.mgmt.fwVersion.toNat }).fwDone

/-! ### A rollback that cannot be made (R451). -/

/-- A command of the failed rollback: one that is replayed counts as its record said; another one fails with STEP_LOST. -/
def Dev.stepLost (d : Dev) (n : Nat) (x : Cmd) : Dev :=
  if x.state.ended then d
  else if x.again then d.modCmd n x.seq fun x => { x with state := x.prior.getD .completed, parked := none, parts := [] }
  else d.endCmd n x.seq (.failed stStepLost) []

def State.notMade (s : State) (n : Nat) (c : Ctx) (cause : RbCause) : State :=
  let s := s.onDev fun d => (c.cmds.foldl (fun d x => d.stepLost n x) d).freeDue n
  let s := s.discardStep n c cause
  let s := s.onDev fun d => d.modCtx n fun c => { c with journal := [], noImage := true, inflowLost := [] }
  (s.rolledBack n cause 0 0).nowServed n

/-- The first step that has lost an entry: it cannot be rolled back, whatever stands before it (R176). -/
def Ctx.lostFrom (c : Ctx) : Option Nat :=
  match c.overflow with
  | [] => none
  | o :: t => some (t.foldl min o)

/-- Whether the step that a rollback goes back over has lost an entry: each step is judged on its own, so that one whose STEP_MARK still waits
can be rolled back where only a later step overflowed (R176). -/
def Ctx.stepLostEntry (c : Ctx) : Bool :=
  match c.lostFrom with
  | none => false
  | some o => !c.cmds.any fun x => x.op = 0x30 && !x.state.ended && x.step < o

/-- What a rollback replays of the journal: of a step that overflowed no descriptor, only the changes of ranges and gates that are recorded
(log 57). -/
def Ctx.replayed' (c : Ctx) : List JEntry :=
  match c.lostFrom with
  | none => c.journal
  | some o => c.journal.filter fun j => j.step < o || match j.kind with | .desc _ => false | _ => true

/-- A rollback (R449); `imageOk` says that the context image passes its check. -/
def State.rollback (s : State) (n : Nat) (cause : RbCause) (imageOk : Bool) : State :=
  match s.dev.getCtx n with
  | none => s
  | some c0 =>
    if c0.teardown.isSome then s
    else
      let s := (s.stopWork n).settleAborts n c0
      match s.dev.getCtx n with
      | none => s
      | some c =>
        if !imageOk ∨ c.noImage ∨ c.stepLostEntry then s.notMade n c cause
        else
          let s1 := s.discardStep n c cause
          match s1.dev.restoreRanges n c with
          | none => s.notMade n c cause
          | some d =>
            let s2 : State := { s1 with dev := (d.restoreGates n c).modCtx n fun c =>
              { c with pins := c.image.pins, stats := c.stats.rolled } }
            match s2.replay n c.replayed' c.owed with
            | none => s.notMade n c cause
            | some s3 =>
              let s3 := match c.lostFrom with
                | none => s3
                | some o => s3.onDev fun d => (c.cmds.filter fun (x : Cmd) => o ≤ x.step).foldl (fun d x => d.stepLost n x) d
              ((s3.answerOwed n c.owed).rolledBack n cause c.replayed'.length (nextDesc c.replayed' 0)).nowServed n

/-! ### Meanings. -/

/-- CONTEXT_ROLLBACK (R286, R449): a rollback that a poisoned read has called for. -/
def execContextRollback (n : Fin 4096) (cause : RbCause) (imageOk : Bool) (s : State) : Out :=
  .next (match s.dev.getCtx n.val with
    | some c =>
      match c.rollDue with
      | some d => if d = cause ∧ s.dev.ready ∧ (s.dev.getPt c.pt).alarm.isNone then s.rollback n.val d imageOk else s
      | none => s
    | none => s)

end Sys2Proof.Machine
end

