-- ==== Sys2Proof/Machine/Recovery.lean ====
section
/-!
DEFINITION. The ladder of recovery: replay of a part, engine reset with spares and fencing, partition rollback and reset, device
reset, tray power cycle, crash dumps and Jormon cores (R441 to R447, R452 to R462, R472).
-/

namespace Sys2Proof.Machine

/-! ### Crash dumps (R462, R472). -/

/-- Fields of a dump's summary: level, cause, partition or 0xFF, the trigger's terrace and engine, the slot in each terrace. -/
structure DumpInfo where
  level : Nat
  cause : Nat
  part  : Nat
  trig  : Nat
  slots : List Nat
deriving DecidableEq, Repr

/-- A list of numbers in rising order. -/
def rising (l : List Nat) : List Nat := l.foldl (fun acc x => (acc.takeWhile fun y => y ≤ x) ++ x :: (acc.dropWhile fun y => y ≤ x)) []

/-- The sections of a dump of a level in the slot of a terrace, by ascending kind and unit (Tables 19.5, 20.8a): the engines by physical
number, the terrace's arbiters; in the slot of the lowest terrace of each partition its contexts, gates, faults and objects; at L3 in the slots
of terraces 0, 2, 4 and 6 the headgates. -/
def State.dumpSections (s : State) (i : DumpInfo) (t : Nat) : List (Nat × Nat) :=
  let phys (e : Nat) : Nat := Map.get (s.dev.getTerr t).serves e e
  let es := if i.level = 1 then [8 * t + phys (i.trig % 8)] else rising (((List.range 5).map fun e => 8 * t + phys e).eraseDups)
  let lowest : List Nat := if i.level = 1 then [] else (List.range 8).filter fun p => (s.mgmt.terraces p).head? = some t
  let ctxs := rising (lowest.flatMap fun p => (s.dev.ctxsOf p).map fun c => c.1)
  let heads : List Nat := if i.level = 3 ∧ t % 2 = 0 then [t / 2] else []
  let of (k : Nat) (us : List Nat) : List (Nat × Nat) := us.map fun u => (k, u)
  ((List.range 7).flatMap fun k => of (k + 1) es) ++ of 8 [t] ++ of 9 ctxs ++ of 10 lowest ++ of 11 lowest ++ of 12 lowest
    ++ of 13 heads ++ of 14 heads

/-- Bytes of a section, which the manual does not give (log 34); its header's length field has four bytes. -/
def sectionLen (seq t : Nat) (x : Nat × Nat) : Nat := Config.sectionLength seq t x.1 x.2 % 2 ^ 24

/-- Bytes written in a dump's slot: the summary and its sections, up to the slot; a dump that is cut short ends at a free place. -/
def dumpBytes (seq t : Nat) (secs : List (Nat × Nat)) (truncated : Bool) : Nat :=
  let n := min (2 ^ 24) (4096 + (secs.map fun x => 8 + sectionLen seq t x).sum)
  if truncated then max 4096 (min n (Config.sectionLength seq t 0 0)) else n

/-- The summary (Table 20.8). The trigger's engine state in brief is free bytes: the manual gives no format (log 34). -/
def State.summary (s : State) (i : DumpInfo) (seq t : Nat) (truncated : Bool) : Bytes :=
  leBytes 4 0x4B514450 ++ leBytes 4 seq ++ leBytes 8 s.mgmt.logSeq ++ leBytes 1 i.level ++ leBytes 1 i.cause ++ leBytes 1 i.part
    ++ leBytes 1 i.trig ++ leBytes 4 (if truncated then 1 else 0) ++ i.slots.flatMap (fun k => leBytes 1 k) ++ leBytes 24 0
    ++ leBytes 8 s.mgmt.fwVersion.toNat ++ leBytes 8 (s.mgmt.inForce 2).1.toNat ++ leBytes 8 (s.mgmt.inForce 3).1.toNat
    ++ leBytes 8 (dumpBytes seq t (s.dumpSections i t) truncated) ++ leBytes 40 0
    ++ (List.range 3968).map fun k => Config.sectionByte seq 0xFF 0 0 k

/-- The dump sequence of a summary. -/
def summarySeq (b : Bytes) : Nat := field b 4 4

/-- The flash slot that a summary goes to: an empty one, else the older. -/
def Mgmt.olderSummary (m : Mgmt) : Nat :=
  match Map.find m.summ 0, Map.find m.summ 1 with
  | none, _ => 0
  | _, none => 1
  | some a, some b => if summarySeq a ≤ summarySeq b then 0 else 1

/-- Writes a dump in terraces, its summary in flash, and the recovery record. -/
def State.dump (s : State) (ts : List Nat) (level cause part trig scope : Nat) : State :=
  let seq := s.mgmt.dumpSeq + 1
  let i : DumpInfo := { level := level, cause := cause, part := part, trig := trig,
                        slots := (List.range 8).map fun t => if has ts t then (s.dev.getTerr t).dumpPos else 0xFF }
  let one (d : Dev) (t : Nat) : Dev := d.modTerr t fun x => { x with
    dumps := Map.put x.dumps x.dumpPos { level := level, seq := seq, truncated := x.dumpCut, summary := s.summary i seq t x.dumpCut, sections := s.dumpSections i t }
    dumpPos := (x.dumpPos + 1) % 32, dumpCut := false }
  let first := ts.headD 0
  let brief := s.summary i seq first (s.dev.getTerr first).dumpCut
  let s := s.onDev fun d => ts.foldl one d
  let s := s.onMgmt fun m => { m with dumpSeq := seq % 2 ^ 32, summ := if m.running then Map.put m.summ m.olderSummary brief else m.summ }
  s.log 0x233 none none (leBytes 1 level ++ leBytes 1 scope ++ leBytes 1 cause ++ leBytes 4 seq)

/-- When the recovery that concerns a terrace began. -/
def State.recoveryOf (s : State) (t : Nat) : Option Nat :=
  match s.mgmt.l3Since with
  | some k => some k
  | none =>
    match (s.mgmt.ptOf t).bind fun p => (s.dev.getPt p).alarm with
    | some a => some a.1
    | none => (List.range 5).findSome? fun e => (s.dev.getEng (5 * t + e)).isolated

/-! ### Physical units and spares (R10, R446, R447, R461). Records number an engine 8 * terrace + number, a cluster
32 * engine + number (log 32). -/

/-- The physical engine that a logical number has been given, failed or not. -/
def Terrace.given (t : Terrace) (e : Nat) : Nat := Map.get t.serves e e

/-- Logical engines of a terrace that one physical engine serves, by index. -/
def Dev.served (d : Dev) (t p : Nat) : List Nat :=
  ((List.range 5).filter fun k => (d.getTerr t).given k = p).map fun k => 5 * t + k

/-- The first surviving engine after a logical number (R447). -/
def Terrace.survivor (t : Terrace) (e : Nat) : Option Nat :=
  (List.range 4).findSome? fun i => t.phys ((e + i + 1) % 5)

/-- Counts in the partition that holds a terrace. -/
def State.countTerr (s : State) (t k : Nat) : State :=
  match s.mgmt.ptOf t with
  | some p => s.onDev fun d => d.countPt p k 1
  | none => s

/-- A swap is recorded and logged. -/
def State.swapped (s : State) (kind logical out into : Nat) : State :=
  (s.onMgmt fun m => { m with swaps := m.swaps ++ [(kind, logical, out, into)] }).log 0x230 none none
    (leBytes 1 kind ++ leBytes 2 logical ++ leBytes 2 out ++ leBytes 2 into)

/-- A unit is fenced. -/
def State.unitFenced (s : State) (kind phys : Nat) : State :=
  (s.onMgmt fun m => { m with fencedUnits := m.fencedUnits ++ [(kind, phys)] }).log 0x231 none none (leBytes 1 kind ++ leBytes 2 phys)

/-- A failed engine is fenced; the spare takes its number, or the survivors take its numbers. The flag says that a spare came in. -/
def State.replaceEngine (s : State) (e : Nat) : State × Bool :=
  let t := e / 5
  let x := s.dev.getTerr t
  let p := x.given (e % 5)
  let kind := Config.unitKind 0
  if has x.fenced p then (s, false)
  else
    let s := (s.onDev fun d => d.modTerr t fun x => { x with fenced := addOnce x.fenced p }).unitFenced kind (8 * t + p)
    if x.spareUsed then
      let x := s.dev.getTerr t
      let gone := (List.range 5).filter fun k => x.given k = p
      (s.onDev fun d => d.modTerr t fun y => { y with serves := gone.foldl (fun m k =>
        match x.survivor k with | some q => Map.put m k q | none => Map.put m k p) y.serves }, false)
    else
      let s := s.onDev fun d => (d.modTerr t fun x => { x with serves := Map.put x.serves (e % 5) 5, spareUsed := true }).modEng e fun x =>
        { x with wayOff := [], wayFails := [], checkFails := 0, resets := [], needSpare := false }
      (((s.swapped kind (8 * t + e % 5) (8 * t + p) (8 * t + 5)).countTerr t 5).needsService 0, true)

/-- A failing cluster is replaced by its engine's spare cluster, if that is free. -/
def State.replaceCluster (s : State) (e k : Nat) : State × Bool :=
  let t := e / 5
  let p := (s.dev.getTerr t).given (e % 5)
  if has (s.dev.getTerr t).spareCl p then (s, false)
  else
    let u := 8 * t + p
    let s := s.onDev fun d => d.modTerr t fun x => { x with spareCl := addOnce x.spareCl p }
    let s := (s.swapped (Config.unitKind 1) ((8 * t + e % 5) * 32 + k) (u * 32 + k) (u * 32 + 20)).unitFenced (Config.unitKind 1) (u * 32 + k)
    ((s.countTerr t 5).needsService 0, true)

/-- Failing ways are disabled, at most two of an engine; the flag says that more would be (R107). -/
def State.disableWays (s : State) (e : Nat) (ws : List Nat) : State × Bool :=
  let new := ws.filter fun w => !has (s.dev.getEng e).wayOff w
  if 2 < (s.dev.getEng e).wayOff.length + new.length then (s, true)
  else
    let phys := (s.dev.getTerr (e / 5)).given (e % 5)
    (new.foldl (fun s w => (s.onDev fun d => d.modEng e fun x => { x with wayOff := addOnce x.wayOff w }).log 0x200 none none
      (leBytes 1 (e / 5) ++ leBytes 1 phys ++ leBytes 1 w)) s, false)

/-- What a self-test finds is repaired as far as a spare cluster and disabled ways allow (R444 step 4, R446); the flag says that the engine must
be replaced. -/
def State.selfTested (s : State) (e : Nat) (test : SelfTest) : State × Bool :=
  let c : State × Bool := match test.badCluster with | some k => s.replaceCluster e k.val | none => (s, true)
  let w := c.1.disableWays e (test.badWays.map fun w => w.val)
  (w.1, test.badBeyond || !c.2 || w.2 || (w.1.dev.getEng e).needSpare)

/-! ### Isolation and the steps of Table 19.3. -/

/-- Step 1: the engine takes no dispatch and asserts requester-absent; its executing parts are abandoned. -/
def State.isolate (s : State) (cls e : Nat) : State :=
  let x := s.dev.getEng e
  let s := x.executing.foldl (fun s u => (s.abandon u).onDev fun d => d.modPart u fun p =>
    { p with absorbed := some (1, match p.absorbed with | some (1, c, _) => c | _ => cls, false) }) s
  if x.isolated.isSome then s else s.onDev fun d => d.modEng e fun x => { x with isolated := some s.kettle, absent := true }

/-- Steps 3 and 5: everything outside ledger space is zeroed, retained copies and the range cache go, and the engine runs. -/
def Engine.afresh (x : Engine) (resets : List Nat) : Engine :=
  { queue := x.queue, executing := x.executing, wayFails := x.wayFails, wayOff := x.wayOff, checkFails := x.checkFails,
    resets := resets, power := .running, absent := false }

def State.reinit (s : State) (e : Nat) (resets : List Nat) : State :=
  let s := s.onDev fun d => (List.range 20).foldl (fun d k => d.setCl (20 * e + k) {}) 
    ((d.modEng e fun x => x.afresh resets).modTerr (e / 5) fun x => { x with pllOff := false, allGated := 0 })
  s.onMgmt fun m => { m with loaderOn := addOnce m.loaderOn e }

/-! ### L2 is called for (R452 to R454). -/

/-- The partition alarm: every engine of the partition is isolated; the third L2 within 2^27 kettle cycles calls for L3. -/
def State.raiseAlarm (s : State) (p : Nat) (cause : RbCause) : State :=
  if (s.dev.getPt p).alarm.isSome then s
  else
    let now := s.kettle
    let recent := (s.dev.getPt p).l2s.filter fun t => now < t + 2 ^ 27
    if 2 ≤ recent.length then s.withStatus State.callL3
    else
      let s := s.onDev fun d => d.modPt p fun q => { q with alarm := some (now, cause), l2s := recent ++ [now] }
      (s.mgmt.terraces p).foldl (fun s t => (List.range 5).foldl (fun s e => s.isolate 8 (5 * t + e)) s) s

/-- L2 for the partition that holds a terrace. -/
def State.alarmAt (s : State) (t : Nat) (cause : RbCause) : State :=
  match s.mgmt.ptOf t with
  | some p => s.raiseAlarm p cause
  | none => s

/-! ### L1 (R444 to R446, R460). -/

/-- Whether L1 may act on an engine: Jormon runs, and no higher level does (R441). -/
def State.l1Free (s : State) (e : Nat) : Bool :=
  s.dev.ready && match s.mgmt.ptOf (e / 5) with | some p => (s.dev.getPt p).alarm.isNone | none => false

/-- Marks the abandoned parts: a spare came in. -/
def Dev.sparePart (d : Dev) (us : List Nat) (spare : Bool) : Dev :=
  us.foldl (fun d u => d.modPart u fun p => { p with absorbed := p.absorbed.map fun a => (a.1, a.2.1, a.2.2 || spare) }) d

/-- An engine reset with what its self-test and the check of ledger space find. -/
def State.engineReset (s : State) (e cls : Nat) (test : SelfTest) : State :=
  let t := e / 5
  if !s.l1Free e then s
  else
    let phys := (s.dev.getTerr t).given (e % 5)
    let es := s.dev.served t phys
    let s := es.foldl (fun s k => s.isolate cls k) s
    let us := es.flatMap fun k => (s.dev.getEng k).executing
    let cause := (us.findSome? fun u => (s.dev.getPart u).bind fun p => p.absorbed.map fun a => a.2.1).getD cls
    let s := (s.dump [t] 1 cause ((s.mgmt.ptOf t).getD 0xFF) (8 * t + e % 5) (8 * t + e % 5)).countTerr t 3
    if !test.ledgerOk ∧ us.any fun u => match s.dev.getPart u with | some p => 0 < p.ledger || !p.atoms.isEmpty | none => false then
      s.alarmAt t .partitionReset
    else
      let now := s.kettle
      let resets := (s.dev.getEng e).resets.filter fun k => now < k + 2 ^ 31
      let w := s.selfTested e test
      if w.2 ∨ 2 ≤ resets.length then
        let r := w.1.replaceEngine e
        if r.2 then (r.1.reinit e []).onDev fun d => d.sparePart us true else r.1.alarmAt t .engineLost
      else es.foldl (fun s k => s.reinit k (resets ++ [now])) w.1

/-- An engine reset past its bound: the engine is fenced and failed, and L2 begins. -/
def State.resetLimit (s : State) (e : Nat) : State :=
  match (s.dev.getEng e).isolated with
  | none => s
  | some t => if s.l1Free e ∧ t + 2 ^ 22 ≤ s.kettle then (s.replaceEngine e).1.alarmAt (e / 5) .engineLost else s

/-! ### L2 (R453). -/

/-- Every context of the partition is rolled back, which closes its fault entries. -/
def State.rollAll (s : State) (who : List Nat) (cause : RbCause) (bad : List Nat) : State :=
  who.foldl (fun s n => s.rollback n cause (!has bad n)) s

/-- Steps 3 to 5 of Table 19.3 at L2: an engine is self-tested, and one that fails is replaced. -/
def State.l2Engine (s : State) (e : Nat) (tests : List (EngId × SelfTest)) : State :=
  let test : SelfTest := ((tests.find? fun x => eIdx x.1 = e).map fun x => x.2).getD ⟨none, false, [], true⟩
  if ((s.dev.getTerr (e / 5)).phys (e % 5)).isNone then s
  else
    let w := s.selfTested e test
    if w.2 then (w.1.replaceEngine e).1 else w.1

def State.l2 (s : State) (p : Nat) (cause : RbCause) (bad : List Nat) (tests : List (EngId × SelfTest)) : State :=
  let ts := s.mgmt.terraces p
  let es := ts.flatMap fun t => (List.range 5).map fun k => 5 * t + k
  let s := s.dump ts 2 (rbCode cause) p (8 * ts.headD 0) p
  let s := es.foldl (fun s e => s.l2Engine e tests) s
  let s := s.rollAll ((s.dev.ctxsOf p).map fun c => c.1) cause bad
  let s := es.foldl (fun s e => s.reinit e (s.dev.getEng e).resets) s
  let s := s.onDev fun d => (d.modPt p fun q => { q with alarm := none }).countPt p 4 1
  s.rollbackNotice p

/-- PARTITION_ALARM: the alarm that has been raised, or one that this fault raises. -/
def State.partitionAlarm (s : State) (p : Nat) (cause : RbCause) (bad : List Nat) (tests : List (EngId × SelfTest)) : State :=
  if !s.dev.ready ∨ (s.mgmt.terraces p).isEmpty then s
  else
    let s := s.raiseAlarm p cause
    match (s.dev.getPt p).alarm with
    | some (_, c) => s.l2 p c bad tests
    | none => s

/-! ### L3 (R455, R333, R358). -/

/-- Objects at a device reset. -/
def Obj.afterReset (o : Obj) : Obj :=
  let r := o.released
  { o with
    res := match o.res with | .rising => .caddyOnly | .sinking => (if r then .caddyOnly else .resident) | x => x
    dirty := match o.res with | .sinking => !r | .rising => false | .caddyOnly => false | .resident => o.dirty
    image := match o.res with | .rising => [] | .sinking => (if r then [] else o.image) | _ => o.image
    rise := none, sinkOp := none, sinkWait := [], old := [], again := none, conflict := false, shadowWait := 0, shadowTried := [] }

/-- A server core at a device reset. -/
def Core.afterReset (x : Core) : Core := { hart := .held, phys := x.phys }

/-- The boot record of a partition that was running: the monitor starts it again (Table 13.5). -/
def State.bootAgain (s : State) (p : Nat) : State :=
  if s.bootValid p ∧ s.bootField p 8 4 = 2 then (s.bootPut p 12 4 2).bootPut p 8 4 1 else s

/-- Step 4: every die but the kettle die is reset. -/
def Dev.resetDies (d : Dev) (badWays : List (EngId × Fin 8)) : Dev :=
  { d with
    eng := ((badWays.map fun w => eIdx w.1).foldl addOnce []).foldl (fun m e =>
      Map.put m e { wayOff := (badWays.filter fun w => eIdx w.1 = e).map fun w => w.2.val }) []
    cl := [], parts := [], qps := [], stripes := [], links := [], ports := [], fullAt := none, sinceSink := [], infPtr := [], ghosts := [], cpus := []
    terr := d.terr.map fun t => (t.1, { t.2 with pllOff := true, allGated := 0, droop := 0 })
    cores := d.cores.map fun c => (c.1, c.2.afterReset)
    eports := d.eports.map fun p => (p.1, p.2.down)
    hbm := d.hbm.map fun h => (h.1, { h.2 with errs := [], detects := [], lanes := [] })
    chans := d.chans.map fun c => (c.1, { c.2 with fails := 0 })
    partns := d.partns.map fun p => (p.1, { p.2 with
      faults := [], heldRecs := [], alarm := none, sources := 0, aplic := [], objs := p.2.objs.map fun o => (o.1, o.2.afterReset) })
    atts := d.atts.map fun a => (a.1, { a.2 with
      bound := none, staging := none, items := a.2.items.filter fun i => match i with | .exportOf _ _ _ => false | _ => true }) }

/-- Completes up to n items of an attachment, in order. -/
def State.deliver (s : State) (a : Nat) : Nat → State
  | 0 => s
  | n + 1 => (s.itemComplete a .ok).deliver a n

/-- Attachments that were attached (R358): RESTORED; the event, written with what was posted before it unless a hold runs already
(log 45); and their contexts orphaned. -/
def State.restoreAtt (s : State) (a : Nat) : State :=
  if (s.dev.getAtt a).token.isNone then s
  else
    let s := s.onDev fun d => d.modAtt a fun x => x.setStatus 2
    let s := s.attEvent a 6 0 (leBytes 4 s.mgmt.resets ++ leBytes 2 (s.dev.homedAt a).length)
    (s.deliver a (s.dev.getAtt a).items.length).orphan a 1

/-- Stop, dump, self-refresh: step 1 to 3. -/
def State.quiesce (s : State) : State :=
  let s := (List.range 96).foldl (fun s c => s.drain c) s
  let s := s.writeBackCores
  let s := s.dump (List.range 8) 3 3 0xFF 0 0xFF
  s.onMem fun m => { m with flight := [] }

/-- The Jormon image that an L3 or power-up starts throughout: the newest that has been activated (R475, R477). -/
def Mgmt.startJormon (m : Mgmt) : Mgmt :=
  let m := if (m.comp 1).later then m.modComp 1 fun x => { x with active := 1 - x.active, later := false } else m
  { m with fwVersion := (m.inForce 1).1, fwOld := none }

/-- Steps 4 to 7. -/
def State.resetDevice (s : State) (badWays : List (EngId × Fin 8)) (bad : List Nat) (lanes : List LaneFinding) : State :=
  let who := s.dev.ctxs.map fun c => c.1
  let s := (s.onDev fun d => d.resetDies badWays).laneFound lanes
  let s := s.onMgmt fun m => { m.startJormon with
    l3Since := none, resets := m.resets + 1, stableAt := s.kettle, jorLost := [], jorSpare := [], loaderOn := List.range 40 }
  let s := s.onPow fun w => { w with dormant := false, dormantRun := 0 }
  let s := s.rollAll who .deviceReset bad
  let s := s.onDev fun d => { d with partns := d.partns.map fun p => (p.1, { p.2 with monitor := s.mgmt.fwVersion.toNat }) }
  let s := (List.range 8).foldl (fun s p => if (s.mgmt.terraces p).isEmpty then s else s.bootAgain p) s
  let s := s.onDev fun d => ({ d with ready := true } : Dev).count 0xA 1
  (List.range 8).foldl (fun s a => s.restoreAtt a) s

/-- DEVICE_RESET: an L3 that has been called for, or that a fault beyond retry calls for now; it holds at step 4 while RESET_N is low. -/
def State.deviceReset (s : State) (trains : Bool) (badWays : List (EngId × Fin 8)) (bad : List Nat) (lanes : List LaneFinding) : State :=
  if s.pow.stage ≠ .up ∨ s.mgmt.l4 then s
  else
    s.withStatus fun s =>
      let s := if s.mgmt.l3Since.isSome then s else s.callL3
      if s.mgmt.l4 then s
      else if !s.pow.resetN then s.onMgmt fun m => { m with l3Held := true }
      else
        let s := (s.onMgmt fun m => { m with l3Held := false }).quiesce
        if trains then s.resetDevice badWays bad lanes else (s.onMgmt fun m => { m with l3Since := none }).callL4

/-! ### L4 (R456, R498). -/

/-- Byolo completes its flash writes and asks for power removal: ALERT_N, or the trip's THERMTRIP_N. -/
def State.askRemoval (s : State) : State :=
  (s.onPow fun w => ({ w with alert := w.alert || !w.thermtrip, stage := .stopped } : Pow).setSp [8]).onMgmt fun m =>
    { m with events := m.events + 1 }

/-! ### Jormon cores (R459). -/

/-- Cores of a headgate that have been lost. -/
def Mgmt.lostOn (m : Mgmt) (h : Nat) : Nat := (m.jorLost.filter fun c => c / 5 = h).length

/-- The logical number that a physical Jormon core serves: its own, or for the spare the one that it has taken (R10). -/
def Mgmt.jorLogical (m : Mgmt) (h c : Nat) : Option Nat := if c < 4 then some c else Map.find m.jorSpare h

/-- A Jormon core is lost: the spare takes over its contexts, or the survivors do. The record names it by its logical number (R10); a spare
that serves none has no number, and its loss is no record but a reason for service (log 58). -/
def State.jormonLost (s : State) (h c : Nat) : State :=
  if has s.mgmt.jorLost (5 * h + c) ∨ s.pow.stage ≠ .up then s
  else
    let k := s.mgmt.lostOn h
    let s := s.onMgmt fun m => { m with jorLost := m.jorLost ++ [5 * h + c] }
    let s := match s.mgmt.jorLogical h c with
      | some l => s.log 0x232 none none (leBytes 1 h ++ leBytes 1 l)
      | none => s
    if k = 0 then
      let s := if c < 4 then (s.onMgmt fun m => { m with jorSpare := Map.put m.jorSpare h c }).swapped (Config.unitKind 3) (4 * h + c) (5 * h + c) (5 * h + 4) else s
      s.needsService 0
    else if k < 4 then s.needsService 5
    else (s.needsService 5).withStatus State.callL3

/-! ### Meanings. -/

/-- COMMAND_REPLAY (R442, R443). -/
def execCommandReplay (part : Nat) (cls : HwClass) (s : State) : Out := .next (if s.dev.ready then s.absorb part cls else s)

/-- ENGINE_RESET (R444 to R447). -/
def execEngineReset (e : EngId) (cls : HwClass) (test : SelfTest) (s : State) : Out :=
  .next (s.engineReset (eIdx e) (hwCode cls) test)

/-- ENGINE_RESET_LIMIT (R460). -/
def execEngineResetLimit (e : EngId) (s : State) : Out := .next (s.resetLimit (eIdx e))

/-- PROGRESS_WATCHDOG (R458): the engine passes to L1 with class HANG. -/
def execProgressWatchdog (e : EngId) (s : State) : Out :=
  .next (if 2 ^ 34 ≤ (s.dev.getEng (eIdx e)).progress ∧ s.l1Free (eIdx e) then s.isolate 7 (eIdx e) else s)

/-- PARTITION_ALARM (R452, R453). -/
def execPartitionAlarm (pt : Fin 8) (cause : RbCause) (badImages : List (Fin 4096)) (tests : List (EngId × SelfTest)) (s : State) : Out :=
  .next (s.partitionAlarm pt.val cause (badImages.map fun n => n.val) tests)

/-- L2_BOUND_EXPIRY (R460). -/
def execL2BoundExpiry (pt : Fin 8) (s : State) : Out :=
  .next (match (s.dev.getPt pt.val).alarm with
    | some (t, _) => if t + 2 ^ 24 ≤ s.kettle then s.withStatus State.callL3 else s
    | none => s)

/-- DEVICE_RESET (R455). -/
def execDeviceReset (linksTrain : Bool) (badWays : List (EngId × Fin 8)) (badImages : List (Fin 4096)) (lanes : List LaneFinding) (s : State) :
    Out :=
  .next (s.deviceReset linksTrain badWays (badImages.map fun n => n.val) lanes)

/-- L3_BOUND_EXPIRY (R460): not while RESET_N holds the reset at step 4 (R499). -/
def execL3BoundExpiry (s : State) : Out :=
  .next (match s.mgmt.l3Since with
    | some t => if t + 2 ^ 25 ≤ s.kettle ∧ !s.mgmt.l3Held then (s.onMgmt fun m => { m with l3Since := none }).withStatus State.callL4 else s
    | none => s)

/-- TRAY_POWER_CYCLE (R456). -/
def execTrayPowerCycle (s : State) : Out := .next (if s.mgmt.l4 then s.askRemoval else s)

/-- DUMP_TRUNCATED (R462): the dump under way is cut short. -/
def execDumpTruncated (t : Fin 8) (s : State) : Out :=
  .next (match s.recoveryOf t.val with
    | some k => if k + 2 ^ 18 ≤ s.kettle then s.onDev fun d => d.modTerr t.val fun x => { x with dumpCut := true } else s
    | none => s)

/-- JORMON_CORE_LOST (R459). -/
def execJormonCoreLost (h : Fin 4) (core : Fin 5) (s : State) : Out := .next (s.jormonLost h.val core.val)

/-- SP_REQUEST_DEVICE_RESET (R480): a device reset whose die resets are those of step 4 of R455. -/
def execSpRequestDeviceReset (s : State) : Out :=
  .next (if s.mgmt.running ∧ s.pow.stage = .up then s.withStatus State.callL3 else s)

/-- SP_REQUEST_POWER_REMOVAL (R480). -/
def execSpRequestPowerRemoval (s : State) : Out :=
  .next (if s.mgmt.running then s.onPow fun w => ({ w with alert := true } : Pow).setSp [8] else s)

end Sys2Proof.Machine
end

