-- ==== Sys2Proof/Machine/Sha3.lean ====
section
/-!
DEFINITION. SHA3-512 (FIPS 202), the hash that Table 0.1 names for images, measurements and identities (R473, R478, R479).
-/

namespace Sys2Proof.Machine

/-- Rotation of each lane of a Keccak state, lane x + 5 y (rho). -/
def keccakRot : List Nat :=
  [0, 1, 62, 28, 27, 36, 44, 6, 55, 20, 3, 10, 43, 25, 39, 41, 45, 15, 21, 8, 18, 2, 61, 56, 14]

/-- The round constants (iota). -/
def keccakRc : List Word :=
  [0x0000000000000001#64, 0x0000000000008082#64, 0x800000000000808A#64, 0x8000000080008000#64, 0x000000000000808B#64, 0x0000000080000001#64]
    ++ [0x8000000080008081#64, 0x8000000000008009#64, 0x000000000000008A#64, 0x0000000000000088#64, 0x0000000080008009#64,
      0x000000008000000A#64]
    ++ [0x000000008000808B#64, 0x800000000000008B#64, 0x8000000000008089#64, 0x8000000000008003#64, 0x8000000000008002#64,
      0x8000000000000080#64]
    ++ [0x000000000000800A#64, 0x800000008000000A#64, 0x8000000080008081#64, 0x8000000000008080#64, 0x0000000080000001#64,
      0x8000000080008008#64]

/-- A lane of a state. -/
def keccakLane (a : List Word) (i : Nat) : Word := a.getD i 0

/-- theta: every lane takes the parities of two columns. -/
def keccakTheta (a : List Word) : List Word :=
  let c := (List.range 5).map fun x => (List.range 5).foldl (fun w y => w ^^^ keccakLane a (x + 5 * y)) 0
  (List.range 25).map fun i => keccakLane a i ^^^ keccakLane c ((i + 4) % 5) ^^^ (keccakLane c ((i + 1) % 5)).rotateLeft 1

/-- rho and pi: lanes are rotated and take new places. -/
def keccakRhoPi (a : List Word) : List Word :=
  (List.range 25).map fun i =>
    let j := (i % 5 + 3 * (i / 5)) % 5 + 5 * (i % 5)
    (keccakLane a j).rotateLeft (keccakRot.getD j 0)

/-- chi, and iota on lane 0. -/
def keccakChiIota (a : List Word) (rc : Word) : List Word :=
  (List.range 25).map fun i =>
    let y := 5 * (i / 5)
    let v := keccakLane a i ^^^ (~~~(keccakLane a ((i + 1) % 5 + y)) &&& keccakLane a ((i + 2) % 5 + y))
    if i = 0 then v ^^^ rc else v

/-- The permutation of 24 rounds. -/
def keccakF (a : List Word) : List Word := keccakRc.foldl (fun a rc => keccakChiIota (keccakRhoPi (keccakTheta a)) rc) a

/-- Bytes of a block that SHA3-512 absorbs. -/
def shaRate : Nat := 72

/-- A message with its padding: the domain bits 01, then 10*1. -/
def shaPad (bs : Bytes) : Bytes :=
  let z := shaRate - 1 - bs.length % shaRate
  if z = 0 then bs ++ [0x86] else bs ++ [0x06] ++ List.replicate (z - 1) 0 ++ [0x80]

/-- Absorbs the blocks of a padded message. -/
def shaAbsorb : Nat → List Word → Bytes → List Word
  | 0, a, _ => a
  | n + 1, a, bs =>
    let a := a.mapIdx fun i w => if i < shaRate / 8 then w ^^^ BitVec.ofNat 64 (field bs (8 * i) 8) else w
    shaAbsorb n (keccakF a) (bs.drop shaRate)

/-- SHA3-512 of bytes: 64 bytes. -/
def sha3 (bs : Bytes) : Bytes :=
  let p := shaPad bs
  ((shaAbsorb (p.length / shaRate) (List.replicate 25 0) p).take 8).flatMap fun w => leBytes 8 w.toNat

end Sys2Proof.Machine
end

