-- ==== Sys2Proof/Machine/Manage.lean ====
section
/-!
DEFINITION. Byolo: its starts and restarts, vendor messages, attestation, sensors, firmware update and the fuse count (R465 to R468,
R471 to R479).
-/

namespace Sys2Proof.Machine

/-! ### Requesters (R466, R467). -/

/-- A management request: Byolo answers it while it runs; one of an attachment comes over its link. -/
def State.mctp (s : State) (r : Requester) (f : State → State) : State :=
  if !s.mgmt.running then s
  else match r with
    | .tray => f s
    | .att a => s.host a.val f

/-- Requesters that Table 20.2 serves to everything. -/
def Mgmt.serves (m : Mgmt) (r : Requester) : Bool := match r with | .tray => true | .att a => m.isOwner a.val

/-- The reply to a management request: its status or completion code, and bytes. -/
def State.says (s : State) (code : Nat) (bs : Bytes) : State := s.onMgmt fun m => { m with replyCode := code, reply := bs }

/-- Vendor statuses (Table 20.3). -/
def vBusy : Nat := 1
def vNotPermitted : Nat := 2
def vBadField : Nat := 3

/-- A vendor message (Table 20.2). -/
def State.vendor (s : State) (r : Requester) (f : State → State) : State :=
  s.mctp r fun s => if s.mgmt.serves r then f s else s.says vNotPermitted []

/-- PLDM completion codes (PRESUMED of DSP0240, DSP0248 and DSP0267, log 35). -/
def pUnsupported : Nat := 0x05
def pInvalidData : Nat := 0x02
def pInvalidSensor : Nat := 0x80
def pNotInUpdate : Nat := 0x80
def pInUpdate : Nat := 0x81
def pInvalidState : Nat := 0x84
def pIncomplete : Nat := 0x85

/-- A PLDM Type 5 message (Table 20.2). -/
def State.fwMessage (s : State) (r : Requester) (f : State → State) : State :=
  s.mctp r fun s => if s.mgmt.serves r then f s else s.says pUnsupported []

/-! ### Starts (R465, R473, R474). -/

/-- Whether a slot meets R473 under a fuse count. -/
def Component.accepts (x : Component) (comp k fuse : Nat) : Bool :=
  (if k = 0 then x.ok0 else x.ok1) && fuse ≤ (x.slot comp k).2.1 && (x.slot comp k).2.1 ≤ 64

/-- Sets the VALID flag of a slot. -/
def Component.mark (x : Component) (k : Nat) (v : Bool) : Component := if k = 0 then { x with valid0 := v } else { x with valid1 := v }

/-- A firmware record (Table 20.7). -/
def State.fwRecord (s : State) (comp stage : Nat) (im : Word × Nat × Nat) : State :=
  s.log 0x270 none none (leBytes 1 comp ++ leBytes 1 stage ++ leBytes 8 im.1.toNat ++ leBytes 1 im.2.1)

/-- A component starts from its active slot, else from the other: where the slot fails R473, or the start has failed three times in a row
(R474). The flag says whether either is accepted. -/
def State.startComp (s : State) (c : Nat) (fails : Nat) : State × Bool :=
  let x := s.mgmt.comp c
  if x.accepts c x.active s.mgmt.fuse ∧ x.attempts + fails < 3 then (s.onMgmt fun m => m.modComp c fun x => { x with attempts := 0 }, true)
  else
    let s := s.onMgmt fun m => m.modComp c fun y => y.mark x.active false
    let k := 1 - x.active
    if x.accepts c k s.mgmt.fuse then
      ((s.onMgmt fun m => m.modComp c fun y => { y with active := k, attempts := 0 }).fwRecord c 3 (x.slot c x.active), true)
    else (s.fwRecord c 3 (x.slot c x.active), false)

/-- The log resumes after the last reservation (R471). -/
def Mgmt.resumeLog (m : Mgmt) : Mgmt := { m with nextLog := m.resvEnd }

/-- Byolo stops for a restart. An open update and the negotiations of requesters go with its memory (log 37). -/
def State.stopByolo (s : State) (cause : Nat) (other : Bool) : State :=
  s.onMgmt fun m => { m.resumeLog with
    running := false, restarting := some (s.kettle, cause, other), update := none, spdm := [], stableAt := s.kettle }

/-- A restart by a mismatch or a failed check (R465): the third in the window takes the other slot, a further one stops Byolo. -/
def State.restartByolo (s : State) (cause : Nat) : State :=
  if !s.mgmt.running then s
  else
    let now := s.kettle
    let recent := s.mgmt.restarts.filter fun t => now < t + 2 ^ 27
    let s := s.onMgmt fun m => { m with restarts := recent ++ [now] }
    if 3 ≤ recent.length then
      (s.onMgmt fun m => { m with running := false, failed := true, update := none, spdm := [] }).onPow fun w =>
        ({ w with alert := true } : Pow).setSp [7]
    else s.stopByolo cause (recent.length = 2)

/-- Byolo is back: the records that Jormon kept take their numbers, and the restart and the gap are logged. -/
def State.byoloBack (s : State) (cause : Nat) (other : Bool) : State :=
  let s := if other then s.onMgmt fun m => m.modComp 2 fun x => { x with active := 1 - x.active } else s
  let kept := s.mgmt.kept
  let gap := s.mgmt.dropped
  let s := s.onMgmt fun m => kept.foldl (fun m r => m.addLog r)
    { m with running := true, restarting := none, kept := [], dropped := 0 }
  let st := s.startComp 2 0
  if st.2 then
    let s := st.1.log 0x271 none none (leBytes 1 cause ++ leBytes 1 (st.1.mgmt.comp 2).active)
    if gap = 0 then s else s.log 0x272 none none (leBytes 4 gap)
  else (st.1.onMgmt fun m => { m with running := false }).onPow fun w => { w with alert := true }

/-- The restart under way ends at its bound of 2^21 kettle cycles (log 2). -/
def State.restartEnd (s : State) : State :=
  match s.mgmt.restarting with
  | some (t, cause, other) => if t + 2 ^ 21 ≤ s.kettle then s.byoloBack cause other else s
  | none => s

/-! ### Vendor messages (R467, R471, R472). -/

/-- A record as it stands in the log (Table 20.6). -/
def LogRec.bytes (r : LogRec) (seq : Nat) : Bytes :=
  leBytes 8 seq ++ leBytes 2 r.type ++ leBytes 1 r.attach ++ leBytes 1 r.sev ++ leBytes 2 r.ctx ++ leBytes 2 r.boot ++ sub r.data 0 48

/-- LOG_READ: the next records that exist from a number on (log 36). -/
def State.logRead (s : State) (first count : Nat) : State :=
  if count = 0 ∨ 16 < count then s.says vBadField []
  else s.says 0 (((s.mgmt.log.filter fun r => first ≤ r.1).take count).flatMap fun r => r.2.bytes r.1)

def State.dumpList (s : State) (t : Nat) : State :=
  if 8 ≤ t then s.says vBadField []
  else s.says 0 ((List.range 32).flatMap fun k =>
    match Map.find (s.dev.getTerr t).dumps k with
    | some d => leBytes 1 1 ++ leBytes 1 d.level ++ leBytes 4 d.seq
    | none => leBytes 6 0)

/-- A byte of the sections of a dump, each after its header of kind, unit and length (R472); beyond the last a free one. -/
def sectionsByte (seq t : Nat) (l : List (Nat × Nat)) (k : Nat) : Byte :=
  match l with
  | [] => Config.sectionByte seq t 0 0 k
  | x :: rest =>
    let n := sectionLen seq t x
    if k < 8 then (leBytes 2 x.1 ++ leBytes 2 x.2 ++ leBytes 4 n).getD k 0
    else if k < 8 + n then Config.sectionByte seq t x.1 x.2 (k - 8)
    else sectionsByte seq t rest (k - 8 - n)

/-- A byte of a dump: its summary, then its sections as far as they were written. -/
def Dump.byte (d : Dump) (t off : Nat) : Byte :=
  if off < 4096 then d.summary.getD off 0
  else if off < dumpBytes d.seq t d.sections d.truncated then sectionsByte d.seq t d.sections (off - 4096)
  else Config.sectionByte d.seq t 0 1 off

def State.dumpRead (s : State) (t slot off : Nat) : State :=
  if 8 ≤ t ∨ 32 ≤ slot ∨ off % 1024 ≠ 0 ∨ 2 ^ 24 ≤ off then s.says vBadField []
  else if (s.dev.getTerr t).dumpPos = slot ∧ (s.recoveryOf t).isSome then s.says vBusy []
  else s.says 0 ((List.range 1024).map fun i =>
    match Map.find (s.dev.getTerr t).dumps slot with | some d => d.byte t (off + i) | none => 0)

def State.summaryRead (s : State) (slot idx : Nat) : State :=
  if 2 ≤ slot ∨ 4 ≤ idx then s.says vBadField []
  else
    match Map.find s.mgmt.summ slot with
    | some b => s.says 0 (sub b (1024 * idx) 1024)
    | none =>
      let n := s.dev.free
      (s.says 0 ((List.range 1024).map fun i => Config.freeByte (n + i))).took 1024

/-! ### Attestation (R466, R478, R479). -/

def reqNum (r : Requester) : Nat := match r with | .tray => 8 | .att a => a.val

/-- SPDM error codes (PRESUMED of DSP0274, log 35). -/
def eInvalid : Nat := 0x01
def eUnexpected : Nat := 0x04

/-- How far a requester has negotiated: 1 version, 2 capabilities, 3 algorithms. -/
def Mgmt.spdmOf (m : Mgmt) (r : Requester) : Nat := Map.get m.spdm (reqNum r) 0

def State.spdmTo (s : State) (r : Requester) (k : Nat) : State := s.onMgmt fun m => { m with spdm := Map.put m.spdm (reqNum r) k }

/-- An SPDM request that needs a stage of the negotiation. -/
def State.spdm (s : State) (r : Requester) (stage : Nat) (f : State → State) : State :=
  s.mctp r fun s => if s.mgmt.spdmOf r < stage then s.says eUnexpected [] else f s

/-- A number of 512 bits as bytes. -/
def digestBytes (n : Nat) : Bytes := leBytes 64 n

/-- SHA3-512 of bytes. -/
def sha (bs : Bytes) : Nat := leNat (sha3 bs)

/-- The certificate chain of slot 0 (R478). -/
def Mgmt.chain (m : Mgmt) : Bytes := Config.certChain (m.inForce 2).2.2 m.fuse

/-- A signature by the alias key over what is signed. -/
def Mgmt.sign (m : Mgmt) (bs : Bytes) : Bytes := Config.signature (m.inForce 2).2.2 m.fuse (sha bs)

/-- A measurement block (Table 20.12). -/
def Mgmt.measure (m : Mgmt) (k : Nat) : Nat :=
  match k with
  | 1 => Config.bootRomDigest.toNat
  | 2 => (m.inForce 2).2.2
  | 3 => (m.inForce 1).2.2
  | 4 => if m.fwOld.isSome then m.fwOldDigest else 0
  | 5 => (m.inForce 3).2.2
  | 6 => sha (Mem.read m.record 0 4096)
  | _ => sha (leBytes 1 m.fuse ++ digestBytes Config.keyHash.toNat)

def Mgmt.block (m : Mgmt) (k : Nat) : Bytes := leBytes 1 k ++ digestBytes (m.measure k)

def State.algorithms (s : State) (r : Requester) (asym hash : Nat) : State :=
  if bit asym 2 && bit hash 5 then (s.spdmTo r 3).says 0 (leBytes 4 4 ++ leBytes 4 32) else s.says eInvalid []

def State.certificate (s : State) (slot off len : Nat) : State :=
  let c := s.mgmt.chain
  if slot ≠ 0 ∨ c.length ≤ off then s.says eInvalid []
  else
    let k := min len (c.length - off)
    s.says 0 (leBytes 2 k ++ leBytes 2 (c.length - off - k) ++ sub c off k)

def State.challenge (s : State) (slot nonce : Nat) : State :=
  if slot ≠ 0 then s.says eInvalid []
  else
    let h := digestBytes (sha s.mgmt.chain)
    s.says 0 (h ++ s.mgmt.sign (h ++ leBytes 32 nonce))

/-- Index 0 asks for the number of blocks, 0xFF for all of them. -/
def State.measurements (s : State) (idx : Nat) : State :=
  let m := s.mgmt
  if idx = 0 then s.says 0 (leBytes 1 7)
  else if idx ≤ 7 then s.says 0 (leBytes 1 1 ++ m.block idx ++ m.sign (m.block idx))
  else if idx = 0xFF then
    let bs := (List.range 7).flatMap fun k => m.block (k + 1)
    s.says 0 (leBytes 1 7 ++ bs ++ m.sign bs)
  else s.says eInvalid []

/-! ### Sensors (R468, Table 20.4). -/

/-- Whether Table 20.4 gives an identifier, by kind, class and index. A die's sensors are 32 at most. -/
def sensorExists (kind cls idx : Nat) : Bool :=
  match kind with
  | 1 => (cls = 0 || cls = 1 && idx < 64 || cls = 2 && idx < 128 || cls = 3 && idx < 32)
  | 2 => cls = 0 && idx < 24
  | 3 => cls = 0 && idx < 52
  | 4 => cls < 4
  | 5 => cls < 3 && idx < 15
  | 6 => cls < 3 && idx = 0
  | 7 => cls < 4 && idx < 13
  | 8 => cls = 0 && idx < 3
  | _ => false

/-- The reading of a sensor; none is the state unavailable. A regulator's is a free value. -/
def State.reading (s : State) (id : Nat) : Option Int :=
  let idx := id % 256
  match id / 4096 with
  | 4 => some (Config.freeWord s.dev.free).toNat
  | 6 => if id = 0x6200 then some s.pow.inputW else Map.get s.mgmt.sensors id (some 0)
  | 7 => some ((Map.get (s.dev.getEPort (id / 256 % 16)).counts idx 0 : Nat) : Int)
  | 8 => some (match idx with
    | 0 => s.mgmt.service.toNat
    | 1 => if s.pow.spStatus.getLsbD 8 then 1 else 0
    | _ => if s.dev.ready then 1 else 0)
  | _ => Map.get s.mgmt.sensors id (some 0)

/-- The operational state 0 enabled or 2 unavailable, and the reading. -/
def State.sensorRead (s : State) (id : Nat) : State :=
  if !sensorExists (id / 4096) (id / 256 % 16) (id % 256) then s.says pInvalidSensor []
  else
    let s' := match s.reading id with
      | some v => s.says 0 (leBytes 1 0 ++ leBytes 8 (code 64 v))
      | none => s.says 0 (leBytes 1 2 ++ leBytes 8 0)
    if id / 4096 = 4 then s'.took 1 else s'

/-! ### Updates (R467, R475 to R477). -/

def State.requestUpdate (s : State) (r : Requester) : State :=
  if s.mgmt.update.isSome then s.says pInUpdate []
  else (s.onMgmt fun m => { m with update := some { who := r } }).says 0 []

/-- A message of the update agent. -/
def State.updating (s : State) (r : Requester) (f : Update → State → State) : State :=
  match s.mgmt.update with
  | some u => if u.who = r then f u s else s.says pNotInUpdate []
  | none => s.says pNotInUpdate []

/-- The image in place of what the inactive slot held. -/
def Component.write (x : Component) (img : Image) : Component :=
  let ok := img.keyOk && img.sigOk && img.digestOk
  let im := some (img.version, img.svn, img.digest)
  let y : Component := if x.active = 1 then { x with image0 := im, ok0 := ok } else { x with image1 := im, ok1 := ok }
  { y.mark (1 - x.active) false with later := false }

def State.updateComponent (s : State) (u : Update) (img : Image) : State :=
  let c := img.component
  if c = 0 ∨ 3 < c then s.says pInvalidData []
  else
    let u : Update := { u with written := (u.written.filter fun i => i.component ≠ c) ++ [img], verified := u.verified.filter fun v => v ≠ c }
    (s.onMgmt fun m => { m.modComp c fun x => x.write img with update := some u }).says 0 []

/-- VerifyComplete: success, or 1 with a record of stage 3 (log 37). -/
def State.verify (s : State) (u : Update) (c : Nat) : State :=
  if !u.written.any fun i => i.component = c then s.says pInvalidState []
  else
    let x := s.mgmt.comp c
    let k := 1 - x.active
    if x.accepts c k s.mgmt.fuse then
      ((s.onMgmt fun m => { m.modComp c fun x => x.mark k true with update := some { u with verified := addOnce u.verified c } }).fwRecord
        c 0 (x.slot c k)).says 0 []
    else (s.fwRecord c 3 (x.slot c k)).says 1 []

/-- MAJOR of a version (Table 14.4). -/
def major (v : Word) : Nat := bits v.toNat 31 16

/-- The other slot becomes the active one. -/
def Mgmt.flip (m : Mgmt) (c : Nat) : Mgmt := m.modComp c fun x => { x with active := 1 - x.active, later := false }

/-- A Jormon image of the same MAJOR takes over live, unless it fails to start on some headgate: then every context stays on the old version,
and the slot's VALID flag is cleared (R477). One of another MAJOR waits for a reset. -/
def State.activateJormon (s : State) (starts : Bool) : State :=
  let old := s.mgmt.inForce 1
  let new := (s.mgmt.comp 1).slot 1 (1 - (s.mgmt.comp 1).active)
  if major old.1 = major new.1 then
    if !starts then s.onMgmt fun m => m.modComp 1 fun x => x.mark (1 - x.active) false
    else s.awake.withStatus fun s => s.onMgmt fun m => { m.flip 1 with fwOld := some old.1, fwOldDigest := old.2.2, fwVersion := new.1 }
  else s.onMgmt fun m => m.modComp 1 fun x => { x with later := true }

/-- Whether the activation needs a reset. -/
def Mgmt.needsReset (m : Mgmt) (cs : List Nat) : Bool :=
  has cs 1 && major (m.inForce 1).1 ≠ major ((m.comp 1).slot 1 (1 - (m.comp 1).active)).1

/-- Activation of one component but Byolo's restart (Table 20.10). A live update that fails to start is recorded as rejected (DEDUCED, log
37). -/
def State.activateOne (s : State) (c : Nat) (starts : Bool) : State :=
  let live : Bool := c = 1 && !s.mgmt.needsReset [1]
  let new := (s.mgmt.comp c).slot c (1 - (s.mgmt.comp c).active)
  let s := if c = 1 then s.activateJormon starts
    else if c = 3 then s.onMgmt fun m => { m.flip 3 with loaderOn := [] }
    else s.onMgmt fun m => m.flip 2
  (s.onMgmt fun m => { m with stableAt := s.kettle }).fwRecord c (if live && !starts then 3 else 1) new

/-- ActivateFirmware; the reply's byte says that a reset is needed. -/
def State.activate (s : State) (u : Update) (starts : Bool) : State :=
  let cs := u.written.map fun i => i.component
  if cs.isEmpty ∨ cs.any fun c => !has u.verified c then s.says pIncomplete []
  else if has cs 1 ∧ s.mgmt.fwOld.isSome then s.says pInvalidState []
  else
    let need := s.mgmt.needsReset cs
    let s := (cs.foldl (fun s c => s.activateOne c starts) s).onMgmt fun m => { m with update := none }
    let s := if has cs 1 then s.withStatus State.fwDone else s
    let s := s.says 0 (leBytes 1 (if need then 1 else 0))
    if has cs 2 then s.stopByolo 0 false else s

/-- A context hands over at once when it holds no descriptor that waits or executes and no open fault entry. -/
def State.handover (s : State) (n : Nat) : State :=
  match s.dev.getCtx n with
  | none => s
  | some c =>
    let idle : Bool := (c.cmds.all fun x => x.state.ended) && (s.dev.getPt c.pt).faults.all fun f => f.ctx ≠ n
    if s.mgmt.fwOld.isSome ∧ c.served ≠ s.mgmt.fwVersion.toNat ∧ idle then s.withStatus fun s => s.nowServed n else s

/-- The lowest svn in force. -/
def Mgmt.lowestSvn (m : Mgmt) : Nat := min (m.inForce 1).2.1 (min (m.inForce 2).2.1 (m.inForce 3).2.1)

/-- The component with the lowest svn in force, which the record of a raise names (log 37). -/
def Mgmt.lowestComp (m : Mgmt) : Nat :=
  if (m.inForce 1).2.1 = m.lowestSvn then 1 else if (m.inForce 2).2.1 = m.lowestSvn then 2 else 3

def State.fuseRaise (s : State) : State :=
  let f := min 64 s.mgmt.lowestSvn
  let c := s.mgmt.lowestComp
  if s.mgmt.running ∧ s.pow.stage = .up ∧ s.mgmt.fwOld.isNone ∧ s.mgmt.stableAt + 2 ^ 30 ≤ s.kettle ∧ s.mgmt.fuse < f then
    (s.onMgmt fun m => { m with fuse := f }).fwRecord c 4 ((s.mgmt.inForce c).1, f, 0)
  else s

/-! ### Meanings. -/

/-- BYOLO_RESTART (R465). -/
def execByoloRestart (cause : Nat) (s : State) : Out := .next (s.restartByolo (cause % 256))

/-- LOG_READ (R471). -/
def execLogRead (r : Requester) (first : Nat) (count : Nat) (s : State) : Out := .next (s.vendor r fun s => s.logRead first count)

/-- DUMP_LIST (R472). -/
def execDumpList (r : Requester) (t : Nat) (s : State) : Out := .next (s.vendor r fun s => s.dumpList t)

/-- DUMP_READ (R472). -/
def execDumpRead (r : Requester) (t slot off : Nat) (s : State) : Out := .next (s.vendor r fun s => s.dumpRead t slot off)

/-- SUMMARY_READ (R472). -/
def execSummaryRead (r : Requester) (slot idx : Nat) (s : State) : Out := .next (s.vendor r fun s => s.summaryRead slot idx)

/-- SERVICE_READ (R468). -/
def execServiceRead (r : Requester) (s : State) : Out := .next (s.vendor r fun s => s.says 0 (leBytes 1 s.mgmt.service.toNat))

/-- GET_VERSION (R466): SPDM 1.4; the negotiation starts afresh. -/
def execGetVersion (r : Requester) (s : State) : Out := .next (s.spdm r 0 fun s => (s.spdmTo r 1).says 0 (leBytes 1 1 ++ leBytes 2 0x1400))

/-- GET_CAPABILITIES (R466): certificates, challenge, signed measurements. -/
def execGetCapabilities (r : Requester) (s : State) : Out := .next (s.spdm r 1 fun s => (s.spdmTo r 2).says 0 (leBytes 4 0x16))

/-- NEGOTIATE_ALGORITHMS (R466): ML-DSA-87 and SHA3-512. -/
def execNegotiateAlgorithms (r : Requester) (asym hash : Nat) (s : State) : Out := .next (s.spdm r 2 fun s => s.algorithms r asym hash)

/-- GET_DIGESTS (R466, R478). -/
def execGetDigests (r : Requester) (s : State) : Out :=
  .next (s.spdm r 3 fun s => s.says 0 (leBytes 1 1 ++ digestBytes (sha s.mgmt.chain)))

/-- GET_CERTIFICATE (R478). -/
def execGetCertificate (r : Requester) (slot off len : Nat) (s : State) : Out := .next (s.spdm r 3 fun s => s.certificate slot off len)

/-- CHALLENGE (R478). -/
def execChallenge (r : Requester) (slot : Nat) (nonce : Nat) (s : State) : Out := .next (s.spdm r 3 fun s => s.challenge slot nonce)

/-- GET_MEASUREMENTS (R479). -/
def execGetMeasurements (r : Requester) (idx : Nat) (s : State) : Out := .next (s.spdm r 3 fun s => s.measurements idx)

/-- PLDM_SENSOR_READ (R468): every requester may read. -/
def execPldmSensorRead (r : Requester) (sensor : BitVec 16) (s : State) : Out := .next (s.mctp r fun s => s.sensorRead sensor.toNat)

/-- REQUEST_UPDATE (R467). -/
def execRequestUpdate (r : Requester) (s : State) : Out := .next (s.fwMessage r fun s => s.requestUpdate r)

/-- UPDATE_COMPONENT (R475). -/
def execUpdateComponent (r : Requester) (img : Image) (s : State) : Out :=
  .next (s.fwMessage r fun s => s.updating r fun u s => s.updateComponent u img)

/-- VERIFY_COMPLETE (R475, R476). -/
def execVerifyComplete (r : Requester) (component : Nat) (s : State) : Out :=
  .next (s.fwMessage r fun s => s.updating r fun u s => s.verify u component)

/-- ACTIVATE_FIRMWARE (R475, R477). -/
def execActivateFirmware (r : Requester) (starts : Bool) (s : State) : Out :=
  .next (s.fwMessage r fun s => s.updating r fun u s => s.activate u starts)

/-- CANCEL_UPDATE (R475). -/
def execCancelUpdate (r : Requester) (s : State) : Out :=
  .next (s.fwMessage r fun s => s.updating r fun _ s => (s.onMgmt fun m => { m with update := none }).says 0 [])

/-- HANDOVER (R477). -/
def execHandover (n : Fin 4096) (s : State) : Out := .next (s.handover n.val)

/-- FUSE_RAISE (R476). -/
def execFuseRaise (s : State) : Out := .next s.fuseRaise

end Sys2Proof.Machine
end

