-- ==== Sys2Proof/Machine/Module.lean ====
section
/-!
DEFINITION. The module's power-up, power-down, reset signals and input protection (R301, R416, R456, R465, R470, R471, R483, R488,
R492, R495 to R503).
-/

namespace Sys2Proof.Machine

/-! ### What lasts without main power. -/

/-- The data path without power: retirements, repairs, fenced units and swaps are taken from management flash or lie in the parts
themselves, and PERST_N is the host's (R301, R461, R496). The count of free values is the model's. -/
def Dev.unpowered (d : Dev) : Dev :=
  { terr := d.terr.map fun t => (t.1, { serves := t.2.serves, fenced := t.2.fenced, spareUsed := t.2.spareUsed, spareCl := t.2.spareCl })
    cores := d.cores.map fun c => (c.1, { phys := c.2.phys })
    spareCores := d.spareCores
    atts := d.atts.map fun a => (a.1, { perst := a.2.perst })
    hbm := d.hbm.map fun h => (h.1, { repaired := h.2.repaired, retired := h.2.retired })
    chans := d.chans.map fun c => (c.1, { serial := c.2.serial, badSerial := c.2.badSerial, retired := c.2.badSerial.isSome })
    free := d.free }

/-- Byolo and its store across a removal of main power: contexts, recovery levels and Jormon cores start afresh; of the service reasons
those stay that management flash or Byolo keeps (log 38). -/
def Mgmt.unpowered (m : Mgmt) : Mgmt :=
  { m with
    l3s := [], l3Since := none, l3Held := false, resets := 0, l4 := false, jorLost := [], jorSpare := [], fwOld := none, loaderOn := []
    service := m.service &&& 0x13 }

/-- The safety partition and the weir when PWRGD falls (R498, Table 18.4). -/
def Pow.unpowered (w : Pow) (failed : Bool) (now : Nat) : Pow :=
  { w with
    stage := .off, connected := false, pwrgd := false, fellAt := if w.pwrgd then some now else w.fellAt
    alert := failed, thermtrip := false, spStatus := 0, enfRun := 0, clocksOff := false
    doms := [], overRun := 0, underRun := 0, dormant := false, dormantRun := 0, capW := 2500, effW := 2500 }

/-- Main power is gone: the caddy is lost with everything else it fed (R497). -/
def State.unpowered (s : State) : State :=
  { s with
    mem := {}, dev := s.dev.unpowered, mgmt := s.mgmt.unpowered, pow := s.pow.unpowered s.mgmt.failed s.kettle }

/-! ### Byolo starts with AUX_12V (R465, R471, R474, R495). -/

/-- Byolo starts under R473; the log resumes after the last reservation. -/
def State.startByolo (s : State) : State :=
  let st := (s.onMgmt fun m => { m.resumeLog with running := true, failed := false, restarts := [], restarting := none, stableAt := s.kettle }).startComp 2 0
  if st.2 then st.1 else (st.1.onMgmt fun m => { m with running := false }).onPow fun w => { w with alert := true }

/-! ### The layout record at start-up (R483). -/

/-- Whether a copy may come into force. -/
def copyOk (r : Mem) : Bool := recCheck r && recOk r [recSplit r]

/-- The generation of a copy, 0 where it is unreadable. -/
def copyGen (r : Option Mem) : Nat := match r with | some m => Mem.le m 8 4 | none => 0

/-- The copy that comes into force: the acceptable one of the higher generation. -/
def Mgmt.chosen (m : Mgmt) : Option Mem :=
  match m.copy0.filter copyOk, m.copy1.filter copyOk with
  | some a, some b => some (if Mem.le a 8 4 < Mem.le b 8 4 then b else a)
  | some a, none => some a
  | none, b => b

def State.takeRecord (s : State) : State :=
  let s := match s.mgmt.chosen with
    | some r => s.onMgmt fun m => { m with record := r, layoutGen := Mem.le r 8 4, defaulted := false }
    | none =>
      (s.onMgmt fun m => { m with record := recDefault, layoutGen := 0, defaulted := true }).log 0x101 none none
        (leBytes 4 (copyGen s.mgmt.copy0) ++ leBytes 4 (copyGen s.mgmt.copy1))
  (s.onMgmt fun m => { m with split := recSplit m.record }).onPow fun w =>
    { w with capW := recCap s.mgmt.record, effW := min (recCap s.mgmt.record) w.ceilingNow }

/-! ### Sockets and links at power-up (R301, R456, R503). -/

/-- What Byolo finds in a socket. -/
def State.socket (s : State) (f : Nat × Option Nat) : State :=
  let x := s.dev.getChan f.1
  match f.2 with
  | some n =>
    let bad := x.badSerial.filter fun b => b = n
    s.onDev fun d => d.modChan f.1 fun x => { x with serial := n, badSerial := bad, retired := bad.isSome }
  | none =>
    (s.onDev fun d => d.modChan f.1 fun x => { x with retired := true }).log 0x210 none none (leBytes 1 f.1 ++ leBytes 8 x.serial)

/-- Whether a parity group cannot be served. -/
def Dev.groupLost (d : Dev) (g : Nat) : Bool := 2 ≤ ((List.range 13).filter fun k => (d.getChan (13 * g + k)).retired).length

/-- Whether the paths of a partition (Table 12.3) need a link, by its terrace mask. -/
def needsLink (mask l : Nat) : Bool :=
  if l < 12 then bit mask (4 * (l / 6) + (pairOf (l % 6)).1) && bit mask (4 * (l / 6) + (pairOf (l % 6)).2)
  else if l < 16 then bit mask (l - 12) && bit mask (l - 8)
  else if l < 32 then bit mask (4 * ((l - 16) / 8) + (l - 16) % 4)
  else if l < 40 then bit mask (l - 32)
  else if l < 44 then (mask / 2 ^ (4 * ((l - 40) / 2))) % 16 ≠ 0
  else false

/-- Whether a partition cannot form. -/
def State.cannotForm (s : State) (p : Nat) : Bool :=
  let mask := recMask s.mgmt.record p
  ((List.range 4).any fun g => s.dev.groupLost g && (mask / 2 ^ (4 * (g / 2))) % 16 ≠ 0) || s.pow.deadLinks.any fun l => needsLink mask l

/-- Sockets, links, and the partitions that they leave unformed. -/
def State.findParts (s : State) : State :=
  let s := s.pow.sockets.foldl State.socket s
  let s := s.pow.deadLinks.foldl (fun s l => (s.onDev fun d => d.modLink l fun x => { x with failed := true }).log 0x222 none none
    (leBytes 1 l ++ leBytes 8 0)) s
  let lost := (List.range 8).filter fun p => recMask s.mgmt.record p ≠ 0 && s.cannotForm p
  let s := s.onDev fun d => lost.foldl (fun d p => d.modPt p fun q => { q with noPath := true }) d
  let s := if s.dev.chans.any fun c => c.2.retired then s.needsService 2 else s.serviced 2
  if lost.isEmpty then s else s.needsService 7

/-! ### Power-up (Table 21.6). -/

/-- Rails come up, and PWRGD rises: the ceiling returns to the fused maximum, the power-up count advances, and a Byolo that had stopped
starts again (R465, R481). -/
def State.railsUp (s : State) : State :=
  let s := if s.mgmt.failed then s.startByolo else s
  (s.onMgmt fun m => { m with boot := (m.boot + 1) % 2 ^ 16 }).onPow fun w =>
    { w with stage := .held, connected := true, pwrgd := true, ceiling := w.fuseMax, peakW := 0
             alert := !s.mgmt.running && s.mgmt.restarting.isNone }

/-- HBM lanes are repaired (R290), the server cores' time starts from zero (R330), Jormon and the monitor start, and READY is set. -/
def State.startDevice (s : State) : State :=
  s.withStatus fun s =>
    let s := s.takeRecord.findParts.laneFound s.pow.lanes
    let s : State := { s with time := { s.time with cpuStart := s.time.fabric } }
    let s := s.onMgmt fun m => { m.startJormon with stableAt := s.kettle }
    let s := s.onDev fun d => (List.range 8).foldl (fun d p =>
      if recMask s.mgmt.record p = 0 then d else d.modPt p fun q => { q with monitor := s.mgmt.fwVersion.toNat }) d
    let now := s.time.fabric
    (s.onDev fun d => { d with ready := true, halvedAt := now }).onPow fun w =>
      ({ w with stage := .up, doms := (List.range 15).map fun d => (d, { w.getDom d with fastAt := now, slowAt := now / 1000 }) } : Pow).setSp [0]

/-- Reset is released: the firmware checks, and the start; with no accepted slot the device does not leave reset (R474). -/
def State.leaveReset (s : State) : State :=
  let bad (c : Nat) : Nat := Map.get s.pow.badStarts c 0
  let a := s.startComp 1 (bad 1)
  let b := a.1.startComp 3 (bad 3)
  if s.mgmt.running ∧ a.2 ∧ b.2 then b.1.startDevice
  else b.1.onPow fun w => { w with stage := .stopped, alert := true }

/-- PWR_EN is acted on, or ignored until PWRGD has fallen for 2^13 kettle cycles (R500). -/
def Pow.wantsUp (w : Pow) (now : Nat) : Bool :=
  w.stage = .off && w.pwrEn && w.aux && match w.fellAt with | some t => t + 2 ^ 13 ≤ now | none => true

/-- The sequence goes on as far as its conditions hold. -/
def State.powerProceed (s : State) : State :=
  let s := if s.pow.wantsUp s.kettle then s.onPow fun w => { w with stage := .waiting } else s
  let s := if s.pow.stage = .waiting ∧ s.pow.mainOk ∧ s.pow.refclk then s.railsUp else s
  if s.pow.stage = .held ∧ s.pow.resetN ∧ s.mgmt.restarting.isNone then s.leaveReset else s

/-! ### The signals (R488, R492, R497 to R500). -/

def State.powerUp (s : State) (sockets : List (Nat × Option Nat)) (dead : List Nat) (lanes : List LaneFinding) (fails : List (Nat × Nat)) :
    State :=
  if s.pow.pwrEn then s
  else (s.onPow fun w => { w with pwrEn := true, sockets := sockets.filter fun x => x.1 < 52, deadLinks := dead, lanes := lanes,
                                     badStarts := fails }).powerProceed

def State.powerDown (s : State) : State :=
  if !s.pow.pwrEn then s
  else
    let s := s.onPow fun w => { w with pwrEn := false }
    if s.pow.stage = .off then s else s.withStatus State.unpowered

/-- RESET_N low: an L3, which holds at step 4; ignored while an L4 is called for. -/
def State.resetLow (s : State) : State :=
  let s := s.onPow fun w => { w with resetN := false }
  if s.pow.stage ≠ .up ∨ s.mgmt.l4 then s
  else
    s.withStatus fun s =>
      let s := s.callL3
      if s.mgmt.l3Since.isSome then s.onMgmt fun m => { m with l3Held := true } else s

def State.resetHigh (s : State) : State :=
  ((s.onPow fun w => { w with resetN := true }).onMgmt fun m => { m with l3Held := false }).powerProceed

/-- Without AUX_12V the kettle, Byolo and the safety partition stop as well; what flash holds stays. -/
def State.auxGone (s : State) : State :=
  let s := s.unpowered
  (s.onMgmt fun m => { m.resumeLog with
    running := false, failed := false, restarts := [], restarting := none, kept := [], dropped := 0, update := none, spdm := []
    sensors := [], service := m.service &&& 0x03, coolRun := none, replyCode := 0, reply := [] }).onPow fun w =>
      { w with aux := false, alert := false, ceiling := w.fuseMax, inputW := 0, peakW := 0, enforcements := 0, tripCause := 0
               tripSource := 0, tripReading := 0, rdata := 0 }

/-- Input protection disconnects. While main power is up the fast rails leave tolerance: the rail and its reading are free values. -/
def State.disconnect (s : State) (f : InputFault) : State :=
  match f with
  | .auxLost => if s.pow.aux then s.withStatus State.auxGone else s
  | _ =>
    let s := s.onPow fun w => { w with mainOk := match f with | .overCurrent => w.mainOk | _ => false }
    if !s.pow.connected then s
    else
      let n := s.dev.free
      ((s.took 2).onPow fun w => { w with connected := false }).supervisor .voltage (Config.freeWord n).toNat (Config.freeWord (n + 1)).toNat

/-- AUX_12V appears. A missing reference puts the kettle on its internal oscillator (R416). -/
def State.auxPresent (s : State) : State :=
  if s.pow.aux then s
  else
    let s := (s.onPow fun w => { w with aux := true }).startByolo
    let s := if s.pow.refclk then s else (s.onPow fun w => w.setSp [6]).log 0x240 none none []
    s.powerProceed

/-! ### Meanings. -/

/-- POWER_UP (R495): PWR_EN rises; the operands are what Byolo, training and self-test will find (R290, R456, R474,
R503). -/
def execPowerUp (sockets : List (Nat × Option Nat)) (deadLinks : List (Fin 50)) (lanes : List LaneFinding) (fails : List (Nat × Nat))
    (s : State) : Out :=
  .next (s.powerUp sockets (deadLinks.map fun l => l.val) lanes fails)

/-- POWER_DOWN (R497): PWR_EN falls. -/
def execPowerDown (s : State) : Out := .next s.powerDown

/-- RESET_N_LOW (R499, R500). -/
def execResetNLow (s : State) : Out := .next s.resetLow

/-- RESET_N_HIGH (R499). -/
def execResetNHigh (s : State) : Out := .next s.resetHigh

/-- INPUT_DISCONNECT (R492). -/
def execInputDisconnect (f : InputFault) (s : State) : Out := .next (s.disconnect f)

/-- AUX_12V_PRESENT (R495). -/
def execAux12vPresent (s : State) : Out := .next s.auxPresent

/-- REFCLK_RETURN (R416, R495): the reference has been present for 2^10 kettle cycles (log 30). -/
def execRefclkReturn (s : State) : Out := .next ((s.onPow fun w => { w with refclk := true }).powerProceed)

/-- MAIN_INPUT_IN_RANGE (R495). -/
def execMainInputInRange (s : State) : Out := .next ((s.onPow fun w => { w with mainOk := true }).powerProceed)

end Sys2Proof.Machine
end

