-- ==== Sys2Proof/Machine/Xkq.lean ====
section
/-!
DEFINITION. Which instruction words kernel code may execute (R94, R108, R125), and the trap of those that it may not.
-/

namespace Sys2Proof.Machine

/-- The instructions of Xkq (Table 5.8). -/
inductive Xkq where
  | wload | stream | streamt | drain | reload | mov | waitM | waitA | bar | cnt
  | amoaddW | amoxorW | amoaddD | amoxorD | amoswapD | amominD | amomaxD
  | bexp | fit | pin | align | pack | unpack | srnd | topk
deriving DecidableEq, Repr

/-- The instruction that a word of custom-0 encodes. -/
def xkq0 (w : Nat) : Option Xkq :=
  let rd := bits w 11 7
  let f3 := bits w 14 12
  let rs1 := bits w 19 15
  let rs2 := bits w 24 20
  let f7 := bits w 31 25
  match f3 with
  | 0 =>
    match f7 with
    | 0 => some .wload
    | 1 => if rs2 = 0 then some .stream else none
    | 2 => if rs2 = 0 then some .streamt else none
    | 3 => if rs2 = 0 then some .drain else none
    | 4 => if rs2 = 0 then some .reload else none
    | 8 => if rs2 = 0 then some .mov else none
    | 9 => if rs2 = 0 ∧ rd = 0 then some .waitM else none
    | 10 => if rs2 = 0 ∧ rd = 0 then some .waitA else none
    | 12 => if rs2 = 0 ∧ rd = 0 ∧ rs1 = 0 then some .bar else none
    | _ => none
  | 1 => if rs1 = 0 then some .cnt else none
  | 2 => match f7 with | 0 => some .amoaddW | 0x10 => some .amoxorW | _ => none
  | 3 =>
    match f7 with
    | 0 => some .amoaddD
    | 0x10 => some .amoxorD
    | 4 => some .amoswapD
    | 0x40 => some .amominD
    | 0x50 => some .amomaxD
    | _ => none
  | _ => none

/-- The instruction that a word of custom-1 encodes: funct6 and vm stand where custom-0 has funct7. -/
def xkq1 (w : Nat) : Option Xkq :=
  let f3 := bits w 14 12
  let vs1 := bits w 19 15
  let f6 := bits w 31 26
  let vm := bit w 25
  match f3 with
  | 0 =>
    match f6 with
    | 0 => if vm ∧ vs1 = 0 then some .bexp else none
    | 1 => if vs1 = 0 then some .fit else none
    | 2 => if vs1 = 0 then some .pin else none
    | 3 => if vm then some .align else none
    | 4 => if vm then some .pack else none
    | 5 => if vm ∧ vs1 = 0 then some .unpack else none
    | _ => none
  | 4 => match f6 with | 0 => some .srnd | 1 => some .topk | _ => none
  | _ => none

/-- The instruction of Xkq that a word encodes (R108). -/
def xkqOf (w : Nat) : Option Xkq :=
  if w % 128 = 0x0B then xkq0 w else if w % 128 = 0x2B then xkq1 w else none

/-- The CSRs that kernel code may read, and those of them that it may write (R94, R95, Table 5.13; the numbers of those of Zve64x are the
V extension's, log 56). -/
def csrKnown (n : Nat) : Bool := has [0x008, 0x009, 0x00A, 0x00F, 0xC20, 0xC21, 0xC22, 0x800, 0x810, 0x811, 0x812, 0xCC0, 0xCC8] n
def csrWritable (n : Nat) : Bool := csrKnown n && bits n 11 10 ≠ 3

/-- Whether a 32-bit word is an instruction of RV64IM, Zicsr or Zifencei that U-mode executes (R94, R95, log 56). -/
def legalBase (w : Nat) : Bool :=
  let f3 := bits w 14 12
  let f7 := bits w 31 25
  match w % 128 with
  | 0x37 => true
  | 0x17 => true
  | 0x6F => true
  | 0x67 => f3 = 0
  | 0x63 => f3 ≠ 2 && f3 ≠ 3
  | 0x03 => f3 ≠ 7
  | 0x23 => f3 ≤ 3
  | 0x13 => if f3 = 1 then f7 / 2 = 0 else if f3 = 5 then f7 / 2 = 0 || f7 / 2 = 0x10 else true
  | 0x1B => f3 = 0 || (f3 = 1 && f7 = 0) || (f3 = 5 && (f7 = 0 || f7 = 0x20))
  | 0x33 => f7 = 0 || f7 = 1 || (f7 = 0x20 && (f3 = 0 || f3 = 5))
  | 0x3B => (f7 = 0 && has [0, 1, 5] f3) || (f7 = 1 && has [0, 4, 5, 6, 7] f3) || (f7 = 0x20 && (f3 = 0 || f3 = 5))
  | 0x0F => f3 ≤ 1
  | 0x73 =>
    let n := bits w 31 20
    w = 0x73 || w = 0x100073 || (f3 % 4 ≠ 0 && if f3 % 4 = 1 || bits w 19 15 ≠ 0 then csrWritable n else csrKnown n)
  | _ => false

/-- Whether a 16-bit word is a compressed instruction of RV64C without its floating-point forms (R94, log 56). -/
def legalC (w : Nat) : Bool :=
  let f3 := bits w 15 13
  let rd := bits w 11 7
  match w % 4 with
  | 0 => if f3 = 0 then bits w 12 5 ≠ 0 else has [2, 3, 6, 7] f3
  | 1 =>
    match f3 with
    | 1 => rd ≠ 0
    | 3 => bits w 6 2 ≠ 0 || bit w 12
    | 4 => bits w 11 10 ≠ 3 || !bit w 12 || bits w 6 5 ≤ 1
    | _ => true
  | _ =>
    match f3 with
    | 0 => true
    | 2 => rd ≠ 0
    | 3 => rd ≠ 0
    | 4 => w ≠ 0x8002
    | 6 => true
    | 7 => true
    | _ => false

/-- Whether kernel code may execute a word whatever the vector configuration is: base, compressed or Xkq. Of the vector instructions of
Zve64x, whose legality hangs on vtype and vstart, a word alone does not tell. -/
def legalWord (w : Nat) : Bool :=
  if w % 4 ≠ 3 then w < 2 ^ 16 && legalC w else legalBase w || (xkqOf w).isSome

/-- ILLEGAL_INSTRUCTION (Table 5.15): cause 2, with the instruction bits. A word that kernel code may execute is no illegal instruction: the
event does not arise (R94, R108). -/
def execIllegalInstruction (p : Pre) (bits : BitVec 32) (s : State) : Out :=
  .next (if legalWord bits.toNat then s else s.kernelStep p fun i s => s.trap i 2 bits.toNat)

end Sys2Proof.Machine
end

