-- ==== Sys2Proof/Machine/Dispatch.lean ====
section
/-!
DEFINITION. The dispatch: each command's meaning, one arm a command.
-/

namespace Sys2Proof.Machine

def exec (i : Instr) (s : State) : Host.Outcome State Fault Refusal :=
  match i with
  | .kqWload p rd rs1 rs2 => Sys2Proof.Machine.execKqWload p rd rs1 rs2 s
  | .kqStream p rd rs1 => Sys2Proof.Machine.execKqStream p rd rs1 s
  | .kqStreamt p rd rs1 => Sys2Proof.Machine.execKqStreamt p rd rs1 s
  | .kqDrain p rd rs1 => Sys2Proof.Machine.execKqDrain p rd rs1 s
  | .kqReload p rd rs1 => Sys2Proof.Machine.execKqReload p rd rs1 s
  | .arrayOperationStart cl ticket upsets => Sys2Proof.Machine.execArrayOperationStart cl ticket upsets s
  | .arrayOperationDone cl ticket => Sys2Proof.Machine.execArrayOperationDone cl ticket s
  | .activityRamp cl => Sys2Proof.Machine.execActivityRamp cl s
  | .moverCopy p rd rs1 => Sys2Proof.Machine.execMoverCopy p rd rs1 s
  | .moverConvert p rd rs1 => Sys2Proof.Machine.execMoverConvert p rd rs1 s
  | .merge p rd rs1 => Sys2Proof.Machine.execMerge p rd rs1 s
  | .moverRequestComplete cl tag only => Sys2Proof.Machine.execMoverRequestComplete cl tag only s
  | .kqWaitM p rs1 => Sys2Proof.Machine.execKqWaitM p rs1 s
  | .kqWaitA p rs1 => Sys2Proof.Machine.execKqWaitA p rs1 s
  | .kqBar p => Sys2Proof.Machine.execKqBar p s
  | .kqCnt p rd idx => Sys2Proof.Machine.execKqCnt p rd idx s
  | .kqAmoaddW p rd rs1 rs2 => Sys2Proof.Machine.execKqAmoaddW p rd rs1 rs2 s
  | .kqAmoxorW p rd rs1 rs2 => Sys2Proof.Machine.execKqAmoxorW p rd rs1 rs2 s
  | .kqAmoaddD p rd rs1 rs2 => Sys2Proof.Machine.execKqAmoaddD p rd rs1 rs2 s
  | .kqAmoxorD p rd rs1 rs2 => Sys2Proof.Machine.execKqAmoxorD p rd rs1 rs2 s
  | .kqAmoswapD p rd rs1 rs2 => Sys2Proof.Machine.execKqAmoswapD p rd rs1 rs2 s
  | .kqAmominD p rd rs1 rs2 => Sys2Proof.Machine.execKqAmominD p rd rs1 rs2 s
  | .kqAmomaxD p rd rs1 rs2 => Sys2Proof.Machine.execKqAmomaxD p rd rs1 rs2 s
  | .kqBexp p vd vs2 => Sys2Proof.Machine.execKqBexp p vd vs2 s
  | .kqFit p vd vs2 vm => Sys2Proof.Machine.execKqFit p vd vs2 vm s
  | .kqPin p vd vs2 vm => Sys2Proof.Machine.execKqPin p vd vs2 vm s
  | .kqAlign p vd vs2 vs1 => Sys2Proof.Machine.execKqAlign p vd vs2 vs1 s
  | .kqPack p vd vs2 vs1 => Sys2Proof.Machine.execKqPack p vd vs2 vs1 s
  | .kqUnpack p vd vs2 => Sys2Proof.Machine.execKqUnpack p vd vs2 s
  | .kqSrnd p vd vs2 rs1 vm => Sys2Proof.Machine.execKqSrnd p vd vs2 rs1 vm s
  | .kqTopk p vd vs2 rs1 vm => Sys2Proof.Machine.execKqTopk p vd vs2 rs1 vm s
  | .kqcvtWrite p op rd rs1 => Sys2Proof.Machine.execKqcvtWrite p op rd rs1 s
  | .fenceI p => Sys2Proof.Machine.execFenceI p s
  | .kernelLoad p rd rs1 imm log2 signed chk => Sys2Proof.Machine.execKernelLoad p rd rs1 imm log2 signed chk s
  | .kernelStore p rs1 rs2 imm log2 chk => Sys2Proof.Machine.execKernelStore p rs1 rs2 imm log2 chk s
  | .ecall p => Sys2Proof.Machine.execEcall p s
  | .ebreak p => Sys2Proof.Machine.execEbreak p s
  | .clusterExit p => Sys2Proof.Machine.execClusterExit p s
  | .kernelRunLimit part => Sys2Proof.Machine.execKernelRunLimit part s
  | .ccFillComplete e way victim => Sys2Proof.Machine.execCcFillComplete e way victim s
  | .ccClean e set chks => Sys2Proof.Machine.execCcClean e set chks s
  | .ccInvalidate e set chks => Sys2Proof.Machine.execCcInvalidate e set chks s
  | .ccMaintenanceDone e set => Sys2Proof.Machine.execCcMaintenanceDone e set s
  | .ccWayDisabled e way chks => Sys2Proof.Machine.execCcWayDisabled e way chks s
  | .ccFailCountHalving e way => Sys2Proof.Machine.execCcFailCountHalving e way s
  | .attach mb => Sys2Proof.Machine.execAttach mb s
  | .reattach mb => Sys2Proof.Machine.execReattach mb s
  | .resendDone a => Sys2Proof.Machine.execResendDone a s
  | .detach mb => Sys2Proof.Machine.execDetach mb s
  | .ctxCreate mb => Sys2Proof.Machine.execCtxCreate mb s
  | .ctxDestroy mb => Sys2Proof.Machine.execCtxDestroy mb s
  | .teardownReply n => Sys2Proof.Machine.execTeardownReply n s
  | .rangeMap mb => Sys2Proof.Machine.execRangeMap mb s
  | .rangeUnmap mb => Sys2Proof.Machine.execRangeUnmap mb s
  | .rangeUnmapDone n granule => Sys2Proof.Machine.execRangeUnmapDone n granule s
  | .frameClass mb => Sys2Proof.Machine.execFrameClass mb s
  | .objRegister mb => Sys2Proof.Machine.execObjRegister mb s
  | .objPolicy mb => Sys2Proof.Machine.execObjPolicy mb s
  | .submit mb split => Sys2Proof.Machine.execSubmit mb split s
  | .submitList mb split => Sys2Proof.Machine.execSubmitList mb split s
  | .abort mb => Sys2Proof.Machine.execAbort mb s
  | .abortSettled n seq => Sys2Proof.Machine.execAbortSettled n seq s
  | .resumeRetry mb split => Sys2Proof.Machine.execResumeRetry mb split s
  | .resumeFail mb => Sys2Proof.Machine.execResumeFail mb s
  | .gateAlloc mb => Sys2Proof.Machine.execGateAlloc mb s
  | .gateFree mb => Sys2Proof.Machine.execGateFree mb s
  | .statsReadContext mb => Sys2Proof.Machine.execStatsReadContext mb s
  | .statsReadPartition mb => Sys2Proof.Machine.execStatsReadPartition mb s
  | .statsReadDevice mb => Sys2Proof.Machine.execStatsReadDevice mb s
  | .queryDevice mb => Sys2Proof.Machine.execQueryDevice mb s
  | .queryContext mb => Sys2Proof.Machine.execQueryContext mb s
  | .queryObject mb => Sys2Proof.Machine.execQueryObject mb s
  | .queryGate mb => Sys2Proof.Machine.execQueryGate mb s
  | .queryRange mb => Sys2Proof.Machine.execQueryRange mb s
  | .note mb => Sys2Proof.Machine.execNote mb s
  | .layoutRead mb => Sys2Proof.Machine.execLayoutRead mb s
  | .layoutStage mb => Sys2Proof.Machine.execLayoutStage mb s
  | .layoutCommit mb => Sys2Proof.Machine.execLayoutCommit mb s
  | .layoutDiscard mb => Sys2Proof.Machine.execLayoutDiscard mb s
  | .gemm part => Sys2Proof.Machine.execGemm part s
  | .gemmT part => Sys2Proof.Machine.execGemmT part s
  | .route part => Sys2Proof.Machine.execRoute part s
  | .dispatch part => Sys2Proof.Machine.execDispatch part s
  | .combine part => Sys2Proof.Machine.execCombine part s
  | .partialLands part which => Sys2Proof.Machine.execPartialLands part which s
  | .convert part => Sys2Proof.Machine.execConvert part s
  | .copy part => Sys2Proof.Machine.execCopy part s
  | .copyHostDst part => Sys2Proof.Machine.execCopyHostDst part s
  | .reduce part => Sys2Proof.Machine.execReduce part s
  | .fill part => Sys2Proof.Machine.execFill part s
  | .kernel part => Sys2Proof.Machine.execKernel part s
  | .steep n => Sys2Proof.Machine.execSteep n s
  | .sink n => Sys2Proof.Machine.execSink n s
  | .sinkKeep n => Sys2Proof.Machine.execSinkKeep n s
  | .pin n => Sys2Proof.Machine.execPin n s
  | .unpin n => Sys2Proof.Machine.execUnpin n s
  | .gateSignal n => Sys2Proof.Machine.execGateSignal n s
  | .gateWait n => Sys2Proof.Machine.execGateWait n s
  | .fence n => Sys2Proof.Machine.execFence n s
  | .stepMark n => Sys2Proof.Machine.execStepMark n s
  | .descriptorDispatch n => Sys2Proof.Machine.execDescriptorDispatch n s
  | .partStart e => Sys2Proof.Machine.execPartStart e s
  | .partCommit part chks => Sys2Proof.Machine.execPartCommit part chks s
  | .commandFailureSettled n seq => Sys2Proof.Machine.execCommandFailureSettled n seq s
  | .rangeCacheFill e part w => Sys2Proof.Machine.execRangeCacheFill e part w s
  | .faultEntryOpen e => Sys2Proof.Machine.execFaultEntryOpen e s
  | .riseRoom pt obj => Sys2Proof.Machine.execRiseRoom pt obj s
  | .infuserChunkDone h fault => Sys2Proof.Machine.execInfuserChunkDone h fault s
  | .riseComplete pt obj => Sys2Proof.Machine.execRiseComplete pt obj s
  | .residencyDeadlock pt obj => Sys2Proof.Machine.execResidencyDeadlock pt obj s
  | .sinkReleasePoint pt obj => Sys2Proof.Machine.execSinkReleasePoint pt obj s
  | .drainEnd pt obj => Sys2Proof.Machine.execDrainEnd pt obj s
  | .shadowFill pt obj granule n => Sys2Proof.Machine.execShadowFill pt obj granule n s
  | .homeWrite id => Sys2Proof.Machine.execHomeWrite id s
  | .homeRead r pa len chk => Sys2Proof.Machine.execHomeRead r pa len chk s
  | .patrolScrub pa chk => Sys2Proof.Machine.execPatrolScrub pa chk s
  | .rowRepair stack pc bank row => Sys2Proof.Machine.execRowRepair stack pc bank row s
  | .pseudoChannelRetirement stack pc => Sys2Proof.Machine.execPseudoChannelRetirement stack pc s
  | .hbmTemperatureRead stack quarter => Sys2Proof.Machine.execHbmTemperatureRead stack quarter s
  | .refreshStepDown stack => Sys2Proof.Machine.execRefreshStepDown stack s
  | .caddyRetry chan succeeded => Sys2Proof.Machine.execCaddyRetry chan succeeded s
  | .caddyChannelRetired chan => Sys2Proof.Machine.execCaddyChannelRetired chan s
  | .stripeBufferFlush h stripe => Sys2Proof.Machine.execStripeBufferFlush h stripe s
  | .linkReplay link succeeded => Sys2Proof.Machine.execLinkReplay link succeeded s
  | .linkRetrained link badLanes => Sys2Proof.Machine.execLinkRetrained link badLanes s
  | .linkFailed link => Sys2Proof.Machine.execLinkFailed link s
  | .portRequest port requester b => Sys2Proof.Machine.execPortRequest port requester b s
  | .arbiterGrant port => Sys2Proof.Machine.execArbiterGrant port s
  | .requesterAbsent port requester absent => Sys2Proof.Machine.execRequesterAbsent port requester absent s
  | .serverCoreLoad c h va log2 => Sys2Proof.Machine.execServerCoreLoad c h va log2 s
  | .serverCoreStore c h va log2 v => Sys2Proof.Machine.execServerCoreStore c h va log2 v s
  | .storePerformed c => Sys2Proof.Machine.execStorePerformed c s
  | .serverCoreAmo c h va dbl aq rl op v => Sys2Proof.Machine.execServerCoreAmo c h va dbl aq rl op v s
  | .lr c h va dbl aq rl => Sys2Proof.Machine.execLr c h va dbl aq rl s
  | .sc c h va dbl aq rl v => Sys2Proof.Machine.execSc c h va dbl aq rl v s
  | .serverCoreFence c predW => Sys2Proof.Machine.execServerCoreFence c predW s
  | .ioRegionAccess c h va log2 store => Sys2Proof.Machine.execIoRegionAccess c h va log2 store s
  | .cboZero c h va => Sys2Proof.Machine.execCboZero c h va s
  | .cboClean c h va => Sys2Proof.Machine.execCboClean c h va s
  | .cboFlush c h va => Sys2Proof.Machine.execCboFlush c h va s
  | .cboInval c h va => Sys2Proof.Machine.execCboInval c h va s
  | .prefetch c h va => Sys2Proof.Machine.execPrefetch c h va s
  | .wrsNto c => Sys2Proof.Machine.execWrsNto c s
  | .wrsSto c => Sys2Proof.Machine.execWrsSto c s
  | .bootStart pt => Sys2Proof.Machine.execBootStart pt s
  | .bootHalt pt => Sys2Proof.Machine.execBootHalt pt s
  | .sbiSrstShutdown c => Sys2Proof.Machine.execSbiSrstShutdown c s
  | .sbiSrstReboot c => Sys2Proof.Machine.execSbiSrstReboot c s
  | .hsmStart c hart addr arg => Sys2Proof.Machine.execHsmStart c hart addr arg s
  | .hsmSuspend c retentive => Sys2Proof.Machine.execHsmSuspend c retentive s
  | .imsicWrite c h va v => Sys2Proof.Machine.execImsicWrite c h va v s
  | .hartLost c => Sys2Proof.Machine.execHartLost c s
  | .windowWrite a off data => Sys2Proof.Machine.execWindowWrite a off data s
  | .windowRead a off len => Sys2Proof.Machine.execWindowRead a off len s
  | .windowBind a => Sys2Proof.Machine.execWindowBind a s
  | .mailboxSlotWrite a mb off data => Sys2Proof.Machine.execMailboxSlotWrite a mb off data s
  | .doorbell a mb size8 upper v => Sys2Proof.Machine.execDoorbell a mb size8 upper v s
  | .outflowAck a v => Sys2Proof.Machine.execOutflowAck a v s
  | .registerReadClear who addr size8 => Sys2Proof.Machine.execRegisterReadClear who addr size8 s
  | .registerWrite who addr op rd rs1 size8 v => Sys2Proof.Machine.execRegisterWrite who addr op rd rs1 size8 v s
  | .unsupportedRequest a => Sys2Proof.Machine.execUnsupportedRequest a s
  | .outflowItemComplete a res => Sys2Proof.Machine.execOutflowItemComplete a res s
  | .ringEntryWrite a ring => Sys2Proof.Machine.execRingEntryWrite a ring s
  | .interruptHoldoffEnd n => Sys2Proof.Machine.execInterruptHoldoffEnd n s
  | .attachmentLoss a kind => Sys2Proof.Machine.execAttachmentLoss a kind s
  | .orphanHoldExpiry a => Sys2Proof.Machine.execOrphanHoldExpiry a s
  | .connectRequest port ctx gen key mtu => Sys2Proof.Machine.execConnectRequest port ctx gen key mtu s
  | .send q data => Sys2Proof.Machine.execSend q data s
  | .sendWithImmediate q => Sys2Proof.Machine.execSendWithImmediate q s
  | .rdmaWrite q va rkey data => Sys2Proof.Machine.execRdmaWrite q va rkey data s
  | .rdmaWriteWithImmediate q => Sys2Proof.Machine.execRdmaWriteWithImmediate q s
  | .rdmaRead q va rkey len => Sys2Proof.Machine.execRdmaRead q va rkey len s
  | .compareAndSwap q => Sys2Proof.Machine.execCompareAndSwap q s
  | .fetchAndAdd q => Sys2Proof.Machine.execFetchAndAdd q s
  | .arpRequest port ip => Sys2Proof.Machine.execArpRequest port ip s
  | .neighborSolicitation port ip => Sys2Proof.Machine.execNeighborSolicitation port ip s
  | .echoRequest port v6 ip => Sys2Proof.Machine.execEchoRequest port v6 ip s
  | .frameDiscard port => Sys2Proof.Machine.execFrameDiscard port s
  | .congestionExperienced q => Sys2Proof.Machine.execCongestionExperienced q s
  | .cnpReceived q => Sys2Proof.Machine.execCnpReceived q s
  | .rateLimitRaise q => Sys2Proof.Machine.execRateLimitRaise q s
  | .pfcFrame port prio pause => Sys2Proof.Machine.execPfcFrame port prio pause s
  | .receiveBufferThreshold port fill => Sys2Proof.Machine.execReceiveBufferThreshold port fill s
  | .portLinkDown port => Sys2Proof.Machine.execPortLinkDown port s
  | .engineClockGate e => Sys2Proof.Machine.execEngineClockGate e s
  | .enginePowerGate e => Sys2Proof.Machine.execEnginePowerGate e s
  | .engineWake e => Sys2Proof.Machine.execEngineWake e s
  | .terracePllOff t => Sys2Proof.Machine.execTerracePllOff t s
  | .terracePllWake t => Sys2Proof.Machine.execTerracePllWake t s
  | .dormantWake cause => Sys2Proof.Machine.execDormantWake cause s
  | .fastLoop d estimate => Sys2Proof.Machine.execFastLoop d estimate s
  | .droop t => Sys2Proof.Machine.execDroop t s
  | .slowLoop d measured estimate dieQ memQ => Sys2Proof.Machine.execSlowLoop d measured estimate dieQ memQ s
  | .divergenceHoldEnd d => Sys2Proof.Machine.execDivergenceHoldEnd d s
  | .hardwareTrip cause source reading => Sys2Proof.Machine.execHardwareTrip cause source reading s
  | .ceilingEnforcement inputW => Sys2Proof.Machine.execCeilingEnforcement inputW s
  | .ceilingRelease inputW => Sys2Proof.Machine.execCeilingRelease inputW s
  | .ceilingStop inputW => Sys2Proof.Machine.execCeilingStop inputW s
  | .trayCeilingWrite w => Sys2Proof.Machine.execTrayCeilingWrite w s
  | .trayCapLower level => Sys2Proof.Machine.execTrayCapLower level s
  | .supervisorFault f source reading => Sys2Proof.Machine.execSupervisorFault f source reading s
  | .commandReplay part cls => Sys2Proof.Machine.execCommandReplay part cls s
  | .engineReset e cls test => Sys2Proof.Machine.execEngineReset e cls test s
  | .engineResetLimit e => Sys2Proof.Machine.execEngineResetLimit e s
  | .progressWatchdog e => Sys2Proof.Machine.execProgressWatchdog e s
  | .contextRollback n cause imageOk => Sys2Proof.Machine.execContextRollback n cause imageOk s
  | .partitionAlarm pt cause badImages tests => Sys2Proof.Machine.execPartitionAlarm pt cause badImages tests s
  | .l2BoundExpiry pt => Sys2Proof.Machine.execL2BoundExpiry pt s
  | .deviceReset linksTrain badWays badImages lanes => Sys2Proof.Machine.execDeviceReset linksTrain badWays badImages lanes s
  | .dumpTruncated t => Sys2Proof.Machine.execDumpTruncated t s
  | .jormonCoreLost h core => Sys2Proof.Machine.execJormonCoreLost h core s
  | .byoloRestart cause => Sys2Proof.Machine.execByoloRestart cause s
  | .logRead r first count => Sys2Proof.Machine.execLogRead r first count s
  | .dumpList r t => Sys2Proof.Machine.execDumpList r t s
  | .dumpRead r t slot off => Sys2Proof.Machine.execDumpRead r t slot off s
  | .summaryRead r slot idx => Sys2Proof.Machine.execSummaryRead r slot idx s
  | .serviceRead r => Sys2Proof.Machine.execServiceRead r s
  | .getVersion r => Sys2Proof.Machine.execGetVersion r s
  | .getCapabilities r => Sys2Proof.Machine.execGetCapabilities r s
  | .negotiateAlgorithms r asym hash => Sys2Proof.Machine.execNegotiateAlgorithms r asym hash s
  | .getDigests r => Sys2Proof.Machine.execGetDigests r s
  | .getCertificate r slot off len => Sys2Proof.Machine.execGetCertificate r slot off len s
  | .challenge r slot nonce => Sys2Proof.Machine.execChallenge r slot nonce s
  | .getMeasurements r idx => Sys2Proof.Machine.execGetMeasurements r idx s
  | .pldmSensorRead r sensor => Sys2Proof.Machine.execPldmSensorRead r sensor s
  | .requestUpdate r => Sys2Proof.Machine.execRequestUpdate r s
  | .updateComponent r img => Sys2Proof.Machine.execUpdateComponent r img s
  | .verifyComplete r component => Sys2Proof.Machine.execVerifyComplete r component s
  | .activateFirmware r starts => Sys2Proof.Machine.execActivateFirmware r starts s
  | .cancelUpdate r => Sys2Proof.Machine.execCancelUpdate r s
  | .handover n => Sys2Proof.Machine.execHandover n s
  | .powerUp sockets deadLinks lanes fails => Sys2Proof.Machine.execPowerUp sockets deadLinks lanes fails s
  | .inputDisconnect f => Sys2Proof.Machine.execInputDisconnect f s
  | .perstNRelease a => Sys2Proof.Machine.execPerstNRelease a s
  | .illegalInstruction p bits => Sys2Proof.Machine.execIllegalInstruction p bits s
  | .vectorLoad p vd rs1 mode log2 nf vm => Sys2Proof.Machine.execVectorLoad p vd rs1 mode log2 nf vm s
  | .vectorStore p vs3 rs1 mode log2 nf vm => Sys2Proof.Machine.execVectorStore p vs3 rs1 mode log2 nf vm s
  | .hartTimerInterrupt c => Sys2Proof.Machine.execHartTimerInterrupt c s
  | .portLinkUp port at200 => Sys2Proof.Machine.execPortLinkUp port at200 s
  | .retransmissionTimeout q => Sys2Proof.Machine.execRetransmissionTimeout q s
  | .acknowledgementReceived q a => Sys2Proof.Machine.execAcknowledgementReceived q a s
  | .dlActive a speed width flit => Sys2Proof.Machine.execDlActive a speed width flit s
  | .coolantReport inletQ flowTenths => Sys2Proof.Machine.execCoolantReport inletQ flowTenths s
  | .periodMark => Sys2Proof.Machine.execPeriodMark s
  | .refclkLost => Sys2Proof.Machine.execRefclkLost s
  | .dormantEntry => Sys2Proof.Machine.execDormantEntry s
  | .l3BoundExpiry => Sys2Proof.Machine.execL3BoundExpiry s
  | .trayPowerCycle => Sys2Proof.Machine.execTrayPowerCycle s
  | .spRequestDeviceReset => Sys2Proof.Machine.execSpRequestDeviceReset s
  | .spRequestPowerRemoval => Sys2Proof.Machine.execSpRequestPowerRemoval s
  | .fuseRaise => Sys2Proof.Machine.execFuseRaise s
  | .powerDown => Sys2Proof.Machine.execPowerDown s
  | .resetNLow => Sys2Proof.Machine.execResetNLow s
  | .resetNHigh => Sys2Proof.Machine.execResetNHigh s
  | .usageHalving => Sys2Proof.Machine.execUsageHalving s
  | .refclkReturn => Sys2Proof.Machine.execRefclkReturn s
  | .aux12vPresent => Sys2Proof.Machine.execAux12vPresent s
  | .mainInputInRange => Sys2Proof.Machine.execMainInputInRange s

end Sys2Proof.Machine
end

