-- ==== Sys2Proof/Machine/Tick.lean ====
section
/-!
DEFINITION. One fabric cycle of elapsed time, which passes when no command waits: the clocks, and what counts them (log 2; R88, R91, R93,
R126, R231, R355, R368, R372, R373, R418, R420, R427, R432, R435, R438, R458, R465, R495).
-/

namespace Sys2Proof.Machine

/-! ### The array clock of a terrace (R5, R415, R427). -/

/-- Core cycles of one cluster; its array cycles, where its array has nothing to do, are idle ones (R93). -/
def Cluster.cyclesPass (c : Cluster) (arr core : Nat) : Cluster :=
  let c := { c with
    cycles := min max64 (c.cycles + core)
    ccBlocked := min max64 (c.ccBlocked + match c.stall with | .blocked _ _ _ => core | _ => 0) }
  if c.rests then c.classed 3 arr else c

/-- Whether an access of a part is held by a fault whose record is in the fault queue (R266). -/
def Dev.inQueue (d : Dev) (u : Nat) (p : Part) : Bool :=
  match d.getCtx p.ctx with
  | some c => (d.getPt c.pt).faults.any fun f => f.held.any fun h => h.1 = u
  | none => false

/-- Whether a fault record of a part is in its engine's fault register, or an access waits behind it (R272). -/
def Dev.inRegister (d : Dev) (u : Nat) (p : Part) : Bool :=
  let e := d.getEng (eIdx p.eng)
  e.faultReg.any (fun r => r.part = some u) || e.faultWait.any fun r => r.part = some u

/-- Whether a part is held under R208 or R224, or by translation faults whose records are all in the fault queue (R274, R458). -/
def Dev.partHeld (d : Dev) (u : Nat) (p : Part) : Bool :=
  let pt := match d.getCtx p.ctx with | some c => c.pt | none => 0
  let held : Bool := d.inQueue u p || !(d.runWaits u).isEmpty || !(d.shadowWaits p pt).isEmpty
  !d.inRegister u p && held && d.stuck u p

/-- Array cycles of an engine: idleness, and the count without progress. -/
def Dev.runEngine (d : Dev) (e arr core : Nat) : Dev :=
  let x := d.getEng e
  match x.power with
  | .powerGated => d
  | .clockGated => d.modEng e fun x => { x with idleArr := if x.queue.isEmpty then x.idleArr + arr else 0 }
  | .running =>
    let stuck : Bool := !x.executing.isEmpty &&
      x.executing.any fun u => match d.getPart u with | some p => !d.partHeld u p | none => false
    let d := d.modEng e fun x => { x with
      idleArr := if d.engIdle e then x.idleArr + arr else 0, progress := if stuck then x.progress + arr else x.progress }
    (List.range 20).foldl (fun d k => d.modCl (20 * e + k) fun c => c.cyclesPass arr core) d

/-- A terrace in no partition is power-gated and its PLL is off (R359, R418). -/
def Dev.idleTerrace (d : Dev) (t : Nat) : Dev :=
  if (d.getTerr t).pllOff then d
  else (List.range 5).foldl (fun d k => d.modEng (5 * t + k) Engine.unpowered) (d.modTerr t fun x => { x with pllOff := true })

/-- A fabric cycle of a terrace: its array clock runs at 2 n / 16 cycles, halved while a droop lasts, and in each the arrays run their operations. -/
def State.runTerrace (s : State) (t : Nat) : State :=
  let x := s.dev.getTerr t
  if (s.mgmt.ptOf t).isNone then s.onDev fun d => d.idleTerrace t
  else if x.pllOff then s
  else
    let n := (s.pow.getDom t).step
    let now := x.arr16 + if x.droop = 0 then 2 * n else n
    let arr := now / 16 - x.arr16 / 16
    let core := now / 32 - x.arr16 / 32
    let gated : Bool := (List.range 5).all fun k => (s.dev.getEng (5 * t + k)).power = .powerGated
    let on := (List.range 5).filter fun k => (s.dev.getEng (5 * t + k)).power = .running
    let busy := on.flatMap fun k => ((List.range 20).map fun j => 20 * (5 * t + k) + j).filter fun i => !(s.dev.getCl i).rests
    let s := s.onDev fun d => (List.range 5).foldl (fun d k => d.runEngine (5 * t + k) arr core)
      (d.modTerr t fun x => { x with arr16 := now, window := x.window + arr, droop := x.droop - arr, allGated := if gated then x.allGated + 1 else 0 })
    busy.foldl (fun s i => (List.range arr).foldl (fun s _ => s.arrCycle i) s) s

/-! ### The server-core clocks (R107, R322, R415). -/

/-- Eightieths of a server-core cycle between two halvings of the ways' counts: 2^30 cycles. -/
def halvingSpan : Nat := 80 * 2 ^ 30

/-- A fabric cycle of a CPU die: 1.8 core cycles at its full step. The counts of its ways halve every 2^30 core cycles. -/
def State.runCpu (s : State) (q : Nat) : State :=
  let x := Map.get s.dev.cpus q {}
  let n := x.cyc + 9 * (s.pow.getDom (8 + q)).step
  if n < halvingSpan then s.onDev fun d => { d with cpus := Map.put d.cpus q { x with cyc := n } }
  else s.onDev fun d => { d with
    cpus := Map.put d.cpus q { x with cyc := n - halvingSpan, wayFails := waysHalve x.wayFails }
    cores := d.cores.map fun c => (c.1, if c.1 / 48 = q then { c.2 with wayFails := waysHalve c.2.wayFails } else c.2) }

/-! ### Occupancy (R368), in units of 2^-10 fabric cycles, rounded down. -/

def Dev.occupy (d : Dev) : Dev :=
  (d.parts.filter fun p => p.2.stage = .executing).foldl (fun d p =>
    let k := ((d.sharers p.2.eng).map fun e => (d.getEng e).executing.length).sum
    (d.modCtx p.2.ctx fun c => { c with usage := c.usage + 1024 / max 1 k }).countCtx p.2.ctx 3 (1024 / max 1 k)) d

/-! ### Stall counters (R231, Table 8.8). -/

/-- Whether an access of a part waits on a translation fault: its record is in the fault queue, held by Jormon, or still with the
engine (R266, R268, R272). -/
def Dev.faultHeld (d : Dev) (u : Nat) (p : Part) (pt : Nat) : Bool :=
  d.inQueue u p || (d.getPt pt).heldRecs.any (fun r => r.part = some u) || d.inRegister u p

/-- Objects that a part waits for: those of its planes where it waits to start, and those that its run-time accesses name. -/
def Dev.partWaits (d : Dev) (u : Nat) (p : Part) (pt : Nat) : List Nat :=
  (if p.stage = .queued then d.startWaits p pt else []) ++ d.runWaits u

/-- Whether an object waits on a sink of itself, or its rise or a shadow write waits for room. -/
def Obj.conflicted (o : Obj) : Bool :=
  o.sinkOp.isSome || o.conflict || o.shadowWait ≠ 0 || match o.rise with | some r => !r.room | none => false

/-- Whether a chunk of an object's rise is queued behind other chunks. -/
def State.chunkBehind (s : State) (pt num : Nat) (o : Obj) : Bool :=
  (List.range 4).any fun h => o.home / 4 = h / 2 && (o.nextRise h).isSome &&
    match s.infuserNext h with | some x => x.1 ≠ pt || x.2.2.1 ≠ num | none => false

/-- Whether the weir holds an engine's terrace, or a headgate of its quad. -/
def Pow.weirHolds (w : Pow) (t : Nat) : Bool :=
  (w.getDom t).step < 16 || (w.getDom t).partHold || (w.getDom (10 + t / 4 * 2)).step < 16 || (w.getDom (11 + t / 4 * 2)).step < 16

/-- The stall counter that a part adds to in a cycle: the first cause of Table 8.8 that applies. A steep that nothing else holds back is held
to the caddy bandwidth that its partition has (log 39). -/
def State.stallOf (s : State) (u : Nat) (p : Part) (pt : Nat) : Option Nat :=
  let objs := s.dev.partWaits u p pt ++ s.dev.shadowWaits p pt
  let obj (f : Nat → Obj → Bool) : Bool := objs.any fun o => match s.dev.getObj pt o with | some y => f o y | none => false
  if (p.absorbed.isSome ∧ !p.ran) ∨ obj fun _ o => match o.rise with | some r => r.redo | none => false then some 0x14
  else if s.dev.faultHeld u p pt then some 0x15
  else if objs.isEmpty then none
  else if obj fun _ o => o.conflicted then some 0x17
  else if obj fun n o => s.chunkBehind pt n o then some 0x18
  else if s.pow.weirHolds p.eng.t.val then some 0x1A
  else if obj fun _ o => s.dev.revokedTo o.home then some 0x1B
  else some 0x19

/-- Every part that waits counts once, and a context whose oldest descriptor waits for gates alone counts once. -/
def State.stalls (s : State) : State :=
  let of (p : Nat × Part) : Option (Nat × Nat) :=
    match s.dev.getCtx p.2.ctx with
    | some c => if p.2.live then (s.stallOf p.1 p.2 c.pt).map fun k => (p.2.ctx, k) else none
    | none => none
  let gates := s.dev.ctxs.filterMap fun c =>
    match s.dev.nextUp c.1 with
    | some x => if s.dev.gatesMet c.1 x then none else some (c.1, 0x16)
    | none => none
  s.onDev fun d => (d.parts.filterMap of ++ gates).foldl (fun d k => d.countCtx k.1 k.2 1) d

/-! ### Guarantee shortfall (R372, R373, R432). -/

/-- Causes that a partition's resources fall short of their nominal rates for: WEIR, ENGINE, CADDY, LINK in bits 0 to 3. -/
def State.shortCauses (s : State) (p : Nat) : Nat :=
  let ts := s.mgmt.terraces p
  let mask := recMask s.mgmt.record p
  let weir : Bool := ts.any fun t => (s.pow.getDom t).short || s.pow.spStatus.getLsbD 2
  let engine : Bool := ts.any fun t => 2 ≤ (s.dev.getTerr t).fenced.length
  let caddy : Bool := s.dev.chans.any fun c => c.2.retired && ts.any fun t => t / 4 = c.1 / 26
  let link : Bool := s.dev.links.any fun l => !l.2.half.isEmpty && needsLink mask l.1
  flagAt weir 0 + flagAt engine 1 + flagAt caddy 2 + flagAt link 3

/-- Whether a context has a dispatchable descriptor or an executing part. -/
def Dev.backlogged (d : Dev) (n : Nat) : Bool :=
  (d.dispatchable n).isSome || d.parts.any fun p => p.2.ctx = n && p.2.stage = .executing

/-- The flags of a statistics block take the causes. -/
def Stats.causes (x : Stats) (k : Nat) : Stats := { x with live := Map.put x.live 0x1E (Map.get x.live 0x1E 0 ||| k * 2 ^ 8) }

/-- One cycle in which a context is in shortfall; the first of a step posts the event. -/
def State.shortfall (s : State) (n k : Nat) : State :=
  match s.dev.getCtx n with
  | none => s
  | some c =>
    let s := s.onDev fun d => d.modCtx n fun c => { c with stats := (c.stats.count 0x13 1).causes k, shortPosted := true }
    if c.shortPosted then s else s.event n 5 k 0 []

/-- Shortfalls of a cycle. -/
def State.shortfalls (s : State) : State :=
  (List.range 8).foldl (fun s p =>
    let k := s.shortCauses p
    if k = 0 then s
    else
      let who := (s.dev.ctxsOf p).filter fun c => s.dev.backlogged c.1
      if who.isEmpty then s
      else (who.foldl (fun s c => s.shortfall c.1 k) s).onDev fun d => d.countPt p 0xA 1) s

/-! ### Waits for room, and zeroing (R223, R362). -/

/-- A wait for room runs from the last cycle in which something could make room; a partition that LAYOUT_WRITE formed is zeroed. -/
def State.waits (s : State) : State :=
  let now := max 1 s.time.fabric
  s.onDev fun d => { d with partns := d.partns.map fun p => (p.1, { p.2 with
    unformed := false
    objs := p.2.objs.map fun o =>
      let can (skip : List Nat) : Bool := d.canProgress p.1 o.2.home o.2.lean skip
      let rise : Option Rise := o.2.rise.map fun r => if r.waits ≠ 0 ∧ can r.tried then { r with waits := now } else r
      (o.1, { o.2 with
        rise := rise, shadowWait := if o.2.shadowWait ≠ 0 ∧ can o.2.shadowTried then now else o.2.shadowWait }) }) }

/-! ### The kettle (R416). -/

/-- A kettle cycle: orphan holds, a DETACH whose outflow is drained now, the coolant, a restart of Byolo, the dormancy's, the input
power's and the enforcement's counts, the power-up. -/
def State.kettleCycle (s : State) : State :=
  let s := s.onDev fun d => { d with atts := d.atts.map fun a => (a.1, { a.2 with orphanLeft := a.2.orphanLeft - 1 }) }
  let s := (List.range 8).foldl State.detachEnd s.coolantEnd.restartEnd
  let quiet := s.quiet
  let s := s.onPow fun w => { w with
    dormantRun := if quiet then w.dormantRun + 1 else 0, enfRun := if w.spStatus.getLsbD 2 then w.enfRun + 1 else 0
    overRun := if 105 * w.ceilingNow < 100 * w.inputW then w.overRun + 1 else 0
    underRun := if w.inputW ≤ w.ceilingNow then w.underRun + 1 else 0 }
  s.powerProceed

/-- The data path's share of a cycle: while its fast clocks run and it is not dormant. -/
def State.fastCycle (s : State) : State :=
  if s.pow.runs ∧ s.pow.stage = .up ∧ !s.pow.dormant then
    let s := (List.range 2).foldl State.runCpu ((List.range 8).foldl State.runTerrace s)
    ((s.onDev Dev.occupy).stalls.shortfalls).waits
  else s

/-- One fabric cycle. Without the always-on supply nothing runs. -/
def tick (s : State) : State :=
  if !s.pow.aux then s
  else
    let s : State := { s with time := { s.time with fabric := s.time.fabric + 1 } }
    let s := s.fastCycle
    if s.time.fabric % 1000 = 0 then s.kettleCycle else s

end Sys2Proof.Machine
end

