-- ==== Sys2Proof/Machine/Step.lean ====
section
/-!
DEFINITION. The step: the first waiting command takes effect; with none waiting one fabric cycle passes.
-/

namespace Sys2Proof.Machine

/-- One step. With an empty queue, time passes (log 2). -/
def step (s : State) : Host.Outcome State Fault Refusal :=
  match s.pending with
  | [] => .next (tick s)
  | c :: rest => exec c { s with pending := rest }

/-- The command that a word spells goes to the front of the queue; a word that spells none changes nothing. -/
def State.withFetchWord (s : State) (nbits w : Nat) : State :=
  match decodeTableWord nbits w with
  | none => s
  | some c => { s with pending := c :: s.pending }

end Sys2Proof.Machine
end

