-- ==== Sys2Proof/Safety.lean ====
section
/-!
DEFINITION. What counts as a safe state: device memory in its canonical form, a ceiling between the fused limits (R481), a fuse count of at
most 64 (R476). The terms in which statements say where a command takes effect and what it leaves alone.
-/

namespace Sys2Proof.Machine

/-- Device memory is in its canonical form: rising addresses, no listed zero. -/
def Memory.wf (m : Memory) : Bool := Mem.wf m.bytes

/-- The ceiling lies between the fused limits. -/
def Pow.limited (w : Pow) : Bool := w.fuseFloor ≤ w.ceiling && w.ceiling ≤ w.fuseMax

/-- The invariant that every step keeps. -/
def State.safe (s : State) : Bool := s.mem.wf && s.pow.limited && s.mgmt.fuse ≤ 64

/-! ### Frames. -/

/-- Only the data path may differ: not device memory, the power side, the management side, the queue or the time. -/
def OnlyDev (s t : State) : Prop :=
  t.pending = s.pending ∧ t.time = s.time ∧ t.mem = s.mem ∧ t.pow = s.pow ∧ t.mgmt = s.mgmt

/-- Only the power side may differ. -/
def OnlyPow (s t : State) : Prop :=
  t.pending = s.pending ∧ t.time = s.time ∧ t.mem = s.mem ∧ t.dev = s.dev ∧ t.mgmt = s.mgmt

/-- Only the management side may differ. -/
def OnlyMgmt (s t : State) : Prop :=
  t.pending = s.pending ∧ t.time = s.time ∧ t.mem = s.mem ∧ t.dev = s.dev ∧ t.pow = s.pow

/-- Only cluster i, its engine's count without progress and the count of free values may differ: no other register of the device, no
byte of memory. -/
def OnlyCluster (i : Nat) (s t : State) : Prop :=
  OnlyDev s t ∧ t.dev = { s.dev with cl := t.dev.cl, eng := t.dev.eng, free := t.dev.free } ∧
  (∀ j, j ≠ i → t.dev.getCl j = s.dev.getCl j) ∧
  (∀ e, t.dev.getEng e = { s.dev.getEng e with progress := (t.dev.getEng e).progress }) ∧
  ∀ e, e ≠ i / 20 → t.dev.getEng e = s.dev.getEng e

/-! ### Where a kernel's instruction takes effect. -/

/-- The kernel on the command's cluster runs, and the instruction that it has reached is fetched: it was already, or its line is in the
control cache (R103, R104). -/
def KernelRuns (s : State) (p : Pre) : Prop :=
  (s.dev.getCl (clIdx p.cl)).ready = true ∧ (s.atInstr p).dev.atHand (clIdx p.cl) = true

/-- The state in which the command's instruction has its effect: the base instructions before it are done, it is fetched and taken. -/
def State.taking (s : State) (p : Pre) : State := (s.atInstr p).modC (clIdx p.cl) Cluster.takeInstr

/-! ### Parts. -/

/-- A part executes an accepted command of an opcode and has not computed; its engine runs; the sequencer has its turn of the mover, which only
the launch of a kernel does not use (R134); no access of the part waits for an answer (R266); no line is poisoned. -/
def Runs (s : State) (uid : Nat) (p : Part) (op : Nat) : Prop :=
  s.dev.getPart uid = some p ∧ p.stage = .executing ∧ p.ran = false ∧ p.begun = false ∧ s.dev.engineOn p.eng = true ∧
  (p.kind = .kernel ∨ s.dev.seqTurn (eIdx p.eng) = true) ∧ p.xl.held = false ∧
  dOp (s.dev.descOf uid) = op ∧ descBad (s.dev.descOf uid) = false ∧ s.mem.poison = []

/-- What a part reaches is there: its planes, and the rows that it reads by list, which the range cache translates (R262, R263). -/
def Reached (s : State) (uid : Nat) (p : Part) (io : PartIo) : Prop :=
  s.dev.planeStop uid io.reads io.writes = none ∧ (s.xlate (eIdx p.eng) uid p.xl (rowPages io.rows)).2.2 = true

/-- The state in which a part forms its outputs: its rows are translated, the sequencer has taken its turn, the lines of its overlap are kept
and those that it reads under RELEASE are noted (R134, R172, R174, R263). -/
def State.forming (s : State) (uid : Nat) (p : Part) (io : PartIo) : State :=
  let g := s.xlate (eIdx p.eng) uid p.xl (rowPages io.rows)
  let t := g.1.onDev fun d => d.modPart uid fun p => { p with xl := g.2.1 }
  (if p.kind = .kernel then t else t.onDev fun d => d.modEng (eIdx p.eng) fun y => { y with movSeq := true }).prepare uid p
    (s.dev.descOf uid) io.rows

/-- Bytes are on their way from a part to virtual addresses: each stands in a write to the line that its address reaches (R135). -/
def Sent (s t : State) (uid va : Nat) (bs : Bytes) : Prop :=
  ∀ k pa, k < bs.length → s.dev.place uid 1 (va + k) = .phys pa →
    ∃ w ∈ t.mem.flight, w.from' = .part uid ∧ w.line = pa / 128 ∧ w.mask.getLsbD (pa % 128) = true ∧ w.data.getD (pa % 128) 0 = bs.getD k 0

/-- A part has computed: no byte of memory has changed yet, no other part has, and every byte on its way from the part lies within
given extents. -/
def Computed (s t : State) (uid : Nat) (outs : List (Nat × Nat)) : Prop :=
  t.pending = s.pending ∧ t.time = s.time ∧ t.pow = s.pow ∧ t.mgmt = s.mgmt ∧ t.mem.bytes = s.mem.bytes ∧ t.mem.poison = s.mem.poison ∧
  (∃ q, t.dev.getPart uid = some q ∧ q.ran = true ∧ q.stage = .executing) ∧ (∀ u, u ≠ uid → t.dev.getPart u = s.dev.getPart u) ∧
  ∃ ws, t.mem.flight = s.mem.flight ++ ws ∧ ∀ w ∈ ws, w.from' = .part uid ∧
    ∀ i, i < 128 → w.mask.getLsbD i = true → ∃ x ∈ outs, ∃ k, k < x.2 ∧ s.dev.place uid 1 (x.1 + k) = .phys (128 * w.line + i)

/-- Lines of numbers are on their way in the format of their output, each converted with fresh free values; a KQ32 output is zero
where any of it drew on poison (R41, R43 to R49). -/
def RowsSent (s t : State) (uid : Nat) (o : Ref) (conv lo : Nat) (rows : List (List Num)) : Prop :=
  let out := if o.fmt = 9 then (zeroIfPoisoned rows).1 else rows
  ∀ k, k < rows.length → ∃ fr, s.dev.free ≤ fr ∧
    (let w := writeLine o.fmt (Conv.of conv) (out.getD k []) fr
     fr + w.2.2.draws ≤ t.dev.free ∧ Sent s t uid (o.lineVa (lo + k)) w.1 ∧ Sent s t uid (o.scaleVa (lo + k)) w.2.1)

/-- A command of a context is the next that Jormon dispatches, and its number is its own (R154, R156). -/
def NextUp (s : State) (n : Nat) (c : Ctx) (x : Cmd) : Prop :=
  s.dev.getCtx n = some c ∧ s.dev.dispatchable n = some x ∧ (c.cmds.map fun y => y.seq).Nodup

/-! ### Server cores. -/

/-- A server core that runs makes an access, after what its instructions left in its privileged registers (R276). -/
def State.accessing (s : State) (c : Nat) (h : HPre) : State :=
  s.onDev fun d => d.modCore c fun x => { x with wrs := false, csrs := h.csrs.getD x.csrs }

/-- A server core's access reaches one piece of memory, of a page type, in a state: its page tables translate it there, and the check
of its caches lets it go on (R276, R318, R322). -/
def State.coreAt (s : State) (c : Nat) (h : HPre) (use : PageUse) (va a n ty : Nat) (w : State) : Prop :=
  (s.dev.getCore c).acts = true ∧ (s.accessing c h).span c use va n = .ok [⟨a, n, ty⟩] ∧
  (s.accessing c h).cacheCheck c (a / 128) h.hit = (w, true)

/-! ### Messages. -/

/-- The next message of a mailbox, which Jormon takes, and whose header passes (R348, R378 to R380). -/
def Taken (s : State) (mb : Mb) (m : MsgIn) : Prop := s.headMsg mb = some m ∧ s.precheck m = none

/-- A command leads to a state and, with it, to the reply of a message. -/
def Answers (c : Instr) (s : State) (m : MsgIn) (v : State) (status : Nat) (payload : Bytes) : Prop :=
  exec c s = .next (v.reply m.back status payload)

end Sys2Proof.Machine
end

