-- ==== Sys2Proof/Certificates/Slice0/Obligations.lean ====
section
/-!
DEFINITION. The statements about the model, for the provers. Each docstring names the rules of spec/ that it rests on, and the log entry where a
value or an order is the model's own.
-/

open Sys2Proof Sys2Proof.Machine

/-! ### The machine. -/

/-- A step takes the command at the front of the queue and is its effect on the state with the queue's rest; with no command waiting one fabric cycle
passes (the model's choice, log 1 and 2). -/
def Obligations.StepRunsFrontCommand : Prop :=
  (∀ (s : State) (c : Instr) (rest : List Instr), step { s with pending := c :: rest } = exec c { s with pending := rest }) ∧
  ∀ s : State, s.pending = [] → step s = .next (tick s)

/-- The state after reset: safe, with no command waiting, memory listing nothing, no context, Jormon not ready, main power off, and the log at number 1
(R471, R495; the values that the manual leaves open are the model's choice, log 4). -/
def Obligations.ResetState : Prop :=
  let r := State.reset
  r.safe = true ∧ r.pending = [] ∧ r.mem = {} ∧ r.dev.ctxs = [] ∧ r.dev.ready = false ∧ r.pow.stage = .off ∧ r.pow.pwrgd = false ∧
  r.mgmt.nextLog = 1 ∧ r.mgmt.running = false

/-- Every step keeps device memory in its canonical form, the ceiling between the fused limits, and the fuse count at most 64, from every state in
which they hold and whatever command waits (R476, R481; the canonical form is the model's own, log 3). -/
def Obligations.StepKeepsSafe : Prop :=
  ∀ s t : State, s.safe = true → step s = .next t → t.safe = true

/-! ### Number formats. -/

/-- R45: in pinned mode every output scale group takes E = PINNED_E8, whatever its values, in a line that a command writes and in kq.pin; a group that
draws on poison falls under R41. -/
def Obligations.PinnedMode : Prop :=
  (∀ (f : Nat) (c : Conv) (xs : List Sys2Proof.Num) (fr : Nat), c.pinned = true → (∀ x ∈ xs, x.poison = false) →
    (convGroup f c xs fr).1 = c.pe ∧
    (fmtOk f = true → f ≠ 9 → f ≠ 10 → xs ≠ [] → (writeLine f c xs fr).2.1 = List.replicate (lineScales f xs.length) c.pe)) ∧
  ∀ (c : Cluster) (vd vs2 : Fin 32) (vm : Bool) (g : Nat), g < c.groups → 128 * vd.val + c.groups ≤ 4096 →
    (c.pinAll vd.val vs2.val vm).vget vd.val 1 g =
      if (c.nums vs2.val g vm).any (fun x => x.poison) then 0x80 else c.pe8.toNat

/-- R47: a rounded integer beyond Qmax is replaced by Qmax with its sign and counts one saturation; no conversion wraps, and none produces the
excluded code. -/
def Obligations.SaturatingConversion : Prop :=
  ∀ (f mode : Nat) (e : Int) (xs : List Sys2Proof.Num) (fr : Nat), fmtOk f = true → f ≠ 10 →
    let r := roundGroup f mode e xs fr
    let q : Int := qmax f
    let n (i : Nat) (x : Sys2Proof.Num) : Int := roundNum mode x e (if mode = 2 then (Config.draw (fr + i)).toNat else 0)
    r.1.length = xs.length ∧
    (∀ i x, xs[i]? = some x → r.1[i]? = some (if q < n i x then q else if n i x < -q then -q else n i x)) ∧
    r.2.sat = (xs.zipIdx.filter fun x => decide (q < n x.2 x.1 ∨ n x.2 x.1 < -q)).length ∧
    ∀ v ∈ r.1, -q ≤ v ∧ v ≤ q ∧ Sys2Proof.code (fmtBits f) v ≠ 2 ^ (fmtBits f - 1)

/-! ### Kernel code. -/

/-- Scalar results: the counter of an index, kqcvt (its old value goes to rd), and the two waits when what they wait for is done. Only the
cluster changes (Table 5.14, R113, R117, R122). -/
def Obligations.KernelScalarResults : Prop :=
  ∀ (s : State) (p : Pre) (rd rs1 : Fin 32), KernelRuns s p →
    let i := clIdx p.cl
    let u := s.taking p
    let c := u.dev.getCl i
    (∀ idx : BitVec 12, ∃ t, exec (.kqCnt p rd idx) s = .next t ∧
      t.dev.getCl i = (c.xset rd (BitVec.ofNat 64 (cntValue c idx.toNat))).retire ∧ OnlyCluster i u t) ∧
    (∀ op : CsrOp,
      let new := csrNew op c.kqcvt (c.csrArg op rs1)
      (csrWrites op rs1 = true → kqcvtOk new = true) →
      ∃ t, exec (.kqcvtWrite p op rd rs1) s = .next t ∧ OnlyCluster i u t ∧
        (csrWrites op rs1 = true → t.dev.getCl i = (({ c with kqcvt := new &&& 0xFFFFFFFF000FFFFF } : Cluster).xset rd c.kqcvt).retire) ∧
        (csrWrites op rs1 = false → t.dev.getCl i = (c.xset rd c.kqcvt).retire)) ∧
    ((c.xget rs1).toNat ≤ c.tickets → c.arrDone (c.xget rs1).toNat = true →
      ∃ t, exec (.kqWaitA p rs1) s = .next t ∧ t.dev.getCl i = c.retire ∧ OnlyCluster i u t) ∧
    ((c.xget rs1).toNat ≤ c.tags → c.lost (c.xget rs1).toNat = false → (c.movs.all fun r => (c.xget rs1).toNat < r.tag) = true →
      ∃ t, exec (.kqWaitM p rs1) s = .next t ∧ t.dev.getCl i = c.retire ∧ OnlyCluster i u t)

/-- The vector instructions of Xkq write their results and retire; nothing but the cluster changes (R122 to R124). -/
def Obligations.VectorResults : Prop :=
  ∀ (s : State) (p : Pre) (vd vs2 vs1 rs1 : Fin 32) (vm : Bool), KernelRuns s p →
    let i := clIdx p.cl
    let u := s.taking p
    let c := u.dev.getCl i
    let n := u.dev.free
    let v := (c.xget rs1).toNat
    (c.cvtBad vd.val (c.regs 16) [(vs2.val, c.regs c.sew)] false = none → ∃ t, exec (.kqBexp p vd vs2) s = .next t ∧
      t.dev.getCl i = (c.bexpAll vd.val vs2.val n).1.retire ∧ OnlyCluster i u t) ∧
    (c.cvtBad vd.val (c.regs 8) [(vs2.val, c.regs c.sew)] false = none →
      (∃ t, exec (.kqFit p vd vs2 vm) s = .next t ∧ t.dev.getCl i = (c.fitAll vd.val vs2.val vm).retire ∧ OnlyCluster i u t) ∧
      (∃ t, exec (.kqPin p vd vs2 vm) s = .next t ∧ t.dev.getCl i = (c.pinAll vd.val vs2.val vm).retire ∧ OnlyCluster i u t)) ∧
    (c.cvtBad vd.val (c.regs c.sew) [(vs2.val, c.regs c.sew), (vs1.val, c.regs 8)] true = none →
      ∃ t, exec (.kqAlign p vd vs2 vs1) s = .next t ∧ t.dev.getCl i = (c.alignAll vd.val vs2.val vs1.val n).1.retire ∧ OnlyCluster i u t) ∧
    (c.cvtBad vd.val (c.packRegs c.fmt) [(vs2.val, c.regs c.sew), (vs1.val, c.regs 8)] true = none →
      ∃ t, exec (.kqPack p vd vs2 vs1) s = .next t ∧ t.dev.getCl i = (c.packAll vd.val vs2.val vs1.val).retire ∧ OnlyCluster i u t) ∧
    (c.cvtBad vd.val (c.regs c.sew) [(vs2.val, c.packRegs c.fmt)] true = none →
      ∃ t, exec (.kqUnpack p vd vs2) s = .next t ∧ t.dev.getCl i = (c.unpackAll vd.val vs2.val).retire ∧ OnlyCluster i u t) ∧
    (c.vok vd.val (c.regs c.sew) [(vs2.val, c.regs c.sew)] = true → v < 64 →
      ∃ t, exec (.kqSrnd p vd vs2 rs1 vm) s = .next t ∧ OnlyCluster i u t ∧
        (let r := c.srndAll vd.val vs2.val v vm n
         t.dev.getCl i = ({ r.1 with draws := min max64 (r.1.draws + r.2) } : Cluster).retire ∧ t.dev.free = n + r.2)) ∧
    (c.vok vd.val 1 [(vs2.val, c.regs c.sew)] = true → c.sew ≤ 32 → v % 16 ≠ 0 → v % 16 ≤ 8 → bits v 7 4 = 0 → bits v 15 9 = 0 →
      v < 2 ^ 32 → ∃ t, exec (.kqTopk p vd vs2 rs1 vm) s = .next t ∧ t.dev.getCl i = (c.topkAll vd.val vs2.val v vm).retire ∧
        OnlyCluster i u t)

/-- Environment calls, breakpoints and illegal instructions are program errors: the part fails with KERNEL_TRAP, its trap names the cause
and the cluster, an illegal instruction's tval is its bits, and every cluster of the kernel stops. Where other clusters of the kernel trapped in
the same core cycle, the lowest-numbered is reported, with the number that trapped (R127, R128, Table 5.15). -/
def Obligations.KernelTraps : Prop :=
  ∀ (s : State) (p : Pre) (uid : Nat) (x : Part), KernelRuns s p →
    let i := clIdx p.cl
    let u := s.taking p
    (u.dev.getCl i).part = some uid → u.dev.getPart uid = some x → x.live = true →
    let off (j : Nat) : Nat := ((u.dev.getCl j).pc.toNat + 2 ^ 64 - field (u.dev.descOf uid) 32 8) % 2 ^ 32
    let traps (c : Instr) (cause : Nat) (holds : Nat → Prop) : Prop := ∃ t y, exec c s = .next t ∧
      t.dev.getPart uid = some y ∧ y.stage = .failed 0x10 ∧
      (p.also = [] → ∃ tval, y.trap = some (cause, i % 20, 1, off i, tval) ∧ holds tval) ∧
      (x.trap = none → (∀ a ∈ p.also, a.1.val ≠ i % 20 ∧ (u.dev.getCl (20 * eIdx p.cl.eng + a.1.val)).ready = true ∧
          (u.dev.getCl (20 * eIdx p.cl.eng + a.1.val)).part = some uid) →
        ∃ ca cl tval, y.trap = some (ca, cl, 1 + p.also.length, off (20 * eIdx p.cl.eng + cl), tval) ∧ cl ≤ i % 20 ∧
          (∀ a ∈ p.also, cl ≤ a.1.val) ∧ (cl = i % 20 → ca = cause ∧ holds tval) ∧
          (cl ≠ i % 20 → ∃ a ∈ p.also, a.1.val = cl ∧ a.2.1 = ca ∧ a.2.2.toNat = tval)) ∧
      (∀ k : Fin 20, (u.dev.getCl (20 * eIdx x.eng + k.val)).part = some uid → (t.dev.getCl (20 * eIdx x.eng + k.val)).run = .idle) ∧
      t.mem.bytes = u.mem.bytes ∧ t.pow = u.pow ∧ t.mgmt = u.mgmt
    traps (.ecall p) 8 (fun _ => True) ∧ traps (.ebreak p) 3 (fun _ => True) ∧
    ∀ bits : BitVec 32, legalWord bits.toNat = false → traps (.illegalInstruction p bits) 2 fun v => v = bits.toNat

/-- A load of the own cup writes the cup's bytes, a store writes them; a virtual address goes to the range cache, and where its entry and its line
are held a load takes the bytes of the line and a store leaves them there; a vector load or store moves each active element between the cup
and the registers. No byte of device memory changes (R96 to R99, R103). -/
def Obligations.CupAccess : Prop :=
  ∀ (s : State) (p : Pre) (rd rs1 rs2 : Fin 32) (imm : BitVec 12) (log2 : Fin 4), KernelRuns s p →
    let i := clIdx p.cl
    let u := s.taking p
    let c := u.dev.getCl i
    let a := (c.xget rs1 + imm.signExtend 64).toNat
    (∀ o, a % 2 ^ log2.val = 0 → 2 ^ 63 ≤ a → localOf (i % 20) a = .cup o →
      (∀ sgn, ∃ t, exec (.kernelLoad p rd rs1 imm log2 sgn .ok) s = .next t ∧
        t.dev.getCl i = (c.xset rd (loadValue log2.val sgn (Mem.read c.cup o (2 ^ log2.val)))).retire ∧ OnlyCluster i u t) ∧
      (∀ chk, ∃ t, exec (.kernelStore p rs1 rs2 imm log2 chk) s = .next t ∧ OnlyCluster i u t ∧
        t.dev.getCl i = ({ c with cup := Mem.write c.cup o (leBytes (2 ^ log2.val) (c.xget rs2).toNat) } : Cluster).retire)) ∧
    (a % 2 ^ log2.val = 0 → a < 2 ^ 48 →
      (∀ sgn, exec (.kernelLoad p rd rs1 imm log2 sgn .ok) s = .next (u.alsoTraps (u.vaccess i a (.load rd log2.val sgn)) p)) ∧
      exec (.kernelStore p rs1 rs2 imm log2 .ok) s = .next (u.alsoTraps (u.vaccess i a (.store (c.xget rs2) log2.val)) p)) ∧
    (∀ (uid slot pa : Nat) (x : Part) (r : RangeEntry) (l : CcLine), a < 2 ^ 48 → c.part = some uid → u.dev.getPart uid = some x →
      (u.dev.getEng (i / 20)).rcFind x.ctx a = some r → r.kind ≠ 2 → (u.dev.getEng (i / 20)).ccSlot (pa / 128) = some (slot, l) →
      a % 2 ^ log2.val = 0 → let d := u.dev.modEng (i / 20) fun y => y.rcTouch x.ctx r
      (d.runPlace r uid 0 a = .phys pa → ∀ sgn, ∃ t, exec (.kernelLoad p rd rs1 imm log2 sgn .ok) s = .next t ∧
        t.dev.getCl i = (({ c with ccHits := min max64 (c.ccHits + 1) } : Cluster).xset rd
          (loadValue log2.val sgn (l.get (pa % 128) (2 ^ log2.val)))).retire ∧ t.mem = u.mem) ∧
      (d.runPlace r uid 1 a = .phys pa → ∃ t, exec (.kernelStore p rs1 rs2 imm log2 .ok) s = .next t ∧
        t.dev.getCl i = ({ c with ccHits := min max64 (c.ccHits + 1) } : Cluster).retire ∧ t.mem = u.mem ∧
        (t.dev.getEng (i / 20)).cc = Map.mod (u.dev.getEng (i / 20)).cc slot fun l => l.put (pa % 128) (leBytes (2 ^ log2.val) (c.xget rs2).toNat))) ∧
    (∀ (vd : Fin 32) (mode : VMode) (nf : Fin 8) (vm : Bool),
      let at' (k f : Nat) : Nat := vaddr c mode (c.xget rs1) log2.val nf.val k f
      let act := (List.range (vcount c mode log2.val)).filter fun k => vm || c.vmask k
      (∀ k ∈ act, ∀ f, f ≤ nf.val → at' k f % vwidth c mode log2.val = 0 ∧ 2 ^ 63 ≤ at' k f ∧ ∃ o, localOf (i % 20) (at' k f) = .cup o) →
      let does (ins : Instr) (store : Bool) : Prop := c.vmemBad vd.val mode log2.val nf.val vm store = false →
        ∃ t, exec ins s = .next t ∧ OnlyCluster i u t ∧
          t.dev.getCl i = (act.foldl (c.vmove (i % 20) vd.val mode (c.xget rs1) log2.val nf.val store) c).retire
      does (.vectorLoad p vd rs1 mode log2 nf vm) false ∧ does (.vectorStore p vd rs1 mode log2 nf vm) true)

/-- An array instruction with legal operands enters the queue of four and writes its ticket, one more than the last (R109, R110, R113). -/
def Obligations.ArrayIssue : Prop :=
  ∀ (s : State) (p : Pre) (rd rs1 rs2 : Fin 32), KernelRuns s p →
    let i := clIdx p.cl
    let u := s.taking p
    let c := u.dev.getCl i
    let b := (c.xget rs1).toNat
    let v := (c.xget rs2).toNat
    let w (o n : Nat) := Mem.le c.cup (b + o) n
    let f := w 20 1 % 16
    let enters (k : Instr) (op : ArrKind) : Prop := ∃ t, exec k s = .next t ∧ OnlyCluster i u t ∧
      t.dev.getCl i = (({ c with tickets := c.tickets + 1, arrq := c.arrq ++ [{ ticket := c.tickets + 1, kind := op }] } : Cluster).xset rd
        (BitVec.ofNat 64 (c.tickets + 1))).retire
    c.tickets + 1 < 2 ^ 32 → c.arrq.length < 4 →
    (1 ≤ v % 128 → v % 128 ≤ 64 → bit v 7 = false → v < 2 ^ 12 → bits v 11 8 < 10 → b % 256 = 0 → b + 16896 ≤ 0x1FE000 →
      enters (.kqWload p rd rs1 rs2) (.load b (v % 128) (bits v 11 8))) ∧
    (b % 32 = 0 → b + 32 ≤ 0x1FE000 →
      (∀ tr : Bool,
        let ext := if tr then 64 else 64 * peP c.tileFmt
        w 20 1 < 16 → w 21 1 < 2 → w 22 10 = 0 → w 18 2 < 256 → f < 10 → w 4 4 % 64 = 0 → w 12 4 % 16 = 0 →
        (if tr then w 18 2 + peP c.tileFmt * w 16 2 ≤ 256 else w 18 2 + w 16 2 ≤ 256) →
        (w 16 2 ≠ 0 → w 0 4 + (w 16 2 - 1) * w 4 4 + actBytes f ext ≤ 0x1FE000 ∧
          w 8 4 + (w 16 2 - 1) * w 12 4 + actGroups f ext ≤ 0x1FE000) →
        enters (if tr then .kqStreamt p rd rs1 else .kqStream p rd rs1)
          (.stream tr (w 0 4) (w 4 4) (w 8 4) (w 12 4) (w 16 2) (w 18 2) f (w 21 1 = 1))) ∧
      (w 20 1 < 16 → w 21 1 = 0 → w 24 8 = 0 → fmtOk f = true → convOk f (w 22 2) = true →
        ((f = 4 ∨ f = 7) → bit (w 22 2) 2 = true) → w 4 4 % 64 = 0 → (f ≠ 10 → w 12 4 % 16 = 0) → w 18 2 + w 16 2 ≤ 256 → w 18 2 < 256 →
        (w 16 2 ≠ 0 → w 0 4 + (w 16 2 - 1) * w 4 4 + lineBytes f 64 ≤ 0x1FE000 ∧
          (f ≠ 10 → w 8 4 + (w 16 2 - 1) * w 12 4 + actGroups f 64 ≤ 0x1FE000)) →
        enters (.kqDrain p rd rs1) (.drain (w 0 4) (w 4 4) (w 8 4) (w 12 4) (w 16 2) (w 18 2) f (w 22 2))) ∧
      (w 21 1 = 0 → w 24 8 = 0 → w 4 4 % 64 = 0 → w 18 2 + w 16 2 ≤ 256 → w 18 2 < 256 →
        (w 16 2 ≠ 0 → w 0 4 + (w 16 2 - 1) * w 4 4 + 1024 ≤ 0x1FE000) →
        enters (.kqReload p rd rs1) (.reload (w 0 4) (w 4 4) (w 16 2) (w 18 2))))

/-- A queued operation that may start is started, with what strikes the array then; a started one that is through, or has nothing to do,
leaves the queue; a weight load that runs alone fills the registers from the cup, row by row, and leaves the level at 64; a spill into KA96 writes A, w and
the flags of each accumulator unchanged and no other byte of the cup; a step of the activity level follows Table 4.7 (R61, R82 to R88, R91, R113). The array
cycles of an operation that finishes early are counted as they elapse (log 2). -/
def Obligations.ArrayRun : Prop :=
  ∀ (s : State) (cl : ClId) (ticket : Nat) (o : ArrOp),
    let i := clIdx cl
    let c := s.dev.getCl i
    ((c.arrq.find? fun x => x.ticket = ticket) = some o → c.canStart o = true → ∀ us : List Upset,
      ∃ t, exec (.arrayOperationStart cl ticket us) s = .next t ∧ OnlyCluster i s t ∧
        t.dev.getCl i = us.foldl Cluster.strike (c.begun ticket us)) ∧
    ((c.arrq.find? fun x => x.ticket = ticket) = some o → o.started = true → c.stall = .none →
      (∀ x ∈ c.arrq, x.started = true → x.ticket ≤ ticket → c.through x = true) →
      ∃ t, exec (.arrayOperationDone cl ticket) s = .next t ∧ OnlyCluster i s t ∧
        t.dev.getCl i = { c with arrq := c.arrq.filter fun x => x.ticket ≠ ticket }) ∧
    (c.arrq = [o] → o.ticket = ticket → o.started = true → o.pos = 0 → o.upsets = [] → c.stall = .none →
      (∀ base rows f, o.kind = .load base rows f → 1 ≤ rows → rows ≤ 64 →
        ∃ t, exec (.arrayOperationDone cl ticket) s = .next t ∧ OnlyCluster i s t ∧ (t.dev.getCl i).arrq = [] ∧
          (t.dev.getCl i).wFmt = f ∧ (t.dev.getCl i).wRows = rows ∧ (t.dev.getCl i).level = 64 ∧ (t.dev.getCl i).cup = c.cup ∧
          ∀ r col, r < rows → col < 64 → Map.get (t.dev.getCl i).wWord (64 * r + col) 0 =
            BitVec.ofNat 32 (Mem.le c.cup (base + 256 * r + col * peBytes f) (peBytes f))) ∧
      (∀ eb es xb xs n q conv, o.kind = .drain eb es xb xs n q 10 conv → 1024 ≤ es →
        (∀ k, k < 64 * n → (c.entry (64 * q + k)).ok = true) →
        ∃ t, exec (.arrayOperationDone cl ticket) s = .next t ∧ OnlyCluster i s t ∧ (t.dev.getCl i).arrq = [] ∧ (t.dev.getCl i).bank = c.bank ∧
          (∀ k col, k < n → col < 64 →
            let x := (c.acc (64 * (q + k) + col)).num
            Mem.read (t.dev.getCl i).cup (eb + k * es + 16 * col) 16 = leBytes 12 (code 96 x.m) ++ leBytes 2 (code 16 x.e) ++
              [BitVec.ofNat 8 ((if x.sticky then 1 else 0) + if x.poison then 2 else 0), 0]) ∧
          ∀ a, (∀ k, k < n → a < eb + k * es ∨ eb + k * es + 1024 ≤ a) → Mem.get (t.dev.getCl i).cup a = Mem.get c.cup a)) ∧
    (∃ t, exec (.activityRamp cl) s = .next t ∧ OnlyCluster i s t ∧ (t.dev.getCl i).cup = c.cup ∧
      (c.loading = true → (t.dev.getCl i).level = min 64 (c.level + 8)) ∧
      (c.loading = false → c.rampDue = true → c.level < 64 → (t.dev.getCl i).level = min 64 (c.level + 8)) ∧
      (c.loading = false → c.rampDue = false → 8 < c.level → 4 * ((64 - c.level) / 8 + 1) ≤ c.idle → (t.dev.getCl i).level = c.level - 8) ∧
      (c.loading = false → c.rampDue = false → c.level ≤ 8 → 64 ≤ c.idle → (t.dev.getCl i).level = 0))

/-- Mover requests: one that passes its checks is entered with its tag, one more than the last, and the tag goes to rd; a MERGE joins
the merge of its merge_id. A COPY of one row between places of the own cup moves its bytes, leaves every other byte of the cup and of memory,
and its request leaves, in the turn of its cluster at the mover (R114 to R117, R134). -/
def Obligations.MoverRequests : Prop :=
  (∀ (s : State) (p : Pre) (rd rs1 : Fin 32) (o : Nat), KernelRuns s p →
     let i := clIdx p.cl
     let u := s.taking p
     let c := u.dev.getCl i
     let a := (c.xget rs1).toNat
     let r := movReq c.cup o 0
     2 ^ 63 ≤ a → localOf (i % 20) a = .cup o → a % 64 = 0 → movCheck c o (i % 20) (u.dev.grant i) r = none → c.movs.length < 16 → r.rows ≠ 0 →
     let enters (k : Instr) : Prop := ∃ t, exec k s = .next t ∧
       t.dev.getCl i = (({ c with tags := c.tags + 1, movs := c.movs ++ [{ r with tag := c.tags + 1 }] } : Cluster).xset rd
         (BitVec.ofNat 64 (c.tags + 1))).retire ∧ (r.op ≠ 2 → OnlyCluster i u t) ∧ OnlyDev u t
     (r.op = 0 → enters (.moverCopy p rd rs1)) ∧ (r.op = 1 → enters (.moverConvert p rd rs1)) ∧
     (r.op = 2 → ∀ e, (u.dev.getEng (i / 20)).join (i % 20) { r with tag := c.tags + 1 } = some e →
       enters (.merge p rd rs1) ∧ ∃ t, exec (.merge p rd rs1) s = .next t ∧ (t.dev.getEng (i / 20)).merges = e.merges)) ∧
  (∀ (s : State) (cl : ClId) (tag uid os od : Nat) (r : MovReq),
     let i := clIdx cl
     let c := s.dev.getCl i
     c.part = some uid → (c.movs.find? fun x => x.tag = tag) = some r → (c.movs.takeWhile fun x => x.tag ≠ tag) = [] → c.stall = .none →
     r.performed = none → r.xl.hold = none → s.dev.movTurn i = true → (∀ w ∈ s.mem.flight, w.from' ≠ .part uid) →
     r.op = 0 → r.rows = 1 → 2 ^ 63 ≤ r.src → 2 ^ 63 ≤ r.dst →
     (∀ k, k < r.rowLen → localOf (i % 20) (r.src + k) = .cup (os + k)) → localOf (i % 20) r.dst = .cup od →
     ∃ t, exec (.moverRequestComplete cl tag false) s = .next t ∧ OnlyDev s t ∧ (∀ j, j ≠ i → t.dev.getCl j = s.dev.getCl j) ∧
       (∀ e, t.dev.getEng e = { s.dev.getEng e with
         progress := (t.dev.getEng e).progress, movSeq := (t.dev.getEng e).movSeq, movPtr := (t.dev.getEng e).movPtr }) ∧
       (t.dev.getEng (i / 20)).movSeq = false ∧ (t.dev.getEng (i / 20)).movPtr = (i % 20 + 1) % 20 ∧
       (∀ k, k < r.rowLen → Mem.get (t.dev.getCl i).cup (od + k) = Mem.get c.cup (os + k)) ∧
       (∀ x, x < od ∨ od + r.rowLen ≤ x → Mem.get (t.dev.getCl i).cup x = Mem.get c.cup x) ∧
       (t.dev.getCl i).movs = c.movs.filter (fun q => q.tag ≠ tag) ∧
       (t.dev.getCl i).movBytes = min max64 (c.movBytes + r.rowLen) ∧ (t.dev.getCl i).x = c.x)

/-- A kq.amo whose target lies in HBM of the engine's own terrace, after the engine's copies of the line are written back: the old value
goes to rd sign-extended, the target takes the new value, every other byte of memory stays as it was, and ADD and XOR enter the retry
ledger. Of a stateful object that the step has written it reads the published version (R104, R119, R120, R224). -/
def Obligations.KernelAtomics : Prop :=
  ∀ (s : State) (p : Pre) (rd rs1 rs2 : Fin 32) (uid pa : Nat) (x : Part) (r : RangeEntry), KernelRuns s p →
    let i := clIdx p.cl
    let u := s.taking p
    let c := u.dev.getCl i
    let e := i / 20
    let a := (c.xget rs1).toNat
    let u' := u.onDev fun d => d.modEng e fun y => y.rcTouch x.ctx r
    let v := u'.ccDrop e fun l => l.2.line = pa / 128
    a < 2 ^ 48 → c.part = some uid → u.dev.getPart uid = some x → eIdx x.eng = e → (u.dev.getEng e).rcFind x.ctx a = some r → r.kind = 0 →
    u'.dev.runPlace r uid 3 a = .phys pa → let old' := (match v.dev.place uid 0 a with | .phys x => x | _ => pa)
    (∃ off, paOf pa = .hbm x.eng.t.val off) →
    let desc := u.dev.descOf uid
    let inside (n : Nat) : Prop := field desc 64 8 ≤ a ∧ a + n ≤ field desc 64 8 + field desc 72 8
    let does (k : Instr) (op : Nat) (dbl : Bool) : Prop :=
      let n := if dbl then 8 else 4
      let old := leNat (v.readPa old' n)
      a % n = 0 → pa % 128 + n ≤ 128 → (2 ≤ op → inside n) → (op < 2 → field desc 72 8 + 16 * (x.atoms.length + 1) ≤ 2 ^ 25) →
      ∃ t, exec k s = .next t ∧
        t.dev.getCl i = (c.xset rd (loadValue (if dbl then 3 else 2) true (leBytes n old))).retire ∧
        t.readPa pa n = leBytes n (amoValue op (8 * n) old ((c.xget rs2).toNat % 2 ^ (8 * n))) ∧
        (∀ b, b < pa ∨ pa + n ≤ b → t.byte b = v.byte b) ∧
        (∃ y, t.dev.getPart uid = some y ∧ y.atoms = if op < 2 then x.atoms ++ [(op, pa, dbl, c.xget rs2)] else x.atoms)
    does (.kqAmoaddW p rd rs1 rs2) 0 false ∧ does (.kqAmoxorW p rd rs1 rs2) 1 false ∧ does (.kqAmoaddD p rd rs1 rs2) 0 true ∧
    does (.kqAmoxorD p rd rs1 rs2) 1 true ∧ does (.kqAmoswapD p rd rs1 rs2) 2 true ∧ does (.kqAmominD p rd rs1 rs2) 3 true ∧
    does (.kqAmomaxD p rd rs1 rs2) 4 true

/-- The engine control cache: the walk of a maintenance request that BUSY holds writes back its lines, an INVALIDATE also drops them, and
the next request is served when the walk ends; fence.i drops every instruction line; failure counts halve every 2^30 core cycles; a way that reaches 16 failures is
disabled while fewer than two are, and at the third the engine is isolated and needs its spare; a fill that lands is the line from its home; a
range-cache miss without an entry holds the access at a fault (R103 to R107, R263, R266). Jormon's set acts for the kernel of cluster 0 (log 9). -/
def Obligations.ControlCache : Prop :=
  (∀ (s : State) (e : EngId) (set : Option (Fin 20)),
     let i := eIdx e
     let k := set.map Fin.val
     let m := s.dev.getMaint i k
     let sel := s.dev.maintSel (s.dev.maintCtx i k) m
     (m.busy = true → (s.dev.getEng i).maintq.head? = some k → ∀ chks : List (Nat × Check), (∀ x ∈ chks, x.2 = .ok) →
       (m.op = 1 → ∃ t, exec (.ccClean e set chks) s = .next t ∧ (t.dev.getMaint i k).op = 0 ∧
         (t.dev.getEng i).cc = (s.dev.getEng i).cc.map fun l => if sel l then (l.1, { l.2 with dirty := 0 }) else l) ∧
       (m.op = 2 → ∃ t, exec (.ccInvalidate e set chks) s = .next t ∧ (t.dev.getMaint i k).op = 0 ∧
         ∀ l ∈ (t.dev.getEng i).cc, sel l = false ∧ l ∈ (s.dev.getEng i).cc) ∧
       (m.op = 0 → ∃ t, exec (.ccMaintenanceDone e set) s = .next t ∧ t = s.onDev fun d =>
         (d.modMaint i k fun m => { m with busy := false }).modEng i fun x => { x with maintq := x.maintq.tail })) ∧
     (∀ p : Pre, KernelRuns s p →
       let u := s.taking p
       let cc := (u.dev.getEng (clIdx p.cl / 20)).cc
       ∃ t, exec (.fenceI p) s = .next t ∧ t.pow = u.pow ∧ t.mgmt = u.mgmt ∧ ((∀ l ∈ cc, l.2.instr = true → l.2.dirty = 0) → t.mem = u.mem) ∧
         (t.dev.getEng (clIdx p.cl / 20)).cc = cc.filter (fun l => !l.2.instr) ∧
         t.dev.getCl (clIdx p.cl) = (u.dev.getCl (clIdx p.cl)).retire) ∧
     ∀ way : Fin 8, Map.get (s.dev.getEng i).wayHalved way.val 0 + 2 ^ 30 ≤ (s.dev.getTerr e.t.val).arr16 / 32 →
       ∃ t, exec (.ccFailCountHalving e way) s = .next t ∧ OnlyDev s t ∧
       (∀ w, Map.get (t.dev.getEng i).wayFails w 0 = if w = way.val then Map.get (s.dev.getEng i).wayFails w 0 / 2 else
         Map.get (s.dev.getEng i).wayFails w 0) ∧ (t.dev.getEng i).cc = (s.dev.getEng i).cc) ∧
  (∀ (s : State) (e : EngId) (way : Fin 8),
     let i := eIdx e
     let x := s.dev.getEng i
     16 ≤ Map.get x.wayFails way.val 0 → has x.wayOff way.val = false →
     (x.wayOff.length < 2 → ∀ chks : List (Nat × Check), (∀ y ∈ chks, y.2 = .ok) → ∃ t, exec (.ccWayDisabled e way chks) s = .next t ∧ has (t.dev.getEng i).wayOff way.val = true ∧
       (∀ l ∈ (t.dev.getEng i).cc, l.1 % 8 ≠ way.val) ∧ (∀ l ∈ x.cc, l.1 % 8 ≠ way.val → l ∈ (t.dev.getEng i).cc)) ∧
     (2 ≤ x.wayOff.length → ∀ chks, ∃ t, exec (.ccWayDisabled e way chks) s = .next t ∧
       (t.dev.getEng i).isolated = some s.kettle ∧ (t.dev.getEng i).absent = true ∧ (t.dev.getEng i).needSpare = true)) ∧
  (∀ (s : State) (e : EngId),
     let i := eIdx e
     (∀ (way : Fin 8) (line : Nat) (instr : Bool) (victim : Check), (s.dev.getEng i).ccFill = some (line, instr) → has (s.dev.getEng i).wayOff way.val = false →
       Map.get s.mem.poison line 0 = 0 → (s.dev.getEng i).ccQueue = [] → (Map.find (s.dev.getEng i).cc (8 * (line % 256) + way.val)) = none →
       (∀ k : Fin 20, (s.dev.getCl (20 * i + k.val)).stall = .none) →
       ∃ t, exec (.ccFillComplete e way victim) s = .next t ∧ OnlyDev s t ∧ (t.dev.getEng i).ccFill = none ∧
         Map.find (t.dev.getEng i).cc (8 * (line % 256) + way.val) =
           some { line := line, instr := instr, data := s.readPa (line * 128) 128, dirty := 0 }) ∧
     (∀ (uid : Nat) (k : Fin 20) (va : Nat) (acc : KAccess) (p : Part), (s.dev.getCl (20 * i + k.val)).stall = .rcMiss va acc →
       (s.dev.getCl (20 * i + k.val)).part = some uid → s.dev.getPart uid = some p → eIdx p.eng = i → p.stage = .executing →
       ((s.dev.getCtx p.ctx).bind fun x => x.entry va) = none →
       ∃ t, exec (.rangeCacheFill e uid (.core k)) s = .next t ∧ (t.dev.getCl (20 * i + k.val)).stall = .faulted va acc ∧ t.mem = s.mem))

/-- A cluster that arrives at a barrier waits until the last of its engine has, and the last passes at once; a cluster whose work is done exits with value 0, and another
return value is trap 0xFF; a kernel that has run for 2^36 array cycles fails with cause 0xFE (R118, R130, R131). -/
def Obligations.BarrierAndExit : Prop :=
  ∀ (s : State) (p : Pre),
    let i := clIdx p.cl
    let u := s.taking p
    let b := u.dev.getCl i
    let c := ((s.modC i fun c => c.applyPre p).dev.getCl i)
    (KernelRuns s p → (∃ k : Fin 20, 20 * (i / 20) + k.val ≠ i ∧ (u.dev.getCl (20 * (i / 20) + k.val)).run ≠ .exited ∧
        (u.dev.getCl (20 * (i / 20) + k.val)).bars ≤ b.bars) →
        (∀ j : Fin 20, (u.dev.getCl (20 * (i / 20) + j.val)).stall = .bar → (u.dev.getCl (20 * (i / 20) + j.val)).bars = b.bars + 1) →
      ∃ t, exec (.kqBar p) s = .next t ∧ t.dev.getCl i = { b with bars := b.bars + 1, stall := .bar } ∧ OnlyCluster i u t) ∧
    (KernelRuns s p → (∀ k : Fin 20, 20 * (i / 20) + k.val ≠ i → (u.dev.getCl (20 * (i / 20) + k.val)).run = .exited ∧
        (u.dev.getCl (20 * (i / 20) + k.val)).stall ≠ .bar) →
      ∃ t, exec (.kqBar p) s = .next t ∧ t.dev.getCl i = ({ b with bars := b.bars + 1, stall := .bar } : Cluster).retire ∧ OnlyCluster i u t) ∧
    ((s.dev.getCl i).ready = true → c.arrq = [] → c.movs = [] → c.xget 10 = 0 → (s.dev.getEng (i / 20)).merges = [] →
      (∀ k : Fin 20, (s.dev.getCl (20 * (i / 20) + k.val)).stall = .none) →
      ∃ t, exec (.clusterExit p) s = .next t ∧ t.dev.getCl i = { c with run := .exited } ∧ OnlyCluster i s t) ∧
    (∀ (uid : Nat) (x : Part), (s.dev.getCl i).ready = true → p.also = [] → c.arrq = [] → c.movs = [] → c.xget 10 ≠ 0 → c.part = some uid →
      s.dev.getPart uid = some x → x.live = true →
      ∃ t y off, exec (.clusterExit p) s = .next t ∧ t.dev.getPart uid = some y ∧ y.stage = .failed 0x10 ∧
        y.trap = some (0xFF, i % 20, 1, off, (c.xget 10).toNat)) ∧
    (∀ (uid : Nat) (x : Part), s.dev.getPart uid = some x → x.kind = .kernel → x.stage = .executing → x.ran = true →
      x.since + 2 ^ 36 ≤ (s.dev.getTerr x.eng.t.val).arr →
      ∃ t y cl n off tval, exec (.kernelRunLimit uid) s = .next t ∧ t.dev.getPart uid = some y ∧ y.stage = .failed 0x10 ∧
        y.trap = some (0xFE, cl, n, off, tval))

/-! ### Jormon's messages. -/

/-- A message whose header fails is taken and answered with the refusal alone, whatever its opcode; a failing check word counts. A reply lands
in the slot of its message: the slot's 256 bytes are the reply, no other byte of the mailbox page changes, the slot's FREE bit is set and the
others stay, and with INTR the context's vector is sent or, masked, kept pending (R8, R348, R379 to R382). -/
def Obligations.Replies : Prop :=
  (∀ (s : State) (mb : Mb) (m : MsgIn) (st : Nat), s.headMsg mb = some m → s.precheck m = some st →
     let u := s.takeHead mb
     let v := if st = 2 then u.onDev fun d => d.count 0x0B 1 else u
     (∀ (i : Instr) (op : Nat), (i, op) ∈ [(.attach mb, 1), (.reattach mb, 2), (.detach mb, 3), (.ctxCreate mb, 4), (.ctxDestroy mb, 5),
         (.rangeMap mb, 6), (.rangeUnmap mb, 7), (.frameClass mb, 8), (.objRegister mb, 9), (.objPolicy mb, 10), (.abort mb, 13),
         (.gateAlloc mb, 15), (.gateFree mb, 16), (.note mb, 19), (.layoutRead mb, 20)] →
       m.op = op → Answers i s m v st []) ∧
     (∀ sp, m.op = 11 → Answers (.submit mb sp) s m v st []) ∧ (∀ sp, m.op = 12 → Answers (.submitList mb sp) s m v st [])) ∧
  (∀ (s : State) (n : Fin 4096) (r : ReplyTo) (c : Ctx) (st : Nat) (payload : Bytes), r.mb = .ctx n → s.dev.getCtx n.val = some c → r.slot < 16 →
     payload.length ≤ 240 →
     let t := s.reply r st payload
     ∃ d, t.dev.getCtx n.val = some d ∧ OnlyDev s t ∧ (replyBytes r st payload).length = 256 ∧
       (∀ k, k < 256 → Mem.get d.mbox.page (256 * r.slot + k) = (replyBytes r st payload).getD k 0) ∧
       (∀ a, a < 256 * r.slot ∨ 256 * r.slot + 256 ≤ a → Mem.get d.mbox.page a = Mem.get c.mbox.page a) ∧
       (∀ k, k < 16 → d.mbox.free.getLsbD k = (c.mbox.free.getLsbD k || decide (k = r.slot))) ∧
       d.mbox.produced = c.mbox.produced ∧ d.mbox.taken = c.mbox.taken ∧
       t.dev.getAtt c.home = (if bit r.mflags 0 then (s.dev.getAtt c.home).vector c.vector else s.dev.getAtt c.home))

/-- ATTACH gives the attachment a token and its event ring; REATTACH with that token makes its orphaned contexts active again; DETACH
without contexts or outflow ends at once (R354, R356). -/
def Obligations.AttachmentMessages : Prop :=
  ∀ (s : State) (mb : Mb) (m : MsgIn), Taken s mb m →
    let u := s.takeHead mb
    let x := u.dev.getAtt m.att
    let f (o n : Nat) : Nat := field m.b o n
    (m.op = 1 → x.token = none → f 16 8 % 4096 = 0 → 6 ≤ f 24 1 → f 24 1 ≤ 16 → f 25 1 < 2 →
      Answers (.attach mb) s m ((u.onDev fun d => d.modAtt m.att fun x => { x with
          token := some (Config.token u.dev.free), evtIova := f 16 8, evtLog2 := f 24 1, evtIntr := bit (f 25 1) 0,
          rings := Map.del x.rings 0 }).took 1)
        0 (leBytes 8 (Config.token u.dev.free).toNat ++ leBytes 1 m.att)) ∧
    (m.op = 2 → x.token = some (BitVec.ofNat 64 (f 16 8)) → (u.dev.orphaned m.att = true ∨ x.orphanLeft ≠ 0) →
      ∃ v k, Answers (.reattach mb) s m v 0 (leBytes 2 k ++ leBytes 6 0 ++ leBytes 8 x.ack) ∧ OnlyDev s v ∧
        (∀ n c, u.dev.getCtx n = some c → v.dev.getCtx n = some (if c.home = m.att then { c with state := .active } else c)) ∧
        v.dev.getAtt m.att = { x with held := false, orphanLeft := 0, resending := true, status := x.status &&& ~~~4#64 }) ∧
    (m.op = 3 → x.detach = none → u.dev.homedAt m.att = [] → x.items = [] →
      ∃ v, Answers (.detach mb) s m v 0 (leBytes 2 0) ∧ OnlyDev s v ∧
        v.dev.getAtt m.att = { x with token := none, detach := none, lapHeld := [], held := false, orphanLeft := 0 })

/-- CTX_CREATE makes a context with the request's fields, a fresh generation and an empty range table, homed at the sender; no other context
changes. A teardown fences its context: no part, gate, command, entry or write on its way is left under its tag; when its outflow has left, it
ends with its reply and the context is gone. No byte of device memory changes where no command that it stops or removes has an output, which
would be undefined (R365, R367, R374, R375, R376, R385). The number of a new context is the lowest free one, the model's choice (log 15). -/
def Obligations.ContextLife : Prop :=
  (∀ (s : State) (mb : Mb) (m : MsgIn) (n : Nat), Taken s mb m → m.op = 4 →
     let u := s.takeHead mb
     let f (o k : Nat) : Nat := field m.b o k
     u.createRefusal m = none → u.dev.freeCtx = some n →
     ∃ v c, Answers (.ctxCreate mb) s m v 0 (leBytes 2 n ++ leBytes 1 c.gen) ∧ OnlyDev s v ∧ v.dev.getCtx n = some c ∧ u.dev.getCtx n = none ∧
       (∀ k, k ≠ n → v.dev.getCtx k = u.dev.getCtx k) ∧ c.gen = (Map.get u.dev.gens n 15 + 1) % 16 ∧ c.home = m.att ∧ c.pt = f 16 1 ∧
       c.prio = f 17 1 ∧ c.vector = f 18 1 ∧ c.quota = f 20 4 ∧ c.engShare = f 24 2 ∧ c.caddyShare = f 26 2 ∧ c.recIova = f 32 8 ∧
       c.evtIova = f 48 8 ∧ c.ranges = [] ∧ c.cmds = [] ∧ c.state = .active ∧ c.teardown = none) ∧
  ((∀ (s : State) (mb : Mb) (m : MsgIn) (c : Ctx), Taken s mb m → m.op = 5 → (s.takeHead mb).dev.getCtx m.n = some c → c.teardown = none →
     ∃ t d a b, exec (.ctxDestroy mb) s = .next t ∧ t.dev.getCtx m.n = some d ∧ d.teardown = some (some m.back, a, b) ∧
       d.cmds = [] ∧ d.ranges = [] ∧ d.pins = [] ∧ d.journal = [] ∧
       (∀ p ∈ t.dev.parts, p.2.ctx ≠ m.n) ∧ (∀ g ∈ t.dev.gates, g.2.owner ≠ m.n) ∧
       (∀ w ∈ t.mem.flight, ¬ (w.ctx = m.n ∧ w.gen = c.gen)) ∧
       ((∀ x ∈ c.cmds, x.state.ended = false →
           outExtents x.desc = [] ∧ hostExtents x.desc = [] ∧ ∀ p ∈ (s.takeHead mb).dev.partsOf x, p.2.wrote = []) → t.mem.bytes = s.mem.bytes)) ∧
   (∀ (s : State) (n : Fin 4096) (c : Ctx) (back : Option ReplyTo) (a b : Nat), s.dev.getCtx n.val = some c → c.teardown = some (back, a, b) →
     (s.dev.getAtt c.home).items = [] →
     ∃ t, exec (.teardownReply n) s = .next t ∧ t.dev.getCtx n.val = none ∧ t.mem = s.mem))

/-- RANGE_MAP adds its entries, all of them, when every check holds, and none when one does not; RANGE_UNMAP marks its entry for removal; the
removal is performed once no command uses the entry, and no engine keeps it (R257, R267). The order of the checks is the model's (log 14). -/
def Obligations.RangeTables : Prop :=
  (∀ (s : State) (mb : Mb) (m : MsgIn) (c : Ctx), Taken s mb m → (s.takeHead mb).dev.getCtx m.n = some c →
    let u := s.takeHead mb
    let offs := (List.range (field m.b 16 1)).map fun i => 32 + 32 * i
    let es := offs.map fun o => entryAt m.b o
    let va := field m.b 16 4
    (m.op = 6 → (offs.any fun o => u.dev.entryField c.pt m.b o) = false →
      (∀ w, u.mapEntries m.n c es = .ok w →
        ∃ v d, Answers (.rangeMap mb) s m v 0 (leBytes 2 (c.ranges.length + es.length)) ∧ OnlyDev s v ∧ v.dev.getCtx m.n = some d ∧
          d.ranges = c.ranges ++ es.map fun e => ({ entry := e } : RangeRow)) ∧
      (∀ st, u.mapEntries m.n c es = .error st → Answers (.rangeMap mb) s m u st [])) ∧
    (m.op = 7 → (c.ranges.any fun r => r.entry.va = va && r.unmap.isNone) = true →
      ∃ t d, exec (.rangeUnmap mb) s = .next t ∧ OnlyDev s t ∧ t.dev.getCtx m.n = some d ∧
        d.ranges = c.ranges.map fun r => if r.entry.va = va ∧ r.unmap.isNone then { r with unmap := some (some m.back, c.nextSeq) } else r)) ∧
  (∀ (s : State) (n : Fin 4096) (g seq : Nat) (back : Option ReplyTo) (c : Ctx) (r : RangeRow), s.dev.getCtx n.val = some c →
    (c.ranges.find? fun r => r.entry.va = g && r.unmap.isSome) = some r → r.unmap = some (back, seq) → c.inUse r.entry seq = false →
    ∃ t d, exec (.rangeUnmapDone n g) s = .next t ∧ OnlyDev s t ∧ t.dev.getCtx n.val = some d ∧
      d.ranges = c.ranges.erase r ∧
      ∀ e ∈ t.dev.eng, ∀ x ∈ e.2.rcache, ¬ (x.1 = n.val ∧ x.2.va = g))

/-- FRAME_CLASS gives its frames their class, and every byte of a frame whose protection changes reads zero; OBJ_REGISTER makes the object with
its policy; OBJ_POLICY changes the fields that it marks, or releases the object (R202, R203, R206, R283). The order of the checks is the model's (log 14). -/
def Obligations.FramesAndObjects : Prop :=
  ∀ (s : State) (mb : Mb) (m : MsgIn) (c : Ctx), Taken s mb m → (s.takeHead mb).dev.getCtx m.n = some c →
    let u := s.takeHead mb
    let t := field m.b 16 1
    let first := field m.b 17 1
    let count := field m.b 18 1
    let cls := field m.b 19 1
    let num := field m.b 16 4
    let change := field m.b 44 1
    (m.op = 8 → first ≤ 191 → count ≠ 0 → first + count ≤ 192 → cls < 4 → has (u.mgmt.terraces c.pt) t = true →
      (∀ f, first ≤ f → f < first + count → u.dev.frameRefusal t f cls = none ∧ (186 ≤ f → bit cls 1 = true)) →
      ∃ v, Answers (.frameClass mb) s m v 0 [] ∧ v.pow = s.pow ∧ v.mgmt = s.mgmt ∧
        (∀ f, first ≤ f → f < first + count → (v.dev.getTerr t).frame f = cls) ∧
        (∀ f, f < first ∨ first + count ≤ f → (v.dev.getTerr t).frame f = (u.dev.getTerr t).frame f) ∧
        (∀ f a, first ≤ f → f < first + count → bit ((u.dev.getTerr t).frame f) 0 ≠ bit cls 0 → hbmPa t (f * 2 ^ 30) ≤ a →
          a < hbmPa t (f * 2 ^ 30) + 2 ^ 30 → Mem.get v.mem.bytes a = 0) ∧
        (∀ a, a < hbmPa t (first * 2 ^ 30) ∨ hbmPa t ((first + count) * 2 ^ 30) ≤ a → Mem.get v.mem.bytes a = Mem.get s.mem.bytes a)) ∧
    (m.op = 9 → policyReserved m.b = false → field m.b 44 1 = 0 → num < 2 ^ 22 → field m.b 20 4 ≠ 0 → field m.b 20 4 ≤ 262144 →
      policyField m.b (field m.b 20 4) = false → u.dev.getObj c.pt num = none → u.mgmt.policyOwner c.pt m.b = false →
      ∃ v o, Answers (.objRegister mb) s m v 0 [] ∧ OnlyDev s v ∧ v.dev.getObj c.pt num = some o ∧ o.granules = field m.b 20 4 ∧
        o.home = field m.b 24 1 ∧ o.expertHome = field m.b 25 1 ∧ o.attrs = field m.b 26 1 ∧ o.hint = field m.b 27 1 ∧ o.res = .caddyOnly ∧
        ∀ k, k ≠ num → v.dev.getObj c.pt k = u.dev.getObj c.pt k) ∧
    (m.op = 10 → num < 2 ^ 22 → policyReserved m.b = false → bits change 6 4 = 0 → ∀ o, u.dev.getObj c.pt num = some o →
      policyField m.b o.granules = false → u.mgmt.policyOwner c.pt m.b = false → u.dev.policyBusy c.pt num change o = false →
      (bit change 7 = false → ∃ v, Answers (.objPolicy mb) s m v 0 [] ∧ OnlyDev s v ∧ v.dev.getObj c.pt num = some (o.policy m.b change)) ∧
      (bit change 7 = true → ∃ v, Answers (.objPolicy mb) s m v 0 [] ∧ v.dev.getObj c.pt num = none))

/-- A descriptor that passes its checks is queued under the next number; one whose plan of translation leaves a gap is parked with a fault. A list
is queued in order. Nothing else takes effect at once: the command waits (R154, R262, R265, R386). Which split is made is the command's choice (R160). -/
def Obligations.Submission : Prop :=
  ∀ (s : State) (mb : Mb) (m : MsgIn) (sp : Split), Taken s mb m →
    let u := s.takeHead mb
    let b := sub m.b 16 128
    (∀ c j, m.op = 11 → u.dev.getCtx m.n = some c → u.judge m.n c b sp none = .ok j → c.pendingCount < 1024 → j.trans.gap = none →
      ∃ v d x, Answers (.submit mb sp) s m v 0 (leBytes 4 c.nextSeq) ∧ OnlyDev s v ∧ v.dev.getCtx m.n = some d ∧
        d.cmds = c.cmds ++ [x] ∧ x.seq = c.nextSeq ∧ x.desc = b ∧ x.state = .pending ∧ x.step = c.step ∧ x.plan = j.plan ∧
        d.nextSeq = (if c.nextSeq = 2 ^ 32 - 1 then 1 else c.nextSeq + 1) ∧
        d.step = (if dOp b = 0x30 then c.step + 1 else c.step)) ∧
    (∀ c j g, m.op = 11 → u.dev.getCtx m.n = some c → u.judge m.n c b sp none = .ok j → c.pendingCount < 1024 → j.trans.gap = some g →
      (u.dev.getPt c.pt).faults.length < 4096 → u.dev.backlog c.pt = [] →
      ∃ v, Answers (.submit mb sp) s m v 8 (leBytes 4 c.nextSeq) ∧
        ∃ f ∈ (v.dev.getPt c.pt).faults, f.ctx = m.n ∧ has f.parked c.nextSeq = true) ∧
    (∀ c va k, m.op = 12 → u.dev.getCtx m.n = some c → va = field m.b 16 8 → k = field m.b 24 2 → va % 128 = 0 → k ≠ 0 → k ≤ 1024 →
      va + 128 * k ≤ 2 ^ 48 → c.pendingCount + k ≤ 1024 → (∀ i, i < k → (u.dev.jormonPa m.n c (va + 128 * i)).isSome = true) →
      let ds := (List.range k).map fun i => u.readPa ((u.dev.jormonPa m.n c (va + 128 * i)).getD 0) 128
      let r := u.submitAll m.n sp ds {}
      Answers (.submitList mb sp) s m r.1 (if r.2.refused ≠ 0 then r.2.refused else if r.2.parked ≠ 0 then 8 else 0)
        (leBytes 4 r.2.first ++ leBytes 2 r.2.queued ++ leBytes 2 r.2.parked ++ leBytes 2 r.2.index ++ leBytes 2 r.2.refused))

/-- ABORT of a command that has not ended stops its parts and holds its reply; once no write of the command is on its way the abort is
settled, or the failure, and its outputs are undefined (log 57). RESUME of an open fault entry of the context closes it: with FAIL its parked descriptors fail with BAD_RANGE, with RETRY one
whose translation now has no gap is parked no longer (R164, R168, R170, R171, R270). -/
def Obligations.AbortAndResume : Prop :=
  ((∀ (s : State) (mb : Mb) (m : MsgIn) (c : Ctx) (x : Cmd), Taken s mb m → m.op = 13 → (s.takeHead mb).dev.getCtx m.n = some c →
     c.getCmd (field m.b 16 4) = some x → x.again = false → (x.state = .pending ∨ x.state = .running ∨ x.state = .aborting) →
     ∃ t y, exec (.abort mb) s = .next t ∧ t.dev.getCmd m.n x.seq = some y ∧ y.state = .aborting ∧ y.abortTo = x.abortTo ++ [m.back] ∧
       (∀ u ∈ x.parts, ∀ p, t.dev.getPart u = some p → p.live = false) ∧ t.mem.bytes = s.mem.bytes) ∧
   (∀ (s : State) (n : Fin 4096) (seq : Nat) (x : Cmd), s.dev.getCmd n.val seq = some x → s.landing x = false →
     let rest (t : State) : Prop := t.pow = s.pow ∧ t.mgmt = s.mgmt ∧ t.mem.flight = s.mem.flight ∧
       (outExtents x.desc = [] → hostExtents x.desc = [] → (∀ p ∈ s.dev.partsOf x, p.2.wrote = []) → t.mem = s.mem)
     (x.state = .aborting → ∃ t y, exec (.abortSettled n seq) s = .next t ∧ t.dev.getCmd n.val seq = some y ∧ y.state = .aborted ∧ rest t) ∧
     (∀ st, x.state = .failing st → ∃ t y, exec (.commandFailureSettled n seq) s = .next t ∧ t.dev.getCmd n.val seq = some y ∧
       y.state = .failed (s.dev.failStatus x st) ∧ rest t))) ∧
  (∀ (s : State) (mb : Mb) (sp : Split) (m : MsgIn) (c : Ctx) (f : FaultEntry), Taken s mb m → m.op = 14 →
     let u := s.takeHead mb
     u.dev.getCtx m.n = some c → ((u.dev.getPt c.pt).faults.find? fun f => f.num = field m.b 16 4) = some f → f.ctx = m.n → f.held = [] →
     u.dev.backlog c.pt = [] →
     let w := u.onDev fun d => d.modPt c.pt fun q => { q with faults := q.faults.filter fun g => g.num ≠ f.num }
     ∀ q x, f.parked = [q] → c.getCmd q = some x → x.again = false →
     (field m.b 20 1 = 1 → ∃ v y, Answers (.resumeFail mb) s m v 0 [] ∧ v.dev.getCmd m.n q = some y ∧ y.state = .failed 6 ∧
       ∀ g ∈ (v.dev.getPt c.pt).faults, g.num ≠ f.num) ∧
     (field m.b 20 1 = 0 → f.cause = 0 → x.state = .pending → ∀ j, w.judge m.n c x.desc sp (if x.homes.isEmpty then none else some x.homes) = .ok j →
       j.trans.gap = none → ∃ v y, Answers (.resumeRetry mb sp) s m v 0 [] ∧ v.dev.getCmd m.n q = some y ∧ y.parked = none ∧ y.plan = j.plan ∧
         y.state = .pending ∧ ∀ g ∈ (v.dev.getPt c.pt).faults, g.num ≠ f.num))

/-- GATE_ALLOC gives the context a free run of gates at the initial value, within its quota; GATE_FREE takes gates of the context away; gates of
no other number change (R366, R387). Which free run is given is the model's choice (log 16). -/
def Obligations.GateMessages : Prop :=
  ∀ (s : State) (mb : Mb) (m : MsgIn) (c : Ctx), Taken s mb m → (s.takeHead mb).dev.getCtx m.n = some c →
    let u := s.takeHead mb
    (∀ g k, m.op = 15 → k = field m.b 16 1 → k ≠ 0 → k ≤ 64 → (u.dev.gatesOf m.n).length + k ≤ c.quota → u.freeRun c.pt k = some g →
      ∃ v, Answers (.gateAlloc mb) s m v 0 (leBytes 2 g) ∧ OnlyDev s v ∧
        (∀ i, i < k → Map.find v.dev.gates (g + i) = some { value := BitVec.ofNat 64 (field m.b 24 8), owner := m.n }) ∧
        (∀ i, i < k → u.dev.gateFree (g + i) = true) ∧ ∀ h, h < g ∨ g + k ≤ h → Map.find v.dev.gates h = Map.find u.dev.gates h) ∧
    (∀ g k, m.op = 16 → g = field m.b 16 2 → k = field m.b 18 1 → k ≠ 0 → k ≤ 64 →
      (∀ i, i < k → ∃ x, Map.find u.dev.gates (g + i) = some x ∧ x.owner = m.n) →
      (c.cmds.any fun x => !x.state.ended && (dGates x.desc).any fun y => has ((List.range k).map fun i => g + i) y) = false →
      ∃ v, Answers (.gateFree mb) s m v 0 [] ∧ OnlyDev s v ∧ (∀ i, i < k → Map.find v.dev.gates (g + i) = none) ∧
        ∀ h, h < g ∨ g + k ≤ h → Map.find v.dev.gates h = Map.find u.dev.gates h)

/-- STATS_READ answers with the block that it names: the last latched values, or with LIVE the running ones; a period mark latches the blocks of
the device and of every partition that the record forms, and restarts them (R394, R395, R397). The log number of a latch is the last one issued, DEDUCED (log 19). -/
def Obligations.Statistics : Prop :=
  (∀ (s : State) (mb : Mb) (m : MsgIn), Taken s mb m → m.op = 17 → field m.b 17 1 < 2 → field m.b 21 1 ≠ 0 → field m.b 21 1 ≤ 28 →
    let u := s.takeHead mb
    let shows (x : Stats) : Bytes := leBytes 4 x.gen ++ leBytes 4 0 ++ leBytes 8 x.log ++
      (List.range (field m.b 21 1)).flatMap fun i => leBytes 8 (Map.get (if bit (field m.b 17 1) 0 then x.live else x.latched) (field m.b 20 1 + i) 0)
    (∀ n c, field m.b 16 1 = 0 → m.ctx = some n → u.dev.getCtx n = some c → Answers (.statsReadContext mb) s m u 0 (shows c.stats)) ∧
    (∀ n c, field m.b 16 1 = 1 → m.ctx = some n → u.dev.getCtx n = some c → Answers (.statsReadPartition mb) s m u 0 (shows (u.dev.getPt c.pt).stats)) ∧
    (field m.b 16 1 = 1 → m.ctx = none → u.mgmt.isOwner m.att = true → recMask u.mgmt.record (field m.b 18 1) ≠ 0 →
      Answers (.statsReadPartition mb) s m u 0 (shows (u.dev.getPt (field m.b 18 1)).stats)) ∧
    (field m.b 16 1 = 2 → m.ctx = none → Answers (.statsReadDevice mb) s m u 0 (shows u.dev.stats))) ∧
  (∀ s : State, s.mgmt.running = true → recMark s.mgmt.record ≠ 0 → s.mgmt.lastMark + recMark s.mgmt.record * 65536 ≤ s.kettle →
    ∃ t, exec .periodMark s = .next t ∧ t.mem = s.mem ∧ t.pow = s.pow ∧ t.mgmt = { s.mgmt with lastMark := s.kettle } ∧
      t.dev.stats = s.dev.stats.latch (s.mgmt.logSeq - 1) ∧
      ∀ p, p < 8 → (t.dev.getPt p).stats =
        if recMask s.mgmt.record p ≠ 0 then (s.dev.getPt p).stats.latch (s.mgmt.logSeq - 1) else (s.dev.getPt p).stats)

/-- The five kinds of QUERY, NOTE and LAYOUT_READ answer what the state holds, and but for the message's slot and NOTE's log record nothing
changes (R388, R399, R400, Table 16.5). The current log number is the last one issued, DEDUCED (log 19); the reply lengths are those of Table 16.5. -/
def Obligations.Queries : Prop :=
  ∀ (s : State) (mb : Mb) (m : MsgIn), Taken s mb m →
    let u := s.takeHead mb
    let key := field m.b 20 4
    (m.op = 18 → field m.b 16 1 = 0 → Answers (.queryDevice mb) s m u 0 (pad240 (leBytes 8 u.mgmt.hgId ++ leBytes 8 u.mgmt.serial.toNat ++
      leBytes 8 u.mgmt.fwVersion.toNat ++ leBytes 4 u.mgmt.layoutGen ++ leBytes 2 u.dev.ctxs.length ++ leBytes 2 0 ++ leBytes 8 (u.mgmt.logSeq - 1)))) ∧
    (∀ n c, m.op = 18 → m.ctx = some n → u.dev.getCtx n = some c →
      (field m.b 16 1 = 1 → Answers (.queryContext mb) s m u 0 (pad240 (u.dev.queryCtx n c))) ∧
      (∀ o, field m.b 16 1 = 2 → u.dev.getObj c.pt key = some o → Answers (.queryObject mb) s m u 0 (pad240 (u.dev.queryObj c.pt key o))) ∧
      (∀ g, field m.b 16 1 = 3 → Map.find u.dev.gates key = some g → g.owner = n → Answers (.queryGate mb) s m u 0 (pad240 (leBytes 8 g.value.toNat))) ∧
      (∀ g, field m.b 16 1 = 3 → Map.find u.dev.gates key = some g → g.owner ≠ n → Answers (.queryGate mb) s m u 4 []) ∧
      (∀ e, field m.b 16 1 = 4 → c.entry (field m.b 24 8) = some e → Answers (.queryRange mb) s m u 0 (pad240 e.bytes))) ∧
    (m.op = 19 → field m.b 16 1 ≠ 0 → field m.b 16 1 ≤ 47 →
      Answers (.note mb) s m (u.log 1 (some m.att) m.ctx (leBytes 1 (field m.b 16 1) ++ sub m.b 32 47)) 0 (leBytes 8 u.mgmt.logSeq)) ∧
    (m.op = 20 → layoutRun (field m.b 16 2) (field m.b 18 2) = true →
      Answers (.layoutRead mb) s m u (if u.mgmt.defaulted ∧ u.mgmt.layoutGen = 0 then 11 else 0)
        (leBytes 4 u.mgmt.layoutGen ++ leBytes 12 0 ++ Mem.read u.mgmt.record (field m.b 16 2) (field m.b 18 2)))

/-- LAYOUT_WRITE from the owner: STAGE writes its bytes into the sender's buffer alone, DISCARD empties it, COMMIT of a buffer that passes every
check puts it in force under the next generation, in both copies; every slice that leaves a partition reads zero (R362, R401, R484). The order of the checks is the model's (log 14). -/
def Obligations.LayoutWrites : Prop :=
  ∀ (s : State) (mb : Mb) (m : MsgIn), Taken s mb m → m.op = 21 → (s.takeHead mb).mgmt.isOwner m.att = true →
    let u := s.takeHead mb
    let x := u.dev.getAtt m.att
    (field m.b 16 1 = 0 → layoutRun (field m.b 18 2) (field m.b 20 2) = true → field m.b 24 4 = 0 →
      ∃ v, Answers (.layoutStage mb) s m v 0 [] ∧ OnlyDev s v ∧ v.dev.getAtt m.att = { x with
        staging := some (Mem.write (x.staging.getD u.mgmt.record) (field m.b 18 2) (sub m.b 32 (field m.b 20 2))) }) ∧
    (field m.b 16 1 = 2 → field m.b 18 2 = 0 → field m.b 20 2 = 0 → field m.b 24 4 = 0 →
      ∃ v, Answers (.layoutDiscard mb) s m v 0 [] ∧ OnlyDev s v ∧ v.dev.getAtt m.att = { x with staging := none }) ∧
    (∀ r, field m.b 16 1 = 1 → field m.b 18 2 = 0 → field m.b 20 2 = 0 → field m.b 24 4 = u.mgmt.layoutGen → x.staging = some r →
      recCheck r = true → recOk r [u.mgmt.split, recSplit r] = true → u.layoutBusy r = false →
      let g := (u.mgmt.layoutGen + 1) % 2 ^ 32
      let new := recSeal (Mem.write r 8 (leBytes 4 g))
      ∃ v, Answers (.layoutCommit mb) s m v 0 (leBytes 4 g) ∧ v.mgmt.record = new ∧ v.mgmt.layoutGen = g ∧ v.mgmt.copy0 = some new ∧
        v.mgmt.copy1 = some new ∧ v.pow = { s.pow with capW := recCap new } ∧ (v.dev.getAtt m.att).staging = none ∧
        ∀ t a, t ∈ leaving u.mgmt.record new → hbmPa t 0 ≤ a → a < hbmPa t 0 + 2 ^ 38 → Mem.get v.mem.bytes a = 0)

/-! ### Commands in execution. -/

/-- A part that executes and reaches its planes computes its lines: GEMM and GEMM_T the dot products of R58 to R65, CONVERT the numbers of
src, COPY the bytes of src, FILL its value. Its bytes are on their way to dst and to nowhere else, and no byte of memory has changed yet. With
HOST_DST they join the attachment's outflow, or the part fails with ATTACHMENT_LOST (R135, R143, R147, R148, R357). -/
def Obligations.TensorParts : Prop :=
  ∀ (s : State) (uid lo hi op : Nat) (p : Part), Runs s uid p op → p.kind.span = some (lo, hi) →
    let b := s.dev.descOf uid
    let io := planeIo s uid p b
    let v := s.forming uid p io
    let row (r : Ref) (l : Nat) : List Sys2Proof.Num := (v.refLine uid r l).1
    let a := pRef b p.kind 32
    let w := pRef b p.kind 64
    let o := pRef b p.kind 96
    let done (c : Instr) (d : Ref) (rows : List (List Sys2Proof.Num)) : Prop :=
      ∃ t, exec c s = .next t ∧ Computed s t uid io.writes ∧ RowsSent s t uid d (field b 2 2) lo rows
    Reached s uid p io →
    (∀ tr : Bool, op = (if tr then 2 else 1) → done (if tr then .gemmT uid else .gemm uid) o ((List.range (hi - lo)).map fun k =>
      (gemmLine tr w.fmt a.fmt o.fmt o.n0 ((List.range w.n1).map fun j => opElems w.fmt (row w (j + w.n1 * gemmBatch w o (lo + k))))
        (opElems a.fmt (row a (lo + k))) (v.dev.free + k * o.n0)).1)) ∧
    (op = 6 → done (.convert uid) w ((List.range (hi - lo)).map fun k => row a (lo + k))) ∧
    (op = 7 → dHost b = false → ∃ t, exec (.copy uid) s = .next t ∧ Computed s t uid io.writes ∧ ∀ l, lo ≤ l → l < hi →
      Sent s t uid (w.lineVa l) ((List.range (lineBytes a.fmt a.n0)).map fun k => v.vbyte uid (a.lineVa l + k)) ∧
      Sent s t uid (w.scaleAt l) (if a.fmt = 9 then [v.vbyte uid a.sva] else
        (List.range (lineScales a.fmt a.n0)).map fun k => v.vbyte uid (a.scaleVa l + k))) ∧
    (op = 9 → ∃ t, exec (.fill uid) s = .next t ∧ Computed s t uid io.writes ∧ ∀ l, lo ≤ l → l < hi →
      (a.fmt = 10 → Sent s t uid (a.lineVa l) ((List.range a.n0).flatMap fun _ => sub b 64 16)) ∧
      (a.fmt ≠ 10 → Sent s t uid (a.lineVa l) (packCodes a.fmt ((List.range a.n0).map fun _ => signed 32 (field b 64 4))) ∧
        Sent s t uid (a.scaleAt l) ((List.range (if a.fmt = 9 then 1 else lineScales a.fmt a.n0)).map fun _ => b.getD 68 0))) ∧
    (op = 7 → dHost b = true →
      let x := s.dev.getAtt (field b 112 1)
      (x.dlActive = true ∨ x.token ≠ none → ∃ t src, exec (.copyHostDst uid) s = .next t ∧ Computed s t uid [] ∧
        (t.dev.getAtt (field b 112 1)).items = x.items ++ [.exportOf uid src false] ∧
        ∀ l k pa, lo ≤ l → l < hi → k < lineBytes a.fmt a.n0 → v.dev.place uid 0 (a.lineVa l + k) = .phys pa →
          ∃ e ∈ src, ∃ j, j < e.2.2 ∧ e.1 + j = pa ∧ e.2.1 + j = field b 96 8 + (w.lineVa l - w.wva) + k) ∧
      (x.dlActive = false → x.token = none → ∃ t q, exec (.copyHostDst uid) s = .next t ∧ t.dev.getPart uid = some q ∧
        q.stage = .failed 0x13 ∧ t.mem.bytes = s.mem.bytes))

/-- A KERNEL part launches on the 20 clusters of its engine: each starts at the entry address with the registers of R129, and the launch block and
the arguments stand in its cup (R101, R129). -/
def Obligations.KernelLaunch : Prop :=
  ∀ (s : State) (uid : Nat) (p : Part), Runs s uid p 10 → p.kind = .kernel →
    let b := s.dev.descOf uid
    let io := kernelIo s uid p b
    s.dev.planeStop uid io.reads io.writes = none → (∀ k, k < 20 → (s.dev.getCl (20 * eIdx p.eng + k)).part = none) →
    ∃ t, exec (.kernel uid) s = .next t ∧ Computed s t uid [] ∧ ∀ k, k < 20 →
      let c := t.dev.getCl (20 * eIdx p.eng + k)
      c.run = .running ∧ c.part = some uid ∧ c.stall = .none ∧ c.pc = BitVec.ofNat 64 (field b 32 8 + field b 40 4) ∧
      c.xget 1 = Config.exitAddress ∧ c.xget 2 = 0x80000000001FC000 ∧ c.xget 10 = 0x80000000001FC000 ∧ c.xget 11 = BitVec.ofNat 64 k ∧
      c.xget 12 = 20 ∧ c.xget 13 = 0x80000000001FD000 ∧ c.kqcvt = 0 ∧ c.tickets = 0 ∧ c.tags = 0 ∧
      Mem.le c.cup 0x1FC000 2 = p.ctx % 2 ^ 16 ∧ Mem.le c.cup 0x1FC002 1 = k ∧ Mem.le c.cup 0x1FC008 4 = p.idx % 2 ^ 32 ∧
      ∀ j, j < field b 44 2 → Mem.get c.cup (0x1FD000 + j) = s.vbyte uid (field b 48 8 + j)

/-- ROUTE forms the rank passes of R179 to R189 and no expert's list passes the capacity; DISPATCH gathers the rows of its lists, or fails with
LIST_MISMATCH (R180, R185 to R189, R194).  -/
def Obligations.RouteAndDispatch : Prop :=
  ∀ (s : State) (uid op : Nat) (p : Part), Runs s uid p op →
    let b := s.dev.descOf uid
    let r := Ref.of b 32
    let d := Ref.of b 64
    (op = 3 → p.kind = .whole → s.dev.planeStop uid (partIn b .whole) (partOut b .whole) = none →
      let ranks := (List.range (rT b)).map fun t => ranking ((s.forming uid p (planeIo s uid p b)).refLine uid r t).1
      let z := routeAll (rCap b) (field b 105 1) (rK b) ranks
      ∃ t q, exec (.route uid) s = .next t ∧ t.dev.getPart uid = some q ∧ q.ran = true ∧ q.planned = z.plan (rE b) ∧
        t.mem.bytes = s.mem.bytes ∧ t.pow = s.pow ∧ t.mgmt = s.mgmt ∧ (∀ e, (z.list e).length ≤ rCap b) ∧
        (∀ e, e < rE b →
          Sent s t uid (field b 80 8 + 8 * e) (leBytes 4 (z.list e).length ++ leBytes 4 (demand (rK b) ranks e)) ∧
          Sent s t uid (field b 72 8 + 4 * rCap b * e) ((sortKey ((z.list e).map fun a => (a.1, a))).flatMap listEntry)) ∧
        Sent s t uid (field b 64 8) (leBytes 4 (rT b) ++ leBytes 1 (rK b) ++ leBytes 1 (rWfmt b) ++ leBytes 2 (rE b - 1) ++
          leBytes 4 (rCap b) ++ leBytes 1 (field b 105 1) ++ leBytes 3 0 ++
          (List.range (rT b)).flatMap fun k => (List.range 8).flatMap fun j => leBytes 2 (z.entry k j)) ∧
        Sent s t uid (field b 88 8) (leBytes 4 z.dropped.length ++ leBytes 12 0 ++ z.dropped.flatMap dropRecord)) ∧
    (∀ ps, op = 4 → p.kind = .experts ps →
      let io := dispatchIo s uid p b
      let v := s.forming uid p io
      let n (k : Nat) : Nat := v.countOf uid b k
      let bad : Bool := ps.any fun k => dCap b < n k || (v.listOf uid b k (min (n k) (dCap b))).any fun e => r.n1 ≤ e.1
      Reached s uid p io →
      (bad = false → ∃ t, exec (.dispatch uid) s = .next t ∧ t.mem.bytes = s.mem.bytes ∧ Computed v t uid (partOut b p.kind) ∧
        ∀ k ∈ ps, ∀ i e, (v.listOf uid b k (n k))[i]? = some e →
          Sent v t uid (d.lineVa (k * d.n1 + i)) ((List.range (lineBytes r.fmt r.n0)).map fun j => v.vbyte uid (r.lineVa e.1 + j)) ∧
          Sent v t uid (d.scaleAt (k * d.n1 + i)) (if r.fmt = 9 then [v.vbyte uid r.sva] else
            (List.range (lineScales r.fmt r.n0)).map fun j => v.vbyte uid (r.scaleVa e.1 + j))) ∧
      (bad = true → ∃ t q, exec (.dispatch uid) s = .next t ∧ t.dev.getPart uid = some q ∧ q.stage = .failed 0x11 ∧
        t.mem.bytes = s.mem.bytes))

/-- REDUCE sets out a partial for every slice of every line; a partial that lands is added to the value held for its row, once for each slot; the
last one sends the rows. A COMBINE source computes; a destination whose choices header does not fit fails with LIST_MISMATCH, and a row with no
expected slot is written as zero (R68, R69, R146, R198, R200). -/
def Obligations.Partials : Prop :=
  (∀ (s : State) (uid op : Nat) (p : Part), Runs s uid p op →
    let b := s.dev.descOf uid
    let r := pRef b p.kind 32
    let d := pRef b p.kind 64
    (∀ lo hi, op = 8 → p.kind.span = some (lo, hi) → Reached s uid p (planeIo s uid p b) →
      let v := s.forming uid p (planeIo s uid p b)
      ∃ t q, exec (.reduce uid) s = .next t ∧ OnlyDev s t ∧ t.dev.getPart uid = some q ∧ q.begun = true ∧ q.ran = false ∧
        q.coming.length = p.coming.length + (hi - lo) * r.n3 ∧
        (∀ k i, k < hi - lo → i < r.n3 → ∃ fr,
          let l := (v.refLine uid r (lo + k + d.lines * i)).1
          ({ row := lo + k, slot := i, vals := if dKa b then l.map Acc.ofNum else (roundLine d.fmt (field b 2 2) l fr).1 } : Partial) ∈ q.coming) ∧
        (dAdd b = true → ∀ k, k < hi - lo → Map.find q.held (lo + k) = some ((v.refLine uid d (lo + k)).1.map Acc.ofNum))) ∧
    (∀ ps, op = 5 → p.kind = .sources ps →
      Reached s uid p (combineIo s uid p b) → ∃ t q, exec (.combine uid) s = .next t ∧ t.dev.getPart uid = some q ∧ q.ran = true ∧
        t.mem.bytes = s.mem.bytes ∧ t.pow = s.pow ∧ t.mgmt = s.mgmt) ∧
    (∀ lo hi, op = 5 → p.kind = .dests lo hi →
      Reached s uid p (combineIo s uid p b) →
      let v := s.forming uid p (combineIo s uid p b)
      (v.headerBad uid b = true → ∃ t q, exec (.combine uid) s = .next t ∧ t.dev.getPart uid = some q ∧ q.stage = .failed 0x11 ∧
        t.mem.bytes = s.mem.bytes) ∧
      (v.headerBad uid b = false → v.wantedRows uid b lo hi = [] → dAdd b = false → (∀ q ∈ s.dev.siblings uid, q.2.ran = false) →
        ∃ t q, exec (.combine uid) s = .next t ∧ t.dev.getPart uid = some q ∧ q.begun = true ∧ q.ran = true ∧ t.mem.bytes = s.mem.bytes ∧
          ∀ l, lo ≤ l → l < hi → Sent v t uid (d.lineVa l) (List.replicate (lineBytes d.fmt d.n0) 0)))) ∧
  (∀ (s : State) (uid which : Nat) (p : Part) (c : Partial), s.dev.getPart uid = some p → p.coming[which]? = some c →
    bit (Map.get p.masks c.row 0) c.slot = false →
    let b := s.dev.descOf uid
    let d := pRef b p.kind 64
    let v := (landPartial (dKa b) d.fmt (field b 2 2) (Map.find p.held c.row) c.vals s.dev.free).1
    ∀ lo hi, p.kind.span = some (lo, hi) →
    (2 ≤ p.coming.length → ∃ t q, exec (.partialLands uid which) s = .next t ∧ OnlyDev s t ∧ t.dev.getPart uid = some q ∧
      q.held = Map.put p.held c.row v ∧ q.masks = Map.put p.masks c.row (Map.get p.masks c.row 0 + 2 ^ c.slot) ∧
      q.coming = p.coming.eraseIdx which ∧ q.ran = p.ran) ∧
    (p.coming = [c] → p.begun = true → p.ran = false → p.stage = .executing → dKa b = false → d.fmt ≠ 9 →
      ∃ t q, exec (.partialLands uid which) s = .next t ∧ t.dev.getPart uid = some q ∧ q.ran = true ∧ q.coming = [] ∧ t.mem.bytes = s.mem.bytes ∧
        ∀ l, lo ≤ l → l < hi →
          let h := heldBytes d.fmt (Map.get (Map.put p.held c.row v) l [])
          Sent s t uid (d.lineVa l) h.1 ∧ Sent s t uid (d.scaleVa l) h.2))

/-- DESCRIPTOR_DISPATCH puts the parts of the next descriptor into the queues of their engines, unless a context that comes first needs one of them;
the first ready part of an engine starts when it has a place and its space; a part that has computed and whose writes have landed commits, and
with its last part the command completes; a fault record enters the queue, or joins its entry (R156, R159, R165, R166, R268, R269, R369).  -/
def Obligations.PartLife : Prop :=
  (∀ (s : State) (n : Fin 4096) (c : Ctx) (x : Cmd), NextUp s n.val c x → x.plan ≠ [] →
    (s.dev.yields n.val c x.plan = true → exec (.descriptorDispatch n) s = .next s) ∧
    (s.dev.yields n.val c x.plan = false → (∀ o ∈ (s.dev.getPt c.pt).objs, o.2.res ≠ .sinking) →
      ∃ t y us, exec (.descriptorDispatch n) s = .next t ∧ OnlyDev s t ∧ t.dev.getCmd n.val x.seq = some y ∧ y.state = .running ∧
        y.parts = x.parts ++ us ∧ us.length = x.plan.length ∧
        ∀ i k e, x.plan[i]? = some (k, e) → ∃ u, us[i]? = some u ∧ has (t.dev.getEng (eIdx e)).queue u = true ∧ t.dev.getPart u =
          some { ctx := n.val, seq := x.seq, idx := i, eng := e, kind := k, work := minWork x.desc k, ledger := overlapBytes x.desc k })) ∧
  (∀ (s : State) (e : EngId),
    let i := eIdx e
    let es := s.dev.sharers e
    (((s.dev.getEng i).queue.find? fun u => s.dev.partReady u) = none → exec (.partStart e) s = .next s) ∧
    ∀ u p, ((s.dev.getEng i).queue.find? fun u => s.dev.partReady u) = some u → s.dev.getPart u = some p → s.dev.engineOn e = true →
      (s.pow.getDom e.t.val).partHold = false → (es.map fun k => (s.dev.getEng k).executing.length).sum < 4 →
      p.work + p.ledger + s.dev.cisternUsed es ≤ 48 * 2 ^ 20 →
      ∃ t q, exec (.partStart e) s = .next t ∧ OnlyDev s t ∧ t.dev.getPart u = some q ∧ q.stage = .executing ∧
        (t.dev.getEng i).executing = (s.dev.getEng i).executing ++ [u] ∧ (t.dev.getEng i).queue = (s.dev.getEng i).queue.filter fun v => v ≠ u) ∧
  (∀ (s : State) (uid : Nat) (p : Part) (x : Cmd), s.dev.getPart uid = some p → s.dev.getCmd p.ctx p.seq = some x → x.state = .running →
    let ps := s.dev.partsOf x
    ∀ chks : List (Nat × Check), (∀ y ∈ chks, y.2 = .ok) →
    (dOp (s.dev.descOf uid) ≠ 5 → p.stage = .executing → p.ran = true → s.partBusy uid = false →
      (p.kind = .kernel → s.dev.allExited uid (eIdx p.eng) = true) → p.planned = [] →
      ((∃ q ∈ ps, q.1 ≠ uid ∧ q.2.stage ≠ .committed) → ∃ t q y, exec (.partCommit uid chks) s = .next t ∧ t.dev.getPart uid = some q ∧
        q.stage = .committed ∧ t.dev.getCmd p.ctx p.seq = some y ∧ y.state = .running) ∧
      ((∀ q ∈ ps, q.1 = uid ∨ q.2.stage = .committed) → ∃ t y, exec (.partCommit uid chks) s = .next t ∧ t.dev.getCmd p.ctx p.seq = some y ∧
        y.state = .completed)) ∧
    (dOp (s.dev.descOf uid) = 5 → has x.parts uid = true →
      (∀ q ∈ ps, q.2.stage = .executing ∧ q.2.ran = true ∧ s.partBusy q.1 = false ∧ q.2.kind ≠ .kernel ∧ q.2.ctx = p.ctx ∧ q.2.seq = p.seq) →
      ∃ t y, exec (.partCommit uid chks) s = .next t ∧ t.dev.getCmd p.ctx p.seq = some y ∧ y.state = .completed)) ∧
  (∀ (s : State) (e : EngId) (r : FaultRec) (c : Ctx),
    let x := s.dev.getEng (eIdx e)
    let q := s.dev.getPt c.pt
    x.faultReg = some r → s.dev.getCtx r.ctx = some c → s.dev.backlog c.pt = [] → s.dev.lowerFirst c.pt (eIdx e) r = false →
    (∀ f, x.faultWait.head? = some f → f.full = false) →
    (q.joins r = false → q.faults.length < 4096 → ∃ t, exec (.faultEntryOpen e) s = .next t ∧ t.mem = s.mem ∧ t.pow = s.pow ∧
      (t.dev.getPt c.pt).faults = q.faults ++ [r.entry q.nextEntry] ∧ (t.dev.getEng (eIdx e)).faultReg = x.faultWait.head?) ∧
    (q.joins r = true → ∃ t, exec (.faultEntryOpen e) s = .next t ∧ OnlyDev s t ∧
      (t.dev.getPt c.pt).faults = q.faults.map (fun f => f.joinRec r) ∧ (t.dev.getEng (eIdx e)).faultReg = x.faultWait.head?))

/-- The commands that Jormon carries out at dispatch. PIN and UNPIN change the context's pins, all of a list or none; STEEP completes when its
objects are resident, and else promotes them and waits; SINK and SINK with KEEP start a sink or a write-back and wait, or complete. GATE_SIGNAL
adds its increments, holding at 2^64 - 1; GATE_WAIT completes when its conditions hold and stays where they do not (R151, R162, R163, R211, R213,
R214, R221). -/
def Obligations.JormonCommands : Prop :=
  (∀ (s : State) (n : Fin 4096) (c : Ctx) (x : Cmd), NextUp s n.val c x →
    let l := s.dev.listed c.pt (dObjs x.desc) x.objGen
    let ends (k : Instr) (st : CmdState) (f : State → Ctx → Prop) : Prop := ∃ t d y, exec k s = .next t ∧ OnlyDev s t ∧
      t.dev.getCtx n.val = some d ∧ t.dev.getCmd n.val x.seq = some y ∧ y.state = st ∧ f t d
    let waitsFor (t : State) (o r : Nat) : Prop := ∃ y, t.dev.getCmd n.val x.seq = some y ∧ y.waits = [(o, r)]
    let alone : Prop := ∀ p ∈ s.dev.parts, ∀ k, s.dev.getCtx p.2.ctx = some k → k.pt ≠ c.pt
    (l.2 = false → x.op = 0x12 →
      ((∀ o ∈ l.1, Map.get c.pins o.1 0 + timesIn l.1 o.1 ≤ 65535) →
        ends (.pin n) .completed fun _ d => ∀ o, Map.get d.pins o 0 = Map.get c.pins o 0 + timesIn l.1 o) ∧
      ((∃ o ∈ l.1, 65535 < Map.get c.pins o.1 0 + timesIn l.1 o.1) → ends (.pin n) (.failed 5) fun _ d => d.pins = c.pins)) ∧
    (l.2 = false → x.op = 0x13 →
      ((∀ o ∈ l.1, timesIn l.1 o.1 ≤ Map.get c.pins o.1 0) →
        ends (.unpin n) .completed fun _ d => ∀ o, Map.get d.pins o 0 = Map.get c.pins o 0 - timesIn l.1 o) ∧
      ((∃ o ∈ l.1, Map.get c.pins o.1 0 < timesIn l.1 o.1) → ends (.unpin n) (.failed 3) fun _ d => d.pins = c.pins)) ∧
    (l.2 = false → x.waits = [] → x.op = 0x10 →
      ((∀ o ∈ l.1, ∃ y, s.dev.getObj c.pt o.1 = some y ∧ y.res = .resident) →
        ends (.steep n) .completed fun t _ => ∀ o, t.dev.getObj c.pt o = s.dev.getObj c.pt o) ∧
      ∀ o r y, l.1 = [(o, r)] → s.dev.getObj c.pt o = some y → y.res = .caddyOnly → bit (field x.desc 33 1) 0 = false →
        ends (.steep n) .running fun t _ => waitsFor t o r ∧ ∃ z, t.dev.getObj c.pt o = some z ∧ z.res = .rising) ∧
    (l.2 = false → x.waits = [] → x.op = 0x11 → alone → bit (field x.desc 33 1) 0 = false → ∀ o r y, l.1 = [(o, r)] →
      s.dev.getObj c.pt o = some y → y.res = .resident → y.sinkOp = none →
      (bit (field x.desc 33 1) 1 = false → ends (.sink n) .running fun t _ => waitsFor t o r ∧
        ∃ z k, t.dev.getObj c.pt o = some z ∧ z.res = .sinking ∧ z.sinkOp = some k ∧ k.keep = false) ∧
      (bit (field x.desc 33 1) 1 = true → y.dirty = true → ends (.sinkKeep n) .running fun t _ => waitsFor t o r ∧
        ∃ z k, t.dev.getObj c.pt o = some z ∧ z.res = .resident ∧ z.sinkOp = some k ∧ k.keep = true) ∧
      (bit (field x.desc 33 1) 1 = true → y.dirty = false → ends (.sinkKeep n) .completed fun t _ => t.dev.getObj c.pt o = some y)) ∧
    (x.op = 0x20 → c.freeLater = [] → ends (.gateSignal n) .completed fun t d =>
      let inc (g : Nat) : Nat := ((x.signals.filter fun y => y.1 = g).map fun y => y.2).sum
      (∀ g, Map.find s.dev.gates g = none → Map.find t.dev.gates g = none) ∧
      (∀ g z, Map.find s.dev.gates g = some z → ∃ v, Map.find t.dev.gates g = some v ∧ v.owner = z.owner ∧
        v.value.toNat = if z.owner = n.val then min (2 ^ 64 - 1) (z.value.toNat + inc g) else z.value.toNat) ∧
      ∀ g z, Map.find s.dev.gates g = some z → z.owner = n.val → 2 ^ 64 ≤ z.value.toNat + inc g →
        bit (Map.get d.stats.live 0x1E 0) 1 = true) ∧
    (x.op = 0x21 → ends (.gateWait n) .completed fun _ _ =>
      ∀ g ∈ x.conditions, ∃ z, Map.find s.dev.gates g.1 = some z ∧ z.owner = n.val ∧ g.2 ≤ z.value.toNat)) ∧
  ∀ (s : State) (n : Fin 4096) (x : Cmd), s.dev.nextUp n.val = some x → s.dev.gatesMet n.val x = false → exec (.gateWait n) s = .next s

/-- FENCE and STEP_MARK complete once every earlier command has ended, and wait till then. A step commit keeps the context image as the STEP_MARK
found it, drops the step's journal, releases the plan pins, latches the statistics, publishes every object that the context owns, and parks an
orphaned context (R153, R175, R178, R226, R448). -/
def Obligations.StepCommit : Prop :=
  ∀ (s : State) (n : Fin 4096) (c : Ctx) (x : Cmd), NextUp s n.val c x →
    let earlier := c.cmds.takeWhile fun y => y.seq ≠ x.seq
    let done : Bool := earlier.all fun y => y.state.ended
    (∀ k, (x.op = 0x22 ∧ k = .fence n) ∨ (x.op = 0x30 ∧ k = .stepMark n) → done = false → ∃ t y, exec k s = .next t ∧ OnlyDev s t ∧
      t.dev.getCmd n.val x.seq = some y ∧ y.state = .running ∧ t.dev.gates = s.dev.gates) ∧
    (x.op = 0x22 → done = true → ∃ t y, exec (.fence n) s = .next t ∧ OnlyDev s t ∧ t.dev.getCmd n.val x.seq = some y ∧
      y.state = .completed ∧ t.dev.partns = s.dev.partns) ∧
    (x.op = 0x30 → done = true → ∃ t d, exec (.stepMark n) s = .next t ∧ t.mem = s.mem ∧ t.pow = s.pow ∧ t.dev.getCtx n.val = some d ∧
      d.image.ranges = x.snapRanges ∧ d.image.gates = x.snapGates.filterMap (fun g => s.dev.gateImage c g) ∧ d.image.pins = c.pins ∧
      d.pins = c.pins ∧ d.journal = c.journal.filter (fun j => x.step < j.step) ∧ d.planPins = [] ∧ d.noImage = false ∧ d.heldGates = [] ∧
      d.stats.gen = c.stats.gen + 1 ∧ d.state = (if c.state = .orphaned then .parkedAtStep else c.state) ∧ d.served = s.mgmt.fwVersion.toNat ∧
      (∀ o ∈ (t.dev.getPt c.pt).objs, o.2.owner ≠ some n.val) ∧
      ∀ o z, s.dev.getObj c.pt o = some z → z.owner = some n.val → ∃ v, t.dev.getObj c.pt o = some v ∧ v.shadow = [] ∧ v.pend = none)

/-- How objects rise: a rise takes its room; a chunk writes the record's bytes into the image's granule and nowhere else; a complete image is
resident and clean, and the STEEP that waited for it completes. A shadow granule starts as a copy of the published one. A rise that can never find
room is a deadlock: the object falls back, and a waiting STEEP fails with NO_RESOURCE (R215, R217, R223 to R225). -/
def Obligations.Rises : Prop :=
  ∀ s : State,
    let still : Prop := ∀ c ∈ s.dev.cl, ∀ va acc, c.2.stall ≠ .object va acc
    let steepWaits (pt num n : Nat) (c : Ctx) (y : Cmd) : Prop := s.dev.getCtx n = some c ∧ c.pt = pt ∧ (c.cmds.map fun z => z.seq).Nodup ∧
      y ∈ c.cmds ∧ y.op = 0x10 ∧ y.state = .running ∧ y.late = none ∧ (∃ r, y.waits = [(num, r)]) ∧
      ∀ p ∈ s.dev.parts, p.2.ctx ≠ n ∨ p.2.seq ≠ y.seq
    (∀ (pt : Fin 8) (num : Nat) (o : Obj) (r : Rise), s.dev.getObj pt.val num = some o → o.rise = some r →
      (∀ gs, s.dev.ready = true → r.room = false → o.sinkOp = none → s.dev.room o.home o.lean o.riseGranules = some gs →
        ∃ t z, exec (.riseRoom pt num) s = .next t ∧ OnlyDev s t ∧ t.dev.getObj pt.val num = some z ∧ z.image = gs.take o.granules ∧
          z.rise = some { r with room := true, waits := 0, loads := o.loads } ∧ z.record = o.record) ∧
      (o.res = .rising → r.room = true → (∀ c, c < o.riseGranules → has r.done c = true) → o.sinkWait = [] → still →
        ∃ t z, exec (.riseComplete pt num) s = .next t ∧ OnlyDev s t ∧ t.dev.getObj pt.val num = some z ∧ z.res = .resident ∧
          z.rise = none ∧ z.dirty = false ∧ z.image = o.image ∧
          ∀ n c y, steepWaits pt.val num n c y → ∃ v, t.dev.getCmd n y.seq = some v ∧ v.state = .completed) ∧
      (r.room = false → o.sinkOp = none → s.dev.fits o.home o.lean o.riseGranules = false → o.sinkWait = [] →
        ∃ t z, exec (.residencyDeadlock pt num) s = .next t ∧ t.mem.bytes = s.mem.bytes ∧ t.pow = s.pow ∧ t.dev.getObj pt.val num = some z ∧
          z.res = .caddyOnly ∧ z.rise = none ∧ z.image = [] ∧ z.record = o.record ∧
          ∀ n c y, steepWaits pt.val num n c y → ∃ v, t.dev.getCmd n y.seq = some v ∧ v.state = .failed 5)) ∧
    (∀ (h : Fin 4) (pt ptr num c : Nat) (o : Obj), s.dev.ready = true → s.infuserNext h.val = some (pt, ptr, num, c, false) →
      s.dev.getObj pt num = some o → c < o.granules → Mem.wf (o.record.getD []) = true →
      let base := o.image.getD c 0
      ∃ t z, exec (.infuserChunkDone h false) s = .next t ∧ t.pow = s.pow ∧ t.mgmt = s.mgmt ∧
        (∀ k, k < granule → Mem.get t.mem.bytes (base + k) = Mem.get (o.record.getD []) (c * granule + k)) ∧
        (∀ a, a < base ∨ base + granule ≤ a → Mem.get t.mem.bytes a = Mem.get s.mem.bytes a) ∧
        t.dev.getObj pt num = some z ∧ z.rise = o.rise.map fun r => { r with done := c :: r.done, redo := false }) ∧
    (∀ (pt : Fin 8) (num g : Nat) (n : Fin 4096) (o : Obj) (base : Nat), s.dev.getObj pt.val num = some o → bit o.attrs 1 = true →
      (o.owner = none ∨ o.owner = some n.val) → Map.find o.shadow g = none → g < o.image.length → s.dev.shadowWanted n.val pt.val num g = true →
      s.dev.room o.home o.lean 1 = some [base] → still →
      ∃ t z, exec (.shadowFill pt num g n) s = .next t ∧ t.pow = s.pow ∧ t.mgmt = s.mgmt ∧ t.dev.getObj pt.val num = some z ∧
        z.owner = some n.val ∧ z.shadow = o.shadow ++ [(g, base)] ∧ z.image = o.image ∧
        (∀ k, k < granule → Mem.get t.mem.bytes (base + k) = s.byte (o.image.getD g 0 + k)) ∧
        ∀ a, a < base ∨ base + granule ≤ a → Mem.get t.mem.bytes a = Mem.get s.mem.bytes a)

/-- How objects sink: a chunk of the image is read into the slot; where the object store has no room the sink is cancelled and the object stays
resident; at the release point the slot becomes the record, and the SINK that waited completes; the drain returns the granules. No byte of device
memory changes (R217 to R221). -/
def Obligations.Sinks : Prop :=
  ∀ s : State,
    (∀ (h : Fin 4) (pt ptr num c : Nat) (o : Obj) (k : SinkOp), s.dev.ready = true → s.infuserNext h.val = some (pt, ptr, num, c, true) →
      s.dev.getObj pt num = some o → o.sinkOp = some k → c < o.granules →
      let base := o.image.getD c 0
      let room := s.dev.storeUsed pt + chunkSize (s.granuleMem base) o.hint ≤ s.mgmt.store pt
      (room →
        ∃ t z q, exec (.infuserChunkDone h false) s = .next t ∧ OnlyDev s t ∧ t.dev.getObj pt num = some z ∧ z.record = o.record ∧ z.sinkOp = some q ∧
          q.done = c :: k.done ∧ (∀ i, i < granule → Mem.get q.slot (c * granule + i) = s.byte (base + i)) ∧
          ∀ a, a < c * granule ∨ (c + 1) * granule ≤ a → Mem.get q.slot a = Mem.get k.slot a) ∧
      (¬ room → o.sinkWait = [] → ∃ t z, exec (.infuserChunkDone h false) s = .next t ∧ OnlyDev s t ∧ t.dev.getObj pt num = some z ∧
        z.res = .resident ∧ z.sinkOp = none ∧ z.record = o.record ∧ z.dirty = o.dirty ∧ z.image = o.image)) ∧
    ∀ (pt : Fin 8) (num : Nat) (o : Obj) (k : SinkOp), s.dev.getObj pt.val num = some o → o.sinkOp = some k →
      let kept : Option Mem := if has k.done 0 then some (Mem.slice k.slot 0 (o.granules * granule) 0) else o.record
      let sinkWaits (n : Nat) (c : Ctx) (y : Cmd) : Prop := s.dev.getCtx n = some c ∧ c.pt = pt.val ∧ (c.cmds.map fun z => z.seq).Nodup ∧
        y ∈ c.cmds ∧ y.op = 0x11 ∧ y.state = .running ∧ y.late = none ∧ ∃ r, y.waits = [(num, r)]
      (k.released = false → (∀ c ∈ o.sinkChunks k.keep, has k.done c = true) → (k.keep = false → s.dev.pinCount pt.val num = 0) → o.sinkWait = [] →
        ∃ t z, exec (.sinkReleasePoint pt num) s = .next t ∧ OnlyDev s t ∧ t.dev.getObj pt.val num = some z ∧ z.record = kept ∧
          (k.keep = true → z.sinkOp = none ∧ z.dirty = k.rewritten ∧ z.res = o.res) ∧
          (k.keep = false → z.dirty = false ∧ z.released = true) ∧
          ∀ n c y, sinkWaits n c y → ∃ v, t.dev.getCmd n y.seq = some v ∧ v.state = .completed) ∧
      (k.released = true → ∃ t z, exec (.drainEnd pt num) s = .next t ∧ OnlyDev s t ∧ t.dev.getObj pt.val num = some z ∧ z.image = [] ∧
        z.shadow = [] ∧ z.sinkOp = none ∧ z.record = o.record ∧ (o.res = .sinking → z.res = .caddyOnly ∨ z.res = .rising))

/-! ### Homes, memory care, links and ports. -/

/-- A write on its way that may land is performed: its bytes are in memory, every other byte reads as before, and it is no longer on its way. A
read answers its reader with the line's bytes, or with what Table 11.3 gives for poison: ones to a window, exception 5 to a server core, an
error to a queue pair; an uncorrectable line of HBM is poisoned whole (R233, R250, R284, R285). -/
def Obligations.HomeReadsAndWrites : Prop :=
  (∀ (s : State) (id : Nat) (w : LineWrite), (s.mem.flight.find? fun w => w.id = id) = some w → s.mem.mayLand w = true →
    s.dev.arrived id = true → ∃ t, exec (.homeWrite id) s = .next t ∧ t.mgmt = s.mgmt ∧ t.pow = s.pow ∧ t.mem.flight = s.mem.flight.filter (fun x => x.id ≠ id) ∧
      ∀ a, t.byte a = if a / 128 = w.line ∧ w.mask.getLsbD (a % 128) = true then w.data.getD (a % 128) 0 else s.byte a) ∧
  ∀ (s : State) (pa len t off : Nat), paOf pa = .hbm t off → pa % 128 + len ≤ 128 →
    let bad := (List.range len).any fun i => s.bad (pa + i)
    let quiet (o : Origin) : Prop := ∀ w ∈ s.mem.flight, w.from' ≠ o
    (∀ a, quiet (.window a.val) → ∃ u, exec (.homeRead (.window a) pa len .ok) s = .next u ∧ OnlyDev s u ∧ (u.dev.getAtt a.val).rbad = bad ∧
      (u.dev.getAtt a.val).rdata = (if bad then List.replicate len 0xFF else s.readPa pa len) ∧
      ∀ b, b ≠ a.val → u.dev.getAtt b = s.dev.getAtt b) ∧
    (∀ c chk, s.admits c.val pa 1 = false → exec (.homeRead (.core c) pa len chk) s = .next s) ∧
    (∀ c, s.admits c.val pa 1 = true → (s.dev.getCore c.val).sb = [] → (s.dev.getCore c.val).stalled = [] →
      ∃ u, exec (.homeRead (.core c) pa len .ok) s = .next u ∧ OnlyDev s u ∧
      (let x := s.dev.getCore c.val
       u.dev.getCore c.val = if bad then { x with exc := 5 } else { x with rd := BitVec.ofNat 64 (leNat (s.readPa pa len)) })) ∧
    (∀ q x, s.dev.getQp q = some x → quiet (.qp q) → ∃ u y, exec (.homeRead (.rdma q) pa len .ok) s = .next u ∧ OnlyDev s u ∧ u.dev.getQp q = some y ∧
      y.answer = (if bad then 2 else 0) ∧ y.rdata = if bad then [] else s.readPa pa len) ∧
    ∀ a, quiet (.window a.val) → ∃ u, exec (.homeRead (.window a) pa len .uncorrectable) s = .next u ∧ u.mem.bytes = s.mem.bytes ∧
      Map.get u.mem.poison (pa / 128) 0 = fullMask ∧ (∀ l, l ≠ pa / 128 → Map.get u.mem.poison l 0 = Map.get s.mem.poison l 0)

/-- A scrub marks what it cannot correct and changes no byte; a row with four bad lines is repaired, or where its bank has no repair left
triggers the retirement of its pseudo-channel; a pseudo-channel with a trigger is
retired once its reserve frames are empty, and they leave the pool; a second one of a stack asks for service (R290 to R292). -/
def Obligations.MemoryRepair : Prop :=
  ∀ (s : State) (st : Fin 24) (pc : Fin 32),
    let x := s.dev.getStack st.val
    let t := st.val / 3
    (∀ pa t off, paOf pa = .hbm t off → exec (.patrolScrub pa .ok) s = .next s ∧
      (∃ u, exec (.patrolScrub pa .uncorrectable) s = .next u ∧ u.mem.bytes = s.mem.bytes ∧ Map.get u.mem.poison (pa / 128) 0 = fullMask ∧
        Map.get u.dev.stats.live 1 0 = min max64 (Map.get s.dev.stats.live 1 0 + 1)) ∧
      (s.dev.lean pa = false → ∃ u, exec (.patrolScrub pa .corrected) s = .next u ∧ u.mem = s.mem ∧
        Map.get u.dev.stats.live 0 0 = min max64 (Map.get s.dev.stats.live 0 0 + 1))) ∧
    (∀ bank row,
      let inRow (line : Nat) : Bool := match paOf (line * 128) with
        | .hbm t off => decide (Config.dramRow ((s.dev.hbmPlace t off).2.2) = (bank, row))
        | _ => false
      4 ≤ ((Map.get x.errs pc.val []).filter inRow).length →
      ∃ u, exec (.rowRepair st pc bank row) s = .next u ∧ u.mem = s.mem ∧ (∀ l ∈ Map.get (u.dev.getStack st.val).errs pc.val [], inRow l = false) ∧
        (if (x.repaired.filter fun r => r.1 = 2 ^ 16 * pc.val + bank).length < Config.bankRepairs then
           (u.dev.getStack st.val).repaired = x.repaired ++ [(2 ^ 16 * pc.val + bank, row)] ∧ (u.dev.getStack st.val).triggers = x.triggers
         else (u.dev.getStack st.val).repaired = x.repaired ∧ has (u.dev.getStack st.val).triggers pc.val = true)) ∧
    (has x.triggers pc.val = true → x.retired = none → s.dev.inReserve st.val = [] →
      ∃ u, exec (.pseudoChannelRetirement st pc) s = .next u ∧ u.mem = s.mem ∧ (u.dev.getStack st.val).retired = some pc.val ∧
        has (u.dev.getStack st.val).triggers pc.val = false ∧
        (∀ f, (u.dev.getTerr t).frame f = (s.dev.getTerr t).frame f) ∧
        ∀ f lean, 186 + 2 * (st.val % 3) ≤ f → f < 188 + 2 * (st.val % 3) → u.dev.frameOut t f = true ∧ has (u.dev.poolFrames t lean) f = false) ∧
    (∀ p, has x.triggers pc.val = true → x.retired = some p → ∃ u, exec (.pseudoChannelRetirement st pc) s = .next u ∧ u.mem = s.mem ∧
      (u.dev.getStack st.val).retired = some p ∧ has (u.dev.getStack st.val).triggers pc.val = false ∧ u.mgmt.service.getLsbD 1 = true)

/-- Refresh follows the readings; a caddy channel counts its retries and is retired at the eighth, unless another of its group is, when the
group is lost and L4 is called for; applying a stripe's parity changes no byte (R287, R295 to R299). -/
def Obligations.RefreshAndCaddy : Prop :=
  ∀ (s : State) (st : Fin 24) (c : Fin 52),
    let x := s.dev.getStack st.val
    let y := s.dev.getChan c.val
    let mate : Bool := (List.range 13).any fun k => decide (13 * (c.val / 13) + k ≠ c.val) && (s.dev.getChan (13 * (c.val / 13) + k)).retired
    (∀ q, ∃ u, exec (.hbmTemperatureRead st q) s = .next u ∧ u.mem = s.mem ∧ u.pow = s.pow ∧
      (u.dev.getStack st.val).refresh = max x.refresh (if q ≤ 340 then 1 else if q ≤ 380 then 2 else 4) ∧
      (u.dev.getStack st.val).coolLo = (if q ≤ 328 then some (x.coolLo.getD s.kettle) else none) ∧
      (u.dev.getStack st.val).coolHi = (if q ≤ 368 then some (x.coolHi.getD s.kettle) else none) ∧
      Map.get u.mgmt.sensors (0x2000 + st.val) none = some q) ∧
    (∀ a, x.refresh = 4 → x.coolHi = some a → a + 2 ^ 11 ≤ s.kettle →
      ∃ u, exec (.refreshStepDown st) s = .next u ∧ OnlyDev s u ∧ u.dev.getStack st.val = { x with refresh := 2 }) ∧
    (∀ a, x.refresh = 2 → x.coolLo = some a → a + 2 ^ 11 ≤ s.kettle →
      ∃ u, exec (.refreshStepDown st) s = .next u ∧ OnlyDev s u ∧ u.dev.getStack st.val = { x with refresh := 1 }) ∧
    (∀ ok, ∃ u, exec (.caddyRetry c ok) s = .next u ∧ OnlyDev s u ∧ u.dev.getChan c.val = { y with fails := if ok then 0 else y.fails + 1 } ∧
      Map.get u.dev.stats.live 3 0 = min max64 (Map.get s.dev.stats.live 3 0 + 1) ∧ ∀ k, k ≠ c.val → u.dev.getChan k = s.dev.getChan k) ∧
    (8 ≤ y.fails → y.retired = false → mate = false → ∃ u, exec (.caddyChannelRetired c) s = .next u ∧ u.mem = s.mem ∧
      u.dev.getChan c.val = { y with fails := 0, retired := true, badSerial := some y.serial } ∧ u.mgmt.service.getLsbD 2 = true ∧
      u.mgmt.l4 = s.mgmt.l4) ∧
    (8 ≤ y.fails → y.retired = false → mate = true → ∃ u, exec (.caddyChannelRetired c) s = .next u ∧ u.mem = s.mem ∧
      u.mgmt.l4 = true ∧ u.dev.ready = false ∧ (u.dev.getChan c.val).retired = false) ∧
    ∀ (h : Fin 4) (n : Nat), ∃ u, exec (.stripeBufferFlush h n) s = .next u ∧ OnlyDev s u ∧
      (∀ k, Map.find u.dev.stripes k = if k = h.val * 2 ^ 32 + n then none else Map.find s.dev.stripes k)

/-- A link's eighth failed replay in a row makes it retrain, the retrain clears its counts, and a link that does not train fails, which calls
for L3; a request joins its requester's queue of 16, an alarm before all that is none; a free port grants the chosen burst, highest class
first; an absent requester's queue is discarded with the writes that it brings, and its grant unless it has started and is no write (R306,
R309 to R315). The numbering of links, ports and requesters is the model's (log 25). -/
def Obligations.LinksAndPorts : Prop :=
  ∀ (s : State) (l : Fin 50) (port r : Nat),
    let x := s.dev.getLink l.val
    let p := s.dev.getAPort port
    let now := s.time.fabric
    (∀ ok, x.needs = false → x.failed = false → ∃ u, exec (.linkReplay l ok) s = .next u ∧ OnlyDev s u ∧
      (u.dev.getLink l.val).consec = (if ok then 0 else x.consec + 1) ∧ (ok = false → x.consec = 7 → (u.dev.getLink l.val).needs = true) ∧
      (255 ≤ (x.recent.filter fun t => now < t + 2 ^ 16).length → (u.dev.getLink l.val).needs = true) ∧ (u.dev.getLink l.val).failed = false) ∧
    (∀ bad, x.needs = true → x.failed = false → ∃ u, exec (.linkRetrained l bad) s = .next u ∧ u.mem = s.mem ∧ u.pow = s.pow ∧
      (u.dev.getLink l.val).needs = false ∧ (u.dev.getLink l.val).consec = 0 ∧ (u.dev.getLink l.val).recent = [] ∧
      (∀ m ∈ x.half, has (u.dev.getLink l.val).half m = true) ∧
      ∀ m n, (m, n) ∈ laneCounts l.val bad → spareLanes l.val < n → has (u.dev.getLink l.val).half m = true) ∧
    (x.failed = false → x.needs = true → ∃ u, exec (.linkFailed l) s = .next u ∧ u.mem.bytes = s.mem.bytes ∧ u.pow = s.pow ∧
      (u.dev.getLink l.val).failed = true ∧ (u.mgmt.l4 = true ∨ u.mgmt.l3Since.isSome = true)) ∧
    (∀ b : Burst, (burstPath b).head? = some port → has p.absent r = false →
      let old := Map.get p.queues r []
      let new : QBurst := { b := b, rev := 0, since := now }
      ∃ u, exec (.portRequest port r b) s = .next u ∧ OnlyDev s u ∧ (u.dev.getAPort port).grant = p.grant ∧
        (∀ k, k ≠ r → Map.get (u.dev.getAPort port).queues k [] = Map.get p.queues k []) ∧
        (16 ≤ old.length → Map.get (u.dev.getAPort port).queues r [] = old) ∧
        (old.length < 16 → Map.get (u.dev.getAPort port).queues r [] =
          if b.kind = .alarm then old.takeWhile QBurst.alarm ++ new :: old.dropWhile QBurst.alarm else old ++ [new])) ∧
    (∀ b : Burst, (burstPath b).head? ≠ some port → exec (.portRequest port r b) s = .next s) ∧
    (∀ q b age, s.dev.portHeld port = false → p.grant = none → p.choose now = some (q, b, age) → (Map.get p.queues q []).head? = some b →
      ∃ u, exec (.arbiterGrant port) s = .next u ∧ OnlyDev s u ∧ (u.dev.getAPort port).grant = some (q, b) ∧
        Map.get (u.dev.getAPort port).queues q [] = (Map.get p.queues q []).tail ∧ Map.get (u.dev.getAPort port).ptrs b.cls 0 = q + 1 ∧
        (p.batch = 0 → (∀ y ∈ p.seen, y.2.cls ≠ 0 → now < y.2.since + 512) → ∀ y ∈ p.seen, b.cls ≤ y.2.cls)) ∧
    (∃ u, exec (.requesterAbsent port r true) s = .next u ∧ u.mem.bytes = s.mem.bytes ∧ u.pow = s.pow ∧ u.mgmt = s.mgmt ∧
      has (u.dev.getAPort port).absent r = true ∧ Map.get (u.dev.getAPort port).queues r [] = [] ∧
      (∀ g, (u.dev.getAPort port).grant = some g ↔ p.grant = some g ∧ (g.1 = r → p.sent ≠ 0 ∧ g.2.cls ≠ 2)) ∧
      (∀ k, k ≠ r → Map.get (u.dev.getAPort port).queues k [] = Map.get p.queues k []) ∧ (∀ w ∈ u.mem.flight, w ∈ s.mem.flight) ∧
      ∀ b ∈ Map.get p.queues r [], ∀ i ∈ b.b.writes, has (u.dev.getAPort port).writes i = false → ∀ w ∈ u.mem.flight, w.id ≠ i) ∧
    ∃ u, exec (.requesterAbsent port r false) s = .next u ∧ OnlyDev s u ∧ has (u.dev.getAPort port).absent r = false ∧
      (u.dev.getAPort port).queues = p.queues ∧ (u.dev.getAPort port).grant = p.grant

/-! ### Server cores. -/

/-- Loads and stores of a running core, at the piece of memory that its page tables give: a load of the caddy sees the core's own stores over
memory, a store and CBO_ZERO wait in the store buffer, its oldest entry is performed at its place and nowhere else, and a fence empties
it. Device registers are read after the buffer has drained; cache-block operations change no byte and leave no dirty copy; a refused
translation is the exception that its use names, and a core whose dirty line fails its check is lost (R236, R245 to R248, R276, R318 to R322). A
store through a pool frame frees its object's content (R277): the entry performed here reaches none. -/
def Obligations.CoreAccesses : Prop :=
  ∀ (s : State) (c : Fin 96) (h : HPre) (va a : Nat) (log2 : Fin 4),
    let x := s.dev.getCore c.val
    let n := 2 ^ log2.val
    let line := a / 128
    (∀ (n : Nat) (v : Word) nc rest, x.sb = ⟨a, n, v, nc⟩ :: rest → a % 128 + n ≤ 128 → s.dev.objectAt (line * 128) = none →
      ∃ u, exec (.storePerformed c) s = .next u ∧
      (u.dev.getCore c.val).sb = rest ++ x.stalled.take (64 - rest.length) ∧ (u.dev.getCore c.val).stalled = x.stalled.drop (64 - rest.length) ∧
      ∀ b, u.byte b = if a ≤ b ∧ b < a + n then (leBytes n v.toNat).getD (b - a) 0 else s.byte b) ∧
    (∀ w, s.coreAt c.val h .load va a n 0 w → isCaddy a = true → w.admits c.val a n = true → w.poisonedAt a n = false →
      ∃ u, exec (.serverCoreLoad c h va log2) s = .next u ∧ u.pow = w.pow ∧ u.mgmt = w.mgmt ∧
        (u.dev.getCore c.val).rd = BitVec.ofNat 64 (leNat (w.forwarded c.val a n)) ∧ (u.dev.getCore c.val).sb = (w.dev.getCore c.val).sb ∧
        ((w.dev.getCore c.val).sb = [] → w.forwarded c.val a n = w.readPa a n) ∧ ∀ b, u.byte b = w.byte b) ∧
    (∀ w ty v, s.coreAt c.val h .store va a n ty w → ty ≠ 2 → isReg a = false → w.admits c.val a n = true →
      let sb := (w.dev.getCore c.val).sb
      let e : SbEntry := { a := a, n := n, v := BitVec.ofNat 64 (v.toNat % 2 ^ (8 * n)), nc := ty ≠ 0 }
      ∃ u, exec (.serverCoreStore c h va log2 v) s = .next u ∧ OnlyDev w u ∧
        (sb.length < 64 → (u.dev.getCore c.val).sb = sb ++ [e] ∧ (u.dev.getCore c.val).stalled = []) ∧
        (64 ≤ sb.length → (u.dev.getCore c.val).sb = sb ∧ (u.dev.getCore c.val).stalled = [e])) ∧
    (x.acts = true →
      (x.sb.length ≤ 64 → ∃ u, exec (.serverCoreFence c true) s = .next u ∧ (u.dev.getCore c.val).sb = [] ∧ u.pow = s.pow ∧ u.mgmt = s.mgmt) ∧
      (∃ u, exec (.serverCoreFence c false) s = .next u ∧ OnlyDev s u ∧ (u.dev.getCore c.val).sb = x.sb) ∧
      (∀ k, (s.accessing c.val h).span c.val .load va n = .fault k →
        ∃ u, exec (.serverCoreLoad c h va log2) s = .next u ∧ (u.dev.getCore c.val).exc = k) ∧
      (∀ k v, (s.accessing c.val h).span c.val .store va n = .fault k →
        ∃ u, exec (.serverCoreStore c h va log2 v) s = .next u ∧ (u.dev.getCore c.val).exc = k) ∧
      ∀ lv way, (s.accessing c.val h).span c.val .load va n = .ok [⟨a, n, 0⟩] → h.hit = some (lv, way, .uncorrectable) →
        (Map.find x.dirty line).isSome = true → ∃ u, exec (.serverCoreLoad c h va log2) s = .next u ∧ (u.dev.getCore c.val).hart ≠ .running) ∧
    (∀ w ty p off, s.coreAt c.val h .load va a n ty w → w.corePt c.val = some p →
      coreReg p (w.mgmt.cores p).length (w.dev.getCore c.val).csrs.mode.val a = .sp off → a % n = 0 → (w.dev.getCore c.val).sb = [] →
      (w.dev.getCore c.val).stalled = [] → ∃ u, exec (.ioRegionAccess c h va log2.val none) s = .next u ∧ OnlyDev w u ∧
        (u.dev.getCore c.val).rd = BitVec.ofNat 64 (w.pow.spReg (off / 8 * 8) / 2 ^ (8 * (off % 8)) % 2 ^ (8 * n))) ∧
    (∀ w ty, s.coreAt c.val h .store (va / 64 * 64) a 64 ty w → ty ≠ 2 → isReg a = false → w.admits c.val a 64 = true →
      (w.dev.getCore c.val).sb.length < 64 → ∃ u, exec (.cboZero c h va) s = .next u ∧ OnlyDev w u ∧
        (u.dev.getCore c.val).sb = (w.dev.getCore c.val).sb ++ [⟨a, 64, 0, ty ≠ 0⟩]) ∧
    (∀ w ty, s.coreAt c.val h .block (va / 64 * 64) a 64 ty w → w.admits c.val a 64 = true → (w.dev.getCore c.val).sb = [] →
      (w.dev.getCore c.val).stalled = [] →
      (∃ u, exec (.cboClean c h va) s = .next u ∧ u.dev.dirtyCopy line = none ∧ ∀ b, u.byte b = w.byte b) ∧
      (∃ u, exec (.cboFlush c h va) s = .next u ∧ u.dev.dirtyCopy line = none ∧ (∀ k, has (u.dev.getCore k).clean line = false) ∧
        ∀ b, u.byte b = w.byte b) ∧
      ∃ u, exec (.cboInval c h va) s = .next u ∧ u.dev.dirtyCopy line = none ∧ (∀ k, has (u.dev.getCore k).clean line = false) ∧
        ∀ b, u.byte b = w.byte b) ∧
    (x.acts = true → (s.accessing c.val h).span c.val .block (va / 64 * 64) 64 = .ok [⟨a, 64, 0⟩] → s.admits c.val (line * 128) 128 = true →
      ∃ u, exec (.prefetch c h va) s = .next u ∧
        (has (u.dev.getCore c.val).clean line = true ∨ (Map.find (u.dev.getCore c.val).dirty line).isSome = true) ∧ ∀ b, u.byte b = s.byte b)

/-- Atomics of system memory by a core whose store buffer is empty: an AMO returns the old value and writes the new one in one action, LR holds
the line, SC writes and returns 0 while the line is held and else returns 1; any write of the line ends the hold (R242 to R244). -/
def Obligations.CoreAtomics : Prop :=
  ∀ (s : State) (c : Fin 96) (h : HPre) (va a : Nat) (dbl aq rl : Bool) (v : Word),
    let n := if dbl then 8 else 4
    let plain (use : PageUse) (w : State) : Prop := s.coreAt c.val h use va a n 0 w ∧ (w.dev.getCore c.val).sb = [] ∧
      (w.dev.getCore c.val).stalled = [] ∧ w.admits c.val a n = true ∧ isCaddy a = true ∧ a % n = 0
    let writes (w : State) (k : Instr) (bs : Bytes) (rd : Word) : Prop := ∃ u, exec k s = .next u ∧ (u.dev.getCore c.val).rd = rd ∧
      (∀ b, u.byte b = if a ≤ b ∧ b < a + n then bs.getD (b - a) 0 else w.byte b) ∧ (u.dev.getCore c.val).resv ≠ some (a / 128) ∧
      u.pow = w.pow ∧ u.mgmt = w.mgmt
    (∀ w op, plain .store w → w.poisonedAt a n = false → let old := w.readPa a n
      writes w (.serverCoreAmo c h va dbl aq rl op v) (leBytes n (amoResult op (8 * n) (leNat old) (v.toNat % 2 ^ (8 * n)))) (sext n old)) ∧
    (∀ w, plain .load w → w.poisonedAt a n = false → ∃ u, exec (.lr c h va dbl aq rl) s = .next u ∧ OnlyDev w u ∧
      (u.dev.getCore c.val).rd = sext n (w.readPa a n) ∧ (u.dev.getCore c.val).resv = some (a / 128)) ∧
    (∀ w, plain .store w → (w.dev.getCore c.val).resv = some (a / 128) → writes w (.sc c h va dbl aq rl v) (leBytes n v.toNat) 0) ∧
    (∀ w, plain .store w → (w.dev.getCore c.val).resv ≠ some (a / 128) → ∃ u, exec (.sc c h va dbl aq rl v) s = .next u ∧ OnlyDev w u ∧
      (u.dev.getCore c.val).rd = 1 ∧ (u.dev.getCore c.val).resv = none ∧ ∀ b, u.byte b = w.byte b) ∧
    ∀ line mask data, ((s.homeWrite line mask data).dev.getCore c.val).resv ≠ some line

/-- The monitor and the interrupt files: go = 1 starts hart 0 at the entry address and leaves the others stopped; a halt, a shutdown and a
reboot hold every hart; a hart that is started runs at its address; a suspended one wakes for an interrupt. A lost core's number goes to a spare of
its die while there is one, and every caddy line that it held dirty is poisoned whole (R300, R326 to R332). Codes of SBI and the register layout of the interrupt files are PRESUMED (log 26, 27). -/
def Obligations.ServerHarts : Prop :=
  (∀ (s : State) (p : Fin 8) (c : Fin 96),
     let cores := s.mgmt.cores p.val
     let x := s.dev.getCore c.val
     let held (u : State) (status : Nat) : Prop := u.bootField p.val 8 4 = status ∧
       ∀ k ∈ cores, (s.dev.getCore k).hart ≠ .lost → (u.dev.getCore k).hart = .held
     (s.dev.ready = true → s.mgmt.terraces p.val ≠ [] → s.bootValid p.val = true → s.bootField p.val 8 4 = 1 → s.allHeld p.val = true →
       s.entryOk p.val = true → ∃ u, exec (.bootStart p) s = .next u ∧ u.bootField p.val 8 4 = 2 ∧ ∀ k ∈ cores, (s.dev.getCore k).hart ≠ .lost →
         (s.mgmt.hartOf p.val k = 0 → (u.dev.getCore k).hart = .running ∧ (u.dev.getCore k).csrs = {} ∧ (u.dev.getCore k).a0 = 0 ∧
           (u.dev.getCore k).pc = BitVec.ofNat 64 (s.bootField p.val 16 8) ∧ (u.dev.getCore k).a1 = BitVec.ofNat 64 (s.bootField p.val 24 8)) ∧
         (s.mgmt.hartOf p.val k ≠ 0 → (u.dev.getCore k).hart = .stopped)) ∧
     (s.mgmt.terraces p.val ≠ [] → s.bootValid p.val = true → s.bootField p.val 8 4 = 5 → s.allHeld p.val = false →
       ∃ u, exec (.bootHalt p) s = .next u ∧ held u 3) ∧
     (x.acts = true → s.corePt c.val = some p.val →
       (∃ u, exec (.sbiSrstShutdown c) s = .next u ∧ held u 3) ∧
       (∃ u, exec (.sbiSrstReboot c) s = .next u ∧ held u 1 ∧ u.bootField p.val 12 4 = 1 ∧ (u.dev.getPt p.val).monitor = s.mgmt.fwVersion.toNat) ∧
       (∀ h t addr arg, cores[h]? = some t → (s.dev.getCore t).hart = .stopped → s.mgmt.admits p.val addr.toNat 1 = true →
         ∃ u, exec (.hsmStart c h addr arg) s = .next u ∧ (u.dev.getCore c.val).a0 = 0 ∧ (u.dev.getCore t).hart = .running ∧
           (u.dev.getCore t).pc = addr ∧ (u.dev.getCore t).a0 = BitVec.ofNat 64 h ∧ (u.dev.getCore t).a1 = arg ∧ (u.dev.getCore t).csrs = {})) ∧
     (∀ (g : HPre) va a ty w h f t (v : BitVec 32), s.coreAt c.val g .store va a 4 ty w → w.corePt c.val = some p.val →
       coreReg p.val cores.length (w.dev.getCore c.val).csrs.mode.val a = .file h f 0 → a % 4 = 0 → cores[h]? = some t →
       (w.dev.getCore t).hart ≠ .lost → 1 ≤ v.toNat → v.toNat ≤ 255 →
       ∃ u, exec (.imsicWrite c g va v) s = .next u ∧ u.pow = w.pow ∧ u.mgmt = w.mgmt ∧ has (u.dev.getCore t).imsic (256 * f + v.toNat) = true ∧
         ((w.dev.getCore t).hart = .suspended → (u.dev.getCore t).hart = .running)) ∧
     (x.acts = true →
       (∃ u, exec (.wrsNto c) s = .next u ∧ OnlyDev s u ∧ u.dev.getCore c.val = { x with wrs := x.resv.isSome }) ∧
       (∃ u, exec (.wrsSto c) s = .next u ∧ OnlyDev s u ∧ u.dev.getCore c.val = { x with wrs := false }) ∧
       (∃ u, exec (.hsmSuspend c true) s = .next u ∧ OnlyDev s u ∧ u.dev.getCore c.val = { x with hart := .suspended, retentive := true, wrs := false }) ∧
       (x.sb.length ≤ 64 → ∃ u, exec (.hsmSuspend c false) s = .next u ∧ (u.dev.getCore c.val).hart = .suspended ∧
         (u.dev.getCore c.val).sb = [] ∧ (u.dev.getCore c.val).dirty = [] ∧ (u.dev.getCore c.val).clean = []))) ∧
  (∀ (s : State) (c : Fin 96) (p : Nat),
     let x := s.dev.getCore c.val
     let used := Map.get s.dev.spareCores (c.val / 48) 0
     x.hart ≠ .lost → s.corePt c.val = some p →
     (∀ l ∈ x.dirty, ∀ i, i < 16 → l.1 ≠ ((s.mgmt.sysmem p).1 + 40 + i) / 128) →
     ∃ u, exec (.hartLost c) s = .next u ∧ (∀ l ∈ x.dirty, Map.get u.mem.poison l.1 0 = fullMask) ∧ (u.dev.getPt p).sources.testBit 2 = true ∧
       (used < 4 → (u.dev.getCore c.val).hart = .stopped ∧ (u.dev.getCore c.val).phys = some (48 + used) ∧ (u.dev.getCore c.val).dirty = [] ∧
         Map.get u.dev.spareCores (c.val / 48) 0 = used + 1) ∧
       (4 ≤ used → (u.dev.getCore c.val).hart = .lost))

/-! ### Host attachments and network ports. -/

/-- A write through a bound window is on its way to its line's home with its bytes and mask, or is dropped and counted; a read answers, after
the window's own writes have landed, with what the homes serve; a read of HG_WINDOW_VA binds the window to an active context of the
attachment, or unbinds it (R250, R251, R258, R341 to R343). -/
def Obligations.WindowAccesses : Prop :=
  ∀ (s : State) (a : Fin 8) (off : Nat), s.linked a.val = true → s.pow.dormant = false →
    let x := s.dev.getAtt a.val
    (∀ n base c, x.bound = some (n, base) → s.dev.ready = true → s.dev.getCtx n = some c →
      let va := base * 2 ^ 16 + off
      (∀ (pa : Nat) (data : Bytes), s.dev.clientPa n va true = some pa → data ≠ [] → va % 128 + data.length ≤ 128 → pa % 128 = va % 128 →
        ∃ u w, exec (.windowWrite a off data) s = .next u ∧ u.mem.bytes = s.mem.bytes ∧ u.mem.flight = s.mem.flight ++ [w] ∧ u.dev = s.dev ∧
          w.from' = .window a.val ∧ w.ctx = n ∧ w.gen = c.gen ∧ w.line = pa / 128 ∧ w.mask = maskOf (pa % 128) data.length ∧
          ∀ i, i < data.length → w.data.getD (pa % 128 + i) 0 = data.getD i 0) ∧
      (∀ data : Bytes, s.dev.clientPa n va true = none → data ≠ [] → va % 128 + data.length ≤ 128 →
        ∃ u d, exec (.windowWrite a off data) s = .next u ∧ u.mem = s.mem ∧ u.dev.getCtx n = some d ∧
          Map.get d.stats.live 0x12 0 = min max64 (Map.get c.stats.live 0x12 0 + 1)) ∧
      (∀ pa len, let v := s.landAll (.window a.val)
        v.dev.clientPa n va false = some pa → len ≠ 0 → va % 128 + len ≤ 128 →
        ∃ u, exec (.windowRead a off len) s = .next u ∧ u.mem = v.mem ∧ (u.dev.getAtt a.val).rbad = v.poisonedAt pa len ∧
          (u.dev.getAtt a.val).rdata = if v.poisonedAt pa len then List.replicate len 0xFF else v.readPa pa len)) ∧
    (x.bound = none → ∀ data : Bytes, ∃ u, exec (.windowWrite a off data) s = .next u ∧ u.mem = s.mem ∧
      (u.dev.getAtt a.val).winDrops = min max64 (x.winDrops + 1) ∧ (u.dev.getAtt a.val).status.getLsbD 10 = true) ∧
    ((∀ w ∈ s.mem.flight, w.from' ≠ .window a.val) →
      let n := x.winCtx.toNat % 2 ^ 12
      let base := bits x.winVa.toNat 47 16
      let binds (b : Option (Nat × Nat)) : Prop := ∃ u, exec (.windowBind a) s = .next u ∧ u.mem = s.mem ∧ (u.dev.getAtt a.val).bound = b ∧
        (b = none → (u.dev.getAtt a.val).winCtx.getLsbD 16 = false)
      (x.winCtx.getLsbD 16 = false → binds none) ∧
      (∀ c, x.winCtx.getLsbD 16 = true → s.dev.getCtx n = some c → c.home = a.val → c.state = .active → binds (some (n, base))) ∧
      (x.winCtx.getLsbD 16 = true → (∀ c, s.dev.getCtx n = some c → c.home ≠ a.val ∨ c.state ≠ .active) → binds none))

/-- Bytes written to free slots of a mailbox land and no others do; a doorbell that covers 1 to 16 free slots sends them, and another is counted;
a read of 8 or 4 bytes returns them and clears the register if it is RC; a write changes writable bits alone; an unsupported request counts
(R6, R7, R336, R345 to R347, R433). The MSI-X table layout is PRESUMED (log 6). -/
def Obligations.HostRequests : Prop :=
  ∀ (s : State) (a : Fin 8) (mb : Mb), s.linked a.val = true → s.pow.dormant = false →
    let x := s.dev.getAtt a.val
    (∀ y, s.reach a.val mb = some y →
      (∀ (off : Nat) (data : Bytes), ∃ u z, exec (.mailboxSlotWrite a mb off data) s = .next u ∧ u.mem = s.mem ∧ u.reach a.val mb = some z ∧
        z.free = y.free ∧ z.produced = y.produced ∧ z.taken = y.taken ∧
        ∀ p, Mem.get z.page p = if off ≤ p ∧ p < off + data.length ∧ p < 4096 ∧ y.free.getLsbD (p / 256) = true then data.getD (p - off) 0
          else Mem.get y.page p) ∧
      (∀ v : Word, let n := (v.toNat + 2 ^ 16 - y.produced) % 2 ^ 16
        let slots := (List.range n).map fun i => (y.produced + i) % 16
        (v.toNat < 2 ^ 16 → 1 ≤ n → n ≤ 16 → (∀ k ∈ slots, y.free.getLsbD k = true) → ∃ u z, exec (.doorbell a mb true false v) s = .next u ∧
          OnlyDev s u ∧ u.reach a.val mb = some z ∧ z.produced = v.toNat ∧ z.page = y.page ∧ z.taken = y.taken ∧
          ∀ k, k < 16 → z.free.getLsbD k = (y.free.getLsbD k && !has slots k)) ∧
        (n = 0 ∨ 16 < n ∨ 2 ^ 16 ≤ v.toNat ∨ (∃ k ∈ slots, y.free.getLsbD k = false) → ∃ u, exec (.doorbell a mb true false v) s = .next u ∧
          u.reach a.val mb = some y ∧ (u.dev.getAtt a.val).dbRejects = min max64 (x.dbRejects + 1) ∧
          (u.dev.getAtt a.val).status.getLsbD 8 = true))) ∧
    (∀ off size8, let n := if size8 then 8 else 4
      let reg := off / 8 * 8
      off % n = 0 → off < 0x800 → reg ≠ 0x068 → ∃ u, exec (.registerReadClear (.host a) off size8) s = .next u ∧ OnlyDev s u ∧
      u.dev.getAtt a.val = { x.readClear reg with rdata := sub (leBytes 8 (s.hgReg a.val reg)) (off % 8) n, rbad := false } ∧
      ∀ b, b ≠ a.val → u.dev.getAtt b = s.dev.getAtt b) ∧
    (∀ v : Word, (∃ u, exec (.registerWrite (.host a) 0x050 .rw 0 0 true v) s = .next u ∧ OnlyDev s u ∧ (u.dev.getAtt a.val).scratch = v) ∧
      (∃ u, exec (.registerWrite (.host a) 0x040 .rw 0 0 true v) s = .next u ∧ OnlyDev s u ∧
        (u.dev.getAtt a.val).status = x.status &&& ~~~(v &&& 0x7F04#64)) ∧
      (let c := v.toNat % 2 ^ 13
       ∃ u, exec (.registerWrite .jormon 0x3000000020000 .rw 0 0 true v) s = .next u ∧ OnlyPow s u ∧
        u.pow = { s.pow with capW := if 2500 ≤ c ∧ c ≤ 7500 then c else s.pow.capW })) ∧
    ∃ u, exec (.unsupportedRequest a) s = .next u ∧ OnlyDev s u ∧ (u.dev.getAtt a.val).urCount = min max64 (x.urCount + 1) ∧
      (u.dev.getAtt a.val).status.getLsbD 12 = true

/-- Outflow: an acknowledgement in range removes what it covers; the first item completes under the next number with its bytes in host memory;
an entry that waited for the previous lap is issued once that is acknowledged; a deferred interrupt is sent after the holdoff; a
resend writes what is not acknowledged again (R349, R350, R356, R391, R392). No byte of device memory changes. -/
def Obligations.Outflow : Prop :=
  ∀ (s : State) (a : Fin 8),
    let x := s.dev.getAtt a.val
    (s.linked a.val = true → s.pow.dormant = false → ∀ v : Word,
      (x.ack ≤ v.toNat → v.toNat ≤ x.osn → ∃ u, exec (.outflowAck a v) s = .next u ∧ OnlyDev s u ∧
        u.dev.getAtt a.val = { x with ack := v.toNat, unacked := x.unacked.filter fun i => v.toNat < i.1 }) ∧
      (v.toNat < x.ack ∨ x.osn < v.toNat → ∃ u, exec (.outflowAck a v) s = .next u ∧ OnlyDev s u ∧ (u.dev.getAtt a.val).ack = x.ack ∧
        (u.dev.getAtt a.val).unacked = x.unacked ∧ (u.dev.getAtt a.val).status.getLsbD 13 = true)) ∧
    (∀ n iova data ring pos rest, x.items = .entry n iova data ring pos :: rest → x.held = false → x.resending = false → x.full = false →
      x.dlActive = true → ∃ u, exec (.outflowItemComplete a .ok) s = .next u ∧ OnlyDev s u ∧ (u.dev.getAtt a.val).osn = x.osn + 1 ∧
        (u.dev.getAtt a.val).items = rest ∧ (u.dev.getAtt a.val).unacked = x.unacked ++ [(x.osn + 1, .entry n iova data ring pos)] ∧
        (u.dev.getAtt a.val).host = Mem.write x.host iova data) ∧
    (∀ ring n iova data pos rest osn, x.lapHeld = (ring, .entry n iova data ring pos) :: rest →
      Map.find (Map.get x.rings ring (0, [])).2 pos = some osn → osn ≤ x.ack → ∃ u, exec (.ringEntryWrite a ring) s = .next u ∧ OnlyDev s u ∧
        (u.dev.getAtt a.val).items = x.items ++ [.entry n iova data ring pos] ∧ (u.dev.getAtt a.val).lapHeld = rest ∧
        (u.dev.getAtt a.val).host = x.host) ∧
    (∀ (n : Fin 4096) c t, s.dev.getCtx n.val = some c → c.sendDue = some t → t ≤ s.time.fabric →
      ∃ u, exec (.interruptHoldoffEnd n) s = .next u ∧ OnlyDev s u ∧
        (∀ (m : Nat) y, s.dev.getCtx m = some y → u.dev.getCtx m =
          some (if y.home = c.home ∧ y.vector = c.vector ∧ y.sendDue = some t then { y with sendDue := none } else y)) ∧
        u.dev.getAtt c.home = (s.dev.getAtt c.home).entrySend s.time.fabric c.vector) ∧
    (∀ osn n iova data ring pos, x.resending = true → x.unacked = [(osn, .entry n iova data ring pos)] → x.ack < osn →
      ∃ u, exec (.resendDone a) s = .next u ∧ OnlyDev s u ∧ (u.dev.getAtt a.val).resending = false ∧ (u.dev.getAtt a.val).osn = x.osn ∧
        (u.dev.getAtt a.val).host = Mem.write x.host iova data ∧ (u.dev.getAtt a.val).status.getLsbD 14 = true)

/-- The life of a link: PERST_N is kept; a link that trains in Flit mode is active; a loss of a link of an attached host holds its outflow,
unbinds its window, starts the orphan hold and orphans its contexts; at the end of the hold they are gone, and so is the attachment
(R334, R339, R355, R357). -/
def Obligations.LinkLife : Prop :=
  ∀ (s : State) (a : Fin 8),
    let x := s.dev.getAtt a.val
    (∃ u, exec (.perstNRelease a) s = .next u ∧ OnlyDev s u ∧ u.dev.getAtt a.val = { x with perst := true } ∧
      ∀ b, b ≠ a.val → u.dev.getAtt b = s.dev.getAtt b) ∧
    (∀ speed width, attExists s.mgmt.split a.val = true → x.perst = true → s.pow.stage = .up → x.dlActive = false →
      ∃ u, exec (.dlActive a speed width true) s = .next u ∧ OnlyDev s u ∧
        u.dev.getAtt a.val = { x with dlActive := true, speed := speed, width := width, flit := true }) ∧
    (s.linked a.val = true → s.pow.dormant = false → x.token ≠ none → x.orphanLeft = 0 → ∀ kind, kind = .dlDown ∨ kind = .linkDisable ∨ kind = .hotReset →
      ∃ u, exec (.attachmentLoss a kind) s = .next u ∧ u.mem = s.mem ∧ (u.dev.getAtt a.val).dlActive = false ∧ (u.dev.getAtt a.val).held = true ∧
        (u.dev.getAtt a.val).bound = none ∧ (u.dev.getAtt a.val).orphanLeft = 1200000000 ∧ (u.dev.getAtt a.val).token = x.token ∧
        (u.dev.getAtt a.val).scratch = 0 ∧ (u.dev.getAtt a.val).staging = none ∧ (u.dev.getAtt a.val).retrains = min max64 (x.retrains + 1) ∧
        ∀ n c, s.dev.getCtx n = some c → c.home = a.val → c.state = .active → c.teardown = none →
          ∃ d, u.dev.getCtx n = some d ∧ d.state = .orphaned ∧ d.cmds = c.cmds ∧ d.ranges = c.ranges) ∧
    (x.held = true → x.token ≠ none → x.orphanLeft = 0 → s.pow.dormant = false →
      ∃ u, exec (.orphanHoldExpiry a) s = .next u ∧ (u.dev.getAtt a.val).token = none ∧ (u.dev.getAtt a.val).held = false ∧
        (u.dev.getAtt a.val).items = [] ∧ ∀ n c, s.dev.getCtx n = some c → c.home = a.val → c.state ≠ .active → u.dev.getCtx n = none)

/-- Requests of network clients: a connection that meets R406 is bound to its context with a fresh R_Key; a SEND of 256 bytes waits as a message
and another is answered with the NAK of R407, R408 or R410; an RDMA WRITE is on its way with its bytes, an RDMA READ returns what the homes
serve after the queue pair's own writes; refused operations change no memory; replies leave when they are acknowledged, and a queue
pair without retries left is in Error (R405 to R410, Table 17.2). The answers' codes follow the model's reading of R405 (log 29). -/
def Obligations.NetworkRequests : Prop :=
  (∀ (s : State) (p : Fin 4) (n gen : Nat) (key : Word) (mtu : Nat) (c : Ctx), (s.dev.getEPort p.val).up = true →
    (s.dev.getEPort p.val).fill < 2 ^ 23 → s.dev.getCtx n = some c → c.gen = gen → (s.dev.getAtt c.home).token = some key →
    bit (recNet s.mgmt.record p.val 28 1) c.pt = true → s.dev.qps.length < 4096 → c.state = .active → (mtu = 4096 ∨ mtu = 1024) →
    ∃ u y, exec (.connectRequest p n gen key mtu) s = .next u ∧ OnlyDev s u ∧ u.dev.getQp s.dev.nextQp = some y ∧ y.port = p.val ∧ y.ctx = n ∧
      y.gen = gen ∧ y.rkey = Config.rkey s.dev.free ∧ y.err = false ∧ y.msgs = [] ∧ y.rate = 1024 ∧ (u.dev.getEPort p.val).cmCode = 0 ∧
      (u.dev.getEPort p.val).cmQp = s.dev.nextQp ∧ ∀ k, k ≠ s.dev.nextQp → u.dev.getQp k = s.dev.getQp k) ∧
  ∀ (s : State) (q : Nat) (x : Qp) (c : Ctx), s.dev.getQp q = some x → s.dev.getCtx x.ctx = some c → (s.dev.getEPort x.port).up = true →
    (s.dev.getEPort x.port).fill < 2 ^ 23 →
    let answered (k : Instr) (a : Nat) : Prop := ∃ u, exec k s = .next u ∧ OnlyDev s u ∧ u.dev.getQp q = some { x with answer := a }
    (∀ data : Bytes,
      (x.err = false → data.length = 256 → c.state = .active → x.msgs.length < 16 → ∃ u, exec (.send q data) s = .next u ∧ OnlyDev s u ∧
        u.dev.getQp q = some { x with msgs := x.msgs ++ [data], answer := 0 }) ∧
      (x.err = false → data.length ≠ 256 → answered (.send q data) 1) ∧ (x.err = true → answered (.send q data) 2) ∧
      (x.err = false → data.length = 256 → (c.state ≠ .active ∨ 16 ≤ x.msgs.length) → answered (.send q data) 3)) ∧
    (∀ (va : Word) (rkey : BitVec 32) (data : Bytes),
      (x.err = true ∨ rkey ≠ x.rkey ∨ 2 ^ 48 ≤ va.toNat → answered (.rdmaWrite q va rkey data) 2 ∧ ∀ len, answered (.rdmaRead q va rkey len) 2) ∧
      (x.err = false → rkey = x.rkey → va.toNat < 2 ^ 48 →
        (∀ pa, s.dev.clientPa x.ctx va.toNat true = some pa → data ≠ [] → va.toNat % 128 + data.length ≤ 128 → pa % 128 = va.toNat % 128 →
          ∃ u w, exec (.rdmaWrite q va rkey data) s = .next u ∧ u.mem.bytes = s.mem.bytes ∧ u.mem.flight = s.mem.flight ++ [w] ∧ w.from' = .qp q ∧
            w.ctx = x.ctx ∧ w.gen = c.gen ∧ w.line = pa / 128 ∧ w.mask = maskOf (pa % 128) data.length ∧
            (∀ i, i < data.length → w.data.getD (pa % 128 + i) 0 = data.getD i 0) ∧ u.dev.getQp q = some { x with answer := 0 }) ∧
        (∀ pa len, let v := s.landAll (.qp q)
          v.dev.clientPa x.ctx va.toNat false = some pa → x.reads < 16 → len ≠ 0 → va.toNat % 128 + len ≤ 128 →
          ∃ u, exec (.rdmaRead q va rkey len) s = .next u ∧ u.mem = v.mem ∧ (v.poisonedAt pa len = true → u.dev.getQp q = some { x with answer := 2 }) ∧
            (v.poisonedAt pa len = false → u.dev.getQp q = some { x with answer := 0, reads := x.reads + 1, rdata := v.readPa pa len })))) ∧
    (x.err = false → answered (.sendWithImmediate q) 1 ∧ answered (.rdmaWriteWithImmediate q) 1 ∧ answered (.compareAndSwap q) 1 ∧ answered (.fetchAndAdd q) 1) ∧
    (x.err = false → x.replies ≠ [] →
      (∃ u, exec (.acknowledgementReceived q .ack) s = .next u ∧ OnlyDev s u ∧ u.dev.getQp q = some { x with
        replies := x.replies.tail, retries := Config.retryCount, rnrRetries := Config.rnrCount }) ∧
      ((s.dev.getEPort x.port).paused = true → exec (.retransmissionTimeout q) s = .next s) ∧
      ((s.dev.getEPort x.port).paused = false → x.retries ≠ 0 → ∃ u, exec (.retransmissionTimeout q) s = .next u ∧ OnlyDev s u ∧ u.dev.getQp q = some { x with retries := x.retries - 1 }) ∧
      ((s.dev.getEPort x.port).paused = false → x.retries = 0 → ∃ u, exec (.retransmissionTimeout q) s = .next u ∧ OnlyDev s u ∧ u.dev.getQp q = some { x with err := true, msgs := [] }))

/-- A port that is up answers ARP, Neighbor Discovery and Echo for its own addresses and discards other frames with a count; CNPs are sent and halve
the rate limit at most once an interval, which an interval without one raises; PFC pauses and releases; a link that goes down leaves
contexts and queue pairs as they are (R402, R404, R410 to R413). PFC priority 0 is valid (log 13). -/
def Obligations.NetworkPorts : Prop :=
  ∀ (s : State) (p : Fin 4),
    let y := s.dev.getEPort p.val
    let now := s.time.fabric
    let counted (u : State) (row : Nat) : Prop := Map.get (u.dev.getEPort p.val).counts row 0 = min max64 (Map.get y.counts row 0 + 1)
    (y.up = true → y.fill < 2 ^ 23 →
      let answers (c : Instr) (own : Bool) (kind : Nat) : Prop := ∃ u, exec c s = .next u ∧ OnlyDev s u ∧ u.dev = { s.dev with eports := u.dev.eports } ∧
        (own = true → u.dev.getEPort p.val = { y with lastTx := kind }) ∧ (own = false → counted u 2 ∧ (u.dev.getEPort p.val).lastTx = y.lastTx)
      (∀ ip, answers (.arpRequest p ip) (s.owns4 p.val ip.toNat) 1) ∧ (∀ ip, answers (.neighborSolicitation p ip) (s.owns6 p.val ip.toNat) 2) ∧
      (∀ ip, answers (.echoRequest p true ip) (s.owns6 p.val ip.toNat) 3 ∧ answers (.echoRequest p false ip) (s.owns4 p.val ip.toNat) 3) ∧
      answers (.frameDiscard p) false 0 ∧
      (∀ q x, s.dev.getQp q = some x → x.port = p.val →
        (passed x.cnpSent now = true → ∃ u, exec (.congestionExperienced q) s = .next u ∧ OnlyDev s u ∧
          u.dev.getQp q = some { x with cnpSent := some now } ∧ counted u 7) ∧
        (∃ u z, exec (.cnpReceived q) s = .next u ∧ OnlyDev s u ∧ u.dev.getQp q = some z ∧ counted u 8 ∧ z.cnpRecv = some now ∧
          z.rate = if passed x.halved now then max 1 (x.rate / 2) else x.rate)) ∧
      (∀ prio pause, s.mgmt.netFlag p.val 3 = true → recNet s.mgmt.record p.val 25 1 = prio.val → ∃ u, exec (.pfcFrame p prio pause) s = .next u ∧
        OnlyDev s u ∧ (u.dev.getEPort p.val).paused = pause ∧ counted u 10)) ∧
    (∀ q x, s.dev.getQp q = some x → passed x.cnpRecv now = true → passed (some x.raised) now = true →
      ∃ u, exec (.rateLimitRaise q) s = .next u ∧ OnlyDev s u ∧ u.dev.getQp q = some { x with rate := min 1024 (x.rate + 16), raised := now }) ∧
    (∀ fill, y.up = true → s.mgmt.netFlag p.val 3 = true → ∃ u, exec (.receiveBufferThreshold p fill) s = .next u ∧ OnlyDev s u ∧
      (u.dev.getEPort p.val).fill = fill ∧ (6 * 2 ^ 20 < fill → (u.dev.getEPort p.val).pfcOut = true) ∧
      (fill < 4 * 2 ^ 20 → (u.dev.getEPort p.val).pfcOut = false) ∧
      (4 * 2 ^ 20 ≤ fill → fill ≤ 6 * 2 ^ 20 → (u.dev.getEPort p.val).pfcOut = y.pfcOut)) ∧
    (∃ u, exec (.portLinkDown p) s = .next u ∧ OnlyDev s u ∧ u.dev = { s.dev with eports := u.dev.eports } ∧ (u.dev.getEPort p.val).up = false ∧
      (u.dev.getEPort p.val).counts = y.counts) ∧
    ((s.mgmt.netFlag p.val 0 = true ∨ s.mgmt.netFlag p.val 1 = true) → s.pow.stage = .up → s.pow.dormant = false →
      ∃ u, exec (.portLinkUp p true) s = .next u ∧ OnlyDev s u ∧ u.dev.getEPort p.val = { y with up := true } ∧
        u.dev = { s.dev with eports := u.dev.eports })

/-! ### Power, the weir, the safety partition and the module. -/

/-- Engines and terraces change their power state under the conditions of Table 18.2: a clock-gated engine keeps everything, a power-gated one
only its queue, its records and a cistern with retained copies; a waking one and a waking terrace start from there (R418, R419). -/
def Obligations.UnitPowerStates : Prop :=
  ∀ (s : State) (e : EngId) (t : Fin 8),
    let i := eIdx e
    let x := s.dev.getEng i
    let y := s.dev.getTerr t.val
    let terrOnly (u : State) : Prop := OnlyDev s u ∧ u.dev = { s.dev with terr := u.dev.terr } ∧ ∀ j, j ≠ t.val → u.dev.getTerr j = s.dev.getTerr j
    (x.power = .running → s.dev.engIdle i = true → 64 ≤ x.idleArr →
      ∃ u, exec (.engineClockGate e) s = .next u ∧ OnlyDev s u ∧ u.dev = { s.dev with eng := u.dev.eng } ∧
        u.dev.getEng i = { x with power := .clockGated, idleArr := 0 } ∧ ∀ j, j ≠ i → u.dev.getEng j = s.dev.getEng j) ∧
    (x.power = .clockGated → s.dev.engIdle i = true → x.queue = [] → 2 ^ 16 ≤ x.idleArr →
      ∃ u, exec (.enginePowerGate e) s = .next u ∧ OnlyDev s u ∧ (u.dev.getEng i).power = .powerGated ∧ (u.dev.getEng i).absent = true ∧
        (u.dev.getEng i).cc = [] ∧ (u.dev.getEng i).rcache = [] ∧ (u.dev.getEng i).retained = x.retained ∧
        (u.dev.getEng i).cistern = (if x.retained = [] then [] else x.cistern) ∧ (∀ k, k < 20 → u.dev.getCl (20 * i + k) = {}) ∧
        (∀ c, c < 20 * i ∨ 20 * i + 20 ≤ c → u.dev.getCl c = s.dev.getCl c) ∧ ∀ j, j ≠ i → u.dev.getEng j = s.dev.getEng j) ∧
    (s.dev.ready = true → x.power = .powerGated → x.isolated = none → x.queue ≠ [] → (s.dev.getTerr e.t.val).pllOff = false →
      (∀ w ∈ s.dev.waking e.t.val, w.1 = i) →
      ∃ u, exec (.engineWake e) s = .next u ∧ u.mem = s.mem ∧ u.pow = s.pow ∧ u.dev = { s.dev with eng := u.dev.eng } ∧
        u.dev.getEng i = { x with power := .running, absent := false, idleArr := 0 } ∧ has u.mgmt.loaderOn i = true ∧
        ∀ j, j ≠ i → u.dev.getEng j = s.dev.getEng j) ∧
    ((∀ k, k < 5 → (s.dev.getEng (5 * t.val + k)).power = .powerGated) → (2 ^ 24 ≤ y.allGated ∨ s.mgmt.ptOf t.val = none) →
      ∃ u, exec (.terracePllOff t) s = .next u ∧ terrOnly u ∧ u.dev.getTerr t.val = { y with pllOff := true }) ∧
    (s.dev.ready = true → y.pllOff = true → (∃ k, k < 5 ∧ (s.dev.getEng (5 * t.val + k)).queue ≠ []) →
      ∃ u, exec (.terracePllWake t) s = .next u ∧ terrOnly u ∧ u.dev.getTerr t.val = { y with pllOff := false, allGated := 0 })

/-- Entry into dormant, when every condition has held for DORMANT_IDLE, writes the server cores' lines back, so that every byte reads as before,
and keeps contexts, gates, objects and engines; a wake makes Jormon take messages again; a timer that is due wakes a suspended hart, and drains the
store buffer of a running one; usage halves every 2^24 fabric cycles (R330, R368, R420 to R422). -/
def Obligations.Dormancy : Prop :=
  ∀ s : State,
    (s.quiet = true → s.mgmt.dormantOn = true → s.mgmt.dormantIdle ≤ s.pow.dormantRun →
      ∃ u, exec .dormantEntry s = .next u ∧ u.pow = { s.pow with dormant := true } ∧ u.mgmt = s.mgmt ∧ u.dev.ready = false ∧
        u.dev.ctxs = s.dev.ctxs ∧ u.dev.gates = s.dev.gates ∧ u.dev.partns = s.dev.partns ∧ u.dev.eng = s.dev.eng ∧ u.dev.atts = s.dev.atts ∧
        (∀ a, u.byte a = s.byte a) ∧ ∀ line, u.dev.dirtyCopy line = none) ∧
    (∀ cause, s.pow.dormant = true → s.wakes cause = true →
      ∃ u, exec (.dormantWake cause) s = .next u ∧ u.pow = { s.pow with dormant := false, dormantRun := 0 } ∧ u.dev.ready = true ∧
        u.mem = s.mem ∧ u.mgmt = s.mgmt ∧ u.dev.ctxs = s.dev.ctxs ∧ u.dev.gates = s.dev.gates) ∧
    (∀ c : Fin 96, let x := s.dev.getCore c.val
      let due : Prop := x.csrs.stimecmp.toNat ≤ s.timeCsr (c.val / 48)
      (¬ due → exec (.hartTimerInterrupt c) s = .next s) ∧
      (due → x.hart = .suspended → ∃ u, exec (.hartTimerInterrupt c) s = .next u ∧ u.pow.dormant = false ∧ u.mem = s.mem ∧
        u.dev.getCore c.val = { x with timer := true, wrs := false, hart := .running }) ∧
      (due → x.hart = .running → x.sb.length ≤ 64 → x.stalled = [] → ∃ u, exec (.hartTimerInterrupt c) s = .next u ∧
        (u.dev.getCore c.val).sb = [] ∧ (u.dev.getCore c.val).timer = true ∧ u.pow = s.pow ∧ u.mgmt = s.mgmt)) ∧
    (s.time.fabric < s.dev.halvedAt + 2 ^ 24 → exec .usageHalving s = .next s) ∧
    (s.dev.halvedAt + 2 ^ 24 ≤ s.time.fabric → ∃ u, exec .usageHalving s = .next u ∧ OnlyDev s u ∧
      u.dev = { s.dev with ctxs := u.dev.ctxs, halvedAt := s.dev.halvedAt + 2 ^ 24 } ∧
      ∀ n, u.dev.getCtx n = (s.dev.getCtx n).map fun c => { c with usage := c.usage / 2 })

/-- At the end of its window the fast loop steps a domain down over its budget, not below 4/16, and up below 15/16 of it, not above the top step; a droop halves its
terrace's array clock; a hold whose intervals have passed ends (R427, R429). No other domain changes. Rounding of the scaled estimate, and one step for each CPU domain, are the model's (log 31). -/
def Obligations.WeirSteps : Prop :=
  ∀ (s : State) (d : Fin 14) (est : Nat),
    let x := s.pow.getDom d.val
    let b := s.pow.budget d.val
    (s.windowEnded d.val = false → exec (.fastLoop d est) s = .next s) ∧
    (s.windowEnded d.val = true → s.pow.spStatus.getLsbD 2 = false →
      ∃ u, exec (.fastLoop d est) s = .next u ∧ u.mem = s.mem ∧ u.mgmt = s.mgmt ∧ u.dev = { s.dev with terr := u.dev.terr } ∧
        (∀ k, u.dev.getTerr k = if k = d.val ∧ k < 8 then { s.dev.getTerr k with window := (s.dev.getTerr k).window - 512 } else s.dev.getTerr k) ∧
        (∀ k, k ≠ d.val → u.pow.getDom k = s.pow.getDom k) ∧
        (let n : Nat := if b < x.scaled est then (if 4 < x.step then x.step - 1 else x.step)
           else if 16 * x.scaled est < 15 * b ∧ x.step < x.top then x.step + 1 else x.step
         u.pow.getDom d.val = { x with step := n, fastAt := if d.val < 8 then x.fastAt else x.fastAt + 2 ^ 12 })) ∧
    (∀ t : Fin 8, ∃ u, exec (.droop t) s = .next u ∧ u.mem = s.mem ∧ u.mgmt = s.mgmt ∧
      u.dev.getTerr t.val = { s.dev.getTerr t.val with droop := 64 } ∧
      u.pow.getDom t.val = { s.pow.getDom t.val with droops := min (2 ^ 16 - 1) ((s.pow.getDom t.val).droops + 1) } ∧
      ∀ k, k ≠ t.val → u.pow.getDom k = s.pow.getDom k ∧ u.dev.getTerr k = s.dev.getTerr k) ∧
    ∀ (k : Fin 15) (h : Nat), (s.pow.getDom k.val).hold = some (0, h) →
      ∃ u, exec (.divergenceHoldEnd k) s = .next u ∧ OnlyPow s u ∧ u.pow.getDom k.val = { s.pow.getDom k.val with hold := none } ∧
        ∀ j, j ≠ k.val → u.pow.getDom j = s.pow.getDom j

/-- A slow interval of a cool domain, once its 200 kettle cycles have passed: the cap and the ceiling take effect, the measurement and the mean scaled estimate are kept, and the top
step follows R428; at the third interval of a divergence run the budget is held and the estimate recalibrated (R429); a measurement below
half of the estimate makes the sensor suspect (R430). Rounding of the scaled estimate is the model's (log 31). -/
def Obligations.SlowInterval : Prop :=
  ∀ (s : State) (d : Fin 15) (m estimate : Nat) (q : Int), d.val < 14 →
    let x := (s.pow.getDom d.val).endHold
    let w := ({ s.pow with effW := min s.pow.capW s.pow.ceilingNow } : Pow).modDom d.val Domain.endHold
    let e := x.scaled estimate
    (s.kettle < (s.pow.getDom d.val).slowAt + 200 → exec (.slowLoop d m estimate (some q) none) s = .next s) ∧
    ((s.pow.getDom d.val).slowAt + 200 ≤ s.kettle → validTemp q = true → q < 368 → x.thermal = false → x.suspect = false →
    ∃ u, exec (.slowLoop d m estimate (some q) none) s = .next u ∧ u.mem = s.mem ∧ u.pow.effW = w.effW ∧
      (u.pow.getDom d.val).meas = m ∧ (u.pow.getDom d.val).est = e ∧ (∀ k, k ≠ d.val → u.pow.getDom k = s.pow.getDom k) ∧
      (e ≤ 2 * m → 100 * m ≤ 115 * e → (u.pow.getDom d.val).runLen = 0 ∧ (u.pow.getDom d.val).suspect = false ∧
        (u.pow.getDom d.val).kNum = x.kNum ∧ (u.pow.getDom d.val).kDen = x.kDen ∧
        (u.pow.getDom d.val).top = (if w.budget d.val < max m e then max 4 (x.top - 1)
          else if 16 * max m e < 15 * w.budget d.val then min 16 (x.top + 1) else x.top)) ∧
      (115 * e < 100 * m → x.runLen = 2 → x.runE + e ≠ 0 → x.diverge < 2 ^ 16 - 1 →
        (u.pow.getDom d.val).hold = some (16, normalBudget d.val w.effW * (x.runE + e) / (x.runM + m)) ∧ (u.pow.getDom d.val).runLen = 0 ∧
        (u.pow.getDom d.val).kNum = x.kNum * (x.runM + m) ∧ (u.pow.getDom d.val).kDen = x.kDen * (x.runE + e) ∧
        (u.pow.getDom d.val).diverge = x.diverge + 1) ∧
      (2 * m < e → (u.pow.getDom d.val).suspect = true ∧ (u.pow.getDom d.val).runLen = 0 ∧ u.mgmt.service.getLsbD 3 = true))

/-- Every trip, supervisor fault and stop under the ceiling stops the fast clocks, the device and Jormon, records its cause, and requests power
removal: THERMTRIP_N for a thermal trip, else ALERT_N. Device memory keeps every byte (R437, R438, R482, Tables 18.10 and 20.18). -/
def Obligations.SafetyStops : Prop :=
  ∀ (s : State) (source reading : Nat), s.pow.runs = true →
    let stops (c : Instr) (cause n : Nat) (thermal : Bool) : Prop := ∃ u, exec c s = .next u ∧ u.pow.clocksOff = true ∧ u.pow.stage = .stopped ∧
      u.pow.tripCause = cause ∧ u.pow.spStatus.getLsbD 8 = true ∧ u.pow.spStatus.getLsbD n = true ∧ (thermal = true → u.pow.thermtrip = true) ∧
      (thermal = false → u.pow.alert = true) ∧ u.dev.ready = false ∧ u.mgmt.l4 = true ∧ u.mem = s.mem ∧ u.pow.ceiling = s.pow.ceiling
    (460 ≤ reading → stops (.hardwareTrip .junction source reading) 1 1 true) ∧
    (420 ≤ reading → stops (.hardwareTrip .hbm source reading) 2 1 true) ∧
    stops (.supervisorFault .voltage source reading) 4 4 false ∧ stops (.supervisorFault .clock source reading) 5 5 false ∧
    (s.pow.refclk = true → stops .refclkLost 5 5 false ∧
      ∃ u, exec .refclkLost s = .next u ∧ u.pow.refclk = false ∧ u.pow.spStatus.getLsbD 6 = true) ∧
    ∀ n, s.pow.spStatus.getLsbD 2 = true → 105 * s.pow.ceilingNow < 100 * n → 20000 ≤ s.pow.enfRun → stops (.ceilingStop n) 3 3 false

/-- The input ceiling: over 105 % of it every terrace and CPU group stands at 4/16 and every headgate at 1/16, until it is kept again; the tray's
writes only lower it, and TRAY_CAP_LOWER holds it at the fused floor; coolant out of its rating asks for service (R424, R435, R438, R481). Enforcement and
its end each take a run of 2,000 kettle cycles. -/
def Obligations.InputCeiling : Prop :=
  ∀ (s : State) (n : Nat),
    (s.pow.runs = true → s.pow.spStatus.getLsbD 2 = false → 105 * s.pow.ceilingNow < 100 * n → 2000 ≤ s.pow.overRun →
      ∃ u, exec (.ceilingEnforcement n) s = .next u ∧ u.mem = s.mem ∧ u.dev = s.dev ∧ u.pow.spStatus.getLsbD 2 = true ∧ u.pow.enfRun = 0 ∧
        (∀ d, d < 10 → u.pow.getDom d = { s.pow.getDom d with step := 4 }) ∧
        (∀ d, 10 ≤ d → d < 14 → u.pow.getDom d = { s.pow.getDom d with step := 1 })) ∧
    (s.pow.spStatus.getLsbD 2 = true → n ≤ s.pow.ceilingNow → 2000 ≤ s.pow.underRun →
      ∃ u, exec (.ceilingRelease n) s = .next u ∧ u.mem = s.mem ∧ u.dev = s.dev ∧
        (∀ k, k < 9 → u.pow.spStatus.getLsbD k = (s.pow.spStatus.getLsbD k && decide (k ≠ 2))) ∧ u.pow.doms = s.pow.doms) ∧
    (∀ v : BitVec 16, ∃ u, exec (.trayCeilingWrite v) s = .next u ∧ OnlyPow s u ∧
      u.pow = { s.pow with ceiling := if v.toNat < s.pow.ceiling then max v.toNat s.pow.fuseFloor else s.pow.ceiling }) ∧
    (∀ level, ∃ u, exec (.trayCapLower level) s = .next u ∧ OnlyPow s u ∧ u.pow = { s.pow with capLower := level } ∧
      u.pow.ceilingNow = if level then s.pow.fuseFloor else s.pow.ceiling) ∧
    ∀ (inlet : Int) (flow : Nat), (160 < inlet ∨ flow < 80) → ∃ u, exec (.coolantReport inlet flow) s = .next u ∧ u.mem = s.mem ∧ u.pow = s.pow ∧
      u.mgmt.service.getLsbD 4 = true ∧ u.mgmt.coolRun = none ∧ Map.get u.mgmt.sensors 0x6000 none = some inlet ∧
      Map.get u.mgmt.sensors 0x6100 none = some (flow : Int)

/-- With every other condition present, the rise of the last input brings main power up: PWRGD rises, the power-up count advances and the
ceiling returns to the fused maximum. Without main power every byte of memory and every context are gone; a low RESET_N holds as an L3; a
disconnected main input is a voltage fault (R481, R492, R495 to R500). -/
def Obligations.MainPower : Prop :=
  (∀ s : State, s.pow.aux = true → s.pow.resetN = false → s.mgmt.failed = false → s.pow.stage = .off →
     (∀ t, s.pow.fellAt = some t → t + 2 ^ 13 ≤ s.kettle) →
     let up (c : Instr) : Prop := ∃ u, exec c s = .next u ∧ u.pow.stage = .held ∧ u.pow.pwrgd = true ∧ u.pow.connected = true ∧
       u.pow.ceiling = s.pow.fuseMax ∧ u.pow.peakW = 0 ∧ u.mgmt.boot = (s.mgmt.boot + 1) % 2 ^ 16 ∧ u.dev = s.dev ∧ u.mem = s.mem ∧
       u.mgmt.log = s.mgmt.log
     (∀ sockets dead lanes fails, s.pow.pwrEn = false → s.pow.mainOk = true → s.pow.refclk = true → up (.powerUp sockets dead lanes fails)) ∧
     (s.pow.pwrEn = true → s.pow.refclk = true → up .mainInputInRange) ∧ (s.pow.pwrEn = true → s.pow.mainOk = true → up .refclkReturn)) ∧
  (∀ s : State,
     (s.pow.pwrEn = true → s.pow.stage ≠ .off →
       ∃ u, exec .powerDown s = .next u ∧ u.pow.pwrEn = false ∧ u.pow.stage = .off ∧ u.pow.pwrgd = false ∧ u.mem = {} ∧ u.dev.ctxs = [] ∧
         u.dev.ready = false ∧ u.pow.spStatus = 0 ∧ u.pow.thermtrip = false ∧ u.mgmt.l4 = false ∧ u.mgmt.log = s.mgmt.log ∧
         u.mgmt.copy0 = s.mgmt.copy0 ∧ u.mgmt.copy1 = s.mgmt.copy1 ∧ u.pow.ceiling = s.pow.ceiling) ∧
     (s.pow.aux = true → ∃ u, exec (.inputDisconnect .auxLost) s = .next u ∧ u.pow.aux = false ∧ u.pow.stage = .off ∧ u.mem = {} ∧
       u.dev.ctxs = [] ∧ u.mgmt.running = false ∧ u.mgmt.log = s.mgmt.log ∧ u.pow.ceiling = s.pow.fuseMax) ∧
     (∀ f, f ≠ .auxLost → s.pow.connected = true → s.pow.runs = true → ∃ u, exec (.inputDisconnect f) s = .next u ∧ u.pow.connected = false ∧
       u.pow.clocksOff = true ∧ u.pow.stage = .stopped ∧ u.pow.tripCause = 4 ∧ u.pow.alert = true ∧ u.mgmt.l4 = true ∧ u.mem = s.mem) ∧
     (s.pow.stage = .up → s.mgmt.l4 = false → s.mgmt.l3s = [] → s.mgmt.l3Since = none → ∃ u, exec .resetNLow s = .next u ∧
       u.pow = { s.pow with resetN := false } ∧ u.mgmt.l3Since = some s.kettle ∧ u.mgmt.l3Held = true ∧ u.dev.ready = false ∧ u.mem = s.mem) ∧
     (s.pow.stage = .up → s.mgmt.l3Held = true → ∃ u, exec .resetNHigh s = .next u ∧ u.pow = { s.pow with resetN := true } ∧
       u.mgmt = { s.mgmt with l3Held := false } ∧ u.dev = s.dev ∧ u.mem = s.mem) ∧
     (s.pow.aux = false → s.pow.pwrEn = false → s.pow.stage = .off → s.pow.refclk = true →
       (s.mgmt.comp 2).accepts 2 (s.mgmt.comp 2).active s.mgmt.fuse = true →
       ∃ u, exec .aux12vPresent s = .next u ∧ u.pow = { s.pow with aux := true } ∧ u.dev = s.dev ∧ u.mem = s.mem ∧ u.mgmt.running = true))

/-! ### Recovery and management. -/

/-- A hardware fault of a part: it is replayed twice, keeping its place, pins and admission while the writes of the attempt are discarded; the
third passes its engine to L1, as 2^34 cycles without progress do. An engine reset that finds nothing starts the engine afresh with its
queue; one that needs the spare brings it in; past its bound the engine is fenced and its partition passes to L2 (R442 to R447, R458, R460). That the eighth replay passes to L1 is DEDUCED (log 33). -/
def Obligations.ReplaysAndResets : Prop :=
  (∀ (s : State) (uid : Nat) (cls : HwClass) (p : Part), s.dev.ready = true → s.dev.getPart uid = some p → p.stage = .executing →
    let e := eIdx p.eng
    let now := (s.dev.getTerr p.eng.t.val).arr
    let recent := (s.dev.getEng e).replays.filter fun t => now < t + 2 ^ 32
    (p.replays < 2 → recent.length < 8 → ∃ t q, exec (.commandReplay uid cls) s = .next t ∧ t.dev.getPart uid = some q ∧ q.stage = .executing ∧
      q.ran = false ∧ q.replays = p.replays + 1 ∧ q.absorbed = some (0, hwCode cls, false) ∧ q.pins = p.pins ∧ q.work = p.work ∧
      q.ledger = p.ledger ∧ (∀ w ∈ t.mem.flight, w.from' ≠ .part uid ∧ w.from' ≠ .ccWb uid) ∧ (t.dev.getEng e).replays = recent ++ [now] ∧
      (t.dev.getEng e).isolated = (s.dev.getEng e).isolated ∧ (p.kind ≠ .kernel → p.atoms = [] → t.mem.bytes = s.mem.bytes) ∧
      ∀ v, v ≠ uid → t.dev.getPart v = s.dev.getPart v) ∧
    (2 ≤ p.replays → ∃ t q, exec (.commandReplay uid cls) s = .next t ∧ t.dev.getPart uid = some q ∧ q.replays = p.replays ∧ q.ran = false ∧
      q.absorbed = some (1, hwCode cls, false) ∧ (t.dev.getEng e).isolated = some s.kettle ∧ (t.dev.getEng e).absent = true)) ∧
  ∀ (s : State) (e : EngId) (p : Nat), s.l1Free (eIdx e) = true → s.mgmt.ptOf e.t.val = some p → (s.dev.getPt p).l2s = [] →
    let i := eIdx e
    let x := s.dev.getEng i
    let terr := s.dev.getTerr e.t.val
    let phys := terr.given e.e.val
    let alarmed (t : State) : Prop := (t.dev.getPt p).alarm = some (s.kettle, .engineLost) ∧ has (t.dev.getTerr e.t.val).fenced phys = true
    let left (cls : Nat) (t : State) : Prop := ∀ u ∈ x.executing, ∀ q, s.dev.getPart u = some q → ∃ r, t.dev.getPart u = some r ∧
      r.stage = q.stage ∧ r.ran = false ∧ r.replays = q.replays ∧ r.pins = q.pins ∧
      ∃ spare, r.absorbed = some (1, match q.absorbed with | some (1, c, _) => c | _ => cls, spare)
    (2 ^ 34 ≤ x.progress → x.isolated = none → ∃ t, exec (.progressWatchdog e) s = .next t ∧ t.pow = s.pow ∧ t.mgmt = s.mgmt ∧
      (t.dev.getEng i).isolated = some s.kettle ∧ (t.dev.getEng i).absent = true ∧ (t.dev.getEng i).queue = x.queue ∧
      (t.dev.getEng i).executing = x.executing ∧ left 7 t ∧
      (x.executing = [] → OnlyDev s t ∧ t.dev.getEng i = { x with isolated := some s.kettle, absent := true })) ∧
    (∀ cls : HwClass, s.dev.served e.t.val phys = [i] → x.needSpare = false → x.wayOff.length ≤ 2 →
      (x.resets.filter fun k => s.kettle < k + 2 ^ 31).length < 2 →
      ∃ t, exec (.engineReset e cls { badCluster := none, badBeyond := false, badWays := [], ledgerOk := true }) s = .next t ∧
        (x.executing = [] → t.mem = s.mem) ∧ left (hwCode cls) t ∧ (t.dev.getEng i).executing = x.executing ∧ (t.dev.getEng i).power = .running ∧ (t.dev.getEng i).absent = false ∧ (t.dev.getEng i).isolated = none ∧ (t.dev.getEng i).queue = x.queue ∧
        (t.dev.getEng i).rcache = [] ∧ (t.dev.getEng i).cc = [] ∧ (t.dev.getEng i).retained = [] ∧ (t.dev.getEng i).wayOff = x.wayOff ∧
        (t.dev.getEng i).resets = (x.resets.filter fun k => s.kettle < k + 2 ^ 31) ++ [s.kettle] ∧ (∀ k, k < 20 → t.dev.getCl (20 * i + k) = {}) ∧
        ∃ d, Map.find (t.dev.getTerr e.t.val).dumps terr.dumpPos = some d ∧ d.level = 1) ∧
    (∀ cls : HwClass, s.dev.served e.t.val phys = [i] → terr.spareUsed = false → has terr.fenced phys = false →
      ∃ t, exec (.engineReset e cls { badCluster := none, badBeyond := true, badWays := [], ledgerOk := true }) s = .next t ∧
        (x.executing = [] → t.mem = s.mem) ∧ left (hwCode cls) t ∧ (t.dev.getTerr e.t.val).spareUsed = true ∧ (t.dev.getTerr e.t.val).given e.e.val = 5 ∧ has (t.dev.getTerr e.t.val).fenced phys = true ∧
        (t.dev.getEng i).power = .running ∧ (t.dev.getEng i).queue = x.queue) ∧
    ∀ k, x.isolated = some k → k + 2 ^ 22 ≤ s.kettle → ∃ t, exec (.engineResetLimit e) s = .next t ∧ alarmed t

/-- A context rollback of a step with an empty journal restores the ranges, the gates and the pins of the context image, and one that cannot be made
leaves the gates and truncates the journal; an L2 starts every engine of its partition afresh and tells its server cores, and beyond its
bound calls for L3 (R449, R451 to R453, R460). Of the fault entries of a context that rolls back alone only the waiters go (R271, log 33). -/
def Obligations.RollbackAndL2 : Prop :=
  (∀ (s : State) (n : Fin 4096) (c : Ctx) (cause : RbCause), s.dev.getCtx n.val = some c → c.rollDue = some cause → s.dev.ready = true →
    (s.dev.getPt c.pt).alarm = none → c.teardown = none → c.cmds = [] → c.dirtied = [] → c.freeLater = [] → (∀ p ∈ s.dev.parts, p.2.ctx ≠ n.val) →
    (∃ t d, exec (.contextRollback n cause false) s = .next t ∧ t.mem = s.mem ∧ t.dev.getCtx n.val = some d ∧ d.journal = [] ∧ d.noImage = true ∧
      d.rollDue = none ∧ d.ranges = c.ranges ∧ t.dev.gates = s.dev.gates ∧
      Map.get d.stats.live 0x1D 0 = min max64 (Map.get c.stats.live 0x1D 0 + 1)) ∧
    (c.noImage = false → c.overflow = [] → c.journal = [] → (∀ r ∈ c.ranges, r.entry.kind ≠ 1 ∧ r.unmap = none) → (∀ e ∈ c.image.ranges, e.kind ≠ 1) →
      (c.image.gates.map fun g => g.1).Nodup → ∃ t d, exec (.contextRollback n cause true) s = .next t ∧ t.mem = s.mem ∧
        t.dev.getCtx n.val = some d ∧ d.rollDue = none ∧ d.noImage = false ∧ d.pins = c.image.pins ∧
        d.ranges = c.image.ranges.map (fun e => ({ entry := e } : RangeRow)) ∧
        (∀ g v, Map.find c.image.gates g = some v → Map.find t.dev.gates g = some { value := v, owner := n.val }) ∧
        ∀ g x, Map.find c.image.gates g = none → Map.find t.dev.gates g = some x → x.owner ≠ n.val)) ∧
  ∀ (s : State) (p : Fin 8),
    (∀ cause bad tests, s.dev.ready = true → s.mgmt.terraces p.val ≠ [] → (s.dev.getPt p.val).alarm = none → (s.dev.getPt p.val).l2s = [] →
      ∃ t, exec (.partitionAlarm p cause bad tests) s = .next t ∧ (t.dev.getPt p.val).alarm = none ∧ (t.dev.getPt p.val).l2s = [s.kettle] ∧
        (t.dev.getPt p.val).sources.testBit 1 = true ∧ ∀ tr ∈ s.mgmt.terraces p.val, ∀ k, k < 5 → (t.dev.getEng (5 * tr + k)).isolated = none ∧
          (t.dev.getEng (5 * tr + k)).absent = false ∧ (t.dev.getEng (5 * tr + k)).rcache = [] ∧ (t.dev.getEng (5 * tr + k)).power = .running) ∧
    ∀ k cause, (s.dev.getPt p.val).alarm = some (k, cause) → k + 2 ^ 24 ≤ s.kettle → s.mgmt.l4 = false → s.mgmt.l3Since = none → s.mgmt.l3s = [] →
      ∃ t, exec (.l2BoundExpiry p) s = .next t ∧ t.mem = s.mem ∧ t.mgmt.l3Since = some s.kettle ∧ t.dev.ready = false

/-- A device reset that has been called for ends with READY, no part, no queue pair and no write on its way, holds while RESET_N is low, and calls
for L4 where a link does not train; L3 past its bound calls for L4, which asks the tray to remove power; a dump past its time is cut short; a
lost Jormon core is replaced by its headgate's spare; Byolo may request a reset or power removal (R455, R456, R459, R460, R462, R480, R499). -/
def Obligations.DeviceRecovery : Prop :=
  ∀ s : State,
    (∀ k ways bad lanes, s.pow.stage = .up → s.mgmt.l4 = false → s.mgmt.l3Since = some k →
      (s.pow.resetN = true → ∃ t, exec (.deviceReset true ways bad lanes) s = .next t ∧ t.dev.ready = true ∧ t.mgmt.l3Since = none ∧ t.mgmt.l3Held = false ∧
        t.mgmt.resets = s.mgmt.resets + 1 ∧ t.dev.qps = [] ∧ t.dev.parts = [] ∧ t.mem.flight = [] ∧ t.pow.dormant = false) ∧
      (s.pow.resetN = true → ∃ t, exec (.deviceReset false ways bad lanes) s = .next t ∧ t.dev.ready = false ∧ t.mgmt.l3Since = none ∧ t.mgmt.l4 = true) ∧
      (s.pow.resetN = false → ∀ trains, ∃ t, exec (.deviceReset trains ways bad lanes) s = .next t ∧ t.mem = s.mem ∧ t.pow = s.pow ∧
        t.mgmt = { s.mgmt with l3Held := true })) ∧
    (∀ k, s.mgmt.l3Since = some k → k + 2 ^ 25 ≤ s.kettle → s.mgmt.l3Held = false → ∃ t, exec .l3BoundExpiry s = .next t ∧ t.mem = s.mem ∧
      t.pow = s.pow ∧ t.mgmt.l4 = true ∧ t.mgmt.l3Since = none ∧ t.dev.ready = false) ∧
    (s.mgmt.l4 = true → ∃ t, exec .trayPowerCycle s = .next t ∧ t.mem = s.mem ∧ t.dev = s.dev ∧ t.pow.stage = .stopped ∧
      t.pow.spStatus.getLsbD 8 = true ∧ t.pow.alert = (s.pow.alert || !s.pow.thermtrip)) ∧
    (∀ (t : Fin 8) k, s.recoveryOf t.val = some k → k + 2 ^ 18 ≤ s.kettle → ∃ u, exec (.dumpTruncated t) s = .next u ∧ OnlyDev s u ∧
      u.dev.getTerr t.val = { s.dev.getTerr t.val with dumpCut := true } ∧ ∀ j, j ≠ t.val → u.dev.getTerr j = s.dev.getTerr j) ∧
    (∀ (h : Fin 4) (c : Fin 5), has s.mgmt.jorLost (5 * h.val + c.val) = false → s.pow.stage = .up →
      (s.mgmt.lostOn h.val = 0 → c.val < 4 → ∃ t, exec (.jormonCoreLost h c) s = .next t ∧ t.mem = s.mem ∧ Map.find t.mgmt.jorSpare h.val = some c.val ∧
        t.mgmt.jorLost = s.mgmt.jorLost ++ [5 * h.val + c.val] ∧ t.mgmt.service.getLsbD 0 = true ∧ t.dev.ctxs = s.dev.ctxs) ∧
      (s.mgmt.lostOn h.val = 4 → s.mgmt.l4 = false → s.mgmt.l3Since = none → s.mgmt.l3s = [] → ∃ t, exec (.jormonCoreLost h c) s = .next t ∧
        t.mem = s.mem ∧ t.mgmt.l3Since = some s.kettle ∧ t.dev.ready = false)) ∧
    (s.mgmt.running = true →
      (s.pow.stage = .up → s.mgmt.l4 = false → s.mgmt.l3Since = none → s.mgmt.l3s = [] → ∃ t, exec .spRequestDeviceReset s = .next t ∧ t.mem = s.mem ∧
        t.mgmt.l3Since = some s.kettle ∧ t.dev.ready = false) ∧
      ∃ t, exec .spRequestPowerRemoval s = .next t ∧ OnlyPow s t ∧ t.pow.alert = true ∧ t.pow.spStatus.getLsbD 8 = true)

/-- What Byolo answers to the tray while it runs, and that a reader changes nothing but the reply and the stage of its own negotiation: log records in
order, dumps and their summaries, service reasons, the SPDM requests in the order of their negotiation, measurements and sensors; a vendor
message from an attachment that is not the owner is refused (R466 to R468, R471, R472, R478, R479). Codes of SPDM and PLDM are PRESUMED (log 35); LOG_READ counts records that exist (log 36). -/
def Obligations.ManagementReads : Prop :=
  ∀ s : State, s.mgmt.running = true →
    let tells (c : Instr) (code : Nat) (bs : Bytes) : Prop := exec c s = .next { s with mgmt := { s.mgmt with replyCode := code, reply := bs } }
    let moves (c : Instr) (k : Nat) (bs : Bytes) : Prop :=
      exec c s = .next { s with mgmt := { s.mgmt with spdm := Map.put s.mgmt.spdm 8 k, replyCode := 0, reply := bs } }
    let m := s.mgmt
    (∀ first count, 1 ≤ count → count ≤ 16 →
      tells (.logRead .tray first count) 0 (((m.log.filter fun r => first ≤ r.1).take count).flatMap fun r => r.2.bytes r.1)) ∧
    (∀ first count, count = 0 ∨ 16 < count → tells (.logRead .tray first count) 3 []) ∧
    (∀ a : Fin 8, m.isOwner a.val = false → s.linked a.val = true → s.pow.dormant = false → tells (.serviceRead (.att a)) 2 [] ∧
      ∀ t slot off, tells (.dumpRead (.att a) t slot off) 2 []) ∧
    tells (.serviceRead .tray) 0 (leBytes 1 m.service.toNat) ∧
    (∀ t, t < 8 → ∃ bs, tells (.dumpList .tray t) 0 bs ∧ bs.length = 192 ∧ ∀ k, k < 32 → sub bs (6 * k) 6 =
      match Map.find (s.dev.getTerr t).dumps k with
      | some d => leBytes 1 1 ++ leBytes 1 d.level ++ leBytes 4 d.seq
      | none => leBytes 6 0) ∧
    (∀ t slot off d, t < 8 → slot < 32 → off % 1024 = 0 → off < 4096 → s.recoveryOf t = none → Map.find (s.dev.getTerr t).dumps slot = some d →
      tells (.dumpRead .tray t slot off) 0 ((List.range 1024).map fun i => d.summary.getD (off + i) 0)) ∧
    (∀ slot idx b, slot < 2 → idx < 4 → Map.find m.summ slot = some b → tells (.summaryRead .tray slot idx) 0 (sub b (1024 * idx) 1024)) ∧
    moves (.getVersion .tray) 1 (leBytes 1 1 ++ leBytes 2 0x1400) ∧
    (1 ≤ m.spdmOf .tray → moves (.getCapabilities .tray) 2 (leBytes 4 0x16)) ∧
    (∀ asym hash, 2 ≤ m.spdmOf .tray → bit asym 2 = true → bit hash 5 = true → moves (.negotiateAlgorithms .tray asym hash) 3 (leBytes 4 4 ++ leBytes 4 32)) ∧
    (3 ≤ m.spdmOf .tray →
      tells (.getDigests .tray) 0 (leBytes 1 1 ++ digestBytes (sha m.chain)) ∧
      (∀ off len, let k := min len (m.chain.length - off)
        if off < m.chain.length then
          tells (.getCertificate .tray 0 off len) 0 (leBytes 2 k ++ leBytes 2 (m.chain.length - off - k) ++ sub m.chain off k)
        else tells (.getCertificate .tray 0 off len) 1 []) ∧
      (∀ nonce, let h := digestBytes (sha m.chain)
        tells (.challenge .tray 0 nonce) 0 (h ++ m.sign (h ++ leBytes 32 nonce))) ∧
      (∀ k, 1 ≤ k → k ≤ 7 → tells (.getMeasurements .tray k) 0 (leBytes 1 1 ++ m.block k ++ m.sign (m.block k)))) ∧
    ∀ (r : BitVec 16) (v : Int), sensorExists (r.toNat / 4096) (r.toNat / 256 % 16) (r.toNat % 256) = true → r.toNat / 4096 ≠ 4 →
      s.reading r.toNat = some v → tells (.pldmSensorRead .tray r) 0 (leBytes 1 0 ++ leBytes 8 (code 64 v))

/-- Firmware: one update at a time; an image is written to the inactive slot, whose VALID flag clears until it passes R473; activation takes effect as
Table 20.10 says; contexts hand over to a new Jormon; the fuse count rises to the lowest svn in force and never falls; restarts of Byolo
disturb no context, the third within 2^27 kettle cycles takes the other slot, and a further one stops Byolo (R465, R473, R475 to R477). What a restart keeps, and completion codes, are the model's (log 35, 37). -/
def Obligations.FirmwareUpdates : Prop :=
  ∀ s : State,
    let m := s.mgmt
    (m.running = true → m.update = none → ∃ t, exec (.requestUpdate .tray) s = .next t ∧ OnlyMgmt s t ∧ t.mgmt.update = some { who := .tray } ∧
      t.mgmt.replyCode = 0) ∧
    (m.running = true → m.update ≠ none → ∃ t, exec (.requestUpdate .tray) s = .next t ∧ OnlyMgmt s t ∧ t.mgmt.update = m.update ∧
      t.mgmt.replyCode = 0x81) ∧
    (∀ u : Update, m.running = true → m.update = some u → u.who = .tray →
      (∃ t, exec (.cancelUpdate .tray) s = .next t ∧ OnlyMgmt s t ∧ t.mgmt.update = none ∧ t.mgmt.comps = m.comps) ∧
      (∀ img : Image, 1 ≤ img.component → img.component ≤ 3 → (m.comp img.component).active < 2 →
        ∃ t, exec (.updateComponent .tray img) s = .next t ∧ OnlyMgmt s t ∧ t.mgmt.replyCode = 0 ∧
          (let x := m.comp img.component
           let y := t.mgmt.comp img.component
           y.active = x.active ∧ y.slot img.component (1 - x.active) = (img.version, img.svn, img.digest) ∧
           y.slot img.component x.active = x.slot img.component x.active ∧ (if x.active = 1 then y.valid0 else y.valid1) = false ∧
           y.accepts img.component (1 - x.active) m.fuse = (img.keyOk && img.sigOk && img.digestOk && decide (m.fuse ≤ img.svn) && decide (img.svn ≤ 64))) ∧
          ∀ c, c ≠ img.component → t.mgmt.comp c = m.comp c) ∧
      (∀ c, (u.written.any fun i => i.component = c) = true →
        let x := m.comp c
        (x.accepts c (1 - x.active) m.fuse = true → ∃ t w, exec (.verifyComplete .tray c) s = .next t ∧ OnlyMgmt s t ∧ t.mgmt.replyCode = 0 ∧
          t.mgmt.comp c = x.mark (1 - x.active) true ∧ t.mgmt.update = some w ∧ has w.verified c = true) ∧
        (x.accepts c (1 - x.active) m.fuse = false → ∃ t, exec (.verifyComplete .tray c) s = .next t ∧ OnlyMgmt s t ∧ t.mgmt.replyCode = 1 ∧
          t.mgmt.comps = m.comps ∧ t.mgmt.update = m.update)) ∧
      (∀ img : Image, u.written = [img] → has u.verified img.component = true →
        let c := img.component
        let old := (m.inForce 1).1
        let new := ((m.comp 1).slot 1 (1 - (m.comp 1).active)).1
        (c = 3 → ∀ starts, ∃ t, exec (.activateFirmware .tray starts) s = .next t ∧ OnlyMgmt s t ∧ t.mgmt.update = none ∧ t.mgmt.loaderOn = [] ∧
          (t.mgmt.comp 3).active = 1 - (m.comp 3).active) ∧
        (c = 2 → ∀ starts, ∃ t, exec (.activateFirmware .tray starts) s = .next t ∧ OnlyMgmt s t ∧ t.mgmt.update = none ∧ t.mgmt.running = false ∧
          t.mgmt.restarting = some (s.kettle, 0, false) ∧ (t.mgmt.comp 2).active = 1 - (m.comp 2).active) ∧
        (c = 1 → m.fwOld = none → s.pow.dormant = false →
          (major old = major new → ∃ t, exec (.activateFirmware .tray true) s = .next t ∧ t.mem = s.mem ∧ t.dev.ctxs = s.dev.ctxs ∧
            t.mgmt.fwVersion = new ∧ (t.mgmt.comp 1).active = 1 - (m.comp 1).active ∧ t.mgmt.reply = leBytes 1 0) ∧
          (major old = major new → ∃ t, exec (.activateFirmware .tray false) s = .next t ∧ OnlyMgmt s t ∧ t.mgmt.fwVersion = m.fwVersion ∧
            t.mgmt.fwOld = none ∧ t.mgmt.comp 1 = (m.comp 1).mark (1 - (m.comp 1).active) false ∧ t.mgmt.reply = leBytes 1 0) ∧
          (major old ≠ major new → ∀ starts, ∃ t, exec (.activateFirmware .tray starts) s = .next t ∧ t.mem = s.mem ∧ t.dev.ctxs = s.dev.ctxs ∧
            t.mgmt.fwVersion = m.fwVersion ∧ (t.mgmt.comp 1).active = (m.comp 1).active ∧ (t.mgmt.comp 1).later = true ∧
            t.mgmt.reply = leBytes 1 1)))) ∧
    (∀ (n : Fin 4096) (c : Ctx), m.fwOld ≠ none → s.dev.getCtx n.val = some c → c.served ≠ m.fwVersion.toNat → c.cmds = [] →
      (s.dev.getPt c.pt).faults = [] → ∃ t, exec (.handover n) s = .next t ∧ t.mem = s.mem ∧ t.mgmt.fwVersion = m.fwVersion ∧
        t.dev.getCtx n.val = some { c with served := m.fwVersion.toNat }) ∧
    (let low := min (m.inForce 1).2.1 (min (m.inForce 2).2.1 (m.inForce 3).2.1)
     m.running = true → s.pow.stage = .up → m.fwOld = none → m.stableAt + 2 ^ 30 ≤ s.kettle → m.fuse < min 64 low →
      ∃ t, exec .fuseRaise s = .next t ∧ OnlyMgmt s t ∧ t.mgmt.fuse = min 64 low ∧ t.mgmt.comps = m.comps) ∧
    (m.running = true → ∀ cause,
      let recent := m.restarts.filter fun k => s.kettle < k + 2 ^ 27
      (recent.length < 3 → ∃ t, exec (.byoloRestart cause) s = .next t ∧ OnlyMgmt s t ∧ t.mgmt.running = false ∧ t.mgmt.log = m.log ∧
        t.mgmt.restarting = some (s.kettle, cause % 256, decide (recent.length = 2))) ∧
      (3 ≤ recent.length → ∃ t, exec (.byoloRestart cause) s = .next t ∧ t.mem = s.mem ∧ t.dev = s.dev ∧ t.mgmt.running = false ∧
        t.mgmt.failed = true ∧ t.pow.alert = true ∧ t.pow.spStatus.getLsbD 7 = true))
end

