-- ==== Sys2Proof/Laws/KeepsOps.lean ====
section
/-!
SUPPORT. What Machine/Ops.lean keeps: the queue, the time, the fused limits, and safety.
-/

namespace Sys2Proof.Machine

/-- What every command keeps: the queue's rest, the time, the fused limits, and a safe state. -/
def Keeps (s t : State) : Prop :=
  t.pending = s.pending ∧ t.time.fabric = s.time.fabric ∧ t.pow.fuseMax = s.pow.fuseMax ∧ t.pow.fuseFloor = s.pow.fuseFloor
    ∧ (s.safe = true → t.safe = true)

theorem safe_iff (s : State) : s.safe = true ↔ s.mem.wf = true ∧ s.pow.limited = true ∧ s.mgmt.fuse ≤ 64 := by
  simp [State.safe, and_assoc]

theorem Keeps.refl (s : State) : Keeps s s := ⟨rfl, rfl, rfl, rfl, id⟩

theorem Keeps.trans {a b c : State} (h : Keeps a b) (k : Keeps b c) : Keeps a c :=
  ⟨k.1.trans h.1, k.2.1.trans h.2.1, k.2.2.1.trans h.2.2.1, k.2.2.2.1.trans h.2.2.2.1, fun x => k.2.2.2.2 (h.2.2.2.2 x)⟩

theorem keeps_onDev {s0 s : State} (f : Dev → Dev) (h : Keeps s0 s) : Keeps s0 (s.onDev f) := h

theorem keeps_withDev {s0 s : State} (d : Dev) (h : Keeps s0 s) : Keeps s0 { s with dev := d } := h

theorem keeps_onMgmt {s0 s : State} (f : Mgmt → Mgmt) (hf : s.mgmt.fuse ≤ 64 → (f s.mgmt).fuse ≤ 64) (h : Keeps s0 s) :
    Keeps s0 (s.onMgmt f) := by
  obtain ⟨a, b, c, d, e⟩ := h
  refine ⟨a, b, c, d, fun hs => ?_⟩
  have := (safe_iff s).1 (e hs)
  exact (safe_iff _).2 ⟨this.1, this.2.1, hf this.2.2⟩

theorem keeps_onPow {s0 s : State} (f : Pow → Pow) (hm : (f s.pow).fuseMax = s.pow.fuseMax) (hn : (f s.pow).fuseFloor = s.pow.fuseFloor)
    (hf : s.pow.limited = true → (f s.pow).limited = true) (h : Keeps s0 s) : Keeps s0 (s.onPow f) := by
  obtain ⟨a, b, c, d, e⟩ := h
  refine ⟨a, b, hm.trans c, hn.trans d, fun hs => ?_⟩
  have := (safe_iff s).1 (e hs)
  exact (safe_iff _).2 ⟨this.1, hf this.2.1, this.2.2⟩

theorem keeps_onMem {s0 s : State} (f : Memory → Memory) (hf : s.mem.wf = true → (f s.mem).wf = true) (h : Keeps s0 s) :
    Keeps s0 (s.onMem f) := by
  obtain ⟨a, b, c, d, e⟩ := h
  refine ⟨a, b, c, d, fun hs => ?_⟩
  have := (safe_iff s).1 (e hs)
  exact (safe_iff _).2 ⟨hf this.1, this.2.1, this.2.2⟩

theorem keeps_withMem {s0 s : State} (m : Memory) (hf : s.mem.wf = true → m.wf = true) (h : Keeps s0 s) :
    Keeps s0 { s with mem := m } := keeps_onMem (fun _ => m) hf h

theorem keeps_memDev {s0 s : State} (m : Memory) (d : Dev) (hf : s.mem.wf = true → m.wf = true) (h : Keeps s0 s) :
    Keeps s0 { s with mem := m, dev := d } := keeps_onMem (fun _ => m) hf h

theorem keeps_foldl {α : Type} {s0 : State} (f : State → α → State) (l : List α) (s : State)
    (hf : ∀ s a, Keeps s0 s → Keeps s0 (f s a)) (h : Keeps s0 s) : Keeps s0 (l.foldl f s) := by
  induction l generalizing s with
  | nil => exact h
  | cons a l ih => exact ih _ (hf s a h)

theorem keeps_foldl1 {α β : Type} {s0 : State} (f : State × β → α → State × β) (l : List α) (s : State × β)
    (hf : ∀ s a, Keeps s0 s.1 → Keeps s0 (f s a).1) (h : Keeps s0 s.1) : Keeps s0 (l.foldl f s).1 := by
  induction l generalizing s with
  | nil => exact h
  | cons a l ih => exact ih _ (hf s a h)

theorem addLog_fuse (m : Mgmt) (r : LogRec) : (m.addLog r).fuse = m.fuse := by
  unfold Mgmt.addLog Mgmt.takeSeq
  split
  · rfl
  · split
    · rfl
    · split <;> rfl

/-! ### Memory keeps its canonical form. -/

theorem wf_cons (a : Nat) (b : Byte) (t : Mem) : Mem.wf ((a, b) :: t) = true ↔ b ≠ 0 ∧ (∀ e ∈ t, a < e.1) ∧ Mem.wf t = true := by
  simp [Mem.wf, and_assoc]

theorem wf_filter (p : Nat × Byte → Bool) (m : Mem) (h : Mem.wf m = true) : Mem.wf (m.filter p) = true := by
  induction m with
  | nil => exact h
  | cons e t ih =>
    obtain ⟨a, b⟩ := e
    have k := (wf_cons a b t).1 h
    simp only [List.filter_cons]
    split
    · exact (wf_cons _ _ _).2 ⟨k.1, fun x hx => k.2.1 x (List.mem_of_mem_filter hx), ih k.2.2⟩
    · exact ih k.2.2

theorem mem_put {α : Type} (m : List (Nat × α)) (a : Nat) (b : α) (e : Nat × α) (h : e ∈ Map.put m a b) : e = (a, b) ∨ e ∈ m := by
  induction m with
  | nil => simpa [Map.put] using h
  | cons x t ih =>
    obtain ⟨k, v⟩ := x
    simp only [Map.put] at h
    split at h
    · simpa using h
    · split at h
      · rcases List.mem_cons.1 h with h | h
        · exact .inl h
        · exact .inr (List.mem_cons_of_mem _ h)
      · rcases List.mem_cons.1 h with h | h
        · exact .inr (h ▸ List.mem_cons_self ..)
        · exact (ih h).imp id (List.mem_cons_of_mem _)

theorem wf_put (m : Mem) (a : Nat) (b : Byte) (hb : b ≠ 0) (h : Mem.wf m = true) : Mem.wf (Map.put m a b) = true := by
  induction m with
  | nil => exact (wf_cons a b []).2 ⟨hb, fun _ x => absurd x List.not_mem_nil, rfl⟩
  | cons x t ih =>
    obtain ⟨k, v⟩ := x
    have w := (wf_cons k v t).1 h
    simp only [Map.put]
    split
    case isTrue hk =>
      refine (wf_cons _ _ _).2 ⟨hb, fun e he => ?_, h⟩
      rcases List.mem_cons.1 he with he | he
      · exact he ▸ hk
      · exact hk.trans (w.2.1 e he)
    case isFalse hk =>
      split
      case isTrue he => exact (wf_cons _ _ _).2 ⟨hb, fun e x => he ▸ w.2.1 e x, w.2.2⟩
      case isFalse he =>
        refine (wf_cons _ _ _).2 ⟨w.1, fun e x => ?_, ih w.2.2⟩
        rcases mem_put t a b e x with q | q
        · subst q; show k < a; omega
        · exact w.2.1 e q

/-- A write of one byte keeps the canonical form. -/
theorem Mem.set_wf (m : Mem) (a : Nat) (b : Byte) (h : Mem.wf m = true) : Mem.wf (Mem.set m a b) = true := by
  unfold Mem.set Map.del
  split
  · exact wf_filter _ _ h
  · exact wf_put _ _ _ ‹_› h

/-- A write of bytes keeps the canonical form. -/
theorem Mem.write_wf (bs : Bytes) : ∀ (m : Mem) (a : Nat), Mem.wf m = true → Mem.wf (Mem.write m a bs) = true := by
  induction bs with
  | nil => exact fun _ _ h => h
  | cons b t ih => exact fun m a h => ih _ _ (Mem.set_wf m a b h)

/-- Zeroing keeps the canonical form. -/
theorem Mem.zero_wf (m : Mem) (a n : Nat) (h : Mem.wf m = true) : Mem.wf (Mem.zero m a n) = true := wf_filter _ _ h

theorem bytesUnder_wf (m : Mem) (line : Nat) (mask : BitVec 128) (data : Bytes) (h : Mem.wf m = true) :
    Mem.wf (Memory.bytesUnder m line mask data) = true := by
  unfold Memory.bytesUnder
  generalize List.range 128 = l
  induction l generalizing m with
  | nil => exact h
  | cons i l ih =>
    refine ih _ ?_
    dsimp only
    split
    · exact Mem.set_wf _ _ _ h
    · exact h

/-- A write at a line's home keeps the canonical form. -/
theorem writeLine_wf (m : Memory) (lean : Bool) (line : Nat) (mask : BitVec 128) (data : Bytes) (h : m.wf = true) :
    (m.writeLine lean line mask data).wf = true := by
  unfold Memory.writeLine Memory.setPoison Memory.wf
  dsimp only
  exact bytesUnder_wf _ _ _ _ h

/-- Zeroing device memory keeps the canonical form. -/
theorem Memory.zero_wf (m : Memory) (a n : Nat) (h : m.wf = true) : (m.zero a n).wf = true := by
  unfold Memory.zero Memory.wf
  dsimp only
  exact Mem.zero_wf _ _ _ h

theorem foldl_keep {α β : Type} (p : β → Prop) (f : β → α → β) (hf : ∀ b a, p b → p (f b a)) (l : List α) (b : β) (h : p b) :
    p (l.foldl f b) := by
  induction l generalizing b with
  | nil => exact h
  | cons a l ih => exact ih _ (hf b a h)

/-- The limits of the safety partition are the same. -/
def SameLimits (w v : Pow) : Prop := v.fuseMax = w.fuseMax ∧ v.fuseFloor = w.fuseFloor ∧ v.ceiling = w.ceiling

theorem keeps_limits {s0 s : State} (f : Pow → Pow) (hf : SameLimits s.pow (f s.pow)) (h : Keeps s0 s) : Keeps s0 (s.onPow f) := by
  refine keeps_onPow f hf.1 hf.2.1 (fun hl => ?_) h
  unfold Pow.limited at hl ⊢
  rw [hf.1, hf.2.1, hf.2.2]
  exact hl

theorem sameLimits_foldl {α : Type} (w : Pow) (f : Pow → α → Pow) (hf : ∀ v a, SameLimits w v → SameLimits w (f v a)) (l : List α) (v : Pow)
    (h : SameLimits w v) : SameLimits w (l.foldl f v) := foldl_keep (SameLimits w) f hf l v h

theorem State.log_keeps {s0 : State} (s : State) (type : Nat) (att ctx : Option Nat) (data : Bytes) (h : Keeps s0 s) :
    Keeps s0 (s.log type att ctx data) :=
  keeps_onMgmt _ (fun x => by rw [addLog_fuse]; exact x) h

theorem State.notify_keeps {s0 : State} (old : State) (s : State) (hk : Keeps s0 old) (hk1 : Keeps s0 s) : Keeps s0 (State.notify old s) := by
  unfold State.notify
  try dsimp only
  repeat' (first | (with_reducible assumption) | (with_reducible apply keeps_onDev) | (with_reducible apply keeps_foldl)
                 | (with_reducible apply keeps_foldl1) | (dsimp only) | (split) | (intro _; try dsimp only))

theorem State.withStatus_keeps {s0 : State} (s : State) (f : State → State) (hk : Keeps s0 s) (hf : ∀ z0, Keeps s0 z0 → Keeps s0 (f z0)) : Keeps s0 (State.withStatus s f) := by
  unfold State.withStatus
  try dsimp only
  repeat' (first | (with_reducible assumption) | (with_reducible apply State.notify_keeps) | (with_reducible apply hf) | (dsimp only))

theorem State.event_keeps {s0 : State} (s : State) (n : Nat) (type : Nat) (cause : Nat) (seq : Nat) (payload : Bytes) (hk : Keeps s0 s) : Keeps s0 (State.event s n type cause seq payload) := by
  unfold State.event
  try dsimp only
  repeat' (first | (with_reducible assumption) | (with_reducible apply State.log_keeps) | (with_reducible apply keeps_onDev)
                 | (dsimp only) | (split) | (intro _; try dsimp only))

theorem State.attEvent_keeps {s0 : State} (s : State) (a : Nat) (type : Nat) (cause : Nat) (payload : Bytes) (hk : Keeps s0 s) : Keeps s0 (State.attEvent s a type cause payload) := by
  unfold State.attEvent
  try dsimp only
  repeat' (first | (with_reducible assumption) | (with_reducible apply State.log_keeps) | (with_reducible apply keeps_onDev)
                 | (dsimp only) | (intro _; try dsimp only))

theorem State.homeWrite_keeps {s0 : State} (s : State) (line : Nat) (mask : BitVec 128) (data : Bytes) (h : Keeps s0 s) :
    Keeps s0 (s.homeWrite line mask data) := by
  unfold State.homeWrite
  dsimp only
  refine keeps_memDev _ _ (fun w => writeLine_wf _ _ _ _ _ ?_) h
  split
  · exact writeLine_wf _ _ _ _ _ w
  · exact w

theorem State.writePa_keeps {s0 : State} (s : State) (a : Nat) (bs : Bytes) (hk : Keeps s0 s) : Keeps s0 (State.writePa s a bs) := by
  unfold State.writePa
  try dsimp only
  repeat' (first | (with_reducible assumption) | (with_reducible apply State.homeWrite_keeps) | (with_reducible apply keeps_foldl)
                 | (with_reducible apply keeps_foldl1) | (dsimp only) | (intro _; try dsimp only))

theorem State.took_keeps {s0 : State} (s : State) (n : Nat) (hk : Keeps s0 s) : Keeps s0 (State.took s n) := by
  unfold State.took
  try dsimp only
  repeat' (first | (with_reducible assumption) | (with_reducible apply keeps_onDev) | (dsimp only) | (intro _; try dsimp only))

end Sys2Proof.Machine
end

