-- ==== Sys2Proof/Laws/KeepsParts.lean ====
section
/-!
SUPPORT. What Machine/Parts.lean keeps: the queue, the time, the fused limits, and safety.
-/

namespace Sys2Proof.Machine

theorem State.stopPart_keeps {s0 : State} (s : State) (uid : Nat) (stage : PartStage) (hk : Keeps s0 s) : Keeps s0 (State.stopPart s uid stage) := by
  unfold State.stopPart
  try dsimp only
  repeat' (first | (with_reducible assumption) | (with_reducible apply State.took_keeps) | (dsimp only) | (split) | (apply keeps_withDev)
                 | (refine keeps_withMem _ (fun h => h) ?_) | (refine keeps_memDev _ _ (fun h => h) ?_) | (intro _; try dsimp only))

theorem State.failPart_keeps {s0 : State} (s : State) (uid : Nat) (status : Nat) (hk : Keeps s0 s) : Keeps s0 (State.failPart s uid status) := by
  unfold State.failPart
  try dsimp only
  repeat' (first | (with_reducible assumption) | (with_reducible apply State.stopPart_keeps) | (with_reducible apply keeps_onDev)
                 | (with_reducible apply keeps_foldl) | (with_reducible apply keeps_foldl1) | (dsimp only) | (split)
                 | (intro _; try dsimp only))

end Sys2Proof.Machine
end

