-- ==== Sys2Proof/Laws/KeepsKernel.lean ====
section
/-!
SUPPORT. What Machine/Kernel.lean keeps: the queue, the time, the fused limits, and safety.
-/

namespace Sys2Proof.Machine

theorem State.modC_keeps {s0 : State} (s : State) (i : Nat) (f : Cluster → Cluster) (hk : Keeps s0 s) : Keeps s0 (State.modC s i f) := by
  unfold State.modC
  try dsimp only
  repeat' (first | (with_reducible assumption) | (with_reducible apply keeps_onDev) | (dsimp only) | (intro _; try dsimp only))

theorem State.progressed_keeps {s0 : State} (s : State) (e : Nat) (hk : Keeps s0 s) : Keeps s0 (State.progressed s e) := by
  unfold State.progressed
  try dsimp only
  repeat' (first | (with_reducible assumption) | (with_reducible apply keeps_onDev) | (dsimp only) | (split) | (intro _; try dsimp only))

theorem State.done_keeps {s0 : State} (s : State) (i : Nat) (rd : Fin 32) (v : Word) (hk : Keeps s0 s) : Keeps s0 (State.done s i rd v) := by
  unfold State.done
  try dsimp only
  repeat' (first | (with_reducible assumption) | (with_reducible apply State.modC_keeps) | (with_reducible apply State.progressed_keeps)
                 | (dsimp only) | (intro _; try dsimp only))

theorem State.retire_keeps {s0 : State} (s : State) (i : Nat) (hk : Keeps s0 s) : Keeps s0 (State.retire s i) := by
  unfold State.retire
  try dsimp only
  repeat' (first | (with_reducible assumption) | (with_reducible apply State.modC_keeps) | (with_reducible apply State.progressed_keeps)
                 | (dsimp only))

theorem State.traps_keeps {s0 : State} (s : State) (l : List (Nat × Nat × Nat)) (hk : Keeps s0 s) : Keeps s0 (State.traps s l) := by
  unfold State.traps
  try dsimp only
  repeat' (first | (with_reducible assumption) | (with_reducible apply State.failPart_keeps) | (with_reducible apply State.took_keeps)
                 | (with_reducible apply keeps_onDev) | (with_reducible apply keeps_foldl) | (with_reducible apply keeps_foldl1)
                 | (dsimp only) | (split) | (intro _; try dsimp only))

theorem State.trap_keeps {s0 : State} (s : State) (i : Nat) (cause : Nat) (tval : Nat) (hk : Keeps s0 s) : Keeps s0 (State.trap s i cause tval) := by
  unfold State.trap
  try dsimp only
  repeat' (first | (with_reducible assumption) | (with_reducible apply State.traps_keeps) | (dsimp only))

theorem State.undoAtom_keeps {s0 : State} (s : State) (a : Nat × Nat × Bool × Word) (hk : Keeps s0 s) : Keeps s0 (State.undoAtom s a) := by
  unfold State.undoAtom
  try dsimp only
  repeat' (first | (with_reducible assumption) | (with_reducible apply State.writePa_keeps) | (dsimp only) | (split))

theorem State.abandon_keeps {s0 : State} (s : State) (uid : Nat) (hk : Keeps s0 s) : Keeps s0 (State.abandon s uid) := by
  unfold State.abandon
  try dsimp only
  repeat' (first | (with_reducible assumption) | (with_reducible apply State.homeWrite_keeps) | (with_reducible apply State.trap_keeps)
                 | (with_reducible apply State.undoAtom_keeps) | (with_reducible apply keeps_onDev) | (with_reducible apply keeps_foldl)
                 | (with_reducible apply keeps_foldl1) | (dsimp only) | (split) | (refine keeps_withMem _ (fun h => h) ?_)
                 | (refine keeps_memDev _ _ (fun h => h) ?_) | (intro _; try dsimp only))

theorem State.absorb_keeps {s0 : State} (s : State) (uid : Nat) (cls : HwClass) (hk : Keeps s0 s) : Keeps s0 (State.absorb s uid cls) := by
  unfold State.absorb
  try dsimp only
  repeat' (first | (with_reducible assumption) | (with_reducible apply State.abandon_keeps) | (with_reducible apply keeps_onDev)
                 | (dsimp only) | (split) | (intro _; try dsimp only))

theorem State.absorbAt_keeps {s0 : State} (s : State) (i : Nat) (cls : HwClass) (hk : Keeps s0 s) : Keeps s0 (State.absorbAt s i cls) := by
  unfold State.absorbAt
  try dsimp only
  repeat' (first | (with_reducible assumption) | (with_reducible apply State.absorb_keeps) | (dsimp only) | (split))

theorem State.absorbEng_keeps {s0 : State} (s : State) (e : Nat) (cls : HwClass) (hk : Keeps s0 s) : Keeps s0 (State.absorbEng s e cls) := by
  unfold State.absorbEng
  try dsimp only
  repeat' (first | (with_reducible assumption) | (with_reducible apply State.absorb_keeps) | (dsimp only) | (split)
                 | (intro _; try dsimp only))

end Sys2Proof.Machine
end

