-- ==== Sys2Proof/Laws/KeepsObjects.lean ====
section
/-!
SUPPORT. What Machine/Objects.lean keeps: the queue, the time, the fused limits, and safety.
-/

namespace Sys2Proof.Machine

theorem State.freeLine_keeps {s0 : State} (s : State) (key : Nat) (l : Nat) (mask : BitVec 128) (hk : Keeps s0 s) : Keeps s0 (State.freeLine s key l mask) := by
  unfold State.freeLine
  try dsimp only
  repeat' (first | (with_reducible assumption) | (with_reducible apply State.homeWrite_keeps) | (with_reducible apply State.took_keeps)
                 | (with_reducible apply keeps_onDev) | (with_reducible apply keeps_foldl) | (with_reducible apply keeps_foldl1)
                 | (dsimp only) | (split) | (intro _; try dsimp only))

theorem State.freeWrote_keeps {s0 : State} (s : State) (m : List (Nat × List (Nat × BitVec 128))) (hk : Keeps s0 s) : Keeps s0 (State.freeWrote s m) := by
  unfold State.freeWrote
  try dsimp only
  repeat' (first | (with_reducible assumption) | (with_reducible apply State.freeLine_keeps) | (with_reducible apply keeps_foldl)
                 | (with_reducible apply keeps_foldl1) | (dsimp only) | (intro _; try dsimp only))

theorem State.discardImage_keeps {s0 : State} (s : State) (pt : Nat) (num : Nat) (hk : Keeps s0 s) : Keeps s0 (State.discardImage s pt num) := by
  unfold State.discardImage
  try dsimp only
  repeat' (first | (with_reducible assumption) | (with_reducible apply State.absorb_keeps) | (with_reducible apply keeps_onDev)
                 | (with_reducible apply keeps_foldl) | (with_reducible apply keeps_foldl1) | (dsimp only) | (split)
                 | (intro _; try dsimp only))

theorem State.poisonRead_keeps {s0 : State} (s : State) (uid : Nat) (line : Nat) (va : Nat) (hk : Keeps s0 s) : Keeps s0 (State.poisonRead s uid line va).1 := by
  unfold State.poisonRead
  try dsimp only
  repeat' (first | (with_reducible assumption) | (with_reducible apply State.discardImage_keeps)
                 | (with_reducible apply State.event_keeps) | (with_reducible apply keeps_onDev) | (with_reducible apply keeps_foldl)
                 | (with_reducible apply keeps_foldl1) | (dsimp only) | (split) | (intro _; try dsimp only))

end Sys2Proof.Machine
end

