-- ==== Sys2Proof/Laws/KeepsKMem.lean ====
section
/-!
SUPPORT. What Machine/KMem.lean keeps: the queue, the time, the fused limits, and safety.
-/

namespace Sys2Proof.Machine

theorem State.writeBack_keeps {s0 : State} (s : State) (l : CcLine) (hk : Keeps s0 s) : Keeps s0 (State.writeBack s l) := by
  unfold State.writeBack
  try dsimp only
  repeat' (first | (with_reducible assumption) | (with_reducible apply State.homeWrite_keeps) | (with_reducible apply keeps_onDev)
                 | (dsimp only) | (split) | (intro _; try dsimp only))

theorem State.ccClean_keeps {s0 : State} (s : State) (e : Nat) (sel : Nat × CcLine → Bool) (hk : Keeps s0 s) : Keeps s0 (State.ccClean s e sel) := by
  unfold State.ccClean
  try dsimp only
  repeat' (first | (with_reducible assumption) | (with_reducible apply State.writeBack_keeps) | (with_reducible apply keeps_onDev)
                 | (with_reducible apply keeps_foldl) | (with_reducible apply keeps_foldl1) | (dsimp only) | (split)
                 | (intro _; try dsimp only))

theorem State.ccDrop_keeps {s0 : State} (s : State) (e : Nat) (sel : Nat × CcLine → Bool) (hk : Keeps s0 s) : Keeps s0 (State.ccDrop s e sel) := by
  unfold State.ccDrop
  try dsimp only
  repeat' (first | (with_reducible assumption) | (with_reducible apply State.ccClean_keeps) | (with_reducible apply keeps_onDev)
                 | (dsimp only) | (intro _; try dsimp only))

theorem State.ccCheck_keeps {s0 : State} (s : State) (e : Nat) (slot : Nat) (chk : Check) (hk : Keeps s0 s) : Keeps s0 (State.ccCheck s e slot chk).1 := by
  unfold State.ccCheck
  try dsimp only
  repeat' (first | (with_reducible assumption) | (with_reducible apply State.absorbEng_keeps) | (with_reducible apply keeps_onDev)
                 | (dsimp only) | (split) | (intro _; try dsimp only))

theorem State.ccChecks_keeps {s0 : State} (s : State) (e : Nat) (sel : Nat × CcLine → Bool) (l : List (Nat × Check)) (hk : Keeps s0 s) : Keeps s0 (State.ccChecks s e sel l).1 := by
  unfold State.ccChecks
  try dsimp only
  repeat' (first | (with_reducible assumption) | (with_reducible apply State.ccCheck_keeps) | (with_reducible apply keeps_foldl)
                 | (with_reducible apply keeps_foldl1) | (dsimp only) | (split) | (intro _; try dsimp only))

theorem State.amo_keeps {s0 : State} (s : State) (i : Nat) (uid : Nat) (va : Nat) (pa : Nat) (op : Nat) (dbl : Bool) (rd : Fin 32) (v : Word) (hk : Keeps s0 s) : Keeps s0 (State.amo s i uid va pa op dbl rd v) := by
  unfold State.amo
  try dsimp only
  repeat' (first | (with_reducible assumption) | (with_reducible apply State.ccDrop_keeps) | (with_reducible apply State.done_keeps)
                 | (with_reducible apply State.trap_keeps) | (with_reducible apply State.writePa_keeps)
                 | (with_reducible apply keeps_onDev) | (dsimp only) | (split) | (intro _; try dsimp only))

theorem State.ccHit_keeps {s0 : State} (s : State) (i : Nat) (e : Nat) (slot : Nat) (l : CcLine) (uid : Nat) (pa : Nat) (acc : KAccess) (hk : Keeps s0 s) : Keeps s0 (State.ccHit s i e slot l uid pa acc) := by
  unfold State.ccHit
  try dsimp only
  repeat' (first | (with_reducible assumption) | (with_reducible apply State.amo_keeps) | (with_reducible apply State.done_keeps)
                 | (with_reducible apply State.modC_keeps) | (with_reducible apply State.retire_keeps)
                 | (with_reducible apply keeps_onDev) | (dsimp only) | (split) | (intro _; try dsimp only))

theorem State.ccAccess_keeps {s0 : State} (s : State) (i : Nat) (e : Nat) (uid : Nat) (pa : Nat) (acc : KAccess) (hk : Keeps s0 s) : Keeps s0 (State.ccAccess s i e uid pa acc) := by
  unfold State.ccAccess
  try dsimp only
  repeat' (first | (with_reducible assumption) | (with_reducible apply State.ccHit_keeps) | (with_reducible apply State.modC_keeps)
                 | (with_reducible apply keeps_onDev) | (dsimp only) | (split) | (intro _; try dsimp only))

theorem State.vaccess_keeps {s0 : State} (s : State) (i : Nat) (va : Nat) (acc : KAccess) (hk : Keeps s0 s) : Keeps s0 (State.vaccess s i va acc) := by
  unfold State.vaccess
  try dsimp only
  repeat' (first | (with_reducible assumption) | (with_reducible apply State.amo_keeps) | (with_reducible apply State.ccAccess_keeps)
                 | (with_reducible apply State.event_keeps) | (with_reducible apply State.failPart_keeps)
                 | (with_reducible apply State.modC_keeps) | (with_reducible apply State.trap_keeps) | (with_reducible apply keeps_onDev)
                 | (dsimp only) | (split) | (intro _; try dsimp only))

theorem State.retry_keeps {s0 : State} (s : State) (i : Nat) (hk : Keeps s0 s) : Keeps s0 (State.retry s i) := by
  unfold State.retry
  try dsimp only
  repeat' (first | (with_reducible assumption) | (with_reducible apply State.modC_keeps) | (with_reducible apply State.vaccess_keeps)
                 | (dsimp only) | (split) | (intro _; try dsimp only))

theorem State.retryObjects_keeps {s0 : State} (s : State) (hk : Keeps s0 s) : Keeps s0 (State.retryObjects s) := by
  unfold State.retryObjects
  try dsimp only
  repeat' (first | (with_reducible assumption) | (with_reducible apply State.retry_keeps) | (with_reducible apply keeps_foldl)
                 | (with_reducible apply keeps_foldl1) | (dsimp only) | (split) | (intro _; try dsimp only))

theorem State.checked_keeps {s0 : State} (s : State) (i : Nat) (access : Nat) (va : Nat) (chk : Check) (f : State → State) (hk : Keeps s0 s) (hf : ∀ z0, Keeps s0 z0 → Keeps s0 (f z0)) : Keeps s0 (State.checked s i access va chk f) := by
  unfold State.checked
  try dsimp only
  repeat' (first | (with_reducible assumption) | (with_reducible apply State.ccCheck_keeps) | (with_reducible apply hf) | (dsimp only)
                 | (split))

theorem State.fetch_keeps {s0 : State} (s : State) (i : Nat) (chk : Check) (hk : Keeps s0 s) : Keeps s0 (State.fetch s i chk) := by
  unfold State.fetch
  try dsimp only
  repeat' (first | (with_reducible assumption) | (with_reducible apply State.checked_keeps) | (with_reducible apply State.trap_keeps)
                 | (with_reducible apply State.vaccess_keeps) | (dsimp only) | (split) | (intro _; try dsimp only))

theorem State.atInstr_keeps {s0 : State} (s : State) (p : Pre) (hk : Keeps s0 s) : Keeps s0 (State.atInstr s p) := by
  unfold State.atInstr
  try dsimp only
  repeat' (first | (with_reducible assumption) | (with_reducible apply State.fetch_keeps) | (with_reducible apply State.modC_keeps)
                 | (with_reducible apply State.progressed_keeps) | (dsimp only) | (split) | (intro _; try dsimp only))

theorem State.alsoTraps_keeps {s0 : State} (s : State) (t : State) (p : Pre) (hk : Keeps s0 s) (hk1 : Keeps s0 t) : Keeps s0 (State.alsoTraps s t p) := by
  unfold State.alsoTraps
  try dsimp only
  repeat' (first | (with_reducible assumption) | (with_reducible apply State.trap_keeps) | (with_reducible apply keeps_onDev)
                 | (with_reducible apply keeps_foldl) | (with_reducible apply keeps_foldl1) | (dsimp only) | (split)
                 | (intro _; try dsimp only))

theorem State.kernelStep_keeps {s0 : State} (s : State) (p : Pre) (f : Nat → State → State) (hk : Keeps s0 s) (hf : ∀ z0 z1, Keeps s0 z1 → Keeps s0 (f z0 z1)) : Keeps s0 (State.kernelStep s p f) := by
  unfold State.kernelStep
  try dsimp only
  repeat' (first | (with_reducible assumption) | (with_reducible apply State.alsoTraps_keeps) | (with_reducible apply State.atInstr_keeps)
                 | (with_reducible apply State.modC_keeps) | (with_reducible apply hf) | (dsimp only) | (split))

theorem State.kload_keeps {s0 : State} (s : State) (i : Nat) (rd : Fin 32) (a : Nat) (log2 : Nat) (sgn : Bool) (chk : Check) (hk : Keeps s0 s) : Keeps s0 (State.kload s i rd a log2 sgn chk) := by
  unfold State.kload
  try dsimp only
  repeat' (first | (with_reducible assumption) | (with_reducible apply State.absorbAt_keeps) | (with_reducible apply State.checked_keeps)
                 | (with_reducible apply State.done_keeps) | (with_reducible apply State.trap_keeps)
                 | (with_reducible apply State.vaccess_keeps) | (dsimp only) | (split) | (intro _; try dsimp only))

theorem State.kstore_keeps {s0 : State} (s : State) (i : Nat) (a : Nat) (v : Word) (log2 : Nat) (chk : Check) (hk : Keeps s0 s) : Keeps s0 (State.kstore s i a v log2 chk) := by
  unfold State.kstore
  try dsimp only
  repeat' (first | (with_reducible assumption) | (with_reducible apply State.checked_keeps) | (with_reducible apply State.modC_keeps)
                 | (with_reducible apply State.retire_keeps) | (with_reducible apply State.trap_keeps)
                 | (with_reducible apply State.vaccess_keeps) | (dsimp only) | (split) | (intro _; try dsimp only))

theorem State.kamo_keeps {s0 : State} (s : State) (i : Nat) (op : Nat) (dbl : Bool) (rd : Fin 32) (rs1 : Fin 32) (rs2 : Fin 32) (hk : Keeps s0 s) : Keeps s0 (State.kamo s i op dbl rd rs1 rs2) := by
  unfold State.kamo
  try dsimp only
  repeat' (first | (with_reducible assumption) | (with_reducible apply State.amo_keeps) | (with_reducible apply State.trap_keeps)
                 | (with_reducible apply State.vaccess_keeps) | (dsimp only) | (split))

theorem State.serveFill_keeps {s0 : State} (s : State) (e : Nat) (slot : Nat) (line : Nat) (hk : Keeps s0 s) : Keeps s0 (State.serveFill s e slot line) := by
  unfold State.serveFill
  try dsimp only
  repeat' (first | (with_reducible assumption) | (with_reducible apply State.ccHit_keeps) | (with_reducible apply State.modC_keeps)
                 | (with_reducible apply keeps_foldl) | (with_reducible apply keeps_foldl1) | (dsimp only) | (split)
                 | (intro _; try dsimp only))

theorem State.nextMiss_keeps {s0 : State} (fuel : Nat) (s : State) (e : Nat) (hk : Keeps s0 s) : Keeps s0 (State.nextMiss fuel s e) := by
  induction fuel generalizing s e with
  | zero =>
    unfold State.nextMiss
    try dsimp only
    repeat' (first | (with_reducible assumption) | (with_reducible apply State.ccHit_keeps) | (with_reducible apply State.fetch_keeps)
                   | (with_reducible apply State.modC_keeps)  | (with_reducible apply keeps_onDev)
                   | (with_reducible apply keeps_foldl) | (with_reducible apply keeps_foldl1) | (dsimp only) | (split)
                   | (intro _; try dsimp only))
  | succ k ih =>
    unfold State.nextMiss
    try dsimp only
    repeat' (first | (with_reducible assumption) | (with_reducible apply State.ccHit_keeps) | (with_reducible apply State.fetch_keeps)
                   | (with_reducible apply State.modC_keeps) | (with_reducible apply ih) | (with_reducible apply keeps_onDev)
                   | (with_reducible apply keeps_foldl) | (with_reducible apply keeps_foldl1) | (dsimp only) | (split)
                   | (intro _; try dsimp only))

theorem State.fill_keeps {s0 : State} (s : State) (e : Nat) (way : Nat) (victim : Check) (hk : Keeps s0 s) : Keeps s0 (State.fill s e way victim) := by
  unfold State.fill
  try dsimp only
  repeat' (first | (with_reducible assumption) | (with_reducible apply State.ccCheck_keeps) | (with_reducible apply State.nextMiss_keeps)
                 | (with_reducible apply State.poisonRead_keeps) | (with_reducible apply State.serveFill_keeps)
                 | (with_reducible apply State.writeBack_keeps) | (with_reducible apply keeps_onDev) | (dsimp only) | (split)
                 | (intro _; try dsimp only))

theorem State.runFault_keeps {s0 : State} (s : State) (e : Nat) (uid : Nat) (va : Nat) (access : Nat) (w : Who) (hk : Keeps s0 s) : Keeps s0 (State.runFault s e uid va access w) := by
  unfold State.runFault
  try dsimp only
  repeat' (first | (with_reducible assumption) | (with_reducible apply keeps_onDev) | (dsimp only) | (split) | (intro _; try dsimp only))

theorem State.stopAt_keeps {s0 : State} (s : State) (e : Nat) (uid : Nat) (access : Nat) (va : Nat) (pl : Place) (hk : Keeps s0 s) : Keeps s0 (State.stopAt s e uid access va pl) := by
  unfold State.stopAt
  try dsimp only
  repeat' (first | (with_reducible assumption) | (with_reducible apply State.event_keeps) | (with_reducible apply State.failPart_keeps)
                 | (with_reducible apply State.runFault_keeps) | (with_reducible apply keeps_onDev) | (dsimp only) | (split)
                 | (intro _; try dsimp only))

theorem State.xlate_keeps {s0 : State} (s : State) (e : Nat) (uid : Nat) (x : Xlat) (l : List (Nat × Nat)) (hk : Keeps s0 s) : Keeps s0 (State.xlate s e uid x l).1 := by
  induction l generalizing s e uid x with
  | nil =>
    unfold State.xlate
    try dsimp only
    repeat' (first | (with_reducible assumption) | (with_reducible apply State.stopAt_keeps) 
                   | (with_reducible apply keeps_onDev) | (dsimp only) | (split) | (intro _; try dsimp only))
  | cons x0 l0 ih =>
    unfold State.xlate
    try dsimp only
    repeat' (first | (with_reducible assumption) | (with_reducible apply State.stopAt_keeps) | (with_reducible apply ih)
                   | (with_reducible apply keeps_onDev) | (dsimp only) | (split) | (intro _; try dsimp only))

theorem State.modXlat_keeps {s0 : State} (s : State) (e : Nat) (uid : Nat) (w : Who) (f : Xlat → Xlat) (hk : Keeps s0 s) : Keeps s0 (State.modXlat s e uid w f) := by
  unfold State.modXlat
  try dsimp only
  repeat' (first | (with_reducible assumption) | (with_reducible apply State.modC_keeps) | (with_reducible apply keeps_onDev)
                 | (dsimp only) | (split) | (intro _; try dsimp only))

theorem State.rcFill_keeps {s0 : State} (s : State) (e : Nat) (uid : Nat) (w : Who) (hk : Keeps s0 s) : Keeps s0 (State.rcFill s e uid w) := by
  unfold State.rcFill
  try dsimp only
  repeat' (first | (with_reducible assumption) | (with_reducible apply State.modC_keeps) | (with_reducible apply State.modXlat_keeps)
                 | (with_reducible apply State.retry_keeps) | (with_reducible apply State.runFault_keeps)
                 | (with_reducible apply keeps_onDev) | (dsimp only) | (split) | (intro _; try dsimp only))

theorem State.releaseHold_keeps {s0 : State} (s : State) (e : Nat) (uid : Nat) (w : Who) (hk : Keeps s0 s) : Keeps s0 (State.releaseHold s e uid w) := by
  unfold State.releaseHold
  try dsimp only
  repeat' (first | (with_reducible assumption) | (with_reducible apply State.modXlat_keeps) | (with_reducible apply State.retry_keeps)
                 | (dsimp only) | (split) | (intro _; try dsimp only))

theorem State.maintWalk_keeps {s0 : State} (s : State) (e : Nat) (set : Option Nat) (op : Nat) (chks : List (Nat × Check)) (hk : Keeps s0 s) : Keeps s0 (State.maintWalk s e set op chks) := by
  unfold State.maintWalk
  try dsimp only
  repeat' (first | (with_reducible assumption) | (with_reducible apply State.ccChecks_keeps) | (with_reducible apply State.ccClean_keeps)
                 | (with_reducible apply State.ccDrop_keeps) | (with_reducible apply keeps_onDev) | (dsimp only) | (split)
                 | (intro _; try dsimp only))

theorem State.maintDone_keeps {s0 : State} (s : State) (e : Nat) (set : Option Nat) (hk : Keeps s0 s) : Keeps s0 (State.maintDone s e set) := by
  unfold State.maintDone
  try dsimp only
  repeat' (first | (with_reducible assumption) | (with_reducible apply keeps_onDev) | (dsimp only) | (split) | (intro _; try dsimp only))

theorem State.wayDisable_keeps {s0 : State} (s : State) (e : Nat) (way : Nat) (chks : List (Nat × Check)) (hk : Keeps s0 s) : Keeps s0 (State.wayDisable s e way chks) := by
  unfold State.wayDisable
  try dsimp only
  repeat' (first | (with_reducible assumption) | (with_reducible apply State.abandon_keeps) | (with_reducible apply State.ccChecks_keeps)
                 | (with_reducible apply State.ccDrop_keeps) | (with_reducible apply State.log_keeps) | (with_reducible apply keeps_onDev)
                 | (with_reducible apply keeps_foldl) | (with_reducible apply keeps_foldl1) | (dsimp only) | (split)
                 | (intro _; try dsimp only))

theorem execKernelLoad_keeps (p : Pre) (rd : Fin 32) (rs1 : Fin 32) (imm : BitVec 12) (log2 : Fin 4) (sgn : Bool) (chk : Check) (s : State) : ∃ s1, execKernelLoad p rd rs1 imm log2 sgn chk s = .next s1 ∧ Keeps s s1 := by
  refine ⟨_, rfl, ?_⟩
  have hk := Keeps.refl s
  repeat' (first | (with_reducible assumption) | (with_reducible apply State.kernelStep_keeps) | (with_reducible apply State.kload_keeps)
                 | (dsimp only) | (intro _; try dsimp only))

theorem execKernelStore_keeps (p : Pre) (rs1 : Fin 32) (rs2 : Fin 32) (imm : BitVec 12) (log2 : Fin 4) (chk : Check) (s : State) : ∃ s1, execKernelStore p rs1 rs2 imm log2 chk s = .next s1 ∧ Keeps s s1 := by
  refine ⟨_, rfl, ?_⟩
  have hk := Keeps.refl s
  repeat' (first | (with_reducible assumption) | (with_reducible apply State.kernelStep_keeps) | (with_reducible apply State.kstore_keeps)
                 | (dsimp only) | (intro _; try dsimp only))

theorem execKqAmoaddW_keeps (p : Pre) (rd : Fin 32) (rs1 : Fin 32) (rs2 : Fin 32) (s : State) : ∃ s1, execKqAmoaddW p rd rs1 rs2 s = .next s1 ∧ Keeps s s1 := by
  refine ⟨_, rfl, ?_⟩
  have hk := Keeps.refl s
  repeat' (first | (with_reducible assumption) | (with_reducible apply State.kamo_keeps) | (with_reducible apply State.kernelStep_keeps)
                 | (dsimp only) | (intro _; try dsimp only))

theorem execKqAmoxorW_keeps (p : Pre) (rd : Fin 32) (rs1 : Fin 32) (rs2 : Fin 32) (s : State) : ∃ s1, execKqAmoxorW p rd rs1 rs2 s = .next s1 ∧ Keeps s s1 := by
  refine ⟨_, rfl, ?_⟩
  have hk := Keeps.refl s
  repeat' (first | (with_reducible assumption) | (with_reducible apply State.kamo_keeps) | (with_reducible apply State.kernelStep_keeps)
                 | (dsimp only) | (intro _; try dsimp only))

theorem execKqAmoaddD_keeps (p : Pre) (rd : Fin 32) (rs1 : Fin 32) (rs2 : Fin 32) (s : State) : ∃ s1, execKqAmoaddD p rd rs1 rs2 s = .next s1 ∧ Keeps s s1 := by
  refine ⟨_, rfl, ?_⟩
  have hk := Keeps.refl s
  repeat' (first | (with_reducible assumption) | (with_reducible apply State.kamo_keeps) | (with_reducible apply State.kernelStep_keeps)
                 | (dsimp only) | (intro _; try dsimp only))

theorem execKqAmoxorD_keeps (p : Pre) (rd : Fin 32) (rs1 : Fin 32) (rs2 : Fin 32) (s : State) : ∃ s1, execKqAmoxorD p rd rs1 rs2 s = .next s1 ∧ Keeps s s1 := by
  refine ⟨_, rfl, ?_⟩
  have hk := Keeps.refl s
  repeat' (first | (with_reducible assumption) | (with_reducible apply State.kamo_keeps) | (with_reducible apply State.kernelStep_keeps)
                 | (dsimp only) | (intro _; try dsimp only))

theorem execKqAmoswapD_keeps (p : Pre) (rd : Fin 32) (rs1 : Fin 32) (rs2 : Fin 32) (s : State) : ∃ s1, execKqAmoswapD p rd rs1 rs2 s = .next s1 ∧ Keeps s s1 := by
  refine ⟨_, rfl, ?_⟩
  have hk := Keeps.refl s
  repeat' (first | (with_reducible assumption) | (with_reducible apply State.kamo_keeps) | (with_reducible apply State.kernelStep_keeps)
                 | (dsimp only) | (intro _; try dsimp only))

theorem execKqAmominD_keeps (p : Pre) (rd : Fin 32) (rs1 : Fin 32) (rs2 : Fin 32) (s : State) : ∃ s1, execKqAmominD p rd rs1 rs2 s = .next s1 ∧ Keeps s s1 := by
  refine ⟨_, rfl, ?_⟩
  have hk := Keeps.refl s
  repeat' (first | (with_reducible assumption) | (with_reducible apply State.kamo_keeps) | (with_reducible apply State.kernelStep_keeps)
                 | (dsimp only) | (intro _; try dsimp only))

theorem execKqAmomaxD_keeps (p : Pre) (rd : Fin 32) (rs1 : Fin 32) (rs2 : Fin 32) (s : State) : ∃ s1, execKqAmomaxD p rd rs1 rs2 s = .next s1 ∧ Keeps s s1 := by
  refine ⟨_, rfl, ?_⟩
  have hk := Keeps.refl s
  repeat' (first | (with_reducible assumption) | (with_reducible apply State.kamo_keeps) | (with_reducible apply State.kernelStep_keeps)
                 | (dsimp only) | (intro _; try dsimp only))

theorem execFenceI_keeps (p : Pre) (s : State) : ∃ s1, execFenceI p s = .next s1 ∧ Keeps s s1 := by
  refine ⟨_, rfl, ?_⟩
  have hk := Keeps.refl s
  repeat' (first | (with_reducible assumption) | (with_reducible apply State.ccDrop_keeps) | (with_reducible apply State.kernelStep_keeps)
                 | (with_reducible apply State.retire_keeps) | (dsimp only) | (intro _; try dsimp only))

theorem execCcFillComplete_keeps (e : EngId) (way : Fin 8) (victim : Check) (s : State) : ∃ s1, execCcFillComplete e way victim s = .next s1 ∧ Keeps s s1 := by
  refine ⟨_, rfl, ?_⟩
  have hk := Keeps.refl s
  repeat' (first | (with_reducible assumption) | (with_reducible apply State.fill_keeps) | (dsimp only))

theorem execCcClean_keeps (e : EngId) (set : Option (Fin 20)) (chks : List (Nat × Check)) (s : State) : ∃ s1, execCcClean e set chks s = .next s1 ∧ Keeps s s1 := by
  refine ⟨_, rfl, ?_⟩
  have hk := Keeps.refl s
  repeat' (first | (with_reducible assumption) | (with_reducible apply State.maintWalk_keeps) | (dsimp only))

theorem execCcInvalidate_keeps (e : EngId) (set : Option (Fin 20)) (chks : List (Nat × Check)) (s : State) : ∃ s1, execCcInvalidate e set chks s = .next s1 ∧ Keeps s s1 := by
  refine ⟨_, rfl, ?_⟩
  have hk := Keeps.refl s
  repeat' (first | (with_reducible assumption) | (with_reducible apply State.maintWalk_keeps) | (dsimp only))

theorem execCcMaintenanceDone_keeps (e : EngId) (set : Option (Fin 20)) (s : State) : ∃ s1, execCcMaintenanceDone e set s = .next s1 ∧ Keeps s s1 := by
  refine ⟨_, rfl, ?_⟩
  have hk := Keeps.refl s
  repeat' (first | (with_reducible assumption) | (with_reducible apply State.maintDone_keeps) | (dsimp only))

theorem execCcWayDisabled_keeps (e : EngId) (way : Fin 8) (chks : List (Nat × Check)) (s : State) : ∃ s1, execCcWayDisabled e way chks s = .next s1 ∧ Keeps s s1 := by
  refine ⟨_, rfl, ?_⟩
  have hk := Keeps.refl s
  repeat' (first | (with_reducible assumption) | (with_reducible apply State.wayDisable_keeps) | (dsimp only))

theorem execCcFailCountHalving_keeps (e : EngId) (way : Fin 8) (s : State) : ∃ s1, execCcFailCountHalving e way s = .next s1 ∧ Keeps s s1 := by
  refine ⟨_, rfl, ?_⟩
  have hk := Keeps.refl s
  repeat' (first | (with_reducible assumption) | (with_reducible apply keeps_onDev) | (dsimp only) | (intro _; try dsimp only))

theorem execRangeCacheFill_keeps (e : EngId) (part : Nat) (w : Who) (s : State) : ∃ s1, execRangeCacheFill e part w s = .next s1 ∧ Keeps s s1 := by
  refine ⟨_, rfl, ?_⟩
  have hk := Keeps.refl s
  repeat' (first | (with_reducible assumption) | (with_reducible apply State.rcFill_keeps) | (dsimp only))

end Sys2Proof.Machine
end

