-- ==== Sys2Proof/Laws/KeepsXkq.lean ====
section
/-!
SUPPORT. What Machine/Xkq.lean keeps: the queue, the time, the fused limits, and safety.
-/

namespace Sys2Proof.Machine

theorem execIllegalInstruction_keeps (p : Pre) (bits : BitVec 32) (s : State) : ∃ s1, execIllegalInstruction p bits s = .next s1 ∧ Keeps s s1 := by
  refine ⟨_, rfl, ?_⟩
  have hk := Keeps.refl s
  repeat' (first | (with_reducible assumption) | (with_reducible apply State.kernelStep_keeps) | (with_reducible apply State.trap_keeps)
                 | (dsimp only) | (split) | (intro _; try dsimp only))

end Sys2Proof.Machine
end

