-- ==== Sys2Proof/Laws/KeepsArray.lean ====
section
/-!
SUPPORT. What Machine/Array.lean keeps: the queue, the time, the fused limits, and safety.
-/

namespace Sys2Proof.Machine

theorem State.issueArr_keeps {s0 : State} (s : State) (i : Nat) (k : ArrKind) (rd : Fin 32) (hk : Keeps s0 s) : Keeps s0 (State.issueArr s i k rd) := by
  unfold State.issueArr
  try dsimp only
  repeat' (first | (with_reducible assumption) | (with_reducible apply State.done_keeps) | (with_reducible apply State.modC_keeps)
                 | (with_reducible apply State.trap_keeps) | (dsimp only) | (split) | (intro _; try dsimp only))

theorem State.wload_keeps {s0 : State} (s : State) (i : Nat) (rd : Fin 32) (rs1 : Fin 32) (rs2 : Fin 32) (hk : Keeps s0 s) : Keeps s0 (State.wload s i rd rs1 rs2) := by
  unfold State.wload
  try dsimp only
  repeat' (first | (with_reducible assumption) | (with_reducible apply State.issueArr_keeps) | (with_reducible apply State.trap_keeps)
                 | (dsimp only) | (split))

theorem State.streamOp_keeps {s0 : State} (s : State) (i : Nat) (t : Bool) (rd : Fin 32) (rs1 : Fin 32) (hk : Keeps s0 s) : Keeps s0 (State.streamOp s i t rd rs1) := by
  unfold State.streamOp
  try dsimp only
  repeat' (first | (with_reducible assumption) | (with_reducible apply State.issueArr_keeps) | (with_reducible apply State.trap_keeps)
                 | (dsimp only) | (split))

theorem State.drainOp_keeps {s0 : State} (s : State) (i : Nat) (rd : Fin 32) (rs1 : Fin 32) (hk : Keeps s0 s) : Keeps s0 (State.drainOp s i rd rs1) := by
  unfold State.drainOp
  try dsimp only
  repeat' (first | (with_reducible assumption) | (with_reducible apply State.issueArr_keeps) | (with_reducible apply State.trap_keeps)
                 | (dsimp only) | (split))

theorem State.reloadOp_keeps {s0 : State} (s : State) (i : Nat) (rd : Fin 32) (rs1 : Fin 32) (hk : Keeps s0 s) : Keeps s0 (State.reloadOp s i rd rs1) := by
  unfold State.reloadOp
  try dsimp only
  repeat' (first | (with_reducible assumption) | (with_reducible apply State.issueArr_keeps) | (with_reducible apply State.trap_keeps)
                 | (dsimp only) | (split))

theorem State.arrStep_keeps {s0 : State} (s : State) (i : Nat) (ticket : Nat) (hk : Keeps s0 s) : Keeps s0 (State.arrStep s i ticket) := by
  unfold State.arrStep
  try dsimp only
  repeat' (first | (with_reducible assumption) | (with_reducible apply State.absorbAt_keeps) | (with_reducible apply State.modC_keeps)
                 | (with_reducible apply State.took_keeps) | (dsimp only) | (split) | (intro _; try dsimp only))

theorem State.startArr_keeps {s0 : State} (s : State) (i : Nat) (ticket : Nat) (us : List Upset) (hk : Keeps s0 s) : Keeps s0 (State.startArr s i ticket us) := by
  unfold State.startArr
  try dsimp only
  repeat' (first | (with_reducible assumption) | (with_reducible apply State.modC_keeps) | (with_reducible apply keeps_foldl)
                 | (with_reducible apply keeps_foldl1) | (dsimp only) | (split) | (intro _; try dsimp only))

theorem State.arrCycle_keeps {s0 : State} (s : State) (i : Nat) (hk : Keeps s0 s) : Keeps s0 (State.arrCycle s i) := by
  unfold State.arrCycle
  try dsimp only
  repeat' (first | (with_reducible assumption) | (with_reducible apply State.arrStep_keeps) | (with_reducible apply State.modC_keeps)
                 | (with_reducible apply keeps_foldl) | (with_reducible apply keeps_foldl1) | (dsimp only) | (split)
                 | (intro _; try dsimp only))

theorem State.runOut_keeps {s0 : State} (fuel : Nat) (s : State) (i : Nat) (ticket : Nat) (hk : Keeps s0 s) : Keeps s0 (State.runOut fuel s i ticket) := by
  induction fuel generalizing s i ticket with
  | zero =>
    unfold State.runOut
    try dsimp only
    repeat' (first | (with_reducible assumption) | (with_reducible apply State.arrStep_keeps) | (with_reducible apply State.modC_keeps)
                    | (dsimp only) | (split) | (intro _; try dsimp only))
  | succ k ih =>
    unfold State.runOut
    try dsimp only
    repeat' (first | (with_reducible assumption) | (with_reducible apply State.arrStep_keeps) | (with_reducible apply State.modC_keeps)
                   | (with_reducible apply ih) | (dsimp only) | (split) | (intro _; try dsimp only))

theorem State.catchUp_keeps {s0 : State} (s : State) (i : Nat) (ticket : Nat) (hk : Keeps s0 s) : Keeps s0 (State.catchUp s i ticket) := by
  unfold State.catchUp
  try dsimp only
  repeat' (first | (with_reducible assumption) | (with_reducible apply State.runOut_keeps) | (with_reducible apply keeps_foldl)
                 | (with_reducible apply keeps_foldl1) | (dsimp only) | (intro _; try dsimp only))

theorem State.wakeArr_keeps {s0 : State} (s : State) (i : Nat) (hk : Keeps s0 s) : Keeps s0 (State.wakeArr s i) := by
  unfold State.wakeArr
  try dsimp only
  repeat' (first | (with_reducible assumption) | (with_reducible apply State.issueArr_keeps) | (with_reducible apply State.modC_keeps)
                 | (with_reducible apply State.retire_keeps) | (dsimp only) | (split) | (intro _; try dsimp only))

theorem State.finishArr_keeps {s0 : State} (s : State) (i : Nat) (ticket : Nat) (hk : Keeps s0 s) : Keeps s0 (State.finishArr s i ticket) := by
  unfold State.finishArr
  try dsimp only
  repeat' (first | (with_reducible assumption) | (with_reducible apply State.catchUp_keeps) | (with_reducible apply State.modC_keeps)
                 | (with_reducible apply State.progressed_keeps) | (with_reducible apply State.wakeArr_keeps) | (dsimp only) | (split)
                 | (intro _; try dsimp only))

theorem execKqWload_keeps (p : Pre) (rd : Fin 32) (rs1 : Fin 32) (rs2 : Fin 32) (s : State) : ∃ s1, execKqWload p rd rs1 rs2 s = .next s1 ∧ Keeps s s1 := by
  refine ⟨_, rfl, ?_⟩
  have hk := Keeps.refl s
  repeat' (first | (with_reducible assumption) | (with_reducible apply State.kernelStep_keeps) | (with_reducible apply State.wload_keeps)
                 | (dsimp only) | (intro _; try dsimp only))

theorem execKqStream_keeps (p : Pre) (rd : Fin 32) (rs1 : Fin 32) (s : State) : ∃ s1, execKqStream p rd rs1 s = .next s1 ∧ Keeps s s1 := by
  refine ⟨_, rfl, ?_⟩
  have hk := Keeps.refl s
  repeat' (first | (with_reducible assumption) | (with_reducible apply State.kernelStep_keeps)
                 | (with_reducible apply State.streamOp_keeps) | (dsimp only) | (intro _; try dsimp only))

theorem execKqStreamt_keeps (p : Pre) (rd : Fin 32) (rs1 : Fin 32) (s : State) : ∃ s1, execKqStreamt p rd rs1 s = .next s1 ∧ Keeps s s1 := by
  refine ⟨_, rfl, ?_⟩
  have hk := Keeps.refl s
  repeat' (first | (with_reducible assumption) | (with_reducible apply State.kernelStep_keeps)
                 | (with_reducible apply State.streamOp_keeps) | (dsimp only) | (intro _; try dsimp only))

theorem execKqDrain_keeps (p : Pre) (rd : Fin 32) (rs1 : Fin 32) (s : State) : ∃ s1, execKqDrain p rd rs1 s = .next s1 ∧ Keeps s s1 := by
  refine ⟨_, rfl, ?_⟩
  have hk := Keeps.refl s
  repeat' (first | (with_reducible assumption) | (with_reducible apply State.drainOp_keeps)
                 | (with_reducible apply State.kernelStep_keeps) | (dsimp only) | (intro _; try dsimp only))

theorem execKqReload_keeps (p : Pre) (rd : Fin 32) (rs1 : Fin 32) (s : State) : ∃ s1, execKqReload p rd rs1 s = .next s1 ∧ Keeps s s1 := by
  refine ⟨_, rfl, ?_⟩
  have hk := Keeps.refl s
  repeat' (first | (with_reducible assumption) | (with_reducible apply State.kernelStep_keeps)
                 | (with_reducible apply State.reloadOp_keeps) | (dsimp only) | (intro _; try dsimp only))

theorem execArrayOperationStart_keeps (cl : ClId) (ticket : Nat) (upsets : List Upset) (s : State) : ∃ s1, execArrayOperationStart cl ticket upsets s = .next s1 ∧ Keeps s s1 := by
  refine ⟨_, rfl, ?_⟩
  have hk := Keeps.refl s
  repeat' (first | (with_reducible assumption) | (with_reducible apply State.startArr_keeps) | (dsimp only))

theorem execArrayOperationDone_keeps (cl : ClId) (ticket : Nat) (s : State) : ∃ s1, execArrayOperationDone cl ticket s = .next s1 ∧ Keeps s s1 := by
  refine ⟨_, rfl, ?_⟩
  have hk := Keeps.refl s
  repeat' (first | (with_reducible assumption) | (with_reducible apply State.finishArr_keeps) | (dsimp only))

theorem execActivityRamp_keeps (cl : ClId) (s : State) : ∃ s1, execActivityRamp cl s = .next s1 ∧ Keeps s s1 := by
  refine ⟨_, rfl, ?_⟩
  have hk := Keeps.refl s
  repeat' (first | (with_reducible assumption) | (with_reducible apply State.modC_keeps) | (dsimp only))

theorem execKqWaitA_keeps (p : Pre) (rs1 : Fin 32) (s : State) : ∃ s1, execKqWaitA p rs1 s = .next s1 ∧ Keeps s s1 := by
  refine ⟨_, rfl, ?_⟩
  have hk := Keeps.refl s
  repeat' (first | (with_reducible assumption) | (with_reducible apply State.kernelStep_keeps) | (with_reducible apply State.modC_keeps)
                 | (with_reducible apply State.retire_keeps) | (with_reducible apply State.trap_keeps) | (dsimp only) | (split)
                 | (intro _; try dsimp only))

end Sys2Proof.Machine
end

