-- ==== Sys2Proof/Laws/KeepsTensor.lean ====
section
/-!
SUPPORT. What Machine/Tensor.lean keeps: the queue, the time, the fused limits, and safety.
-/

namespace Sys2Proof.Machine

theorem State.landNow_keeps {s0 : State} (s : State) (uid : Nat) (w : Nat × BitVec 128 × Bytes) (hk : Keeps s0 s) : Keeps s0 (State.landNow s uid w) := by
  unfold State.landNow
  try dsimp only
  repeat' (first | (with_reducible assumption) | (with_reducible apply State.homeWrite_keeps) | (with_reducible apply keeps_onDev)
                 | (dsimp only) | (intro _; try dsimp only))

theorem State.vwrite_keeps {s0 : State} (s : State) (uid : Nat) (va : Nat) (bs : Bytes) (hk : Keeps s0 s) : Keeps s0 (State.vwrite s uid va bs) := by
  unfold State.vwrite
  try dsimp only
  repeat' (first | (with_reducible assumption) | (with_reducible apply State.landNow_keeps) | (with_reducible apply keeps_foldl)
                 | (with_reducible apply keeps_foldl1) | (dsimp only) | (intro _; try dsimp only))

theorem State.vsend_keeps {s0 : State} (s : State) (uid : Nat) (va : Nat) (bs : Bytes) (hk : Keeps s0 s) : Keeps s0 (State.vsend s uid va bs) := by
  unfold State.vsend
  try dsimp only
  repeat' (first | (with_reducible assumption) | (with_reducible apply keeps_onDev) | (with_reducible apply keeps_foldl)
                 | (with_reducible apply keeps_foldl1) | (dsimp only) | (split)
                 | ((with_reducible refine keeps_onMem _ (fun hm => ?_) ?_); first | (with_reducible exact writeLine_wf _ _ _ _ _ hm) | (with_reducible exact Memory.zero_wf _ _ _ hm) | (with_reducible exact Memory.zero_wf _ _ _ (Memory.zero_wf _ _ _ hm)) | exact hm | skip)
                 | (exact hm) | (intro _; try dsimp only))

end Sys2Proof.Machine
end

