-- ==== Sys2Proof/Laws/KeepsMover.lean ====
section
/-!
SUPPORT. What Machine/Mover.lean keeps: the queue, the time, the fused limits, and safety.
-/

namespace Sys2Proof.Machine

theorem State.issueMov_keeps {s0 : State} (s : State) (i : Nat) (r : MovReq) (rd : Fin 32) (hk : Keeps s0 s) : Keeps s0 (State.issueMov s i r rd) := by
  unfold State.issueMov
  try dsimp only
  repeat' (first | (with_reducible assumption) | (with_reducible apply State.done_keeps) | (with_reducible apply State.modC_keeps)
                 | (with_reducible apply State.trap_keeps) | (with_reducible apply keeps_onDev) | (dsimp only) | (split)
                 | (intro _; try dsimp only))

theorem State.movOp_keeps {s0 : State} (s : State) (i : Nat) (want : Nat → Bool) (rd : Fin 32) (rs1 : Fin 32) (hk : Keeps s0 s) : Keeps s0 (State.movOp s i want rd rs1) := by
  unfold State.movOp
  try extract_lets
  repeat' (first | (with_reducible assumption) | (with_reducible apply State.issueMov_keeps) | (with_reducible apply State.modC_keeps)
                 | (with_reducible apply State.trap_keeps) | extract_lets | (split) | (intro _; try extract_lets))

theorem State.movWrite_keeps {s0 : State} (s : State) (i : Nat) (uid : Nat) (a : Nat) (bs : Bytes) (hk : Keeps s0 s) : Keeps s0 (State.movWrite s i uid a bs) := by
  unfold State.movWrite
  try dsimp only
  repeat' (first | (with_reducible assumption) | (with_reducible apply State.modC_keeps) | (with_reducible apply State.vsend_keeps)
                 | (with_reducible apply keeps_onDev) | (dsimp only) | (split) | (intro _; try dsimp only))

theorem State.movPut_keeps {s0 : State} (s : State) (i : Nat) (uid : Nat) (r : MovReq) (hk : Keeps s0 s) : Keeps s0 (State.movPut s i uid r) := by
  unfold State.movPut
  try dsimp only
  repeat' (first | (with_reducible assumption) | (with_reducible apply State.modC_keeps) | (with_reducible apply State.movWrite_keeps)
                 | (with_reducible apply State.took_keeps) | (with_reducible apply keeps_foldl) | (with_reducible apply keeps_foldl1)
                 | (dsimp only) | (split) | (intro _; try dsimp only))

theorem State.movCopyRows_keeps {s0 : State} (s : State) (i : Nat) (uid : Nat) (r : MovReq) (hk : Keeps s0 s) : Keeps s0 (State.movCopyRows s i uid r) := by
  unfold State.movCopyRows
  try dsimp only
  repeat' (first | (with_reducible assumption) | (with_reducible apply State.movWrite_keeps) | (with_reducible apply State.took_keeps)
                 | (with_reducible apply keeps_foldl) | (with_reducible apply keeps_foldl1) | (dsimp only) | (split)
                 | (intro _; try dsimp only))

theorem State.wakeMov_keeps {s0 : State} (s : State) (i : Nat) (hk : Keeps s0 s) : Keeps s0 (State.wakeMov s i) := by
  unfold State.wakeMov
  try dsimp only
  repeat' (first | (with_reducible assumption) | (with_reducible apply State.issueMov_keeps) | (with_reducible apply State.modC_keeps)
                 | (with_reducible apply State.retire_keeps) | (dsimp only) | (split) | (intro _; try dsimp only))

theorem State.movDone_keeps {s0 : State} (s : State) (g : List (Nat × MovReq)) (ids : Nat × Nat) (hk : Keeps s0 s) : Keeps s0 (State.movDone s g ids) := by
  unfold State.movDone
  try dsimp only
  repeat' (first | (with_reducible assumption) | (with_reducible apply State.modC_keeps) | (with_reducible apply keeps_foldl)
                 | (with_reducible apply keeps_foldl1) | (dsimp only) | (split) | (intro _; try dsimp only))

theorem State.movPerform_keeps {s0 : State} (s : State) (i : Nat) (uid : Nat) (r : MovReq) (hk : Keeps s0 s) :
    Keeps s0 (State.movPerform s i uid r) := by
  unfold State.movPerform
  split
  · exact hk
  · split
    · exact hk
    · extract_lets h s1 poison k first s2 n s3 s4
      have h1 : Keeps s0 s1 := State.modC_keeps _ _ _ (keeps_onDev _ (State.xlate_keeps _ _ _ _ _ hk))
      split
      · exact h1
      · have h2 : Keeps s0 k.1 := by
          unfold k
          cases poison with
          | none => exact h1
          | some x => exact State.poisonRead_keeps _ _ _ _ h1
        split
        · exact h2
        · have h3 : Keeps s0 s2 := by
            unfold s2
            split
            · exact State.movCopyRows_keeps _ _ _ _ h2
            · exact State.movPut_keeps _ _ _ _ h2
          refine State.movDone_keeps _ _ _ ?_
          unfold s4
          split
          · exact keeps_onDev _ (State.modC_keeps _ _ _ h3)
          · exact State.modC_keeps _ _ _ h3

theorem State.landUpTo_keeps {s0 : State} (s : State) (uid : Nat) (last : Nat) (hk : Keeps s0 s) : Keeps s0 (State.landUpTo s uid last) := by
  unfold State.landUpTo
  try dsimp only
  repeat' (first | (with_reducible assumption) | (with_reducible apply State.landNow_keeps) | (with_reducible apply keeps_foldl)
                 | (with_reducible apply keeps_foldl1) | (dsimp only)
                 | ((with_reducible refine keeps_onMem _ (fun hm => ?_) ?_); first | (with_reducible exact writeLine_wf _ _ _ _ _ hm) | (with_reducible exact Memory.zero_wf _ _ _ hm) | (with_reducible exact Memory.zero_wf _ _ _ (Memory.zero_wf _ _ _ hm)) | exact hm | skip)
                 | (exact hm) | (intro _; try dsimp only))

theorem State.movFinish_keeps {s0 : State} (s : State) (i : Nat) (uid : Nat) (r : MovReq) (ids : Nat × Nat) (hk : Keeps s0 s) : Keeps s0 (State.movFinish s i uid r ids) := by
  unfold State.movFinish
  try dsimp only
  repeat' (first | (with_reducible assumption) | (with_reducible apply State.landUpTo_keeps) | (with_reducible apply State.modC_keeps)
                 | (with_reducible apply State.progressed_keeps) | (with_reducible apply State.wakeMov_keeps)
                 | (with_reducible apply keeps_foldl) | (with_reducible apply keeps_foldl1) | (dsimp only) | (split)
                 | (intro _; try dsimp only))

theorem State.movComplete_keeps {s0 : State} (s : State) (i : Nat) (tag : Nat) (only : Bool) (hk : Keeps s0 s) : Keeps s0 (State.movComplete s i tag only) := by
  unfold State.movComplete
  try dsimp only
  repeat' (first | (with_reducible assumption) | (with_reducible apply State.movFinish_keeps)
                 | (with_reducible apply State.movPerform_keeps) | (dsimp only) | (split) | (intro _; try dsimp only))

theorem State.barCheck_keeps {s0 : State} (s : State) (e : Nat) (hk : Keeps s0 s) : Keeps s0 (State.barCheck s e) := by
  unfold State.barCheck
  try dsimp only
  repeat' (first | (with_reducible assumption) | (with_reducible apply State.retire_keeps) | (with_reducible apply keeps_foldl)
                 | (with_reducible apply keeps_foldl1) | (dsimp only) | (split) | (intro _; try dsimp only))

theorem State.exit_keeps {s0 : State} (s : State) (i : Nat) (hk : Keeps s0 s) : Keeps s0 (State.exit s i) := by
  unfold State.exit
  try dsimp only
  repeat' (first | (with_reducible assumption) | (with_reducible apply State.barCheck_keeps) | (with_reducible apply State.modC_keeps)
                 | (with_reducible apply State.trap_keeps) | (with_reducible apply State.traps_keeps)
                 | (with_reducible apply State.wakeMov_keeps) | (with_reducible apply keeps_onDev) | (with_reducible apply keeps_foldl)
                 | (with_reducible apply keeps_foldl1) | (dsimp only) | (split) | (intro _; try dsimp only))

theorem execMoverCopy_keeps (p : Pre) (rd : Fin 32) (rs1 : Fin 32) (s : State) : ∃ s1, execMoverCopy p rd rs1 s = .next s1 ∧ Keeps s s1 := by
  refine ⟨_, rfl, ?_⟩
  have hk := Keeps.refl s
  repeat' (first | (with_reducible assumption) | (with_reducible apply State.kernelStep_keeps) | (with_reducible apply State.movOp_keeps)
                 | (dsimp only) | (intro _; try dsimp only))

theorem execMoverConvert_keeps (p : Pre) (rd : Fin 32) (rs1 : Fin 32) (s : State) : ∃ s1, execMoverConvert p rd rs1 s = .next s1 ∧ Keeps s s1 := by
  refine ⟨_, rfl, ?_⟩
  have hk := Keeps.refl s
  repeat' (first | (with_reducible assumption) | (with_reducible apply State.kernelStep_keeps) | (with_reducible apply State.movOp_keeps)
                 | (dsimp only) | (intro _; try dsimp only))

theorem execMerge_keeps (p : Pre) (rd : Fin 32) (rs1 : Fin 32) (s : State) : ∃ s1, execMerge p rd rs1 s = .next s1 ∧ Keeps s s1 := by
  refine ⟨_, rfl, ?_⟩
  have hk := Keeps.refl s
  repeat' (first | (with_reducible assumption) | (with_reducible apply State.kernelStep_keeps) | (with_reducible apply State.movOp_keeps)
                 | (dsimp only) | (intro _; try dsimp only))

theorem execMoverRequestComplete_keeps (cl : ClId) (tag : Nat) (only : Bool) (s : State) : ∃ s1, execMoverRequestComplete cl tag only s = .next s1 ∧ Keeps s s1 := by
  refine ⟨_, rfl, ?_⟩
  have hk := Keeps.refl s
  repeat' (first | (with_reducible assumption) | (with_reducible apply State.movComplete_keeps) | (dsimp only))

theorem execKqWaitM_keeps (p : Pre) (rs1 : Fin 32) (s : State) : ∃ s1, execKqWaitM p rs1 s = .next s1 ∧ Keeps s s1 := by
  refine ⟨_, rfl, ?_⟩
  have hk := Keeps.refl s
  repeat' (first | (with_reducible assumption) | (with_reducible apply State.kernelStep_keeps) | (with_reducible apply State.modC_keeps)
                 | (with_reducible apply State.retire_keeps) | (with_reducible apply State.trap_keeps) | (dsimp only) | (split)
                 | (intro _; try dsimp only))

theorem execKqBar_keeps (p : Pre) (s : State) : ∃ s1, execKqBar p s = .next s1 ∧ Keeps s s1 := by
  refine ⟨_, rfl, ?_⟩
  have hk := Keeps.refl s
  repeat' (first | (with_reducible assumption) | (with_reducible apply State.barCheck_keeps)
                 | (with_reducible apply State.kernelStep_keeps) | (with_reducible apply State.modC_keeps) | (dsimp only)
                 | (intro _; try dsimp only))

theorem execKqCnt_keeps (p : Pre) (rd : Fin 32) (idx : BitVec 12) (s : State) : ∃ s1, execKqCnt p rd idx s = .next s1 ∧ Keeps s s1 := by
  refine ⟨_, rfl, ?_⟩
  have hk := Keeps.refl s
  repeat' (first | (with_reducible assumption) | (with_reducible apply State.done_keeps) | (with_reducible apply State.kernelStep_keeps)
                 | (dsimp only) | (intro _; try dsimp only))

theorem execEcall_keeps (p : Pre) (s : State) : ∃ s1, execEcall p s = .next s1 ∧ Keeps s s1 := by
  refine ⟨_, rfl, ?_⟩
  have hk := Keeps.refl s
  repeat' (first | (with_reducible assumption) | (with_reducible apply State.kernelStep_keeps) | (with_reducible apply State.trap_keeps)
                 | (dsimp only) | (intro _; try dsimp only))

theorem execEbreak_keeps (p : Pre) (s : State) : ∃ s1, execEbreak p s = .next s1 ∧ Keeps s s1 := by
  refine ⟨_, rfl, ?_⟩
  have hk := Keeps.refl s
  repeat' (first | (with_reducible assumption) | (with_reducible apply State.kernelStep_keeps) | (with_reducible apply State.trap_keeps)
                 | (dsimp only) | (intro _; try dsimp only))

theorem execClusterExit_keeps (p : Pre) (s : State) : ∃ s1, execClusterExit p s = .next s1 ∧ Keeps s s1 := by
  refine ⟨_, rfl, ?_⟩
  have hk := Keeps.refl s
  repeat' (first | (with_reducible assumption) | (with_reducible apply State.alsoTraps_keeps) | (with_reducible apply State.exit_keeps)
                 | (with_reducible apply State.modC_keeps) | (dsimp only) | (split) | (intro _; try dsimp only))

theorem execKernelRunLimit_keeps (part : Nat) (s : State) : ∃ s1, execKernelRunLimit part s = .next s1 ∧ Keeps s s1 := by
  refine ⟨_, rfl, ?_⟩
  have hk := Keeps.refl s
  repeat' (first | (with_reducible assumption) | (with_reducible apply State.failPart_keeps) | (with_reducible apply State.took_keeps)
                 | (with_reducible apply State.trap_keeps) | (with_reducible apply keeps_onDev) | (dsimp only) | (split)
                 | (intro _; try dsimp only))

end Sys2Proof.Machine
end

