-- ==== Sys2Proof/Laws/KeepsVector.lean ====
section
/-!
SUPPORT. What Machine/Vector.lean keeps: the queue, the time, the fused limits, and safety.
-/

namespace Sys2Proof.Machine

theorem State.vrun_keeps {s0 : State} (s : State) (i : Nat) (enc : Nat) (bad : Option Nat) (f : State → State) (hk : Keeps s0 s) (hf : ∀ z0, Keeps s0 z0 → Keeps s0 (f z0)) : Keeps s0 (State.vrun s i enc bad f) := by
  unfold State.vrun
  try dsimp only
  repeat' (first | (with_reducible assumption) | (with_reducible apply State.trap_keeps) | (with_reducible apply hf) | (dsimp only)
                 | (split))

theorem State.vmem_keeps {s0 : State} (s : State) (i : Nat) (vd : Nat) (rs1 : Fin 32) (mode : VMode) (log2 : Nat) (nf : Nat) (vm : Bool) (store : Bool) (hk : Keeps s0 s) : Keeps s0 (State.vmem s i vd rs1 mode log2 nf vm store) := by
  unfold State.vmem
  try dsimp only
  repeat' (first | (with_reducible assumption) | (with_reducible apply State.modC_keeps) | (with_reducible apply State.retire_keeps)
                 | (with_reducible apply State.trap_keeps) | (with_reducible apply keeps_foldl) | (with_reducible apply keeps_foldl1)
                 | (dsimp only) | (split) | (intro _; try dsimp only))

theorem execKqBexp_keeps (p : Pre) (vd : Fin 32) (vs2 : Fin 32) (s : State) : ∃ s1, execKqBexp p vd vs2 s = .next s1 ∧ Keeps s s1 := by
  refine ⟨_, rfl, ?_⟩
  have hk := Keeps.refl s
  repeat' (first | (with_reducible assumption) | (with_reducible apply State.kernelStep_keeps) | (with_reducible apply State.modC_keeps)
                 | (with_reducible apply State.retire_keeps) | (with_reducible apply State.took_keeps)
                 | (with_reducible apply State.vrun_keeps) | (dsimp only) | (intro _; try dsimp only))

theorem execKqFit_keeps (p : Pre) (vd : Fin 32) (vs2 : Fin 32) (vm : Bool) (s : State) : ∃ s1, execKqFit p vd vs2 vm s = .next s1 ∧ Keeps s s1 := by
  refine ⟨_, rfl, ?_⟩
  have hk := Keeps.refl s
  repeat' (first | (with_reducible assumption) | (with_reducible apply State.kernelStep_keeps) | (with_reducible apply State.modC_keeps)
                 | (with_reducible apply State.retire_keeps) | (with_reducible apply State.vrun_keeps) | (dsimp only)
                 | (intro _; try dsimp only))

theorem execKqPin_keeps (p : Pre) (vd : Fin 32) (vs2 : Fin 32) (vm : Bool) (s : State) : ∃ s1, execKqPin p vd vs2 vm s = .next s1 ∧ Keeps s s1 := by
  refine ⟨_, rfl, ?_⟩
  have hk := Keeps.refl s
  repeat' (first | (with_reducible assumption) | (with_reducible apply State.kernelStep_keeps) | (with_reducible apply State.modC_keeps)
                 | (with_reducible apply State.retire_keeps) | (with_reducible apply State.vrun_keeps) | (dsimp only)
                 | (intro _; try dsimp only))

theorem execKqAlign_keeps (p : Pre) (vd : Fin 32) (vs2 : Fin 32) (vs1 : Fin 32) (s : State) : ∃ s1, execKqAlign p vd vs2 vs1 s = .next s1 ∧ Keeps s s1 := by
  refine ⟨_, rfl, ?_⟩
  have hk := Keeps.refl s
  repeat' (first | (with_reducible assumption) | (with_reducible apply State.kernelStep_keeps) | (with_reducible apply State.modC_keeps)
                 | (with_reducible apply State.retire_keeps) | (with_reducible apply State.took_keeps)
                 | (with_reducible apply State.vrun_keeps) | (dsimp only) | (intro _; try dsimp only))

theorem execKqPack_keeps (p : Pre) (vd : Fin 32) (vs2 : Fin 32) (vs1 : Fin 32) (s : State) : ∃ s1, execKqPack p vd vs2 vs1 s = .next s1 ∧ Keeps s s1 := by
  refine ⟨_, rfl, ?_⟩
  have hk := Keeps.refl s
  repeat' (first | (with_reducible assumption) | (with_reducible apply State.kernelStep_keeps) | (with_reducible apply State.modC_keeps)
                 | (with_reducible apply State.retire_keeps) | (with_reducible apply State.vrun_keeps) | (dsimp only)
                 | (intro _; try dsimp only))

theorem execKqUnpack_keeps (p : Pre) (vd : Fin 32) (vs2 : Fin 32) (s : State) : ∃ s1, execKqUnpack p vd vs2 s = .next s1 ∧ Keeps s s1 := by
  refine ⟨_, rfl, ?_⟩
  have hk := Keeps.refl s
  repeat' (first | (with_reducible assumption) | (with_reducible apply State.kernelStep_keeps) | (with_reducible apply State.modC_keeps)
                 | (with_reducible apply State.retire_keeps) | (with_reducible apply State.vrun_keeps) | (dsimp only)
                 | (intro _; try dsimp only))

theorem execKqSrnd_keeps (p : Pre) (vd : Fin 32) (vs2 : Fin 32) (rs1 : Fin 32) (vm : Bool) (s : State) : ∃ s1, execKqSrnd p vd vs2 rs1 vm s = .next s1 ∧ Keeps s s1 := by
  refine ⟨_, rfl, ?_⟩
  have hk := Keeps.refl s
  repeat' (first | (with_reducible assumption) | (with_reducible apply State.kernelStep_keeps) | (with_reducible apply State.modC_keeps)
                 | (with_reducible apply State.retire_keeps) | (with_reducible apply State.took_keeps)
                 | (with_reducible apply State.vrun_keeps) | (dsimp only) | (split) | (intro _; try dsimp only))

theorem execKqTopk_keeps (p : Pre) (vd : Fin 32) (vs2 : Fin 32) (rs1 : Fin 32) (vm : Bool) (s : State) : ∃ s1, execKqTopk p vd vs2 rs1 vm s = .next s1 ∧ Keeps s s1 := by
  refine ⟨_, rfl, ?_⟩
  have hk := Keeps.refl s
  repeat' (first | (with_reducible assumption) | (with_reducible apply State.kernelStep_keeps) | (with_reducible apply State.modC_keeps)
                 | (with_reducible apply State.retire_keeps) | (with_reducible apply State.vrun_keeps) | (dsimp only) | (split)
                 | (intro _; try dsimp only))

theorem State.kqcvtOp_keeps {s0 : State} (s : State) (i : Nat) (op : CsrOp) (rd : Fin 32) (rs1 : Fin 32) (hk : Keeps s0 s) : Keeps s0 (State.kqcvtOp s i op rd rs1) := by
  unfold State.kqcvtOp
  try dsimp only
  repeat' (first | (with_reducible assumption) | (with_reducible apply State.done_keeps) | (with_reducible apply State.modC_keeps)
                 | (with_reducible apply State.trap_keeps) | (dsimp only) | (split) | (intro _; try dsimp only))

theorem execKqcvtWrite_keeps (p : Pre) (op : CsrOp) (rd : Fin 32) (rs1 : Fin 32) (s : State) : ∃ s1, execKqcvtWrite p op rd rs1 s = .next s1 ∧ Keeps s s1 := by
  refine ⟨_, rfl, ?_⟩
  have hk := Keeps.refl s
  repeat' (first | (with_reducible assumption) | (with_reducible apply State.kernelStep_keeps)
                 | (with_reducible apply State.kqcvtOp_keeps) | (dsimp only) | (intro _; try dsimp only))

theorem execVectorLoad_keeps (p : Pre) (vd : Fin 32) (rs1 : Fin 32) (mode : VMode) (log2 : Fin 4) (nf : Fin 8) (vm : Bool) (s : State) : ∃ s1, execVectorLoad p vd rs1 mode log2 nf vm s = .next s1 ∧ Keeps s s1 := by
  refine ⟨_, rfl, ?_⟩
  have hk := Keeps.refl s
  repeat' (first | (with_reducible assumption) | (with_reducible apply State.kernelStep_keeps) | (with_reducible apply State.vmem_keeps)
                 | (dsimp only) | (intro _; try dsimp only))

theorem execVectorStore_keeps (p : Pre) (vs3 : Fin 32) (rs1 : Fin 32) (mode : VMode) (log2 : Fin 4) (nf : Fin 8) (vm : Bool) (s : State) : ∃ s1, execVectorStore p vs3 rs1 mode log2 nf vm s = .next s1 ∧ Keeps s s1 := by
  refine ⟨_, rfl, ?_⟩
  have hk := Keeps.refl s
  repeat' (first | (with_reducible assumption) | (with_reducible apply State.kernelStep_keeps) | (with_reducible apply State.vmem_keeps)
                 | (dsimp only) | (intro _; try dsimp only))

end Sys2Proof.Machine
end

