-- ==== Sys2Proof/Laws/KeepsMsg.lean ====
section
/-!
SUPPORT. What Machine/Msg.lean keeps: the queue, the time, the fused limits, and safety.
-/

namespace Sys2Proof.Machine

theorem State.takeHead_keeps {s0 : State} (s : State) (mb : Mb) (hk : Keeps s0 s) : Keeps s0 (State.takeHead s mb) := by
  unfold State.takeHead
  try dsimp only
  repeat' (first | (with_reducible assumption) | (with_reducible apply keeps_onDev) | (dsimp only) | (split) | (intro _; try dsimp only))

theorem State.reply_keeps {s0 : State} (s : State) (r : ReplyTo) (status : Nat) (payload : Bytes) (hk : Keeps s0 s) : Keeps s0 (State.reply s r status payload) := by
  unfold State.reply
  try dsimp only
  repeat' (first | (with_reducible assumption) | (with_reducible apply keeps_onDev) | (dsimp only) | (split) | (intro _; try dsimp only))

theorem State.refuse_keeps {s0 : State} (s : State) (m : MsgIn) (status : Nat) (hk : Keeps s0 s) : Keeps s0 (State.refuse s m status) := by
  unfold State.refuse
  try dsimp only
  repeat' (first | (with_reducible assumption) | (with_reducible apply State.reply_keeps) | (dsimp only))

theorem State.message_keeps {s0 : State} (s : State) (mb : Mb) (mine : Bytes → Bool) (f : MsgIn → State → State) (h : Keeps s0 s)
    (hf : ∀ z0 z1, Keeps s0 z1 → Keeps s0 (f z0 z1)) : Keeps s0 (State.message s mb mine f) := by
  unfold State.message
  split
  · exact h
  · split
    · split
      · refine State.refuse_keeps _ _ _ ?_
        split
        · exact State.takeHead_keeps _ _ h
        · exact State.takeHead_keeps _ _ h
      · exact hf _ _ (State.takeHead_keeps _ _ h)
    · exact h

theorem State.inCtx_keeps {s0 : State} (s : State) (m : MsgIn) (f : Ctx → State → State) (hk : Keeps s0 s) (hf : ∀ z0 z1, Keeps s0 z1 → Keeps s0 (f z0 z1)) : Keeps s0 (State.inCtx s m f) := by
  unfold State.inCtx
  try dsimp only
  repeat' (first | (with_reducible assumption) | (with_reducible apply hf) | (dsimp only) | (split))

end Sys2Proof.Machine
end

