-- ==== Sys2Proof/Laws/KeepsFaults.lean ====
section
/-!
SUPPORT. What Machine/Faults.lean keeps: the queue, the time, the fused limits, and safety.
-/

namespace Sys2Proof.Machine

theorem State.openEntry_keeps {s0 : State} (s : State) (pt : Nat) (r : FaultRec) (hk : Keeps s0 s) : Keeps s0 (State.openEntry s pt r) := by
  unfold State.openEntry
  try dsimp only
  repeat' (first | (with_reducible assumption) | (with_reducible apply State.event_keeps) | (with_reducible apply keeps_onDev)
                 | (dsimp only) | (split) | (intro _; try dsimp only))

theorem State.enter_keeps {s0 : State} (s : State) (pt : Nat) (r : FaultRec) (hk : Keeps s0 s) : Keeps s0 (State.enter s pt r) := by
  unfold State.enter
  try dsimp only
  repeat' (first | (with_reducible assumption) | (with_reducible apply State.openEntry_keeps) | (with_reducible apply keeps_onDev)
                 | (dsimp only) | (split) | (intro _; try dsimp only))

theorem State.refillN_keeps {s0 : State} (fuel : Nat) (s : State) (pt : Nat) (hk : Keeps s0 s) : Keeps s0 (State.refillN fuel s pt) := by
  induction fuel generalizing s pt with
  | zero =>
    unfold State.refillN
    try dsimp only
    repeat' (first | (with_reducible assumption) | (with_reducible apply State.enter_keeps) 
                   | (with_reducible apply keeps_onDev) | (dsimp only) | (split) | (intro _; try dsimp only))
  | succ k ih =>
    unfold State.refillN
    try dsimp only
    repeat' (first | (with_reducible assumption) | (with_reducible apply State.enter_keeps) | (with_reducible apply ih)
                   | (with_reducible apply keeps_onDev) | (dsimp only) | (split) | (intro _; try dsimp only))

theorem State.refill_keeps {s0 : State} (s : State) (pt : Nat) (hk : Keeps s0 s) : Keeps s0 (State.refill s pt) := by
  unfold State.refill
  try dsimp only
  repeat' (first | (with_reducible assumption) | (with_reducible apply State.refillN_keeps) | (dsimp only) | (intro _; try dsimp only))

theorem State.queueFault_keeps {s0 : State} (s : State) (pt : Nat) (ctx : Nat) (seq : Nat) (va : Nat) (access : Nat) (cause : Nat) (hk : Keeps s0 s) : Keeps s0 (State.queueFault s pt ctx seq va access cause) := by
  unfold State.queueFault
  try dsimp only
  repeat' (first | (with_reducible assumption) | (with_reducible apply State.enter_keeps) | (with_reducible apply keeps_onDev)
                 | (dsimp only) | (split) | (intro _; try dsimp only))

theorem State.closeFaults_keeps {s0 : State} (s : State) (pt : Nat) (ctx : Nat) (hk : Keeps s0 s) : Keeps s0 (State.closeFaults s pt ctx) := by
  unfold State.closeFaults
  try dsimp only
  repeat' (first | (with_reducible assumption) | (with_reducible apply State.refill_keeps) | (with_reducible apply keeps_onDev)
                 | (dsimp only) | (intro _; try dsimp only))

theorem State.faultOpen_keeps {s0 : State} (s : State) (i : Nat) (hk : Keeps s0 s) : Keeps s0 (State.faultOpen s i) := by
  unfold State.faultOpen
  try dsimp only
  repeat' (first | (with_reducible assumption) | (with_reducible apply State.enter_keeps) | (with_reducible apply State.refill_keeps)
                 | (with_reducible apply keeps_onDev) | (dsimp only) | (split) | (intro _; try dsimp only))

theorem execFaultEntryOpen_keeps (e : EngId) (s : State) : ∃ s1, execFaultEntryOpen e s = .next s1 ∧ Keeps s s1 := by
  refine ⟨_, rfl, ?_⟩
  have hk := Keeps.refl s
  repeat' (first | (with_reducible assumption) | (with_reducible apply State.faultOpen_keeps) | (dsimp only))

end Sys2Proof.Machine
end

