-- ==== Sys2Proof/Laws/KeepsOutputs.lean ====
section
/-!
SUPPORT. What Machine/Outputs.lean keeps: the queue, the time, the fused limits, and safety.
-/

namespace Sys2Proof.Machine

theorem State.freeExtent_keeps {s0 : State} (s : State) (n : Nat) (x : Nat × Nat) (hk : Keeps s0 s) : Keeps s0 (State.freeExtent s n x) := by
  unfold State.freeExtent
  try dsimp only
  repeat' (first | (with_reducible assumption) | (with_reducible apply State.took_keeps) | (with_reducible apply State.writePa_keeps)
                 | (with_reducible apply keeps_onDev) | (with_reducible apply keeps_foldl) | (with_reducible apply keeps_foldl1)
                 | (dsimp only) | (split) | (intro _; try dsimp only))

theorem State.freeHost_keeps {s0 : State} (s : State) (a : Nat) (x : Nat × Nat) (hk : Keeps s0 s) : Keeps s0 (State.freeHost s a x) := by
  unfold State.freeHost
  try dsimp only
  repeat' (first | (with_reducible assumption) | (with_reducible apply State.took_keeps) | (with_reducible apply keeps_onDev)
                 | (dsimp only) | (intro _; try dsimp only))

theorem State.freeOutputs_keeps {s0 : State} (s : State) (n : Nat) (x : Cmd) (hk : Keeps s0 s) : Keeps s0 (State.freeOutputs s n x) := by
  unfold State.freeOutputs
  try dsimp only
  repeat' (first | (with_reducible assumption) | (with_reducible apply State.freeExtent_keeps)
                 | (with_reducible apply State.freeHost_keeps) | (with_reducible apply State.freeWrote_keeps)
                 | (with_reducible apply keeps_foldl) | (with_reducible apply keeps_foldl1) | (dsimp only) | (intro _; try dsimp only))

end Sys2Proof.Machine
end

