-- ==== Sys2Proof/Laws/KeepsContext.lean ====
section
/-!
SUPPORT. What Machine/Context.lean keeps: the queue, the time, the fused limits, and safety.
-/

namespace Sys2Proof.Machine

theorem State.create_keeps {s0 : State} (s : State) (m : MsgIn) (hk : Keeps s0 s) : Keeps s0 (State.create s m) := by
  unfold State.create
  try dsimp only
  repeat' (first | (with_reducible assumption) | (with_reducible apply State.refuse_keeps) | (with_reducible apply State.reply_keeps)
                 | (with_reducible apply keeps_onDev) | (dsimp only) | (split) | (intro _; try dsimp only))

theorem State.fwDone_keeps {s0 : State} (s : State) (hk : Keeps s0 s) : Keeps s0 (State.fwDone s) := by
  unfold State.fwDone
  try dsimp only
  repeat' (first | (with_reducible assumption) | (with_reducible apply State.log_keeps)
                 | (with_reducible apply keeps_onMgmt _ (fun h => h)) | (dsimp only) | (split)
                 | (with_reducible refine keeps_onMgmt _ (fun hm => ?_) ?_) | (exact hm) | (with_reducible rfl)
                 | (intro _; try dsimp only))

theorem State.teardownReplies_keeps {s0 : State} (s : State) (n : Nat) (c : Ctx) (hk : Keeps s0 s) : Keeps s0 (State.teardownReplies s n c) := by
  unfold State.teardownReplies
  try dsimp only
  repeat' (first | (with_reducible assumption) | (with_reducible apply State.reply_keeps) | (with_reducible apply keeps_onDev)
                 | (with_reducible apply keeps_foldl) | (with_reducible apply keeps_foldl1) | (dsimp only) | (split)
                 | (intro _; try dsimp only))

theorem State.teardownBegin_keeps {s0 : State} (s : State) (n : Nat) (back : Option ReplyTo) (hk : Keeps s0 s) : Keeps s0 (State.teardownBegin s n back) := by
  unfold State.teardownBegin
  try dsimp only
  repeat' (first | (with_reducible assumption) | (with_reducible apply State.closeFaults_keeps)
                 | (with_reducible apply State.stopPart_keeps) | (with_reducible apply State.freeOutputs_keeps) | (with_reducible apply State.teardownReplies_keeps)
                 | (with_reducible apply keeps_onDev) | (with_reducible apply keeps_foldl) | (with_reducible apply keeps_foldl1)
                 | (dsimp only) | (split)
                 | ((with_reducible refine keeps_onMem _ (fun hm => ?_) ?_); first | (with_reducible exact writeLine_wf _ _ _ _ _ hm) | (with_reducible exact Memory.zero_wf _ _ _ hm) | (with_reducible exact Memory.zero_wf _ _ _ (Memory.zero_wf _ _ _ hm)) | exact hm | skip)
                 | (exact hm) | (intro _; try dsimp only))

theorem State.detachEnd_keeps {s0 : State} (s : State) (a : Nat) (hk : Keeps s0 s) : Keeps s0 (State.detachEnd s a) := by
  unfold State.detachEnd
  try dsimp only
  repeat' (first | (with_reducible assumption) | (with_reducible apply State.reply_keeps) | (with_reducible apply keeps_onDev)
                 | (dsimp only) | (split) | (intro _; try dsimp only))

theorem State.teardownEnd_keeps {s0 : State} (s : State) (n : Nat) (hk : Keeps s0 s) : Keeps s0 (State.teardownEnd s n) := by
  unfold State.teardownEnd
  try dsimp only
  repeat' (first | (with_reducible assumption) | (with_reducible apply State.detachEnd_keeps) | (with_reducible apply State.fwDone_keeps)
                 | (with_reducible apply State.reply_keeps) | (with_reducible apply keeps_onDev) | (dsimp only) | (split)
                 | (intro _; try dsimp only))

theorem State.orphan_keeps {s0 : State} (s : State) (a : Nat) (cause : Nat) (hk : Keeps s0 s) : Keeps s0 (State.orphan s a cause) := by
  unfold State.orphan
  try dsimp only
  repeat' (first | (with_reducible assumption) | (with_reducible apply State.event_keeps) | (with_reducible apply keeps_onDev)
                 | (with_reducible apply keeps_foldl) | (with_reducible apply keeps_foldl1) | (dsimp only) | (split)
                 | (intro _; try dsimp only))

theorem State.failExports_keeps {s0 : State} (s : State) (a : Nat) (hk : Keeps s0 s) : Keeps s0 (State.failExports s a) := by
  unfold State.failExports
  try dsimp only
  repeat' (first | (with_reducible assumption) | (with_reducible apply State.failPart_keeps) | (with_reducible apply keeps_onDev)
                 | (with_reducible apply keeps_foldl) | (with_reducible apply keeps_foldl1) | (dsimp only) | (split)
                 | (intro _; try dsimp only))

theorem State.lose_keeps {s0 : State} (s : State) (a : Nat) (kind : LossKind) (hk : Keeps s0 s) : Keeps s0 (State.lose s a kind) := by
  unfold State.lose
  try dsimp only
  repeat' (first | (with_reducible assumption) | (with_reducible apply State.failExports_keeps)
                 | (with_reducible apply State.orphan_keeps) | (with_reducible apply keeps_onDev) | (dsimp only) | (split)
                 | (intro _; try dsimp only))

theorem State.holdEnds_keeps {s0 : State} (s : State) (a : Nat) (hk : Keeps s0 s) : Keeps s0 (State.holdEnds s a) := by
  unfold State.holdEnds
  try dsimp only
  repeat' (first | (with_reducible assumption) | (with_reducible apply State.failExports_keeps) | (with_reducible apply State.log_keeps)
                 | (with_reducible apply State.teardownBegin_keeps) | (with_reducible apply State.teardownEnd_keeps)
                 | (with_reducible apply keeps_onDev) | (with_reducible apply keeps_foldl) | (with_reducible apply keeps_foldl1)
                 | (dsimp only) | (intro _; try dsimp only))

theorem State.attach_keeps {s0 : State} (s : State) (m : MsgIn) (hk : Keeps s0 s) : Keeps s0 (State.attach s m) := by
  unfold State.attach
  try dsimp only
  repeat' (first | (with_reducible assumption) | (with_reducible apply State.refuse_keeps) | (with_reducible apply State.reply_keeps)
                 | (with_reducible apply State.took_keeps) | (with_reducible apply keeps_onDev) | (dsimp only) | (split)
                 | (intro _; try dsimp only))

theorem State.reattach_keeps {s0 : State} (s : State) (m : MsgIn) (hk : Keeps s0 s) : Keeps s0 (State.reattach s m) := by
  unfold State.reattach
  try dsimp only
  repeat' (first | (with_reducible assumption) | (with_reducible apply State.refuse_keeps) | (with_reducible apply State.reply_keeps)
                 | (with_reducible apply keeps_onDev) | (dsimp only) | (split) | (intro _; try dsimp only))

theorem State.detach_keeps {s0 : State} (s : State) (m : MsgIn) (hk : Keeps s0 s) : Keeps s0 (State.detach s m) := by
  unfold State.detach
  try dsimp only
  repeat' (first | (with_reducible assumption) | (with_reducible apply State.detachEnd_keeps) | (with_reducible apply State.refuse_keeps)
                 | (with_reducible apply State.teardownBegin_keeps) | (with_reducible apply keeps_onDev)
                 | (with_reducible apply keeps_foldl) | (with_reducible apply keeps_foldl1) | (dsimp only) | (split)
                 | (intro _; try dsimp only))

theorem execAttach_keeps (mb : Mb) (s : State) : ∃ s1, execAttach mb s = .next s1 ∧ Keeps s s1 := by
  refine ⟨_, rfl, ?_⟩
  have hk := Keeps.refl s
  repeat' (first | (with_reducible assumption) | (with_reducible apply State.attach_keeps) | (with_reducible apply State.message_keeps)
                 | (dsimp only) | (intro _; try dsimp only))

theorem execReattach_keeps (mb : Mb) (s : State) : ∃ s1, execReattach mb s = .next s1 ∧ Keeps s s1 := by
  refine ⟨_, rfl, ?_⟩
  have hk := Keeps.refl s
  repeat' (first | (with_reducible assumption) | (with_reducible apply State.message_keeps) | (with_reducible apply State.reattach_keeps)
                 | (dsimp only) | (intro _; try dsimp only))

theorem execDetach_keeps (mb : Mb) (s : State) : ∃ s1, execDetach mb s = .next s1 ∧ Keeps s s1 := by
  refine ⟨_, rfl, ?_⟩
  have hk := Keeps.refl s
  repeat' (first | (with_reducible assumption) | (with_reducible apply State.detach_keeps) | (with_reducible apply State.message_keeps)
                 | (dsimp only) | (intro _; try dsimp only))

theorem execCtxCreate_keeps (mb : Mb) (s : State) : ∃ s1, execCtxCreate mb s = .next s1 ∧ Keeps s s1 := by
  refine ⟨_, rfl, ?_⟩
  have hk := Keeps.refl s
  repeat' (first | (with_reducible assumption) | (with_reducible apply State.create_keeps) | (with_reducible apply State.message_keeps)
                 | (dsimp only) | (intro _; try dsimp only))

theorem execCtxDestroy_keeps (mb : Mb) (s : State) : ∃ s1, execCtxDestroy mb s = .next s1 ∧ Keeps s s1 := by
  refine ⟨_, rfl, ?_⟩
  have hk := Keeps.refl s
  repeat' (first | (with_reducible assumption) | (with_reducible apply State.message_keeps)
                 | (with_reducible apply State.teardownBegin_keeps) | (dsimp only) | (intro _; try dsimp only))

theorem execTeardownReply_keeps (n : Fin 4096) (s : State) : ∃ s1, execTeardownReply n s = .next s1 ∧ Keeps s s1 := by
  refine ⟨_, rfl, ?_⟩
  have hk := Keeps.refl s
  repeat' (first | (with_reducible assumption) | (with_reducible apply State.teardownEnd_keeps) | (dsimp only) | (split)
                 | (intro _; try dsimp only))

end Sys2Proof.Machine
end

