-- ==== Sys2Proof/Laws/KeepsRanges.lean ====
section
/-!
SUPPORT. What Machine/Ranges.lean keeps: the queue, the time, the fused limits, and safety.
-/

namespace Sys2Proof.Machine

theorem State.mapEntries_keeps {s0 : State} {s t : State} {n : Nat} {c : Ctx} {es : List RangeEntry} (hr : s.mapEntries n c es = .ok t) (h : Keeps s0 s) : Keeps s0 t := by
  unfold State.mapEntries at hr
  split at hr
  · cases hr
  · dsimp only at hr
    split at hr
    · cases hr
    · split at hr
      · cases hr
      · cases hr
        exact h

theorem State.rangeMap_keeps {s0 : State} (s : State) (m : MsgIn) (hk : Keeps s0 s) : Keeps s0 (State.rangeMap s m) := by
  unfold State.rangeMap
  try dsimp only
  repeat' (first | (with_reducible assumption) | (with_reducible apply State.inCtx_keeps)
                 | (with_reducible refine State.mapEntries_keeps (hr := ‹_›) ?_) | (with_reducible apply State.refuse_keeps)
                 | (with_reducible apply State.reply_keeps) | (with_reducible apply keeps_onDev) | (dsimp only) | (split)
                 | (intro _; try dsimp only))

theorem State.rangeUnmap_keeps {s0 : State} (s : State) (m : MsgIn) (hk : Keeps s0 s) : Keeps s0 (State.rangeUnmap s m) := by
  unfold State.rangeUnmap
  try dsimp only
  repeat' (first | (with_reducible assumption) | (with_reducible apply State.inCtx_keeps) | (with_reducible apply State.refuse_keeps)
                 | (with_reducible apply keeps_onDev) | (dsimp only) | (split) | (intro _; try dsimp only))

theorem State.unmapEnd_keeps {s0 : State} (s : State) (n : Nat) (granuleVa : Nat) (hk : Keeps s0 s) : Keeps s0 (State.unmapEnd s n granuleVa) := by
  unfold State.unmapEnd
  try dsimp only
  repeat' (first | (with_reducible assumption) | (with_reducible apply State.reply_keeps) | (with_reducible apply keeps_onDev)
                 | (dsimp only) | (split) | (intro _; try dsimp only))

theorem State.frameClass_keeps {s0 : State} (s : State) (m : MsgIn) (hk : Keeps s0 s) : Keeps s0 (State.frameClass s m) := by
  unfold State.frameClass
  try dsimp only
  repeat' (first | (with_reducible assumption) | (with_reducible apply State.inCtx_keeps) | (with_reducible apply State.refuse_keeps)
                 | (with_reducible apply State.reply_keeps) | (with_reducible apply keeps_onDev) | (with_reducible apply keeps_foldl)
                 | (with_reducible apply keeps_foldl1) | (dsimp only) | (split)
                 | ((with_reducible refine keeps_onMem _ (fun hm => ?_) ?_); first | (with_reducible exact writeLine_wf _ _ _ _ _ hm) | (with_reducible exact Memory.zero_wf _ _ _ hm) | (with_reducible exact Memory.zero_wf _ _ _ (Memory.zero_wf _ _ _ hm)) | exact hm | skip)
                 | (exact hm) | (intro _; try dsimp only))

theorem execRangeMap_keeps (mb : Mb) (s : State) : ∃ s1, execRangeMap mb s = .next s1 ∧ Keeps s s1 := by
  refine ⟨_, rfl, ?_⟩
  have hk := Keeps.refl s
  repeat' (first | (with_reducible assumption) | (with_reducible apply State.message_keeps) | (with_reducible apply State.rangeMap_keeps)
                 | (dsimp only) | (intro _; try dsimp only))

theorem execRangeUnmap_keeps (mb : Mb) (s : State) : ∃ s1, execRangeUnmap mb s = .next s1 ∧ Keeps s s1 := by
  refine ⟨_, rfl, ?_⟩
  have hk := Keeps.refl s
  repeat' (first | (with_reducible assumption) | (with_reducible apply State.message_keeps)
                 | (with_reducible apply State.rangeUnmap_keeps) | (dsimp only) | (intro _; try dsimp only))

theorem execRangeUnmapDone_keeps (n : Fin 4096) (granule : Nat) (s : State) : ∃ s1, execRangeUnmapDone n granule s = .next s1 ∧ Keeps s s1 := by
  refine ⟨_, rfl, ?_⟩
  have hk := Keeps.refl s
  repeat' (first | (with_reducible assumption) | (with_reducible apply State.unmapEnd_keeps) | (dsimp only))

theorem execFrameClass_keeps (mb : Mb) (s : State) : ∃ s1, execFrameClass mb s = .next s1 ∧ Keeps s s1 := by
  refine ⟨_, rfl, ?_⟩
  have hk := Keeps.refl s
  repeat' (first | (with_reducible assumption) | (with_reducible apply State.frameClass_keeps)
                 | (with_reducible apply State.message_keeps) | (dsimp only) | (intro _; try dsimp only))

end Sys2Proof.Machine
end

