-- ==== Sys2Proof/Laws/KeepsObjMsg.lean ====
section
/-!
SUPPORT. What Machine/ObjMsg.lean keeps: the queue, the time, the fused limits, and safety.
-/

namespace Sys2Proof.Machine

theorem State.objRegister_keeps {s0 : State} (s : State) (m : MsgIn) (hk : Keeps s0 s) : Keeps s0 (State.objRegister s m) := by
  unfold State.objRegister
  try dsimp only
  repeat' (first | (with_reducible assumption) | (with_reducible apply State.inCtx_keeps) | (with_reducible apply State.refuse_keeps)
                 | (with_reducible apply State.reply_keeps) | (with_reducible apply keeps_onDev) | (dsimp only) | (split)
                 | (intro _; try dsimp only))

theorem State.objPolicy_keeps {s0 : State} (s : State) (m : MsgIn) (hk : Keeps s0 s) : Keeps s0 (State.objPolicy s m) := by
  unfold State.objPolicy
  try dsimp only
  repeat' (first | (with_reducible assumption) | (with_reducible apply State.inCtx_keeps) | (with_reducible apply State.refuse_keeps)
                 | (with_reducible apply State.reply_keeps) | (with_reducible apply keeps_onDev) | (dsimp only) | (split)
                 | (intro _; try dsimp only))

theorem execObjRegister_keeps (mb : Mb) (s : State) : ∃ s1, execObjRegister mb s = .next s1 ∧ Keeps s s1 := by
  refine ⟨_, rfl, ?_⟩
  have hk := Keeps.refl s
  repeat' (first | (with_reducible assumption) | (with_reducible apply State.message_keeps)
                 | (with_reducible apply State.objRegister_keeps) | (dsimp only) | (intro _; try dsimp only))

theorem execObjPolicy_keeps (mb : Mb) (s : State) : ∃ s1, execObjPolicy mb s = .next s1 ∧ Keeps s s1 := by
  refine ⟨_, rfl, ?_⟩
  have hk := Keeps.refl s
  repeat' (first | (with_reducible assumption) | (with_reducible apply State.message_keeps) | (with_reducible apply State.objPolicy_keeps)
                 | (dsimp only) | (intro _; try dsimp only))

end Sys2Proof.Machine
end

