-- ==== Sys2Proof/Laws/KeepsQueue.lean ====
section
/-!
SUPPORT. What Machine/Queue.lean keeps: the queue, the time, the fused limits, and safety.
-/

namespace Sys2Proof.Machine

theorem State.submitOne_keeps {s0 : State} {s : State} {n : Nat} {b : Bytes} {sp : Split} {r : State × Nat × Bool} (hr : s.submitOne n b sp = .ok r) (h : Keeps s0 s) : Keeps s0 r.1 := by
  unfold State.submitOne at hr
  split at hr
  · cases hr
  · split at hr
    · cases hr
    · split at hr
      · cases hr
      · dsimp only at hr
        split at hr
        · cases hr
          exact h
        · cases hr
          exact State.queueFault_keeps _ _ _ _ _ _ _ h

theorem State.submit_keeps {s0 : State} (s : State) (m : MsgIn) (sp : Split) (hk : Keeps s0 s) : Keeps s0 (State.submit s m sp) := by
  unfold State.submit
  try dsimp only
  repeat' (first | (with_reducible assumption) | (with_reducible apply State.refuse_keeps) | (with_reducible apply State.reply_keeps)
                 | (with_reducible refine State.submitOne_keeps ‹_› ?_) | (dsimp only) | (split))

theorem State.submitAll_keeps {s0 : State} (n : Nat) (sp : Split) (l : List Bytes) :
    ∀ (s : State) (r : ListRun), Keeps s0 s → Keeps s0 (s.submitAll n sp l r).1 := by
  induction l with
  | nil => exact fun _ _ h => h
  | cons b t ih =>
    intro s r h
    unfold State.submitAll
    split
    · exact h
    · rename_i hr
      exact ih _ _ (State.submitOne_keeps hr h)

theorem State.submitList_keeps {s0 : State} (s : State) (m : MsgIn) (sp : Split) (hk : Keeps s0 s) : Keeps s0 (State.submitList s m sp) := by
  unfold State.submitList
  try dsimp only
  repeat' (first | (with_reducible assumption) | (with_reducible apply State.inCtx_keeps) | (with_reducible apply State.refuse_keeps)
                 | (with_reducible apply State.reply_keeps) | (with_reducible apply State.submitAll_keeps) | (dsimp only) | (split)
                 | (intro _; try dsimp only))

theorem State.stopCmd_keeps {s0 : State} (s : State) (n : Nat) (x : Cmd) (hk : Keeps s0 s) : Keeps s0 (State.stopCmd s n x) := by
  unfold State.stopCmd
  try dsimp only
  repeat' (first | (with_reducible assumption) | (with_reducible apply State.stopPart_keeps) | (with_reducible apply keeps_onDev)
                 | (with_reducible apply keeps_foldl) | (with_reducible apply keeps_foldl1) | (dsimp only) | (split)
                 | (intro _; try dsimp only))

theorem State.abortMsg_keeps {s0 : State} (s : State) (m : MsgIn) (hk : Keeps s0 s) : Keeps s0 (State.abortMsg s m) := by
  unfold State.abortMsg
  try dsimp only
  repeat' (first | (with_reducible assumption) | (with_reducible apply State.inCtx_keeps) | (with_reducible apply State.refuse_keeps)
                 | (with_reducible apply State.stopCmd_keeps) | (with_reducible apply keeps_onDev) | (dsimp only) | (split)
                 | (intro _; try dsimp only))

theorem State.abortEnd_keeps {s0 : State} (s : State) (n : Nat) (seq : Nat) (hk : Keeps s0 s) : Keeps s0 (State.abortEnd s n seq) := by
  unfold State.abortEnd
  try dsimp only
  repeat' (first | (with_reducible assumption) | (with_reducible apply State.freeOutputs_keeps) | (with_reducible apply State.reply_keeps)
                 | (with_reducible apply keeps_onDev) | (with_reducible apply keeps_foldl) | (with_reducible apply keeps_foldl1)
                 | (dsimp only) | (split) | (intro _; try dsimp only))

theorem State.failEnd_keeps {s0 : State} (s : State) (n : Nat) (seq : Nat) (hk : Keeps s0 s) : Keeps s0 (State.failEnd s n seq) := by
  unfold State.failEnd
  try dsimp only
  repeat' (first | (with_reducible assumption) | (with_reducible apply State.freeOutputs_keeps) | (with_reducible apply keeps_onDev)
                 | (dsimp only) | (split) | (intro _; try dsimp only))

theorem State.failParked_keeps {s0 : State} (s : State) (n : Nat) (seq : Nat) (st : Nat) (hk : Keeps s0 s) : Keeps s0 (State.failParked s n seq st) := by
  unfold State.failParked
  try dsimp only
  repeat' (first | (with_reducible assumption) | (with_reducible apply State.freeOutputs_keeps) | (with_reducible apply keeps_onDev)
                 | (dsimp only) | (split) | (intro _; try dsimp only))

theorem State.unparkCmd_keeps {s0 : State} (s : State) (n : Nat) (seq : Nat) (sp : Split) (hk : Keeps s0 s) : Keeps s0 (State.unparkCmd s n seq sp) := by
  unfold State.unparkCmd
  try dsimp only
  repeat' (first | (with_reducible assumption) | (with_reducible apply State.failParked_keeps)
                 | (with_reducible apply State.queueFault_keeps) | (with_reducible apply keeps_onDev) | (dsimp only) | (split)
                 | (intro _; try dsimp only))

theorem State.releaseHeld_keeps {s0 : State} (s : State) (f : FaultEntry) (hk : Keeps s0 s) : Keeps s0 (State.releaseHeld s f) := by
  unfold State.releaseHeld
  try dsimp only
  repeat' (first | (with_reducible assumption) | (with_reducible apply State.releaseHold_keeps) | (with_reducible apply keeps_foldl)
                 | (with_reducible apply keeps_foldl1) | (dsimp only) | (split) | (intro _; try dsimp only))

theorem State.resume_keeps {s0 : State} (s : State) (m : MsgIn) (sp : Split) (hk : Keeps s0 s) : Keeps s0 (State.resume s m sp) := by
  unfold State.resume
  try dsimp only
  repeat' (first | (with_reducible assumption) | (with_reducible apply State.failParked_keeps)
                 | (with_reducible apply State.failPart_keeps) | (with_reducible apply State.inCtx_keeps)
                 | (with_reducible apply State.refill_keeps) | (with_reducible apply State.refuse_keeps)
                 | (with_reducible apply State.releaseHeld_keeps) | (with_reducible apply State.reply_keeps)
                 | (with_reducible apply State.unparkCmd_keeps) | (with_reducible apply keeps_onDev) | (with_reducible apply keeps_foldl)
                 | (with_reducible apply keeps_foldl1) | (dsimp only) | (split) | (intro _; try dsimp only))

theorem execSubmit_keeps (mb : Mb) (split : Split) (s : State) : ∃ s1, execSubmit mb split s = .next s1 ∧ Keeps s s1 := by
  refine ⟨_, rfl, ?_⟩
  have hk := Keeps.refl s
  repeat' (first | (with_reducible assumption) | (with_reducible apply State.message_keeps) | (with_reducible apply State.submit_keeps)
                 | (dsimp only) | (intro _; try dsimp only))

theorem execSubmitList_keeps (mb : Mb) (split : Split) (s : State) : ∃ s1, execSubmitList mb split s = .next s1 ∧ Keeps s s1 := by
  refine ⟨_, rfl, ?_⟩
  have hk := Keeps.refl s
  repeat' (first | (with_reducible assumption) | (with_reducible apply State.message_keeps)
                 | (with_reducible apply State.submitList_keeps) | (dsimp only) | (intro _; try dsimp only))

theorem execAbort_keeps (mb : Mb) (s : State) : ∃ s1, execAbort mb s = .next s1 ∧ Keeps s s1 := by
  refine ⟨_, rfl, ?_⟩
  have hk := Keeps.refl s
  repeat' (first | (with_reducible assumption) | (with_reducible apply State.abortMsg_keeps) | (with_reducible apply State.message_keeps)
                 | (dsimp only) | (intro _; try dsimp only))

theorem execAbortSettled_keeps (n : Fin 4096) (seq : Nat) (s : State) : ∃ s1, execAbortSettled n seq s = .next s1 ∧ Keeps s s1 := by
  refine ⟨_, rfl, ?_⟩
  have hk := Keeps.refl s
  repeat' (first | (with_reducible assumption) | (with_reducible apply State.abortEnd_keeps) | (dsimp only))

theorem execCommandFailureSettled_keeps (n : Fin 4096) (seq : Nat) (s : State) : ∃ s1, execCommandFailureSettled n seq s = .next s1 ∧ Keeps s s1 := by
  refine ⟨_, rfl, ?_⟩
  have hk := Keeps.refl s
  repeat' (first | (with_reducible assumption) | (with_reducible apply State.failEnd_keeps) | (dsimp only))

theorem execResumeRetry_keeps (mb : Mb) (split : Split) (s : State) : ∃ s1, execResumeRetry mb split s = .next s1 ∧ Keeps s s1 := by
  refine ⟨_, rfl, ?_⟩
  have hk := Keeps.refl s
  repeat' (first | (with_reducible assumption) | (with_reducible apply State.message_keeps) | (with_reducible apply State.resume_keeps)
                 | (dsimp only) | (intro _; try dsimp only))

theorem execResumeFail_keeps (mb : Mb) (s : State) : ∃ s1, execResumeFail mb s = .next s1 ∧ Keeps s s1 := by
  refine ⟨_, rfl, ?_⟩
  have hk := Keeps.refl s
  repeat' (first | (with_reducible assumption) | (with_reducible apply State.message_keeps) | (with_reducible apply State.resume_keeps)
                 | (dsimp only) | (intro _; try dsimp only))

end Sys2Proof.Machine
end

