-- ==== Sys2Proof/Laws/KeepsMisc.lean ====
section
/-!
SUPPORT. What Machine/Misc.lean keeps: the queue, the time, the fused limits, and safety.
-/

namespace Sys2Proof.Machine

theorem State.gateAlloc_keeps {s0 : State} (s : State) (m : MsgIn) (hk : Keeps s0 s) : Keeps s0 (State.gateAlloc s m) := by
  unfold State.gateAlloc
  try dsimp only
  repeat' (first | (with_reducible assumption) | (with_reducible apply State.inCtx_keeps) | (with_reducible apply State.refuse_keeps)
                 | (with_reducible apply State.reply_keeps) | (with_reducible apply keeps_onDev) | (dsimp only) | (split)
                 | (intro _; try dsimp only))

theorem State.gateFree_keeps {s0 : State} (s : State) (m : MsgIn) (hk : Keeps s0 s) : Keeps s0 (State.gateFree s m) := by
  unfold State.gateFree
  try dsimp only
  repeat' (first | (with_reducible assumption) | (with_reducible apply State.inCtx_keeps) | (with_reducible apply State.refuse_keeps)
                 | (with_reducible apply State.reply_keeps) | (with_reducible apply keeps_onDev) | (dsimp only) | (split)
                 | (intro _; try dsimp only))

theorem State.periodMark_keeps {s0 : State} (s : State) (hk : Keeps s0 s) : Keeps s0 (State.periodMark s) := by
  unfold State.periodMark
  try dsimp only
  repeat' (first | (with_reducible assumption) | (with_reducible apply keeps_onDev) | (with_reducible apply keeps_foldl)
                 | (with_reducible apply keeps_foldl1) | (dsimp only) | (intro _; try dsimp only))

theorem State.statsReply_keeps {s0 : State} (s : State) (m : MsgIn) (x : Stats) (live : Bool) (hk : Keeps s0 s) : Keeps s0 (State.statsReply s m x live) := by
  unfold State.statsReply
  try dsimp only
  repeat' (first | (with_reducible assumption) | (with_reducible apply State.log_keeps) | (with_reducible apply State.reply_keeps)
                 | (dsimp only) | (split) | (intro _; try dsimp only))

theorem State.statsRead_keeps {s0 : State} (s : State) (m : MsgIn) (hk : Keeps s0 s) : Keeps s0 (State.statsRead s m) := by
  unfold State.statsRead
  try dsimp only
  repeat' (first | (with_reducible assumption) | (with_reducible apply State.inCtx_keeps) | (with_reducible apply State.periodMark_keeps)
                 | (with_reducible apply State.refuse_keeps) | (with_reducible apply State.statsReply_keeps) | (dsimp only) | (split)
                 | (intro _; try dsimp only))

theorem State.query_keeps {s0 : State} (s : State) (m : MsgIn) (hk : Keeps s0 s) : Keeps s0 (State.query s m) := by
  unfold State.query
  try dsimp only
  repeat' (first | (with_reducible assumption) | (with_reducible apply State.inCtx_keeps) | (with_reducible apply State.refuse_keeps)
                 | (with_reducible apply State.reply_keeps) | (dsimp only) | (split) | (intro _; try dsimp only))

theorem State.noteMsg_keeps {s0 : State} (s : State) (m : MsgIn) (hk : Keeps s0 s) : Keeps s0 (State.noteMsg s m) := by
  unfold State.noteMsg
  try dsimp only
  repeat' (first | (with_reducible assumption) | (with_reducible apply State.log_keeps) | (with_reducible apply State.refuse_keeps)
                 | (with_reducible apply State.reply_keeps) | (dsimp only) | (split))

theorem execGateAlloc_keeps (mb : Mb) (s : State) : ∃ s1, execGateAlloc mb s = .next s1 ∧ Keeps s s1 := by
  refine ⟨_, rfl, ?_⟩
  have hk := Keeps.refl s
  repeat' (first | (with_reducible assumption) | (with_reducible apply State.gateAlloc_keeps) | (with_reducible apply State.message_keeps)
                 | (dsimp only) | (intro _; try dsimp only))

theorem execGateFree_keeps (mb : Mb) (s : State) : ∃ s1, execGateFree mb s = .next s1 ∧ Keeps s s1 := by
  refine ⟨_, rfl, ?_⟩
  have hk := Keeps.refl s
  repeat' (first | (with_reducible assumption) | (with_reducible apply State.gateFree_keeps) | (with_reducible apply State.message_keeps)
                 | (dsimp only) | (intro _; try dsimp only))

theorem execStatsReadContext_keeps (mb : Mb) (s : State) : ∃ s1, execStatsReadContext mb s = .next s1 ∧ Keeps s s1 := by
  refine ⟨_, rfl, ?_⟩
  have hk := Keeps.refl s
  repeat' (first | (with_reducible assumption) | (with_reducible apply State.message_keeps) | (with_reducible apply State.statsRead_keeps)
                 | (dsimp only) | (intro _; try dsimp only))

theorem execStatsReadPartition_keeps (mb : Mb) (s : State) : ∃ s1, execStatsReadPartition mb s = .next s1 ∧ Keeps s s1 := by
  refine ⟨_, rfl, ?_⟩
  have hk := Keeps.refl s
  repeat' (first | (with_reducible assumption) | (with_reducible apply State.message_keeps) | (with_reducible apply State.statsRead_keeps)
                 | (dsimp only) | (intro _; try dsimp only))

theorem execStatsReadDevice_keeps (mb : Mb) (s : State) : ∃ s1, execStatsReadDevice mb s = .next s1 ∧ Keeps s s1 := by
  refine ⟨_, rfl, ?_⟩
  have hk := Keeps.refl s
  repeat' (first | (with_reducible assumption) | (with_reducible apply State.message_keeps) | (with_reducible apply State.statsRead_keeps)
                 | (dsimp only) | (intro _; try dsimp only))

theorem execPeriodMark_keeps (s : State) : ∃ s1, execPeriodMark s = .next s1 ∧ Keeps s s1 := by
  refine ⟨_, rfl, ?_⟩
  have hk := Keeps.refl s
  repeat' (first | (with_reducible assumption) | (with_reducible apply State.periodMark_keeps)
                 | (with_reducible apply keeps_onMgmt _ (fun h => h)) | (dsimp only) | (split)
                 | (with_reducible refine keeps_onMgmt _ (fun hm => ?_) ?_) | (exact hm) | (with_reducible rfl)
                 | (intro _; try dsimp only))

theorem execQueryDevice_keeps (mb : Mb) (s : State) : ∃ s1, execQueryDevice mb s = .next s1 ∧ Keeps s s1 := by
  refine ⟨_, rfl, ?_⟩
  have hk := Keeps.refl s
  repeat' (first | (with_reducible assumption) | (with_reducible apply State.message_keeps) | (with_reducible apply State.query_keeps)
                 | (dsimp only) | (intro _; try dsimp only))

theorem execQueryContext_keeps (mb : Mb) (s : State) : ∃ s1, execQueryContext mb s = .next s1 ∧ Keeps s s1 := by
  refine ⟨_, rfl, ?_⟩
  have hk := Keeps.refl s
  repeat' (first | (with_reducible assumption) | (with_reducible apply State.message_keeps) | (with_reducible apply State.query_keeps)
                 | (dsimp only) | (intro _; try dsimp only))

theorem execQueryObject_keeps (mb : Mb) (s : State) : ∃ s1, execQueryObject mb s = .next s1 ∧ Keeps s s1 := by
  refine ⟨_, rfl, ?_⟩
  have hk := Keeps.refl s
  repeat' (first | (with_reducible assumption) | (with_reducible apply State.message_keeps) | (with_reducible apply State.query_keeps)
                 | (dsimp only) | (intro _; try dsimp only))

theorem execQueryGate_keeps (mb : Mb) (s : State) : ∃ s1, execQueryGate mb s = .next s1 ∧ Keeps s s1 := by
  refine ⟨_, rfl, ?_⟩
  have hk := Keeps.refl s
  repeat' (first | (with_reducible assumption) | (with_reducible apply State.message_keeps) | (with_reducible apply State.query_keeps)
                 | (dsimp only) | (intro _; try dsimp only))

theorem execQueryRange_keeps (mb : Mb) (s : State) : ∃ s1, execQueryRange mb s = .next s1 ∧ Keeps s s1 := by
  refine ⟨_, rfl, ?_⟩
  have hk := Keeps.refl s
  repeat' (first | (with_reducible assumption) | (with_reducible apply State.message_keeps) | (with_reducible apply State.query_keeps)
                 | (dsimp only) | (intro _; try dsimp only))

theorem execNote_keeps (mb : Mb) (s : State) : ∃ s1, execNote mb s = .next s1 ∧ Keeps s s1 := by
  refine ⟨_, rfl, ?_⟩
  have hk := Keeps.refl s
  repeat' (first | (with_reducible assumption) | (with_reducible apply State.message_keeps) | (with_reducible apply State.noteMsg_keeps)
                 | (dsimp only) | (intro _; try dsimp only))

end Sys2Proof.Machine
end

