-- ==== Sys2Proof/Laws/KeepsLayoutMsg.lean ====
section
/-!
SUPPORT. What Machine/LayoutMsg.lean keeps: the queue, the time, the fused limits, and safety.
-/

namespace Sys2Proof.Machine

theorem State.layoutRead_keeps {s0 : State} (s : State) (m : MsgIn) (hk : Keeps s0 s) : Keeps s0 (State.layoutRead s m) := by
  unfold State.layoutRead
  try dsimp only
  repeat' (first | (with_reducible assumption) | (with_reducible apply State.refuse_keeps) | (with_reducible apply State.reply_keeps)
                 | (dsimp only) | (split))

theorem State.layoutStage_keeps {s0 : State} (s : State) (m : MsgIn) (hk : Keeps s0 s) : Keeps s0 (State.layoutStage s m) := by
  unfold State.layoutStage
  try dsimp only
  repeat' (first | (with_reducible assumption) | (with_reducible apply State.refuse_keeps) | (with_reducible apply State.reply_keeps)
                 | (with_reducible apply keeps_onDev) | (dsimp only) | (split) | (intro _; try dsimp only))

theorem State.relayout_keeps {s0 : State} (s : State) (new : Mem) (hk : Keeps s0 s) : Keeps s0 (State.relayout s new) := by
  unfold State.relayout
  try dsimp only
  repeat' (first | (with_reducible assumption) | (with_reducible apply State.fill_keeps) | (with_reducible apply keeps_onDev)
                 | (with_reducible apply keeps_onPow _ rfl rfl (fun h => h)) | (with_reducible apply keeps_foldl)
                 | (with_reducible apply keeps_foldl1) | (dsimp only) | (split)
                 | ((with_reducible refine keeps_onMem _ (fun hm => ?_) ?_); first | (with_reducible exact writeLine_wf _ _ _ _ _ hm) | (with_reducible exact Memory.zero_wf _ _ _ hm) | (with_reducible exact Memory.zero_wf _ _ _ (Memory.zero_wf _ _ _ hm)) | exact hm | skip)
                 | (with_reducible refine keeps_onPow _ ?_ ?_ (fun hm => ?_) ?_) | (exact hm) | (with_reducible rfl)
                 | (intro _; try dsimp only))

theorem State.layoutCommit_keeps {s0 : State} (s : State) (m : MsgIn) (hk : Keeps s0 s) : Keeps s0 (State.layoutCommit s m) := by
  unfold State.layoutCommit
  try dsimp only
  repeat' (first | (with_reducible assumption) | (with_reducible apply State.log_keeps) | (with_reducible apply State.refuse_keeps)
                 | (with_reducible apply State.relayout_keeps) | (with_reducible apply State.reply_keeps)
                 | (with_reducible apply keeps_onDev) | (with_reducible apply keeps_onMgmt _ (fun h => h)) | (dsimp only) | (split)
                 | (with_reducible refine keeps_onMgmt _ (fun hm => ?_) ?_) | (exact hm) | (with_reducible rfl)
                 | (intro _; try dsimp only))

theorem State.layoutDiscard_keeps {s0 : State} (s : State) (m : MsgIn) (hk : Keeps s0 s) : Keeps s0 (State.layoutDiscard s m) := by
  unfold State.layoutDiscard
  try dsimp only
  repeat' (first | (with_reducible assumption) | (with_reducible apply State.refuse_keeps) | (with_reducible apply State.reply_keeps)
                 | (with_reducible apply keeps_onDev) | (dsimp only) | (split) | (intro _; try dsimp only))

theorem State.byOwner_keeps {s0 : State} (s : State) (m : MsgIn) (f : State → State) (hk : Keeps s0 s) (hf : ∀ z0, Keeps s0 z0 → Keeps s0 (f z0)) : Keeps s0 (State.byOwner s m f) := by
  unfold State.byOwner
  try dsimp only
  repeat' (first | (with_reducible assumption) | (with_reducible apply State.refuse_keeps) | (with_reducible apply hf) | (dsimp only)
                 | (split))

theorem execLayoutRead_keeps (mb : Mb) (s : State) : ∃ s1, execLayoutRead mb s = .next s1 ∧ Keeps s s1 := by
  refine ⟨_, rfl, ?_⟩
  have hk := Keeps.refl s
  repeat' (first | (with_reducible assumption) | (with_reducible apply State.layoutRead_keeps)
                 | (with_reducible apply State.message_keeps) | (dsimp only) | (intro _; try dsimp only))

theorem execLayoutStage_keeps (mb : Mb) (s : State) : ∃ s1, execLayoutStage mb s = .next s1 ∧ Keeps s s1 := by
  refine ⟨_, rfl, ?_⟩
  have hk := Keeps.refl s
  repeat' (first | (with_reducible assumption) | (with_reducible apply State.byOwner_keeps)
                 | (with_reducible apply State.layoutStage_keeps) | (with_reducible apply State.message_keeps)
                 | (with_reducible apply State.refuse_keeps) | (dsimp only) | (split) | (intro _; try dsimp only))

theorem execLayoutCommit_keeps (mb : Mb) (s : State) : ∃ s1, execLayoutCommit mb s = .next s1 ∧ Keeps s s1 := by
  refine ⟨_, rfl, ?_⟩
  have hk := Keeps.refl s
  repeat' (first | (with_reducible assumption) | (with_reducible apply State.byOwner_keeps)
                 | (with_reducible apply State.layoutCommit_keeps) | (with_reducible apply State.message_keeps) | (dsimp only)
                 | (intro _; try dsimp only))

theorem execLayoutDiscard_keeps (mb : Mb) (s : State) : ∃ s1, execLayoutDiscard mb s = .next s1 ∧ Keeps s s1 := by
  refine ⟨_, rfl, ?_⟩
  have hk := Keeps.refl s
  repeat' (first | (with_reducible assumption) | (with_reducible apply State.byOwner_keeps)
                 | (with_reducible apply State.layoutDiscard_keeps) | (with_reducible apply State.message_keeps) | (dsimp only)
                 | (intro _; try dsimp only))

end Sys2Proof.Machine
end

