-- ==== Sys2Proof/Laws/KeepsJormon.lean ====
section
/-!
SUPPORT. What Machine/Jormon.lean keeps: the queue, the time, the fused limits, and safety.
-/

namespace Sys2Proof.Machine

theorem State.dispatchParts_keeps {s0 : State} (s : State) (n : Nat) (hk : Keeps s0 s) : Keeps s0 (State.dispatchParts s n) := by
  unfold State.dispatchParts
  try dsimp only
  repeat' (first | (with_reducible assumption) | (with_reducible apply keeps_onDev) | (dsimp only) | (split) | (intro _; try dsimp only))

theorem State.jormon_keeps {s0 : State} (s : State) (n : Nat) (mine : Cmd → Bool) (f : Ctx → Cmd → State → State) (hk : Keeps s0 s) (hf : ∀ z0 z1 z2, Keeps s0 z2 → Keeps s0 (f z0 z1 z2)) : Keeps s0 (State.jormon s n mine f) := by
  unfold State.jormon
  try dsimp only
  repeat' (first | (with_reducible assumption) | (with_reducible apply hf) | (with_reducible apply keeps_onDev) | (dsimp only) | (split)
                 | (intro _; try dsimp only))

theorem State.behind_keeps {s0 : State} (s : State) (n : Nat) (op : Nat) (f : Ctx → Cmd → State → State) (hk : Keeps s0 s) (hf : ∀ z0 z1 z2, Keeps s0 z2 → Keeps s0 (f z0 z1 z2)) : Keeps s0 (State.behind s n op f) := by
  unfold State.behind
  try dsimp only
  repeat' (first | (with_reducible assumption) | (with_reducible apply hf) | (dsimp only) | (split) | (intro _; try dsimp only))

theorem State.commitStep_keeps {s0 : State} (s : State) (n : Nat) (c : Ctx) (x : Cmd) (hk : Keeps s0 s) : Keeps s0 (State.commitStep s n c x) := by
  unfold State.commitStep
  try dsimp only
  repeat' (first | (with_reducible assumption) | (with_reducible apply State.fwDone_keeps) | (with_reducible apply keeps_onDev)
                 | (dsimp only) | (intro _; try dsimp only))

theorem execDescriptorDispatch_keeps (n : Fin 4096) (s : State) : ∃ s1, execDescriptorDispatch n s = .next s1 ∧ Keeps s s1 := by
  refine ⟨_, rfl, ?_⟩
  have hk := Keeps.refl s
  repeat' (first | (with_reducible assumption) | (with_reducible apply State.dispatchParts_keeps) | (dsimp only))

theorem execSteep_keeps (n : Fin 4096) (s : State) : ∃ s1, execSteep n s = .next s1 ∧ Keeps s s1 := by
  refine ⟨_, rfl, ?_⟩
  have hk := Keeps.refl s
  repeat' (first | (with_reducible assumption) | (with_reducible apply State.jormon_keeps) | (with_reducible apply keeps_onDev)
                 | (dsimp only) | (intro _; try dsimp only))

theorem execSink_keeps (n : Fin 4096) (s : State) : ∃ s1, execSink n s = .next s1 ∧ Keeps s s1 := by
  refine ⟨_, rfl, ?_⟩
  have hk := Keeps.refl s
  repeat' (first | (with_reducible assumption) | (with_reducible apply State.jormon_keeps) | (with_reducible apply keeps_onDev)
                 | (dsimp only) | (intro _; try dsimp only))

theorem execSinkKeep_keeps (n : Fin 4096) (s : State) : ∃ s1, execSinkKeep n s = .next s1 ∧ Keeps s s1 := by
  refine ⟨_, rfl, ?_⟩
  have hk := Keeps.refl s
  repeat' (first | (with_reducible assumption) | (with_reducible apply State.jormon_keeps) | (with_reducible apply keeps_onDev)
                 | (dsimp only) | (intro _; try dsimp only))

theorem execPin_keeps (n : Fin 4096) (s : State) : ∃ s1, execPin n s = .next s1 ∧ Keeps s s1 := by
  refine ⟨_, rfl, ?_⟩
  have hk := Keeps.refl s
  repeat' (first | (with_reducible assumption) | (with_reducible apply State.jormon_keeps) | (with_reducible apply keeps_onDev)
                 | (dsimp only) | (intro _; try dsimp only))

theorem execUnpin_keeps (n : Fin 4096) (s : State) : ∃ s1, execUnpin n s = .next s1 ∧ Keeps s s1 := by
  refine ⟨_, rfl, ?_⟩
  have hk := Keeps.refl s
  repeat' (first | (with_reducible assumption) | (with_reducible apply State.jormon_keeps) | (with_reducible apply keeps_onDev)
                 | (dsimp only) | (intro _; try dsimp only))

theorem execGateSignal_keeps (n : Fin 4096) (s : State) : ∃ s1, execGateSignal n s = .next s1 ∧ Keeps s s1 := by
  refine ⟨_, rfl, ?_⟩
  have hk := Keeps.refl s
  repeat' (first | (with_reducible assumption) | (with_reducible apply State.jormon_keeps) | (with_reducible apply keeps_onDev)
                 | (dsimp only) | (intro _; try dsimp only))

theorem execGateWait_keeps (n : Fin 4096) (s : State) : ∃ s1, execGateWait n s = .next s1 ∧ Keeps s s1 := by
  refine ⟨_, rfl, ?_⟩
  have hk := Keeps.refl s
  repeat' (first | (with_reducible assumption) | (with_reducible apply State.jormon_keeps) | (with_reducible apply keeps_onDev)
                 | (dsimp only) | (intro _; try dsimp only))

theorem execFence_keeps (n : Fin 4096) (s : State) : ∃ s1, execFence n s = .next s1 ∧ Keeps s s1 := by
  refine ⟨_, rfl, ?_⟩
  have hk := Keeps.refl s
  repeat' (first | (with_reducible assumption) | (with_reducible apply State.behind_keeps) | (with_reducible apply State.jormon_keeps)
                 | (with_reducible apply keeps_onDev) | (dsimp only) | (intro _; try dsimp only))

theorem execStepMark_keeps (n : Fin 4096) (s : State) : ∃ s1, execStepMark n s = .next s1 ∧ Keeps s s1 := by
  refine ⟨_, rfl, ?_⟩
  have hk := Keeps.refl s
  repeat' (first | (with_reducible assumption) | (with_reducible apply State.behind_keeps) | (with_reducible apply State.commitStep_keeps)
                 | (with_reducible apply State.jormon_keeps) | (dsimp only) | (intro _; try dsimp only))

end Sys2Proof.Machine
end

