-- ==== Sys2Proof/Laws/KeepsRun.lean ====
section
/-!
SUPPORT. What Machine/Run.lean keeps: the queue, the time, the fused limits, and safety.
-/

namespace Sys2Proof.Machine

theorem State.poisonReads_keeps {s0 : State} (uid : Nat) (l : List (Nat × Nat)) :
    ∀ s : State, Keeps s0 s → Keeps s0 (s.poisonReads uid l).1 := by
  induction l with
  | nil => exact fun _ h => h
  | cons b t ih =>
    intro s h
    unfold State.poisonReads
    dsimp only
    split
    · exact ih _ (State.poisonRead_keeps _ _ _ _ h)
    · exact State.poisonRead_keeps _ _ _ _ h

theorem State.keepLines_keeps {s0 : State} (s : State) (uid : Nat) (vlines : List Nat) (hk : Keeps s0 s) : Keeps s0 (State.keepLines s uid vlines) := by
  unfold State.keepLines
  try dsimp only
  repeat' (first | (with_reducible assumption) | (with_reducible apply keeps_onDev) | (with_reducible apply keeps_foldl)
                 | (with_reducible apply keeps_foldl1) | (dsimp only) | (split) | (intro _; try dsimp only))

theorem State.partStart_keeps {s0 : State} (s : State) (e : EngId) (hk : Keeps s0 s) : Keeps s0 (State.partStart s e) := by
  unfold State.partStart
  try dsimp only
  repeat' (first | (with_reducible assumption) | (with_reducible apply keeps_onDev) | (with_reducible apply keeps_foldl)
                 | (with_reducible apply keeps_foldl1) | (dsimp only) | (split) | (intro _; try dsimp only))

theorem State.prepare_keeps {s0 : State} (s : State) (uid : Nat) (p : Part) (b : Bytes) (rows : List (Nat × Nat)) (hk : Keeps s0 s) : Keeps s0 (State.prepare s uid p b rows) := by
  unfold State.prepare
  try dsimp only
  repeat' (first | (with_reducible assumption) | (with_reducible apply State.keepLines_keeps) | (with_reducible apply keeps_onDev)
                 | (dsimp only) | (intro _; try dsimp only))

theorem State.runPart_keeps {s0 : State} (s : State) (uid : Nat) (mine : Part → Bytes → Bool) (io : State → Nat → Part → Bytes → PartIo) (f : Part → Bytes → State → State) (hk : Keeps s0 s) (hf : ∀ z0 z1 z2, Keeps s0 z2 → Keeps s0 (f z0 z1 z2)) : Keeps s0 (State.runPart s uid mine io f) := by
  unfold State.runPart
  try dsimp only
  repeat' (first | (with_reducible assumption) | (with_reducible apply State.poisonReads_keeps)
                 | (with_reducible apply State.prepare_keeps) | (with_reducible apply State.stopAt_keeps)
                 | (with_reducible apply State.xlate_keeps) | (with_reducible apply hf) | (with_reducible apply keeps_onDev)
                 | (dsimp only) | (split) | (intro _; try dsimp only))

theorem State.runLines_keeps {s0 : State} (s : State) (uid : Nat) (mine : Bytes → Bool) (f : (Nat → Ref) → Bytes → Nat → Nat → State → State) (hk : Keeps s0 s) (hf : ∀ z0 z1 z2 z3 z4, Keeps s0 z4 → Keeps s0 (f z0 z1 z2 z3 z4)) : Keeps s0 (State.runLines s uid mine f) := by
  unfold State.runLines
  try dsimp only
  repeat' (first | (with_reducible assumption) | (with_reducible apply State.runPart_keeps) | (with_reducible apply hf) | (dsimp only)
                 | (split) | (intro _; try dsimp only))

theorem State.ranPart_keeps {s0 : State} (s : State) (uid : Nat) (hk : Keeps s0 s) : Keeps s0 (State.ranPart s uid) := by
  unfold State.ranPart
  try dsimp only
  repeat' (first | (with_reducible assumption) | (with_reducible apply State.progressed_keeps) | (with_reducible apply keeps_onDev)
                 | (dsimp only) | (split) | (intro _; try dsimp only))

theorem State.sendLine_keeps {s0 : State} (s : State) (uid : Nat) (r : Ref) (l : Nat) (el : Bytes) (sc : Bytes) (hk : Keeps s0 s) : Keeps s0 (State.sendLine s uid r l el sc) := by
  unfold State.sendLine
  try dsimp only
  repeat' (first | (with_reducible assumption) | (with_reducible apply State.vsend_keeps) | (dsimp only))

theorem State.putRows_keeps {s0 : State} (s : State) (uid : Nat) (r : Ref) (conv : Nat) (rows : List (Nat × List Num)) (hk : Keeps s0 s) : Keeps s0 (State.putRows s uid r conv rows) := by
  unfold State.putRows
  try dsimp only
  repeat' (first | (with_reducible assumption) | (with_reducible apply State.sendLine_keeps) | (with_reducible apply State.took_keeps)
                 | (with_reducible apply keeps_onDev) | (with_reducible apply keeps_foldl) | (with_reducible apply keeps_foldl1)
                 | (dsimp only) | (split) | (intro _; try dsimp only))

theorem State.gemmRun_keeps {s0 : State} (s : State) (uid : Nat) (t : Bool) (r : Nat → Ref) (b : Bytes) (lo : Nat) (hi : Nat) (hk : Keeps s0 s) : Keeps s0 (State.gemmRun s uid t r b lo hi) := by
  unfold State.gemmRun
  try dsimp only
  repeat' (first | (with_reducible assumption) | (with_reducible apply State.putRows_keeps) | (with_reducible apply State.ranPart_keeps)
                 | (with_reducible apply State.took_keeps) | (with_reducible apply keeps_onDev) | (with_reducible apply keeps_foldl)
                 | (with_reducible apply keeps_foldl1) | (dsimp only) | (split) | (intro _; try dsimp only))

theorem State.convertRun_keeps {s0 : State} (s : State) (uid : Nat) (q : Nat → Ref) (b : Bytes) (lo : Nat) (hi : Nat) (hk : Keeps s0 s) : Keeps s0 (State.convertRun s uid q b lo hi) := by
  unfold State.convertRun
  try dsimp only
  repeat' (first | (with_reducible assumption) | (with_reducible apply State.putRows_keeps) | (with_reducible apply State.ranPart_keeps)
                 | (with_reducible apply keeps_onDev) | (with_reducible apply keeps_foldl) | (with_reducible apply keeps_foldl1)
                 | (dsimp only) | (intro _; try dsimp only))

theorem State.copyRun_keeps {s0 : State} (s : State) (uid : Nat) (q : Nat → Ref) (lo : Nat) (hi : Nat) (hk : Keeps s0 s) : Keeps s0 (State.copyRun s uid q lo hi) := by
  unfold State.copyRun
  try dsimp only
  repeat' (first | (with_reducible assumption) | (with_reducible apply State.ranPart_keeps) | (with_reducible apply State.took_keeps)
                 | (with_reducible apply State.vsend_keeps) | (with_reducible apply keeps_foldl) | (with_reducible apply keeps_foldl1)
                 | (dsimp only) | (split) | (intro _; try dsimp only))

theorem State.fillRun_keeps {s0 : State} (s : State) (uid : Nat) (q : Nat → Ref) (b : Bytes) (lo : Nat) (hi : Nat) (hk : Keeps s0 s) : Keeps s0 (State.fillRun s uid q b lo hi) := by
  unfold State.fillRun
  try dsimp only
  repeat' (first | (with_reducible assumption) | (with_reducible apply State.ranPart_keeps) | (with_reducible apply State.vsend_keeps)
                 | (with_reducible apply keeps_foldl) | (with_reducible apply keeps_foldl1) | (dsimp only) | (intro _; try dsimp only))

theorem State.hostRun_keeps {s0 : State} (s : State) (uid : Nat) (q : Nat → Ref) (b : Bytes) (lo : Nat) (hi : Nat) (hk : Keeps s0 s) : Keeps s0 (State.hostRun s uid q b lo hi) := by
  unfold State.hostRun
  try dsimp only
  repeat' (first | (with_reducible assumption) | (with_reducible apply State.failPart_keeps) | (with_reducible apply State.ranPart_keeps)
                 | (with_reducible apply State.took_keeps) | (with_reducible apply keeps_onDev) | (dsimp only) | (split)
                 | (intro _; try dsimp only))

theorem State.startHeld_keeps {s0 : State} (s : State) (uid : Nat) (r : Ref) (b : Bytes) (lo : Nat) (hi : Nat) (hk : Keeps s0 s) : Keeps s0 (State.startHeld s uid r b lo hi) := by
  unfold State.startHeld
  try dsimp only
  repeat' (first | (with_reducible assumption) | (with_reducible apply keeps_onDev) | (with_reducible apply keeps_foldl)
                 | (with_reducible apply keeps_foldl1) | (dsimp only) | (split) | (intro _; try dsimp only))

theorem State.landOne_keeps {s0 : State} (s : State) (uid : Nat) (which : Nat) (hk : Keeps s0 s) : Keeps s0 (State.landOne s uid which) := by
  unfold State.landOne
  try dsimp only
  repeat' (first | (with_reducible assumption) | (with_reducible apply State.took_keeps) | (with_reducible apply keeps_onDev)
                 | (dsimp only) | (split) | (intro _; try dsimp only))

theorem State.finishDest_keeps {s0 : State} (s : State) (uid : Nat) (rows : List Nat) (hk : Keeps s0 s) : Keeps s0 (State.finishDest s uid rows) := by
  unfold State.finishDest
  try dsimp only
  repeat' (first | (with_reducible assumption) | (with_reducible apply State.putRows_keeps) | (with_reducible apply State.ranPart_keeps)
                 | (with_reducible apply State.sendLine_keeps) | (with_reducible apply keeps_onDev) | (with_reducible apply keeps_foldl)
                 | (with_reducible apply keeps_foldl1) | (dsimp only) | (split) | (intro _; try dsimp only))

theorem State.reduceRun_keeps {s0 : State} (s : State) (uid : Nat) (q : Nat → Ref) (b : Bytes) (lo : Nat) (hi : Nat) (hk : Keeps s0 s) : Keeps s0 (State.reduceRun s uid q b lo hi) := by
  unfold State.reduceRun
  try dsimp only
  repeat' (first | (with_reducible assumption) | (with_reducible apply State.startHeld_keeps) | (with_reducible apply State.took_keeps)
                 | (with_reducible apply keeps_onDev) | (with_reducible apply keeps_foldl) | (with_reducible apply keeps_foldl1)
                 | (dsimp only) | (split) | (intro _; try dsimp only))

theorem State.launch_keeps {s0 : State} (s : State) (uid : Nat) (p : Part) (b : Bytes) (hk : Keeps s0 s) : Keeps s0 (State.launch s uid p b) := by
  unfold State.launch
  try dsimp only
  repeat' (first | (with_reducible assumption) | (with_reducible apply State.keepLines_keeps) | (with_reducible apply State.ranPart_keeps)
                 | (with_reducible apply State.took_keeps) | (with_reducible apply keeps_onDev) | (with_reducible apply keeps_foldl)
                 | (with_reducible apply keeps_foldl1) | (dsimp only) | (split) | (intro _; try dsimp only))

theorem State.absorbedEvent_keeps {s0 : State} (s : State) (p : Part) (hk : Keeps s0 s) : Keeps s0 (State.absorbedEvent s p) := by
  unfold State.absorbedEvent
  try dsimp only
  repeat' (first | (with_reducible assumption) | (with_reducible apply State.event_keeps) | (with_reducible apply keeps_onDev)
                 | (dsimp only) | (split) | (intro _; try dsimp only))

theorem State.retain_keeps {s0 : State} (s : State) (uid : Nat) (p : Part) (b : Bytes) (hk : Keeps s0 s) : Keeps s0 (State.retain s uid p b) := by
  unfold State.retain
  try dsimp only
  repeat' (first | (with_reducible assumption) | (with_reducible apply keeps_onDev) | (dsimp only) | (split) | (intro _; try dsimp only))

theorem State.writeTail_keeps {s0 : State} (s : State) (uid : Nat) (p : Part) (hk : Keeps s0 s) : Keeps s0 (State.writeTail s uid p) := by
  unfold State.writeTail
  try dsimp only
  repeat' (first | (with_reducible assumption) | (with_reducible apply State.vwrite_keeps) | (dsimp only) | (split)
                 | (intro _; try dsimp only))

theorem State.kernelEnd_keeps {s0 : State} (s : State) (uid : Nat) (p : Part) (hk : Keeps s0 s) : Keeps s0 (State.kernelEnd s uid p) := by
  unfold State.kernelEnd
  try dsimp only
  repeat' (first | (with_reducible assumption) | (with_reducible apply State.ccClean_keeps) | (with_reducible apply keeps_onDev)
                 | (with_reducible apply keeps_foldl) | (with_reducible apply keeps_foldl1) | (dsimp only) | (split)
                 | (intro _; try dsimp only))

theorem State.commitChecks_keeps {s0 : State} (s : State) (p : Part) (chks : List (Nat × Check)) (hk : Keeps s0 s) : Keeps s0 (State.commitChecks s p chks).1 := by
  unfold State.commitChecks
  try dsimp only
  repeat' (first | (with_reducible assumption) | (with_reducible apply State.ccChecks_keeps) | (dsimp only) | (split)
                 | (intro _; try dsimp only))

theorem State.commitPart_keeps {s0 : State} (s : State) (uid : Nat) (chks : List (Nat × Check)) (pre : Part → Bytes → State → State) (hk : Keeps s0 s) (hpre : ∀ z0 z1 z2, Keeps s0 z2 → Keeps s0 (pre z0 z1 z2)) : Keeps s0 (State.commitPart s uid chks pre) := by
  unfold State.commitPart
  try dsimp only
  repeat' (first | (with_reducible assumption) | (with_reducible apply State.absorbedEvent_keeps)
                 | (with_reducible apply State.commitChecks_keeps) | (with_reducible apply State.kernelEnd_keeps)
                 | (with_reducible apply State.retain_keeps) | (with_reducible apply State.writeTail_keeps) | (with_reducible apply hpre)
                 | (with_reducible apply keeps_onDev) | (dsimp only) | (split) | (intro _; try dsimp only))

theorem execPartStart_keeps (e : EngId) (s : State) : ∃ s1, execPartStart e s = .next s1 ∧ Keeps s s1 := by
  refine ⟨_, rfl, ?_⟩
  have hk := Keeps.refl s
  repeat' (first | (with_reducible assumption) | (with_reducible apply State.partStart_keeps) | (dsimp only))

theorem execGemm_keeps (part : Nat) (s : State) : ∃ s1, execGemm part s = .next s1 ∧ Keeps s s1 := by
  refine ⟨_, rfl, ?_⟩
  have hk := Keeps.refl s
  repeat' (first | (with_reducible assumption) | (with_reducible apply State.gemmRun_keeps) | (with_reducible apply State.runLines_keeps)
                 | (dsimp only) | (intro _; try dsimp only))

theorem execGemmT_keeps (part : Nat) (s : State) : ∃ s1, execGemmT part s = .next s1 ∧ Keeps s s1 := by
  refine ⟨_, rfl, ?_⟩
  have hk := Keeps.refl s
  repeat' (first | (with_reducible assumption) | (with_reducible apply State.gemmRun_keeps) | (with_reducible apply State.runLines_keeps)
                 | (dsimp only) | (intro _; try dsimp only))

theorem execConvert_keeps (part : Nat) (s : State) : ∃ s1, execConvert part s = .next s1 ∧ Keeps s s1 := by
  refine ⟨_, rfl, ?_⟩
  have hk := Keeps.refl s
  repeat' (first | (with_reducible assumption) | (with_reducible apply State.convertRun_keeps)
                 | (with_reducible apply State.runLines_keeps) | (dsimp only) | (intro _; try dsimp only))

theorem execCopy_keeps (part : Nat) (s : State) : ∃ s1, execCopy part s = .next s1 ∧ Keeps s s1 := by
  refine ⟨_, rfl, ?_⟩
  have hk := Keeps.refl s
  repeat' (first | (with_reducible assumption) | (with_reducible apply State.copyRun_keeps) | (with_reducible apply State.runLines_keeps)
                 | (dsimp only) | (intro _; try dsimp only))

theorem execCopyHostDst_keeps (part : Nat) (s : State) : ∃ s1, execCopyHostDst part s = .next s1 ∧ Keeps s s1 := by
  refine ⟨_, rfl, ?_⟩
  have hk := Keeps.refl s
  repeat' (first | (with_reducible assumption) | (with_reducible apply State.hostRun_keeps) | (with_reducible apply State.runLines_keeps)
                 | (dsimp only) | (intro _; try dsimp only))

theorem execReduce_keeps (part : Nat) (s : State) : ∃ s1, execReduce part s = .next s1 ∧ Keeps s s1 := by
  refine ⟨_, rfl, ?_⟩
  have hk := Keeps.refl s
  repeat' (first | (with_reducible assumption) | (with_reducible apply State.reduceRun_keeps)
                 | (with_reducible apply State.runLines_keeps) | (dsimp only) | (intro _; try dsimp only))

theorem execFill_keeps (part : Nat) (s : State) : ∃ s1, execFill part s = .next s1 ∧ Keeps s s1 := by
  refine ⟨_, rfl, ?_⟩
  have hk := Keeps.refl s
  repeat' (first | (with_reducible assumption) | (with_reducible apply State.fillRun_keeps) | (with_reducible apply State.runLines_keeps)
                 | (dsimp only) | (intro _; try dsimp only))

theorem execKernel_keeps (part : Nat) (s : State) : ∃ s1, execKernel part s = .next s1 ∧ Keeps s s1 := by
  refine ⟨_, rfl, ?_⟩
  have hk := Keeps.refl s
  repeat' (first | (with_reducible assumption) | (with_reducible apply State.launch_keeps) | (with_reducible apply State.runPart_keeps)
                 | (dsimp only) | (intro _; try dsimp only))

end Sys2Proof.Machine
end

