-- ==== Sys2Proof/Laws/KeepsRouted.lean ====
section
/-!
SUPPORT. What Machine/Routed.lean keeps: the queue, the time, the fused limits, and safety.
-/

namespace Sys2Proof.Machine

theorem State.routeRun_keeps {s0 : State} (s : State) (uid : Nat) (p : Part) (b : Bytes) (hk : Keeps s0 s) : Keeps s0 (State.routeRun s uid p b) := by
  unfold State.routeRun
  try dsimp only
  repeat' (first | (with_reducible assumption) | (with_reducible apply State.ranPart_keeps) | (with_reducible apply State.took_keeps)
                 | (with_reducible apply State.vsend_keeps) | (with_reducible apply keeps_onDev) | (with_reducible apply keeps_foldl)
                 | (with_reducible apply keeps_foldl1) | (dsimp only) | (split) | (intro _; try dsimp only))

theorem State.planEntry_keeps {s0 : State} (s : State) (uid : Nat) (n : Nat) (pt : Nat) (obj : Nat) (at' : Nat) (hk : Keeps s0 s) : Keeps s0 (State.planEntry s uid n pt obj at') := by
  unfold State.planEntry
  try dsimp only
  repeat' (first | (with_reducible assumption) | (with_reducible apply State.vwrite_keeps) | (with_reducible apply keeps_onDev)
                 | (dsimp only) | (split) | (intro _; try dsimp only))

theorem State.actPlan_keeps {s0 : State} (s : State) (uid : Nat) (p : Part) (b : Bytes) (hk : Keeps s0 s) : Keeps s0 (State.actPlan s uid p b) := by
  unfold State.actPlan
  try dsimp only
  repeat' (first | (with_reducible assumption) | (with_reducible apply State.planEntry_keeps) | (with_reducible apply keeps_foldl)
                 | (with_reducible apply keeps_foldl1) | (dsimp only) | (split) | (intro _; try dsimp only))

theorem State.dispatchRun_keeps {s0 : State} (s : State) (uid : Nat) (p : Part) (b : Bytes) (hk : Keeps s0 s) : Keeps s0 (State.dispatchRun s uid p b) := by
  unfold State.dispatchRun
  try dsimp only
  repeat' (first | (with_reducible assumption) | (with_reducible apply State.failPart_keeps) | (with_reducible apply State.ranPart_keeps)
                 | (with_reducible apply State.took_keeps) | (with_reducible apply State.vsend_keeps) | (with_reducible apply keeps_foldl)
                 | (with_reducible apply keeps_foldl1) | (dsimp only) | (split) | (intro _; try dsimp only))

theorem State.formPartial_keeps {s0 : State} (s : State) (src : Nat) (dst : Nat) (b : Bytes) (p : Nat) (i : Nat) (t : Nat) (j : Nat) (hk : Keeps s0 s) : Keeps s0 (State.formPartial s src dst b p i t j) := by
  unfold State.formPartial
  try dsimp only
  repeat' (first | (with_reducible assumption) | (with_reducible apply State.took_keeps) | (with_reducible apply keeps_onDev)
                 | (dsimp only) | (split) | (intro _; try dsimp only))

theorem State.sendPartials_keeps {s0 : State} (s : State) (src : Nat) (dst : Nat) (b : Bytes) (ps : List Nat) (lo : Nat) (hi : Nat) (hk : Keeps s0 s) : Keeps s0 (State.sendPartials s src dst b ps lo hi) := by
  unfold State.sendPartials
  try dsimp only
  repeat' (first | (with_reducible assumption) | (with_reducible apply State.failPart_keeps)
                 | (with_reducible apply State.formPartial_keeps) | (with_reducible apply keeps_foldl)
                 | (with_reducible apply keeps_foldl1) | (dsimp only) | (split) | (intro _; try dsimp only))

theorem State.finishRows_keeps {s0 : State} (s : State) (uid : Nat) (b : Bytes) (lo : Nat) (hi : Nat) (hk : Keeps s0 s) : Keeps s0 (State.finishRows s uid b lo hi) := by
  unfold State.finishRows
  try dsimp only
  repeat' (first | (with_reducible assumption) | (with_reducible apply State.finishDest_keeps)
                 | (with_reducible apply State.sendLine_keeps) | (with_reducible apply keeps_foldl) | (with_reducible apply keeps_foldl1)
                 | (dsimp only) | (split) | (intro _; try dsimp only))

theorem State.checkDest_keeps {s0 : State} (s : State) (uid : Nat) (hk : Keeps s0 s) : Keeps s0 (State.checkDest s uid) := by
  unfold State.checkDest
  try dsimp only
  repeat' (first | (with_reducible assumption) | (with_reducible apply State.failPart_keeps)
                 | (with_reducible apply State.finishRows_keeps) | (dsimp only) | (split) | (intro _; try dsimp only))

theorem State.combineRun_keeps {s0 : State} (s : State) (uid : Nat) (p : Part) (b : Bytes) (hk : Keeps s0 s) : Keeps s0 (State.combineRun s uid p b) := by
  unfold State.combineRun
  try dsimp only
  repeat' (first | (with_reducible assumption) | (with_reducible apply State.checkDest_keeps)
                 | (with_reducible apply State.failPart_keeps) | (with_reducible apply State.ranPart_keeps)
                 | (with_reducible apply State.sendPartials_keeps) | (with_reducible apply State.startHeld_keeps)
                 | (with_reducible apply keeps_onDev) | (with_reducible apply keeps_foldl) | (with_reducible apply keeps_foldl1)
                 | (dsimp only) | (split) | (intro _; try dsimp only))

theorem State.landAny_keeps {s0 : State} (s : State) (uid : Nat) (which : Nat) (hk : Keeps s0 s) : Keeps s0 (State.landAny s uid which) := by
  unfold State.landAny
  try dsimp only
  repeat' (first | (with_reducible assumption) | (with_reducible apply State.checkDest_keeps)
                 | (with_reducible apply State.finishDest_keeps) | (with_reducible apply State.landOne_keeps) | (dsimp only) | (split)
                 | (intro _; try dsimp only))

theorem State.commitAny_keeps {s0 : State} (s : State) (uid : Nat) (chks : List (Nat × Check)) (hk : Keeps s0 s) : Keeps s0 (State.commitAny s uid chks) := by
  unfold State.commitAny
  try dsimp only
  repeat' (first | (with_reducible assumption) | (with_reducible apply State.actPlan_keeps)
                 | (with_reducible apply State.commitPart_keeps) | (with_reducible apply keeps_foldl)
                 | (with_reducible apply keeps_foldl1) | (dsimp only) | (split) | (intro _; try dsimp only))

theorem execRoute_keeps (part : Nat) (s : State) : ∃ s1, execRoute part s = .next s1 ∧ Keeps s s1 := by
  refine ⟨_, rfl, ?_⟩
  have hk := Keeps.refl s
  repeat' (first | (with_reducible assumption) | (with_reducible apply State.routeRun_keeps) | (with_reducible apply State.runPart_keeps)
                 | (dsimp only) | (intro _; try dsimp only))

theorem execDispatch_keeps (part : Nat) (s : State) : ∃ s1, execDispatch part s = .next s1 ∧ Keeps s s1 := by
  refine ⟨_, rfl, ?_⟩
  have hk := Keeps.refl s
  repeat' (first | (with_reducible assumption) | (with_reducible apply State.dispatchRun_keeps)
                 | (with_reducible apply State.runPart_keeps) | (dsimp only) | (intro _; try dsimp only))

theorem execCombine_keeps (part : Nat) (s : State) : ∃ s1, execCombine part s = .next s1 ∧ Keeps s s1 := by
  refine ⟨_, rfl, ?_⟩
  have hk := Keeps.refl s
  repeat' (first | (with_reducible assumption) | (with_reducible apply State.combineRun_keeps)
                 | (with_reducible apply State.runPart_keeps) | (dsimp only) | (intro _; try dsimp only))

theorem execPartialLands_keeps (part : Nat) (which : Nat) (s : State) : ∃ s1, execPartialLands part which s = .next s1 ∧ Keeps s s1 := by
  refine ⟨_, rfl, ?_⟩
  have hk := Keeps.refl s
  repeat' (first | (with_reducible assumption) | (with_reducible apply State.landAny_keeps) | (dsimp only))

theorem execPartCommit_keeps (part : Nat) (chks : List (Nat × Check)) (s : State) : ∃ s1, execPartCommit part chks s = .next s1 ∧ Keeps s s1 := by
  refine ⟨_, rfl, ?_⟩
  have hk := Keeps.refl s
  repeat' (first | (with_reducible assumption) | (with_reducible apply State.commitAny_keeps) | (dsimp only))

end Sys2Proof.Machine
end

