-- ==== Sys2Proof/Laws/KeepsTiers.lean ====
section
/-!
SUPPORT. What Machine/Tiers.lean keeps: the queue, the time, the fused limits, and safety.
-/

namespace Sys2Proof.Machine

theorem State.riseRoom_keeps {s0 : State} (s : State) (pt : Nat) (num : Nat) (hk : Keeps s0 s) : Keeps s0 (State.riseRoom s pt num) := by
  unfold State.riseRoom
  try dsimp only
  repeat' (first | (with_reducible assumption) | (with_reducible apply keeps_onDev) | (dsimp only) | (split) | (intro _; try dsimp only))

theorem State.putGranule_keeps {s0 : State} (s : State) (base : Nat) (content : Mem) (bad : List Nat) (hk : Keeps s0 s) :
    Keeps s0 (s.putGranule base content bad) := by
  unfold State.putGranule
  refine keeps_onMem _ (fun hm => ?_) (keeps_foldl _ _ _ (fun _ _ hs => keeps_onDev _ hs) hk)
  refine foldl_keep (fun m : Memory => m.wf = true) (fun m l => m.setPoison (base / 128 + l) fullMask) (fun _ _ hm => hm) bad _ ?_
  refine foldl_keep (fun b : Mem => Mem.wf b = true) (fun b e => Mem.set b (base + e.1) e.2) (fun _ _ hb => Mem.set_wf _ _ _ hb) content _ ?_
  have hz := Memory.zero_wf _ base granule hm
  unfold Memory.wf at hz
  exact hz

theorem State.riseChunk_keeps {s0 : State} (s : State) (pt : Nat) (num : Nat) (c : Nat) (o : Obj) (hk : Keeps s0 s) : Keeps s0 (State.riseChunk s pt num c o) := by
  unfold State.riseChunk
  try dsimp only
  repeat' (first | (with_reducible assumption) | (with_reducible apply State.done_keeps) | (with_reducible apply State.putGranule_keeps)
                 | (with_reducible apply keeps_onDev) | (dsimp only) | (split) | (intro _; try dsimp only))

theorem State.sinkNoRoom_keeps {s0 : State} (s : State) (pt : Nat) (num : Nat) (k : SinkOp) (hk : Keeps s0 s) : Keeps s0 (State.sinkNoRoom s pt num k) := by
  unfold State.sinkNoRoom
  try dsimp only
  repeat' (first | (with_reducible assumption) | (with_reducible apply keeps_onDev) | (dsimp only) | (split) | (intro _; try dsimp only))

theorem State.sinkChunk_keeps {s0 : State} (s : State) (pt : Nat) (num : Nat) (c : Nat) (o : Obj) (k : SinkOp) (hk : Keeps s0 s) : Keeps s0 (State.sinkChunk s pt num c o k) := by
  unfold State.sinkChunk
  try dsimp only
  repeat' (first | (with_reducible assumption) | (with_reducible apply State.done_keeps) | (with_reducible apply State.sinkNoRoom_keeps)
                 | (with_reducible apply keeps_onDev) | (with_reducible apply keeps_foldl) | (with_reducible apply keeps_foldl1)
                 | (dsimp only) | (split) | (intro _; try dsimp only))

theorem State.infuserChunk_keeps {s0 : State} (s : State) (h : Nat) (fault : Bool) (hk : Keeps s0 s) : Keeps s0 (State.infuserChunk s h fault) := by
  unfold State.infuserChunk
  try dsimp only
  repeat' (first | (with_reducible assumption) | (with_reducible apply State.riseChunk_keeps)
                 | (with_reducible apply State.sinkChunk_keeps) | (with_reducible apply keeps_onDev) | (dsimp only) | (split)
                 | (intro _; try dsimp only))

theorem State.riseComplete_keeps {s0 : State} (s : State) (pt : Nat) (num : Nat) (hk : Keeps s0 s) : Keeps s0 (State.riseComplete s pt num) := by
  unfold State.riseComplete
  try dsimp only
  repeat' (first | (with_reducible assumption) | (with_reducible apply State.done_keeps) | (with_reducible apply State.retryObjects_keeps)
                 | (with_reducible apply keeps_onDev) | (dsimp only) | (split) | (intro _; try dsimp only))

theorem State.sinkRelease_keeps {s0 : State} (s : State) (pt : Nat) (num : Nat) (hk : Keeps s0 s) : Keeps s0 (State.sinkRelease s pt num) := by
  unfold State.sinkRelease
  try dsimp only
  repeat' (first | (with_reducible assumption) | (with_reducible apply State.done_keeps) | (with_reducible apply keeps_onDev)
                 | (dsimp only) | (split) | (intro _; try dsimp only))

theorem State.drainEnd_keeps {s0 : State} (s : State) (pt : Nat) (num : Nat) (hk : Keeps s0 s) : Keeps s0 (State.drainEnd s pt num) := by
  unfold State.drainEnd
  try dsimp only
  repeat' (first | (with_reducible assumption) | (with_reducible apply keeps_onDev) | (dsimp only) | (split) | (intro _; try dsimp only))

theorem State.shadowFill_keeps {s0 : State} (s : State) (pt : Nat) (num : Nat) (g : Nat) (n : Nat) (hk : Keeps s0 s) : Keeps s0 (State.shadowFill s pt num g n) := by
  unfold State.shadowFill
  try dsimp only
  repeat' (first | (with_reducible assumption) | (with_reducible apply State.putGranule_keeps)
                 | (with_reducible apply State.retryObjects_keeps) | (with_reducible apply keeps_onDev) | (dsimp only) | (split)
                 | (intro _; try dsimp only))

theorem State.deadlock_keeps {s0 : State} (s : State) (pt : Nat) (num : Nat) (o : Obj) (hk : Keeps s0 s) : Keeps s0 (State.deadlock s pt num o) := by
  unfold State.deadlock
  try dsimp only
  repeat' (first | (with_reducible assumption) | (with_reducible apply State.event_keeps) | (with_reducible apply State.failPart_keeps)
                 | (with_reducible apply keeps_onDev) | (with_reducible apply keeps_foldl) | (with_reducible apply keeps_foldl1)
                 | (dsimp only) | (split) | (intro _; try dsimp only))

theorem State.residencyDeadlock_keeps {s0 : State} (s : State) (pt : Nat) (num : Nat) (hk : Keeps s0 s) : Keeps s0 (State.residencyDeadlock s pt num) := by
  unfold State.residencyDeadlock
  try dsimp only
  repeat' (first | (with_reducible assumption) | (with_reducible apply State.deadlock_keeps) | (dsimp only) | (split))

theorem execRiseRoom_keeps (pt : Fin 8) (obj : Nat) (s : State) : ∃ s1, execRiseRoom pt obj s = .next s1 ∧ Keeps s s1 := by
  refine ⟨_, rfl, ?_⟩
  have hk := Keeps.refl s
  repeat' (first | (with_reducible assumption) | (with_reducible apply State.riseRoom_keeps) | (dsimp only))

theorem execInfuserChunkDone_keeps (h : Fin 4) (fault : Bool) (s : State) : ∃ s1, execInfuserChunkDone h fault s = .next s1 ∧ Keeps s s1 := by
  refine ⟨_, rfl, ?_⟩
  have hk := Keeps.refl s
  repeat' (first | (with_reducible assumption) | (with_reducible apply State.infuserChunk_keeps) | (dsimp only))

theorem execRiseComplete_keeps (pt : Fin 8) (obj : Nat) (s : State) : ∃ s1, execRiseComplete pt obj s = .next s1 ∧ Keeps s s1 := by
  refine ⟨_, rfl, ?_⟩
  have hk := Keeps.refl s
  repeat' (first | (with_reducible assumption) | (with_reducible apply State.riseComplete_keeps) | (dsimp only))

theorem execResidencyDeadlock_keeps (pt : Fin 8) (obj : Nat) (s : State) : ∃ s1, execResidencyDeadlock pt obj s = .next s1 ∧ Keeps s s1 := by
  refine ⟨_, rfl, ?_⟩
  have hk := Keeps.refl s
  repeat' (first | (with_reducible assumption) | (with_reducible apply State.residencyDeadlock_keeps) | (dsimp only))

theorem execSinkReleasePoint_keeps (pt : Fin 8) (obj : Nat) (s : State) : ∃ s1, execSinkReleasePoint pt obj s = .next s1 ∧ Keeps s s1 := by
  refine ⟨_, rfl, ?_⟩
  have hk := Keeps.refl s
  repeat' (first | (with_reducible assumption) | (with_reducible apply State.sinkRelease_keeps) | (dsimp only))

theorem execDrainEnd_keeps (pt : Fin 8) (obj : Nat) (s : State) : ∃ s1, execDrainEnd pt obj s = .next s1 ∧ Keeps s s1 := by
  refine ⟨_, rfl, ?_⟩
  have hk := Keeps.refl s
  repeat' (first | (with_reducible assumption) | (with_reducible apply State.drainEnd_keeps) | (dsimp only))

theorem execShadowFill_keeps (pt : Fin 8) (obj : Nat) (granule : Nat) (n : Fin 4096) (s : State) : ∃ s1, execShadowFill pt obj granule n s = .next s1 ∧ Keeps s s1 := by
  refine ⟨_, rfl, ?_⟩
  have hk := Keeps.refl s
  repeat' (first | (with_reducible assumption) | (with_reducible apply State.shadowFill_keeps) | (dsimp only))

end Sys2Proof.Machine
end

