-- ==== Sys2Proof/Laws/KeepsCare.lean ====
section
/-!
SUPPORT. What Machine/Care.lean keeps: the queue, the time, the fused limits, and safety.
-/

namespace Sys2Proof.Machine

theorem State.needsService_keeps {s0 : State} (s : State) (reason : Nat) (hk : Keeps s0 s) : Keeps s0 (State.needsService s reason) := by
  unfold State.needsService
  try dsimp only
  repeat' (first | (with_reducible assumption) | (with_reducible apply State.withStatus_keeps)
                 | (with_reducible apply keeps_onMgmt _ (fun h => h)) | (dsimp only) | (split)
                 | (with_reducible refine keeps_onMgmt _ (fun hm => ?_) ?_) | (exact hm) | (with_reducible rfl)
                 | (intro _; try dsimp only))

theorem State.serviced_keeps {s0 : State} (s : State) (reason : Nat) (hk : Keeps s0 s) : Keeps s0 (State.serviced s reason) := by
  unfold State.serviced
  try dsimp only
  repeat' (first | (with_reducible assumption) | (with_reducible apply keeps_onMgmt _ (fun h => h)) | (dsimp only)
                 | (with_reducible refine keeps_onMgmt _ (fun hm => ?_) ?_) | (exact hm) | (with_reducible rfl)
                 | (intro _; try dsimp only))

theorem State.sensor_keeps {s0 : State} (s : State) (id : Nat) (v : Option Int) (hk : Keeps s0 s) : Keeps s0 (State.sensor s id v) := by
  unfold State.sensor
  try dsimp only
  repeat' (first | (with_reducible assumption) | (with_reducible apply keeps_onMgmt _ (fun h => h)) | (dsimp only)
                 | (with_reducible refine keeps_onMgmt _ (fun hm => ?_) ?_) | (exact hm) | (with_reducible rfl)
                 | (intro _; try dsimp only))

theorem State.callL4_keeps {s0 : State} (s : State) (hk : Keeps s0 s) : Keeps s0 (State.callL4 s) := by
  unfold State.callL4
  try dsimp only
  repeat' (first | (with_reducible assumption) | (with_reducible apply keeps_onDev) | (with_reducible apply keeps_onMgmt _ (fun h => h))
                 | (dsimp only) | (with_reducible refine keeps_onMgmt _ (fun hm => ?_) ?_) | (exact hm) | (with_reducible rfl)
                 | (intro _; try dsimp only))

theorem State.callL3_keeps {s0 : State} (s : State) (hk : Keeps s0 s) : Keeps s0 (State.callL3 s) := by
  unfold State.callL3
  try dsimp only
  repeat' (first | (with_reducible assumption) | (with_reducible apply State.callL4_keeps) | (with_reducible apply keeps_onDev)
                 | (with_reducible apply keeps_onMgmt _ (fun h => h)) | (dsimp only) | (split)
                 | (with_reducible refine keeps_onMgmt _ (fun hm => ?_) ?_) | (exact hm) | (with_reducible rfl)
                 | (intro _; try dsimp only))

theorem State.awake_keeps {s0 : State} (s : State) (hk : Keeps s0 s) : Keeps s0 (State.awake s) := by
  unfold State.awake
  try dsimp only
  repeat' (first | (with_reducible assumption) | (with_reducible apply State.withStatus_keeps) | (with_reducible apply keeps_onDev)
                 | (with_reducible apply keeps_onPow _ rfl rfl (fun h => h)) | (dsimp only) | (split)
                 | (with_reducible refine keeps_onPow _ ?_ ?_ (fun hm => ?_) ?_) | (exact hm) | (with_reducible rfl)
                 | (intro _; try dsimp only))

end Sys2Proof.Machine
end

