-- ==== Sys2Proof/Laws/KeepsFabric.lean ====
section
/-!
SUPPORT. What Machine/Fabric.lean keeps: the queue, the time, the fused limits, and safety.
-/

namespace Sys2Proof.Machine

theorem State.retrained_keeps {s0 : State} (s : State) (l : Nat) (bad : List Nat) (hk : Keeps s0 s) : Keeps s0 (State.retrained s l bad) := by
  unfold State.retrained
  try dsimp only
  repeat' (first | (with_reducible assumption) | (with_reducible apply State.log_keeps) | (with_reducible apply State.needsService_keeps)
                 | (with_reducible apply keeps_onDev) | (with_reducible apply keeps_foldl) | (with_reducible apply keeps_foldl1)
                 | (dsimp only) | (split) | (intro _; try dsimp only))

theorem State.absentAt_keeps {s0 : State} (s : State) (port : Nat) (r : Nat) (absent : Bool) (hk : Keeps s0 s) : Keeps s0 (State.absentAt s port r absent) := by
  unfold State.absentAt
  try dsimp only
  repeat' (first | (with_reducible assumption) | (with_reducible apply keeps_onDev) | (dsimp only)
                 | ((with_reducible refine keeps_onMem _ (fun hm => ?_) ?_); first | (with_reducible exact writeLine_wf _ _ _ _ _ hm) | (with_reducible exact Memory.zero_wf _ _ _ hm) | (with_reducible exact Memory.zero_wf _ _ _ (Memory.zero_wf _ _ _ hm)) | exact hm | skip)
                 | (exact hm) | (intro _; try dsimp only))

theorem State.linkFails_keeps {s0 : State} (s : State) (l : Nat) (hk : Keeps s0 s) : Keeps s0 (State.linkFails s l) := by
  unfold State.linkFails
  try dsimp only
  repeat' (first | (with_reducible assumption) | (with_reducible apply State.callL3_keeps) | (with_reducible apply State.log_keeps)
                 | (with_reducible apply keeps_onDev) | (dsimp only) | (split)
                 | ((with_reducible refine keeps_onMem _ (fun hm => ?_) ?_); first | (with_reducible exact writeLine_wf _ _ _ _ _ hm) | (with_reducible exact Memory.zero_wf _ _ _ hm) | (with_reducible exact Memory.zero_wf _ _ _ (Memory.zero_wf _ _ _ hm)) | exact hm | skip)
                 | (exact hm) | (intro _; try dsimp only))

theorem execLinkReplay_keeps (link : Fin 50) (succeeded : Bool) (s : State) : ∃ s1, execLinkReplay link succeeded s = .next s1 ∧ Keeps s s1 := by
  refine ⟨_, rfl, ?_⟩
  have hk := Keeps.refl s
  repeat' (first | (with_reducible assumption) | (with_reducible apply keeps_onDev) | (dsimp only) | (split) | (intro _; try dsimp only))

theorem execLinkRetrained_keeps (link : Fin 50) (badLanes : List Nat) (s : State) : ∃ s1, execLinkRetrained link badLanes s = .next s1 ∧ Keeps s s1 := by
  refine ⟨_, rfl, ?_⟩
  have hk := Keeps.refl s
  repeat' (first | (with_reducible assumption) | (with_reducible apply State.retrained_keeps) | (dsimp only))

theorem execLinkFailed_keeps (link : Fin 50) (s : State) : ∃ s1, execLinkFailed link s = .next s1 ∧ Keeps s s1 := by
  refine ⟨_, rfl, ?_⟩
  have hk := Keeps.refl s
  repeat' (first | (with_reducible assumption) | (with_reducible apply State.linkFails_keeps) | (dsimp only))

theorem execPortRequest_keeps (port : Nat) (requester : Nat) (b : Burst) (s : State) : ∃ s1, execPortRequest port requester b s = .next s1 ∧ Keeps s s1 := by
  refine ⟨_, rfl, ?_⟩
  have hk := Keeps.refl s
  repeat' (first | (with_reducible assumption) | (with_reducible apply keeps_onDev) | (dsimp only) | (split) | (intro _; try dsimp only))

theorem execArbiterGrant_keeps (port : Nat) (s : State) : ∃ s1, execArbiterGrant port s = .next s1 ∧ Keeps s s1 := by
  refine ⟨_, rfl, ?_⟩
  have hk := Keeps.refl s
  repeat' (first | (with_reducible assumption) | (with_reducible apply keeps_onDev) | (dsimp only) | (intro _; try dsimp only))

theorem execRequesterAbsent_keeps (port : Nat) (requester : Nat) (absent : Bool) (s : State) : ∃ s1, execRequesterAbsent port requester absent s = .next s1 ∧ Keeps s s1 := by
  refine ⟨_, rfl, ?_⟩
  have hk := Keeps.refl s
  repeat' (first | (with_reducible assumption) | (with_reducible apply State.absentAt_keeps) | (dsimp only))

end Sys2Proof.Machine
end

