-- ==== Sys2Proof/Laws/KeepsHomes.lean ====
section
/-!
SUPPORT. What Machine/Homes.lean keeps: the queue, the time, the fused limits, and safety.
-/

namespace Sys2Proof.Machine

theorem State.hbmCorrected_keeps {s0 : State} (s : State) (st : Nat) (p : Nat) (line : Nat) (hk : Keeps s0 s) : Keeps s0 (State.hbmCorrected s st p line) := by
  unfold State.hbmCorrected
  try dsimp only
  repeat' (first | (with_reducible assumption) | (with_reducible apply State.log_keeps) | (with_reducible apply keeps_onDev)
                 | (dsimp only) | (split) | (intro _; try dsimp only))

theorem State.hbmDetected_keeps {s0 : State} (s : State) (st : Nat) (p : Nat) (line : Nat) (hk : Keeps s0 s) : Keeps s0 (State.hbmDetected s st p line) := by
  unfold State.hbmDetected
  try dsimp only
  repeat' (first | (with_reducible assumption) | (with_reducible apply State.log_keeps) | (with_reducible apply keeps_onDev)
                 | (dsimp only) | (split)
                 | ((with_reducible refine keeps_onMem _ (fun hm => ?_) ?_); first | (with_reducible exact writeLine_wf _ _ _ _ _ hm) | (with_reducible exact Memory.zero_wf _ _ _ hm) | (with_reducible exact Memory.zero_wf _ _ _ (Memory.zero_wf _ _ _ hm)) | exact hm | skip)
                 | (exact hm) | (intro _; try dsimp only))

theorem State.caddyCorrected_keeps {s0 : State} (s : State) (ch : Nat) (hk : Keeps s0 s) : Keeps s0 (State.caddyCorrected s ch) := by
  unfold State.caddyCorrected
  try dsimp only
  repeat' (first | (with_reducible assumption) | (with_reducible apply State.log_keeps) | (with_reducible apply keeps_onDev)
                 | (dsimp only) | (split) | (intro _; try dsimp only))

theorem State.homeChecked_keeps {s0 : State} (s : State) (pa : Nat) (chk : Check) (hk : Keeps s0 s) : Keeps s0 (State.homeChecked s pa chk) := by
  unfold State.homeChecked
  try dsimp only
  repeat' (first | (with_reducible assumption) | (with_reducible apply State.caddyCorrected_keeps)
                 | (with_reducible apply State.hbmCorrected_keeps) | (with_reducible apply State.hbmDetected_keeps) | (dsimp only)
                 | (split))

theorem State.land_keeps {s0 : State} (s : State) (id : Nat) (hk : Keeps s0 s) : Keeps s0 (State.land s id) := by
  unfold State.land
  try dsimp only
  repeat' (first | (with_reducible assumption) | (with_reducible apply State.homeWrite_keeps) | (with_reducible apply keeps_onDev)
                 | (dsimp only) | (split)
                 | ((with_reducible refine keeps_onMem _ (fun hm => ?_) ?_); first | (with_reducible exact writeLine_wf _ _ _ _ _ hm) | (with_reducible exact Memory.zero_wf _ _ _ hm) | (with_reducible exact Memory.zero_wf _ _ _ (Memory.zero_wf _ _ _ hm)) | exact hm | skip)
                 | (exact hm) | (intro _; try dsimp only))

theorem State.rowRepair_keeps {s0 : State} (s : State) (st : Nat) (p : Nat) (bank : Nat) (row : Nat) (hk : Keeps s0 s) : Keeps s0 (State.rowRepair s st p bank row) := by
  unfold State.rowRepair
  try dsimp only
  repeat' (first | (with_reducible assumption) | (with_reducible apply State.log_keeps) | (with_reducible apply keeps_onDev)
                 | (dsimp only) | (split) | (intro _; try dsimp only))

theorem State.laneFound_keeps {s0 : State} (s : State) (l : List LaneFinding) (hk : Keeps s0 s) : Keeps s0 (State.laneFound s l) := by
  unfold State.laneFound
  try dsimp only
  repeat' (first | (with_reducible assumption) | (with_reducible apply State.log_keeps) | (with_reducible apply keeps_onDev)
                 | (with_reducible apply keeps_foldl) | (with_reducible apply keeps_foldl1) | (dsimp only) | (split)
                 | (intro _; try dsimp only))

theorem State.retirePc_keeps {s0 : State} (s : State) (st : Nat) (p : Nat) (hk : Keeps s0 s) : Keeps s0 (State.retirePc s st p) := by
  unfold State.retirePc
  try dsimp only
  repeat' (first | (with_reducible assumption) | (with_reducible apply State.log_keeps) | (with_reducible apply State.needsService_keeps)
                 | (with_reducible apply keeps_onDev) | (with_reducible apply keeps_foldl) | (with_reducible apply keeps_foldl1)
                 | (dsimp only) | (split) | (intro _; try dsimp only))

theorem State.retireChan_keeps {s0 : State} (s : State) (ch : Nat) (hk : Keeps s0 s) : Keeps s0 (State.retireChan s ch) := by
  unfold State.retireChan
  try dsimp only
  repeat' (first | (with_reducible assumption) | (with_reducible apply State.callL4_keeps) | (with_reducible apply State.log_keeps)
                 | (with_reducible apply State.needsService_keeps) | (with_reducible apply keeps_onDev) | (dsimp only) | (split)
                 | (intro _; try dsimp only))

theorem execHomeWrite_keeps (id : Nat) (s : State) : ∃ s1, execHomeWrite id s = .next s1 ∧ Keeps s s1 := by
  refine ⟨_, rfl, ?_⟩
  have hk := Keeps.refl s
  repeat' (first | (with_reducible assumption) | (with_reducible apply State.land_keeps) | (dsimp only))

theorem execPatrolScrub_keeps (pa : Nat) (chk : Check) (s : State) : ∃ s1, execPatrolScrub pa chk s = .next s1 ∧ Keeps s s1 := by
  refine ⟨_, rfl, ?_⟩
  have hk := Keeps.refl s
  repeat' (first | (with_reducible assumption) | (with_reducible apply State.homeChecked_keeps) | (dsimp only) | (split))

theorem execRowRepair_keeps (stack : Fin 24) (pc : Fin 32) (bank : Nat) (row : Nat) (s : State) : ∃ s1, execRowRepair stack pc bank row s = .next s1 ∧ Keeps s s1 := by
  refine ⟨_, rfl, ?_⟩
  have hk := Keeps.refl s
  repeat' (first | (with_reducible assumption) | (with_reducible apply State.rowRepair_keeps) | (dsimp only))

theorem execPseudoChannelRetirement_keeps (stack : Fin 24) (pc : Fin 32) (s : State) : ∃ s1, execPseudoChannelRetirement stack pc s = .next s1 ∧ Keeps s s1 := by
  refine ⟨_, rfl, ?_⟩
  have hk := Keeps.refl s
  repeat' (first | (with_reducible assumption) | (with_reducible apply State.retirePc_keeps) | (dsimp only))

theorem execHbmTemperatureRead_keeps (stack : Fin 24) (quarter : Int) (s : State) : ∃ s1, execHbmTemperatureRead stack quarter s = .next s1 ∧ Keeps s s1 := by
  refine ⟨_, rfl, ?_⟩
  have hk := Keeps.refl s
  repeat' (first | (with_reducible assumption) | (with_reducible apply State.sensor_keeps) | (with_reducible apply keeps_onDev)
                 | (dsimp only) | (intro _; try dsimp only))

theorem execRefreshStepDown_keeps (stack : Fin 24) (s : State) : ∃ s1, execRefreshStepDown stack s = .next s1 ∧ Keeps s s1 := by
  refine ⟨_, rfl, ?_⟩
  have hk := Keeps.refl s
  repeat' (first | (with_reducible assumption) | (with_reducible apply keeps_onDev) | (dsimp only) | (intro _; try dsimp only))

theorem execCaddyRetry_keeps (chan : Fin 52) (succeeded : Bool) (s : State) : ∃ s1, execCaddyRetry chan succeeded s = .next s1 ∧ Keeps s s1 := by
  refine ⟨_, rfl, ?_⟩
  have hk := Keeps.refl s
  repeat' (first | (with_reducible assumption) | (with_reducible apply State.retry_keeps) | (with_reducible apply keeps_onDev)
                 | (dsimp only) | (intro _; try dsimp only))

theorem execCaddyChannelRetired_keeps (chan : Fin 52) (s : State) : ∃ s1, execCaddyChannelRetired chan s = .next s1 ∧ Keeps s s1 := by
  refine ⟨_, rfl, ?_⟩
  have hk := Keeps.refl s
  repeat' (first | (with_reducible assumption) | (with_reducible apply State.retireChan_keeps) | (dsimp only))

theorem execStripeBufferFlush_keeps (h : Fin 4) (stripe : Nat) (s : State) : ∃ s1, execStripeBufferFlush h stripe s = .next s1 ∧ Keeps s s1 := by
  refine ⟨_, rfl, ?_⟩
  have hk := Keeps.refl s
  repeat' (first | (with_reducible assumption) | (with_reducible apply keeps_onDev) | (dsimp only) | (intro _; try dsimp only))

end Sys2Proof.Machine
end

