-- ==== Sys2Proof/Laws/KeepsRegs.lean ====
section
/-!
SUPPORT. What Machine/Regs.lean keeps: the queue, the time, the fused limits, and safety.
-/

namespace Sys2Proof.Machine

theorem Pow.weRead_same (w : Pow) (off : Nat) : SameLimits w (w.weRead off) := by
  unfold Pow.weRead
  split <;> exact ⟨rfl, rfl, rfl⟩

theorem Pow.weWrite_same (w : Pow) (off v : Nat) : SameLimits w (w.weWrite off v) := by
  unfold Pow.weWrite
  dsimp only
  split <;> exact ⟨rfl, rfl, rfl⟩

theorem State.csrWrite_keeps {s0 : State} (s : State) (i : Nat) (csr : Nat) (v : Word) (hk : Keeps s0 s) : Keeps s0 (State.csrWrite s i csr v) := by
  unfold State.csrWrite
  try dsimp only
  repeat' (first | (with_reducible assumption) | (with_reducible apply State.modC_keeps) | (with_reducible apply keeps_onDev)
                 | (dsimp only) | (split) | (intro _; try dsimp only))

theorem State.csrOp_keeps {s0 : State} (s : State) (i : Nat) (csr : Nat) (op : CsrOp) (rd : Fin 32) (rs1 : Fin 32) (hk : Keeps s0 s) : Keeps s0 (State.csrOp s i csr op rd rs1) := by
  unfold State.csrOp
  try dsimp only
  repeat' (first | (with_reducible assumption) | (with_reducible apply State.csrWrite_keeps) | (with_reducible apply State.done_keeps)
                 | (with_reducible apply State.kqcvtOp_keeps) | (with_reducible apply State.trap_keeps) | (dsimp only) | (split))

end Sys2Proof.Machine
end

