-- ==== Sys2Proof/Laws/KeepsCores.lean ====
section
/-!
SUPPORT. What Machine/Cores.lean keeps: the queue, the time, the fused limits, and safety.
-/

namespace Sys2Proof.Machine

theorem State.cleanLine_keeps {s0 : State} (s : State) (line : Nat) (hk : Keeps s0 s) : Keeps s0 (State.cleanLine s line) := by
  unfold State.cleanLine
  try dsimp only
  repeat' (first | (with_reducible assumption) | (with_reducible apply keeps_onDev) | (dsimp only) | (split)
                 | ((with_reducible refine keeps_onMem _ (fun hm => ?_) ?_); first | (with_reducible exact writeLine_wf _ _ _ _ _ hm) | (with_reducible exact Memory.zero_wf _ _ _ hm) | (with_reducible exact Memory.zero_wf _ _ _ (Memory.zero_wf _ _ _ hm)) | exact hm | skip)
                 | (exact hm) | (intro _; try dsimp only))

theorem State.makeRoom_keeps {s0 : State} (s : State) (c : Nat) (hk : Keeps s0 s) : Keeps s0 (State.makeRoom s c) := by
  unfold State.makeRoom
  try dsimp only
  repeat' (first | (with_reducible assumption) | (with_reducible apply State.cleanLine_keeps) | (with_reducible apply keeps_onDev)
                 | (dsimp only) | (split) | (intro _; try dsimp only))

theorem State.holds_keeps {s0 : State} (s : State) (c : Nat) (line : Nat) (hk : Keeps s0 s) : Keeps s0 (State.holds s c line) := by
  unfold State.holds
  try dsimp only
  repeat' (first | (with_reducible assumption) | (with_reducible apply State.makeRoom_keeps) | (with_reducible apply keeps_onDev)
                 | (dsimp only) | (split) | (intro _; try dsimp only))

theorem State.freeObject_keeps {s0 : State} (s : State) (pa : Nat) (hk : Keeps s0 s) : Keeps s0 (State.freeObject s pa) := by
  unfold State.freeObject
  try dsimp only
  repeat' (first | (with_reducible assumption) | (with_reducible apply State.freeLine_keeps) | (with_reducible apply keeps_onDev)
                 | (with_reducible apply keeps_foldl) | (with_reducible apply keeps_foldl1) | (dsimp only) | (split)
                 | (intro _; try dsimp only))

theorem State.coreLine_keeps {s0 : State} (s : State) (c : Nat) (nc : Bool) (w : Nat × BitVec 128 × Bytes) (hk : Keeps s0 s) : Keeps s0 (State.coreLine s c nc w) := by
  unfold State.coreLine
  try dsimp only
  repeat' (first | (with_reducible assumption) | (with_reducible apply State.freeObject_keeps)
                 | (with_reducible apply State.homeWrite_keeps) | (with_reducible apply State.makeRoom_keeps)
                 | (with_reducible apply keeps_onDev) | (dsimp only) | (split) | (intro _; try dsimp only))

theorem State.perform_keeps {s0 : State} (s : State) (c : Nat) (e : SbEntry) (hk : Keeps s0 s) : Keeps s0 (State.perform s c e) := by
  unfold State.perform
  try dsimp only
  repeat' (first | (with_reducible assumption) | (with_reducible apply State.coreLine_keeps) | (with_reducible apply keeps_foldl)
                 | (with_reducible apply keeps_foldl1) | (dsimp only) | (intro _; try dsimp only))

theorem State.drainN_keeps {s0 : State} (s : State) (c : Nat) (n : Nat) (hk : Keeps s0 s) : Keeps s0 (State.drainN s c n) := by
  unfold State.drainN
  try dsimp only
  repeat' (first | (with_reducible assumption) | (with_reducible apply State.enter_keeps) | (with_reducible apply State.perform_keeps)
                 | (with_reducible apply keeps_onDev) | (with_reducible apply keeps_foldl) | (with_reducible apply keeps_foldl1)
                 | (dsimp only) | (intro _; try dsimp only))

theorem State.drain_keeps {s0 : State} (s : State) (c : Nat) (hk : Keeps s0 s) : Keeps s0 (State.drain s c) := by
  unfold State.drain
  try dsimp only
  repeat' (first | (with_reducible assumption) | (with_reducible apply State.drainN_keeps) | (dsimp only))

theorem State.settleLine_keeps {s0 : State} (s : State) (c : Nat) (line : Nat) (hk : Keeps s0 s) : Keeps s0 (State.settleLine s c line) := by
  unfold State.settleLine
  try dsimp only
  repeat' (first | (with_reducible assumption) | (with_reducible apply State.drainN_keeps) | (dsimp only))

theorem State.except_keeps {s0 : State} (s : State) (c : Nat) (cause : Nat) (hk : Keeps s0 s) : Keeps s0 (State.except s c cause) := by
  unfold State.except
  try dsimp only
  repeat' (first | (with_reducible assumption) | (with_reducible apply State.drain_keeps) | (with_reducible apply keeps_onDev)
                 | (dsimp only) | (intro _; try dsimp only))

theorem State.coreStep_keeps {s0 : State} (s : State) (c : Nat) (h : HPre) (f : State → State) (hk : Keeps s0 s) (hf : ∀ z0, Keeps s0 z0 → Keeps s0 (f z0)) : Keeps s0 (State.coreStep s c h f) := by
  unfold State.coreStep
  try dsimp only
  repeat' (first | (with_reducible assumption) | (with_reducible apply hf) | (with_reducible apply keeps_onDev) | (dsimp only) | (split)
                 | (intro _; try dsimp only))

theorem State.bootPut_keeps {s0 : State} (s : State) (p : Nat) (off : Nat) (n : Nat) (v : Nat) (hk : Keeps s0 s) : Keeps s0 (State.bootPut s p off n v) := by
  unfold State.bootPut
  try dsimp only
  repeat' (first | (with_reducible assumption) | (with_reducible apply State.writePa_keeps) | (dsimp only))

theorem State.rollbackNotice_keeps {s0 : State} (s : State) (p : Nat) (hk : Keeps s0 s) : Keeps s0 (State.rollbackNotice s p) := by
  unfold State.rollbackNotice
  try dsimp only
  repeat' (first | (with_reducible assumption) | (with_reducible apply State.bootPut_keeps) | (with_reducible apply keeps_onDev)
                 | (dsimp only) | (intro _; try dsimp only))

theorem State.markCaddy_keeps {s0 : State} (s : State) (line : Nat) (hk : Keeps s0 s) : Keeps s0 (State.markCaddy s line) := by
  unfold State.markCaddy
  try dsimp only
  repeat' (first | (with_reducible assumption) | (with_reducible apply State.log_keeps) | (dsimp only)
                 | ((with_reducible refine keeps_onMem _ (fun hm => ?_) ?_); first | (with_reducible exact writeLine_wf _ _ _ _ _ hm) | (with_reducible exact Memory.zero_wf _ _ _ hm) | (with_reducible exact Memory.zero_wf _ _ _ (Memory.zero_wf _ _ _ hm)) | exact hm | skip)
                 | (exact hm) | (intro _; try dsimp only))

theorem State.hartLost_keeps {s0 : State} (s : State) (c : Nat) (hk : Keeps s0 s) : Keeps s0 (State.hartLost s c) := by
  unfold State.hartLost
  try dsimp only
  repeat' (first | (with_reducible assumption) | (with_reducible apply State.bootPut_keeps) | (with_reducible apply State.log_keeps)
                 | (with_reducible apply State.markCaddy_keeps) | (with_reducible apply State.needsService_keeps)
                 | (with_reducible apply keeps_onDev) | (with_reducible apply keeps_onMgmt _ (fun h => h))
                 | (with_reducible apply keeps_foldl) | (with_reducible apply keeps_foldl1) | (dsimp only) | (split)
                 | (with_reducible refine keeps_onMgmt _ (fun hm => ?_) ?_) | (exact hm) | (with_reducible rfl)
                 | (intro _; try dsimp only))

theorem State.emptyCaches_keeps {s0 : State} (s : State) (c : Nat) (hk : Keeps s0 s) : Keeps s0 (State.emptyCaches s c) := by
  unfold State.emptyCaches
  try dsimp only
  repeat' (first | (with_reducible assumption) | (with_reducible apply State.cleanLine_keeps) | (with_reducible apply keeps_onDev)
                 | (with_reducible apply keeps_foldl) | (with_reducible apply keeps_foldl1) | (dsimp only) | (intro _; try dsimp only))

theorem State.coreWay_keeps {s0 : State} (s : State) (c : Nat) (lv : Nat) (way : Nat) (hk : Keeps s0 s) : Keeps s0 (State.coreWay s c lv way) := by
  unfold State.coreWay
  try dsimp only
  repeat' (first | (with_reducible assumption) | (with_reducible apply State.emptyCaches_keeps)
                 | (with_reducible apply State.hartLost_keeps) | (with_reducible apply keeps_onDev) | (with_reducible apply keeps_foldl)
                 | (with_reducible apply keeps_foldl1) | (dsimp only) | (split) | (intro _; try dsimp only))

theorem State.cacheCheck_keeps {s0 : State} (s : State) (c : Nat) (line : Nat) (hit : Option (Fin 2 × Fin 16 × Check)) (hk : Keeps s0 s) : Keeps s0 (State.cacheCheck s c line hit).1 := by
  unfold State.cacheCheck
  try dsimp only
  repeat' (first | (with_reducible assumption) | (with_reducible apply State.coreWay_keeps) | (with_reducible apply State.hartLost_keeps)
                 | (with_reducible apply keeps_onDev) | (dsimp only) | (split) | (intro _; try dsimp only))

theorem State.coreMem_keeps {s0 : State} (s : State) (c : Nat) (h : HPre) (use : PageUse) (va : Nat) (n : Nat) (f : List Piece → State → State) (hk : Keeps s0 s) (hf : ∀ z0 z1, Keeps s0 z1 → Keeps s0 (f z0 z1)) : Keeps s0 (State.coreMem s c h use va n f) := by
  unfold State.coreMem
  try dsimp only
  repeat' (first | (with_reducible assumption) | (with_reducible apply State.cacheCheck_keeps)
                 | (with_reducible apply State.coreStep_keeps) | (with_reducible apply State.except_keeps) | (with_reducible apply hf)
                 | (dsimp only) | (split) | (intro _; try dsimp only))

theorem State.fileWrite_keeps {s0 : State} (s : State) (p : Nat) (hart : Nat) (f : Nat) (off : Nat) (v : Nat) (hk : Keeps s0 s) : Keeps s0 (State.fileWrite s p hart f off v) := by
  unfold State.fileWrite
  try dsimp only
  repeat' (first | (with_reducible assumption) | (with_reducible apply State.drain_keeps) | (with_reducible apply keeps_onDev)
                 | (dsimp only) | (split) | (intro _; try dsimp only))

theorem State.ioAccess_keeps {s0 : State} (s : State) (c : Nat) (a : Nat) (n : Nat) (store : Option Word) (hk : Keeps s0 s) : Keeps s0 (State.ioAccess s c a n store) := by
  unfold State.ioAccess
  try dsimp only
  repeat' (first | (with_reducible assumption) | (with_reducible apply State.drain_keeps) | (with_reducible apply State.except_keeps)
                 | (with_reducible apply State.fileWrite_keeps) | (with_reducible apply State.took_keeps)
                 | (with_reducible apply keeps_onDev) | (dsimp only) | (split) | (intro _; try dsimp only))

theorem State.beforeLoad_keeps {s0 : State} (s : State) (c : Nat) (p : Piece) (hk : Keeps s0 s) : Keeps s0 (State.beforeLoad s c p) := by
  unfold State.beforeLoad
  try dsimp only
  repeat' (first | (with_reducible assumption) | (with_reducible apply State.drain_keeps) | (with_reducible apply State.settleLine_keeps)
                 | (dsimp only) | (split))

theorem State.coreLoad_keeps {s0 : State} (s : State) (c : Nat) (l : List Piece) (hk : Keeps s0 s) : Keeps s0 (State.coreLoad s c l) := by
  unfold State.coreLoad
  try dsimp only
  repeat' (first | (with_reducible assumption) | (with_reducible apply State.beforeLoad_keeps) | (with_reducible apply State.except_keeps)
                 | (with_reducible apply State.holds_keeps) | (with_reducible apply State.ioAccess_keeps)
                 | (with_reducible apply keeps_onDev) | (with_reducible apply keeps_foldl) | (with_reducible apply keeps_foldl1)
                 | (dsimp only) | (split) | (intro _; try dsimp only))

theorem State.coreStore_keeps {s0 : State} (s : State) (c : Nat) (l : List Piece) (v : Word) (hk : Keeps s0 s) : Keeps s0 (State.coreStore s c l v) := by
  unfold State.coreStore
  try dsimp only
  repeat' (first | (with_reducible assumption) | (with_reducible apply State.drain_keeps) | (with_reducible apply State.enter_keeps)
                 | (with_reducible apply State.except_keeps) | (with_reducible apply State.ioAccess_keeps)
                 | (with_reducible apply keeps_onDev) | (dsimp only) | (split) | (intro _; try dsimp only))

theorem State.beforeAtomic_keeps {s0 : State} (s : State) (c : Nat) (a : Nat) (rl : Bool) (hk : Keeps s0 s) : Keeps s0 (State.beforeAtomic s c a rl) := by
  unfold State.beforeAtomic
  try dsimp only
  repeat' (first | (with_reducible assumption) | (with_reducible apply State.drain_keeps) | (with_reducible apply State.settleLine_keeps)
                 | (dsimp only) | (split))

theorem State.coreAmo_keeps {s0 : State} (s : State) (c : Nat) (a : Nat) (dbl : Bool) (rl : Bool) (op : AmoOp) (v : Word) (hk : Keeps s0 s) : Keeps s0 (State.coreAmo s c a dbl rl op v) := by
  unfold State.coreAmo
  try dsimp only
  repeat' (first | (with_reducible assumption) | (with_reducible apply State.beforeAtomic_keeps)
                 | (with_reducible apply State.except_keeps) | (with_reducible apply State.writePa_keeps)
                 | (with_reducible apply keeps_onDev) | (dsimp only) | (split) | (intro _; try dsimp only))

theorem State.coreLr_keeps {s0 : State} (s : State) (c : Nat) (a : Nat) (dbl : Bool) (rl : Bool) (hk : Keeps s0 s) : Keeps s0 (State.coreLr s c a dbl rl) := by
  unfold State.coreLr
  try dsimp only
  repeat' (first | (with_reducible assumption) | (with_reducible apply State.beforeAtomic_keeps)
                 | (with_reducible apply State.except_keeps) | (with_reducible apply keeps_onDev) | (dsimp only) | (split)
                 | (intro _; try dsimp only))

theorem State.coreSc_keeps {s0 : State} (s : State) (c : Nat) (a : Nat) (dbl : Bool) (rl : Bool) (v : Word) (hk : Keeps s0 s) : Keeps s0 (State.coreSc s c a dbl rl v) := by
  unfold State.coreSc
  try dsimp only
  repeat' (first | (with_reducible assumption) | (with_reducible apply State.beforeAtomic_keeps)
                 | (with_reducible apply State.except_keeps) | (with_reducible apply State.writePa_keeps)
                 | (with_reducible apply keeps_onDev) | (dsimp only) | (split) | (intro _; try dsimp only))

theorem State.atomic_keeps {s0 : State} (s : State) (c : Nat) (l : List Piece) (f : Nat → State → State) (hk : Keeps s0 s) (hf : ∀ z0 z1, Keeps s0 z1 → Keeps s0 (f z0 z1)) : Keeps s0 (State.atomic s c l f) := by
  unfold State.atomic
  try dsimp only
  repeat' (first | (with_reducible assumption) | (with_reducible apply State.except_keeps) | (with_reducible apply hf) | (dsimp only)
                 | (split))

theorem State.flushLine_keeps {s0 : State} (s : State) (line : Nat) (hk : Keeps s0 s) : Keeps s0 (State.flushLine s line) := by
  unfold State.flushLine
  try dsimp only
  repeat' (first | (with_reducible assumption) | (with_reducible apply State.cleanLine_keeps) | (with_reducible apply keeps_onDev)
                 | (dsimp only) | (intro _; try dsimp only))

theorem State.cbo_keeps {s0 : State} (s : State) (c : Nat) (l : List Piece) (f : State → Nat → State) (hk : Keeps s0 s) (hf : ∀ z0 z1, Keeps s0 z0 → Keeps s0 (f z0 z1)) : Keeps s0 (State.cbo s c l f) := by
  unfold State.cbo
  try dsimp only
  repeat' (first | (with_reducible assumption) | (with_reducible apply State.except_keeps) | (with_reducible apply State.settleLine_keeps)
                 | (with_reducible apply hf) | (dsimp only) | (split))

theorem State.prefetch_keeps {s0 : State} (s : State) (c : Nat) (va : Nat) (hk : Keeps s0 s) : Keeps s0 (State.prefetch s c va) := by
  unfold State.prefetch
  try dsimp only
  repeat' (first | (with_reducible assumption) | (with_reducible apply State.holds_keeps) | (dsimp only) | (split))

theorem State.bootStart_keeps {s0 : State} (s : State) (p : Nat) (hk : Keeps s0 s) : Keeps s0 (State.bootStart s p) := by
  unfold State.bootStart
  try dsimp only
  repeat' (first | (with_reducible assumption) | (with_reducible apply State.bootPut_keeps) | (with_reducible apply keeps_onDev)
                 | (with_reducible apply keeps_foldl) | (with_reducible apply keeps_foldl1) | (dsimp only) | (split)
                 | (intro _; try dsimp only))

theorem State.stopHarts_keeps {s0 : State} (s : State) (p : Nat) (hk : Keeps s0 s) : Keeps s0 (State.stopHarts s p) := by
  unfold State.stopHarts
  try dsimp only
  repeat' (first | (with_reducible assumption) | (with_reducible apply State.cleanLine_keeps) | (with_reducible apply State.drain_keeps)
                 | (with_reducible apply keeps_onDev) | (with_reducible apply keeps_foldl) | (with_reducible apply keeps_foldl1)
                 | (dsimp only) | (split) | (intro _; try dsimp only))

theorem State.hsmStart_keeps {s0 : State} (s : State) (c : Nat) (h : Nat) (addr : Word) (arg : Word) (hk : Keeps s0 s) : Keeps s0 (State.hsmStart s c h addr arg) := by
  unfold State.hsmStart
  try dsimp only
  repeat' (first | (with_reducible assumption) | (with_reducible apply State.bootPut_keeps) | (with_reducible apply keeps_onDev)
                 | (dsimp only) | (split) | (intro _; try dsimp only))

theorem execServerCoreLoad_keeps (c : Fin 96) (h : HPre) (va : Nat) (log2 : Fin 4) (s : State) : ∃ s1, execServerCoreLoad c h va log2 s = .next s1 ∧ Keeps s s1 := by
  refine ⟨_, rfl, ?_⟩
  have hk := Keeps.refl s
  repeat' (first | (with_reducible assumption) | (with_reducible apply State.coreLoad_keeps) | (with_reducible apply State.coreMem_keeps)
                 | (dsimp only) | (intro _; try dsimp only))

theorem execServerCoreStore_keeps (c : Fin 96) (h : HPre) (va : Nat) (log2 : Fin 4) (v : Word) (s : State) : ∃ s1, execServerCoreStore c h va log2 v s = .next s1 ∧ Keeps s s1 := by
  refine ⟨_, rfl, ?_⟩
  have hk := Keeps.refl s
  repeat' (first | (with_reducible assumption) | (with_reducible apply State.coreMem_keeps) | (with_reducible apply State.coreStore_keeps)
                 | (dsimp only) | (intro _; try dsimp only))

theorem execStorePerformed_keeps (c : Fin 96) (s : State) : ∃ s1, execStorePerformed c s = .next s1 ∧ Keeps s s1 := by
  refine ⟨_, rfl, ?_⟩
  have hk := Keeps.refl s
  repeat' (first | (with_reducible assumption) | (with_reducible apply State.drainN_keeps) | (dsimp only))

theorem execServerCoreAmo_keeps (c : Fin 96) (h : HPre) (va : Nat) (dbl : Bool) (_aq : Bool) (rl : Bool) (op : AmoOp) (v : Word) (s : State) : ∃ s1, execServerCoreAmo c h va dbl _aq rl op v s = .next s1 ∧ Keeps s s1 := by
  refine ⟨_, rfl, ?_⟩
  have hk := Keeps.refl s
  repeat' (first | (with_reducible assumption) | (with_reducible apply State.atomic_keeps) | (with_reducible apply State.coreAmo_keeps)
                 | (with_reducible apply State.coreMem_keeps) | (dsimp only) | (split) | (intro _; try dsimp only))

theorem execLr_keeps (c : Fin 96) (h : HPre) (va : Nat) (dbl : Bool) (_aq : Bool) (rl : Bool) (s : State) : ∃ s1, execLr c h va dbl _aq rl s = .next s1 ∧ Keeps s s1 := by
  refine ⟨_, rfl, ?_⟩
  have hk := Keeps.refl s
  repeat' (first | (with_reducible assumption) | (with_reducible apply State.atomic_keeps) | (with_reducible apply State.coreLr_keeps)
                 | (with_reducible apply State.coreMem_keeps) | (dsimp only) | (split) | (intro _; try dsimp only))

theorem execSc_keeps (c : Fin 96) (h : HPre) (va : Nat) (dbl : Bool) (_aq : Bool) (rl : Bool) (v : Word) (s : State) : ∃ s1, execSc c h va dbl _aq rl v s = .next s1 ∧ Keeps s s1 := by
  refine ⟨_, rfl, ?_⟩
  have hk := Keeps.refl s
  repeat' (first | (with_reducible assumption) | (with_reducible apply State.atomic_keeps) | (with_reducible apply State.coreMem_keeps)
                 | (with_reducible apply State.coreSc_keeps) | (dsimp only) | (split) | (intro _; try dsimp only))

theorem execServerCoreFence_keeps (c : Fin 96) (predW : Bool) (s : State) : ∃ s1, execServerCoreFence c predW s = .next s1 ∧ Keeps s s1 := by
  refine ⟨_, rfl, ?_⟩
  have hk := Keeps.refl s
  repeat' (first | (with_reducible assumption) | (with_reducible apply State.coreStep_keeps) | (with_reducible apply State.drain_keeps)
                 | (dsimp only) | (split) | (intro _; try dsimp only))

theorem State.ioPieces_keeps {s0 : State} (s : State) (c : Nat) (l : List Piece) (store : Option Word) (hk : Keeps s0 s) : Keeps s0 (State.ioPieces s c l store) := by
  unfold State.ioPieces
  try dsimp only
  repeat' (first | (with_reducible assumption) | (with_reducible apply State.except_keeps) | (with_reducible apply State.ioAccess_keeps)
                 | (dsimp only) | (split))

theorem execIoRegionAccess_keeps (c : Fin 96) (h : HPre) (va : Nat) (log2 : Nat) (store : Option Word) (s : State) : ∃ s1, execIoRegionAccess c h va log2 store s = .next s1 ∧ Keeps s s1 := by
  refine ⟨_, rfl, ?_⟩
  have hk := Keeps.refl s
  repeat' (first | (with_reducible assumption) | (with_reducible apply State.coreMem_keeps) | (with_reducible apply State.ioPieces_keeps)
                 | (dsimp only) | (split) | (intro _; try dsimp only))

theorem execCboZero_keeps (c : Fin 96) (h : HPre) (va : Nat) (s : State) : ∃ s1, execCboZero c h va s = .next s1 ∧ Keeps s s1 := by
  refine ⟨_, rfl, ?_⟩
  have hk := Keeps.refl s
  repeat' (first | (with_reducible assumption) | (with_reducible apply State.coreMem_keeps) | (with_reducible apply State.coreStore_keeps)
                 | (dsimp only) | (intro _; try dsimp only))

theorem execCboClean_keeps (c : Fin 96) (h : HPre) (va : Nat) (s : State) : ∃ s1, execCboClean c h va s = .next s1 ∧ Keeps s s1 := by
  refine ⟨_, rfl, ?_⟩
  have hk := Keeps.refl s
  repeat' (first | (with_reducible assumption) | (with_reducible apply State.cbo_keeps) | (with_reducible apply State.cleanLine_keeps)
                 | (with_reducible apply State.coreMem_keeps) | (dsimp only) | (intro _; try dsimp only))

theorem execCboFlush_keeps (c : Fin 96) (h : HPre) (va : Nat) (s : State) : ∃ s1, execCboFlush c h va s = .next s1 ∧ Keeps s s1 := by
  refine ⟨_, rfl, ?_⟩
  have hk := Keeps.refl s
  repeat' (first | (with_reducible assumption) | (with_reducible apply State.cbo_keeps) | (with_reducible apply State.coreMem_keeps)
                 | (with_reducible apply State.flushLine_keeps) | (dsimp only) | (intro _; try dsimp only))

theorem execCboInval_keeps (c : Fin 96) (h : HPre) (va : Nat) (s : State) : ∃ s1, execCboInval c h va s = .next s1 ∧ Keeps s s1 := by
  refine ⟨_, rfl, ?_⟩
  have hk := Keeps.refl s
  repeat' (first | (with_reducible assumption) | (with_reducible apply State.cbo_keeps) | (with_reducible apply State.cleanLine_keeps)
                 | (with_reducible apply State.coreMem_keeps) | (with_reducible apply State.flushLine_keeps) | (dsimp only)
                 | (intro _; try dsimp only))

theorem execPrefetch_keeps (c : Fin 96) (h : HPre) (va : Nat) (s : State) : ∃ s1, execPrefetch c h va s = .next s1 ∧ Keeps s s1 := by
  refine ⟨_, rfl, ?_⟩
  have hk := Keeps.refl s
  repeat' (first | (with_reducible assumption) | (with_reducible apply State.coreStep_keeps) | (with_reducible apply State.prefetch_keeps)
                 | (dsimp only) | (intro _; try dsimp only))

theorem execWrsNto_keeps (c : Fin 96) (s : State) : ∃ s1, execWrsNto c s = .next s1 ∧ Keeps s s1 := by
  refine ⟨_, rfl, ?_⟩
  have hk := Keeps.refl s
  repeat' (first | (with_reducible assumption) | (with_reducible apply State.coreStep_keeps) | (with_reducible apply keeps_onDev)
                 | (dsimp only) | (intro _; try dsimp only))

theorem execWrsSto_keeps (c : Fin 96) (s : State) : ∃ s1, execWrsSto c s = .next s1 ∧ Keeps s s1 := by
  refine ⟨_, rfl, ?_⟩
  have hk := Keeps.refl s
  repeat' (first | (with_reducible assumption) | (with_reducible apply State.coreStep_keeps) | (dsimp only) | (intro _; try dsimp only))

theorem execBootStart_keeps (pt : Fin 8) (s : State) : ∃ s1, execBootStart pt s = .next s1 ∧ Keeps s s1 := by
  refine ⟨_, rfl, ?_⟩
  have hk := Keeps.refl s
  repeat' (first | (with_reducible assumption) | (with_reducible apply State.bootStart_keeps) | (dsimp only))

theorem execBootHalt_keeps (pt : Fin 8) (s : State) : ∃ s1, execBootHalt pt s = .next s1 ∧ Keeps s s1 := by
  refine ⟨_, rfl, ?_⟩
  have hk := Keeps.refl s
  repeat' (first | (with_reducible assumption) | (with_reducible apply State.bootPut_keeps) | (with_reducible apply State.stopHarts_keeps)
                 | (dsimp only) | (split))

theorem execSbiSrstShutdown_keeps (c : Fin 96) (s : State) : ∃ s1, execSbiSrstShutdown c s = .next s1 ∧ Keeps s s1 := by
  refine ⟨_, rfl, ?_⟩
  have hk := Keeps.refl s
  repeat' (first | (with_reducible assumption) | (with_reducible apply State.bootPut_keeps) | (with_reducible apply State.coreStep_keeps)
                 | (with_reducible apply State.stopHarts_keeps) | (dsimp only) | (split) | (intro _; try dsimp only))

theorem execSbiSrstReboot_keeps (c : Fin 96) (s : State) : ∃ s1, execSbiSrstReboot c s = .next s1 ∧ Keeps s s1 := by
  refine ⟨_, rfl, ?_⟩
  have hk := Keeps.refl s
  repeat' (first | (with_reducible assumption) | (with_reducible apply State.bootPut_keeps) | (with_reducible apply State.coreStep_keeps)
                 | (with_reducible apply State.stopHarts_keeps) | (with_reducible apply keeps_onDev) | (dsimp only) | (split)
                 | (intro _; try dsimp only))

theorem execHsmStart_keeps (c : Fin 96) (hart : Nat) (addr : Word) (arg : Word) (s : State) : ∃ s1, execHsmStart c hart addr arg s = .next s1 ∧ Keeps s s1 := by
  refine ⟨_, rfl, ?_⟩
  have hk := Keeps.refl s
  repeat' (first | (with_reducible assumption) | (with_reducible apply State.coreStep_keeps) | (with_reducible apply State.hsmStart_keeps)
                 | (dsimp only) | (intro _; try dsimp only))

theorem execHsmSuspend_keeps (c : Fin 96) (retentive : Bool) (s : State) : ∃ s1, execHsmSuspend c retentive s = .next s1 ∧ Keeps s s1 := by
  refine ⟨_, rfl, ?_⟩
  have hk := Keeps.refl s
  repeat' (first | (with_reducible assumption) | (with_reducible apply State.coreStep_keeps) | (with_reducible apply State.drain_keeps)
                 | (with_reducible apply State.emptyCaches_keeps) | (with_reducible apply keeps_onDev) | (dsimp only) | (split)
                 | (intro _; try dsimp only))

theorem execImsicWrite_keeps (c : Fin 96) (h : HPre) (va : Nat) (v : BitVec 32) (s : State) : ∃ s1, execImsicWrite c h va v s = .next s1 ∧ Keeps s s1 := by
  refine ⟨_, rfl, ?_⟩
  have hk := Keeps.refl s
  repeat' (first | (with_reducible assumption) | (with_reducible apply State.coreMem_keeps) | (with_reducible apply State.ioPieces_keeps)
                 | (dsimp only) | (intro _; try dsimp only))

theorem execHartLost_keeps (c : Fin 96) (s : State) : ∃ s1, execHartLost c s = .next s1 ∧ Keeps s s1 := by
  refine ⟨_, rfl, ?_⟩
  have hk := Keeps.refl s
  repeat' (first | (with_reducible assumption) | (with_reducible apply State.hartLost_keeps) | (dsimp only))

end Sys2Proof.Machine
end

