-- ==== Sys2Proof/Laws/KeepsAttach.lean ====
section
/-!
SUPPORT. What Machine/Attach.lean keeps: the queue, the time, the fused limits, and safety.
-/

namespace Sys2Proof.Machine

theorem State.host_keeps {s0 : State} (s : State) (a : Nat) (f : State → State) (hk : Keeps s0 s) (hf : ∀ z0, Keeps s0 z0 → Keeps s0 (f z0)) : Keeps s0 (State.host s a f) := by
  unfold State.host
  try dsimp only
  repeat' (first | (with_reducible assumption) | (with_reducible apply State.awake_keeps) | (with_reducible apply hf) | (dsimp only)
                 | (split))

theorem State.attCount_keeps {s0 : State} (s : State) (a : Nat) (bitN : Nat) (f : Att → Att) (hk : Keeps s0 s) : Keeps s0 (State.attCount s a bitN f) := by
  unfold State.attCount
  try dsimp only
  repeat' (first | (with_reducible assumption) | (with_reducible apply State.withStatus_keeps) | (with_reducible apply keeps_onDev)
                 | (dsimp only) | (intro _; try dsimp only))

theorem State.windowDrop_keeps {s0 : State} (s : State) (a : Nat) (hk : Keeps s0 s) : Keeps s0 (State.windowDrop s a) := by
  unfold State.windowDrop
  try dsimp only
  repeat' (first | (with_reducible assumption) | (with_reducible apply State.attCount_keeps) | (dsimp only) | (intro _; try dsimp only))

theorem State.mailboxDrop_keeps {s0 : State} (s : State) (a : Nat) (hk : Keeps s0 s) : Keeps s0 (State.mailboxDrop s a) := by
  unfold State.mailboxDrop
  try dsimp only
  repeat' (first | (with_reducible assumption) | (with_reducible apply State.attCount_keeps) | (dsimp only) | (intro _; try dsimp only))

theorem State.doorbellReject_keeps {s0 : State} (s : State) (a : Nat) (hk : Keeps s0 s) : Keeps s0 (State.doorbellReject s a) := by
  unfold State.doorbellReject
  try dsimp only
  repeat' (first | (with_reducible assumption) | (with_reducible apply State.attCount_keeps) | (dsimp only) | (intro _; try dsimp only))

theorem State.urSeen_keeps {s0 : State} (s : State) (a : Nat) (hk : Keeps s0 s) : Keeps s0 (State.urSeen s a) := by
  unfold State.urSeen
  try dsimp only
  repeat' (first | (with_reducible assumption) | (with_reducible apply State.attCount_keeps) | (dsimp only) | (intro _; try dsimp only))

theorem State.clientWrite_keeps {s0 : State} (s : State) (o : Origin) (n : Nat) (va : Nat) (data : Bytes) (hk : Keeps s0 s) : Keeps s0 (State.clientWrite s o n va data) := by
  unfold State.clientWrite
  try dsimp only
  repeat' (first | (with_reducible assumption) | (with_reducible apply keeps_onDev) | (with_reducible apply keeps_foldl)
                 | (with_reducible apply keeps_foldl1) | (dsimp only) | (split)
                 | ((with_reducible refine keeps_onMem _ (fun hm => ?_) ?_); first | (with_reducible exact writeLine_wf _ _ _ _ _ hm) | (with_reducible exact Memory.zero_wf _ _ _ hm) | (with_reducible exact Memory.zero_wf _ _ _ (Memory.zero_wf _ _ _ hm)) | exact hm | skip)
                 | (exact hm) | (intro _; try dsimp only))

theorem State.landAll_keeps {s0 : State} (s : State) (o : Origin) (hk : Keeps s0 s) : Keeps s0 (State.landAll s o) := by
  unfold State.landAll
  try dsimp only
  repeat' (first | (with_reducible assumption) | (with_reducible apply State.land_keeps) | (with_reducible apply keeps_foldl)
                 | (with_reducible apply keeps_foldl1) | (dsimp only) | (intro _; try dsimp only))

theorem State.refused_keeps {s0 : State} (s : State) (r : Reader) (pa : Nat) (hk : Keeps s0 s) : Keeps s0 (State.refused s r pa) := by
  unfold State.refused
  try dsimp only
  repeat' (first | (with_reducible assumption) | (with_reducible apply State.event_keeps) | (with_reducible apply State.failPart_keeps)
                 | (with_reducible apply State.took_keeps) | (with_reducible apply keeps_foldl) | (with_reducible apply keeps_foldl1)
                 | (dsimp only) | (split) | (intro _; try dsimp only))

theorem State.beforeRead_keeps {s0 : State} (s : State) (r : Reader) (pa : Nat) (n : Nat) (hk : Keeps s0 s) : Keeps s0 (State.beforeRead s r pa n) := by
  unfold State.beforeRead
  try dsimp only
  repeat' (first | (with_reducible assumption) | (with_reducible apply State.beforeLoad_keeps)
                 | (with_reducible apply State.landAll_keeps) | (dsimp only) | (split))

theorem State.served_keeps {s0 : State} (s : State) (r : Reader) (data : Bytes) (bad : Bool) (hk : Keeps s0 s) : Keeps s0 (State.served s r data bad) := by
  unfold State.served
  try dsimp only
  repeat' (first | (with_reducible assumption) | (with_reducible apply State.except_keeps) | (with_reducible apply keeps_onDev)
                 | (dsimp only) | (split) | (intro _; try dsimp only))

theorem State.homeRead_keeps {s0 : State} (s : State) (r : Reader) (pa : Nat) (len : Nat) (chk : Check) (hk : Keeps s0 s) : Keeps s0 (State.homeRead s r pa len chk) := by
  unfold State.homeRead
  try dsimp only
  repeat' (first | (with_reducible assumption) | (with_reducible apply State.beforeRead_keeps)
                 | (with_reducible apply State.homeChecked_keeps) | (with_reducible apply State.refused_keeps)
                 | (with_reducible apply State.served_keeps) | (with_reducible apply keeps_onDev) | (dsimp only) | (split)
                 | (intro _; try dsimp only))

theorem State.windowWrite_keeps {s0 : State} (s : State) (a : Nat) (off : Nat) (data : Bytes) (hk : Keeps s0 s) : Keeps s0 (State.windowWrite s a off data) := by
  unfold State.windowWrite
  try dsimp only
  repeat' (first | (with_reducible assumption) | (with_reducible apply State.clientWrite_keeps)
                 | (with_reducible apply State.windowDrop_keeps) | (dsimp only) | (split))

theorem State.returns_keeps {s0 : State} (s : State) (a : Nat) (data : Bytes) (bad : Bool) (hk : Keeps s0 s) : Keeps s0 (State.returns s a data bad) := by
  unfold State.returns
  try dsimp only
  repeat' (first | (with_reducible assumption) | (with_reducible apply keeps_onDev) | (dsimp only) | (intro _; try dsimp only))

theorem State.windowRead_keeps {s0 : State} (s : State) (a : Nat) (off : Nat) (len : Nat) (hk : Keeps s0 s) : Keeps s0 (State.windowRead s a off len) := by
  unfold State.windowRead
  try dsimp only
  repeat' (first | (with_reducible assumption) | (with_reducible apply State.landAll_keeps) | (with_reducible apply State.returns_keeps)
                 | (with_reducible apply State.windowDrop_keeps) | (with_reducible apply keeps_onDev) | (dsimp only) | (split)
                 | (intro _; try dsimp only))

theorem State.windowBind_keeps {s0 : State} (s : State) (a : Nat) (hk : Keeps s0 s) : Keeps s0 (State.windowBind s a) := by
  unfold State.windowBind
  try dsimp only
  repeat' (first | (with_reducible assumption) | (with_reducible apply State.attCount_keeps) | (with_reducible apply State.landAll_keeps)
                 | (with_reducible apply State.returns_keeps) | (with_reducible apply keeps_onDev) | (dsimp only) | (split)
                 | (intro _; try dsimp only))

theorem State.slotWrite_keeps {s0 : State} (s : State) (a : Nat) (mb : Mb) (off : Nat) (data : Bytes) (hk : Keeps s0 s) : Keeps s0 (State.slotWrite s a mb off data) := by
  unfold State.slotWrite
  try dsimp only
  repeat' (first | (with_reducible assumption) | (with_reducible apply State.mailboxDrop_keeps) | (with_reducible apply keeps_onDev)
                 | (with_reducible apply keeps_foldl) | (with_reducible apply keeps_foldl1) | (dsimp only) | (split)
                 | (intro _; try dsimp only))

theorem State.doorbell_keeps {s0 : State} (s : State) (a : Nat) (mb : Mb) (size8 : Bool) (upper : Bool) (v : Nat) (hk : Keeps s0 s) : Keeps s0 (State.doorbell s a mb size8 upper v) := by
  unfold State.doorbell
  try dsimp only
  repeat' (first | (with_reducible assumption) | (with_reducible apply State.doorbellReject_keeps)
                 | (with_reducible apply State.mailboxDrop_keeps) | (with_reducible apply keeps_onDev) | (dsimp only) | (split)
                 | (intro _; try dsimp only))

theorem State.outflowAck_keeps {s0 : State} (s : State) (a : Nat) (v : Nat) (hk : Keeps s0 s) : Keeps s0 (State.outflowAck s a v) := by
  unfold State.outflowAck
  try dsimp only
  repeat' (first | (with_reducible assumption) | (with_reducible apply State.withStatus_keeps) | (with_reducible apply keeps_onDev)
                 | (dsimp only) | (split) | (intro _; try dsimp only))

theorem State.itemWrites_keeps {s0 : State} (s : State) (a : Nat) (i : Item) (hk : Keeps s0 s) : Keeps s0 (State.itemWrites s a i) := by
  unfold State.itemWrites
  try dsimp only
  repeat' (first | (with_reducible assumption) | (with_reducible apply State.host_keeps) | (with_reducible apply keeps_onDev)
                 | (with_reducible apply keeps_foldl) | (with_reducible apply keeps_foldl1) | (dsimp only) | (split)
                 | (intro _; try dsimp only))

theorem State.entryInterrupt_keeps {s0 : State} (s : State) (a : Nat) (ctx : Nat) (ring : Nat) (hk : Keeps s0 s) : Keeps s0 (State.entryInterrupt s a ctx ring) := by
  unfold State.entryInterrupt
  try dsimp only
  repeat' (first | (with_reducible assumption) | (with_reducible apply keeps_onDev) | (dsimp only) | (split) | (intro _; try dsimp only))

theorem State.itemComplete_keeps {s0 : State} (s : State) (a : Nat) (res : FlushResult) (hk : Keeps s0 s) : Keeps s0 (State.itemComplete s a res) := by
  unfold State.itemComplete
  try dsimp only
  repeat' (first | (with_reducible assumption) | (with_reducible apply State.entryInterrupt_keeps)
                 | (with_reducible apply State.failPart_keeps) | (with_reducible apply State.itemWrites_keeps)
                 | (with_reducible apply keeps_onDev) | (dsimp only) | (split) | (intro _; try dsimp only))

theorem State.holdoffEnd_keeps {s0 : State} (s : State) (n : Nat) (hk : Keeps s0 s) : Keeps s0 (State.holdoffEnd s n) := by
  unfold State.holdoffEnd
  try dsimp only
  repeat' (first | (with_reducible assumption) | (with_reducible apply keeps_onDev) | (dsimp only) | (split) | (intro _; try dsimp only))

theorem State.resend_keeps {s0 : State} (s : State) (a : Nat) (hk : Keeps s0 s) : Keeps s0 (State.resend s a) := by
  unfold State.resend
  try dsimp only
  repeat' (first | (with_reducible assumption) | (with_reducible apply State.itemWrites_keeps)
                 | (with_reducible apply State.withStatus_keeps) | (with_reducible apply keeps_onDev) | (with_reducible apply keeps_foldl)
                 | (with_reducible apply keeps_foldl1) | (dsimp only) | (split) | (intro _; try dsimp only))

theorem State.linkUp_keeps {s0 : State} (s : State) (a : Nat) (speed : Nat) (width : Nat) (flit : Bool) (hk : Keeps s0 s) : Keeps s0 (State.linkUp s a speed width flit) := by
  unfold State.linkUp
  try dsimp only
  repeat' (first | (with_reducible assumption) | (with_reducible apply keeps_onDev) | (dsimp only) | (split) | (intro _; try dsimp only))

theorem State.ioWrite_keeps {s0 : State} (s : State) (addr : Nat) (v : Word) (hk : Keeps s0 s) : Keeps s0 (s.ioWrite addr v) := by
  unfold State.ioWrite
  split
  · exact keeps_limits _ (Pow.weWrite_same _ _ _) hk
  · split
    · exact keeps_onDev _ hk
    · exact hk

theorem State.byoloWrite_keeps {s0 : State} (s : State) (addr : Nat) (v : Word) (hk : Keeps s0 s) : Keeps s0 (s.byoloWrite addr v) := by
  unfold State.byoloWrite
  split
  · exact keeps_limits _ (Pow.weWrite_same _ _ _) hk
  · exact hk

theorem limits_read {w a b : Pow} {c : Prop} [Decidable c] (v : Word) (ha : SameLimits w a) (hb : SameLimits w b) :
    SameLimits w { (if c then a else b) with rdata := v } := by
  split
  · exact ha
  · exact hb

theorem State.ioRead_keeps {s0 : State} (s : State) (addr : Nat) (hk : Keeps s0 s) : Keeps s0 (s.ioRead addr) := by
  unfold State.ioRead
  refine keeps_limits _ ?_ hk
  exact limits_read _ (Pow.weRead_same _ _) ⟨rfl, rfl, rfl⟩

theorem State.registerWrite_keeps {s0 : State} (s : State) (who : RegAgent) (addr : Nat) (op : CsrOp) (rd : Fin 32) (rs1 : Fin 32) (size8 : Bool) (v : Word) (hk : Keeps s0 s) : Keeps s0 (State.registerWrite s who addr op rd rs1 size8 v) := by
  unfold State.registerWrite
  try dsimp only
  repeat' (first | (with_reducible assumption) | (with_reducible apply State.byoloWrite_keeps)
                 | (with_reducible apply State.coreStep_keeps) | (with_reducible apply State.csrOp_keeps)
                 | (with_reducible apply State.host_keeps) | (with_reducible apply State.ioAccess_keeps)
                 | (with_reducible apply State.ioWrite_keeps) | (with_reducible apply State.jormon_keeps)
                 | (with_reducible apply State.kernelStep_keeps) | (with_reducible apply State.urSeen_keeps)
                 | (with_reducible apply State.withStatus_keeps) | (with_reducible apply keeps_onDev) | (dsimp only) | (split)
                 | (intro _; try dsimp only))

theorem State.registerRead_keeps {s0 : State} (s : State) (who : RegAgent) (addr : Nat) (size8 : Bool) (hk : Keeps s0 s) : Keeps s0 (State.registerRead s who addr size8) := by
  unfold State.registerRead
  try dsimp only
  repeat' (first | (with_reducible assumption) | (with_reducible apply State.coreStep_keeps) | (with_reducible apply State.csrOp_keeps)
                 | (with_reducible apply State.host_keeps) | (with_reducible apply State.ioAccess_keeps)
                 | (with_reducible apply State.ioRead_keeps) | (with_reducible apply State.jormon_keeps)
                 | (with_reducible apply State.kernelStep_keeps) | (with_reducible apply State.mailboxDrop_keeps)
                 | (with_reducible apply State.returns_keeps) | (with_reducible apply State.urSeen_keeps)
                 | (with_reducible apply State.windowBind_keeps) | (with_reducible apply keeps_onDev) | (dsimp only) | (split)
                 | (intro _; try dsimp only))

theorem execHomeRead_keeps (r : Reader) (pa : Nat) (len : Nat) (chk : Check) (s : State) : ∃ s1, execHomeRead r pa len chk s = .next s1 ∧ Keeps s s1 := by
  refine ⟨_, rfl, ?_⟩
  have hk := Keeps.refl s
  repeat' (first | (with_reducible assumption) | (with_reducible apply State.homeRead_keeps) | (dsimp only))

theorem execWindowWrite_keeps (a : Fin 8) (off : Nat) (data : Bytes) (s : State) : ∃ s1, execWindowWrite a off data s = .next s1 ∧ Keeps s s1 := by
  refine ⟨_, rfl, ?_⟩
  have hk := Keeps.refl s
  repeat' (first | (with_reducible assumption) | (with_reducible apply State.host_keeps) | (with_reducible apply State.windowWrite_keeps)
                 | (dsimp only) | (intro _; try dsimp only))

theorem execWindowRead_keeps (a : Fin 8) (off : Nat) (len : Nat) (s : State) : ∃ s1, execWindowRead a off len s = .next s1 ∧ Keeps s s1 := by
  refine ⟨_, rfl, ?_⟩
  have hk := Keeps.refl s
  repeat' (first | (with_reducible assumption) | (with_reducible apply State.host_keeps) | (with_reducible apply State.windowRead_keeps)
                 | (dsimp only) | (intro _; try dsimp only))

theorem execWindowBind_keeps (a : Fin 8) (s : State) : ∃ s1, execWindowBind a s = .next s1 ∧ Keeps s s1 := by
  refine ⟨_, rfl, ?_⟩
  have hk := Keeps.refl s
  repeat' (first | (with_reducible assumption) | (with_reducible apply State.host_keeps) | (with_reducible apply State.windowBind_keeps)
                 | (dsimp only) | (intro _; try dsimp only))

theorem execMailboxSlotWrite_keeps (a : Fin 8) (mb : Mb) (off : Nat) (data : Bytes) (s : State) : ∃ s1, execMailboxSlotWrite a mb off data s = .next s1 ∧ Keeps s s1 := by
  refine ⟨_, rfl, ?_⟩
  have hk := Keeps.refl s
  repeat' (first | (with_reducible assumption) | (with_reducible apply State.host_keeps) | (with_reducible apply State.slotWrite_keeps)
                 | (dsimp only) | (intro _; try dsimp only))

theorem execDoorbell_keeps (a : Fin 8) (mb : Mb) (size8 : Bool) (upper : Bool) (v : Word) (s : State) : ∃ s1, execDoorbell a mb size8 upper v s = .next s1 ∧ Keeps s s1 := by
  refine ⟨_, rfl, ?_⟩
  have hk := Keeps.refl s
  repeat' (first | (with_reducible assumption) | (with_reducible apply State.doorbell_keeps) | (with_reducible apply State.host_keeps)
                 | (dsimp only) | (intro _; try dsimp only))

theorem execOutflowAck_keeps (a : Fin 8) (v : Word) (s : State) : ∃ s1, execOutflowAck a v s = .next s1 ∧ Keeps s s1 := by
  refine ⟨_, rfl, ?_⟩
  have hk := Keeps.refl s
  repeat' (first | (with_reducible assumption) | (with_reducible apply State.host_keeps) | (with_reducible apply State.outflowAck_keeps)
                 | (dsimp only) | (intro _; try dsimp only))

theorem execRegisterReadClear_keeps (who : RegAgent) (addr : Nat) (size8 : Bool) (s : State) : ∃ s1, execRegisterReadClear who addr size8 s = .next s1 ∧ Keeps s s1 := by
  refine ⟨_, rfl, ?_⟩
  have hk := Keeps.refl s
  repeat' (first | (with_reducible assumption) | (with_reducible apply State.registerRead_keeps) | (dsimp only))

theorem execRegisterWrite_keeps (who : RegAgent) (addr : Nat) (op : CsrOp) (rd : Fin 32) (rs1 : Fin 32) (size8 : Bool) (v : Word) (s : State) : ∃ s1, execRegisterWrite who addr op rd rs1 size8 v s = .next s1 ∧ Keeps s s1 := by
  refine ⟨_, rfl, ?_⟩
  have hk := Keeps.refl s
  repeat' (first | (with_reducible assumption) | (with_reducible apply State.registerWrite_keeps) | (dsimp only))

theorem execUnsupportedRequest_keeps (a : Fin 8) (s : State) : ∃ s1, execUnsupportedRequest a s = .next s1 ∧ Keeps s s1 := by
  refine ⟨_, rfl, ?_⟩
  have hk := Keeps.refl s
  repeat' (first | (with_reducible assumption) | (with_reducible apply State.host_keeps) | (with_reducible apply State.urSeen_keeps)
                 | (dsimp only) | (intro _; try dsimp only))

theorem execOutflowItemComplete_keeps (a : Fin 8) (res : FlushResult) (s : State) : ∃ s1, execOutflowItemComplete a res s = .next s1 ∧ Keeps s s1 := by
  refine ⟨_, rfl, ?_⟩
  have hk := Keeps.refl s
  repeat' (first | (with_reducible assumption) | (with_reducible apply State.itemComplete_keeps) | (dsimp only))

theorem execRingEntryWrite_keeps (a : Fin 8) (ring : Nat) (s : State) : ∃ s1, execRingEntryWrite a ring s = .next s1 ∧ Keeps s s1 := by
  refine ⟨_, rfl, ?_⟩
  have hk := Keeps.refl s
  repeat' (first | (with_reducible assumption) | (with_reducible apply keeps_onDev) | (dsimp only) | (intro _; try dsimp only))

theorem execInterruptHoldoffEnd_keeps (n : Fin 4096) (s : State) : ∃ s1, execInterruptHoldoffEnd n s = .next s1 ∧ Keeps s s1 := by
  refine ⟨_, rfl, ?_⟩
  have hk := Keeps.refl s
  repeat' (first | (with_reducible assumption) | (with_reducible apply State.holdoffEnd_keeps) | (dsimp only))

theorem execAttachmentLoss_keeps (a : Fin 8) (kind : LossKind) (s : State) : ∃ s1, execAttachmentLoss a kind s = .next s1 ∧ Keeps s s1 := by
  refine ⟨_, rfl, ?_⟩
  have hk := Keeps.refl s
  repeat' (first | (with_reducible assumption) | (with_reducible apply State.awake_keeps) | (with_reducible apply State.lose_keeps)
                 | (with_reducible apply State.withStatus_keeps) | (dsimp only) | (split) | (intro _; try dsimp only))

theorem execOrphanHoldExpiry_keeps (a : Fin 8) (s : State) : ∃ s1, execOrphanHoldExpiry a s = .next s1 ∧ Keeps s s1 := by
  refine ⟨_, rfl, ?_⟩
  have hk := Keeps.refl s
  repeat' (first | (with_reducible assumption) | (with_reducible apply State.awake_keeps) | (with_reducible apply State.holdEnds_keeps)
                 | (dsimp only) | (split))

theorem execResendDone_keeps (a : Fin 8) (s : State) : ∃ s1, execResendDone a s = .next s1 ∧ Keeps s s1 := by
  refine ⟨_, rfl, ?_⟩
  have hk := Keeps.refl s
  repeat' (first | (with_reducible assumption) | (with_reducible apply State.resend_keeps) | (dsimp only))

theorem execPerstNRelease_keeps (a : Fin 8) (s : State) : ∃ s1, execPerstNRelease a s = .next s1 ∧ Keeps s s1 := by
  refine ⟨_, rfl, ?_⟩
  have hk := Keeps.refl s
  repeat' (first | (with_reducible assumption) | (with_reducible apply keeps_onDev) | (dsimp only) | (intro _; try dsimp only))

theorem execDlActive_keeps (a : Fin 8) (speed : Nat) (width : Nat) (flit : Bool) (s : State) : ∃ s1, execDlActive a speed width flit s = .next s1 ∧ Keeps s s1 := by
  refine ⟨_, rfl, ?_⟩
  have hk := Keeps.refl s
  repeat' (first | (with_reducible assumption) | (with_reducible apply State.linkUp_keeps) | (dsimp only))

end Sys2Proof.Machine
end

