-- ==== Sys2Proof/Laws/KeepsNetwork.lean ====
section
/-!
SUPPORT. What Machine/Network.lean keeps: the queue, the time, the fused limits, and safety.
-/

namespace Sys2Proof.Machine

theorem State.frame_keeps {s0 : State} (s : State) (p : Nat) (f : State → State) (hk : Keeps s0 s) (hf : ∀ z0, Keeps s0 z0 → Keeps s0 (f z0)) : Keeps s0 (State.frame s p f) := by
  unfold State.frame
  try dsimp only
  repeat' (first | (with_reducible assumption) | (with_reducible apply State.fill_keeps) | (with_reducible apply hf)
                 | (with_reducible apply keeps_onDev) | (dsimp only) | (split) | (intro _; try dsimp only))

theorem State.answerFrame_keeps {s0 : State} (s : State) (p : Nat) (own : Bool) (kind : Nat) (hk : Keeps s0 s) : Keeps s0 (State.answerFrame s p own kind) := by
  unfold State.answerFrame
  try dsimp only
  repeat' (first | (with_reducible assumption) | (with_reducible apply keeps_onDev) | (dsimp only) | (split) | (intro _; try dsimp only))

theorem State.connect_keeps {s0 : State} (s : State) (p : Nat) (ctx : Nat) (gen : Nat) (key : Word) (mtu : Nat) (hk : Keeps s0 s) : Keeps s0 (State.connect s p ctx gen key mtu) := by
  unfold State.connect
  try dsimp only
  repeat' (first | (with_reducible assumption) | (with_reducible apply State.took_keeps) | (with_reducible apply keeps_onDev)
                 | (dsimp only) | (split) | (intro _; try dsimp only))

theorem State.packet_keeps {s0 : State} (s : State) (q : Nat) (f : Qp → State → State) (hk : Keeps s0 s) (hf : ∀ z0 z1, Keeps s0 z1 → Keeps s0 (f z0 z1)) : Keeps s0 (State.packet s q f) := by
  unfold State.packet
  try dsimp only
  repeat' (first | (with_reducible assumption) | (with_reducible apply State.frame_keeps) | (with_reducible apply hf) | (dsimp only)
                 | (split) | (intro _; try dsimp only))

theorem State.answer_keeps {s0 : State} (s : State) (q : Nat) (port : Nat) (a : Nat) (hk : Keeps s0 s) : Keeps s0 (State.answer s q port a) := by
  unfold State.answer
  try dsimp only
  repeat' (first | (with_reducible assumption) | (with_reducible apply keeps_onDev) | (dsimp only) | (split) | (intro _; try dsimp only))

theorem State.send_keeps {s0 : State} (s : State) (q : Nat) (data : Bytes) (hk : Keeps s0 s) : Keeps s0 (State.send s q data) := by
  unfold State.send
  try dsimp only
  repeat' (first | (with_reducible assumption) | (with_reducible apply State.answer_keeps) | (with_reducible apply State.orphan_keeps)
                 | (with_reducible apply State.packet_keeps) | (with_reducible apply keeps_onDev) | (dsimp only) | (split)
                 | (intro _; try dsimp only))

theorem State.rdmaWrite_keeps {s0 : State} (s : State) (q : Nat) (va : Word) (rkey : BitVec 32) (data : Bytes) (hk : Keeps s0 s) : Keeps s0 (State.rdmaWrite s q va rkey data) := by
  unfold State.rdmaWrite
  try dsimp only
  repeat' (first | (with_reducible assumption) | (with_reducible apply State.answer_keeps)
                 | (with_reducible apply State.clientWrite_keeps) | (with_reducible apply State.packet_keeps)
                 | (with_reducible apply keeps_onDev) | (dsimp only) | (split) | (intro _; try dsimp only))

theorem State.rdmaRead_keeps {s0 : State} (s : State) (q : Nat) (va : Word) (rkey : BitVec 32) (len : Nat) (hk : Keeps s0 s) : Keeps s0 (State.rdmaRead s q va rkey len) := by
  unfold State.rdmaRead
  try dsimp only
  repeat' (first | (with_reducible assumption) | (with_reducible apply State.answer_keeps) | (with_reducible apply State.landAll_keeps)
                 | (with_reducible apply State.packet_keeps) | (with_reducible apply keeps_onDev) | (dsimp only) | (split)
                 | (intro _; try dsimp only))

theorem State.refuseOp_keeps {s0 : State} (s : State) (q : Nat) (hk : Keeps s0 s) : Keeps s0 (State.refuseOp s q) := by
  unfold State.refuseOp
  try dsimp only
  repeat' (first | (with_reducible assumption) | (with_reducible apply State.answer_keeps) | (with_reducible apply State.packet_keeps)
                 | (dsimp only) | (split) | (intro _; try dsimp only))

theorem State.portUp_keeps {s0 : State} (s : State) (p : Nat) (at200 : Bool) (hk : Keeps s0 s) : Keeps s0 (State.portUp s p at200) := by
  unfold State.portUp
  try dsimp only
  repeat' (first | (with_reducible assumption) | (with_reducible apply keeps_onDev) | (dsimp only) | (split) | (intro _; try dsimp only))

theorem execConnectRequest_keeps (port : Fin 4) (ctx : Nat) (gen : Nat) (key : Word) (mtu : Nat) (s : State) : ∃ s1, execConnectRequest port ctx gen key mtu s = .next s1 ∧ Keeps s s1 := by
  refine ⟨_, rfl, ?_⟩
  have hk := Keeps.refl s
  repeat' (first | (with_reducible assumption) | (with_reducible apply State.connect_keeps) | (with_reducible apply State.frame_keeps)
                 | (dsimp only) | (intro _; try dsimp only))

theorem execSend_keeps (q : Nat) (data : Bytes) (s : State) : ∃ s1, execSend q data s = .next s1 ∧ Keeps s s1 := by
  refine ⟨_, rfl, ?_⟩
  have hk := Keeps.refl s
  repeat' (first | (with_reducible assumption) | (with_reducible apply State.send_keeps) | (dsimp only))

theorem execSendWithImmediate_keeps (q : Nat) (s : State) : ∃ s1, execSendWithImmediate q s = .next s1 ∧ Keeps s s1 := by
  refine ⟨_, rfl, ?_⟩
  have hk := Keeps.refl s
  repeat' (first | (with_reducible assumption) | (with_reducible apply State.refuseOp_keeps) | (dsimp only))

theorem execRdmaWrite_keeps (q : Nat) (va : Word) (rkey : BitVec 32) (data : Bytes) (s : State) : ∃ s1, execRdmaWrite q va rkey data s = .next s1 ∧ Keeps s s1 := by
  refine ⟨_, rfl, ?_⟩
  have hk := Keeps.refl s
  repeat' (first | (with_reducible assumption) | (with_reducible apply State.rdmaWrite_keeps) | (dsimp only))

theorem execRdmaWriteWithImmediate_keeps (q : Nat) (s : State) : ∃ s1, execRdmaWriteWithImmediate q s = .next s1 ∧ Keeps s s1 := by
  refine ⟨_, rfl, ?_⟩
  have hk := Keeps.refl s
  repeat' (first | (with_reducible assumption) | (with_reducible apply State.refuseOp_keeps) | (dsimp only))

theorem execRdmaRead_keeps (q : Nat) (va : Word) (rkey : BitVec 32) (len : Nat) (s : State) : ∃ s1, execRdmaRead q va rkey len s = .next s1 ∧ Keeps s s1 := by
  refine ⟨_, rfl, ?_⟩
  have hk := Keeps.refl s
  repeat' (first | (with_reducible assumption) | (with_reducible apply State.rdmaRead_keeps) | (dsimp only))

theorem execCompareAndSwap_keeps (q : Nat) (s : State) : ∃ s1, execCompareAndSwap q s = .next s1 ∧ Keeps s s1 := by
  refine ⟨_, rfl, ?_⟩
  have hk := Keeps.refl s
  repeat' (first | (with_reducible assumption) | (with_reducible apply State.refuseOp_keeps) | (dsimp only))

theorem execFetchAndAdd_keeps (q : Nat) (s : State) : ∃ s1, execFetchAndAdd q s = .next s1 ∧ Keeps s s1 := by
  refine ⟨_, rfl, ?_⟩
  have hk := Keeps.refl s
  repeat' (first | (with_reducible assumption) | (with_reducible apply State.refuseOp_keeps) | (dsimp only))

theorem execArpRequest_keeps (port : Fin 4) (ip : BitVec 32) (s : State) : ∃ s1, execArpRequest port ip s = .next s1 ∧ Keeps s s1 := by
  refine ⟨_, rfl, ?_⟩
  have hk := Keeps.refl s
  repeat' (first | (with_reducible assumption) | (with_reducible apply State.answerFrame_keeps) | (with_reducible apply State.frame_keeps)
                 | (dsimp only) | (intro _; try dsimp only))

theorem execNeighborSolicitation_keeps (port : Fin 4) (ip : BitVec 128) (s : State) : ∃ s1, execNeighborSolicitation port ip s = .next s1 ∧ Keeps s s1 := by
  refine ⟨_, rfl, ?_⟩
  have hk := Keeps.refl s
  repeat' (first | (with_reducible assumption) | (with_reducible apply State.answerFrame_keeps) | (with_reducible apply State.frame_keeps)
                 | (dsimp only) | (intro _; try dsimp only))

theorem execEchoRequest_keeps (port : Fin 4) (v6 : Bool) (ip : BitVec 128) (s : State) : ∃ s1, execEchoRequest port v6 ip s = .next s1 ∧ Keeps s s1 := by
  refine ⟨_, rfl, ?_⟩
  have hk := Keeps.refl s
  repeat' (first | (with_reducible assumption) | (with_reducible apply State.answerFrame_keeps) | (with_reducible apply State.frame_keeps)
                 | (dsimp only) | (split) | (intro _; try dsimp only))

theorem execFrameDiscard_keeps (port : Fin 4) (s : State) : ∃ s1, execFrameDiscard port s = .next s1 ∧ Keeps s s1 := by
  refine ⟨_, rfl, ?_⟩
  have hk := Keeps.refl s
  repeat' (first | (with_reducible assumption) | (with_reducible apply State.answerFrame_keeps) | (with_reducible apply State.frame_keeps)
                 | (dsimp only) | (intro _; try dsimp only))

theorem execCongestionExperienced_keeps (q : Nat) (s : State) : ∃ s1, execCongestionExperienced q s = .next s1 ∧ Keeps s s1 := by
  refine ⟨_, rfl, ?_⟩
  have hk := Keeps.refl s
  repeat' (first | (with_reducible assumption) | (with_reducible apply State.packet_keeps) | (with_reducible apply keeps_onDev)
                 | (dsimp only) | (intro _; try dsimp only))

theorem execCnpReceived_keeps (q : Nat) (s : State) : ∃ s1, execCnpReceived q s = .next s1 ∧ Keeps s s1 := by
  refine ⟨_, rfl, ?_⟩
  have hk := Keeps.refl s
  repeat' (first | (with_reducible assumption) | (with_reducible apply State.packet_keeps) | (with_reducible apply keeps_onDev)
                 | (dsimp only) | (intro _; try dsimp only))

theorem execRateLimitRaise_keeps (q : Nat) (s : State) : ∃ s1, execRateLimitRaise q s = .next s1 ∧ Keeps s s1 := by
  refine ⟨_, rfl, ?_⟩
  have hk := Keeps.refl s
  repeat' (first | (with_reducible assumption) | (with_reducible apply keeps_onDev) | (dsimp only) | (intro _; try dsimp only))

theorem execPfcFrame_keeps (port : Fin 4) (prio : Fin 8) (pause : Bool) (s : State) : ∃ s1, execPfcFrame port prio pause s = .next s1 ∧ Keeps s s1 := by
  refine ⟨_, rfl, ?_⟩
  have hk := Keeps.refl s
  repeat' (first | (with_reducible assumption) | (with_reducible apply State.frame_keeps) | (with_reducible apply keeps_onDev)
                 | (dsimp only) | (split) | (intro _; try dsimp only))

theorem execReceiveBufferThreshold_keeps (port : Fin 4) (fill : Nat) (s : State) : ∃ s1, execReceiveBufferThreshold port fill s = .next s1 ∧ Keeps s s1 := by
  refine ⟨_, rfl, ?_⟩
  have hk := Keeps.refl s
  repeat' (first | (with_reducible assumption) | (with_reducible apply State.fill_keeps) | (with_reducible apply keeps_onDev)
                 | (dsimp only) | (split) | (intro _; try dsimp only))

theorem execPortLinkDown_keeps (port : Fin 4) (s : State) : ∃ s1, execPortLinkDown port s = .next s1 ∧ Keeps s s1 := by
  refine ⟨_, rfl, ?_⟩
  have hk := Keeps.refl s
  repeat' (first | (with_reducible assumption) | (with_reducible apply keeps_onDev) | (dsimp only) | (intro _; try dsimp only))

theorem execPortLinkUp_keeps (port : Fin 4) (at200 : Bool) (s : State) : ∃ s1, execPortLinkUp port at200 s = .next s1 ∧ Keeps s s1 := by
  refine ⟨_, rfl, ?_⟩
  have hk := Keeps.refl s
  repeat' (first | (with_reducible assumption) | (with_reducible apply State.portUp_keeps) | (dsimp only))

theorem execRetransmissionTimeout_keeps (q : Nat) (s : State) : ∃ s1, execRetransmissionTimeout q s = .next s1 ∧ Keeps s s1 := by
  refine ⟨_, rfl, ?_⟩
  have hk := Keeps.refl s
  repeat' (first | (with_reducible assumption) | (with_reducible apply State.retry_keeps) | (with_reducible apply keeps_onDev)
                 | (dsimp only) | (intro _; try dsimp only))

theorem execAcknowledgementReceived_keeps (q : Nat) (a : Ack) (s : State) : ∃ s1, execAcknowledgementReceived q a s = .next s1 ∧ Keeps s s1 := by
  refine ⟨_, rfl, ?_⟩
  have hk := Keeps.refl s
  repeat' (first | (with_reducible assumption) | (with_reducible apply State.packet_keeps) | (with_reducible apply keeps_onDev)
                 | (dsimp only) | (intro _; try dsimp only))

end Sys2Proof.Machine
end

