-- ==== Sys2Proof/Laws/KeepsPower.lean ====
section
/-!
SUPPORT. What Machine/Power.lean keeps: the queue, the time, the fused limits, and safety.
-/

namespace Sys2Proof.Machine

theorem State.engineWake_keeps {s0 : State} (s : State) (e : Nat) (hk : Keeps s0 s) : Keeps s0 (State.engineWake s e) := by
  unfold State.engineWake
  try dsimp only
  repeat' (first | (with_reducible assumption) | (with_reducible apply keeps_onDev) | (with_reducible apply keeps_onMgmt _ (fun h => h))
                 | (dsimp only) | (split) | (with_reducible refine keeps_onMgmt _ (fun hm => ?_) ?_) | (exact hm) | (with_reducible rfl)
                 | (intro _; try dsimp only))

theorem State.pllOff_keeps {s0 : State} (s : State) (t : Nat) (hk : Keeps s0 s) : Keeps s0 (State.pllOff s t) := by
  unfold State.pllOff
  try dsimp only
  repeat' (first | (with_reducible assumption) | (with_reducible apply keeps_onDev) | (dsimp only) | (split) | (intro _; try dsimp only))

theorem State.writeBackCores_keeps {s0 : State} (s : State) (hk : Keeps s0 s) : Keeps s0 (State.writeBackCores s) := by
  unfold State.writeBackCores
  try dsimp only
  repeat' (first | (with_reducible assumption) | (with_reducible apply State.cleanLine_keeps) | (with_reducible apply keeps_onDev)
                 | (with_reducible apply keeps_foldl) | (with_reducible apply keeps_foldl1) | (dsimp only) | (intro _; try dsimp only))

theorem State.dormantEntry_keeps {s0 : State} (s : State) (hk : Keeps s0 s) : Keeps s0 (State.dormantEntry s) := by
  unfold State.dormantEntry
  try dsimp only
  repeat' (first | (with_reducible assumption) | (with_reducible apply State.writeBackCores_keeps) | (with_reducible apply keeps_onDev)
                 | (with_reducible apply keeps_onPow _ rfl rfl (fun h => h)) | (dsimp only) | (split)
                 | (with_reducible refine keeps_onPow _ ?_ ?_ (fun hm => ?_) ?_) | (exact hm) | (with_reducible rfl)
                 | (intro _; try dsimp only))

theorem State.tempRead_keeps {s0 : State} (s : State) (id : Nat) (q : Option Int) (hk : Keeps s0 s) : Keeps s0 (State.tempRead s id q) := by
  unfold State.tempRead
  try dsimp only
  repeat' (first | (with_reducible assumption) | (with_reducible apply State.log_keeps) | (with_reducible apply State.sensor_keeps)
                 | (dsimp only) | (split))

theorem State.thermalWarn_keeps {s0 : State} (s : State) (d : Nat) (t : Int) (hk : Keeps s0 s) : Keeps s0 (State.thermalWarn s d t) := by
  unfold State.thermalWarn
  try dsimp only
  repeat' (first | (with_reducible assumption) | (with_reducible apply State.log_keeps)
                 | (with_reducible apply keeps_onPow _ rfl rfl (fun h => h)) | (dsimp only) | (split)
                 | (with_reducible refine keeps_onPow _ ?_ ?_ (fun hm => ?_) ?_) | (exact hm) | (with_reducible rfl)
                 | (intro _; try dsimp only))

theorem State.slowTemps_keeps {s0 : State} (s : State) (d : Nat) (dieQ : Option Int) (memQ : Option Int) (hk : Keeps s0 s) : Keeps s0 (State.slowTemps s d dieQ memQ) := by
  unfold State.slowTemps
  try dsimp only
  repeat' (first | (with_reducible assumption) | (with_reducible apply State.tempRead_keeps)
                 | (with_reducible apply State.thermalWarn_keeps) | (with_reducible apply keeps_onPow _ rfl rfl (fun h => h))
                 | (dsimp only) | (split) | (with_reducible refine keeps_onPow _ ?_ ?_ (fun hm => ?_) ?_) | (exact hm)
                 | (with_reducible rfl) | (intro _; try dsimp only))

theorem State.divergence_keeps {s0 : State} (s : State) (d : Nat) (hk : Keeps s0 s) : Keeps s0 (State.divergence s d) := by
  unfold State.divergence
  try dsimp only
  repeat' (first | (with_reducible assumption) | (with_reducible apply State.log_keeps) | (with_reducible apply State.took_keeps)
                 | (with_reducible apply keeps_onPow _ rfl rfl (fun h => h)) | (dsimp only) | (split)
                 | (with_reducible refine keeps_onPow _ ?_ ?_ (fun hm => ?_) ?_) | (exact hm) | (with_reducible rfl)
                 | (intro _; try dsimp only))

theorem State.watchSuspect_keeps {s0 : State} (s : State) (d : Nat) (m : Nat) (e : Nat) (hk : Keeps s0 s) : Keeps s0 (State.watchSuspect s d m e) := by
  unfold State.watchSuspect
  try dsimp only
  repeat' (first | (with_reducible assumption) | (with_reducible apply State.serviced_keeps)
                 | (with_reducible apply keeps_onPow _ rfl rfl (fun h => h)) | (dsimp only) | (split)
                 | (with_reducible refine keeps_onPow _ ?_ ?_ (fun hm => ?_) ?_) | (exact hm) | (with_reducible rfl)
                 | (intro _; try dsimp only))

theorem State.compare_keeps {s0 : State} (s : State) (d : Nat) (m : Nat) (e : Nat) (hk : Keeps s0 s) : Keeps s0 (State.compare s d m e) := by
  unfold State.compare
  try dsimp only
  repeat' (first | (with_reducible assumption) | (with_reducible apply State.divergence_keeps) | (with_reducible apply State.log_keeps)
                 | (with_reducible apply State.needsService_keeps) | (with_reducible apply State.watchSuspect_keeps)
                 | (with_reducible apply keeps_onPow _ rfl rfl (fun h => h)) | (dsimp only) | (split)
                 | (with_reducible refine keeps_onPow _ ?_ ?_ (fun hm => ?_) ?_) | (exact hm) | (with_reducible rfl)
                 | (intro _; try dsimp only))

theorem State.powerSensors_keeps {s0 : State} (s : State) (d : Nat) (m : Nat) (e : Nat) (hk : Keeps s0 s) : Keeps s0 (State.powerSensors s d m e) := by
  unfold State.powerSensors
  try dsimp only
  repeat' (first | (with_reducible assumption) | (with_reducible apply State.sensor_keeps) | (dsimp only))

theorem State.slowLoop_keeps {s0 : State} (s : State) (d : Nat) (measured : Nat) (estimate : Nat) (dieQ : Option Int) (memQ : Option Int) (hk : Keeps s0 s) : Keeps s0 (State.slowLoop s d measured estimate dieQ memQ) := by
  unfold State.slowLoop
  try dsimp only
  repeat' (first | (with_reducible assumption) | (with_reducible apply State.compare_keeps)
                 | (with_reducible apply State.powerSensors_keeps) | (with_reducible apply State.slowTemps_keeps)
                 | (with_reducible apply keeps_onPow _ rfl rfl (fun h => h)) | (dsimp only) | (split)
                 | (with_reducible refine keeps_onPow _ ?_ ?_ (fun hm => ?_) ?_) | (exact hm) | (with_reducible rfl)
                 | (intro _; try dsimp only))

theorem State.safetyStop_keeps {s0 : State} (s : State) (cause : Nat) (source : Nat) (reading : Nat) (spBits : List Nat) (thermal : Bool) (hk : Keeps s0 s) : Keeps s0 (State.safetyStop s cause source reading spBits thermal) := by
  unfold State.safetyStop
  try dsimp only
  repeat' (first | (with_reducible assumption) | (with_reducible apply State.callL4_keeps) | (with_reducible apply State.withStatus_keeps)
                 | (with_reducible apply keeps_onMgmt _ (fun h => h)) | (with_reducible apply keeps_onPow _ rfl rfl (fun h => h))
                 | (dsimp only) | (with_reducible refine keeps_onMgmt _ (fun hm => ?_) ?_)
                 | (with_reducible refine keeps_onPow _ ?_ ?_ (fun hm => ?_) ?_) | (exact hm) | (with_reducible rfl)
                 | (intro _; try dsimp only))

theorem State.hardwareTrip_keeps {s0 : State} (s : State) (c : TripCause) (source : Nat) (reading : Nat) (hk : Keeps s0 s) : Keeps s0 (State.hardwareTrip s c source reading) := by
  unfold State.hardwareTrip
  try dsimp only
  repeat' (first | (with_reducible assumption) | (with_reducible apply State.log_keeps) | (with_reducible apply State.safetyStop_keeps)
                 | (dsimp only) | (split))

theorem enforced_same (w : Pow) (g : Nat → Domain → Domain) (l : List Nat) (v : Pow) (h : SameLimits w v) :
    SameLimits w (l.foldl (fun w d => w.modDom d (g d)) v) :=
  sameLimits_foldl w (fun w d => w.modDom d (g d)) (fun _ _ hv => hv) l v h

theorem State.enforce_keeps {s0 : State} (s : State) (n : Nat) (hk : Keeps s0 s) : Keeps s0 (State.enforce s n) := by
  unfold State.enforce
  extract_lets s1
  have h1 : Keeps s0 s1 := keeps_onPow _ rfl rfl (fun h => h) hk
  split
  · exact h1
  · apply State.log_keeps
    refine keeps_limits _ ?_ h1
    exact enforced_same _ (fun d x => { x with step := if d < 10 then 4 else 1 }) _ _ ⟨rfl, rfl, rfl⟩

theorem State.release_keeps {s0 : State} (s : State) (n : Nat) (hk : Keeps s0 s) : Keeps s0 (State.release s n) := by
  unfold State.release
  try dsimp only
  repeat' (first | (with_reducible assumption) | (with_reducible apply State.log_keeps)
                 | (with_reducible apply keeps_onPow _ rfl rfl (fun h => h)) | (dsimp only) | (split)
                 | (with_reducible refine keeps_onPow _ ?_ ?_ (fun hm => ?_) ?_) | (exact hm) | (with_reducible rfl)
                 | (intro _; try dsimp only))

theorem State.ceilingStop_keeps {s0 : State} (s : State) (n : Nat) (hk : Keeps s0 s) : Keeps s0 (State.ceilingStop s n) := by
  unfold State.ceilingStop
  try dsimp only
  repeat' (first | (with_reducible assumption) | (with_reducible apply State.log_keeps) | (with_reducible apply State.safetyStop_keeps)
                 | (with_reducible apply keeps_onPow _ rfl rfl (fun h => h)) | (dsimp only) | (split)
                 | (with_reducible refine keeps_onPow _ ?_ ?_ (fun hm => ?_) ?_) | (exact hm) | (with_reducible rfl)
                 | (intro _; try dsimp only))

theorem State.supervisor_keeps {s0 : State} (s : State) (f : SupFault) (source : Nat) (reading : Nat) (hk : Keeps s0 s) : Keeps s0 (State.supervisor s f source reading) := by
  unfold State.supervisor
  try dsimp only
  repeat' (first | (with_reducible assumption) | (with_reducible apply State.log_keeps) | (with_reducible apply State.safetyStop_keeps)
                 | (dsimp only) | (split))

theorem State.refclkLost_keeps {s0 : State} (s : State) (hk : Keeps s0 s) : Keeps s0 (State.refclkLost s) := by
  unfold State.refclkLost
  try dsimp only
  repeat' (first | (with_reducible assumption) | (with_reducible apply State.log_keeps) | (with_reducible apply State.supervisor_keeps)
                 | (with_reducible apply State.took_keeps) | (with_reducible apply keeps_onPow _ rfl rfl (fun h => h)) | (dsimp only)
                 | (split) | (with_reducible refine keeps_onPow _ ?_ ?_ (fun hm => ?_) ?_) | (exact hm) | (with_reducible rfl)
                 | (intro _; try dsimp only))

theorem State.coolantEnd_keeps {s0 : State} (s : State) (hk : Keeps s0 s) : Keeps s0 (State.coolantEnd s) := by
  unfold State.coolantEnd
  try dsimp only
  repeat' (first | (with_reducible assumption) | (with_reducible apply State.serviced_keeps) | (dsimp only) | (split))

theorem State.coolant_keeps {s0 : State} (s : State) (inletQ : Int) (flow : Nat) (hk : Keeps s0 s) : Keeps s0 (State.coolant s inletQ flow) := by
  unfold State.coolant
  try dsimp only
  repeat' (first | (with_reducible assumption) | (with_reducible apply State.coolantEnd_keeps) | (with_reducible apply State.log_keeps)
                 | (with_reducible apply State.needsService_keeps) | (with_reducible apply State.sensor_keeps)
                 | (with_reducible apply keeps_onMgmt _ (fun h => h)) | (dsimp only) | (split)
                 | (with_reducible refine keeps_onMgmt _ (fun hm => ?_) ?_) | (exact hm) | (with_reducible rfl)
                 | (intro _; try dsimp only))

theorem execEngineClockGate_keeps (e : EngId) (s : State) : ∃ s1, execEngineClockGate e s = .next s1 ∧ Keeps s s1 := by
  refine ⟨_, rfl, ?_⟩
  have hk := Keeps.refl s
  repeat' (first | (with_reducible assumption) | (with_reducible apply keeps_onDev) | (dsimp only) | (intro _; try dsimp only))

theorem execEnginePowerGate_keeps (e : EngId) (s : State) : ∃ s1, execEnginePowerGate e s = .next s1 ∧ Keeps s s1 := by
  refine ⟨_, rfl, ?_⟩
  have hk := Keeps.refl s
  repeat' (first | (with_reducible assumption) | (with_reducible apply keeps_onDev) | (dsimp only) | (intro _; try dsimp only))

theorem execEngineWake_keeps (e : EngId) (s : State) : ∃ s1, execEngineWake e s = .next s1 ∧ Keeps s s1 := by
  refine ⟨_, rfl, ?_⟩
  have hk := Keeps.refl s
  repeat' (first | (with_reducible assumption) | (with_reducible apply State.engineWake_keeps) | (dsimp only))

theorem execTerracePllOff_keeps (t : Fin 8) (s : State) : ∃ s1, execTerracePllOff t s = .next s1 ∧ Keeps s s1 := by
  refine ⟨_, rfl, ?_⟩
  have hk := Keeps.refl s
  repeat' (first | (with_reducible assumption) | (with_reducible apply State.pllOff_keeps) | (dsimp only))

theorem execTerracePllWake_keeps (t : Fin 8) (s : State) : ∃ s1, execTerracePllWake t s = .next s1 ∧ Keeps s s1 := by
  refine ⟨_, rfl, ?_⟩
  have hk := Keeps.refl s
  repeat' (first | (with_reducible assumption) | (with_reducible apply keeps_onDev) | (dsimp only) | (intro _; try dsimp only))

theorem execDormantEntry_keeps (s : State) : ∃ s1, execDormantEntry s = .next s1 ∧ Keeps s s1 := by
  refine ⟨_, rfl, ?_⟩
  have hk := Keeps.refl s
  repeat' (first | (with_reducible assumption) | (with_reducible apply State.dormantEntry_keeps) | (dsimp only))

theorem execDormantWake_keeps (cause : WakeCause) (s : State) : ∃ s1, execDormantWake cause s = .next s1 ∧ Keeps s s1 := by
  refine ⟨_, rfl, ?_⟩
  have hk := Keeps.refl s
  repeat' (first | (with_reducible assumption) | (with_reducible apply State.awake_keeps) | (dsimp only) | (split))

theorem State.nextWindow_keeps {s0 : State} (s : State) (d : Nat) (hk : Keeps s0 s) : Keeps s0 (State.nextWindow s d) := by
  unfold State.nextWindow
  try dsimp only
  repeat' (first | (with_reducible assumption) | (with_reducible apply keeps_onDev)
                 | (with_reducible apply keeps_onPow _ rfl rfl (fun h => h)) | (dsimp only) | (split)
                 | (with_reducible refine keeps_onPow _ ?_ ?_ (fun hm => ?_) ?_) | (exact hm) | (with_reducible rfl)
                 | (intro _; try dsimp only))

theorem Pow.fastLoop_same (w : Pow) (d estimate : Nat) : SameLimits w (w.fastLoop d estimate) := by
  unfold Pow.fastLoop
  extract_lets x est b
  repeat' split
  all_goals exact ⟨rfl, rfl, rfl⟩

theorem execFastLoop_keeps (d : Fin 14) (estimate : Nat) (s : State) : ∃ s1, execFastLoop d estimate s = .next s1 ∧ Keeps s s1 := by
  refine ⟨_, rfl, ?_⟩
  split
  · exact keeps_limits _ (Pow.fastLoop_same _ _ _) (State.nextWindow_keeps _ _ (Keeps.refl s))
  · exact Keeps.refl s

theorem execDroop_keeps (t : Fin 8) (s : State) : ∃ s1, execDroop t s = .next s1 ∧ Keeps s s1 := by
  refine ⟨_, rfl, ?_⟩
  have hk := Keeps.refl s
  repeat' (first | (with_reducible assumption) | (with_reducible apply keeps_onDev)
                 | (with_reducible apply keeps_onPow _ rfl rfl (fun h => h)) | (dsimp only)
                 | (with_reducible refine keeps_onPow _ ?_ ?_ (fun hm => ?_) ?_) | (exact hm) | (with_reducible rfl)
                 | (intro _; try dsimp only))

theorem execSlowLoop_keeps (d : Fin 15) (measured : Nat) (estimate : Nat) (dieQ : Option Int) (memQ : Option Int) (s : State) : ∃ s1, execSlowLoop d measured estimate dieQ memQ s = .next s1 ∧ Keeps s s1 := by
  refine ⟨_, rfl, ?_⟩
  have hk := Keeps.refl s
  repeat' (first | (with_reducible assumption) | (with_reducible apply State.slowLoop_keeps)
                 | (with_reducible apply keeps_onPow _ rfl rfl (fun h => h)) | (dsimp only) | (split)
                 | (with_reducible refine keeps_onPow _ ?_ ?_ (fun hm => ?_) ?_) | (exact hm) | (with_reducible rfl)
                 | (intro _; try dsimp only))

theorem execDivergenceHoldEnd_keeps (d : Fin 15) (s : State) : ∃ s1, execDivergenceHoldEnd d s = .next s1 ∧ Keeps s s1 := by
  refine ⟨_, rfl, ?_⟩
  have hk := Keeps.refl s
  repeat' (first | (with_reducible assumption) | (with_reducible apply keeps_onPow _ rfl rfl (fun h => h)) | (dsimp only)
                 | (with_reducible refine keeps_onPow _ ?_ ?_ (fun hm => ?_) ?_) | (exact hm) | (with_reducible rfl)
                 | (intro _; try dsimp only))

theorem execHardwareTrip_keeps (cause : TripCause) (source : Nat) (reading : Nat) (s : State) : ∃ s1, execHardwareTrip cause source reading s = .next s1 ∧ Keeps s s1 := by
  refine ⟨_, rfl, ?_⟩
  have hk := Keeps.refl s
  repeat' (first | (with_reducible assumption) | (with_reducible apply State.hardwareTrip_keeps) | (dsimp only))

theorem execCeilingEnforcement_keeps (inputW : Nat) (s : State) : ∃ s1, execCeilingEnforcement inputW s = .next s1 ∧ Keeps s s1 := by
  refine ⟨_, rfl, ?_⟩
  have hk := Keeps.refl s
  repeat' (first | (with_reducible assumption) | (with_reducible apply State.enforce_keeps) | (dsimp only))

theorem execCeilingRelease_keeps (inputW : Nat) (s : State) : ∃ s1, execCeilingRelease inputW s = .next s1 ∧ Keeps s s1 := by
  refine ⟨_, rfl, ?_⟩
  have hk := Keeps.refl s
  repeat' (first | (with_reducible assumption) | (with_reducible apply State.release_keeps) | (dsimp only))

theorem execCeilingStop_keeps (inputW : Nat) (s : State) : ∃ s1, execCeilingStop inputW s = .next s1 ∧ Keeps s s1 := by
  refine ⟨_, rfl, ?_⟩
  have hk := Keeps.refl s
  repeat' (first | (with_reducible assumption) | (with_reducible apply State.ceilingStop_keeps) | (dsimp only))

theorem Pow.trayWrite_limited (w : Pow) (v : Nat) (h : w.limited = true) : (w.trayWrite v).limited = true := by
  unfold Pow.trayWrite
  split
  · unfold Pow.limited at h ⊢
    simp only [Bool.and_eq_true, decide_eq_true_eq] at h ⊢
    omega
  · exact h

theorem Pow.trayWrite_fuses (w : Pow) (v : Nat) : (w.trayWrite v).fuseMax = w.fuseMax ∧ (w.trayWrite v).fuseFloor = w.fuseFloor := by
  unfold Pow.trayWrite
  split <;> exact ⟨rfl, rfl⟩

theorem execTrayCeilingWrite_keeps (v : BitVec 16) (s : State) : ∃ s1, execTrayCeilingWrite v s = .next s1 ∧ Keeps s s1 :=
  ⟨_, rfl, keeps_onPow _ (Pow.trayWrite_fuses _ _).1 (Pow.trayWrite_fuses _ _).2 (Pow.trayWrite_limited _ _) (Keeps.refl s)⟩

theorem execTrayCapLower_keeps (level : Bool) (s : State) : ∃ s1, execTrayCapLower level s = .next s1 ∧ Keeps s s1 := by
  refine ⟨_, rfl, ?_⟩
  have hk := Keeps.refl s
  repeat' (first | (with_reducible assumption) | (with_reducible apply keeps_onPow _ rfl rfl (fun h => h)) | (dsimp only)
                 | (with_reducible refine keeps_onPow _ ?_ ?_ (fun hm => ?_) ?_) | (exact hm) | (with_reducible rfl)
                 | (intro _; try dsimp only))

theorem execRefclkLost_keeps (s : State) : ∃ s1, execRefclkLost s = .next s1 ∧ Keeps s s1 := by
  refine ⟨_, rfl, ?_⟩
  have hk := Keeps.refl s
  repeat' (first | (with_reducible assumption) | (with_reducible apply State.refclkLost_keeps) | (dsimp only))

theorem execSupervisorFault_keeps (f : SupFault) (source : Nat) (reading : Nat) (s : State) : ∃ s1, execSupervisorFault f source reading s = .next s1 ∧ Keeps s s1 := by
  refine ⟨_, rfl, ?_⟩
  have hk := Keeps.refl s
  repeat' (first | (with_reducible assumption) | (with_reducible apply State.supervisor_keeps) | (dsimp only))

theorem execCoolantReport_keeps (inletQ : Int) (flowTenths : Nat) (s : State) : ∃ s1, execCoolantReport inletQ flowTenths s = .next s1 ∧ Keeps s s1 := by
  refine ⟨_, rfl, ?_⟩
  have hk := Keeps.refl s
  repeat' (first | (with_reducible assumption) | (with_reducible apply State.coolant_keeps) | (dsimp only))

theorem execHartTimerInterrupt_keeps (c : Fin 96) (s : State) : ∃ s1, execHartTimerInterrupt c s = .next s1 ∧ Keeps s s1 := by
  refine ⟨_, rfl, ?_⟩
  have hk := Keeps.refl s
  repeat' (first | (with_reducible assumption) | (with_reducible apply State.awake_keeps) | (with_reducible apply State.drain_keeps)
                 | (with_reducible apply keeps_onDev) | (dsimp only) | (split) | (intro _; try dsimp only))

theorem execUsageHalving_keeps (s : State) : ∃ s1, execUsageHalving s = .next s1 ∧ Keeps s s1 := by
  refine ⟨_, rfl, ?_⟩
  have hk := Keeps.refl s
  repeat' (first | (with_reducible assumption) | (with_reducible apply keeps_onDev) | (dsimp only) | (split) | (intro _; try dsimp only))

end Sys2Proof.Machine
end

