-- ==== Sys2Proof/Laws/KeepsRollback.lean ====
section
/-!
SUPPORT. What Machine/Rollback.lean keeps: the queue, the time, the fused limits, and safety.
-/

namespace Sys2Proof.Machine

theorem State.settleAborts_keeps {s0 : State} (s : State) (n : Nat) (c : Ctx) (hk : Keeps s0 s) : Keeps s0 (State.settleAborts s n c) := by
  unfold State.settleAborts
  try dsimp only
  repeat' (first | (with_reducible assumption) | (with_reducible apply State.reply_keeps) | (with_reducible apply keeps_onDev)
                 | (with_reducible apply keeps_foldl) | (with_reducible apply keeps_foldl1) | (dsimp only) | (intro _; try dsimp only))

theorem State.stopWork_keeps {s0 : State} (s : State) (n : Nat) (hk : Keeps s0 s) : Keeps s0 (State.stopWork s n) := by
  unfold State.stopWork
  try dsimp only
  repeat' (first | (with_reducible assumption) | (with_reducible apply State.abandon_keeps) | (with_reducible apply State.stopPart_keeps)
                 | (with_reducible apply keeps_onDev) | (with_reducible apply keeps_foldl) | (with_reducible apply keeps_foldl1)
                 | (dsimp only) | (intro _; try dsimp only))

theorem State.freeScratch_keeps {s0 : State} (s : State) (n : Nat) (c : Ctx) (hk : Keeps s0 s) : Keeps s0 (State.freeScratch s n c) := by
  unfold State.freeScratch
  try dsimp only
  repeat' (first | (with_reducible assumption) | (with_reducible apply State.freeExtent_keeps)
                 | (with_reducible apply State.freeWrote_keeps) | (with_reducible apply keeps_onDev) | (with_reducible apply keeps_foldl)
                 | (with_reducible apply keeps_foldl1) | (dsimp only) | (intro _; try dsimp only))

theorem State.discardStep_keeps {s0 : State} (s : State) (n : Nat) (c : Ctx) (cause : RbCause) (hk : Keeps s0 s) : Keeps s0 (State.discardStep s n c cause) := by
  unfold State.discardStep
  try dsimp only
  repeat' (first | (with_reducible assumption) | (with_reducible apply State.closeFaults_keeps)
                 | (with_reducible apply State.freeScratch_keeps) | (with_reducible apply State.refill_keeps)
                 | (with_reducible apply keeps_onDev) | (dsimp only) | (split) | (intro _; try dsimp only))

theorem State.requeue_keeps {s0 : State} {s t : State} {n seq : Nat} (hr : s.requeue n seq = some t) (h : Keeps s0 s) : Keeps s0 t := by
  unfold State.requeue at hr
  split at hr
  · cases hr
    exact h
  · split at hr
    · cases hr
      exact h
    · split at hr
      · cases hr
        exact h
      · split at hr
        · extract_lets was at hr
          clear_value was
          split at hr
          · rw [← Option.some.inj hr]
            exact keeps_onDev _ h
          · cases hr
        · extract_lets y s1 at hr
          have h1 : Keeps s0 s1 := keeps_onDev _ h
          split at hr
          · rw [← Option.some.inj hr]
            exact State.queueFault_keeps _ _ _ _ _ _ _ h1
          · split at hr
            · rw [← Option.some.inj hr]
              exact h1
            · rw [← Option.some.inj hr]
              exact State.queueFault_keeps _ _ _ _ _ _ _ (keeps_onDev _ h1)

theorem State.replay_keeps {s0 : State} (n : Nat) (owed : List (Nat × ReplyTo)) (l : List JEntry) :
    ∀ {s t : State}, s.replay n l owed = some t → Keeps s0 s → Keeps s0 t := by
  induction l with
  | nil =>
    intro s t hr h
    unfold State.replay at hr
    cases hr
    exact h
  | cons e l ih =>
    intro s t hr h
    unfold State.replay at hr
    split at hr
    · cases hr
      exact h
    · extract_lets r at hr
      generalize hs : r = q at hr
      cases q with
      | none => cases hr
      | some s1 =>
        refine ih hr ?_
        unfold r at hs
        split at hs
        · exact State.requeue_keeps hs h
        · split at hs
          · rename_i hm
            cases hs
            exact State.mapEntries_keeps hm h
          · cases hs
        · cases hs
          exact keeps_onDev _ h
        · cases hs
          exact keeps_onDev _ h
        · cases hs
          exact keeps_onDev _ h

theorem State.answerOwed_keeps {s0 : State} (s : State) (n : Nat) (owed : List (Nat × ReplyTo)) (hk : Keeps s0 s) : Keeps s0 (State.answerOwed s n owed) := by
  unfold State.answerOwed
  try dsimp only
  repeat' (first | (with_reducible assumption) | (with_reducible apply State.reply_keeps) | (with_reducible apply keeps_foldl)
                 | (with_reducible apply keeps_foldl1) | (dsimp only) | (split) | (intro _; try dsimp only))

theorem State.rolledBack_keeps {s0 : State} (s : State) (n : Nat) (cause : RbCause) (entries : Nat) (first : Nat) (hk : Keeps s0 s) : Keeps s0 (State.rolledBack s n cause entries first) := by
  unfold State.rolledBack
  try dsimp only
  repeat' (first | (with_reducible assumption) | (with_reducible apply State.event_keeps) | (with_reducible apply keeps_onDev)
                 | (dsimp only) | (intro _; try dsimp only))

theorem State.nowServed_keeps {s0 : State} (s : State) (n : Nat) (hk : Keeps s0 s) : Keeps s0 (State.nowServed s n) := by
  unfold State.nowServed
  try dsimp only
  repeat' (first | (with_reducible assumption) | (with_reducible apply State.fwDone_keeps) | (with_reducible apply State.served_keeps)
                 | (with_reducible apply keeps_onDev) | (dsimp only) | (intro _; try dsimp only))

theorem State.notMade_keeps {s0 : State} (s : State) (n : Nat) (c : Ctx) (cause : RbCause) (hk : Keeps s0 s) : Keeps s0 (State.notMade s n c cause) := by
  unfold State.notMade
  try dsimp only
  repeat' (first | (with_reducible assumption) | (with_reducible apply State.discardStep_keeps)
                 | (with_reducible apply State.nowServed_keeps) | (with_reducible apply State.rolledBack_keeps)
                 | (with_reducible apply keeps_onDev) | (with_reducible apply keeps_foldl) | (with_reducible apply keeps_foldl1)
                 | (dsimp only) | (intro _; try dsimp only))

theorem State.rollback_keeps {s0 : State} (s : State) (n : Nat) (cause : RbCause) (imageOk : Bool) (hk : Keeps s0 s) :
    Keeps s0 (State.rollback s n cause imageOk) := by
  unfold State.rollback
  split
  · exact hk
  · rename_i c0 _
    split
    · exact hk
    · extract_lets s1
      have h1 : Keeps s0 s1 := State.settleAborts_keeps _ _ _ (State.stopWork_keeps _ _ hk)
      clear_value s1
      split
      · exact h1
      · rename_i c _
        split
        · exact State.notMade_keeps _ _ _ _ h1
        · extract_lets s2
          have h2 : Keeps s0 s2 := State.discardStep_keeps _ _ _ _ h1
          clear_value s2
          split
          · exact State.notMade_keeps _ _ _ _ h1
          · extract_lets s3
            have h3 : Keeps s0 s3 := keeps_withDev _ h2
            clear_value s3
            split
            · exact State.notMade_keeps _ _ _ _ h1
            · rename_i s4 hr
              have h4 := State.replay_keeps _ _ _ hr h3
              extract_lets s5
              refine State.nowServed_keeps _ _ (State.rolledBack_keeps _ _ _ _ _ (State.answerOwed_keeps _ _ _ ?_))
              unfold s5
              cases c.lostFrom with
              | none => exact h4
              | some o => exact keeps_onDev _ h4

theorem execContextRollback_keeps (n : Fin 4096) (cause : RbCause) (imageOk : Bool) (s : State) : ∃ s1, execContextRollback n cause imageOk s = .next s1 ∧ Keeps s s1 := by
  refine ⟨_, rfl, ?_⟩
  have hk := Keeps.refl s
  repeat' (first | (with_reducible assumption) | (with_reducible apply State.rollback_keeps) | (dsimp only) | (split))

end Sys2Proof.Machine
end

