-- ==== Sys2Proof/Laws/KeepsRecovery.lean ====
section
/-!
SUPPORT. What Machine/Recovery.lean keeps: the queue, the time, the fused limits, and safety.
-/

namespace Sys2Proof.Machine

theorem State.dump_keeps {s0 : State} (s : State) (ts : List Nat) (level : Nat) (cause : Nat) (part : Nat) (trig : Nat) (scope : Nat) (hk : Keeps s0 s) : Keeps s0 (State.dump s ts level cause part trig scope) := by
  unfold State.dump
  try dsimp only
  repeat' (first | (with_reducible assumption) | (with_reducible apply State.log_keeps) | (with_reducible apply keeps_onDev)
                 | (with_reducible apply keeps_onMgmt _ (fun h => h)) | (with_reducible apply keeps_foldl)
                 | (with_reducible apply keeps_foldl1) | (dsimp only) | (split) | (with_reducible refine keeps_onMgmt _ (fun hm => ?_) ?_)
                 | (exact hm) | (with_reducible rfl) | (intro _; try dsimp only))

theorem State.countTerr_keeps {s0 : State} (s : State) (t : Nat) (k : Nat) (hk : Keeps s0 s) : Keeps s0 (State.countTerr s t k) := by
  unfold State.countTerr
  try dsimp only
  repeat' (first | (with_reducible assumption) | (with_reducible apply keeps_onDev) | (dsimp only) | (split) | (intro _; try dsimp only))

theorem State.swapped_keeps {s0 : State} (s : State) (kind : Nat) (logical : Nat) (out : Nat) (into : Nat) (hk : Keeps s0 s) : Keeps s0 (State.swapped s kind logical out into) := by
  unfold State.swapped
  try dsimp only
  repeat' (first | (with_reducible assumption) | (with_reducible apply State.log_keeps)
                 | (with_reducible apply keeps_onMgmt _ (fun h => h)) | (dsimp only)
                 | (with_reducible refine keeps_onMgmt _ (fun hm => ?_) ?_) | (exact hm) | (with_reducible rfl)
                 | (intro _; try dsimp only))

theorem State.unitFenced_keeps {s0 : State} (s : State) (kind : Nat) (phys : Nat) (hk : Keeps s0 s) : Keeps s0 (State.unitFenced s kind phys) := by
  unfold State.unitFenced
  try dsimp only
  repeat' (first | (with_reducible assumption) | (with_reducible apply State.log_keeps)
                 | (with_reducible apply keeps_onMgmt _ (fun h => h)) | (dsimp only)
                 | (with_reducible refine keeps_onMgmt _ (fun hm => ?_) ?_) | (exact hm) | (with_reducible rfl)
                 | (intro _; try dsimp only))

theorem State.replaceEngine_keeps {s0 : State} (s : State) (e : Nat) (hk : Keeps s0 s) : Keeps s0 (State.replaceEngine s e).1 := by
  unfold State.replaceEngine
  try dsimp only
  repeat' (first | (with_reducible assumption) | (with_reducible apply State.countTerr_keeps)
                 | (with_reducible apply State.needsService_keeps) | (with_reducible apply State.swapped_keeps)
                 | (with_reducible apply State.unitFenced_keeps) | (with_reducible apply keeps_onDev) | (with_reducible apply keeps_foldl)
                 | (with_reducible apply keeps_foldl1) | (dsimp only) | (split) | (intro _; try dsimp only))

theorem State.replaceCluster_keeps {s0 : State} (s : State) (e : Nat) (k : Nat) (hk : Keeps s0 s) : Keeps s0 (State.replaceCluster s e k).1 := by
  unfold State.replaceCluster
  try dsimp only
  repeat' (first | (with_reducible assumption) | (with_reducible apply State.countTerr_keeps)
                 | (with_reducible apply State.needsService_keeps) | (with_reducible apply State.swapped_keeps)
                 | (with_reducible apply State.unitFenced_keeps) | (with_reducible apply keeps_onDev) | (dsimp only) | (split)
                 | (intro _; try dsimp only))

theorem State.disableWays_keeps {s0 : State} (s : State) (e : Nat) (ws : List Nat) (hk : Keeps s0 s) : Keeps s0 (State.disableWays s e ws).1 := by
  unfold State.disableWays
  try dsimp only
  repeat' (first | (with_reducible assumption) | (with_reducible apply State.log_keeps) | (with_reducible apply keeps_onDev)
                 | (with_reducible apply keeps_foldl) | (with_reducible apply keeps_foldl1) | (dsimp only) | (split)
                 | (intro _; try dsimp only))

theorem State.selfTested_keeps {s0 : State} (s : State) (e : Nat) (test : SelfTest) (hk : Keeps s0 s) : Keeps s0 (State.selfTested s e test).1 := by
  unfold State.selfTested
  try dsimp only
  repeat' (first | (with_reducible assumption) | (with_reducible apply State.disableWays_keeps)
                 | (with_reducible apply State.replaceCluster_keeps) | (dsimp only) | (split) | (intro _; try dsimp only))

theorem State.isolate_keeps {s0 : State} (s : State) (cls : Nat) (e : Nat) (hk : Keeps s0 s) : Keeps s0 (State.isolate s cls e) := by
  unfold State.isolate
  try dsimp only
  repeat' (first | (with_reducible assumption) | (with_reducible apply State.abandon_keeps) | (with_reducible apply keeps_onDev)
                 | (with_reducible apply keeps_foldl) | (with_reducible apply keeps_foldl1) | (dsimp only) | (split)
                 | (intro _; try dsimp only))

theorem State.reinit_keeps {s0 : State} (s : State) (e : Nat) (resets : List Nat) (hk : Keeps s0 s) : Keeps s0 (State.reinit s e resets) := by
  unfold State.reinit
  try dsimp only
  repeat' (first | (with_reducible assumption) | (with_reducible apply State.pllOff_keeps) | (with_reducible apply keeps_onDev)
                 | (with_reducible apply keeps_onMgmt _ (fun h => h)) | (with_reducible apply keeps_foldl)
                 | (with_reducible apply keeps_foldl1) | (dsimp only) | (with_reducible refine keeps_onMgmt _ (fun hm => ?_) ?_)
                 | (exact hm) | (with_reducible rfl) | (intro _; try dsimp only))

theorem State.raiseAlarm_keeps {s0 : State} (s : State) (p : Nat) (cause : RbCause) (hk : Keeps s0 s) : Keeps s0 (State.raiseAlarm s p cause) := by
  unfold State.raiseAlarm
  try dsimp only
  repeat' (first | (with_reducible assumption) | (with_reducible apply State.callL3_keeps) | (with_reducible apply State.isolate_keeps)
                 | (with_reducible apply State.withStatus_keeps) | (with_reducible apply keeps_onDev) | (with_reducible apply keeps_foldl)
                 | (with_reducible apply keeps_foldl1) | (dsimp only) | (split) | (intro _; try dsimp only))

theorem State.alarmAt_keeps {s0 : State} (s : State) (t : Nat) (cause : RbCause) (hk : Keeps s0 s) : Keeps s0 (State.alarmAt s t cause) := by
  unfold State.alarmAt
  try dsimp only
  repeat' (first | (with_reducible assumption) | (with_reducible apply State.raiseAlarm_keeps) | (dsimp only) | (split))

theorem State.engineReset_keeps {s0 : State} (s : State) (e : Nat) (cls : Nat) (test : SelfTest) (hk : Keeps s0 s) : Keeps s0 (State.engineReset s e cls test) := by
  unfold State.engineReset
  try dsimp only
  repeat' (first | (with_reducible assumption) | (with_reducible apply State.alarmAt_keeps) | (with_reducible apply State.countTerr_keeps)
                 | (with_reducible apply State.dump_keeps) | (with_reducible apply State.isolate_keeps)
                 | (with_reducible apply State.reinit_keeps) | (with_reducible apply State.replaceEngine_keeps)
                 | (with_reducible apply State.selfTested_keeps) | (with_reducible apply State.served_keeps)
                 | (with_reducible apply keeps_onDev) | (with_reducible apply keeps_foldl) | (with_reducible apply keeps_foldl1)
                 | (dsimp only) | (split) | (intro _; try dsimp only))

theorem State.resetLimit_keeps {s0 : State} (s : State) (e : Nat) (hk : Keeps s0 s) : Keeps s0 (State.resetLimit s e) := by
  unfold State.resetLimit
  try dsimp only
  repeat' (first | (with_reducible assumption) | (with_reducible apply State.alarmAt_keeps)
                 | (with_reducible apply State.replaceEngine_keeps) | (dsimp only) | (split))

theorem State.rollAll_keeps {s0 : State} (s : State) (who : List Nat) (cause : RbCause) (bad : List Nat) (hk : Keeps s0 s) : Keeps s0 (State.rollAll s who cause bad) := by
  unfold State.rollAll
  try dsimp only
  repeat' (first | (with_reducible assumption) | (with_reducible apply State.rollback_keeps) | (with_reducible apply keeps_foldl)
                 | (with_reducible apply keeps_foldl1) | (dsimp only) | (intro _; try dsimp only))

theorem State.l2Engine_keeps {s0 : State} (s : State) (e : Nat) (tests : List (EngId × SelfTest)) (hk : Keeps s0 s) : Keeps s0 (State.l2Engine s e tests) := by
  unfold State.l2Engine
  try dsimp only
  repeat' (first | (with_reducible assumption) | (with_reducible apply State.replaceEngine_keeps)
                 | (with_reducible apply State.selfTested_keeps) | (dsimp only) | (split) | (intro _; try dsimp only))

theorem State.l2_keeps {s0 : State} (s : State) (p : Nat) (cause : RbCause) (bad : List Nat) (tests : List (EngId × SelfTest)) (hk : Keeps s0 s) : Keeps s0 (State.l2 s p cause bad tests) := by
  unfold State.l2
  try dsimp only
  repeat' (first | (with_reducible assumption) | (with_reducible apply State.dump_keeps) | (with_reducible apply State.l2Engine_keeps)
                 | (with_reducible apply State.reinit_keeps) | (with_reducible apply State.rollAll_keeps)
                 | (with_reducible apply State.rollbackNotice_keeps) | (with_reducible apply keeps_onDev)
                 | (with_reducible apply keeps_foldl) | (with_reducible apply keeps_foldl1) | (dsimp only) | (intro _; try dsimp only))

theorem State.partitionAlarm_keeps {s0 : State} (s : State) (p : Nat) (cause : RbCause) (bad : List Nat) (tests : List (EngId × SelfTest)) (hk : Keeps s0 s) : Keeps s0 (State.partitionAlarm s p cause bad tests) := by
  unfold State.partitionAlarm
  try dsimp only
  repeat' (first | (with_reducible assumption) | (with_reducible apply State.l2_keeps) | (with_reducible apply State.raiseAlarm_keeps)
                 | (dsimp only) | (split))

theorem State.bootAgain_keeps {s0 : State} (s : State) (p : Nat) (hk : Keeps s0 s) : Keeps s0 (State.bootAgain s p) := by
  unfold State.bootAgain
  try dsimp only
  repeat' (first | (with_reducible assumption) | (with_reducible apply State.bootPut_keeps) | (dsimp only) | (split))

theorem State.deliver_keeps {s0 : State} (a n : Nat) : ∀ s : State, Keeps s0 s → Keeps s0 (State.deliver s a n) := by
  induction n with
  | zero => exact fun _ h => h
  | succ n ih => exact fun s h => ih _ (State.itemComplete_keeps _ _ _ h)

theorem State.restoreAtt_keeps {s0 : State} (s : State) (a : Nat) (hk : Keeps s0 s) : Keeps s0 (State.restoreAtt s a) := by
  unfold State.restoreAtt
  split
  · exact hk
  · exact State.orphan_keeps _ _ _ (State.deliver_keeps _ _ _ (State.attEvent_keeps _ _ _ _ _ (keeps_onDev _ hk)))

theorem State.quiesce_keeps {s0 : State} (s : State) (hk : Keeps s0 s) : Keeps s0 (State.quiesce s) := by
  unfold State.quiesce
  generalize List.range 96 = l
  extract_lets s1 s2 s3
  have h1 : Keeps s0 s1 := keeps_foldl (fun s c => State.drain s c) _ _ (fun _ _ h => State.drain_keeps _ _ h) hk
  exact keeps_onMem _ (fun h => h) (State.dump_keeps _ _ _ _ _ _ _ (State.writeBackCores_keeps _ h1))

theorem Mgmt.startJormon_fuse (m : Mgmt) : m.startJormon.fuse = m.fuse := by
  unfold Mgmt.startJormon
  split <;> rfl

theorem State.resetDevice_keeps {s0 : State} (s : State) (badWays : List (EngId × Fin 8)) (bad : List Nat) (lanes : List LaneFinding) (hk : Keeps s0 s) :
    Keeps s0 (State.resetDevice s badWays bad lanes) := by
  unfold State.resetDevice
  generalize List.range 8 = l
  generalize List.range 40 = l40
  extract_lets who s1 s2 s3 s4 s5 s6 s7
  have h1 : Keeps s0 s1 := State.laneFound_keeps _ _ (keeps_onDev _ hk)
  have h2 : Keeps s0 s2 := keeps_onMgmt _ (fun h => by
    show (Mgmt.startJormon _).fuse ≤ 64
    rw [Mgmt.startJormon_fuse]
    exact h) h1
  have h4 : Keeps s0 s4 := State.rollAll_keeps _ _ _ _ (keeps_onPow _ rfl rfl (fun h => h) h2)
  have h6 : Keeps s0 s6 := keeps_foldl (fun s p => if (s.mgmt.terraces p).isEmpty then s else s.bootAgain p) _ _ (fun _ _ h => by
    split
    · exact h
    · exact State.bootAgain_keeps _ _ h) (keeps_onDev _ h4)
  exact keeps_foldl (fun s a => State.restoreAtt s a) _ _ (fun _ _ h => State.restoreAtt_keeps _ _ h) (keeps_onDev _ h6)

theorem State.deviceReset_keeps {s0 : State} (s : State) (trains : Bool) (badWays : List (EngId × Fin 8)) (bad : List Nat) (lanes : List LaneFinding) (hk : Keeps s0 s) :
    Keeps s0 (State.deviceReset s trains badWays bad lanes) := by
  unfold State.deviceReset
  split
  · exact hk
  · refine State.withStatus_keeps _ _ hk (fun z hz => ?_)
    extract_lets s1 s2
    have h1 : Keeps s0 s1 := by
      unfold s1
      split
      · exact hz
      · exact State.callL3_keeps _ hz
    have h2 : Keeps s0 s2 := State.quiesce_keeps _ (keeps_onMgmt _ (fun h => h) h1)
    clear_value s2
    split
    · exact h1
    · split
      · exact keeps_onMgmt _ (fun h => h) h1
      · split
        · exact State.resetDevice_keeps _ _ _ _ h2
        · exact State.callL4_keeps _ (keeps_onMgmt _ (fun h => h) h2)

theorem State.askRemoval_keeps {s0 : State} (s : State) (hk : Keeps s0 s) : Keeps s0 (State.askRemoval s) := by
  unfold State.askRemoval
  try dsimp only
  repeat' (first | (with_reducible assumption) | (with_reducible apply keeps_onMgmt _ (fun h => h))
                 | (with_reducible apply keeps_onPow _ rfl rfl (fun h => h)) | (dsimp only)
                 | (with_reducible refine keeps_onMgmt _ (fun hm => ?_) ?_)
                 | (with_reducible refine keeps_onPow _ ?_ ?_ (fun hm => ?_) ?_) | (exact hm) | (with_reducible rfl)
                 | (intro _; try dsimp only))

theorem State.jormonLost_keeps {s0 : State} (s : State) (h : Nat) (c : Nat) (hk : Keeps s0 s) : Keeps s0 (State.jormonLost s h c) := by
  unfold State.jormonLost
  try dsimp only
  repeat' (first | (with_reducible assumption) | (with_reducible apply State.callL3_keeps) | (with_reducible apply State.log_keeps)
                 | (with_reducible apply State.needsService_keeps) | (with_reducible apply State.swapped_keeps)
                 | (with_reducible apply State.withStatus_keeps) | (with_reducible apply keeps_onMgmt _ (fun h => h)) | (dsimp only)
                 | (split) | (with_reducible refine keeps_onMgmt _ (fun hm => ?_) ?_) | (exact hm) | (with_reducible rfl)
                 | (intro _; try dsimp only))

theorem execCommandReplay_keeps (part : Nat) (cls : HwClass) (s : State) : ∃ s1, execCommandReplay part cls s = .next s1 ∧ Keeps s s1 := by
  refine ⟨_, rfl, ?_⟩
  have hk := Keeps.refl s
  repeat' (first | (with_reducible assumption) | (with_reducible apply State.absorb_keeps) | (dsimp only) | (split))

theorem execEngineReset_keeps (e : EngId) (cls : HwClass) (test : SelfTest) (s : State) : ∃ s1, execEngineReset e cls test s = .next s1 ∧ Keeps s s1 := by
  refine ⟨_, rfl, ?_⟩
  have hk := Keeps.refl s
  repeat' (first | (with_reducible assumption) | (with_reducible apply State.engineReset_keeps) | (dsimp only))

theorem execEngineResetLimit_keeps (e : EngId) (s : State) : ∃ s1, execEngineResetLimit e s = .next s1 ∧ Keeps s s1 := by
  refine ⟨_, rfl, ?_⟩
  have hk := Keeps.refl s
  repeat' (first | (with_reducible assumption) | (with_reducible apply State.resetLimit_keeps) | (dsimp only))

theorem execProgressWatchdog_keeps (e : EngId) (s : State) : ∃ s1, execProgressWatchdog e s = .next s1 ∧ Keeps s s1 := by
  refine ⟨_, rfl, ?_⟩
  have hk := Keeps.refl s
  repeat' (first | (with_reducible assumption) | (with_reducible apply State.isolate_keeps) | (dsimp only) | (split))

theorem execPartitionAlarm_keeps (pt : Fin 8) (cause : RbCause) (badImages : List (Fin 4096)) (tests : List (EngId × SelfTest)) (s : State) : ∃ s1, execPartitionAlarm pt cause badImages tests s = .next s1 ∧ Keeps s s1 := by
  refine ⟨_, rfl, ?_⟩
  have hk := Keeps.refl s
  repeat' (first | (with_reducible assumption) | (with_reducible apply State.partitionAlarm_keeps) | (dsimp only)
                 | (intro _; try dsimp only))

theorem execL2BoundExpiry_keeps (pt : Fin 8) (s : State) : ∃ s1, execL2BoundExpiry pt s = .next s1 ∧ Keeps s s1 := by
  refine ⟨_, rfl, ?_⟩
  have hk := Keeps.refl s
  repeat' (first | (with_reducible assumption) | (with_reducible apply State.callL3_keeps) | (with_reducible apply State.withStatus_keeps)
                 | (dsimp only) | (split))

theorem execDeviceReset_keeps (linksTrain : Bool) (badWays : List (EngId × Fin 8)) (badImages : List (Fin 4096)) (lanes : List LaneFinding) (s : State) : ∃ s1, execDeviceReset linksTrain badWays badImages lanes s = .next s1 ∧ Keeps s s1 := by
  refine ⟨_, rfl, ?_⟩
  have hk := Keeps.refl s
  repeat' (first | (with_reducible assumption) | (with_reducible apply State.deviceReset_keeps) | (dsimp only) | (intro _; try dsimp only))

theorem execL3BoundExpiry_keeps (s : State) : ∃ s1, execL3BoundExpiry s = .next s1 ∧ Keeps s s1 := by
  refine ⟨_, rfl, ?_⟩
  have hk := Keeps.refl s
  repeat' (first | (with_reducible assumption) | (with_reducible apply State.callL4_keeps) | (with_reducible apply State.withStatus_keeps)
                 | (with_reducible apply keeps_onMgmt _ (fun h => h)) | (dsimp only) | (split)
                 | (with_reducible refine keeps_onMgmt _ (fun hm => ?_) ?_) | (exact hm) | (with_reducible rfl)
                 | (intro _; try dsimp only))

theorem execTrayPowerCycle_keeps (s : State) : ∃ s1, execTrayPowerCycle s = .next s1 ∧ Keeps s s1 := by
  refine ⟨_, rfl, ?_⟩
  have hk := Keeps.refl s
  repeat' (first | (with_reducible assumption) | (with_reducible apply State.askRemoval_keeps) | (dsimp only) | (split))

theorem execDumpTruncated_keeps (t : Fin 8) (s : State) : ∃ s1, execDumpTruncated t s = .next s1 ∧ Keeps s s1 := by
  refine ⟨_, rfl, ?_⟩
  have hk := Keeps.refl s
  repeat' (first | (with_reducible assumption) | (with_reducible apply keeps_onDev) | (dsimp only) | (split) | (intro _; try dsimp only))

theorem execJormonCoreLost_keeps (h : Fin 4) (core : Fin 5) (s : State) : ∃ s1, execJormonCoreLost h core s = .next s1 ∧ Keeps s s1 := by
  refine ⟨_, rfl, ?_⟩
  have hk := Keeps.refl s
  repeat' (first | (with_reducible assumption) | (with_reducible apply State.jormonLost_keeps) | (dsimp only))

theorem execSpRequestDeviceReset_keeps (s : State) : ∃ s1, execSpRequestDeviceReset s = .next s1 ∧ Keeps s s1 := by
  refine ⟨_, rfl, ?_⟩
  have hk := Keeps.refl s
  repeat' (first | (with_reducible assumption) | (with_reducible apply State.callL3_keeps) | (with_reducible apply State.withStatus_keeps)
                 | (dsimp only) | (split))

theorem execSpRequestPowerRemoval_keeps (s : State) : ∃ s1, execSpRequestPowerRemoval s = .next s1 ∧ Keeps s s1 := by
  refine ⟨_, rfl, ?_⟩
  have hk := Keeps.refl s
  repeat' (first | (with_reducible assumption) | (with_reducible apply keeps_onPow _ rfl rfl (fun h => h)) | (dsimp only) | (split)
                 | (with_reducible refine keeps_onPow _ ?_ ?_ (fun hm => ?_) ?_) | (exact hm) | (with_reducible rfl)
                 | (intro _; try dsimp only))

end Sys2Proof.Machine
end

