-- ==== Sys2Proof/Laws/KeepsManage.lean ====
section
/-!
SUPPORT. What Machine/Manage.lean keeps: the queue, the time, the fused limits, and safety.
-/

namespace Sys2Proof.Machine

theorem State.mctp_keeps {s0 : State} (s : State) (r : Requester) (f : State → State) (hk : Keeps s0 s) (hf : ∀ z0, Keeps s0 z0 → Keeps s0 (f z0)) : Keeps s0 (State.mctp s r f) := by
  unfold State.mctp
  try dsimp only
  repeat' (first | (with_reducible assumption) | (with_reducible apply State.host_keeps) | (with_reducible apply hf) | (dsimp only)
                 | (split))

theorem State.says_keeps {s0 : State} (s : State) (code : Nat) (bs : Bytes) (hk : Keeps s0 s) : Keeps s0 (State.says s code bs) := by
  unfold State.says
  try dsimp only
  repeat' (first | (with_reducible assumption) | (with_reducible apply State.reply_keeps)
                 | (with_reducible apply keeps_onMgmt _ (fun h => h)) | (dsimp only)
                 | (with_reducible refine keeps_onMgmt _ (fun hm => ?_) ?_) | (exact hm) | (with_reducible rfl)
                 | (intro _; try dsimp only))

theorem State.vendor_keeps {s0 : State} (s : State) (r : Requester) (f : State → State) (hk : Keeps s0 s) (hf : ∀ z0, Keeps s0 z0 → Keeps s0 (f z0)) : Keeps s0 (State.vendor s r f) := by
  unfold State.vendor
  try dsimp only
  repeat' (first | (with_reducible assumption) | (with_reducible apply State.mctp_keeps) | (with_reducible apply State.says_keeps)
                 | (with_reducible apply hf) | (dsimp only) | (split) | (intro _; try dsimp only))

theorem State.fwMessage_keeps {s0 : State} (s : State) (r : Requester) (f : State → State) (hk : Keeps s0 s) (hf : ∀ z0, Keeps s0 z0 → Keeps s0 (f z0)) : Keeps s0 (State.fwMessage s r f) := by
  unfold State.fwMessage
  try dsimp only
  repeat' (first | (with_reducible assumption) | (with_reducible apply State.mctp_keeps) | (with_reducible apply State.says_keeps)
                 | (with_reducible apply hf) | (dsimp only) | (split) | (intro _; try dsimp only))

theorem State.fwRecord_keeps {s0 : State} (s : State) (comp : Nat) (stage : Nat) (im : Word × Nat × Nat) (hk : Keeps s0 s) : Keeps s0 (State.fwRecord s comp stage im) := by
  unfold State.fwRecord
  try dsimp only
  repeat' (first | (with_reducible assumption) | (with_reducible apply State.log_keeps) | (dsimp only))

theorem State.startComp_keeps {s0 : State} (s : State) (c : Nat) (fails : Nat) (hk : Keeps s0 s) : Keeps s0 (State.startComp s c fails).1 := by
  unfold State.startComp
  try dsimp only
  repeat' (first | (with_reducible assumption) | (with_reducible apply State.fwRecord_keeps)
                 | (with_reducible apply keeps_onMgmt _ (fun h => h)) | (dsimp only) | (split)
                 | (with_reducible refine keeps_onMgmt _ (fun hm => ?_) ?_) | (exact hm) | (with_reducible rfl)
                 | (intro _; try dsimp only))

theorem State.stopByolo_keeps {s0 : State} (s : State) (cause : Nat) (other : Bool) (hk : Keeps s0 s) : Keeps s0 (State.stopByolo s cause other) := by
  unfold State.stopByolo
  try dsimp only
  repeat' (first | (with_reducible assumption) | (with_reducible apply keeps_onMgmt _ (fun h => h)) | (dsimp only)
                 | (with_reducible refine keeps_onMgmt _ (fun hm => ?_) ?_) | (exact hm) | (with_reducible rfl)
                 | (intro _; try dsimp only))

theorem State.restartByolo_keeps {s0 : State} (s : State) (cause : Nat) (hk : Keeps s0 s) : Keeps s0 (State.restartByolo s cause) := by
  unfold State.restartByolo
  try dsimp only
  repeat' (first | (with_reducible assumption) | (with_reducible apply State.stopByolo_keeps)
                 | (with_reducible apply keeps_onMgmt _ (fun h => h)) | (with_reducible apply keeps_onPow _ rfl rfl (fun h => h))
                 | (dsimp only) | (split) | (with_reducible refine keeps_onMgmt _ (fun hm => ?_) ?_)
                 | (with_reducible refine keeps_onPow _ ?_ ?_ (fun hm => ?_) ?_) | (exact hm) | (with_reducible rfl)
                 | (intro _; try dsimp only))

theorem addLogs_fuse (l : List LogRec) (m : Mgmt) : (l.foldl (fun m r => m.addLog r) m).fuse = m.fuse := by
  induction l generalizing m with
  | nil => rfl
  | cons r l ih =>
    show (l.foldl (fun m r => m.addLog r) (m.addLog r)).fuse = m.fuse
    rw [ih, addLog_fuse]

theorem State.byoloBack_keeps {s0 : State} (s : State) (cause : Nat) (other : Bool) (hk : Keeps s0 s) : Keeps s0 (State.byoloBack s cause other) := by
  unfold State.byoloBack
  extract_lets s1 kept gap s2 st s3
  have h1 : Keeps s0 s1 := by
    unfold s1
    split
    · exact keeps_onMgmt _ (fun h => h) hk
    · exact hk
  have h2 : Keeps s0 s2 := keeps_onMgmt _ (fun h => by
    rw [addLogs_fuse]
    exact h) h1
  have h3 : Keeps s0 st.1 := State.startComp_keeps _ _ _ h2
  split
  · have h4 : Keeps s0 s3 := State.log_keeps _ _ _ _ _ h3
    split
    · exact h4
    · exact State.log_keeps _ _ _ _ _ h4
  · exact keeps_onPow _ rfl rfl (fun h => h) (keeps_onMgmt _ (fun h => h) h3)

theorem State.restartEnd_keeps {s0 : State} (s : State) (hk : Keeps s0 s) : Keeps s0 (State.restartEnd s) := by
  unfold State.restartEnd
  try dsimp only
  repeat' (first | (with_reducible assumption) | (with_reducible apply State.byoloBack_keeps) | (dsimp only) | (split))

theorem State.logRead_keeps {s0 : State} (s : State) (first : Nat) (count : Nat) (hk : Keeps s0 s) : Keeps s0 (State.logRead s first count) := by
  unfold State.logRead
  try dsimp only
  repeat' (first | (with_reducible assumption) | (with_reducible apply State.log_keeps) | (with_reducible apply State.says_keeps)
                 | (dsimp only) | (split) | (intro _; try dsimp only))

theorem State.dumpList_keeps {s0 : State} (s : State) (t : Nat) (hk : Keeps s0 s) : Keeps s0 (State.dumpList s t) := by
  unfold State.dumpList
  try dsimp only
  repeat' (first | (with_reducible assumption) | (with_reducible apply State.says_keeps) | (dsimp only) | (split)
                 | (intro _; try dsimp only))

theorem State.dumpRead_keeps {s0 : State} (s : State) (t : Nat) (slot : Nat) (off : Nat) (hk : Keeps s0 s) : Keeps s0 (State.dumpRead s t slot off) := by
  unfold State.dumpRead
  try dsimp only
  repeat' (first | (with_reducible assumption) | (with_reducible apply State.says_keeps) | (dsimp only) | (split)
                 | (intro _; try dsimp only))

theorem State.summaryRead_keeps {s0 : State} (s : State) (slot : Nat) (idx : Nat) (hk : Keeps s0 s) : Keeps s0 (State.summaryRead s slot idx) := by
  unfold State.summaryRead
  try dsimp only
  repeat' (first | (with_reducible assumption) | (with_reducible apply State.says_keeps) | (with_reducible apply State.took_keeps)
                 | (dsimp only) | (split) | (intro _; try dsimp only))

theorem State.spdmTo_keeps {s0 : State} (s : State) (r : Requester) (k : Nat) (hk : Keeps s0 s) : Keeps s0 (State.spdmTo s r k) := by
  unfold State.spdmTo
  try dsimp only
  repeat' (first | (with_reducible assumption) | (with_reducible apply keeps_onMgmt _ (fun h => h)) | (dsimp only)
                 | (with_reducible refine keeps_onMgmt _ (fun hm => ?_) ?_) | (exact hm) | (with_reducible rfl)
                 | (intro _; try dsimp only))

theorem State.spdm_keeps {s0 : State} (s : State) (r : Requester) (stage : Nat) (f : State → State) (hk : Keeps s0 s) (hf : ∀ z0, Keeps s0 z0 → Keeps s0 (f z0)) : Keeps s0 (State.spdm s r stage f) := by
  unfold State.spdm
  try dsimp only
  repeat' (first | (with_reducible assumption) | (with_reducible apply State.mctp_keeps) | (with_reducible apply State.says_keeps)
                 | (with_reducible apply hf) | (dsimp only) | (split) | (intro _; try dsimp only))

theorem State.algorithms_keeps {s0 : State} (s : State) (r : Requester) (asym : Nat) (hash : Nat) (hk : Keeps s0 s) : Keeps s0 (State.algorithms s r asym hash) := by
  unfold State.algorithms
  try dsimp only
  repeat' (first | (with_reducible assumption) | (with_reducible apply State.says_keeps) | (with_reducible apply State.spdmTo_keeps)
                 | (dsimp only) | (split))

theorem State.certificate_keeps {s0 : State} (s : State) (slot : Nat) (off : Nat) (len : Nat) (hk : Keeps s0 s) : Keeps s0 (State.certificate s slot off len) := by
  unfold State.certificate
  try dsimp only
  repeat' (first | (with_reducible assumption) | (with_reducible apply State.says_keeps) | (dsimp only) | (split))

theorem State.challenge_keeps {s0 : State} (s : State) (slot : Nat) (nonce : Nat) (hk : Keeps s0 s) : Keeps s0 (State.challenge s slot nonce) := by
  unfold State.challenge
  try dsimp only
  repeat' (first | (with_reducible assumption) | (with_reducible apply State.says_keeps) | (dsimp only) | (split))

theorem State.measurements_keeps {s0 : State} (s : State) (idx : Nat) (hk : Keeps s0 s) : Keeps s0 (State.measurements s idx) := by
  unfold State.measurements
  try dsimp only
  repeat' (first | (with_reducible assumption) | (with_reducible apply State.says_keeps) | (dsimp only) | (split)
                 | (intro _; try dsimp only))

theorem State.sensorRead_keeps {s0 : State} (s : State) (id : Nat) (hk : Keeps s0 s) : Keeps s0 (State.sensorRead s id) := by
  unfold State.sensorRead
  try dsimp only
  repeat' (first | (with_reducible assumption) | (with_reducible apply State.says_keeps) | (with_reducible apply State.took_keeps)
                 | (dsimp only) | (split))

theorem State.requestUpdate_keeps {s0 : State} (s : State) (r : Requester) (hk : Keeps s0 s) : Keeps s0 (State.requestUpdate s r) := by
  unfold State.requestUpdate
  try dsimp only
  repeat' (first | (with_reducible assumption) | (with_reducible apply State.says_keeps)
                 | (with_reducible apply keeps_onMgmt _ (fun h => h)) | (dsimp only) | (split)
                 | (with_reducible refine keeps_onMgmt _ (fun hm => ?_) ?_) | (exact hm) | (with_reducible rfl)
                 | (intro _; try dsimp only))

theorem State.updating_keeps {s0 : State} (s : State) (r : Requester) (f : Update → State → State) (hk : Keeps s0 s) (hf : ∀ z0 z1, Keeps s0 z1 → Keeps s0 (f z0 z1)) : Keeps s0 (State.updating s r f) := by
  unfold State.updating
  try dsimp only
  repeat' (first | (with_reducible assumption) | (with_reducible apply State.says_keeps) | (with_reducible apply hf) | (dsimp only)
                 | (split))

theorem State.updateComponent_keeps {s0 : State} (s : State) (u : Update) (img : Image) (hk : Keeps s0 s) : Keeps s0 (State.updateComponent s u img) := by
  unfold State.updateComponent
  try dsimp only
  repeat' (first | (with_reducible assumption) | (with_reducible apply State.says_keeps)
                 | (with_reducible apply keeps_onMgmt _ (fun h => h)) | (dsimp only) | (split)
                 | (with_reducible refine keeps_onMgmt _ (fun hm => ?_) ?_) | (exact hm) | (with_reducible rfl)
                 | (intro _; try dsimp only))

theorem State.verify_keeps {s0 : State} (s : State) (u : Update) (c : Nat) (hk : Keeps s0 s) : Keeps s0 (State.verify s u c) := by
  unfold State.verify
  try dsimp only
  repeat' (first | (with_reducible assumption) | (with_reducible apply State.fwRecord_keeps) | (with_reducible apply State.says_keeps)
                 | (with_reducible apply keeps_onMgmt _ (fun h => h)) | (dsimp only) | (split)
                 | (with_reducible refine keeps_onMgmt _ (fun hm => ?_) ?_) | (exact hm) | (with_reducible rfl)
                 | (intro _; try dsimp only))

theorem State.activateJormon_keeps {s0 : State} (s : State) (starts : Bool) (hk : Keeps s0 s) : Keeps s0 (State.activateJormon s starts) := by
  unfold State.activateJormon
  try dsimp only
  repeat' (first | (with_reducible assumption) | (with_reducible apply State.awake_keeps) | (with_reducible apply State.withStatus_keeps)
                 | (with_reducible apply keeps_onMgmt _ (fun h => h)) | (dsimp only) | (split)
                 | (with_reducible refine keeps_onMgmt _ (fun hm => ?_) ?_) | (exact hm) | (with_reducible rfl)
                 | (intro _; try dsimp only))

theorem State.activateOne_keeps {s0 : State} (s : State) (c : Nat) (starts : Bool) (hk : Keeps s0 s) : Keeps s0 (State.activateOne s c starts) := by
  unfold State.activateOne
  try dsimp only
  repeat' (first | (with_reducible assumption) | (with_reducible apply State.activateJormon_keeps)
                 | (with_reducible apply State.fwRecord_keeps) | (with_reducible apply keeps_onMgmt _ (fun h => h)) | (dsimp only)
                 | (split) | (with_reducible refine keeps_onMgmt _ (fun hm => ?_) ?_) | (exact hm) | (with_reducible rfl)
                 | (intro _; try dsimp only))

theorem State.activate_keeps {s0 : State} (s : State) (u : Update) (starts : Bool) (hk : Keeps s0 s) : Keeps s0 (State.activate s u starts) := by
  unfold State.activate
  try dsimp only
  repeat' (first | (with_reducible assumption) | (with_reducible apply State.activateOne_keeps)
                 | (with_reducible apply State.fwDone_keeps) | (with_reducible apply State.says_keeps)
                 | (with_reducible apply State.stopByolo_keeps) | (with_reducible apply State.withStatus_keeps)
                 | (with_reducible apply keeps_onMgmt _ (fun h => h)) | (with_reducible apply keeps_foldl)
                 | (with_reducible apply keeps_foldl1) | (dsimp only) | (split) | (with_reducible refine keeps_onMgmt _ (fun hm => ?_) ?_)
                 | (exact hm) | (with_reducible rfl) | (intro _; try dsimp only))

theorem State.handover_keeps {s0 : State} (s : State) (n : Nat) (hk : Keeps s0 s) : Keeps s0 (State.handover s n) := by
  unfold State.handover
  try dsimp only
  repeat' (first | (with_reducible assumption) | (with_reducible apply State.nowServed_keeps) | (with_reducible apply State.served_keeps)
                 | (with_reducible apply State.withStatus_keeps) | (dsimp only) | (split) | (intro _; try dsimp only))

theorem State.fuseRaise_keeps {s0 : State} (s : State) (hk : Keeps s0 s) : Keeps s0 (State.fuseRaise s) := by
  unfold State.fuseRaise
  extract_lets f c
  split
  · refine State.fwRecord_keeps _ _ _ _ (keeps_onMgmt _ (fun _ => ?_) hk)
    exact Nat.min_le_left _ _
  · exact hk

theorem execByoloRestart_keeps (cause : Nat) (s : State) : ∃ s1, execByoloRestart cause s = .next s1 ∧ Keeps s s1 := by
  refine ⟨_, rfl, ?_⟩
  have hk := Keeps.refl s
  repeat' (first | (with_reducible assumption) | (with_reducible apply State.restartByolo_keeps) | (dsimp only))

theorem execLogRead_keeps (r : Requester) (first : Nat) (count : Nat) (s : State) : ∃ s1, execLogRead r first count s = .next s1 ∧ Keeps s s1 := by
  refine ⟨_, rfl, ?_⟩
  have hk := Keeps.refl s
  repeat' (first | (with_reducible assumption) | (with_reducible apply State.logRead_keeps) | (with_reducible apply State.vendor_keeps)
                 | (dsimp only) | (intro _; try dsimp only))

theorem execDumpList_keeps (r : Requester) (t : Nat) (s : State) : ∃ s1, execDumpList r t s = .next s1 ∧ Keeps s s1 := by
  refine ⟨_, rfl, ?_⟩
  have hk := Keeps.refl s
  repeat' (first | (with_reducible assumption) | (with_reducible apply State.dumpList_keeps) | (with_reducible apply State.vendor_keeps)
                 | (dsimp only) | (intro _; try dsimp only))

theorem execDumpRead_keeps (r : Requester) (t : Nat) (slot : Nat) (off : Nat) (s : State) : ∃ s1, execDumpRead r t slot off s = .next s1 ∧ Keeps s s1 := by
  refine ⟨_, rfl, ?_⟩
  have hk := Keeps.refl s
  repeat' (first | (with_reducible assumption) | (with_reducible apply State.dumpRead_keeps) | (with_reducible apply State.vendor_keeps)
                 | (dsimp only) | (intro _; try dsimp only))

theorem execSummaryRead_keeps (r : Requester) (slot : Nat) (idx : Nat) (s : State) : ∃ s1, execSummaryRead r slot idx s = .next s1 ∧ Keeps s s1 := by
  refine ⟨_, rfl, ?_⟩
  have hk := Keeps.refl s
  repeat' (first | (with_reducible assumption) | (with_reducible apply State.summaryRead_keeps)
                 | (with_reducible apply State.vendor_keeps) | (dsimp only) | (intro _; try dsimp only))

theorem execServiceRead_keeps (r : Requester) (s : State) : ∃ s1, execServiceRead r s = .next s1 ∧ Keeps s s1 := by
  refine ⟨_, rfl, ?_⟩
  have hk := Keeps.refl s
  repeat' (first | (with_reducible assumption) | (with_reducible apply State.says_keeps) | (with_reducible apply State.vendor_keeps)
                 | (dsimp only) | (intro _; try dsimp only))

theorem execGetVersion_keeps (r : Requester) (s : State) : ∃ s1, execGetVersion r s = .next s1 ∧ Keeps s s1 := by
  refine ⟨_, rfl, ?_⟩
  have hk := Keeps.refl s
  repeat' (first | (with_reducible assumption) | (with_reducible apply State.says_keeps) | (with_reducible apply State.spdm_keeps)
                 | (with_reducible apply State.spdmTo_keeps) | (dsimp only) | (intro _; try dsimp only))

theorem execGetCapabilities_keeps (r : Requester) (s : State) : ∃ s1, execGetCapabilities r s = .next s1 ∧ Keeps s s1 := by
  refine ⟨_, rfl, ?_⟩
  have hk := Keeps.refl s
  repeat' (first | (with_reducible assumption) | (with_reducible apply State.says_keeps) | (with_reducible apply State.spdm_keeps)
                 | (with_reducible apply State.spdmTo_keeps) | (dsimp only) | (intro _; try dsimp only))

theorem execNegotiateAlgorithms_keeps (r : Requester) (asym : Nat) (hash : Nat) (s : State) : ∃ s1, execNegotiateAlgorithms r asym hash s = .next s1 ∧ Keeps s s1 := by
  refine ⟨_, rfl, ?_⟩
  have hk := Keeps.refl s
  repeat' (first | (with_reducible assumption) | (with_reducible apply State.algorithms_keeps) | (with_reducible apply State.spdm_keeps)
                 | (dsimp only) | (intro _; try dsimp only))

theorem execGetDigests_keeps (r : Requester) (s : State) : ∃ s1, execGetDigests r s = .next s1 ∧ Keeps s s1 := by
  refine ⟨_, rfl, ?_⟩
  have hk := Keeps.refl s
  repeat' (first | (with_reducible assumption) | (with_reducible apply State.says_keeps) | (with_reducible apply State.spdm_keeps)
                 | (dsimp only) | (intro _; try dsimp only))

theorem execGetCertificate_keeps (r : Requester) (slot : Nat) (off : Nat) (len : Nat) (s : State) : ∃ s1, execGetCertificate r slot off len s = .next s1 ∧ Keeps s s1 := by
  refine ⟨_, rfl, ?_⟩
  have hk := Keeps.refl s
  repeat' (first | (with_reducible assumption) | (with_reducible apply State.certificate_keeps) | (with_reducible apply State.spdm_keeps)
                 | (dsimp only) | (intro _; try dsimp only))

theorem execChallenge_keeps (r : Requester) (slot : Nat) (nonce : Nat) (s : State) : ∃ s1, execChallenge r slot nonce s = .next s1 ∧ Keeps s s1 := by
  refine ⟨_, rfl, ?_⟩
  have hk := Keeps.refl s
  repeat' (first | (with_reducible assumption) | (with_reducible apply State.challenge_keeps) | (with_reducible apply State.spdm_keeps)
                 | (dsimp only) | (intro _; try dsimp only))

theorem execGetMeasurements_keeps (r : Requester) (idx : Nat) (s : State) : ∃ s1, execGetMeasurements r idx s = .next s1 ∧ Keeps s s1 := by
  refine ⟨_, rfl, ?_⟩
  have hk := Keeps.refl s
  repeat' (first | (with_reducible assumption) | (with_reducible apply State.measurements_keeps) | (with_reducible apply State.spdm_keeps)
                 | (dsimp only) | (intro _; try dsimp only))

theorem execPldmSensorRead_keeps (r : Requester) (sensor : BitVec 16) (s : State) : ∃ s1, execPldmSensorRead r sensor s = .next s1 ∧ Keeps s s1 := by
  refine ⟨_, rfl, ?_⟩
  have hk := Keeps.refl s
  repeat' (first | (with_reducible assumption) | (with_reducible apply State.mctp_keeps) | (with_reducible apply State.sensor_keeps)
                 | (with_reducible apply State.sensorRead_keeps) | (dsimp only) | (intro _; try dsimp only))

theorem execRequestUpdate_keeps (r : Requester) (s : State) : ∃ s1, execRequestUpdate r s = .next s1 ∧ Keeps s s1 := by
  refine ⟨_, rfl, ?_⟩
  have hk := Keeps.refl s
  repeat' (first | (with_reducible assumption) | (with_reducible apply State.fwMessage_keeps)
                 | (with_reducible apply State.requestUpdate_keeps) | (dsimp only) | (intro _; try dsimp only))

theorem execUpdateComponent_keeps (r : Requester) (img : Image) (s : State) : ∃ s1, execUpdateComponent r img s = .next s1 ∧ Keeps s s1 := by
  refine ⟨_, rfl, ?_⟩
  have hk := Keeps.refl s
  repeat' (first | (with_reducible assumption) | (with_reducible apply State.fwMessage_keeps)
                 | (with_reducible apply State.updateComponent_keeps) | (with_reducible apply State.updating_keeps) | (dsimp only)
                 | (intro _; try dsimp only))

theorem execVerifyComplete_keeps (r : Requester) (component : Nat) (s : State) : ∃ s1, execVerifyComplete r component s = .next s1 ∧ Keeps s s1 := by
  refine ⟨_, rfl, ?_⟩
  have hk := Keeps.refl s
  repeat' (first | (with_reducible assumption) | (with_reducible apply State.fwMessage_keeps)
                 | (with_reducible apply State.updating_keeps) | (with_reducible apply State.verify_keeps) | (dsimp only)
                 | (intro _; try dsimp only))

theorem execActivateFirmware_keeps (r : Requester) (starts : Bool) (s : State) : ∃ s1, execActivateFirmware r starts s = .next s1 ∧ Keeps s s1 := by
  refine ⟨_, rfl, ?_⟩
  have hk := Keeps.refl s
  repeat' (first | (with_reducible assumption) | (with_reducible apply State.activate_keeps)
                 | (with_reducible apply State.fwMessage_keeps) | (with_reducible apply State.updating_keeps) | (dsimp only)
                 | (intro _; try dsimp only))

theorem execCancelUpdate_keeps (r : Requester) (s : State) : ∃ s1, execCancelUpdate r s = .next s1 ∧ Keeps s s1 := by
  refine ⟨_, rfl, ?_⟩
  have hk := Keeps.refl s
  repeat' (first | (with_reducible assumption) | (with_reducible apply State.fwMessage_keeps) | (with_reducible apply State.says_keeps)
                 | (with_reducible apply State.updating_keeps) | (with_reducible apply keeps_onMgmt _ (fun h => h)) | (dsimp only)
                 | (with_reducible refine keeps_onMgmt _ (fun hm => ?_) ?_) | (exact hm) | (with_reducible rfl)
                 | (intro _; try dsimp only))

theorem execHandover_keeps (n : Fin 4096) (s : State) : ∃ s1, execHandover n s = .next s1 ∧ Keeps s s1 := by
  refine ⟨_, rfl, ?_⟩
  have hk := Keeps.refl s
  repeat' (first | (with_reducible assumption) | (with_reducible apply State.handover_keeps) | (dsimp only))

theorem execFuseRaise_keeps (s : State) : ∃ s1, execFuseRaise s = .next s1 ∧ Keeps s s1 := by
  refine ⟨_, rfl, ?_⟩
  have hk := Keeps.refl s
  repeat' (first | (with_reducible assumption) | (with_reducible apply State.fuseRaise_keeps) | (dsimp only))

end Sys2Proof.Machine
end

