-- ==== Sys2Proof/Laws/KeepsModule.lean ====
section
/-!
SUPPORT. What Machine/Module.lean keeps: the queue, the time, the fused limits, and safety.
-/

namespace Sys2Proof.Machine

theorem keeps_onPowMax {s0 s : State} (f : Pow → Pow) (hm : (f s.pow).fuseMax = s.pow.fuseMax) (hn : (f s.pow).fuseFloor = s.pow.fuseFloor)
    (hc : (f s.pow).ceiling = s.pow.fuseMax) (h : Keeps s0 s) : Keeps s0 (s.onPow f) := by
  refine keeps_onPow f hm hn (fun hl => ?_) h
  unfold Pow.limited at hl ⊢
  rw [hm, hn, hc]
  simp only [Bool.and_eq_true, decide_eq_true_eq] at hl ⊢
  exact ⟨Nat.le_trans hl.1 hl.2, Nat.le_refl _⟩

theorem State.unpowered_keeps {s0 : State} (s : State) (hk : Keeps s0 s) : Keeps s0 s.unpowered := by
  have h1 : Keeps s0 { s with mem := {}, dev := s.dev.unpowered } := keeps_memDev _ _ (fun _ => rfl) hk
  exact keeps_onPow (fun w => w.unpowered s.mgmt.failed s.kettle) rfl rfl (fun h => h) (keeps_onMgmt Mgmt.unpowered (fun h => h) h1)

theorem State.startByolo_keeps {s0 : State} (s : State) (hk : Keeps s0 s) : Keeps s0 (State.startByolo s) := by
  unfold State.startByolo
  try dsimp only
  repeat' (first | (with_reducible assumption) | (with_reducible apply State.startComp_keeps)
                 | (with_reducible apply keeps_onMgmt _ (fun h => h)) | (with_reducible apply keeps_onPow _ rfl rfl (fun h => h))
                 | (dsimp only) | (split) | (with_reducible refine keeps_onMgmt _ (fun hm => ?_) ?_)
                 | (with_reducible refine keeps_onPow _ ?_ ?_ (fun hm => ?_) ?_) | (exact hm) | (with_reducible rfl)
                 | (intro _; try dsimp only))

theorem State.takeRecord_keeps {s0 : State} (s : State) (hk : Keeps s0 s) : Keeps s0 (State.takeRecord s) := by
  unfold State.takeRecord
  try dsimp only
  repeat' (first | (with_reducible assumption) | (with_reducible apply State.log_keeps)
                 | (with_reducible apply keeps_onMgmt _ (fun h => h)) | (with_reducible apply keeps_onPow _ rfl rfl (fun h => h))
                 | (dsimp only) | (split) | (with_reducible refine keeps_onMgmt _ (fun hm => ?_) ?_)
                 | (with_reducible refine keeps_onPow _ ?_ ?_ (fun hm => ?_) ?_) | (exact hm) | (with_reducible rfl)
                 | (intro _; try dsimp only))

theorem State.socket_keeps {s0 : State} (s : State) (f : Nat × Option Nat) (hk : Keeps s0 s) : Keeps s0 (State.socket s f) := by
  unfold State.socket
  try dsimp only
  repeat' (first | (with_reducible assumption) | (with_reducible apply State.log_keeps) | (with_reducible apply keeps_onDev)
                 | (dsimp only) | (split) | (intro _; try dsimp only))

theorem State.findParts_keeps {s0 : State} (s : State) (hk : Keeps s0 s) : Keeps s0 (State.findParts s) := by
  unfold State.findParts
  try dsimp only
  repeat' (first | (with_reducible assumption) | (with_reducible apply State.log_keeps) | (with_reducible apply State.needsService_keeps)
                 | (with_reducible apply State.serviced_keeps) | (with_reducible apply State.socket_keeps)
                 | (with_reducible apply keeps_onDev) | (with_reducible apply keeps_foldl) | (with_reducible apply keeps_foldl1)
                 | (dsimp only) | (split) | (intro _; try dsimp only))

theorem State.railsUp_keeps {s0 : State} (s : State) (hk : Keeps s0 s) : Keeps s0 (State.railsUp s) := by
  unfold State.railsUp
  extract_lets s1
  have h1 : Keeps s0 s1 := by
    unfold s1
    split
    · exact State.startByolo_keeps _ hk
    · exact hk
  exact keeps_onPowMax _ rfl rfl rfl (keeps_onMgmt _ (fun h => h) h1)

theorem State.startDevice_keeps {s0 : State} (s : State) (hk : Keeps s0 s) : Keeps s0 (State.startDevice s) := by
  unfold State.startDevice
  generalize List.range 8 = l
  generalize List.range 15 = l15
  refine State.withStatus_keeps _ _ hk (fun z hz => ?_)
  have h1 : Keeps s0 (z.takeRecord.findParts.laneFound z.pow.lanes) :=
    State.laneFound_keeps _ _ (State.findParts_keeps _ (State.takeRecord_keeps _ hz))
  generalize z.takeRecord.findParts.laneFound z.pow.lanes = y at h1
  have h2 : Keeps s0 { y with time := { y.time with cpuStart := y.time.fabric } } := h1
  dsimp only
  refine keeps_onPow _ rfl rfl (fun h => h) (keeps_onDev _ (keeps_onDev _ (keeps_onMgmt _ (fun h => ?_) h2)))
  show (Mgmt.startJormon _).fuse ≤ 64
  rw [Mgmt.startJormon_fuse]
  exact h

theorem State.leaveReset_keeps {s0 : State} (s : State) (hk : Keeps s0 s) : Keeps s0 (State.leaveReset s) := by
  unfold State.leaveReset
  try dsimp only
  repeat' (first | (with_reducible assumption) | (with_reducible apply State.startComp_keeps)
                 | (with_reducible apply State.startDevice_keeps) | (with_reducible apply keeps_onPow _ rfl rfl (fun h => h))
                 | (dsimp only) | (split) | (with_reducible refine keeps_onPow _ ?_ ?_ (fun hm => ?_) ?_) | (exact hm)
                 | (with_reducible rfl) | (intro _; try dsimp only))

theorem State.powerProceed_keeps {s0 : State} (s : State) (hk : Keeps s0 s) : Keeps s0 (State.powerProceed s) := by
  unfold State.powerProceed
  try dsimp only
  repeat' (first | (with_reducible assumption) | (with_reducible apply State.leaveReset_keeps)
                 | (with_reducible apply State.railsUp_keeps) | (with_reducible apply keeps_onPow _ rfl rfl (fun h => h)) | (dsimp only)
                 | (split) | (with_reducible refine keeps_onPow _ ?_ ?_ (fun hm => ?_) ?_) | (exact hm) | (with_reducible rfl)
                 | (intro _; try dsimp only))

theorem State.powerUp_keeps {s0 : State} (s : State) (sockets : List (Nat × Option Nat)) (dead : List Nat) (lanes : List LaneFinding) (fails : List (Nat × Nat)) (hk : Keeps s0 s) : Keeps s0 (State.powerUp s sockets dead lanes fails) := by
  unfold State.powerUp
  try dsimp only
  repeat' (first | (with_reducible assumption) | (with_reducible apply State.powerProceed_keeps)
                 | (with_reducible apply keeps_onPow _ rfl rfl (fun h => h)) | (dsimp only) | (split)
                 | (with_reducible refine keeps_onPow _ ?_ ?_ (fun hm => ?_) ?_) | (exact hm) | (with_reducible rfl)
                 | (intro _; try dsimp only))

theorem State.powerDown_keeps {s0 : State} (s : State) (hk : Keeps s0 s) : Keeps s0 (State.powerDown s) := by
  unfold State.powerDown
  try dsimp only
  repeat' (first | (with_reducible assumption) | (with_reducible apply State.unpowered_keeps)
                 | (with_reducible apply State.withStatus_keeps) | (with_reducible apply keeps_onPow _ rfl rfl (fun h => h))
                 | (dsimp only) | (split) | (with_reducible refine keeps_onPow _ ?_ ?_ (fun hm => ?_) ?_) | (exact hm)
                 | (with_reducible rfl) | (intro _; try dsimp only))

theorem State.resetLow_keeps {s0 : State} (s : State) (hk : Keeps s0 s) : Keeps s0 (State.resetLow s) := by
  unfold State.resetLow
  try dsimp only
  repeat' (first | (with_reducible assumption) | (with_reducible apply State.callL3_keeps) | (with_reducible apply State.withStatus_keeps)
                 | (with_reducible apply keeps_onMgmt _ (fun h => h)) | (with_reducible apply keeps_onPow _ rfl rfl (fun h => h))
                 | (dsimp only) | (split) | (with_reducible refine keeps_onMgmt _ (fun hm => ?_) ?_)
                 | (with_reducible refine keeps_onPow _ ?_ ?_ (fun hm => ?_) ?_) | (exact hm) | (with_reducible rfl)
                 | (intro _; try dsimp only))

theorem State.resetHigh_keeps {s0 : State} (s : State) (hk : Keeps s0 s) : Keeps s0 (State.resetHigh s) := by
  unfold State.resetHigh
  try dsimp only
  repeat' (first | (with_reducible assumption) | (with_reducible apply State.powerProceed_keeps)
                 | (with_reducible apply keeps_onMgmt _ (fun h => h)) | (with_reducible apply keeps_onPow _ rfl rfl (fun h => h))
                 | (dsimp only) | (with_reducible refine keeps_onMgmt _ (fun hm => ?_) ?_)
                 | (with_reducible refine keeps_onPow _ ?_ ?_ (fun hm => ?_) ?_) | (exact hm) | (with_reducible rfl)
                 | (intro _; try dsimp only))

theorem State.auxGone_keeps {s0 : State} (s : State) (hk : Keeps s0 s) : Keeps s0 (State.auxGone s) :=
  keeps_onPowMax _ rfl rfl rfl (keeps_onMgmt _ (fun h => h) (State.unpowered_keeps _ hk))

theorem State.disconnect_keeps {s0 : State} (s : State) (f : InputFault) (hk : Keeps s0 s) : Keeps s0 (State.disconnect s f) := by
  unfold State.disconnect
  try dsimp only
  repeat' (first | (with_reducible assumption) | (with_reducible apply State.auxGone_keeps)
                 | (with_reducible apply State.supervisor_keeps) | (with_reducible apply State.took_keeps)
                 | (with_reducible apply State.withStatus_keeps) | (with_reducible apply keeps_onPow _ rfl rfl (fun h => h))
                 | (dsimp only) | (split) | (with_reducible refine keeps_onPow _ ?_ ?_ (fun hm => ?_) ?_) | (exact hm)
                 | (with_reducible rfl) | (intro _; try dsimp only))

theorem State.auxPresent_keeps {s0 : State} (s : State) (hk : Keeps s0 s) : Keeps s0 (State.auxPresent s) := by
  unfold State.auxPresent
  try dsimp only
  repeat' (first | (with_reducible assumption) | (with_reducible apply State.log_keeps) | (with_reducible apply State.powerProceed_keeps)
                 | (with_reducible apply State.startByolo_keeps) | (with_reducible apply keeps_onPow _ rfl rfl (fun h => h))
                 | (dsimp only) | (split) | (with_reducible refine keeps_onPow _ ?_ ?_ (fun hm => ?_) ?_) | (exact hm)
                 | (with_reducible rfl) | (intro _; try dsimp only))

theorem execPowerUp_keeps (sockets : List (Nat × Option Nat)) (deadLinks : List (Fin 50)) (lanes : List LaneFinding) (fails : List (Nat × Nat)) (s : State) : ∃ s1, execPowerUp sockets deadLinks lanes fails s = .next s1 ∧ Keeps s s1 := by
  refine ⟨_, rfl, ?_⟩
  have hk := Keeps.refl s
  repeat' (first | (with_reducible assumption) | (with_reducible apply State.powerUp_keeps) | (dsimp only) | (intro _; try dsimp only))

theorem execPowerDown_keeps (s : State) : ∃ s1, execPowerDown s = .next s1 ∧ Keeps s s1 := by
  refine ⟨_, rfl, ?_⟩
  have hk := Keeps.refl s
  repeat' (first | (with_reducible assumption) | (with_reducible apply State.powerDown_keeps) | (dsimp only))

theorem execResetNLow_keeps (s : State) : ∃ s1, execResetNLow s = .next s1 ∧ Keeps s s1 := by
  refine ⟨_, rfl, ?_⟩
  have hk := Keeps.refl s
  repeat' (first | (with_reducible assumption) | (with_reducible apply State.resetLow_keeps) | (dsimp only))

theorem execResetNHigh_keeps (s : State) : ∃ s1, execResetNHigh s = .next s1 ∧ Keeps s s1 := by
  refine ⟨_, rfl, ?_⟩
  have hk := Keeps.refl s
  repeat' (first | (with_reducible assumption) | (with_reducible apply State.resetHigh_keeps) | (dsimp only))

theorem execInputDisconnect_keeps (f : InputFault) (s : State) : ∃ s1, execInputDisconnect f s = .next s1 ∧ Keeps s s1 := by
  refine ⟨_, rfl, ?_⟩
  have hk := Keeps.refl s
  repeat' (first | (with_reducible assumption) | (with_reducible apply State.disconnect_keeps) | (dsimp only))

theorem execAux12vPresent_keeps (s : State) : ∃ s1, execAux12vPresent s = .next s1 ∧ Keeps s s1 := by
  refine ⟨_, rfl, ?_⟩
  have hk := Keeps.refl s
  repeat' (first | (with_reducible assumption) | (with_reducible apply State.auxPresent_keeps) | (dsimp only))

theorem execRefclkReturn_keeps (s : State) : ∃ s1, execRefclkReturn s = .next s1 ∧ Keeps s s1 := by
  refine ⟨_, rfl, ?_⟩
  have hk := Keeps.refl s
  repeat' (first | (with_reducible assumption) | (with_reducible apply State.powerProceed_keeps)
                 | (with_reducible apply keeps_onPow _ rfl rfl (fun h => h)) | (dsimp only)
                 | (with_reducible refine keeps_onPow _ ?_ ?_ (fun hm => ?_) ?_) | (exact hm) | (with_reducible rfl)
                 | (intro _; try dsimp only))

theorem execMainInputInRange_keeps (s : State) : ∃ s1, execMainInputInRange s = .next s1 ∧ Keeps s s1 := by
  refine ⟨_, rfl, ?_⟩
  have hk := Keeps.refl s
  repeat' (first | (with_reducible assumption) | (with_reducible apply State.powerProceed_keeps)
                 | (with_reducible apply keeps_onPow _ rfl rfl (fun h => h)) | (dsimp only)
                 | (with_reducible refine keeps_onPow _ ?_ ?_ (fun hm => ?_) ?_) | (exact hm) | (with_reducible rfl)
                 | (intro _; try dsimp only))

end Sys2Proof.Machine
end

