-- ==== Sys2Proof/Laws/KeepsTick.lean ====
section
/-!
SUPPORT. What Machine/Tick.lean keeps: the queue, the time, the fused limits, and safety.
-/

namespace Sys2Proof.Machine

theorem State.runTerrace_keeps {s0 : State} (s : State) (t : Nat) (hk : Keeps s0 s) : Keeps s0 (State.runTerrace s t) := by
  unfold State.runTerrace
  try dsimp only
  repeat' (first | (with_reducible assumption) | (with_reducible apply State.arrCycle_keeps) | (with_reducible apply State.pllOff_keeps)
                 | (with_reducible apply keeps_onDev) | (with_reducible apply keeps_foldl) | (with_reducible apply keeps_foldl1)
                 | (dsimp only) | (split) | (intro _; try dsimp only))

theorem State.runCpu_keeps {s0 : State} (s : State) (q : Nat) (hk : Keeps s0 s) : Keeps s0 (State.runCpu s q) := by
  unfold State.runCpu
  try dsimp only
  repeat' (first | (with_reducible assumption) | (with_reducible apply keeps_onDev) | (dsimp only) | (split) | (intro _; try dsimp only))

theorem State.stalls_keeps {s0 : State} (s : State) (hk : Keeps s0 s) : Keeps s0 (State.stalls s) := by
  unfold State.stalls
  try dsimp only
  repeat' (first | (with_reducible assumption) | (with_reducible apply keeps_onDev) | (with_reducible apply keeps_foldl)
                 | (with_reducible apply keeps_foldl1) | (dsimp only) | (split) | (intro _; try dsimp only))

theorem State.shortfall_keeps {s0 : State} (s : State) (n : Nat) (k : Nat) (hk : Keeps s0 s) : Keeps s0 (State.shortfall s n k) := by
  unfold State.shortfall
  try dsimp only
  repeat' (first | (with_reducible assumption) | (with_reducible apply State.event_keeps) | (with_reducible apply keeps_onDev)
                 | (dsimp only) | (split) | (intro _; try dsimp only))

theorem State.shortfalls_keeps {s0 : State} (s : State) (hk : Keeps s0 s) : Keeps s0 (State.shortfalls s) := by
  unfold State.shortfalls
  try dsimp only
  repeat' (first | (with_reducible assumption) | (with_reducible apply State.shortfall_keeps) | (with_reducible apply keeps_onDev)
                 | (with_reducible apply keeps_foldl) | (with_reducible apply keeps_foldl1) | (dsimp only) | (split)
                 | (intro _; try dsimp only))

theorem State.waits_keeps {s0 : State} (s : State) (hk : Keeps s0 s) : Keeps s0 (State.waits s) := by
  unfold State.waits
  try dsimp only
  repeat' (first | (with_reducible assumption) | (with_reducible apply keeps_onDev) | (dsimp only) | (split) | (intro _; try dsimp only))

theorem State.kettleCycle_keeps {s0 : State} (s : State) (hk : Keeps s0 s) : Keeps s0 (State.kettleCycle s) := by
  unfold State.kettleCycle
  generalize List.range 8 = l
  refine State.powerProceed_keeps _ (keeps_onPow _ rfl rfl (fun h => h) ?_)
  exact keeps_foldl State.detachEnd _ _ (fun _ _ h => State.detachEnd_keeps _ _ h)
    (State.restartEnd_keeps _ (State.coolantEnd_keeps _ (keeps_onDev _ hk)))

theorem State.fastCycle_keeps {s0 : State} (s : State) (hk : Keeps s0 s) : Keeps s0 (State.fastCycle s) := by
  unfold State.fastCycle
  generalize List.range 8 = l
  generalize List.range 2 = l2
  split
  · have h1 : Keeps s0 (l.foldl State.runTerrace s) := keeps_foldl State.runTerrace _ _ (fun _ _ h => State.runTerrace_keeps _ _ h) hk
    have h2 : Keeps s0 (l2.foldl State.runCpu (l.foldl State.runTerrace s)) :=
      keeps_foldl State.runCpu _ _ (fun _ _ h => State.runCpu_keeps _ _ h) h1
    exact State.waits_keeps _ (State.shortfalls_keeps _ (State.stalls_keeps _ (keeps_onDev _ h2)))
  · exact hk

end Sys2Proof.Machine
end

