-- ==== Sys2Proof/Laws/KeepsStep.lean ====
section
/-!
SUPPORT. What every command and a cycle of time keep: the queue, the fused limits, and safety.
-/

set_option linter.unusedTactic false
set_option linter.unreachableTactic false
set_option linter.unusedVariables false

namespace Sys2Proof.Machine

/-- Every command answers a next state; the queue and the time stay as they are, as do the fused limits, and a safe state stays safe. -/
theorem exec_keeps (i : Instr) (s : State) : ∃ s1, exec i s = .next s1 ∧ Keeps s s1 := by
  cases i with
  | kqWload p rd rs1 rs2 => exact execKqWload_keeps p rd rs1 rs2 s
  | kqStream p rd rs1 => exact execKqStream_keeps p rd rs1 s
  | kqStreamt p rd rs1 => exact execKqStreamt_keeps p rd rs1 s
  | kqDrain p rd rs1 => exact execKqDrain_keeps p rd rs1 s
  | kqReload p rd rs1 => exact execKqReload_keeps p rd rs1 s
  | arrayOperationStart cl ticket upsets => exact execArrayOperationStart_keeps cl ticket upsets s
  | arrayOperationDone cl ticket => exact execArrayOperationDone_keeps cl ticket s
  | activityRamp cl => exact execActivityRamp_keeps cl s
  | moverCopy p rd rs1 => exact execMoverCopy_keeps p rd rs1 s
  | moverConvert p rd rs1 => exact execMoverConvert_keeps p rd rs1 s
  | merge p rd rs1 => exact execMerge_keeps p rd rs1 s
  | moverRequestComplete cl tag only => exact execMoverRequestComplete_keeps cl tag only s
  | kqWaitM p rs1 => exact execKqWaitM_keeps p rs1 s
  | kqWaitA p rs1 => exact execKqWaitA_keeps p rs1 s
  | kqBar p => exact execKqBar_keeps p s
  | kqCnt p rd idx => exact execKqCnt_keeps p rd idx s
  | kqAmoaddW p rd rs1 rs2 => exact execKqAmoaddW_keeps p rd rs1 rs2 s
  | kqAmoxorW p rd rs1 rs2 => exact execKqAmoxorW_keeps p rd rs1 rs2 s
  | kqAmoaddD p rd rs1 rs2 => exact execKqAmoaddD_keeps p rd rs1 rs2 s
  | kqAmoxorD p rd rs1 rs2 => exact execKqAmoxorD_keeps p rd rs1 rs2 s
  | kqAmoswapD p rd rs1 rs2 => exact execKqAmoswapD_keeps p rd rs1 rs2 s
  | kqAmominD p rd rs1 rs2 => exact execKqAmominD_keeps p rd rs1 rs2 s
  | kqAmomaxD p rd rs1 rs2 => exact execKqAmomaxD_keeps p rd rs1 rs2 s
  | kqBexp p vd vs2 => exact execKqBexp_keeps p vd vs2 s
  | kqFit p vd vs2 vm => exact execKqFit_keeps p vd vs2 vm s
  | kqPin p vd vs2 vm => exact execKqPin_keeps p vd vs2 vm s
  | kqAlign p vd vs2 vs1 => exact execKqAlign_keeps p vd vs2 vs1 s
  | kqPack p vd vs2 vs1 => exact execKqPack_keeps p vd vs2 vs1 s
  | kqUnpack p vd vs2 => exact execKqUnpack_keeps p vd vs2 s
  | kqSrnd p vd vs2 rs1 vm => exact execKqSrnd_keeps p vd vs2 rs1 vm s
  | kqTopk p vd vs2 rs1 vm => exact execKqTopk_keeps p vd vs2 rs1 vm s
  | kqcvtWrite p op rd rs1 => exact execKqcvtWrite_keeps p op rd rs1 s
  | fenceI p => exact execFenceI_keeps p s
  | kernelLoad p rd rs1 imm log2 signed chk => exact execKernelLoad_keeps p rd rs1 imm log2 signed chk s
  | kernelStore p rs1 rs2 imm log2 chk => exact execKernelStore_keeps p rs1 rs2 imm log2 chk s
  | ecall p => exact execEcall_keeps p s
  | ebreak p => exact execEbreak_keeps p s
  | clusterExit p => exact execClusterExit_keeps p s
  | kernelRunLimit part => exact execKernelRunLimit_keeps part s
  | ccFillComplete e way victim => exact execCcFillComplete_keeps e way victim s
  | ccClean e set chks => exact execCcClean_keeps e set chks s
  | ccInvalidate e set chks => exact execCcInvalidate_keeps e set chks s
  | ccMaintenanceDone e set => exact execCcMaintenanceDone_keeps e set s
  | ccWayDisabled e way chks => exact execCcWayDisabled_keeps e way chks s
  | ccFailCountHalving e way => exact execCcFailCountHalving_keeps e way s
  | attach mb => exact execAttach_keeps mb s
  | reattach mb => exact execReattach_keeps mb s
  | resendDone a => exact execResendDone_keeps a s
  | detach mb => exact execDetach_keeps mb s
  | ctxCreate mb => exact execCtxCreate_keeps mb s
  | ctxDestroy mb => exact execCtxDestroy_keeps mb s
  | teardownReply n => exact execTeardownReply_keeps n s
  | rangeMap mb => exact execRangeMap_keeps mb s
  | rangeUnmap mb => exact execRangeUnmap_keeps mb s
  | rangeUnmapDone n granule => exact execRangeUnmapDone_keeps n granule s
  | frameClass mb => exact execFrameClass_keeps mb s
  | objRegister mb => exact execObjRegister_keeps mb s
  | objPolicy mb => exact execObjPolicy_keeps mb s
  | submit mb split => exact execSubmit_keeps mb split s
  | submitList mb split => exact execSubmitList_keeps mb split s
  | abort mb => exact execAbort_keeps mb s
  | abortSettled n seq => exact execAbortSettled_keeps n seq s
  | resumeRetry mb split => exact execResumeRetry_keeps mb split s
  | resumeFail mb => exact execResumeFail_keeps mb s
  | gateAlloc mb => exact execGateAlloc_keeps mb s
  | gateFree mb => exact execGateFree_keeps mb s
  | statsReadContext mb => exact execStatsReadContext_keeps mb s
  | statsReadPartition mb => exact execStatsReadPartition_keeps mb s
  | statsReadDevice mb => exact execStatsReadDevice_keeps mb s
  | queryDevice mb => exact execQueryDevice_keeps mb s
  | queryContext mb => exact execQueryContext_keeps mb s
  | queryObject mb => exact execQueryObject_keeps mb s
  | queryGate mb => exact execQueryGate_keeps mb s
  | queryRange mb => exact execQueryRange_keeps mb s
  | note mb => exact execNote_keeps mb s
  | layoutRead mb => exact execLayoutRead_keeps mb s
  | layoutStage mb => exact execLayoutStage_keeps mb s
  | layoutCommit mb => exact execLayoutCommit_keeps mb s
  | layoutDiscard mb => exact execLayoutDiscard_keeps mb s
  | gemm part => exact execGemm_keeps part s
  | gemmT part => exact execGemmT_keeps part s
  | route part => exact execRoute_keeps part s
  | dispatch part => exact execDispatch_keeps part s
  | combine part => exact execCombine_keeps part s
  | partialLands part which => exact execPartialLands_keeps part which s
  | convert part => exact execConvert_keeps part s
  | copy part => exact execCopy_keeps part s
  | copyHostDst part => exact execCopyHostDst_keeps part s
  | reduce part => exact execReduce_keeps part s
  | fill part => exact execFill_keeps part s
  | kernel part => exact execKernel_keeps part s
  | steep n => exact execSteep_keeps n s
  | sink n => exact execSink_keeps n s
  | sinkKeep n => exact execSinkKeep_keeps n s
  | pin n => exact execPin_keeps n s
  | unpin n => exact execUnpin_keeps n s
  | gateSignal n => exact execGateSignal_keeps n s
  | gateWait n => exact execGateWait_keeps n s
  | fence n => exact execFence_keeps n s
  | stepMark n => exact execStepMark_keeps n s
  | descriptorDispatch n => exact execDescriptorDispatch_keeps n s
  | partStart e => exact execPartStart_keeps e s
  | partCommit part chks => exact execPartCommit_keeps part chks s
  | commandFailureSettled n seq => exact execCommandFailureSettled_keeps n seq s
  | rangeCacheFill e part w => exact execRangeCacheFill_keeps e part w s
  | faultEntryOpen e => exact execFaultEntryOpen_keeps e s
  | riseRoom pt obj => exact execRiseRoom_keeps pt obj s
  | infuserChunkDone h fault => exact execInfuserChunkDone_keeps h fault s
  | riseComplete pt obj => exact execRiseComplete_keeps pt obj s
  | residencyDeadlock pt obj => exact execResidencyDeadlock_keeps pt obj s
  | sinkReleasePoint pt obj => exact execSinkReleasePoint_keeps pt obj s
  | drainEnd pt obj => exact execDrainEnd_keeps pt obj s
  | shadowFill pt obj granule n => exact execShadowFill_keeps pt obj granule n s
  | homeWrite id => exact execHomeWrite_keeps id s
  | homeRead r pa len chk => exact execHomeRead_keeps r pa len chk s
  | patrolScrub pa chk => exact execPatrolScrub_keeps pa chk s
  | rowRepair stack pc bank row => exact execRowRepair_keeps stack pc bank row s
  | pseudoChannelRetirement stack pc => exact execPseudoChannelRetirement_keeps stack pc s
  | hbmTemperatureRead stack quarter => exact execHbmTemperatureRead_keeps stack quarter s
  | refreshStepDown stack => exact execRefreshStepDown_keeps stack s
  | caddyRetry chan succeeded => exact execCaddyRetry_keeps chan succeeded s
  | caddyChannelRetired chan => exact execCaddyChannelRetired_keeps chan s
  | stripeBufferFlush h stripe => exact execStripeBufferFlush_keeps h stripe s
  | linkReplay link succeeded => exact execLinkReplay_keeps link succeeded s
  | linkRetrained link badLanes => exact execLinkRetrained_keeps link badLanes s
  | linkFailed link => exact execLinkFailed_keeps link s
  | portRequest port requester b => exact execPortRequest_keeps port requester b s
  | arbiterGrant port => exact execArbiterGrant_keeps port s
  | requesterAbsent port requester absent => exact execRequesterAbsent_keeps port requester absent s
  | serverCoreLoad c h va log2 => exact execServerCoreLoad_keeps c h va log2 s
  | serverCoreStore c h va log2 v => exact execServerCoreStore_keeps c h va log2 v s
  | storePerformed c => exact execStorePerformed_keeps c s
  | serverCoreAmo c h va dbl aq rl op v => exact execServerCoreAmo_keeps c h va dbl aq rl op v s
  | lr c h va dbl aq rl => exact execLr_keeps c h va dbl aq rl s
  | sc c h va dbl aq rl v => exact execSc_keeps c h va dbl aq rl v s
  | serverCoreFence c predW => exact execServerCoreFence_keeps c predW s
  | ioRegionAccess c h va log2 store => exact execIoRegionAccess_keeps c h va log2 store s
  | cboZero c h va => exact execCboZero_keeps c h va s
  | cboClean c h va => exact execCboClean_keeps c h va s
  | cboFlush c h va => exact execCboFlush_keeps c h va s
  | cboInval c h va => exact execCboInval_keeps c h va s
  | prefetch c h va => exact execPrefetch_keeps c h va s
  | wrsNto c => exact execWrsNto_keeps c s
  | wrsSto c => exact execWrsSto_keeps c s
  | bootStart pt => exact execBootStart_keeps pt s
  | bootHalt pt => exact execBootHalt_keeps pt s
  | sbiSrstShutdown c => exact execSbiSrstShutdown_keeps c s
  | sbiSrstReboot c => exact execSbiSrstReboot_keeps c s
  | hsmStart c hart addr arg => exact execHsmStart_keeps c hart addr arg s
  | hsmSuspend c retentive => exact execHsmSuspend_keeps c retentive s
  | imsicWrite c h va v => exact execImsicWrite_keeps c h va v s
  | hartLost c => exact execHartLost_keeps c s
  | windowWrite a off data => exact execWindowWrite_keeps a off data s
  | windowRead a off len => exact execWindowRead_keeps a off len s
  | windowBind a => exact execWindowBind_keeps a s
  | mailboxSlotWrite a mb off data => exact execMailboxSlotWrite_keeps a mb off data s
  | doorbell a mb size8 upper v => exact execDoorbell_keeps a mb size8 upper v s
  | outflowAck a v => exact execOutflowAck_keeps a v s
  | registerReadClear who addr size8 => exact execRegisterReadClear_keeps who addr size8 s
  | registerWrite who addr op rd rs1 size8 v => exact execRegisterWrite_keeps who addr op rd rs1 size8 v s
  | unsupportedRequest a => exact execUnsupportedRequest_keeps a s
  | outflowItemComplete a res => exact execOutflowItemComplete_keeps a res s
  | ringEntryWrite a ring => exact execRingEntryWrite_keeps a ring s
  | interruptHoldoffEnd n => exact execInterruptHoldoffEnd_keeps n s
  | attachmentLoss a kind => exact execAttachmentLoss_keeps a kind s
  | orphanHoldExpiry a => exact execOrphanHoldExpiry_keeps a s
  | connectRequest port ctx gen key mtu => exact execConnectRequest_keeps port ctx gen key mtu s
  | send q data => exact execSend_keeps q data s
  | sendWithImmediate q => exact execSendWithImmediate_keeps q s
  | rdmaWrite q va rkey data => exact execRdmaWrite_keeps q va rkey data s
  | rdmaWriteWithImmediate q => exact execRdmaWriteWithImmediate_keeps q s
  | rdmaRead q va rkey len => exact execRdmaRead_keeps q va rkey len s
  | compareAndSwap q => exact execCompareAndSwap_keeps q s
  | fetchAndAdd q => exact execFetchAndAdd_keeps q s
  | arpRequest port ip => exact execArpRequest_keeps port ip s
  | neighborSolicitation port ip => exact execNeighborSolicitation_keeps port ip s
  | echoRequest port v6 ip => exact execEchoRequest_keeps port v6 ip s
  | frameDiscard port => exact execFrameDiscard_keeps port s
  | congestionExperienced q => exact execCongestionExperienced_keeps q s
  | cnpReceived q => exact execCnpReceived_keeps q s
  | rateLimitRaise q => exact execRateLimitRaise_keeps q s
  | pfcFrame port prio pause => exact execPfcFrame_keeps port prio pause s
  | receiveBufferThreshold port fill => exact execReceiveBufferThreshold_keeps port fill s
  | portLinkDown port => exact execPortLinkDown_keeps port s
  | engineClockGate e => exact execEngineClockGate_keeps e s
  | enginePowerGate e => exact execEnginePowerGate_keeps e s
  | engineWake e => exact execEngineWake_keeps e s
  | terracePllOff t => exact execTerracePllOff_keeps t s
  | terracePllWake t => exact execTerracePllWake_keeps t s
  | dormantWake cause => exact execDormantWake_keeps cause s
  | fastLoop d estimate => exact execFastLoop_keeps d estimate s
  | droop t => exact execDroop_keeps t s
  | slowLoop d measured estimate dieQ memQ => exact execSlowLoop_keeps d measured estimate dieQ memQ s
  | divergenceHoldEnd d => exact execDivergenceHoldEnd_keeps d s
  | hardwareTrip cause source reading => exact execHardwareTrip_keeps cause source reading s
  | ceilingEnforcement inputW => exact execCeilingEnforcement_keeps inputW s
  | ceilingRelease inputW => exact execCeilingRelease_keeps inputW s
  | ceilingStop inputW => exact execCeilingStop_keeps inputW s
  | trayCeilingWrite w => exact execTrayCeilingWrite_keeps w s
  | trayCapLower level => exact execTrayCapLower_keeps level s
  | supervisorFault f source reading => exact execSupervisorFault_keeps f source reading s
  | commandReplay part cls => exact execCommandReplay_keeps part cls s
  | engineReset e cls test => exact execEngineReset_keeps e cls test s
  | engineResetLimit e => exact execEngineResetLimit_keeps e s
  | progressWatchdog e => exact execProgressWatchdog_keeps e s
  | contextRollback n cause imageOk => exact execContextRollback_keeps n cause imageOk s
  | partitionAlarm pt cause badImages tests => exact execPartitionAlarm_keeps pt cause badImages tests s
  | l2BoundExpiry pt => exact execL2BoundExpiry_keeps pt s
  | deviceReset linksTrain badWays badImages lanes => exact execDeviceReset_keeps linksTrain badWays badImages lanes s
  | dumpTruncated t => exact execDumpTruncated_keeps t s
  | jormonCoreLost h core => exact execJormonCoreLost_keeps h core s
  | byoloRestart cause => exact execByoloRestart_keeps cause s
  | logRead r first count => exact execLogRead_keeps r first count s
  | dumpList r t => exact execDumpList_keeps r t s
  | dumpRead r t slot off => exact execDumpRead_keeps r t slot off s
  | summaryRead r slot idx => exact execSummaryRead_keeps r slot idx s
  | serviceRead r => exact execServiceRead_keeps r s
  | getVersion r => exact execGetVersion_keeps r s
  | getCapabilities r => exact execGetCapabilities_keeps r s
  | negotiateAlgorithms r asym hash => exact execNegotiateAlgorithms_keeps r asym hash s
  | getDigests r => exact execGetDigests_keeps r s
  | getCertificate r slot off len => exact execGetCertificate_keeps r slot off len s
  | challenge r slot nonce => exact execChallenge_keeps r slot nonce s
  | getMeasurements r idx => exact execGetMeasurements_keeps r idx s
  | pldmSensorRead r sensor => exact execPldmSensorRead_keeps r sensor s
  | requestUpdate r => exact execRequestUpdate_keeps r s
  | updateComponent r img => exact execUpdateComponent_keeps r img s
  | verifyComplete r component => exact execVerifyComplete_keeps r component s
  | activateFirmware r starts => exact execActivateFirmware_keeps r starts s
  | cancelUpdate r => exact execCancelUpdate_keeps r s
  | handover n => exact execHandover_keeps n s
  | powerUp sockets deadLinks lanes fails => exact execPowerUp_keeps sockets deadLinks lanes fails s
  | inputDisconnect f => exact execInputDisconnect_keeps f s
  | perstNRelease a => exact execPerstNRelease_keeps a s
  | illegalInstruction p bits => exact execIllegalInstruction_keeps p bits s
  | vectorLoad p vd rs1 mode log2 nf vm => exact execVectorLoad_keeps p vd rs1 mode log2 nf vm s
  | vectorStore p vs3 rs1 mode log2 nf vm => exact execVectorStore_keeps p vs3 rs1 mode log2 nf vm s
  | hartTimerInterrupt c => exact execHartTimerInterrupt_keeps c s
  | portLinkUp port at200 => exact execPortLinkUp_keeps port at200 s
  | retransmissionTimeout q => exact execRetransmissionTimeout_keeps q s
  | acknowledgementReceived q a => exact execAcknowledgementReceived_keeps q a s
  | dlActive a speed width flit => exact execDlActive_keeps a speed width flit s
  | coolantReport inletQ flowTenths => exact execCoolantReport_keeps inletQ flowTenths s
  | periodMark => exact execPeriodMark_keeps s
  | refclkLost => exact execRefclkLost_keeps s
  | dormantEntry => exact execDormantEntry_keeps s
  | l3BoundExpiry => exact execL3BoundExpiry_keeps s
  | trayPowerCycle => exact execTrayPowerCycle_keeps s
  | spRequestDeviceReset => exact execSpRequestDeviceReset_keeps s
  | spRequestPowerRemoval => exact execSpRequestPowerRemoval_keeps s
  | fuseRaise => exact execFuseRaise_keeps s
  | powerDown => exact execPowerDown_keeps s
  | resetNLow => exact execResetNLow_keeps s
  | resetNHigh => exact execResetNHigh_keeps s
  | usageHalving => exact execUsageHalving_keeps s
  | refclkReturn => exact execRefclkReturn_keeps s
  | aux12vPresent => exact execAux12vPresent_keeps s
  | mainInputInRange => exact execMainInputInRange_keeps s

/-- Time passes without touching the queue or the fused limits, and a safe state stays safe. -/
theorem tick_keeps (s : State) : (tick s).pending = s.pending ∧ (tick s).pow.fuseMax = s.pow.fuseMax ∧
    (tick s).pow.fuseFloor = s.pow.fuseFloor ∧ (s.safe = true → (tick s).safe = true) := by
  unfold tick
  split
  · exact ⟨rfl, rfl, rfl, id⟩
  · extract_lets t1 s1 s2
    have h2 : Keeps s1 s2 := State.fastCycle_keeps _ (Keeps.refl s1)
    have hs : s.safe = true → s1.safe = true := id
    split
    · have h3 : Keeps s1 s2.kettleCycle := State.kettleCycle_keeps _ h2
      exact ⟨h3.1, h3.2.2.1, h3.2.2.2.1, fun h => h3.2.2.2.2 (hs h)⟩
    · exact ⟨h2.1, h2.2.2.1, h2.2.2.2.1, fun h => h2.2.2.2.2 (hs h)⟩

end Sys2Proof.Machine
end

