-- ==== Sys2Proof/Laws/Map.lean ====
section
/-!
SUPPORT. Tables and sparse bytes: what a lookup finds after each update. None needs the table's order.
-/

namespace Sys2Proof

variable {α : Type}

@[simp] theorem Map.find_nil (k : Nat) : Map.find ([] : List (Nat × α)) k = none := rfl

theorem Map.find_put (m : List (Nat × α)) (k j : Nat) (v : α) : Map.find (Map.put m k v) j = if k = j then some v else Map.find m j := by
  induction m with
  | nil => simp [Map.put, Map.find]
  | cons e t ih =>
    obtain ⟨k', v'⟩ := e
    unfold Map.put
    split
    · simp [Map.find]
    · split
      · rename_i h
        subst h
        by_cases hj : k = j <;> simp [Map.find, hj]
      · rename_i h
        simp only [Map.find, ih]
        by_cases hj : k' = j
        · subst hj
          simp [h]
        · simp [hj]

@[simp] theorem Map.find_put_self (m : List (Nat × α)) (k : Nat) (v : α) : Map.find (Map.put m k v) k = some v := by
  simp [Map.find_put]

theorem Map.find_put_other (m : List (Nat × α)) {k j : Nat} (v : α) (h : k ≠ j) : Map.find (Map.put m k v) j = Map.find m j := by
  simp [Map.find_put, h]

theorem Map.get_put (m : List (Nat × α)) (k j : Nat) (v d : α) : Map.get (Map.put m k v) j d = if k = j then v else Map.get m j d := by
  unfold Map.get
  rw [Map.find_put]
  split <;> rfl

@[simp] theorem Map.get_put_self (m : List (Nat × α)) (k : Nat) (v d : α) : Map.get (Map.put m k v) k d = v := by
  simp [Map.get_put]

theorem Map.find_mod (m : List (Nat × α)) (k j : Nat) (f : α → α) :
    Map.find (Map.mod m k f) j = if k = j then (Map.find m j).map f else Map.find m j := by
  induction m with
  | nil => simp [Map.mod, Map.find]
  | cons e t ih =>
    obtain ⟨k', v'⟩ := e
    unfold Map.mod
    split
    · rename_i h
      subst h
      by_cases hj : k' = j <;> simp [Map.find, hj]
    · rename_i h
      simp only [Map.find, ih]
      by_cases hj : k' = j
      · subst hj
        simp [Ne.symm h]
      · simp [hj]

@[simp] theorem Map.find_mod_self (m : List (Nat × α)) (k : Nat) (f : α → α) : Map.find (Map.mod m k f) k = (Map.find m k).map f := by
  simp [Map.find_mod]

theorem Map.find_del (m : List (Nat × α)) (k j : Nat) : Map.find (Map.del m k) j = if k = j then none else Map.find m j := by
  induction m with
  | nil => simp [Map.del, Map.find]
  | cons e t ih =>
    obtain ⟨k', v'⟩ := e
    unfold Map.del at ih ⊢
    by_cases hk : k' = k
    · subst hk
      simp only [List.filter, ne_eq, not_true_eq_false, decide_false, ih, Map.find]
      by_cases hj : k' = j <;> simp [hj]
    · simp only [List.filter, ne_eq, hk, not_false_eq_true, decide_true, Map.find, ih]
      by_cases hj : k' = j
      · subst hj
        simp [Ne.symm hk]
      · simp [hj]

theorem Mem.get_set (m : Mem) (a x : Nat) (b : Byte) : Mem.get (Mem.set m a b) x = if a = x then b else Mem.get m x := by
  unfold Mem.get Mem.set
  split
  · rename_i h
    subst h
    unfold Map.get
    rw [Map.find_del]
    split <;> rfl
  · exact Map.get_put _ _ _ _ _

/-- What a run of bytes written at a address leaves: its own bytes there, and every other byte as it was. -/
theorem Mem.get_write (bs : Bytes) : ∀ (m : Mem) (a x : Nat),
    Mem.get (Mem.write m a bs) x = if a ≤ x ∧ x < a + bs.length then bs.getD (x - a) 0 else Mem.get m x := by
  induction bs with
  | nil => intro m a x; simp [Mem.write]
  | cons b t ih =>
    intro m a x
    unfold Mem.write
    rw [ih, Mem.get_set]
    by_cases hx : x = a
    · subst hx
      simp
    · by_cases h : a + 1 ≤ x ∧ x < a + 1 + t.length
      · have h2 : a ≤ x ∧ x < a + (b :: t).length := by simp; omega
        obtain ⟨n, hn⟩ : ∃ n, x - a = n + 1 := ⟨x - a - 1, by omega⟩
        have hn' : x - (a + 1) = n := by omega
        rw [if_pos h, if_pos h2, hn, hn', List.getD_cons_succ]
      · have h2 : ¬ (a ≤ x ∧ x < a + (b :: t).length) := by simp; omega
        rw [if_neg h, if_neg h2, if_neg (Ne.symm hx)]

theorem Mem.get_write_other (m : Mem) (a x : Nat) (bs : Bytes) (h : x < a ∨ a + bs.length ≤ x) :
    Mem.get (Mem.write m a bs) x = Mem.get m x := by
  rw [Mem.get_write, if_neg]
  omega

end Sys2Proof
end

