-- ==== Sys2Proof/Laws/State.lean ====
section
/-!
SUPPORT. One lemma per field of State per update, and what each unit's lookup finds after a unit was changed.
-/

namespace Sys2Proof.Machine

@[simp] theorem State.onDev_pending (s : State) (f : Dev → Dev) : (s.onDev f).pending = s.pending := rfl
@[simp] theorem State.onDev_time (s : State) (f : Dev → Dev) : (s.onDev f).time = s.time := rfl
@[simp] theorem State.onDev_mem (s : State) (f : Dev → Dev) : (s.onDev f).mem = s.mem := rfl
@[simp] theorem State.onDev_pow (s : State) (f : Dev → Dev) : (s.onDev f).pow = s.pow := rfl
@[simp] theorem State.onDev_mgmt (s : State) (f : Dev → Dev) : (s.onDev f).mgmt = s.mgmt := rfl
@[simp] theorem State.onDev_dev (s : State) (f : Dev → Dev) : (s.onDev f).dev = f s.dev := rfl

@[simp] theorem State.onMem_pending (s : State) (f : Memory → Memory) : (s.onMem f).pending = s.pending := rfl
@[simp] theorem State.onMem_time (s : State) (f : Memory → Memory) : (s.onMem f).time = s.time := rfl
@[simp] theorem State.onMem_mem (s : State) (f : Memory → Memory) : (s.onMem f).mem = f s.mem := rfl
@[simp] theorem State.onMem_pow (s : State) (f : Memory → Memory) : (s.onMem f).pow = s.pow := rfl
@[simp] theorem State.onMem_mgmt (s : State) (f : Memory → Memory) : (s.onMem f).mgmt = s.mgmt := rfl
@[simp] theorem State.onMem_dev (s : State) (f : Memory → Memory) : (s.onMem f).dev = s.dev := rfl

@[simp] theorem State.onPow_pending (s : State) (f : Pow → Pow) : (s.onPow f).pending = s.pending := rfl
@[simp] theorem State.onPow_time (s : State) (f : Pow → Pow) : (s.onPow f).time = s.time := rfl
@[simp] theorem State.onPow_mem (s : State) (f : Pow → Pow) : (s.onPow f).mem = s.mem := rfl
@[simp] theorem State.onPow_pow (s : State) (f : Pow → Pow) : (s.onPow f).pow = f s.pow := rfl
@[simp] theorem State.onPow_mgmt (s : State) (f : Pow → Pow) : (s.onPow f).mgmt = s.mgmt := rfl
@[simp] theorem State.onPow_dev (s : State) (f : Pow → Pow) : (s.onPow f).dev = s.dev := rfl

@[simp] theorem State.onMgmt_pending (s : State) (f : Mgmt → Mgmt) : (s.onMgmt f).pending = s.pending := rfl
@[simp] theorem State.onMgmt_time (s : State) (f : Mgmt → Mgmt) : (s.onMgmt f).time = s.time := rfl
@[simp] theorem State.onMgmt_mem (s : State) (f : Mgmt → Mgmt) : (s.onMgmt f).mem = s.mem := rfl
@[simp] theorem State.onMgmt_pow (s : State) (f : Mgmt → Mgmt) : (s.onMgmt f).pow = s.pow := rfl
@[simp] theorem State.onMgmt_mgmt (s : State) (f : Mgmt → Mgmt) : (s.onMgmt f).mgmt = f s.mgmt := rfl
@[simp] theorem State.onMgmt_dev (s : State) (f : Mgmt → Mgmt) : (s.onMgmt f).dev = s.dev := rfl

@[simp] theorem State.took_pending (s : State) (n : Nat) : (s.took n).pending = s.pending := rfl
@[simp] theorem State.took_time (s : State) (n : Nat) : (s.took n).time = s.time := rfl
@[simp] theorem State.took_mem (s : State) (n : Nat) : (s.took n).mem = s.mem := rfl
@[simp] theorem State.took_pow (s : State) (n : Nat) : (s.took n).pow = s.pow := rfl
@[simp] theorem State.took_mgmt (s : State) (n : Nat) : (s.took n).mgmt = s.mgmt := rfl
theorem State.took_dev (s : State) (n : Nat) : (s.took n).dev = { s.dev with free := s.dev.free + n } := rfl

@[simp] theorem State.took_getEng (s : State) (n i : Nat) : (s.took n).dev.getEng i = s.dev.getEng i := rfl
@[simp] theorem State.took_getCl (s : State) (n i : Nat) : (s.took n).dev.getCl i = s.dev.getCl i := rfl
@[simp] theorem State.took_getTerr (s : State) (n i : Nat) : (s.took n).dev.getTerr i = s.dev.getTerr i := rfl
@[simp] theorem State.took_getAtt (s : State) (n i : Nat) : (s.took n).dev.getAtt i = s.dev.getAtt i := rfl
@[simp] theorem State.took_getPt (s : State) (n i : Nat) : (s.took n).dev.getPt i = s.dev.getPt i := rfl
@[simp] theorem State.took_getCore (s : State) (n i : Nat) : (s.took n).dev.getCore i = s.dev.getCore i := rfl
@[simp] theorem State.took_getStack (s : State) (n i : Nat) : (s.took n).dev.getStack i = s.dev.getStack i := rfl
@[simp] theorem State.took_getChan (s : State) (n i : Nat) : (s.took n).dev.getChan i = s.dev.getChan i := rfl
@[simp] theorem State.took_getLink (s : State) (n i : Nat) : (s.took n).dev.getLink i = s.dev.getLink i := rfl
@[simp] theorem State.took_getEPort (s : State) (n i : Nat) : (s.took n).dev.getEPort i = s.dev.getEPort i := rfl
@[simp] theorem State.took_getAPort (s : State) (n i : Nat) : (s.took n).dev.getAPort i = s.dev.getAPort i := rfl
@[simp] theorem State.took_getCtx (s : State) (n i : Nat) : (s.took n).dev.getCtx i = s.dev.getCtx i := rfl
@[simp] theorem State.took_getPart (s : State) (n i : Nat) : (s.took n).dev.getPart i = s.dev.getPart i := rfl
@[simp] theorem State.took_getQp (s : State) (n i : Nat) : (s.took n).dev.getQp i = s.dev.getQp i := rfl
@[simp] theorem State.took_free (s : State) (n : Nat) : (s.took n).dev.free = s.dev.free + n := rfl

theorem Dev.getEng_modEng (d : Dev) (i j : Nat) (f : Engine → Engine) : (d.modEng i f).getEng j = if i = j then f (d.getEng j) else d.getEng j := by
  unfold Dev.modEng Dev.getEng
  dsimp only
  rw [Map.get_put]
  split
  · rename_i h
    subst h
    rfl
  · rfl

@[simp] theorem Dev.getEng_modEng_self (d : Dev) (i : Nat) (f : Engine → Engine) : (d.modEng i f).getEng i = f (d.getEng i) := by
  rw [Dev.getEng_modEng, if_pos rfl]

theorem Dev.getTerr_modTerr (d : Dev) (i j : Nat) (f : Terrace → Terrace) : (d.modTerr i f).getTerr j = if i = j then f (d.getTerr j) else d.getTerr j := by
  unfold Dev.modTerr Dev.getTerr
  dsimp only
  rw [Map.get_put]
  split
  · rename_i h
    subst h
    rfl
  · rfl

@[simp] theorem Dev.getTerr_modTerr_self (d : Dev) (i : Nat) (f : Terrace → Terrace) : (d.modTerr i f).getTerr i = f (d.getTerr i) := by
  rw [Dev.getTerr_modTerr, if_pos rfl]

theorem Dev.getAtt_modAtt (d : Dev) (i j : Nat) (f : Att → Att) : (d.modAtt i f).getAtt j = if i = j then f (d.getAtt j) else d.getAtt j := by
  unfold Dev.modAtt Dev.getAtt
  dsimp only
  rw [Map.get_put]
  split
  · rename_i h
    subst h
    rfl
  · rfl

@[simp] theorem Dev.getAtt_modAtt_self (d : Dev) (i : Nat) (f : Att → Att) : (d.modAtt i f).getAtt i = f (d.getAtt i) := by
  rw [Dev.getAtt_modAtt, if_pos rfl]

theorem Dev.getPt_modPt (d : Dev) (i j : Nat) (f : Partn → Partn) : (d.modPt i f).getPt j = if i = j then f (d.getPt j) else d.getPt j := by
  unfold Dev.modPt Dev.getPt
  dsimp only
  rw [Map.get_put]
  split
  · rename_i h
    subst h
    rfl
  · rfl

@[simp] theorem Dev.getPt_modPt_self (d : Dev) (i : Nat) (f : Partn → Partn) : (d.modPt i f).getPt i = f (d.getPt i) := by
  rw [Dev.getPt_modPt, if_pos rfl]

theorem Dev.getCore_modCore (d : Dev) (i j : Nat) (f : Core → Core) : (d.modCore i f).getCore j = if i = j then f (d.getCore j) else d.getCore j := by
  unfold Dev.modCore Dev.getCore
  dsimp only
  rw [Map.get_put]
  split
  · rename_i h
    subst h
    rfl
  · rfl

@[simp] theorem Dev.getCore_modCore_self (d : Dev) (i : Nat) (f : Core → Core) : (d.modCore i f).getCore i = f (d.getCore i) := by
  rw [Dev.getCore_modCore, if_pos rfl]

theorem Dev.getStack_modStack (d : Dev) (i j : Nat) (f : Stack → Stack) : (d.modStack i f).getStack j = if i = j then f (d.getStack j) else d.getStack j := by
  unfold Dev.modStack Dev.getStack
  dsimp only
  rw [Map.get_put]
  split
  · rename_i h
    subst h
    rfl
  · rfl

@[simp] theorem Dev.getStack_modStack_self (d : Dev) (i : Nat) (f : Stack → Stack) : (d.modStack i f).getStack i = f (d.getStack i) := by
  rw [Dev.getStack_modStack, if_pos rfl]

theorem Dev.getChan_modChan (d : Dev) (i j : Nat) (f : Chan → Chan) : (d.modChan i f).getChan j = if i = j then f (d.getChan j) else d.getChan j := by
  unfold Dev.modChan Dev.getChan
  dsimp only
  rw [Map.get_put]
  split
  · rename_i h
    subst h
    rfl
  · rfl

@[simp] theorem Dev.getChan_modChan_self (d : Dev) (i : Nat) (f : Chan → Chan) : (d.modChan i f).getChan i = f (d.getChan i) := by
  rw [Dev.getChan_modChan, if_pos rfl]

theorem Dev.getLink_modLink (d : Dev) (i j : Nat) (f : Link → Link) : (d.modLink i f).getLink j = if i = j then f (d.getLink j) else d.getLink j := by
  unfold Dev.modLink Dev.getLink
  dsimp only
  rw [Map.get_put]
  split
  · rename_i h
    subst h
    rfl
  · rfl

@[simp] theorem Dev.getLink_modLink_self (d : Dev) (i : Nat) (f : Link → Link) : (d.modLink i f).getLink i = f (d.getLink i) := by
  rw [Dev.getLink_modLink, if_pos rfl]

theorem Dev.getEPort_modEPort (d : Dev) (i j : Nat) (f : EPort → EPort) : (d.modEPort i f).getEPort j = if i = j then f (d.getEPort j) else d.getEPort j := by
  unfold Dev.modEPort Dev.getEPort
  dsimp only
  rw [Map.get_put]
  split
  · rename_i h
    subst h
    rfl
  · rfl

@[simp] theorem Dev.getEPort_modEPort_self (d : Dev) (i : Nat) (f : EPort → EPort) : (d.modEPort i f).getEPort i = f (d.getEPort i) := by
  rw [Dev.getEPort_modEPort, if_pos rfl]

theorem Dev.getAPort_modAPort (d : Dev) (i j : Nat) (f : APort → APort) : (d.modAPort i f).getAPort j = if i = j then f (d.getAPort j) else d.getAPort j := by
  unfold Dev.modAPort Dev.getAPort
  dsimp only
  rw [Map.get_put]
  split
  · rename_i h
    subst h
    rfl
  · rfl

@[simp] theorem Dev.getAPort_modAPort_self (d : Dev) (i : Nat) (f : APort → APort) : (d.modAPort i f).getAPort i = f (d.getAPort i) := by
  rw [Dev.getAPort_modAPort, if_pos rfl]

theorem Dev.getCl_modCl (d : Dev) (i j : Nat) (f : Cluster → Cluster) : (d.modCl i f).getCl j = if i = j then f (d.getCl j) else d.getCl j := by
  unfold Dev.modCl Dev.setCl Dev.getCl
  dsimp only
  rw [Map.get_put]
  split
  · rename_i h
    subst h
    rfl
  · rfl

@[simp] theorem Dev.getCl_modCl_self (d : Dev) (i : Nat) (f : Cluster → Cluster) : (d.modCl i f).getCl i = f (d.getCl i) := by
  rw [Dev.getCl_modCl, if_pos rfl]

theorem Dev.getCtx_modCtx (d : Dev) (i j : Nat) (f : Ctx → Ctx) :
    (d.modCtx i f).getCtx j = if i = j then (d.getCtx j).map f else d.getCtx j := Map.find_mod _ _ _ _

theorem Dev.getPart_modPart (d : Dev) (i j : Nat) (f : Part → Part) :
    (d.modPart i f).getPart j = if i = j then (d.getPart j).map f else d.getPart j := Map.find_mod _ _ _ _

theorem Dev.getQp_modQp (d : Dev) (i j : Nat) (f : Qp → Qp) :
    (d.modQp i f).getQp j = if i = j then (d.getQp j).map f else d.getQp j := Map.find_mod _ _ _ _

theorem Pow.getDom_modDom (w : Pow) (i j : Nat) (f : Domain → Domain) : (w.modDom i f).getDom j = if i = j then f (w.getDom j) else w.getDom j := by
  unfold Pow.modDom Pow.getDom
  dsimp only
  rw [Map.get_put]
  split
  · rename_i h
    subst h
    rfl
  · rfl

@[simp] theorem Pow.getDom_modDom_self (w : Pow) (i : Nat) (f : Domain → Domain) : (w.modDom i f).getDom i = f (w.getDom i) := by
  rw [Pow.getDom_modDom, if_pos rfl]

end Sys2Proof.Machine
end

