-- ==== Sys2Proof/Laws/Kernel.lean ====
section
/-!
SUPPORT. Kernel instructions: when the shared step runs its effect, and what the shared operations over a cluster change.
-/

namespace Sys2Proof.Machine

/-- A kernel instruction that is fetched has its effect on the state after the base instructions before it. -/
theorem kernelStep_runs {s : State} {p : Pre} (h : KernelRuns s p) (f : Nat → State → State) :
    s.kernelStep p f = (s.taking p).alsoTraps (f (clIdx p.cl) (s.taking p)) p := by
  obtain ⟨h1, h2⟩ := h
  unfold State.kernelStep State.taking
  simp only [h1, if_true]
  rw [if_pos h2]

/-- Where an instruction does not trap, no other cluster's trap joins it: what it does is its own effect. -/
theorem alsoTraps_none {s t : State} {p : Pre} (h : ∀ uid, (s.dev.getCl (clIdx p.cl)).part = some uid →
    (t.dev.getPart uid).bind (fun x => x.trap) = (s.dev.getPart uid).bind fun x => x.trap) : s.alsoTraps t p = t := by
  unfold State.alsoTraps
  dsimp only
  split
  · rfl
  · rename_i uid hu
    rw [h uid hu]
    cases (s.dev.getPart uid).bind (fun x => x.trap) <;> rfl

/-- A part that trapped alone keeps the trap of its own cluster (R127, R128). -/
theorem alsoTraps_alone {s t : State} {p : Pre} (h : p.also = []) {uid : Nat} {x : Part} {y : Nat × Nat × Nat × Nat × Nat}
    (hu : (s.dev.getCl (clIdx p.cl)).part = some uid) (hx : (s.dev.getPart uid).bind (fun z => z.trap) = none)
    (ht : t.dev.getPart uid = some x) (hy : x.trap = some y) :
    s.alsoTraps t p = t.onDev fun d => d.modPart uid fun z => { z with trap := some y } := by
  unfold State.alsoTraps
  dsimp only
  rw [hu]
  dsimp only
  rw [hx, ht, h]
  dsimp only [Option.bind]
  rw [hy]
  obtain ⟨a, b, c, d, e⟩ := y
  rfl

/-- An instruction that changes its cluster alone has no other cluster's trap joined to it. -/
theorem alsoTraps_only {i : Nat} {s t : State} (p : Pre) (h : OnlyCluster i s t) : s.alsoTraps t p = t := by
  refine alsoTraps_none fun uid _ => ?_
  have h1 : t.dev.parts = s.dev.parts := by rw [h.2.1]
  unfold Dev.getPart
  rw [h1]

/-- A change of one cluster changes that cluster alone. -/
theorem onlyCluster_modC (s : State) (i : Nat) (f : Cluster → Cluster) : OnlyCluster i s (s.modC i f) := by
  refine ⟨⟨rfl, rfl, rfl, rfl, rfl⟩, rfl, ?_, fun _ => rfl, fun _ _ => rfl⟩
  intro j hj
  unfold State.modC
  simp [Dev.getCl_modCl, Ne.symm hj]

theorem OnlyCluster.refl (i : Nat) (s : State) : OnlyCluster i s s :=
  ⟨⟨rfl, rfl, rfl, rfl, rfl⟩, rfl, fun _ _ => rfl, fun _ => rfl, fun _ _ => rfl⟩

/-- Frames of one cluster compose. -/
theorem OnlyCluster.trans {i : Nat} {a b c : State} (h : OnlyCluster i a b) (k : OnlyCluster i b c) : OnlyCluster i a c := by
  obtain ⟨⟨a1, a2, a3, a4, a5⟩, h1, h2, h3, h4⟩ := h
  obtain ⟨⟨b1, b2, b3, b4, b5⟩, k1, k2, k3, k4⟩ := k
  refine ⟨⟨b1.trans a1, b2.trans a2, b3.trans a3, b4.trans a4, b5.trans a5⟩, ?_, fun j hj => (k2 j hj).trans (h2 j hj), ?_, fun e he => (k4 e he).trans (h4 e he)⟩
  · rw [k1, h1]
  · intro e
    rw [k3, h3]

/-- A progress event touches the count of the engine alone. -/
theorem onlyCluster_progressed (s : State) (i : Nat) : OnlyCluster i s (s.progressed (i / 20)) := by
  unfold State.progressed
  split
  · exact OnlyCluster.refl _ _
  · refine ⟨⟨rfl, rfl, rfl, rfl, rfl⟩, rfl, fun _ _ => rfl, ?_, ?_⟩
    · intro e
      simp [Dev.getEng_modEng]
      split <;> rfl
    · intro e he
      simp [Dev.getEng_modEng, Ne.symm he]

theorem onlyCluster_took (s : State) (i n : Nat) : OnlyCluster i s (s.took n) :=
  ⟨⟨rfl, rfl, rfl, rfl, rfl⟩, rfl, fun _ _ => rfl, fun _ => rfl, fun _ _ => rfl⟩

@[simp] theorem progressed_getCl (s : State) (e j : Nat) : (s.progressed e).dev.getCl j = s.dev.getCl j := by
  unfold State.progressed
  split <;> rfl

@[simp] theorem modC_getCl (s : State) (i : Nat) (f : Cluster → Cluster) : (s.modC i f).dev.getCl i = f (s.dev.getCl i) := by
  simp [State.modC]

@[simp] theorem retire_getCl (s : State) (i : Nat) : (s.retire i).dev.getCl i = (s.dev.getCl i).retire := by
  simp [State.retire]
@[simp] theorem done_getCl (s : State) (i : Nat) (rd : Fin 32) (v : Word) : (s.done i rd v).dev.getCl i = ((s.dev.getCl i).xset rd v).retire := by
  simp [State.done]
theorem retire_only (s : State) (i : Nat) : OnlyCluster i s (s.retire i) := OnlyCluster.trans (onlyCluster_modC s i _) (onlyCluster_progressed _ i)
theorem done_only (s : State) (i : Nat) (rd : Fin 32) (v : Word) : OnlyCluster i s (s.done i rd v) :=
  OnlyCluster.trans (onlyCluster_modC s i _) (onlyCluster_progressed _ i)

/-- Where the queue has a place and tickets are left, an array operation enters with the next ticket. -/
theorem issueArr_ok {s : State} {i : Nat} {k : ArrKind} {rd : Fin 32} (h1 : (s.dev.getCl i).tickets + 1 < 2 ^ 32) (h2 : (s.dev.getCl i).arrq.length < 4) :
    OnlyCluster i s (s.issueArr i k rd) ∧ (s.issueArr i k rd).dev.getCl i = (({ (s.dev.getCl i) with tickets := (s.dev.getCl i).tickets + 1, arrq := (s.dev.getCl i).arrq ++ [{ ticket := (s.dev.getCl i).tickets + 1, kind := k }] } : Cluster).xset rd
        (BitVec.ofNat 64 ((s.dev.getCl i).tickets + 1))).retire := by
  unfold State.issueArr
  try dsimp only
  rw [if_neg (by omega), if_neg (by omega)]
  exact ⟨OnlyCluster.trans (onlyCluster_modC _ _ _) (done_only _ _ _ _), by rw [done_getCl, modC_getCl]⟩

end Sys2Proof.Machine
end

