-- ==== Sys2Proof/Laws/Messages.lean ====
section
/-!
SUPPORT. Messages: what the shared row of a message does with one that is taken, refused, or another row's.
-/

namespace Sys2Proof.Machine

/-- A message whose header passes reaches its handler, on the state without it. -/
theorem message_taken {s : State} {mb : Mb} {m : MsgIn} (h : Taken s mb m) {mine : Bytes → Bool} (hm : mine m.b = true)
    (f : MsgIn → State → State) : s.message mb mine f = f m (s.takeHead mb) := by
  obtain ⟨h1, h2⟩ := h
  unfold State.message
  rw [h1]
  simp only [hm, true_or, if_true, h2]

/-- A message whose header fails is answered with the refusal, and a failing check word counts. -/
theorem message_refused {s : State} {mb : Mb} {m : MsgIn} {st : Nat} (h1 : s.headMsg mb = some m) (h2 : s.precheck m = some st)
    {mine : Bytes → Bool} (hm : mine m.b = true) (f : MsgIn → State → State) :
    s.message mb mine f =
      (if st = 2 then (s.takeHead mb).onDev fun d => d.count 0x0B 1 else s.takeHead mb).refuse m st := by
  unfold State.message
  rw [h1]
  simp only [hm, true_or, if_true, h2]

/-- A message of another row stays where it is. -/
theorem message_other {s : State} {mb : Mb} {m : MsgIn} (h1 : s.headMsg mb = some m) {mine : Bytes → Bool} (hm : mine m.b = false)
    (hl : opListed m.op = true) (f : MsgIn → State → State) : s.message mb mine f = s := by
  unfold State.message
  rw [h1]
  simp [hm, hl]

/-- A mailbox without a message changes nothing. -/
theorem message_none {s : State} {mb : Mb} (h : s.headMsg mb = none) (mine : Bytes → Bool) (f : MsgIn → State → State) :
    s.message mb mine f = s := by
  unfold State.message
  rw [h]

end Sys2Proof.Machine
end

