-- ==== Sys2Proof/WellFormed.lean ====
section
/-!
DEFINITION. Which commands are well formed: operands in the ranges of the fields that carry them. The meanings do not rest on it.
-/

namespace Sys2Proof

/-- Base-instruction effects that a core can show: bytes of the 32 vector registers, a configuration of Zve64x (SEW 8 to 64, LMUL 1/8 to 8,
vl and vstart within 1,024 elements), an even pc. -/
def Pre.ok (p : Pre) : Bool :=
  (p.vs.all fun b => b.1 < 4096)
    && (match p.vcfg with
        | some v => [8, 16, 32, 64].contains v.sew && -3 ≤ v.lmul && v.lmul ≤ 3 && v.vl ≤ 1024 && v.vstart ≤ 1024
        | none => true)
    && match p.pc with | some a => a.toNat % 2 = 0 | none => true

/-- A register access of kernel code carries what its core did before. -/
def RegAgent.ok (r : RegAgent) : Bool := match r with | .kernel p => p.ok | .host _ => true | .jormon => true | .byolo => true | .core _ => true

/-- What a server core's registers can hold: a privilege that exists, none virtualised in M-mode, translation modes that it has (R318). -/
def HPre.ok (h : HPre) : Bool :=
  match h.csrs with
  | none => true
  | some x =>
    x.mode ≠ 2 && !(x.virt && x.mode = 3)
      && [x.satp, x.vsatp, x.hgatp].all fun r => [0, 8, 9, 10].contains (r.toNat / 2 ^ 60)

/-- A lane of a pseudo-channel is one of 32 data bits, which a stack's redundant lanes may replace. -/
def LaneFinding.ok (l : LaneFinding) : Bool := l.lane < 32

/-- A wished split has a part, and at most one for each engine of the device. -/
def Split.ok (s : Split) : Bool := 1 ≤ s.parts && s.parts ≤ 40 && s.engs.length ≤ 40

/-- Whether a command's operands lie in their ranges. -/
def wellFormed (i : Instr) : Bool :=
  match i with
  | .kqWload p _ _ _ => p.ok
  | .kqStream p _ _ => p.ok
  | .kqStreamt p _ _ => p.ok
  | .kqDrain p _ _ => p.ok
  | .kqReload p _ _ => p.ok
  | .moverCopy p _ _ => p.ok
  | .moverConvert p _ _ => p.ok
  | .merge p _ _ => p.ok
  | .kqWaitM p _ => p.ok
  | .kqWaitA p _ => p.ok
  | .kqBar p => p.ok
  | .kqCnt p _ _ => p.ok
  | .kqAmoaddW p _ _ _ => p.ok
  | .kqAmoxorW p _ _ _ => p.ok
  | .kqAmoaddD p _ _ _ => p.ok
  | .kqAmoxorD p _ _ _ => p.ok
  | .kqAmoswapD p _ _ _ => p.ok
  | .kqAmominD p _ _ _ => p.ok
  | .kqAmomaxD p _ _ _ => p.ok
  | .kqBexp p _ _ => p.ok
  | .kqFit p _ _ _ => p.ok
  | .kqPin p _ _ _ => p.ok
  | .kqAlign p _ _ _ => p.ok
  | .kqPack p _ _ _ => p.ok
  | .kqUnpack p _ _ => p.ok
  | .kqSrnd p _ _ _ _ => p.ok
  | .kqTopk p _ _ _ _ => p.ok
  | .kqcvtWrite p _ _ _ => p.ok
  | .fenceI p => p.ok
  | .kernelLoad p _ _ _ log2 signed _ => p.ok && log2.val < 4 && (signed || log2.val < 3)
  | .kernelStore p _ _ _ _ _ => p.ok
  | .ecall p => p.ok
  | .ebreak p => p.ok
  | .clusterExit p => p.ok
  | .submit _ split => split.ok
  | .submitList _ split => split.ok
  | .resumeRetry _ split => split.ok
  | .homeRead _ pa len _ => 0 < len && pa + len ≤ 2 ^ 50
  | .linkRetrained _ badLanes => badLanes.all fun b => b < 256
  | .portRequest _ _ b => 128 ≤ b.bytes && b.bytes ≤ 2048 && b.bytes % 128 = 0
  | .serverCoreLoad _ h va _ => h.ok && va < 2 ^ 64
  | .serverCoreStore _ h va _ _ => h.ok && va < 2 ^ 64
  | .serverCoreAmo _ h va _ _ _ _ _ => h.ok && va < 2 ^ 64
  | .lr _ h va _ _ _ => h.ok && va < 2 ^ 64
  | .sc _ h va _ _ _ _ => h.ok && va < 2 ^ 64
  | .ioRegionAccess _ h va log2 _ => h.ok && va < 2 ^ 64 && log2 ≤ 4
  | .cboZero _ h va => h.ok && va < 2 ^ 64
  | .cboClean _ h va => h.ok && va < 2 ^ 64
  | .cboFlush _ h va => h.ok && va < 2 ^ 64
  | .cboInval _ h va => h.ok && va < 2 ^ 64
  | .prefetch _ h va => h.ok && va < 2 ^ 64
  | .imsicWrite _ h va _ => h.ok && va < 2 ^ 64
  | .windowWrite _ _ data => !data.isEmpty && data.length ≤ 4096
  | .windowRead _ _ len => 0 < len && len ≤ 4096
  | .mailboxSlotWrite _ _ _ data => !data.isEmpty && data.length ≤ 4096
  | .registerReadClear who _ _ => who.ok
  | .registerWrite who _ _ _ _ _ _ => who.ok
  | .connectRequest _ ctx gen _ _ => ctx < 4096 && gen < 16
  | .rdmaWrite _ _ _ data => !data.isEmpty
  | .rdmaRead _ _ _ len => 0 < len
  | .hardwareTrip _ source reading => source < 256 && reading < 2 ^ 16
  | .ceilingEnforcement inputW => inputW < 2 ^ 16
  | .ceilingRelease inputW => inputW < 2 ^ 16
  | .ceilingStop inputW => inputW < 2 ^ 16
  | .supervisorFault _ source reading => source < 256 && reading < 2 ^ 16
  | .deviceReset _ _ _ lanes => lanes.all LaneFinding.ok
  | .byoloRestart cause => cause < 256
  | .logRead _ first count => first < 2 ^ 64 && count < 256
  | .dumpList _ t => t < 256
  | .dumpRead _ t slot off => t < 256 && slot < 256 && off < 2 ^ 32
  | .summaryRead _ slot idx => slot < 256 && idx < 256
  | .negotiateAlgorithms _ asym hash => asym < 2 ^ 32 && hash < 2 ^ 32
  | .getCertificate _ slot off len => slot < 256 && off < 2 ^ 16 && len < 2 ^ 16
  | .challenge _ slot nonce => slot < 256 && nonce < 2 ^ 256
  | .getMeasurements _ idx => idx < 256
  | .updateComponent _ img => img.component < 256 && img.svn < 256 && img.digest < 2 ^ 512
  | .verifyComplete _ component => component < 2 ^ 16
  | .powerUp sockets _ lanes _ => (sockets.all fun x => x.1 < 52 && match x.2 with | some n => n < 2 ^ 64 | none => true) && lanes.all LaneFinding.ok
  | .illegalInstruction p _ => p.ok
  | .vectorLoad p _ _ _ _ _ _ => p.ok
  | .vectorStore p _ _ _ _ _ _ => p.ok
  | .dlActive _ speed width _ => speed < 16 && width < 64
  | .coolantReport _ flowTenths => flowTenths < 2 ^ 16
  | .arrayOperationStart _ _ _ | .arrayOperationDone _ _ | .activityRamp _ | .moverRequestComplete _ _ _ | .kernelRunLimit _
  | .ccFillComplete _ _ _ | .ccClean _ _ _ | .ccInvalidate _ _ _ | .ccMaintenanceDone _ _ | .ccWayDisabled _ _ _
  | .ccFailCountHalving _ _ | .attach _ | .reattach _ | .resendDone _ | .detach _
  | .ctxCreate _ | .ctxDestroy _ | .teardownReply _ | .rangeMap _ | .rangeUnmap _
  | .rangeUnmapDone _ _ | .frameClass _ | .objRegister _ | .objPolicy _ | .abort _
  | .abortSettled _ _ | .resumeFail _ | .gateAlloc _ | .gateFree _ | .statsReadContext _
  | .statsReadPartition _ | .statsReadDevice _ | .queryDevice _ | .queryContext _ | .queryObject _
  | .queryGate _ | .queryRange _ | .note _ | .layoutRead _ | .layoutStage _
  | .layoutCommit _ | .layoutDiscard _ | .gemm _ | .gemmT _ | .route _
  | .dispatch _ | .combine _ | .partialLands _ _ | .convert _ | .copy _
  | .copyHostDst _ | .reduce _ | .fill _ | .kernel _ | .steep _
  | .sink _ | .sinkKeep _ | .pin _ | .unpin _ | .gateSignal _
  | .gateWait _ | .fence _ | .stepMark _ | .descriptorDispatch _ | .partStart _
  | .partCommit _ _ | .commandFailureSettled _ _ | .rangeCacheFill _ _ _ | .faultEntryOpen _ | .riseRoom _ _
  | .infuserChunkDone _ _ | .riseComplete _ _ | .residencyDeadlock _ _ | .sinkReleasePoint _ _ | .drainEnd _ _
  | .shadowFill _ _ _ _ | .homeWrite _ | .patrolScrub _ _ | .rowRepair _ _ _ _ | .pseudoChannelRetirement _ _
  | .hbmTemperatureRead _ _ | .refreshStepDown _ | .caddyRetry _ _ | .caddyChannelRetired _ | .stripeBufferFlush _ _
  | .linkReplay _ _ | .linkFailed _ | .arbiterGrant _ | .requesterAbsent _ _ _ | .storePerformed _
  | .serverCoreFence _ _ | .wrsNto _ | .wrsSto _ | .bootStart _ | .bootHalt _
  | .sbiSrstShutdown _ | .sbiSrstReboot _ | .hsmStart _ _ _ _ | .hsmSuspend _ _ | .hartLost _
  | .windowBind _ | .doorbell _ _ _ _ _ | .outflowAck _ _ | .unsupportedRequest _ | .outflowItemComplete _ _
  | .ringEntryWrite _ _ | .interruptHoldoffEnd _ | .attachmentLoss _ _ | .orphanHoldExpiry _ | .send _ _
  | .sendWithImmediate _ | .rdmaWriteWithImmediate _ | .compareAndSwap _ | .fetchAndAdd _ | .arpRequest _ _
  | .neighborSolicitation _ _ | .echoRequest _ _ _ | .frameDiscard _ | .congestionExperienced _ | .cnpReceived _
  | .rateLimitRaise _ | .pfcFrame _ _ _ | .receiveBufferThreshold _ _ | .portLinkDown _ | .engineClockGate _
  | .enginePowerGate _ | .engineWake _ | .terracePllOff _ | .terracePllWake _ | .dormantWake _
  | .fastLoop _ _ | .droop _ | .slowLoop _ _ _ _ _ | .divergenceHoldEnd _ | .trayCeilingWrite _
  | .trayCapLower _ | .commandReplay _ _ | .engineReset _ _ _ | .engineResetLimit _ | .progressWatchdog _
  | .contextRollback _ _ _ | .partitionAlarm _ _ _ _ | .l2BoundExpiry _ | .dumpTruncated _ | .jormonCoreLost _ _
  | .serviceRead _ | .getVersion _ | .getCapabilities _ | .getDigests _ | .pldmSensorRead _ _
  | .requestUpdate _ | .activateFirmware _ _ | .cancelUpdate _ | .handover _ | .inputDisconnect _
  | .perstNRelease _ | .hartTimerInterrupt _ | .portLinkUp _ _ | .retransmissionTimeout _ | .acknowledgementReceived _ _
  | .periodMark | .refclkLost | .dormantEntry | .l3BoundExpiry | .trayPowerCycle
  | .spRequestDeviceReset | .spRequestPowerRemoval | .fuseRaise | .powerDown | .resetNLow
  | .resetNHigh | .usageHalving | .refclkReturn | .aux12vPresent | .mainInputInRange => true

end Sys2Proof
end

