-- ==== Sys2Proof/Tests/Slice0.lean ====
section
/-!
SUPPORT. The author's own tests: ill-formed terms that the checks refuse, values that the manual states, and for each statement a concrete
state and operands that meet its hypotheses.
-/

namespace Sys2Proof.Tests

open Sys2Proof.Machine

set_option Elab.async false

/-! ### Small states. -/

/-- A list of n bytes that holds values at offsets: offset, size, value. -/
def bytesOf (n : Nat) (fs : List (Nat × Nat × Nat)) : Bytes :=
  (List.range n).map fun k => match fs.find? (fun f => f.1 ≤ k && k < f.1 + f.2.1) with
    | some f => BitVec.ofNat 8 (f.2.2 / 256 ^ (k - f.1))
    | none => 0

/-- Sparse memory that holds those values. -/
def memOf (b : Nat) (fs : List (Nat × Nat × Nat)) : Mem := fs.foldl (fun m f => Mem.write m (b + f.1) (leBytes f.2.1 f.2.2)) []

def eng0 : EngId := ⟨0, 0⟩
def cl0 : ClId := ⟨eng0, 0⟩

/-- A kernel's prefix with nothing before the command. -/
def pre0 : Pre := { cl := cl0, pc := none, xs := [], vs := [], vcfg := none, retired := 0 }

/-- A prefix that sets integer registers. -/
def preX (xs : List (Fin 32 × Word)) : Pre := { pre0 with xs := xs }

/-- An entry that maps 16 granules from virtual address 0 to frame 0 of terrace 0, with every permission. -/
def entry0 : RangeEntry := { va := 0, granules := 16, kind := 0, perms := 15, attrs := 0, target := 2 ^ 32 }

def ctx0 : Ctx := { pt := 0, gen := 0, home := 0, prio := 0, vector := 1, quota := 1, engShare := 0, caddyShare := 0, holdoff := 0, recIova := 0, recLog2 := 6,
                    evtIova := 0, evtLog2 := 6, ranges := [{ entry := entry0 }] }

def kpart : Part := { ctx := 1, seq := 1, idx := 0, eng := eng0, kind := .kernel, stage := .executing, ran := true }

/-- A context 1 with one running command, and its part 1. -/
def partState (desc : Bytes) (p : Part) : State :=
  { dev := { ready := true, parts := [(1, p)], ctxs := [(1, { ctx0 with cmds := [{ seq := 1, desc := desc, step := 0, state := .running, parts := [1] }], nextSeq := 2 })] } }

/-- Cluster 0 of engine 0 runs a kernel, whose instruction at address 0 is fetched. -/
def kernelState (c : Cluster) : State :=
  (partState (bytesOf 128 [(56, 4, 4096), (72, 8, 4096)]) kpart).onDev fun d => { d with cl := [(0, { c with run := .running, part := some 1, fetched := some 0 })] }

/-- The clusters 0 and 2 of engine 0 run a kernel. -/
def kernelPair : State := (kernelState {}).onDev fun d => d.modCl 2 fun c => { c with run := .running, part := some 1 }

/-! ### Number formats and kernel code: witnesses. -/

theorem wit_PinnedMode :
    (let c : Conv := ⟨0, true, 5⟩
     let xs : List Sys2Proof.Num := [{ m := 3 }]
     c.pinned = true ∧ (∀ x ∈ xs, x.poison = false) ∧ fmtOk 0 = true ∧ (0 : Nat) ≠ 9 ∧ (0 : Nat) ≠ 10 ∧ xs ≠ []) ∧
    (let c : Cluster := { sew := 32, lmul := 3, vl := 256 }
     3 < c.groups ∧ 128 * (31 : Fin 32).val + c.groups ≤ 4096) := by decide +kernel

theorem wit_SaturatingConversion : fmtOk 0 = true ∧ (0 : Nat) ≠ 10 ∧ fmtOk 9 = true ∧ (9 : Nat) ≠ 10 := by decide +kernel

/-- The clause of the kqcvt instructions, of srnd and of topk, at the widest group. -/
def vecCluster : Cluster := { sew := 32, lmul := 0, vl := 32, kqcvt := 0x30000, x := [(5, 63), (6, 8)] }

theorem wit_kernelRuns : KernelRuns (kernelState vecCluster) pre0 := ⟨by decide +kernel, by decide +kernel⟩

theorem wit_VectorResults :
    let c := ((kernelState vecCluster).taking pre0).dev.getCl 0
    c.cvtBad 8 (c.regs 16) [(16, c.regs c.sew)] false = none ∧ c.cvtBad 8 (c.regs 8) [(16, c.regs c.sew)] false = none ∧
    c.cvtBad 8 (c.regs c.sew) [(16, c.regs c.sew), (24, c.regs 8)] true = none ∧
    c.cvtBad 8 (c.packRegs c.fmt) [(16, c.regs c.sew), (24, c.regs 8)] true = none ∧
    c.cvtBad 8 (c.regs c.sew) [(16, c.packRegs c.fmt)] true = none ∧
    c.vok 8 (c.regs c.sew) [(16, c.regs c.sew)] = true ∧ (c.xget 5).toNat < 64 ∧
    c.vok 8 1 [(16, c.regs c.sew)] = true ∧ c.sew ≤ 32 ∧ (let v := (c.xget 6).toNat
      v % 16 ≠ 0 ∧ v % 16 ≤ 8 ∧ bits v 7 4 = 0 ∧ bits v 15 9 = 0 ∧ v < 2 ^ 32) := by decide +kernel

/-- A cluster whose one array operation and whose mover requests are done. -/
def doneCluster : Cluster := { tickets := 3, tags := 2, movs := [], x := [(5, 2), (6, 0x000000000001_0204)] }

theorem wit_KernelScalarResults : KernelRuns (kernelState doneCluster) pre0 ∧
    (let c := ((kernelState doneCluster).taking pre0).dev.getCl 0
     (∀ op ∈ [CsrOp.rw, .rs, .rc, .rwi, .rsi, .rci], csrWrites op 6 = true ∧ kqcvtOk (csrNew op c.kqcvt (c.csrArg op (if op = .rw ∨ op = .rs ∨ op = .rc then 6 else 4))) = true) ∧
     csrWrites .rsi 0 = false ∧
     (c.xget 5).toNat ≤ c.tickets ∧ c.arrDone (c.xget 5).toNat = true ∧ (c.xget 5).toNat ≤ c.tags ∧ c.lost (c.xget 5).toNat = false ∧
     (c.movs.all fun r => (c.xget 5).toNat < r.tag) = true) := ⟨⟨by decide +kernel, by decide +kernel⟩, by decide +kernel⟩

theorem wit_KernelTraps : KernelRuns (kernelState {}) pre0 ∧ (((kernelState {}).taking pre0).dev.getCl 0).part = some 1 ∧
    ((kernelState {}).taking pre0).dev.getPart 1 = some kpart ∧ kpart.live = true ∧ legalWord 0 = false ∧ legalWord 0xFFFFFFFF = false ∧
    (let p : Pre := { pre0 with also := [(2, 4, 9)] }
     KernelRuns kernelPair p ∧ kpart.trap = none ∧ ((kernelPair.taking p).dev.getCl 2).ready = true ∧ ((kernelPair.taking p).dev.getCl 2).part = some 1) :=
  ⟨⟨by decide +kernel, by decide +kernel⟩, by decide +kernel, by decide +kernel, by decide +kernel, by decide +kernel, by decide +kernel,
    ⟨by decide +kernel, by decide +kernel⟩, by decide +kernel⟩

/-- x5 holds the last doubleword of the cup, x6 a virtual address, x7 the start of the cup. -/
def cupCluster : Cluster := { sew := 64, vl := 2, x := [(5, 0x80000000001FDFF8), (6, 0x1000), (7, 0x8000000000000000)] }

/-- The engine's range cache and control cache hold the entry and the line that x6 reaches. -/
def cupHit : State := (kernelState cupCluster).onDev fun d => { d with
  eng := [(0, { rcache := [(1, entry0)], cc := [(8 * 32, { line := hbmPa 0 0x1000 / 128, instr := false, data := [], dirty := 0 })] })] }

theorem wit_CupAccess : KernelRuns (kernelState cupCluster) pre0 ∧
    (let c := ((kernelState cupCluster).taking pre0).dev.getCl 0
     (c.xget 5).toNat % 8 = 0 ∧ 2 ^ 63 ≤ (c.xget 5).toNat ∧ localOf 0 (c.xget 5).toNat = .cup 0x1FDFF8 ∧
     (c.xget 6).toNat % 8 = 0 ∧ (c.xget 6).toNat < 2 ^ 48 ∧
     (∀ x ∈ [(VMode.unit, 0), (.unit, 1), (.strided 0, 0), (.indexed 16, 0), (.indexed 16, 1), (.first, 0)], c.vmemBad 8 x.1 3 x.2 false false = false ∧
       (x.1 ≠ .first → c.vmemBad 8 x.1 3 x.2 false true = false)) ∧
     (∀ x ∈ [VMode.mask, .whole 3], ∀ store ∈ [true, false], c.vmemBad 8 x 0 0 true store = false) ∧
     (∀ x ∈ [(VMode.unit, 3, 1), (.strided 0, 3, 0), (.indexed 16, 3, 1), (.first, 3, 0), (.mask, 0, 0), (.whole 0, 0, 0)],
       ∀ k ∈ List.range (vcount c x.1 x.2.1), ∀ f ∈ List.range (x.2.2 + 1),
         let a := vaddr c x.1 (c.xget 7) x.2.1 x.2.2 k f
         a % vwidth c x.1 x.2.1 = 0 ∧ 2 ^ 63 ≤ a ∧ localOf 0 a = .cup (a - 2 ^ 63))) ∧
    (let u := cupHit.taking pre0
     let a := ((u.dev.getCl 0).xget 6).toNat
     KernelRuns cupHit pre0 ∧ (u.dev.getCl 0).part = some 1 ∧ u.dev.getPart 1 = some kpart ∧ (u.dev.getEng 0).rcFind kpart.ctx a = some entry0 ∧
     (∀ acc ∈ [0, 1], (u.dev.modEng 0 fun y => y.rcTouch kpart.ctx entry0).runPlace entry0 1 acc a = .phys (hbmPa 0 0x1000)) ∧
     ((u.dev.getEng 0).ccSlot (hbmPa 0 0x1000 / 128)).isSome = true) :=
  ⟨⟨by decide +kernel, by decide +kernel⟩, by decide +kernel, ⟨by decide +kernel, by decide +kernel⟩, by decide +kernel⟩

/-- An operand block at the cup's start for kq.stream and kq.streamt, one of a drain at 64, one of a reload at 128; x5 to x7 hold their offsets, x8
asks for one row of KQ2 weights. -/
def arrCluster : Cluster := { x := [(5, 0), (6, 64), (7, 128), (8, 1)], wFmt := 3,
                              cup := memOf 0 [(4, 4, 64), (12, 4, 16), (16, 2, 1), (18, 2, 255), (64 + 4, 4, 64), (64 + 12, 4, 16), (64 + 16, 2, 1), (128 + 4, 4, 1024),
                                              (128 + 16, 2, 1)] }

theorem wit_ArrayIssue_runs : KernelRuns (kernelState arrCluster) pre0 ∧
    (let c := ((kernelState arrCluster).taking pre0).dev.getCl 0
     let v := (c.xget 8).toNat
     c = { arrCluster with run := .running, part := some 1 } ∧ (c.xget 5).toNat % 256 = 0 ∧ (c.xget 5).toNat + 16896 ≤ 0x1FE000 ∧ c.tickets + 1 < 2 ^ 32 ∧ c.arrq.length < 4 ∧ 1 ≤ v % 128 ∧ v % 128 ≤ 64 ∧ bit v 7 = false ∧
     v < 2 ^ 12 ∧ bits v 11 8 < 10) := ⟨⟨by decide +kernel, by decide +kernel⟩, by decide +kernel⟩

theorem wit_ArrayIssue_stream : ∀ tr ∈ [true, false],
    let w (o n : Nat) := Mem.le arrCluster.cup ((arrCluster.xget 5).toNat + o) n
    let f := w 20 1 % 16
    let ext := if tr then 64 else 64 * peP arrCluster.tileFmt
    (arrCluster.xget 5).toNat % 32 = 0 ∧ w 20 1 < 16 ∧ w 21 1 < 2 ∧ w 22 10 = 0 ∧ w 18 2 < 256 ∧ f < 10 ∧ w 4 4 % 64 = 0 ∧ w 12 4 % 16 = 0 ∧
    w 18 2 + peP arrCluster.tileFmt * w 16 2 ≤ 256 ∧ w 18 2 + w 16 2 ≤ 256 ∧ w 16 2 ≠ 0 ∧
    w 0 4 + (w 16 2 - 1) * w 4 4 + actBytes f ext ≤ 0x1FE000 ∧ w 8 4 + (w 16 2 - 1) * w 12 4 + actGroups f ext ≤ 0x1FE000 := by decide +kernel

theorem wit_ArrayIssue_drain :
    let w (o n : Nat) := Mem.le arrCluster.cup ((arrCluster.xget 6).toNat + o) n
    let f := w 20 1 % 16
    (arrCluster.xget 6).toNat % 32 = 0 ∧ w 20 1 < 16 ∧ w 21 1 = 0 ∧ w 24 8 = 0 ∧ fmtOk f = true ∧ convOk f (w 22 2) = true ∧ f ≠ 4 ∧ f ≠ 7 ∧
    w 4 4 % 64 = 0 ∧ w 12 4 % 16 = 0 ∧ w 18 2 + w 16 2 ≤ 256 ∧ w 16 2 ≠ 0 ∧ w 0 4 + (w 16 2 - 1) * w 4 4 + lineBytes f 64 ≤ 0x1FE000 ∧
    w 8 4 + (w 16 2 - 1) * w 12 4 + actGroups f 64 ≤ 0x1FE000 := by decide +kernel

theorem wit_ArrayIssue_reload :
    let w (o n : Nat) := Mem.le arrCluster.cup ((arrCluster.xget 7).toNat + o) n
    (arrCluster.xget 7).toNat % 32 = 0 ∧ w 21 1 = 0 ∧ w 24 8 = 0 ∧ w 4 4 % 64 = 0 ∧ w 18 2 + w 16 2 ≤ 256 ∧ w 18 2 < 256 ∧ w 16 2 ≠ 0 ∧
    w 0 4 + (w 16 2 - 1) * w 4 4 + 1024 ≤ 0x1FE000 := by decide +kernel

/-- One operation in the queue. -/
def arrRun (o : ArrOp) (c : Cluster) : State := kernelState { c with arrq := [o] }

def streamOp1 : ArrKind := .stream false 0 64 0 16 1 0 0 true
def streamOp0 : ArrKind := .stream false 0 64 0 16 0 0 0 true

theorem wit_ArrayRun :
    (∀ k ∈ [ArrKind.load 0 1 0, streamOp1, .drain 0 64 0 16 1 0 3 0, .reload 0 1024 1 0],
      let c := (arrRun { ticket := 1, kind := k } { level := 64 }).dev.getCl 0
      c.arrq.find? (fun x => x.ticket = 1) = some { ticket := 1, kind := k } ∧ c.canStart { ticket := 1, kind := k } = true) ∧
    (let o : ArrOp := { ticket := 1, kind := streamOp0, started := true }
     let c := (arrRun o { level := 56 }).dev.getCl 0
     (c.arrq.find? fun x => x.ticket = 1) = some o ∧ c.stall = .none ∧ c.through o = true) ∧
    (let o : ArrOp := { ticket := 1, kind := .load 0 64 0, started := true }
     let c := (arrRun o {}).dev.getCl 0
     c.arrq = [o] ∧ o.pos = 0 ∧ o.upsets = [] ∧ c.stall = .none) ∧
    (let o : ArrOp := { ticket := 1, kind := .drain 0 1024 0 0 2 254 10 0, started := true }
     let c := (arrRun o {}).dev.getCl 0
     c.arrq = [o] ∧ ∀ k ∈ List.range 128, (c.entry (64 * 254 + k)).ok = true) ∧
    (let c := (arrRun { ticket := 1, kind := .load 0 64 0, started := true } { level := 56 }).dev.getCl 0
     c.loading = true) ∧
    (let c := (arrRun { ticket := 1, kind := streamOp1 } { level := 56 }).dev.getCl 0
     c.loading = false ∧ c.rampDue = true ∧ c.level < 64) ∧
    (let c : Cluster := { level := 16, idle := 28 }
     c.loading = false ∧ c.rampDue = false ∧ 8 < c.level ∧ 4 * ((64 - c.level) / 8 + 1) ≤ c.idle) ∧
    (let c : Cluster := { level := 8, idle := 64 }
     c.loading = false ∧ c.rampDue = false ∧ c.level ≤ 8 ∧ 64 ≤ c.idle) := by decide +kernel

/-- A copy of 8 bytes of the cup at offset 0 in the request of offset 64, a conversion at 128, a merge of cluster 0 at 192. -/
def movCluster : Cluster := { x := [(5, 0x8000000000000040), (6, 0x8000000000000080), (7, 0x80000000000000C0)], cup := memOf 0 [
                                (64 + 8, 8, 2 ^ 63), (64 + 24, 8, 2 ^ 63 + 0x1000), (64 + 40, 4, 1), (64 + 44, 4, 8),
                                (128 + 0, 1, 1), (128 + 8, 8, 2 ^ 63), (128 + 16, 8, 2 ^ 63 + 256), (128 + 24, 8, 2 ^ 63 + 0x1000), (128 + 32, 8, 2 ^ 63 + 0x1100), (128 + 40, 4, 1),
                                (128 + 44, 4, 64),
                                (192 + 0, 1, 2), (192 + 4, 1, 10), (192 + 5, 1, 10), (192 + 8, 8, 2 ^ 63), (192 + 24, 8, 2 ^ 63 + 0x2000), (192 + 40, 4, 1), (192 + 44, 4, 8),
                                (192 + 56, 4, 1)] }

theorem wit_MoverRequests : KernelRuns (kernelState movCluster) pre0 ∧
    (let u := (kernelState movCluster).taking pre0
     let c := u.dev.getCl 0
     c.movs.length < 16 ∧ (∀ x ∈ [(5, 64, 0), (6, 128, 1), (7, 192, 2)],
       let a := (c.xget (Fin.ofNat 32 x.1)).toNat
       let r := movReq c.cup x.2.1 0
       2 ^ 63 ≤ a ∧ localOf 0 a = .cup x.2.1 ∧ a % 64 = 0 ∧ movCheck c x.2.1 0 (u.dev.grant 0) r = none ∧ r.rows ≠ 0 ∧ r.op = x.2.2) ∧
     ((u.dev.getEng 0).join 0 { movReq c.cup 192 0 with tag := 1 }).isSome = true) ∧
    (let r := { movReq movCluster.cup 64 0 with tag := 1 }
     let c := (kernelState { movCluster with movs := [r] }).dev.getCl 0
     c.part = some 1 ∧ r.performed = none ∧ r.xl.hold = none ∧ (kernelState { movCluster with movs := [r] }).dev.movTurn 0 = true ∧
     (kernelState { movCluster with movs := [r] }).mem.flight = [] ∧ (c.movs.find? fun x => x.tag = 1) = some r ∧ (c.movs.takeWhile fun x => x.tag ≠ 1) = [] ∧ c.stall = .none ∧ r.op = 0 ∧ r.rows = 1 ∧
     2 ^ 63 ≤ r.src ∧ 2 ^ 63 ≤ r.dst ∧ (∀ k, k < r.rowLen → localOf 0 (r.src + k) = .cup (0 + k)) ∧ localOf 0 r.dst = .cup 0x1000) :=
  ⟨⟨by decide +kernel, by decide +kernel⟩, by decide +kernel, by decide +kernel⟩

/-- x5 points at the atomic extent of the kernel. -/
def amoCluster : Cluster := { x := [(5, 0x1000)] }

def amoState : State := (partState (bytesOf 128 [(64, 8, 0x1000), (72, 8, 128)]) kpart).onDev fun d =>
  { d with cl := [(0, { amoCluster with run := .running, part := some 1, fetched := some 0 })], eng := [(0, { rcache := [(1, entry0)] })] }

theorem wit_KernelAtomics : KernelRuns amoState pre0 ∧
    (let u := amoState.taking pre0
     let u' := u.onDev fun d => d.modEng 0 fun y => y.rcTouch kpart.ctx entry0
     let a := ((u.dev.getCl 0).xget 5).toNat
     let desc := u.dev.descOf 1
     a < 2 ^ 48 ∧ (u.dev.getCl 0).part = some 1 ∧ u.dev.getPart 1 = some kpart ∧ eIdx kpart.eng = 0 ∧ (u.dev.getEng 0).rcFind kpart.ctx a = some entry0 ∧
     entry0.kind = 0 ∧ u'.dev.runPlace entry0 1 3 a = .phys (hbmPa 0 0x1000) ∧ paOf (hbmPa 0 0x1000) = .hbm kpart.eng.t.val 0x1000 ∧ u'.dev.place 1 0 a = .phys (hbmPa 0 0x1000) ∧ a % 8 = 0 ∧
     hbmPa 0 0x1000 % 128 + 8 ≤ 128 ∧ field desc 64 8 ≤ a ∧ a + 8 ≤ field desc 64 8 + field desc 72 8 ∧
     field desc 72 8 + 16 * (kpart.atoms.length + 1) ≤ 2 ^ 25) := ⟨⟨by decide +kernel, by decide +kernel⟩, by decide +kernel⟩

/-- An engine whose control cache holds a line, with a maintenance request of an operation at the head of the queue. -/
def ccState (op : Nat) : State := (kernelState { maint := { base := 0, lines := 1, busy := true, op := op } }).onDev fun d => { d with
  eng := [(0, { cc := [(0, { line := hbmPa 0 0 / 128, instr := false, data := [], dirty := 1 })], maintq := [some 0] })] }

/-- An engine with a failing way, with a fill on its way, and a cluster that has missed the range cache. -/
def wayState (off : List Nat) : State := (kernelState { stall := .rcMiss (2 ^ 40) .fetch }).onDev fun d => { d with
  eng := [(0, { wayFails := [(2, 16)], wayOff := off, ccFill := some (2 ^ 41, false) })] }

theorem wit_ControlCache :
    (∀ op ∈ [0, 1, 2], ((ccState op).dev.getMaint 0 (some 0)).busy = true ∧ ((ccState op).dev.getEng 0).maintq.head? = some (some 0) ∧
      ((ccState op).dev.getMaint 0 (some 0)).op = op) ∧ KernelRuns (kernelState {}) pre0 ∧
    (let s := (ccState 0).onDev fun d => { d with terr := [(0, { arr16 := 32 * 2 ^ 30 })] }
     Map.get (s.dev.getEng 0).wayHalved 7 0 + 2 ^ 30 ≤ (s.dev.getTerr 0).arr16 / 32) ∧
    (∀ off ∈ [[1], [0, 1]], 16 ≤ Map.get ((wayState off).dev.getEng 0).wayFails 2 0 ∧ has ((wayState off).dev.getEng 0).wayOff 2 = false) ∧
    (let s := (wayState []).onDev fun d => d.modCl 0 fun c => { c with stall := .none }
     (s.dev.getEng 0).ccFill = some (2 ^ 41, false) ∧ has (s.dev.getEng 0).wayOff 7 = false ∧ Map.get s.mem.poison (2 ^ 41) 0 = 0 ∧ (s.dev.getEng 0).ccQueue = [] ∧
     Map.find (s.dev.getEng 0).cc 7 = none ∧ ∀ k : Fin 20, (s.dev.getCl (20 * 0 + k.val)).stall = .none) ∧
    (let s := wayState []
     (s.dev.getCl 0).stall = .rcMiss (2 ^ 40) .fetch ∧ (s.dev.getCl 0).part = some 1 ∧ s.dev.getPart 1 = some kpart ∧ eIdx kpart.eng = 0 ∧ kpart.stage = .executing ∧
     ((s.dev.getCtx kpart.ctx).bind fun x => x.entry (2 ^ 40)) = none) :=
  ⟨by decide +kernel, ⟨by decide +kernel, by decide +kernel⟩, by decide +kernel, by decide +kernel, by decide +kernel, by decide +kernel⟩

/-- Every other cluster of engine 0 has exited. -/
def lastState : State := (kernelState {}).onDev fun d => { d with cl := d.cl ++ (List.range 19).map fun k => (k + 1, { run := .exited }) }

theorem wit_BarrierAndExit : KernelRuns (kernelState {}) pre0 ∧ KernelRuns lastState pre0 ∧
    (let u := (kernelState {}).taking pre0
     let c := u.dev.getCl 0
     20 * 0 + (1 : Fin 20).val ≠ 0 ∧ (u.dev.getCl 1).run ≠ .exited ∧ (u.dev.getCl 1).bars ≤ c.bars ∧ ∀ j : Fin 20, (u.dev.getCl j.val).stall ≠ .bar) ∧
    (let u := lastState.taking pre0
     ∀ k : Fin 20, k.val ≠ 0 → (u.dev.getCl k.val).run = .exited ∧ (u.dev.getCl k.val).stall ≠ .bar) ∧
    (let s := kernelState {}
     let c := (s.modC 0 fun c => c.applyPre pre0).dev.getCl 0
     (s.dev.getCl 0).ready = true ∧ c.arrq = [] ∧ c.movs = [] ∧ c.xget 10 = 0 ∧ (s.dev.getEng 0).merges = [] ∧ ∀ k : Fin 20, (s.dev.getCl k.val).stall = .none) ∧
    (let s := kernelState { x := [(10, 3)] }
     let c := (s.modC 0 fun c => c.applyPre pre0).dev.getCl 0
     (s.dev.getCl 0).ready = true ∧ pre0.also = [] ∧ c.arrq = [] ∧ c.movs = [] ∧ c.xget 10 ≠ 0 ∧ c.part = some 1 ∧ s.dev.getPart 1 = some kpart ∧ kpart.live = true) ∧
    (let s := (kernelState {}).onDev fun d => { d with terr := [(0, { arr16 := 16 * 2 ^ 36 })] }
     s.dev.getPart 1 = some kpart ∧ kpart.kind = .kernel ∧ kpart.stage = .executing ∧ kpart.ran = true ∧
     kpart.since + 2 ^ 36 ≤ (s.dev.getTerr kpart.eng.t.val).arr) :=
  ⟨⟨by decide +kernel, by decide +kernel⟩, ⟨by decide +kernel, by decide +kernel⟩, by decide +kernel, by decide +kernel, by decide +kernel, by decide +kernel,
    by decide +kernel⟩

/-! ### Jormon's messages: witnesses. -/

/-- The bytes of a message that are not zero (R378): opcode, context, length, check word (R379, computed outside the model), payload fields. -/
def msg (op ctx len chk : Nat) (fs : List (Nat × Nat × Nat)) : Mem := memOf 0 ([(0, 1, op), (2, 2, ctx), (8, 2, len), (12, 4, chk)] ++ fs)

/-- A mailbox that holds one message, in slot 0. -/
def box (b : Mem) : Mailbox := { page := b, produced := 1 }

def attBox : Mb := .att 0
def ctxBox : Mb := .ctx 1

/-- A message of the attachment mailbox 0, which has attached. -/
def attState (b : Mem) (x : Att) : State := { dev := { ready := true, atts := [(0, { x with mbox := box b })] } }
def attached : Att := { token := some 5 }

/-- A message of context 1. -/
def ctxState (b : Mem) (c : Ctx) : State := { dev := { ready := true, ctxs := [(1, { c with mbox := box b })], atts := [(0, attached)] } }

/-- The message that Jormon takes next. -/
def next (s : State) (mb : Mb) : MsgIn := (s.headMsg mb).getD { back := echo mb 0 [], b := [], ctx := none, att := 0 }

/-- Jormon takes it, and its header passes. -/
def takes (s : State) (mb : Mb) : Bool := s.headMsg mb = some (next s mb) && s.precheck (next s mb) = none

theorem taken_of (s : State) (mb : Mb) (h : takes s mb = true) : Taken s mb (next s mb) := by
  simp only [takes, Bool.and_eq_true, decide_eq_true_eq] at h
  exact h

/-- A message of an opcode whose check word does not match. -/
def garbled (op : Nat) : State := attState [(0, BitVec.ofNat 8 op)] attached

/-- It is the mailbox's next, and its header fails. -/
def refused (op : Nat) : Bool :=
  (garbled op).headMsg attBox = some (next (garbled op) attBox) && (garbled op).precheck (next (garbled op) attBox) = some 2 && (next (garbled op) attBox).op = op

theorem wit_Replies_refused : [1, 2, 3, 4, 5, 6, 7, 8, 9, 10, 11, 12, 13, 15, 16, 19, 20].all refused = true := by decide +kernel

theorem wit_Replies_slot :
    let r : ReplyTo := { mb := ctxBox, slot := 15, op := 0, mflags := 1, ctx := 1, seq := 0 }
    r.slot < 16 ∧ (List.replicate 240 (1 : Byte)).length ≤ 240 ∧ ((ctxState [] ctx0).dev.getCtx 1).isSome = true := by decide +kernel

def attachState : State := attState (msg 1 0xFFFF 10 0x5A5BE810 [(16, 8, 4096), (24, 1, 16), (25, 1, 1)]) {}
def reattachState : State := attState (msg 2 0xFFFF 8 0x1E41A49E [(16, 8, 5)]) { attached with orphanLeft := 1 }
def detachState : State := attState (msg 3 0xFFFF 0 0x1121ADF2 []) attached

theorem wit_AttachmentMessages :
    (takes attachState attBox = true ∧ (let m := next attachState attBox
      m.op = 1 ∧ ((attachState.takeHead attBox).dev.getAtt m.att).token = none ∧ field m.b 16 8 % 4096 = 0 ∧ 6 ≤ field m.b 24 1 ∧ field m.b 24 1 ≤ 16 ∧
      field m.b 25 1 < 2)) ∧
    (takes reattachState attBox = true ∧ (let m := next reattachState attBox
      let x := (reattachState.takeHead attBox).dev.getAtt m.att
      m.op = 2 ∧ x.token = some (BitVec.ofNat 64 (field m.b 16 8)) ∧ x.orphanLeft ≠ 0)) ∧
    (takes detachState attBox = true ∧ (let m := next detachState attBox
      let u := detachState.takeHead attBox
      m.op = 3 ∧ (u.dev.getAtt m.att).detach = none ∧ u.dev.homedAt m.att = [] ∧ (u.dev.getAtt m.att).items = [])) := by decide +kernel

def createState : State := attState (msg 4 0xFFFF 40 0x826202F5 [(17, 1, 7), (18, 1, 63), (20, 4, 1), (40, 1, 6), (41, 1, 16)]) attached
def destroyState : State := ctxState (msg 5 1 0 0x524D4BD2 []) ctx0

theorem wit_ContextLife :
    (takes createState attBox = true ∧ (next createState attBox).op = 4 ∧
      (createState.takeHead attBox).createRefusal (next createState attBox) = none ∧ (createState.takeHead attBox).dev.freeCtx = some 0) ∧
    (takes destroyState ctxBox = true ∧ (let m := next destroyState ctxBox
      m.op = 5 ∧ (((destroyState.takeHead ctxBox).dev.getCtx m.n).map fun c => (c.teardown, c.cmds)) = some (none, []))) ∧
    (let s := ctxState [] { ctx0 with teardown := some (none, 0, 0) }
     ((s.dev.getCtx 1).map fun c => (c.teardown.isSome, (s.dev.getAtt c.home).items)) = some (true, [])) := by decide +kernel

/-- An object of one granule. -/
def obj0 : Obj := { reg := 1, granules := 1, home := 0, expertHome := 0xFF, attrs := 0, hint := 0, elemOff := 0, elemLen := 0, scaleOff := 0, scaleLen := 0 }

/-- RANGE_MAP of object 3 (accepted), of HBM by a PHYSICAL entry while the partition has all terraces (refused). -/
def mapState (kind target : Nat) : State :=
  (ctxState (msg 6 1 48 (if kind = 2 then 0x30CAF621 else 0xED028E67)
    [(16, 1, 1), (32, 4, 100), (36, 4, 1), (40, 1, kind), (41, 1, 1), (48, 8, target)]) ctx0).onDev fun d =>
    { d with partns := [(0, { objs := [(3, obj0)] })] }
def unmapState : State := ctxState (msg 7 1 4 0x029B8B91 [(16, 4, 0)]) ctx0

/-- What RANGE_MAP answers. -/
def mapped (s : State) : Option Nat :=
  let m := next s ctxBox
  let u := s.takeHead ctxBox
  match u.dev.getCtx m.n with
  | none => none
  | some c =>
    let offs := (List.range (field m.b 16 1)).map fun i => 32 + 32 * i
    if offs.any fun o => u.dev.entryField c.pt m.b o then none
    else match u.mapEntries m.n c (offs.map fun o => entryAt m.b o) with
      | .ok _ => some 0
      | .error st => some st

theorem wit_RangeTables :
    (takes (mapState 2 3) ctxBox = true ∧ (next (mapState 2 3) ctxBox).op = 6 ∧ mapped (mapState 2 3) = some 0) ∧
    (takes (mapState 0 (2 ^ 32)) ctxBox = true ∧ mapped (mapState 0 (2 ^ 32)) = some 6) ∧
    (takes unmapState ctxBox = true ∧ (let m := next unmapState ctxBox
      m.op = 7 ∧ (((unmapState.takeHead ctxBox).dev.getCtx m.n).map fun c => c.ranges.any fun r => r.entry.va = field m.b 16 4 && r.unmap.isNone) = some true)) ∧
    (let c := { ctx0 with ranges := [({ entry := entry0, unmap := some (none, 1) } : RangeRow)] }
     (c.ranges.find? fun r => r.entry.va = 0 && r.unmap.isSome) = some { entry := entry0, unmap := some (none, 1) } ∧ c.inUse entry0 1 = false) := by decide +kernel

def frameState (first cls : Nat) : State := ctxState (msg 8 1 4 (if first = 0 then 0x484B2C14 else 0xC192C60B) [(17, 1, first), (18, 1, 1), (19, 1, cls)]) { ctx0 with ranges := [] }
def registerState : State := ctxState (msg 9 1 32 0x3225E31B [(16, 4, 2 ^ 22 - 1), (20, 4, 262144), (25, 1, 0xFF)]) ctx0
def policyState (change : Nat) : State :=
  (ctxState (msg 10 1 32 (if change = 15 then 0x5A828042 else 0x5B6928B3) [(16, 4, 3), (24, 1, 1), (25, 1, 0xFF), (44, 1, change)]) ctx0).onDev fun d => { d with partns := [(0, { objs := [(3, obj0)] })] }

theorem wit_FramesAndObjects_frames : ∀ x ∈ [(0, 1), (191, 3)],
    takes (frameState x.1 x.2) ctxBox = true ∧
    (let m := next (frameState x.1 x.2) ctxBox
     let u := (frameState x.1 x.2).takeHead ctxBox
     m.op = 8 ∧ field m.b 17 1 ≤ 191 ∧ field m.b 18 1 ≠ 0 ∧ field m.b 17 1 + field m.b 18 1 ≤ 192 ∧ field m.b 19 1 < 4 ∧
     has (u.mgmt.terraces 0) (field m.b 16 1) = true ∧ ∀ f ∈ [field m.b 17 1], u.dev.frameRefusal (field m.b 16 1) f (field m.b 19 1) = none ∧
       (186 ≤ f → bit (field m.b 19 1) 1 = true)) := by decide +kernel

theorem wit_FramesAndObjects_objects :
    (takes registerState ctxBox = true ∧ (let m := next registerState ctxBox
      let u := registerState.takeHead ctxBox
      m.op = 9 ∧ policyReserved m.b = false ∧ field m.b 44 1 = 0 ∧ field m.b 16 4 < 2 ^ 22 ∧ field m.b 20 4 ≠ 0 ∧ field m.b 20 4 ≤ 262144 ∧
      policyField m.b (field m.b 20 4) = false ∧ u.dev.getObj 0 (field m.b 16 4) = none ∧ u.mgmt.policyOwner 0 m.b = false)) ∧
    (∀ change ∈ [15, 128], takes (policyState change) ctxBox = true ∧ (let m := next (policyState change) ctxBox
      let u := (policyState change).takeHead ctxBox
      m.op = 10 ∧ field m.b 16 4 < 2 ^ 22 ∧ policyReserved m.b = false ∧ bits change 6 4 = 0 ∧ u.dev.getObj 0 (field m.b 16 4) = some obj0 ∧
      policyField m.b obj0.granules = false ∧ u.mgmt.policyOwner 0 m.b = false ∧
      u.dev.policyBusy 0 (field m.b 16 4) (field m.b 44 1) obj0 = false)) := by decide +kernel

/-- Fields of a FILL of 64 elements of KQ8 at a virtual address. -/
def fillFs (o va : Nat) : List (Nat × Nat × Nat) := [(o, 1, 9), (o + 32, 6, va), (o + 38, 1, 3), (o + 40, 6, 0x20000), (o + 48, 8, 63)]
def fillDesc : Bytes := bytesOf 128 (fillFs 0 0x10000)
def split1 : Split := { parts := 2, engs := [⟨7, 4⟩] }

def submitState (va : Nat) : State := ctxState (msg 11 1 128 (if va = 0x10000 then 0x1F4BA8DA else 0x7836EB46) (fillFs 16 va)) ctx0
def listState : State := ctxState (msg 12 1 10 0xE1752BEC [(24, 2, 1024)]) ctx0

/-- The first address that a SUBMIT finds no entry for, where it is judged well. -/
def gapOf (s : State) : Option (Option Nat) :=
  let m := next s ctxBox
  let u := s.takeHead ctxBox
  match u.dev.getCtx m.n with
  | none => none
  | some c => match u.judge m.n c (sub m.b 16 128) split1 none with
    | .ok j => if c.pendingCount < 1024 ∧ (u.dev.getPt c.pt).faults.length < 4096 ∧ u.dev.backlog c.pt = [] then some (j.trans.gap.map fun g => g.1) else none
    | .error _ => none

theorem wit_Submission :
    (takes (submitState 0x10000) ctxBox = true ∧ (next (submitState 0x10000) ctxBox).op = 11 ∧ gapOf (submitState 0x10000) = some none) ∧
    (takes (submitState (2 ^ 40)) ctxBox = true ∧ (next (submitState (2 ^ 40)) ctxBox).op = 11 ∧ gapOf (submitState (2 ^ 40)) = some (some (2 ^ 40))) ∧
    (takes listState ctxBox = true ∧ (let m := next listState ctxBox
      let u := listState.takeHead ctxBox
      m.op = 12 ∧ field m.b 16 8 % 128 = 0 ∧ field m.b 24 2 ≠ 0 ∧ field m.b 24 2 ≤ 1024 ∧ field m.b 16 8 + 128 * field m.b 24 2 ≤ 2 ^ 48 ∧
      ∀ i, i < field m.b 24 2 → ((u.dev.getCtx m.n).bind fun c => u.dev.jormonPa m.n c (field m.b 16 8 + 128 * i)).isSome = true)) := by decide +kernel

def cmd1 (st : CmdState) : Cmd := { seq := 1, desc := fillDesc, step := 0, state := st }
def abortState (st : CmdState) : State := ctxState (msg 13 1 4 0xB82FB9E8 [(16, 4, 1)]) { ctx0 with cmds := [cmd1 st], nextSeq := 2 }
def fault1 : FaultEntry := { num := 1, ctx := 1, cause := 0, va := 0x10000, engines := 0, seq := 1, access := 1, queueSrc := true, runSrc := false, parked := [1],
                             held := [] }
def resumeState (how : Nat) : State :=
  (ctxState (msg 14 1 5 (if how = 0 then 0x61F06B73 else 0x657DAEBF) [(16, 4, 1), (20, 1, how)]) { ctx0 with cmds := [cmd1 .pending], nextSeq := 2 }).onDev fun d =>
    { d with partns := [(0, { faults := [fault1], nextEntry := 2 })] }

theorem wit_AbortAndResume :
    (∀ st ∈ [CmdState.pending, .running, .aborting], takes (abortState st) ctxBox = true ∧ (let m := next (abortState st) ctxBox
      m.op = 13 ∧ ((((abortState st).takeHead ctxBox).dev.getCtx m.n).bind fun c => c.getCmd (field m.b 16 4)) = some (cmd1 st)) ∧ (cmd1 st).again = false) ∧
    (∀ st ∈ [CmdState.aborting, .failing 3], (abortState st).dev.getCmd 1 1 = some (cmd1 st) ∧ (abortState st).landing (cmd1 st) = false) ∧
    (∀ how ∈ [0, 1], takes (resumeState how) ctxBox = true ∧ (let m := next (resumeState how) ctxBox
      let u := (resumeState how).takeHead ctxBox
      m.op = 14 ∧ ((u.dev.getPt 0).faults.find? fun f => f.num = field m.b 16 4) = some fault1 ∧ fault1.ctx = m.n ∧ u.dev.backlog 0 = [] ∧ field m.b 20 1 = how ∧
      (match u.dev.getCtx m.n with
       | none => false
       | some c => match u.judge m.n c fillDesc split1 none with | .ok j => decide (j.trans.gap = none ∧ c.getCmd 1 = some (cmd1 .pending)) | .error _ => false) = true)) := by
  decide +kernel

def gateAllocState : State := ctxState (msg 15 1 16 0x8BCF4879 [(16, 1, 64)]) { ctx0 with quota := 64 }
def gateFreeState : State := (ctxState (msg 16 1 3 0xC2263922 [(16, 2, 8191), (18, 1, 1)]) ctx0).onDev fun d => { d with gates := [(8191, { value := 0, owner := 1 })] }

theorem wit_GateMessages :
    (takes gateAllocState ctxBox = true ∧ (let m := next gateAllocState ctxBox
      let u := gateAllocState.takeHead ctxBox
      m.op = 15 ∧ field m.b 16 1 ≠ 0 ∧ field m.b 16 1 ≤ 64 ∧ (u.dev.gatesOf m.n).length + field m.b 16 1 ≤ 64 ∧ u.freeRun 0 (field m.b 16 1) = some 0)) ∧
    (takes gateFreeState ctxBox = true ∧ (let m := next gateFreeState ctxBox
      let u := gateFreeState.takeHead ctxBox
      m.op = 16 ∧ field m.b 18 1 ≠ 0 ∧ field m.b 18 1 ≤ 64 ∧ (∀ i, i < field m.b 18 1 → (Map.find u.dev.gates (field m.b 16 2 + i)).map (fun x => x.owner) = some m.n) ∧
      (u.dev.getCtx m.n).map (fun c => c.cmds) = some [])) := by decide +kernel

def statsCtx (scope : Nat) : State := ctxState (msg 17 1 6 (if scope = 0 then 0xEA4F136C else 0x159741AA) [(16, 1, scope), (17, 1, 1), (20, 1, 3), (21, 1, 28)]) ctx0
def statsAtt (scope : Nat) : State := attState (msg 17 0xFFFF 6 (if scope = 1 then 0xA45EB9B3 else 0xA1DA3808) [(16, 1, scope), (21, 1, 1)]) attached

theorem wit_Statistics :
    (∀ scope ∈ [0, 1], takes (statsCtx scope) ctxBox = true ∧ (let m := next (statsCtx scope) ctxBox
      m.op = 17 ∧ field m.b 17 1 < 2 ∧ field m.b 21 1 ≠ 0 ∧ field m.b 21 1 ≤ 28 ∧ field m.b 16 1 = scope ∧ m.ctx = some 1)) ∧
    (∀ scope ∈ [1, 2], takes (statsAtt scope) attBox = true ∧ (let m := next (statsAtt scope) attBox
      m.op = 17 ∧ field m.b 17 1 < 2 ∧ field m.b 21 1 ≠ 0 ∧ field m.b 21 1 ≤ 28 ∧ field m.b 16 1 = scope ∧ m.ctx = none ∧
      (statsAtt scope).mgmt.isOwner m.att = true ∧ recMask (statsAtt scope).mgmt.record (field m.b 18 1) ≠ 0)) ∧
    (let s : State := { time := { fabric := 65536000 }, mgmt := { running := true, record := Mem.write recDefault 72 (leBytes 4 1) } }
     s.mgmt.running = true ∧ recMark s.mgmt.record ≠ 0 ∧ s.mgmt.lastMark + recMark s.mgmt.record * 65536 ≤ s.kettle) := by decide +kernel

def queryState (kind key : Nat) : State :=
  (ctxState (msg 18 1 16
    (if kind = 1 ∧ key = 0 then 0xF827B58C else if kind = 2 ∧ key = 3 then 0xF0357A63 else if kind = 3 ∧ key = 4 then 0x104C71C1 else if kind = 3 ∧ key = 5 then 0x14C1B40D else 0xF6AA3741)
    [(16, 1, kind), (20, 4, key)]) ctx0).onDev fun d =>
    { d with gates := [(4, { value := 0, owner := 1 }), (5, { value := 0, owner := 2 })], partns := [(0, { objs := [(3, obj0)] })] }
def queryAtt : State := attState (msg 18 0xFFFF 16 0x84ECF350 []) attached
def noteState : State := attState (msg 19 0xFFFF 64 0x913BE4D9 [(16, 1, 47)]) attached
def readState : State := attState (msg 20 0xFFFF 4 0xD4FFFA3B [(16, 2, 3872), (18, 2, 224)]) attached

theorem wit_Queries :
    (takes queryAtt attBox = true ∧ (next queryAtt attBox).op = 18 ∧ field (next queryAtt attBox).b 16 1 = 0) ∧
    (∀ k ∈ [(1, 0), (2, 3), (3, 4), (3, 5), (4, 0)], takes (queryState k.1 k.2) ctxBox = true ∧ (let m := next (queryState k.1 k.2) ctxBox
      m.op = 18 ∧ m.ctx = some 1 ∧ field m.b 16 1 = k.1 ∧ field m.b 20 4 = k.2)) ∧
    ((queryState 2 3).dev.getObj 0 3).isSome = true ∧ Map.find (queryState 3 4).dev.gates 4 = some { value := 0, owner := 1 } ∧
    Map.find (queryState 3 5).dev.gates 5 = some { value := 0, owner := 2 } ∧ ctx0.entry 0 = some entry0 ∧
    (takes noteState attBox = true ∧ (next noteState attBox).op = 19 ∧ field (next noteState attBox).b 16 1 ≠ 0 ∧ field (next noteState attBox).b 16 1 ≤ 47) ∧
    (takes readState attBox = true ∧ (next readState attBox).op = 20 ∧ layoutRun (field (next readState attBox).b 16 2) (field (next readState attBox).b 18 2) = true) := by
  decide +kernel

def stageState : State := attState (msg 21 0xFFFF 32 0x5DC19A64 [(18, 2, 4080), (20, 2, 16)]) attached
def discardState : State := attState (msg 21 0xFFFF 12 0xEC2F8EB7 [(16, 1, 2)]) attached
def commitState : State := attState (msg 21 0xFFFF 12 0xE9AB0F0C [(16, 1, 1)]) { attached with staging := some (recSeal recDefault) }

theorem wit_LayoutWrites :
    (takes stageState attBox = true ∧ (let m := next stageState attBox
      m.op = 21 ∧ stageState.mgmt.isOwner m.att = true ∧ field m.b 16 1 = 0 ∧ layoutRun (field m.b 18 2) (field m.b 20 2) = true ∧ field m.b 24 4 = 0)) ∧
    (takes discardState attBox = true ∧ (let m := next discardState attBox
      m.op = 21 ∧ discardState.mgmt.isOwner m.att = true ∧ field m.b 16 1 = 2 ∧ field m.b 18 2 = 0 ∧ field m.b 20 2 = 0 ∧ field m.b 24 4 = 0)) ∧
    (takes commitState attBox = true ∧ (let m := next commitState attBox
      let u := commitState.takeHead attBox
      m.op = 21 ∧ u.mgmt.isOwner m.att = true ∧ field m.b 16 1 = 1 ∧ field m.b 18 2 = 0 ∧ field m.b 20 2 = 0 ∧ field m.b 24 4 = u.mgmt.layoutGen ∧
      (u.dev.getAtt m.att).staging = some (recSeal recDefault) ∧ recOk (recSeal recDefault) [u.mgmt.split, recSplit (recSeal recDefault)] = true ∧
      u.layoutBusy (recSeal recDefault) = false)) := by decide +kernel

theorem wit_LayoutWrites_check : recCheck (recSeal recDefault) = true := by decide +kernel

/-! ### Commands in execution: witnesses. -/

/-- A tensor reference at an offset: element and scale planes, format, n0, n1, n2. -/
def refFs (o va sva fmt n0 n1 n2 : Nat) : List (Nat × Nat × Nat) :=
  [(o, 6, va), (o + 6, 1, fmt), (o + 8, 6, sva), (o + 16, 8, n0 - 1 + 2 ^ 20 * (n1 - 1) + 2 ^ 40 * (n2 - 1))]

/-- Part 1 executes on engine 0, which runs, and has not computed. -/
def runState (desc : Bytes) (kind : PartKind) : State :=
  (partState desc { ctx := 1, seq := 1, idx := 0, eng := eng0, kind := kind, stage := .executing }).onDev fun d =>
    { d with eng := [(0, { power := .running, executing := [1], rcache := [(1, entry0)] })], terr := [(0, { pllOff := false })] }

/-- What Runs asks of that state, and that the part is of a kind. -/
def runs (s : State) (op : Nat) (kind : PartKind) : Bool :=
  match s.dev.getPart 1 with
  | none => false
  | some p => p.stage = .executing && p.ran = false && p.begun = false && s.dev.engineOn p.eng = true && s.dev.seqTurn (eIdx p.eng) && !p.xl.held &&
      dOp (s.dev.descOf 1) = op && descBad (s.dev.descOf 1) = false && s.mem.poison = [] && p.kind = kind

/-- What Reached asks of it. -/
def reached (s : State) (io : State → Nat → Part → Bytes → PartIo) : Bool :=
  match s.dev.getPart 1 with
  | none => false
  | some p =>
    let io := io s 1 p (s.dev.descOf 1)
    s.dev.planeStop 1 io.reads io.writes = none && (s.xlate (eIdx p.eng) 1 p.xl (rowPages io.rows)).2.2

/-- The state in which the part forms its outputs. -/
def formed (s : State) (io : State → Nat → Part → Bytes → PartIo) : State :=
  match s.dev.getPart 1 with
  | none => s
  | some p => s.forming 1 p (io s 1 p (s.dev.descOf 1))

/-- The tensor commands, each with one line: GEMM, GEMM_T, CONVERT, COPY, FILL, COPY to the host. -/
def gemmDesc (op : Nat) : Bytes := bytesOf 128 ([(0, 1, op)] ++ refFs 32 0x1000 0x2000 3 64 1 1 ++ refFs 64 0x3000 0x8000 3 64 64 1 ++ refFs 96 0x9000 0xA000 3 64 1 1)
def convertDesc : Bytes := bytesOf 128 ([(0, 1, 6)] ++ refFs 32 0x1000 0x2000 3 64 1 1 ++ refFs 64 0x9000 0xA000 0 64 1 1)
def copyDesc (host : Nat) : Bytes := bytesOf 128 ([(0, 1, 7)] ++ refFs 32 0x1000 0x2000 3 64 1 1 ++ refFs 64 0x9000 0xA000 3 64 1 1 ++ [(113, 1, host)])

theorem wit_TensorParts :
    (∀ x ∈ [(1, gemmDesc 1), (2, gemmDesc 2), (6, convertDesc), (7, copyDesc 0), (9, fillDesc), (7, copyDesc 1)],
      let s := runState x.2 (.lines 0 1)
      runs s x.1 (.lines 0 1) = true ∧ reached s planeIo = true ∧ (PartKind.lines 0 1).span = some (0, 1)) ∧
    dHost (copyDesc 0) = false ∧ dHost (copyDesc 1) = true ∧ (runState (copyDesc 1) (.lines 0 1)).dev.getAtt 0 = {} ∧
    ({} : Att).dlActive = false ∧ ({} : Att).token = none := by decide +kernel

def kernelDesc : Bytes := bytesOf 128 [(0, 1, 10), (32, 8, 0x10000), (46, 1, 1), (44, 2, 4096), (48, 8, 0x20000)]

theorem wit_KernelLaunch :
    let s := runState kernelDesc .kernel
    runs s 10 .kernel = true ∧ reached s kernelIo = true ∧
    ∀ k, k < 20 → (s.dev.getCl k).part = none := by decide +kernel

def routeDesc : Bytes := bytesOf 128 ([(0, 1, 3)] ++ refFs 32 0x1000 0x2000 6 16 2 1 ++
  [(64, 8, 0x10000), (72, 8, 0x11000), (80, 8, 0x12000), (88, 8, 0x13000), (96, 8, 0x14000), (104, 1, 1), (108, 4, 1), (116, 1, 3)])
def dispatchDesc : Bytes := bytesOf 128 ([(0, 1, 4)] ++ refFs 32 0x1000 0x2000 3 32 2 1 ++ refFs 64 0x4000 0x5000 3 32 1 1 ++
  [(96, 8, 0x11000), (104, 8, 0x12000), (114, 2, 1)])

/-- Device memory that holds a value at a virtual address of the context. -/
def withMem (s : State) (va : Nat) (bs : Bytes) : State := s.onMem fun m => { m with bytes := Mem.write m.bytes (hbmPa 0 va) bs }

theorem wit_RouteAndDispatch :
    (let s := runState routeDesc .whole
     runs s 3 .whole = true ∧ s.dev.planeStop 1 (partIn routeDesc .whole) (partOut routeDesc .whole) = none) ∧
    (∀ n ∈ [1, 2],
      let s := withMem (runState dispatchDesc (.experts [0])) 0x12000 [BitVec.ofNat 8 n]
      let v := formed s dispatchIo
      runs s 4 (.experts [0]) = true ∧ reached s dispatchIo = true ∧ v.countOf 1 dispatchDesc 0 = n ∧ dCap dispatchDesc = 1 ∧
      (v.listOf 1 dispatchDesc 0 1).all (fun e => e.1 < (Ref.of dispatchDesc 32).n1) = true) := by decide +kernel

def reduceDesc : Bytes := bytesOf 128 ([(0, 1, 8)] ++ refFs 32 0x1000 0x2000 3 32 1 1 ++ refFs 64 0x4000 0x5000 3 32 1 1)
def combineDesc : Bytes := bytesOf 128 ([(0, 1, 5)] ++ refFs 32 0x1000 0x2000 3 32 1 1 ++ refFs 64 0x4000 0x5000 3 32 1 1 ++
  [(96, 8, 0x11000), (104, 8, 0x12000), (114, 2, 1)])

theorem wit_Partials_runs :
    (let s := runState reduceDesc (.lines 0 1)
     runs s 8 (.lines 0 1) = true ∧ reached s planeIo = true) ∧
    (∀ k ∈ [PartKind.sources [0], .dests 0 1],
      let s := runState combineDesc k
      runs s 5 k = true ∧ reached s combineIo = true) ∧
    (formed (runState combineDesc (.dests 0 1)) combineIo).headerBad 1 combineDesc = true ∧
    (let s := withMem (runState combineDesc (.dests 0 1)) 0x12000 ([1, 0, 0, 0, 1, 3, 0, 0, 1, 0, 0, 0, 0, 0, 0, 0] ++ List.replicate 16 0xFF)
     let v := formed s combineIo
     runs s 5 (.dests 0 1) = true ∧ reached s combineIo = true ∧ v.headerBad 1 combineDesc = false ∧ v.wantedRows 1 combineDesc 0 1 = [] ∧ dAdd combineDesc = false ∧
     ∀ q ∈ s.dev.siblings 1, q.2.ran = false) := by decide +kernel

theorem wit_Partials_lands :
    let c : Partial := { row := 0, slot := 0, vals := [] }
    ∀ l ∈ [[c], [c, { c with slot := 1 }]],
      let p : Part := { ctx := 1, seq := 1, idx := 0, eng := eng0, kind := .lines 0 1, stage := .executing, begun := true, coming := l }
      let s := partState reduceDesc p
      s.dev.getPart 1 = some p ∧ p.coming[0]? = some c ∧ bit (Map.get p.masks c.row 0) c.slot = false ∧ dKa (s.dev.descOf 1) = false ∧
      (pRef (s.dev.descOf 1) p.kind 64).fmt ≠ 9 ∧ p.kind.span = some (0, 1) ∧ p.ran = false ∧ p.stage = .executing := by decide +kernel

/-- A pending command of context 1 with a plan. -/
def dispState (x : Cmd) : State :=
  { dev := { ready := true, ctxs := [(1, { ctx0 with cmds := [x], nextSeq := 2 })], partns := [(0, { objs := [(3, { obj0 with res := .resident, image := [hbmPa 0 0] })] })],
             terr := [(0, { pllOff := false })], eng := [(0, { power := .running })] } }
def fillCmd : Cmd := { cmd1 .pending with plan := [(.lines 0 1, eng0)] }

/-- What NextUp asks. -/
def nextUp (s : State) (x : Cmd) : Bool :=
  match s.dev.getCtx 1 with
  | some c => s.dev.dispatchable 1 = some x && (c.cmds.map fun y => y.seq).Nodup
  | none => false

theorem wit_PartLife_dispatch :
    (nextUp (dispState fillCmd) fillCmd = true ∧ fillCmd.plan ≠ [] ∧ (dispState fillCmd).dev.yields 1 { ctx0 with cmds := [fillCmd], nextSeq := 2 } fillCmd.plan = false ∧
      ∀ o ∈ ((dispState fillCmd).dev.getPt 0).objs, o.2.res ≠ .sinking) ∧
    (let s := (dispState fillCmd).onDev fun d => { d with ctxs := d.ctxs ++ [(2, { ctx0 with cmds := [fillCmd], prio := 7 })] }
     nextUp s fillCmd = true ∧ s.dev.yields 1 { ctx0 with cmds := [fillCmd], nextSeq := 2 } fillCmd.plan = true) := by decide +kernel

theorem wit_PartLife_parts :
    (let s := (partState fillDesc { ctx := 1, seq := 1, idx := 0, eng := eng0, kind := .lines 0 1 }).onDev fun d =>
       { d with eng := [(0, { power := .running, queue := [1] })], terr := [(0, { pllOff := false })] }
     ((s.dev.getEng 0).queue.find? fun u => s.dev.partReady u) = some 1 ∧ s.dev.engineOn eng0 = true ∧ (s.pow.getDom 0).partHold = false ∧
     ((s.dev.sharers eng0).map fun k => (s.dev.getEng k).executing.length).sum < 4 ∧ s.dev.cisternUsed (s.dev.sharers eng0) ≤ 48 * 2 ^ 20 ∧
     ((s.dev.getEng 1).queue.find? fun u => s.dev.partReady u) = none) ∧
    (∀ n ∈ [1, 2],
      let p : Part := { ctx := 1, seq := 1, idx := 0, eng := eng0, kind := .lines 0 1, stage := .executing, ran := true }
      let s := (partState fillDesc p).onDev fun d => { d with
        parts := (List.range n).map (fun k => (k + 1, p)), ctxs := d.ctxs.map fun c => (c.1, { c.2 with cmds := c.2.cmds.map fun y => { y with parts := (List.range n).map fun k => k + 1 } }) }
      s.dev.getPart 1 = some p ∧ (s.dev.getCmd 1 1).map (fun x => (x.state, (s.dev.partsOf x).map fun q => q.1)) = some (.running, (List.range n).map fun k => k + 1) ∧
      dOp (s.dev.descOf 1) ≠ 5 ∧ s.partBusy 1 = false ∧ p.planned = []) ∧
    (let p : Part := { ctx := 1, seq := 1, idx := 0, eng := eng0, kind := .dests 0 1, stage := .executing, ran := true }
     let s := partState combineDesc p
     dOp (s.dev.descOf 1) = 5 ∧ (s.dev.getCmd 1 1).map (fun x => (x.state, has x.parts 1, (s.dev.partsOf x).map fun q => q.1)) = some (.running, true, [1]) ∧
     s.partBusy 1 = false) := by decide +kernel

def faultRec : FaultRec := { ctx := 1, va := 0x10000, access := 1, eng := some 0, part := none, seq := 1, cause := 0 }

theorem wit_PartLife_faults : ∀ q ∈ [({} : Partn), { faults := [{ fault1 with parked := [] }], nextEntry := 2 }],
    let s : State := { dev := { ctxs := [(1, ctx0)], eng := [(0, { faultReg := some faultRec })], partns := [(0, q)] } }
    (s.dev.getEng 0).faultReg = some faultRec ∧ s.dev.getCtx faultRec.ctx = some ctx0 ∧ s.dev.backlog 0 = [] ∧ s.dev.lowerFirst 0 0 faultRec = false ∧
    (s.dev.getEng 0).faultWait = [] ∧
    (s.dev.getPt 0).faults.length < 4096 ∧ (s.dev.getPt 0).joins faultRec = (q.nextEntry == 2) := by decide +kernel

/-- A Jormon command over object 3, and one with no list. -/
def objCmd (op flags : Nat) : Cmd := { seq := 1, desc := bytesOf 128 [(0, 1, op), (32, 1, 1), (33, 1, flags), (40, 4, 3)], step := 0, objGen := [1] }
def plainCmd (op : Nat) (fs : List (Nat × Nat × Nat)) : Cmd := { seq := 1, desc := bytesOf 128 ((0, 1, op) :: fs), step := 0 }

/-- The object's state, and the context's pins. -/
def jorState (x : Cmd) (res : Res) (dirty : Bool) (pins : Nat) : State := (dispState x).onDev fun d => { d with
  partns := [(0, { objs := [(3, { obj0 with res := res, dirty := dirty })] })], ctxs := [(1, { ctx0 with cmds := [x], pins := [(3, pins)] })], gates := [(4, { value := 2 ^ 64 - 1, owner := 1 })] }

/-- The premises of JormonCommands for an object's command: opcode, flags, and the object's state. -/
def jorOk (k : Nat × Nat × Res × Bool × Nat) : Bool :=
  let x := objCmd k.1 k.2.1
  let s := jorState x k.2.2.1 k.2.2.2.1 k.2.2.2.2
  nextUp s x && x.op = k.1 && s.dev.listed 0 (dObjs x.desc) x.objGen = ([(3, 1)], false) && x.waits = [] && timesIn [(3, 1)] 3 = 1 &&
  (s.dev.getObj 0 3).map (fun y => (y.res, y.sinkOp)) = some (k.2.2.1, none) && s.dev.parts = [] && bit (field x.desc 33 1) 1 = (k.2.1 == 2)

theorem wit_JormonCommands_objects :
    [(0x12, 0, Res.resident, false, 65534), (0x12, 0, .resident, false, 65535), (0x13, 0, .resident, false, 1), (0x13, 0, .resident, false, 0),
      (0x10, 0, .resident, false, 0), (0x10, 0, .caddyOnly, false, 0), (0x11, 0, .resident, true, 0), (0x11, 2, .resident, true, 0),
      (0x11, 2, .resident, false, 0)].all jorOk = true := by decide +kernel

theorem wit_JormonCommands_gates :
    (let x := plainCmd 0x20 [(32, 1, 1), (40, 2, 4), (44, 4, 1)]
     nextUp (jorState x .resident false 0) x = true ∧ x.op = 0x20 ∧ ((jorState x .resident false 0).dev.getCtx 1).map (fun c => c.freeLater) = some []) ∧
    (let x := plainCmd 0x21 [(32, 1, 1), (48, 2, 4), (56, 8, 2 ^ 64 - 1)]
     nextUp (jorState x .resident false 0) x = true ∧ x.op = 0x21 ∧ x.conditions = [(4, 2 ^ 64 - 1)]) ∧
    (let x := plainCmd 0x21 [(32, 1, 1), (48, 2, 5), (56, 8, 1)]
     (jorState x .resident false 0).dev.nextUp 1 = some x ∧ (jorState x .resident false 0).dev.gatesMet 1 x = false) := by decide +kernel

theorem wit_StepCommit : ∀ op ∈ [0x22, 0x30],
    (let x := plainCmd op []
     nextUp (jorState x .resident false 0) x = true ∧ x.op = op) ∧
    (let x := { plainCmd op [] with seq := 2 }
     let s := (jorState x .resident false 0).onDev fun d => d.modCtx 1 fun c => { c with cmds := [cmd1 .running, x] }
     nextUp s x = true ∧ (([cmd1 .running, x].takeWhile fun y => y.seq ≠ x.seq).all fun y => y.state.ended) = false) := by decide +kernel

/-- An object of partition 0, on terrace 0, and its STEEP or SINK that waits. -/
def tierState (o : Obj) (op : Nat) : State :=
  { dev := { ready := true, ctxs := [(1, { ctx0 with cmds := [{ plainCmd op [] with state := .running, waits := [(3, 1)] }] })], partns := [(0, { objs := [(3, o)] })] } }
def rise1 : Rise := { kind := .steep, ctx := 1, order := 1 }
def room1 : Rise := { rise1 with room := true }

/-- A part that fills lines of the object, and the state in which it runs. -/
def shadowPart : Part := { ctx := 1, seq := 1, idx := 0, eng := eng0, kind := .lines 0 1, stage := .executing }
def shadowCmd : Cmd := { seq := 1, desc := bytesOf 128 (fillFs 0 0), step := 0, state := .running, parts := [1] }
def shadowEntry : RangeEntry := { va := 0, granules := 1, kind := 2, perms := 3, attrs := 4, target := 3 }
def hotObj : Obj := { obj0 with image := [hbmPa 0 (186 * 2 ^ 30)] }
def shadowObj : Obj := { hotObj with res := .resident, attrs := 2 }
def shadowState : State := (tierState shadowObj 9).onDev fun d =>
  { d with parts := [(1, shadowPart)], ctxs := [(1, { ctx0 with ranges := [{ entry := shadowEntry }], cmds := [shadowCmd] })] }

def risingObj (r : Rise) : Obj := { obj0 with res := .rising, rise := some r }
def hotRise (r : Rise) : Obj := { hotObj with res := .rising, rise := some r }

theorem wit_Rises_room :
    let s := tierState (risingObj rise1) 0x10
    s.dev.getObj 0 3 = some (risingObj rise1) ∧ s.dev.ready = true ∧ rise1.room = false ∧
    (s.dev.room 0 obj0.lean (risingObj rise1).riseGranules).isSome = true ∧ s.dev.cl = [] := by decide +kernel

theorem wit_Rises_complete :
    let o := hotRise { room1 with done := [0] }
    (tierState o 0x10).dev.getObj 0 3 = some o ∧ (List.range o.riseGranules).all (has [0]) = true ∧ o.sinkWait = [] := by decide +kernel

theorem wit_Rises_deadlock :
    let o := { risingObj rise1 with attrs := 1 }
    (tierState o 0x10).dev.getObj 0 3 = some o ∧ (tierState o 0x10).dev.fits o.home o.lean o.riseGranules = false ∧ o.sinkWait = [] := by decide +kernel

theorem wit_Rises_chunk :
    let s := tierState (hotRise room1) 0x10
    ((List.range 8).any fun ptr => s.infuserNext 0 = some (0, ptr, 3, 0, false)) = true ∧ s.dev.getObj 0 3 = some (hotRise room1) ∧ 0 < obj0.granules ∧
    Mem.wf (obj0.record.getD []) = true := by decide +kernel

theorem wit_Rises_shadow :
    shadowState.dev.getObj 0 3 = some shadowObj ∧ bit shadowObj.attrs 1 = true ∧ shadowObj.owner = none ∧ Map.find shadowObj.shadow 0 = none ∧
    0 < shadowObj.image.length ∧ shadowState.dev.shadowWanted 1 0 3 0 = true ∧
    (shadowState.dev.room shadowObj.home shadowObj.lean 1).map (fun l => l.length) = some 1 := by decide +kernel

def sink1 (keep : Bool) : SinkOp := { keep := keep, evict := false, ctx := 1, order := 1 }
def sinkObj (keep : Bool) (k : SinkOp) : Obj := { hotObj with res := if keep then .resident else .sinking, sinkOp := some k, dirty := true }

theorem wit_Sinks_chunk :
    let s := tierState (sinkObj false (sink1 false)) 0x11
    s.dev.ready = true ∧ ((List.range 8).any fun ptr => s.infuserNext 0 = some (0, ptr, 3, 0, true)) = true ∧
    s.dev.getObj 0 3 = some (sinkObj false (sink1 false)) ∧ (sink1 false).slot = [] := by decide +kernel

/-- An object store that contexts of the partition fill: no chunk has room. -/
def fullStore : State :=
  (tierState (sinkObj false (sink1 false)) 0x11).onDev fun d => { d with ctxs := d.ctxs ++ [(2, { ctx0 with quota := 2 ^ 50 })] }

theorem wit_Sinks_noRoom :
    ((List.range 8).any fun ptr => fullStore.infuserNext 0 = some (0, ptr, 3, 0, true)) = true ∧ fullStore.mgmt.store 0 < fullStore.dev.storeUsed 0 ∧
    (sinkObj false (sink1 false)).sinkWait = [] := by decide +kernel

theorem wit_Sinks_release : ∀ keep ∈ [true, false],
    let k := { sink1 keep with done := [0] }
    let s := tierState (sinkObj keep k) 0x11
    s.dev.getObj 0 3 = some (sinkObj keep k) ∧ k.released = false ∧ ((sinkObj keep k).sinkChunks k.keep).all (has k.done) = true ∧ s.dev.pinCount 0 3 = 0 ∧
    (sinkObj keep k).sinkWait = [] := by decide +kernel

theorem wit_Sinks_drained :
    let o := sinkObj false { sink1 false with released := true }
    (tierState o 0x11).dev.getObj 0 3 = some o := by decide +kernel
/-! ### Homes, memory care, links, ports, cores: witnesses. -/

theorem wit_HomeReadsAndWrites :
    (∀ o ∈ [Origin.part 1, .window 0, .qp 1, .ccWb 1],
      let w : LineWrite := { id := 1, from' := o, ctx := 1, gen := 0, line := 2 ^ 41, mask := 1, data := [7] }
      let s : State := { mem := { flight := [w], nextId := 2 } }
      (s.mem.flight.find? fun w => w.id = 1) = some w ∧ s.mem.mayLand w = true ∧ s.dev.arrived 1 = true) ∧
    (let s : State := { dev := { cores := [(0, { hart := .running })] } }
     s.admits 0 (hbmPa 0 0) 1 = true ∧ (s.dev.getCore 0).sb = [] ∧ (s.dev.getCore 0).stalled = [] ∧ s.admits 0 (hbmPa 7 (2 ^ 38)) 1 = false ∧ s.mem.flight = []) ∧
    paOf (hbmPa 7 0x2FFFFFFF80) = .hbm 7 0x2FFFFFFF80 ∧ hbmPa 7 0x2FFFFFFF80 % 128 + 128 ≤ 128 ∧
    (let x : Qp := { port := 0, ctx := 1, gen := 0, rkey := 0, retries := 0, rnrRetries := 0 }
     ({ qps := [(1, x)] } : Dev).getQp 1 = some x) := by decide +kernel

/-- Four lines of one row, wherever it is. -/
theorem wit_MemoryRepair_row :
    let place := ((({} : Dev).hbmPlace 0 0).2.2)
    let errs := [hbmPa 0 0 / 128, hbmPa 0 0 / 128, hbmPa 0 0 / 128, hbmPa 0 0 / 128]
    4 ≤ (errs.filter fun line => match paOf (line * 128) with
      | .hbm t off => decide (Config.dramRow ((({} : Dev).hbmPlace t off).2.2) = ((Config.dramRow place).1, (Config.dramRow place).2))
      | _ => false).length := by
  have h : ∀ x : Nat × Nat, decide (x = (x.1, x.2)) = true := fun x => decide_eq_true rfl
  have p : paOf (hbmPa 0 0 / 128 * 128) = .hbm 0 0 := by decide +kernel
  simp [List.filter, p]

theorem wit_MemoryRepair_retirement : ∀ r ∈ [none, some 1],
    let s : State := { dev := { hbm := [(0, { triggers := [31], retired := r })] } }
    has (s.dev.getStack 0).triggers 31 = true ∧ (s.dev.getStack 0).retired = r ∧ s.dev.inReserve 0 = [] := by decide +kernel

theorem wit_RefreshAndCaddy :
    (let s : State := { time := { fabric := 2048000 }, dev := { hbm := [(0, { refresh := 4, coolHi := some 0 }), (1, { refresh := 2, coolLo := some 0 })] } }
     (s.dev.getStack 0).refresh = 4 ∧ (s.dev.getStack 0).coolHi = some 0 ∧ 0 + 2 ^ 11 ≤ s.kettle ∧ (s.dev.getStack 1).refresh = 2 ∧
     (s.dev.getStack 1).coolLo = some 0) ∧
    (∀ r ∈ [true, false],
      let s : State := { dev := { chans := [(0, { fails := 8 }), (12, { retired := r })] } }
      8 ≤ (s.dev.getChan 0).fails ∧ (s.dev.getChan 0).retired = false ∧
      ((List.range 13).any fun k => decide (13 * (0 / 13) + k ≠ 0) && (s.dev.getChan (13 * (0 / 13) + k)).retired) = r) := by decide +kernel

theorem wit_LinksAndPorts :
    (let s : State := { dev := { links := [(0, { consec := 7, recent := List.replicate 255 0 }), (1, { needs := true })] } }
     (s.dev.getLink 0).needs = false ∧ (s.dev.getLink 0).failed = false ∧ (s.dev.getLink 0).consec = 7 ∧
     255 ≤ ((s.dev.getLink 0).recent.filter fun t => s.time.fabric < t + 2 ^ 16).length ∧ (s.dev.getLink 1).needs = true ∧ (s.dev.getLink 1).failed = false) ∧
    (let b : Burst := { kind := .steep, bytes := 128, src := .headgate 0, dst := .terrace 4, culvert := 2 }
     let q : QBurst := { b := b, rev := 0, since := 0 }
     let port := (burstPath b).head?.getD 0
     let x : APort := { queues := [(2, List.replicate 15 q), (3, List.replicate 16 q)], seen := [(2, q)] }
     let s : State := { dev := { ports := [(port, x)] } }
     (burstPath b).head? = some port ∧ (burstPath b).head? ≠ some 4000 ∧ has x.absent 2 = false ∧ (Map.get x.queues 2 []).length < 16 ∧
     16 ≤ (Map.get x.queues 3 []).length ∧ s.dev.portHeld port = false ∧ (s.dev.getAPort port).grant = none ∧
     (s.dev.getAPort port).choose s.time.fabric = some (2, q, false) ∧ (Map.get x.queues 2 []).head? = some q ∧ x.batch = 0 ∧
     ∀ y ∈ x.seen, y.2.cls ≠ 0 → s.time.fabric < y.2.since + 512) := by decide +kernel

/-- Server core 0 runs in partition 0, in supervisor mode without translation. -/
def coreState (x : Core) : State := { dev := { ready := true, cores := [(0, { x with hart := .running, csrs := {} })] } }

/-- What coreAt asks, of core 0 and an access without a finding. -/
def coreOk (s : State) (use : PageUse) (va a n : Nat) : Bool :=
  (s.dev.getCore 0).acts && (s.accessing 0 {}).span 0 use va n = .ok [⟨a, n, 0⟩] && ((s.accessing 0 {}).cacheCheck 0 (a / 128) none).2

/-- The state after the check. -/
def coreAfter (s : State) : State := s.accessing 0 {}

theorem wit_CoreAccesses :
    (let s := coreState { sb := [⟨0x1078, 8, 5, false⟩] }
     (s.dev.getCore 0).sb = [⟨0x1078, 8, 5, false⟩] ∧ 0x1078 % 128 + 8 ≤ 128 ∧ s.dev.objectAt (0x1078 / 128 * 128) = none) ∧
    (let s := coreState {}
     let w := coreAfter s
     let a := 0xFFFFFFFFF8
     coreOk s .load a a 8 = true ∧ coreOk s .store a a 8 = true ∧ coreOk s .store (a / 64 * 64) (a / 64 * 64) 64 = true ∧
     coreOk s .block (a / 64 * 64) (a / 64 * 64) 64 = true ∧ coreOk s .load 0x3000000010000 0x3000000010000 8 = true ∧
     isCaddy a = true ∧ w.admits 0 a 8 = true ∧ w.poisonedAt a 8 = false ∧ isReg a = false ∧ (w.dev.getCore 0).sb = [] ∧ (w.dev.getCore 0).stalled = [] ∧
     w.corePt 0 = some 0 ∧ coreReg 0 (w.mgmt.cores 0).length (w.dev.getCore 0).csrs.mode.val 0x3000000010000 = .sp 0 ∧
     isReg (a / 64 * 64) = false ∧ w.admits 0 (a / 64 * 64) 64 = true ∧ s.admits 0 (a / 64 * 64 / 128 * 128) 128 = true) ∧
    64 ≤ (({ sb := List.replicate 64 ⟨0, 1, 0, false⟩ } : Core).sb).length ∧
    (let h : HPre := { csrs := some { satp := 0x9000000000000000 } }
     ((coreState {}).accessing 0 h).span 0 .load (2 ^ 60) 8 = .fault 13 ∧ ((coreState {}).accessing 0 h).span 0 .store (2 ^ 60) 8 = .fault 15) ∧
    (let h : HPre := { hit := some (0, 0, .uncorrectable) }
     let s := coreState { dirty := [(1, [])] }
     (s.accessing 0 h).span 0 .load 128 8 = .ok [⟨128, 8, 0⟩] ∧ (Map.find (s.dev.getCore 0).dirty (128 / 128)).isSome = true) := by decide +kernel

theorem wit_CoreAtomics : ∀ r ∈ [none, some 1],
    let s := coreState { resv := r }
    let w := coreAfter s
    coreOk s .load 0xF8 0xF8 8 = true ∧ coreOk s .store 0xF8 0xF8 8 = true ∧ (w.dev.getCore 0).sb = [] ∧ (w.dev.getCore 0).stalled = [] ∧ w.admits 0 0xF8 8 = true ∧
    isCaddy 0xF8 = true ∧ 0xF8 % 8 = 0 ∧ w.poisonedAt 0xF8 8 = false ∧ (w.dev.getCore 0).resv = r := by decide +kernel

/-- The boot record of partition 0 with a request. -/
def bootState (go : Nat) (x : Core) : State :=
  { mem := { bytes := memOf 0 [(0, 4, 0x4B515342), (4, 4, 1), (8, 4, go), (16, 8, 4096)] }, dev := { ready := true, cores := [(0, x)] } }

theorem wit_ServerHarts :
    (let s := bootState 1 {}
     s.dev.ready = true ∧ s.mgmt.terraces 0 ≠ [] ∧ s.bootValid 0 = true ∧ s.bootField 0 8 4 = 1 ∧ s.allHeld 0 = true ∧ s.entryOk 0 = true ∧
     s.mgmt.hartOf 0 0 = 0 ∧ s.mgmt.hartOf 0 95 ≠ 0) ∧
    (let s := bootState 5 { hart := .running }
     s.bootValid 0 = true ∧ s.bootField 0 8 4 = 5 ∧ s.allHeld 0 = false) ∧
    (let s := (coreState {}).onDev fun d => { d with cores := d.cores ++ [(95, { hart := .stopped }), (94, { hart := .suspended })] }
     let w := coreAfter s
     (s.dev.getCore 0).acts = true ∧ s.corePt 0 = some 0 ∧ (s.mgmt.cores 0)[95]? = some 95 ∧ (s.dev.getCore 95).hart = .stopped ∧
     s.mgmt.admits 0 4096 1 = true ∧
     ∀ h ∈ [94, 95], let a := 0x3001100000000 + h * 0x8000
       coreOk s .store a a 4 = true ∧ w.corePt 0 = some 0 ∧ coreReg 0 (s.mgmt.cores 0).length (w.dev.getCore 0).csrs.mode.val a = .file h 1 0 ∧ a % 4 = 0 ∧
       (s.mgmt.cores 0)[h]? = some h ∧ (w.dev.getCore h).hart ≠ .lost) ∧
    (∀ used ∈ [3, 4],
      let s := (coreState { dirty := [(1, List.replicate 128 7)] }).onDev fun d => { d with spareCores := [(0, used)] }
      (s.dev.getCore 0).hart ≠ .lost ∧ s.corePt 0 = some 0 ∧ (∀ l ∈ (s.dev.getCore 0).dirty, ∀ i ∈ List.range 16, l.1 ≠ ((s.mgmt.sysmem 0).1 + 40 + i) / 128) ∧
      Map.get s.dev.spareCores (0 / 48) 0 = used) := by decide +kernel

/-! ### Host attachments and network ports: witnesses. -/

/-- Attachment 0 is linked; its context 1 has the entry of HBM. -/
def hostState (x : Att) : State := { dev := { ready := true, atts := [(0, { x with dlActive := true })], ctxs := [(1, ctx0)] } }

theorem wit_linked : (hostState {}).linked 0 = true ∧ (hostState {}).pow.dormant = false := by decide +kernel

theorem wit_WindowAccesses :
    (let s := hostState { bound := some (1, 0) }
     (s.dev.getAtt 0).bound = some (1, 0) ∧ s.dev.ready = true ∧ s.dev.getCtx 1 = some ctx0 ∧ s.dev.clientPa 1 0x7F true = some (hbmPa 0 0x7F) ∧
     0x7F % 128 + 1 ≤ 128 ∧ hbmPa 0 0x7F % 128 = 0x7F % 128 ∧ (s.landAll (.window 0)).dev.clientPa 1 0x7F false = some (hbmPa 0 0x7F)) ∧
    (hostState { bound := some (1, 2 ^ 20) }).dev.clientPa 1 (2 ^ 20 * 2 ^ 16) true = none ∧ ((hostState {}).dev.getAtt 0).bound = none ∧
    (let s := hostState { winCtx := 0x10001, winVa := 0x10000 }
     (∀ w ∈ s.mem.flight, w.from' ≠ .window 0) ∧ (s.dev.getAtt 0).winCtx.getLsbD 16 = true ∧ (s.dev.getAtt 0).winCtx.toNat % 2 ^ 12 = 1 ∧
     s.dev.getCtx 1 = some ctx0 ∧ ctx0.home = 0 ∧ ctx0.state = .active) ∧
    ((hostState {}).dev.getAtt 0).winCtx.getLsbD 16 = false ∧ (hostState { winCtx := 0x10002 }).dev.getCtx 2 = none := by decide +kernel

theorem wit_HostRequests :
    (let s := hostState {}
     (s.reach 0 attBox).isSome = true ∧ (s.reach 0 ctxBox).isSome = true ∧ (∀ y, s.reach 0 attBox = some y → y.produced = 0) ∧
     (16 + 2 ^ 16 - 0) % 2 ^ 16 = 16 ∧ ∀ k ∈ (List.range 16).map fun i => (0 + i) % 16, (0xFFFF : BitVec 16).getLsbD k = true) ∧
    ((17 + 2 ^ 16 - 0) % 2 ^ 16 = 17) ∧ (0x7F8 % 8 = 0 ∧ 0x7FC % 4 = 0 ∧ 0x7FC < 0x800 ∧ 0x7FC / 8 * 8 ≠ 0x068) := by
  refine ⟨⟨by decide +kernel, by decide +kernel, ?_, by decide +kernel⟩, by decide +kernel⟩
  intro y h
  have : (hostState {}).reach 0 attBox = some {} := by decide +kernel
  rw [this] at h
  cases h
  rfl

def item0 : Item := .entry 1 4096 [1, 2] 2 0

theorem wit_Outflow :
    (let x := (hostState { osn := 5, ack := 3 }).dev.getAtt 0
     x.ack ≤ (5 : Word).toNat ∧ (5 : Word).toNat ≤ x.osn ∧ x.osn < (6 : Word).toNat ∧ (2 : Word).toNat < x.ack) ∧
    (let x := (hostState { items := [item0] }).dev.getAtt 0
     x.items = [item0] ∧ x.held = false ∧ x.resending = false ∧ x.full = false ∧ x.dlActive = true) ∧
    (let x := (hostState { lapHeld := [(2, item0)], rings := [(2, (65, [(0, 1)]))], ack := 1, osn := 1 }).dev.getAtt 0
     x.lapHeld = [(2, item0)] ∧ Map.find (Map.get x.rings 2 (0, [])).2 0 = some 1 ∧ 1 ≤ x.ack) ∧
    (let c := { ctx0 with sendDue := some 256, holdoff := 1 }
     let s : State := { time := { fabric := 256 }, dev := { ctxs := [(1, c)] } }
     s.dev.getCtx 1 = some c ∧ c.sendDue = some 256 ∧ 256 ≤ s.time.fabric) ∧
    (let x := (hostState { resending := true, unacked := [(1, item0)] }).dev.getAtt 0
     x.resending = true ∧ x.unacked = [(1, item0)] ∧ x.ack < 1) := by decide +kernel

theorem wit_LinkLife :
    (let s : State := { pow := { stage := .up }, dev := { atts := [(0, { perst := true })] } }
     attExists s.mgmt.split 0 = true ∧ (s.dev.getAtt 0).perst = true ∧ s.pow.stage = .up ∧ (s.dev.getAtt 0).dlActive = false) ∧
    (let s := hostState attached
     s.linked 0 = true ∧ s.pow.dormant = false ∧ (s.dev.getAtt 0).token ≠ none ∧ (s.dev.getAtt 0).orphanLeft = 0 ∧ s.dev.getCtx 1 = some ctx0 ∧ ctx0.home = 0 ∧
     ctx0.state = .active ∧ ctx0.teardown = none) ∧
    (let s := (hostState { attached with held := true }).onDev fun d => { d with ctxs := [(1, { ctx0 with state := .orphaned })] }
     (s.dev.getAtt 0).held = true ∧ (s.dev.getAtt 0).token ≠ none ∧ (s.dev.getAtt 0).orphanLeft = 0 ∧ s.pow.dormant = false ∧
     (s.dev.getCtx 1).map (fun c => (c.home, c.state)) = some (0, .orphaned)) := by decide +kernel

def qp0 : Qp := { port := 0, ctx := 1, gen := 0, rkey := 9, retries := 0, rnrRetries := 0 }

/-- Port 0 is up and serves partition 0, with PFC on; queue pair 1 stands on it. -/
def netState (q : Qp) : State :=
  { mgmt := { record := Mem.write recDefault 128 (bytesOf 29 [(5, 1, 9), (28, 1, 1)]) },
    dev := { ready := true, atts := [(0, attached)], ctxs := [(1, ctx0)], eports := [(0, { up := true })], qps := [(1, q)], nextQp := 2 } }

theorem wit_NetworkRequests :
    (let s := netState qp0
     (s.dev.getEPort 0).up = true ∧ (s.dev.getEPort 0).fill < 2 ^ 23 ∧ s.dev.getCtx 1 = some ctx0 ∧ ctx0.gen = 0 ∧ (s.dev.getAtt ctx0.home).token = some 5 ∧
     bit (recNet s.mgmt.record 0 28 1) ctx0.pt = true ∧ s.dev.qps.length < 4096 ∧ ctx0.state = .active ∧ s.dev.getQp 1 = some qp0 ∧ s.dev.getCtx qp0.ctx = some ctx0 ∧
     qp0.err = false ∧ qp0.msgs.length < 16 ∧ (List.replicate 256 (0 : Byte)).length = 256 ∧ (0x7F : Word).toNat < 2 ^ 48 ∧
     s.dev.clientPa 1 0x7F true = some (hbmPa 0 0x7F) ∧ hbmPa 0 0x7F % 128 = 0x7F ∧ (s.landAll (.qp 1)).dev.clientPa 1 0x7F false = some (hbmPa 0 0x7F) ∧ qp0.reads < 16) ∧
    (netState { qp0 with err := true }).dev.getQp 1 = some { qp0 with err := true } ∧
    16 ≤ ({ qp0 with msgs := List.replicate 16 [] } : Qp).msgs.length ∧
    (let s := (netState qp0).onDev fun d => { d with eports := [(0, { up := true, paused := true })] }
     (s.dev.getEPort 0).up = true ∧ (s.dev.getEPort 0).paused = true) ∧ ((netState qp0).dev.getEPort 0).paused = false ∧
    (∀ n ∈ [0, 1], let q := { qp0 with replies := [[]], retries := n }
      (netState q).dev.getQp 1 = some q ∧ q.err = false ∧ q.replies ≠ [] ∧ q.retries = n) := by decide +kernel

theorem wit_NetworkPorts :
    (let s := netState qp0
     (s.dev.getEPort 0).up = true ∧ (s.dev.getEPort 0).fill < 2 ^ 23 ∧ s.owns4 0 0 = true ∧ s.owns4 0 1 = false ∧ s.dev.getQp 1 = some qp0 ∧ qp0.port = 0 ∧
     passed qp0.cnpSent s.time.fabric = true ∧ s.mgmt.netFlag 0 3 = true ∧ recNet s.mgmt.record 0 25 1 = (0 : Fin 8).val ∧
     passed qp0.cnpRecv cnpInterval = true ∧ passed (some qp0.raised) cnpInterval = true) ∧
    (let s := { netState qp0 with pow := { stage := .up } }
     (s.mgmt.netFlag 0 0 = true) ∧ s.pow.stage = .up ∧ s.pow.dormant = false) := by decide +kernel

/-! ### Power, recovery and management: witnesses. -/

/-- Engine 0 in a state of power. -/
def engState (x : Engine) (t : Terrace) : State := { dev := { ready := true, eng := [(0, x)], terr := [(0, t)] } }

theorem wit_UnitPowerStates :
    (let s := engState { power := .running, idleArr := 64 } {}
     (s.dev.getEng 0).power = .running ∧ s.dev.engIdle 0 = true ∧ 64 ≤ (s.dev.getEng 0).idleArr) ∧
    (let s := engState { power := .clockGated, idleArr := 65536 } {}
     (s.dev.getEng 0).power = .clockGated ∧ s.dev.engIdle 0 = true ∧ (s.dev.getEng 0).queue = [] ∧ 2 ^ 16 ≤ (s.dev.getEng 0).idleArr) ∧
    (let s := engState { queue := [1] } { pllOff := false }
     s.dev.ready = true ∧ (s.dev.getEng 0).power = .powerGated ∧ (s.dev.getEng 0).isolated = none ∧ (s.dev.getEng 0).queue ≠ [] ∧
     (s.dev.getTerr 0).pllOff = false ∧ ∀ w ∈ s.dev.waking 0, w.1 = 0) ∧
    (let s := engState {} { allGated := 2 ^ 24 }
     (∀ k, k < 5 → (s.dev.getEng (5 * 0 + k)).power = .powerGated) ∧ 2 ^ 24 ≤ (s.dev.getTerr 0).allGated) ∧
    (let s := engState { queue := [1] } {}
     (s.dev.getTerr 0).pllOff = true ∧ (s.dev.getEng (5 * 0 + 0)).queue ≠ []) := by decide +kernel

theorem wit_Dormancy :
    (let s : State := { mgmt := { record := Mem.write recDefault 76 (leBytes 4 (2 ^ 31 + 1)) }, pow := { dormantRun := 1024 }, dev := { ready := true, ctxs := [(1, ctx0)] } }
     s.quiet = true ∧ s.mgmt.dormantOn = true ∧ s.mgmt.dormantIdle ≤ s.pow.dormantRun) ∧
    (let s : State := { pow := { dormant := true } }
     s.pow.dormant = true ∧ s.wakes .tlp = true) ∧
    (let s : State := { dev := { cores := [(0, { hart := .suspended }), (1, { hart := .running, sb := [⟨0, 8, 1, false⟩] })] } }
     (∀ c ∈ [0, 1], (s.dev.getCore c).csrs.stimecmp.toNat ≤ s.timeCsr 0) ∧
     (s.dev.getCore 0).hart = .suspended ∧ (s.dev.getCore 1).hart = .running ∧ (s.dev.getCore 1).sb.length ≤ 64 ∧ (s.dev.getCore 1).stalled = []) ∧
    ({} : State).time.fabric < ({} : State).dev.halvedAt + 2 ^ 24 ∧
    (let s : State := { time := { fabric := 2 ^ 24 } }
     s.dev.halvedAt + 2 ^ 24 ≤ s.time.fabric) := by decide +kernel

theorem wit_Dormancy_early :
    let s : State := { dev := { cores := [(0, { csrs := { stimecmp := 1 } })] } }
    ¬ (s.dev.getCore 0).csrs.stimecmp.toNat ≤ s.timeCsr 0 := by
  simp [State.timeCsr, Dev.getCore, Map.get, Map.find]

theorem wit_WeirSteps :
    (let s : State := {}
     s.windowEnded 0 = false ∧ s.windowEnded 13 = false) ∧
    (let s : State := { time := { fabric := 4096 }, dev := { terr := [(0, { window := 512 })] } }
     s.windowEnded 0 = true ∧ s.windowEnded 13 = true ∧ s.pow.spStatus.getLsbD 2 = false ∧ s.pow.budget 0 < (s.pow.getDom 0).scaled (s.pow.budget 0 + 1) ∧ 4 < (s.pow.getDom 0).step) ∧
    (let s : State := { pow := { doms := [(14, { hold := some (0, 7) })] } }
     (s.pow.getDom 14).hold = some (0, 7)) := by decide +kernel

theorem wit_SlowInterval :
    (13 < 14 ∧ validTemp 367 = true ∧ (367 : Int) < 368) ∧
    (let s : State := { time := { fabric := 199999 } }
     s.kettle < (s.pow.getDom 13).slowAt + 200 ∧ (s.pow.getDom 13).slowAt + 200 ≤ ({ s with time := { fabric := 200000 } } : State).kettle) ∧
    (let s : State := { pow := { doms := [(13, { runLen := 2, runE := 1, runM := 2 })] } }
     let x := (s.pow.getDom 13).endHold
     x.thermal = false ∧ x.suspect = false ∧
     (x.scaled 100 ≤ 2 * 100 ∧ 100 * 100 ≤ 115 * x.scaled 100) ∧
     (115 * x.scaled 100 < 100 * 116 ∧ x.runLen = 2 ∧ x.runE + x.scaled 100 ≠ 0 ∧ x.diverge < 2 ^ 16 - 1) ∧
     2 * 49 < x.scaled 99) := by decide +kernel

theorem wit_SafetyStops :
    let s : State := { pow := { pwrgd := true, refclk := true, spStatus := 4, enfRun := 20000 } }
    s.pow.runs = true ∧ s.pow.refclk = true ∧ s.pow.spStatus.getLsbD 2 = true ∧ 105 * s.pow.ceilingNow < 100 * 2626 ∧ 20000 ≤ s.pow.enfRun := by decide +kernel

theorem wit_InputCeiling :
    (let s : State := { pow := { pwrgd := true, overRun := 2000 } }
     s.pow.runs = true ∧ s.pow.spStatus.getLsbD 2 = false ∧ 105 * s.pow.ceilingNow < 100 * 2626 ∧ 2000 ≤ s.pow.overRun) ∧
    (let s : State := { pow := { pwrgd := true, spStatus := 4, underRun := 2000 } }
     s.pow.spStatus.getLsbD 2 = true ∧ 2500 ≤ s.pow.ceilingNow ∧ 2000 ≤ s.pow.underRun) ∧ (160 : Int) < 161 ∧ 79 < 80 := by decide +kernel

/-- Main power is up. -/
def upPow : Pow := { pwrEn := true, resetN := true, aux := true, refclk := true, mainOk := true, connected := true, stage := .up, pwrgd := true }

/-- Components whose images pass. -/
def comps0 : List (Nat × Component) := (List.range 3).map fun k => (k + 1, { image0 := some (1, 2, 3), image1 := some (1, 2, 3) })

theorem wit_MainPower :
    (∀ x ∈ [(false, true, true), (true, false, true), (true, true, false)],
      let s : State := { time := { fabric := 8192000 }, pow := { aux := true, pwrEn := x.1, mainOk := x.2.1, refclk := x.2.2, fellAt := some 0 } }
      s.pow.aux = true ∧ s.pow.resetN = false ∧ s.mgmt.failed = false ∧ s.pow.stage = .off ∧ s.pow.fellAt = some 0 ∧ 0 + 2 ^ 13 ≤ s.kettle) ∧
    (upPow.pwrEn = true ∧ upPow.stage ≠ .off ∧ upPow.aux = true ∧ upPow.connected = true ∧ upPow.runs = true ∧ upPow.stage = .up) ∧
    (let s : State := { pow := upPow, mgmt := { l3Since := some 0, l3Held := true } }
     s.pow.stage = .up ∧ s.mgmt.l3Held = true) ∧
    (let s : State := { pow := { refclk := true }, mgmt := { comps := comps0 } }
     s.pow.aux = false ∧ s.pow.pwrEn = false ∧ s.pow.stage = .off ∧ s.pow.refclk = true ∧ (s.mgmt.comp 2).accepts 2 (s.mgmt.comp 2).active s.mgmt.fuse = true) := by
  decide +kernel

theorem wit_ReplaysAndResets :
    (∀ n ∈ [1, 2],
      let p : Part := { ctx := 1, seq := 1, idx := 0, eng := eng0, kind := .lines 0 1, stage := .executing, replays := n }
      let s := (partState fillDesc p).onDev fun d => { d with eng := [(0, { power := .running, replays := List.replicate 7 0 })] }
      s.dev.ready = true ∧ s.dev.getPart 1 = some p ∧ p.stage = .executing ∧ p.replays = n ∧
      ((s.dev.getEng 0).replays.filter fun t => (s.dev.getTerr 0).arr < t + 2 ^ 32).length < 8 ∧ p.kind ≠ .kernel ∧ p.atoms = []) ∧
    (∀ l ∈ [[], [1]],
      let s : State := { (runState fillDesc (.lines 0 1)) with time := { fabric := 1000 * 2 ^ 22 } }
      let s := s.onDev fun d => { d with eng := [(0, { power := .running, executing := l, progress := 2 ^ 34 }), (1, { isolated := some 0 })] }
      s.l1Free 0 = true ∧ s.mgmt.ptOf 0 = some 0 ∧ (s.dev.getPt 0).l2s = [] ∧ 2 ^ 34 ≤ (s.dev.getEng 0).progress ∧ (s.dev.getEng 0).executing = l ∧
      (s.dev.getEng 0).isolated = none ∧ s.dev.served 0 ((s.dev.getTerr 0).given 0) = [0] ∧ (s.dev.getEng 0).needSpare = false ∧ (s.dev.getEng 0).wayOff.length ≤ 2 ∧
      ((s.dev.getEng 0).resets.filter fun k => s.kettle < k + 2 ^ 31).length < 2 ∧ (s.dev.getTerr 0).spareUsed = false ∧
      has (s.dev.getTerr 0).fenced ((s.dev.getTerr 0).given 0) = false ∧ s.l1Free 1 = true ∧ (s.dev.getEng 1).isolated = some 0 ∧ 0 + 2 ^ 22 ≤ s.kettle) := by
  decide +kernel

theorem wit_RollbackAndL2 :
    (let c := { ctx0 with rollDue := some .poison, image := { ranges := [entry0], gates := [(4, 7)], pins := [(3, 1)] } }
     let s : State := { dev := { ready := true, ctxs := [(1, c)], gates := [(4, { value := 9, owner := 1 }), (5, { value := 0, owner := 1 })] } }
     s.dev.getCtx 1 = some c ∧ c.rollDue = some .poison ∧ (s.dev.getPt c.pt).alarm = none ∧ c.teardown = none ∧ c.cmds = [] ∧ c.dirtied = [] ∧ c.freeLater = [] ∧ s.dev.parts = [] ∧
     c.noImage = false ∧ c.overflow = [] ∧ c.journal = [] ∧ (∀ r ∈ c.ranges, r.entry.kind ≠ 1 ∧ r.unmap = none) ∧ (∀ e ∈ c.image.ranges, e.kind ≠ 1) ∧
     (c.image.gates.map fun g => g.1).Nodup) ∧
    (let s : State := { dev := { ready := true } }
     s.mgmt.terraces 0 ≠ [] ∧ (s.dev.getPt 0).alarm = none ∧ (s.dev.getPt 0).l2s = []) ∧
    (let s : State := { time := { fabric := 1000 * 2 ^ 24 }, dev := { ready := true, partns := [(0, { alarm := some (0, .engineLost) })] } }
     (s.dev.getPt 0).alarm = some (0, .engineLost) ∧ 0 + 2 ^ 24 ≤ s.kettle ∧ s.mgmt.l4 = false ∧ s.mgmt.l3Since = none ∧ s.mgmt.l3s = []) := by decide +kernel

theorem wit_DeviceRecovery :
    (∀ r ∈ [true, false],
      let s : State := { time := { fabric := 1000 * 2 ^ 25 }, pow := { upPow with resetN := r }, mgmt := { l3Since := some 0, running := true } }
      s.pow.stage = .up ∧ s.mgmt.l4 = false ∧ s.mgmt.l3Since = some 0 ∧ s.pow.resetN = r ∧ 0 + 2 ^ 25 ≤ s.kettle ∧ s.mgmt.l3Held = false ∧ s.recoveryOf 0 = some 0 ∧
      0 + 2 ^ 18 ≤ s.kettle) ∧
    (let s : State := { pow := upPow, mgmt := { l4 := true } }
     s.mgmt.l4 = true) ∧
    (let s : State := { pow := upPow, mgmt := { running := true } }
     has s.mgmt.jorLost (5 * 0 + 3) = false ∧ s.pow.stage = .up ∧ s.mgmt.lostOn 0 = 0 ∧ (3 : Fin 5).val < 4 ∧ s.mgmt.running = true ∧ s.mgmt.l4 = false ∧
     s.mgmt.l3Since = none ∧ s.mgmt.l3s = []) ∧
    (let s : State := { pow := upPow, mgmt := { jorLost := [0, 1, 2, 3] } }
     has s.mgmt.jorLost (5 * 0 + 4) = false ∧ s.mgmt.lostOn 0 = 4 ∧ s.mgmt.l4 = false ∧ s.mgmt.l3Since = none ∧ s.mgmt.l3s = []) := by decide +kernel

theorem wit_ManagementReads :
    let s : State := { mgmt := { running := true, spdm := [(8, 3)], summ := [(1, [7])], sensors := [(0x2000, some 5)] },
                       dev := { atts := [(2, { dlActive := true })], terr := [(7, { dumps := [(31, { level := 1, seq := 1, summary := [1] })] })] } }
    s.mgmt.running = true ∧ s.mgmt.isOwner 2 = false ∧ s.linked 2 = true ∧ s.pow.dormant = false ∧ 3 ≤ s.mgmt.spdmOf .tray ∧ s.recoveryOf 7 = none ∧
    (Map.find (s.dev.getTerr 7).dumps 31).isSome = true ∧ 3072 % 1024 = 0 ∧ 3072 < 4096 ∧ Map.find s.mgmt.summ 1 = some [7] ∧ bit 4 2 = true ∧ bit 32 5 = true ∧
    sensorExists (0x2000 / 4096) (0x2000 / 256 % 16) (0x2000 % 256) = true ∧ 0x2000 / 4096 ≠ 4 ∧ s.reading 0x2000 = some 5 := by decide +kernel

def image1 (c : Nat) (v : Word) : Image := { component := c, version := v, svn := 2, digest := 3, keyOk := true, sigOk := true, digestOk := true }

theorem wit_FirmwareUpdates :
    (∀ u ∈ [none, some ({ who := .tray } : Update)],
      let s : State := { mgmt := { running := true, comps := comps0, update := u } }
      s.mgmt.running = true ∧ s.mgmt.update = u ∧ ∀ c ∈ [1, 2, 3], (s.mgmt.comp c).active < 2) ∧
    (∀ x ∈ [(1, 1), (1, 2 ^ 16), (2, 1), (3, 1)],
      let img := image1 x.1 (BitVec.ofNat 64 x.2)
      let u : Update := { who := .tray, written := [img], verified := [x.1] }
      let s : State := { mgmt := { running := true, comps := (List.range 3).map fun k => (k + 1, { image0 := some (1, 2, 3), image1 := some (img.version, 2, 3) }), update := some u } }
      s.mgmt.update = some u ∧ u.who = .tray ∧ (u.written.any fun i => i.component = x.1) = true ∧
      (s.mgmt.comp x.1).accepts x.1 (1 - (s.mgmt.comp x.1).active) s.mgmt.fuse = true ∧ has u.verified img.component = true ∧ s.mgmt.fwOld = none ∧ s.pow.dormant = false ∧
      (x.1 = 1 → ((major (s.mgmt.inForce 1).1 = major img.version) ↔ x.2 = 1))) ∧
    (({ comps := [(1, { image1 := some (1, 2, 3), ok1 := false })] } : Mgmt).comp 1).accepts 1 1 0 = false ∧
    (let s : State := { mgmt := { fwOld := some 1, fwVersion := 2 }, dev := { ctxs := [(1, ctx0)] } }
     s.mgmt.fwOld ≠ none ∧ s.dev.getCtx 1 = some ctx0 ∧ ctx0.served ≠ s.mgmt.fwVersion.toNat ∧ ctx0.cmds = [] ∧ (s.dev.getPt 0).faults = []) ∧
    (let s : State := { time := { fabric := 1000 * 2 ^ 30 }, pow := upPow, mgmt := { running := true, comps := comps0, fuse := 1 } }
     s.mgmt.running = true ∧ s.pow.stage = .up ∧ s.mgmt.fwOld = none ∧ s.mgmt.stableAt + 2 ^ 30 ≤ s.kettle ∧
     s.mgmt.fuse < min 64 (min (s.mgmt.inForce 1).2.1 (min (s.mgmt.inForce 2).2.1 (s.mgmt.inForce 3).2.1))) ∧
    (∀ n ∈ [0, 2, 3], let s : State := { mgmt := { running := true, restarts := List.replicate n 0 } }
      (s.mgmt.restarts.filter fun k => s.kettle < k + 2 ^ 27).length = n) := by decide +kernel


/-! ### Well-formedness: a term that each check refuses, beside one that it accepts. -/

/-- A core's reads of its prefix: what a kernel row accepts. -/
def preOk (p : Pre) : Bool := wellFormed (.ebreak p)

/-- A vector configuration of SEW, LMUL, vl and vstart. -/
def vcfg (sew : Nat) (lmul : Int) (vl vstart : Nat) : VCfg :=
  { sew := sew, lmul := lmul, vl := vl, vstart := vstart, vta := false, vma := false, vill := false, vxrm := 0, vxsat := false }

theorem test_wf_prefix : preOk { pre0 with pc := some 4096, vs := [(4095, 7)], vcfg := some (vcfg 8 (-3) 1024 0) } = true := by decide
theorem test_wf_vectorByte : preOk { pre0 with vs := [(4096, 7)] } = false := by decide
theorem test_wf_sew : preOk { pre0 with vcfg := some (vcfg 128 0 4 0) } = false := by decide
theorem test_wf_lmulLow : preOk { pre0 with vcfg := some (vcfg 8 (-4) 4 0) } = false := by decide
theorem test_wf_lmulHigh : preOk { pre0 with vcfg := some (vcfg 8 4 4 0) } = false := by decide
theorem test_wf_vl : preOk { pre0 with vcfg := some (vcfg 8 0 1025 0) } = false := by decide
theorem test_wf_vstart : preOk { pre0 with vcfg := some (vcfg 8 0 4 1025) } = false := by decide
theorem test_wf_oddPc : preOk { pre0 with pc := some 4097 } = false := by decide

theorem test_wf_split : ([(0, 0, false), (1, 0, true), (40, 40, true), (41, 0, false), (1, 41, false)].all fun x =>
    wellFormed (.submit (.ctx 1) ⟨x.1, List.replicate x.2.1 eng0, [], []⟩) = x.2.2) = true := by decide
theorem test_wf_kernelLoad : ([(2, false, true), (3, true, true), (3, false, false)].all fun x =>
    wellFormed (.kernelLoad pre0 1 2 0 x.1 x.2.1 .ok) = x.2.2) = true := by decide
theorem test_wf_homeRead : ([(0, 128, true), (0, 0, false), (2 ^ 50 - 1, 1, true), (2 ^ 50 - 1, 2, false)].all fun x =>
    wellFormed (.homeRead .infuser x.1 x.2.1 .ok) = x.2.2) = true := by decide
theorem test_wf_linkRetrained : ([(255, true), (256, false)].all fun x => wellFormed (.linkRetrained 0 [x.1]) = x.2) = true := by decide
theorem test_wf_portRequest : ([(0, false), (128, true), (200, false), (2048, true), (2176, false)].all fun x =>
    wellFormed (.portRequest 0 0 { kind := .sink, bytes := x.1, src := .headgate 0, dst := .caddy 0 }) = x.2) = true := by decide
theorem test_wf_ioRegionAccess : ([(4, true), (5, false)].all fun x => wellFormed (.ioRegionAccess 0 {} 0 x.1 none) = x.2) = true := by decide
theorem test_wf_coreRegisters : ([(0, false, 1, true), (10, true, 0, true), (10, true, 3, false), (11, false, 1, false), (0, false, 2, false)].all fun x =>
    wellFormed (.serverCoreLoad 0 { csrs := some { satp := BitVec.ofNat 64 (x.1 * 2 ^ 60), virt := x.2.1, mode := x.2.2.1 } } 0 0) = x.2.2.2) = true ∧
    wellFormed (.lr 0 {} (2 ^ 64) true false false) = false := by decide
theorem test_wf_lanes : ([(31, true), (32, false)].all fun x => wellFormed (.deviceReset true [] [] [⟨0, 0, x.1, true⟩]) = x.2) = true := by decide
theorem test_wf_windowWrite : ([(0, false), (1, true), (4097, false)].all fun x =>
    wellFormed (.windowWrite 0 0 (List.replicate x.1 0)) = x.2) = true := by decide +kernel
theorem test_wf_windowRead : ([(0, false), (4096, true), (4097, false)].all fun x => wellFormed (.windowRead 0 0 x.1) = x.2) = true := by decide
theorem test_wf_mailboxSlotWrite : ([(0, false), (1, true), (4097, false)].all fun x =>
    wellFormed (.mailboxSlotWrite 0 (.att 0) 0 (List.replicate x.1 0)) = x.2) = true := by decide +kernel
theorem test_wf_registers : wellFormed (.registerReadClear (.host 0) 0 true) = true ∧
    wellFormed (.registerReadClear (.kernel { pre0 with pc := some 1 }) 0 true) = false ∧
    wellFormed (.registerWrite (.kernel { pre0 with pc := some 1 }) 0 .rw 0 0 true 0) = false := by decide
theorem test_wf_connectRequest : ([(4095, 15, true), (4096, 0, false), (0, 16, false)].all fun x =>
    wellFormed (.connectRequest 0 x.1 x.2.1 0 4096) = x.2.2) = true := by decide
theorem test_wf_rdma : wellFormed (.rdmaWrite 0 0 0 []) = false ∧ wellFormed (.rdmaWrite 0 0 0 [1]) = true ∧ wellFormed (.rdmaRead 0 0 0 0) = false := by
  decide
theorem test_wf_trips : ([(255, 65535, true), (256, 0, false), (0, 65536, false)].all fun x =>
    wellFormed (.hardwareTrip .hbm x.1 x.2.1) = x.2.2 && wellFormed (.supervisorFault .clock x.1 x.2.1) = x.2.2) = true := by decide
theorem test_wf_ceilings : ([(65535, true), (65536, false)].all fun x =>
    wellFormed (.ceilingEnforcement x.1) = x.2 && wellFormed (.ceilingRelease x.1) = x.2 && wellFormed (.ceilingStop x.1) = x.2) = true := by decide
theorem test_wf_byolo : ([(255, true), (256, false)].all fun x =>
    wellFormed (.byoloRestart x.1) = x.2 && wellFormed (.logRead .tray 0 x.1) = x.2 && wellFormed (.dumpList .tray x.1) = x.2 &&
      wellFormed (.dumpRead .tray 0 x.1 0) = x.2 && wellFormed (.summaryRead .tray x.1 0) = x.2 && wellFormed (.getCertificate .tray x.1 0 0) = x.2 &&
      wellFormed (.challenge .tray x.1 0) = x.2 && wellFormed (.getMeasurements .tray x.1) = x.2) = true := by decide
theorem test_wf_management : ([(2 ^ 32 - 1, true), (2 ^ 32, false)].all fun x =>
    wellFormed (.dumpRead .tray 0 0 x.1) = x.2 && wellFormed (.negotiateAlgorithms .tray x.1 0) = x.2) = true := by decide
theorem test_wf_update : wellFormed (.updateComponent .tray ⟨255, 1, 255, 2 ^ 512 - 1, true, true, true⟩) = true ∧
    wellFormed (.updateComponent .tray ⟨256, 1, 0, 0, true, true, true⟩) = false ∧ wellFormed (.updateComponent .tray ⟨0, 1, 256, 0, true, true, true⟩) = false ∧
    wellFormed (.updateComponent .tray ⟨0, 1, 0, 2 ^ 512, true, true, true⟩) = false ∧ wellFormed (.verifyComplete .tray 65536) = false := by decide +kernel
theorem test_wf_powerUp : ([(51, some 7, true), (52, none, false), (0, some (2 ^ 64), false)].all fun x =>
    wellFormed (.powerUp [(x.1, x.2.1)] [] [] []) = x.2.2) = true := by decide
theorem test_wf_dlActive : ([(15, 63, true), (16, 0, false), (0, 64, false)].all fun x => wellFormed (.dlActive 0 x.1 x.2.1 true) = x.2.2) = true := by decide
theorem test_wf_coolant : ([(65535, true), (65536, false)].all fun x => wellFormed (.coolantReport 0 x.1) = x.2) = true := by decide

/-! ### The interface. -/

/-- The table gives no row bits: no word spells a command. -/
theorem test_no_words (n w : Nat) (s : State) : decodeTableWord n w = none ∧ s.withFetchWord n w = s := ⟨rfl, rfl⟩

/-- StepRunsFrontCommand: a state with a command in front, and one whose queue is empty. -/
theorem wit_StepRunsFrontCommand :
    { State.reset with pending := [Instr.aux12vPresent] }.pending = .aux12vPresent :: [] ∧ State.reset.pending = [] := ⟨rfl, rfl⟩

/-- The invariant holds of the state after reset. -/
theorem wit_StepKeepsSafe : State.reset.safe = true := by decide +kernel

/-- CRC-32C (R379) of the nine characters 1 to 9: its known check value. -/
theorem test_crc32c : crc32c [0x31, 0x32, 0x33, 0x34, 0x35, 0x36, 0x37, 0x38, 0x39] = 0xE3069283 := by decide +kernel

/-- SHA3-512 (Table 0.1, FIPS 202) of the three characters a, b, c: the first and last bytes of its published value. -/
theorem test_sha3 : (sha3 [0x61, 0x62, 0x63]).take 8 = [0xb7, 0x51, 0x85, 0x0b, 0x1a, 0x57, 0x16, 0x8a] ∧
    (sha3 [0x61, 0x62, 0x63]).drop 60 = [0x4e, 0xec, 0x53, 0xf0] := by decide +kernel

/-- A walk of four levels (R276, R318): tables in the frames 16 to 19 of system memory, and a leaf for page 1 that names frame 5. -/
theorem test_pageWalk :
    let s : State := { mem := { bytes := memOf 0 [(0x10000, 8, 17 * 1024 + 1), (0x11000, 8, 18 * 1024 + 1), (0x12000, 8, 19 * 1024 + 1), (0x13008, 8, 5 * 1024 + 0xC7)] },
                       dev := { ready := true, cores := [(0, { hart := .running, csrs := { satp := 0x9000000000000010 } })] } }
    s.span 0 .load 0x1008 8 = .ok [⟨0x5008, 8, 0⟩] ∧ s.span 0 .store 0x2000 8 = .fault 15 := by decide +kernel

end Sys2Proof.Tests
end

section
/-!
PROOFS. The step of the machine, and the lemmas about an attachment that its statements share: what the status interrupts leave alone, which
mailbox a host reaches after a change, and what a counted refusal changes.
-/

namespace Sys2Proof.Machine

/-! ### The step. -/

theorem step_of_pending (s : State) (c : Instr) (rest : List Instr) :
    step { s with pending := c :: rest } = exec c { s with pending := rest } := rfl

theorem step_of_empty {s : State} (h : s.pending = []) : step s = .next (tick s) := by
  unfold step
  rw [h]

/-- Settles O1, by the two cases of the queue. -/
theorem stepRunsFrontCommand : Obligations.StepRunsFrontCommand :=
  ⟨step_of_pending, fun _ h => step_of_empty h⟩

/-! ### Frames of the data path. -/

theorem onlyDev_onDev (s : State) (f : Dev → Dev) : OnlyDev s (s.onDev f) := ⟨rfl, rfl, rfl, rfl, rfl⟩

theorem OnlyDev.trans {s t u : State} (h : OnlyDev s t) (k : OnlyDev t u) : OnlyDev s u := by
  obtain ⟨hq, ht, hm, hp, hg⟩ := h
  obtain ⟨kq, kt, km, kp, kg⟩ := k
  exact ⟨kq.trans hq, kt.trans ht, km.trans hm, kp.trans hp, kg.trans hg⟩

theorem OnlyDev.mem_eq {s t : State} (h : OnlyDev s t) : t.mem = s.mem := by
  obtain ⟨_, _, hm, _, _⟩ := h
  exact hm

/-! ### Status interrupts (R340): they touch the pending bits and the messages sent, of attachments alone. -/

/-- An attachment after interrupts: its MSI-X pending bits and the messages sent may differ. -/
def Att.Interrupted (x y : Att) : Prop := ∃ pba sent, y = { x with pba := pba, sent := sent }

theorem Att.Interrupted.refl (x : Att) : x.Interrupted x := ⟨x.pba, x.sent, rfl⟩

theorem Att.Interrupted.trans {x y z : Att} (h : x.Interrupted y) (k : y.Interrupted z) : x.Interrupted z := by
  obtain ⟨p, l, rfl⟩ := h
  obtain ⟨q, m, rfl⟩ := k
  exact ⟨q, m, rfl⟩

theorem Att.vector_interrupted (x : Att) (v : Nat) : x.Interrupted (x.vector v) := by
  unfold Att.vector
  split
  · exact ⟨_, x.sent, rfl⟩
  · exact ⟨x.pba, _, rfl⟩

/-- A data path after interrupts: its attachments are interrupted, and nothing else differs. -/
def Dev.Interrupted (d e : Dev) : Prop := e = { d with atts := e.atts } ∧ ∀ a, (d.getAtt a).Interrupted (e.getAtt a)

theorem Dev.Interrupted.refl (d : Dev) : d.Interrupted d := ⟨rfl, fun _ => .refl _⟩

theorem Dev.Interrupted.trans {d e f : Dev} (h : d.Interrupted e) (k : e.Interrupted f) : d.Interrupted f := by
  refine ⟨?_, fun a => (h.2 a).trans (k.2 a)⟩
  rw [k.1, h.1]

theorem Dev.modAtt_vector_interrupted (d : Dev) (a v : Nat) : d.Interrupted (d.modAtt a fun x => x.vector v) := by
  refine ⟨rfl, fun b => ?_⟩
  rw [Dev.getAtt_modAtt]
  split
  · exact Att.vector_interrupted _ v
  · exact .refl _

theorem State.notify_interrupted (old s : State) : s.dev.Interrupted (State.notify old s).dev := by
  refine foldl_keep (fun d => s.dev.Interrupted d) _ (fun d a h => ?_) _ _ (.refl _)
  dsimp only
  split
  · exact h.trans (Dev.modAtt_vector_interrupted d a 0)
  · exact h

theorem State.notify_onlyDev (old s : State) : OnlyDev s (State.notify old s) := onlyDev_onDev _ _

/-- What an attachment shows, apart from its pending bits and the messages sent, is as before the interrupts. -/
theorem State.notify_att {β : Type} (g : Att → β) (hg : ∀ x pba sent, g { x with pba := pba, sent := sent } = g x) (old s : State) (a : Nat) :
    g ((State.notify old s).dev.getAtt a) = g (s.dev.getAtt a) := by
  obtain ⟨p, l, h⟩ := (State.notify_interrupted old s).2 a
  rw [h, hg]

@[simp] theorem State.notify_ready (old s : State) : (State.notify old s).dev.ready = s.dev.ready := by
  rw [(State.notify_interrupted old s).1]

@[simp] theorem State.notify_getCtx (old s : State) (n : Nat) : (State.notify old s).dev.getCtx n = s.dev.getCtx n := by
  rw [(State.notify_interrupted old s).1]
  rfl

/-! ### Changes of an attachment that HG_STATUS may show, and counted refusals among them. -/

theorem State.withStatus_modAtt_onlyDev (s : State) (a : Nat) (f : Att → Att) :
    OnlyDev s (s.withStatus fun s => s.onDev fun d => d.modAtt a f) := (onlyDev_onDev _ _).trans (State.notify_onlyDev _ _)

/-- What an attachment shows after a change with its status interrupts: the change. -/
theorem State.withStatus_modAtt_att {β : Type} (g : Att → β) (hg : ∀ x pba sent, g { x with pba := pba, sent := sent } = g x) (s : State)
    (a : Nat) (f : Att → Att) : g ((s.withStatus fun s => s.onDev fun d => d.modAtt a f).dev.getAtt a) = g (f (s.dev.getAtt a)) := by
  unfold State.withStatus
  rw [State.notify_att g hg, State.onDev_dev, Dev.getAtt_modAtt_self]

theorem State.attCount_onlyDev (s : State) (a n : Nat) (f : Att → Att) : OnlyDev s (s.attCount a n f) :=
  State.withStatus_modAtt_onlyDev _ _ _

/-- What the attachment shows after a count: the counted change with its bit of HG_STATUS. -/
theorem State.attCount_att {β : Type} (g : Att → β) (hg : ∀ x pba sent, g { x with pba := pba, sent := sent } = g x) (s : State) (a n : Nat)
    (f : Att → Att) : g ((s.attCount a n f).dev.getAtt a) = g ((f (s.dev.getAtt a)).setStatus n) :=
  State.withStatus_modAtt_att g hg s a _

theorem getLsbD_ofNat_two_pow {w k : Nat} (hk : k < w) (j : Nat) : (BitVec.ofNat w (2 ^ j)).getLsbD k = decide (j = k) := by
  rw [BitVec.getLsbD_ofNat, Nat.testBit_two_pow]
  simp [hk]

theorem Att.setStatus_bit (x : Att) {n : Nat} (h : n < 64) : (x.setStatus n).status.getLsbD n = true := by
  simp only [Att.setStatus, BitVec.getLsbD_or, getLsbD_ofNat_two_pow h, decide_true, Bool.or_true]

theorem State.attCount_status (s : State) (a : Nat) {n : Nat} (f : Att → Att) (h : n < 64) :
    ((s.attCount a n f).dev.getAtt a).status.getLsbD n = true := by
  rw [State.attCount_att Att.status (fun _ _ _ => rfl)]
  exact Att.setStatus_bit _ h

/-! ### Requests of a host that reach the device. -/

theorem State.awake_of_not_dormant {s : State} (h : s.pow.dormant = false) : s.awake = s := by
  simp [State.awake, h]

theorem State.host_of_linked {s : State} {a : Nat} (hl : s.linked a = true) (hd : s.pow.dormant = false) (f : State → State) :
    s.host a f = f s := by
  simp [State.host, hl, State.awake_of_not_dormant hd]

/-! ### The mailbox that a host reaches (R345). -/

theorem State.reach_congr {s t : State} {a : Nat} (hr : t.dev.ready = s.dev.ready) (hm : (t.dev.getAtt a).mbox = (s.dev.getAtt a).mbox)
    (hc : ∀ n, t.dev.getCtx n = s.dev.getCtx n) (mb : Mb) : t.reach a mb = s.reach a mb := by
  unfold State.reach
  rw [hr, hm]
  simp only [hc]

theorem State.reach_notify (old s : State) (a : Nat) (mb : Mb) : (State.notify old s).reach a mb = s.reach a mb :=
  State.reach_congr (by simp) (State.notify_att Att.mbox (fun _ _ _ => rfl) old s a) (by simp) mb

theorem State.reach_attCount (s : State) (a n : Nat) {f : Att → Att} (hf : ∀ x, (f x).mbox = x.mbox) (mb : Mb) :
    (s.attCount a n f).reach a mb = s.reach a mb := by
  refine (State.reach_notify s _ a mb).trans (State.reach_congr (by rfl) ?_ (fun _ => by rfl) mb)
  rw [State.onDev_dev, Dev.getAtt_modAtt_self]
  exact hf _

theorem State.reach_mailboxDrop (s : State) (a : Nat) (mb : Mb) : (s.mailboxDrop a).reach a mb = s.reach a mb :=
  State.reach_attCount s a 9 (by intro; rfl) mb

theorem State.reach_doorbellReject (s : State) (a : Nat) (mb : Mb) : (s.doorbellReject a).reach a mb = s.reach a mb :=
  State.reach_attCount s a 8 (by intro; rfl) mb

theorem State.reach_ready {s : State} {a : Nat} {mb : Mb} {y : Mailbox} (h : s.reach a mb = some y) : s.dev.ready = true := by
  unfold State.reach at h
  split at h
  · cases h
  · simpa using ‹¬ (!s.dev.ready) = true›

theorem State.reach_att {s : State} (h : s.dev.ready = true) (a : Nat) (b : Fin 8) :
    s.reach a (.att b) = if b.val = a then some (s.dev.getAtt a).mbox else none := by
  simp [State.reach, h]

theorem State.reach_ctx {s : State} (h : s.dev.ready = true) (a : Nat) (n : Fin 4096) :
    s.reach a (.ctx n) = (s.dev.getCtx n.val).bind fun c => if c.home = a then some c.mbox else none := by
  simp only [State.reach, h]
  cases s.dev.getCtx n.val <;> rfl

theorem State.reach_qp (s : State) (a q : Nat) : s.reach a (.qp q) = none := by
  unfold State.reach
  split <;> rfl

/-- A change of the mailbox that a host reaches is what it reaches afterwards. -/
theorem State.reach_modMbox {s : State} {a : Nat} {mb : Mb} {y : Mailbox} (h : s.reach a mb = some y) (f : Mailbox → Mailbox) :
    (s.onDev fun d => d.modMbox mb f).reach a mb = some (f y) := by
  have hr := State.reach_ready h
  cases mb with
  | att b =>
    rw [State.reach_att hr] at h
    obtain ⟨rfl, hy⟩ := Option.ite_none_right_eq_some.1 h
    obtain rfl := Option.some.inj hy
    rw [State.reach_att (by exact hr), if_pos rfl, State.onDev_dev]
    simp [Dev.modMbox]
  | ctx n =>
    rw [State.reach_ctx hr] at h
    obtain ⟨c, hc, h⟩ := Option.bind_eq_some_iff.1 h
    obtain ⟨hh, hy⟩ := Option.ite_none_right_eq_some.1 h
    obtain rfl := Option.some.inj hy
    have hmod : s.dev.modMbox (.ctx n) f = s.dev.modCtx n.val fun c => { c with mbox := f c.mbox } := by
      simp [Dev.modMbox, hc]
    rw [State.reach_ctx (by rw [State.onDev_dev, hmod]; exact hr), State.onDev_dev, hmod, Dev.getCtx_modCtx, if_pos rfl, hc]
    simp [hh]
  | qp q =>
    rw [State.reach_qp] at h
    cases h

end Sys2Proof.Machine
end

section
/-!
PROOFS. Requests of a host (R6, R7, R336, R345 to R347, R433): mailbox slots, doorbells, and registers of an attachment.
-/

namespace Sys2Proof.Machine

/-! ### Mailbox slots (R345, R347). -/

/-- Bytes set one by one, where a condition lets them, from an address on. -/
theorem get_foldl_set_if (ok : Nat → Bool) (data : Bytes) (off : Nat) (m : Mem) (n p : Nat) :
    Mem.get ((List.range n).foldl (fun m k => if ok k then Mem.set m (off + k) (data.getD k 0) else m) m) p =
      if off ≤ p ∧ p < off + n ∧ ok (p - off) = true then data.getD (p - off) 0 else Mem.get m p := by
  induction n with
  | zero => rw [if_neg (by omega)]; rfl
  | succ n ih =>
    rw [List.range_succ, List.foldl_append, List.foldl_cons, List.foldl_nil]
    by_cases hp : p = off + n
    · subst hp
      have hn : off + n - off = n := by omega
      rw [hn] at ih ⊢
      rw [if_neg (by omega)] at ih
      by_cases hk : ok n = true
      · simp [hk, Mem.get_set]
      · rw [if_neg hk, ih, if_neg (by simp [hk])]
    · have hw : p < off + (n + 1) ↔ p < off + n := by omega
      simp only [hw]
      rw [← ih]
      split
      · rw [Mem.get_set, if_neg (Ne.symm hp)]
      · rfl

/-- A mailbox after bytes were written into its page: those in free slots have landed. -/
def Mailbox.writeFree (x : Mailbox) (off : Nat) (data : Bytes) : Mailbox :=
  { x with page := (List.range data.length).foldl (fun m k =>
      if x.free.getLsbD ((off + k) / 256) && off + k < 4096 then Mem.set m (off + k) (data.getD k 0) else m) x.page }

theorem Mailbox.get_writeFree_page (x : Mailbox) (off : Nat) (data : Bytes) (p : Nat) :
    Mem.get (x.writeFree off data).page p =
      if off ≤ p ∧ p < off + data.length ∧ p < 4096 ∧ x.free.getLsbD (p / 256) = true then data.getD (p - off) 0 else Mem.get x.page p := by
  refine (get_foldl_set_if (fun k => x.free.getLsbD ((off + k) / 256) && off + k < 4096) data off x.page data.length p).trans ?_
  refine if_congr (and_congr_right fun hp => and_congr_right fun _ => ?_) rfl rfl
  rw [Nat.add_sub_cancel' hp, Bool.and_eq_true, decide_eq_true_eq, and_comm]

theorem State.slotWrite_onlyDev {s : State} {a : Nat} {mb : Mb} {y : Mailbox} (h : s.reach a mb = some y) (off : Nat) (data : Bytes) :
    OnlyDev s (s.slotWrite a mb off data) := by
  unfold State.slotWrite
  rw [h]
  dsimp only
  split
  · exact onlyDev_onDev _ _
  · exact (onlyDev_onDev s _).trans (State.attCount_onlyDev _ _ _ _)

theorem State.slotWrite_reach {s : State} {a : Nat} {mb : Mb} {y : Mailbox} (h : s.reach a mb = some y) (off : Nat) (data : Bytes) :
    (s.slotWrite a mb off data).reach a mb = some (y.writeFree off data) := by
  unfold State.slotWrite
  rw [h]
  dsimp only
  split
  · exact State.reach_modMbox h _
  · exact (State.reach_mailboxDrop _ _ _).trans (State.reach_modMbox h _)

/-! ### Doorbells (R346). -/

/-- How many messages a doorbell with a value covers. -/
def Mailbox.rung (x : Mailbox) (v : Nat) : Nat := (v + 2 ^ 16 - x.produced) % 2 ^ 16

/-- The slots of those messages, in order. -/
def Mailbox.rungSlots (x : Mailbox) (v : Nat) : List Nat := (List.range (x.rung v)).map fun i => (x.produced + i) % 16

theorem getLsbD_foldl_clear (l : List Nat) (f : BitVec 16) {k : Nat} (hk : k < 16) :
    (l.foldl (fun f j => f &&& ~~~BitVec.ofNat 16 (2 ^ j)) f).getLsbD k = (f.getLsbD k && !has l k) := by
  induction l generalizing f with
  | nil => simp [has]
  | cons j t ih =>
    rw [List.foldl_cons, ih]
    simp only [has, List.any_cons, BitVec.getLsbD_and, BitVec.getLsbD_not, getLsbD_ofNat_two_pow hk, hk, decide_true, Bool.true_and, Bool.not_or,
      Bool.and_assoc]

/-- A doorbell that covers 1 to 16 free slots takes them. -/
theorem Mailbox.ring_accepts {x : Mailbox} {v : Nat} (hv : v < 2 ^ 16) (h1 : 1 ≤ x.rung v) (h2 : x.rung v ≤ 16)
    (hs : ∀ k ∈ x.rungSlots v, x.free.getLsbD k = true) :
    ∃ z, x.ring v = some z ∧ z.produced = v ∧ z.page = x.page ∧ z.taken = x.taken ∧
      ∀ k, k < 16 → z.free.getLsbD k = (x.free.getLsbD k && !has (x.rungSlots v) k) :=
  ⟨_, if_pos ⟨hv, h1, h2, List.all_eq_true.2 hs⟩, rfl, rfl, rfl, fun _ hk => getLsbD_foldl_clear _ _ hk⟩

/-- Every other doorbell is refused. -/
theorem Mailbox.ring_rejects {x : Mailbox} {v : Nat}
    (h : x.rung v = 0 ∨ 16 < x.rung v ∨ 2 ^ 16 ≤ v ∨ ∃ k ∈ x.rungSlots v, x.free.getLsbD k = false) : x.ring v = none := by
  refine if_neg ?_
  rintro ⟨hv, (h1 : 1 ≤ x.rung v), (h2 : x.rung v ≤ 16), hs⟩
  rcases h with h | h | h | ⟨k, hk, hf⟩
  · omega
  · omega
  · omega
  · exact Bool.false_ne_true (hf.symm.trans (List.all_eq_true.1 hs k hk))

theorem State.doorbell_accepted {s : State} {a : Nat} {mb : Mb} {y z : Mailbox} {v : Nat} (h : s.reach a mb = some y) (hz : y.ring v = some z) :
    s.doorbell a mb true false v = s.onDev fun d => d.modMbox mb fun _ => z := by
  simp [State.doorbell, h, hz]

theorem State.doorbell_rejected {s : State} {a : Nat} {mb : Mb} {y : Mailbox} {v : Nat} (h : s.reach a mb = some y) (hz : y.ring v = none) :
    s.doorbell a mb true false v = s.doorbellReject a := by
  simp [State.doorbell, h, hz]

/-! ### Registers (R6, R7, R336). -/

/-- What a read returns and what it clears do not touch each other. -/
theorem Att.readClear_rdata (x : Att) (reg : Nat) (data : Bytes) (bad : Bool) :
    ({ x with rdata := data, rbad := bad } : Att).readClear reg = { x.readClear reg with rdata := data, rbad := bad } := by
  unfold Att.readClear
  split <;> rfl

/-- What a host's read of n bytes at an offset does: it returns them from their register, which it clears if it is RC. -/
def State.hostRead (s : State) (a off n : Nat) : State :=
  (s.returns a (sub (leBytes 8 (s.hgReg a (off / 8 * 8))) (off % 8) n) false).onDev fun d => d.modAtt a fun x => x.readClear (off / 8 * 8)

/-- An aligned read of a register that has no row of its own. -/
theorem State.registerRead_host {s : State} {a : Fin 8} (hl : s.linked a.val = true) (hd : s.pow.dormant = false) {off : Nat} {size8 : Bool}
    (ha : off % (if size8 then 8 else 4) = 0) (ho : off < 0x800) (hr : off / 8 * 8 ≠ 0x068) :
    s.registerRead (.host a) off size8 = s.hostRead a.val off (if size8 then 8 else 4) := by
  have hb : s.bar0 a.val (off / 8 * 8) = some (s.hgReg a.val (off / 8 * 8)) := if_pos (by omega)
  simp only [State.registerRead, State.hostRead, State.host_of_linked hl hd, ha, ne_eq, not_true_eq_false, if_false, if_neg hr, hb]

theorem State.hostRead_onlyDev (s : State) (a off n : Nat) : OnlyDev s (s.hostRead a off n) :=
  (onlyDev_onDev s _).trans (onlyDev_onDev (s.returns a _ false) _)

theorem State.hostRead_att (s : State) (a off n : Nat) :
    (s.hostRead a off n).dev.getAtt a = { (s.dev.getAtt a).readClear (off / 8 * 8) with
      rdata := sub (leBytes 8 (s.hgReg a (off / 8 * 8))) (off % 8) n, rbad := false } := by
  rw [State.hostRead, State.onDev_dev, Dev.getAtt_modAtt_self, State.returns, State.onDev_dev, Dev.getAtt_modAtt_self, Att.readClear_rdata]

theorem State.hostRead_other (s : State) {a b : Nat} (h : b ≠ a) (off n : Nat) : (s.hostRead a off n).dev.getAtt b = s.dev.getAtt b := by
  rw [State.hostRead, State.onDev_dev, Dev.getAtt_modAtt, if_neg h.symm, State.returns, State.onDev_dev, Dev.getAtt_modAtt, if_neg h.symm]

/-- A host's aligned write of 8 bytes to a register that has no row of its own. -/
theorem State.registerWrite_host {s : State} {a : Fin 8} (hl : s.linked a.val = true) (hd : s.pow.dormant = false) {off : Nat}
    (ha : off % 8 = 0) (ho : ownRow off = false) (op : CsrOp) (rd rs1 : Fin 32) (v : Word) :
    s.registerWrite (.host a) off op rd rs1 true v = s.withStatus fun s => s.onDev fun d => d.modAtt a.val fun x => x.hgWrite off true v := by
  have hreg : off / 8 * 8 = off := Nat.div_mul_cancel (Nat.dvd_of_mod_eq_zero ha)
  simp [State.registerWrite, State.host_of_linked hl hd, ha, ho, hreg]

theorem rwField_all (old v : Word) : rwField old v (BitVec.allOnes 64) (BitVec.allOnes 64) = v := by
  simp only [rwField, BitVec.and_self, BitVec.and_allOnes, BitVec.not_allOnes, BitVec.and_zero, BitVec.zero_or]

theorem Att.hgWrite_scratch (x : Att) (v : Word) : (x.hgWrite 0x050 true v).scratch = v := rwField_all _ _

theorem Att.hgWrite_status (x : Att) (v : Word) : (x.hgWrite 0x040 true v).status = x.status &&& ~~~(v &&& 0x7F04#64) := by
  show x.status &&& ~~~(v &&& BitVec.allOnes 64 &&& 0x7F04#64) = _
  rw [BitVec.and_allOnes]

/-- A write of Jormon to WE_CAP changes the field if the value lies in its range (Table 18.5). -/
theorem State.ioWrite_weCap (s : State) (v : Word) :
    s.ioWrite 0x3000000020000 v = s.onPow fun w =>
      { w with capW := if 2500 ≤ v.toNat % 2 ^ 13 ∧ v.toNat % 2 ^ 13 ≤ 7500 then v.toNat % 2 ^ 13 else w.capW } := by
  unfold State.ioWrite Pow.weWrite
  rw [if_pos (by omega)]
  congr 1
  funext w
  simp only [Nat.sub_self, true_and]
  split <;> rfl

/-! ### The commands, of a host whose requests reach a device that is not dormant. -/

section
variable {s : State} {a : Fin 8} (hl : s.linked a.val = true) (hd : s.pow.dormant = false)
include hl hd

theorem exec_mailboxSlotWrite_linked (mb : Mb) (off : Nat) (data : Bytes) :
    exec (.mailboxSlotWrite a mb off data) s = .next (s.slotWrite a.val mb off data) :=
  congrArg Host.Outcome.next (State.host_of_linked hl hd _)

theorem exec_doorbell_linked (mb : Mb) (size8 upper : Bool) (v : Word) :
    exec (.doorbell a mb size8 upper v) s = .next (s.doorbell a.val mb size8 upper v.toNat) :=
  congrArg Host.Outcome.next (State.host_of_linked hl hd _)

theorem exec_unsupportedRequest_linked : exec (.unsupportedRequest a) s = .next (s.urSeen a.val) :=
  congrArg Host.Outcome.next (State.host_of_linked hl hd _)

theorem exec_registerReadClear_host {off : Nat} {size8 : Bool} (ha : off % (if size8 then 8 else 4) = 0) (ho : off < 0x800)
    (hr : off / 8 * 8 ≠ 0x068) :
    exec (.registerReadClear (.host a) off size8) s = .next (s.hostRead a.val off (if size8 then 8 else 4)) :=
  congrArg Host.Outcome.next (State.registerRead_host hl hd ha ho hr)

theorem exec_registerWrite_host {off : Nat} (ha : off % 8 = 0) (ho : ownRow off = false) (v : Word) :
    exec (.registerWrite (.host a) off .rw 0 0 true v) s =
      .next (s.withStatus fun s => s.onDev fun d => d.modAtt a.val fun x => x.hgWrite off true v) :=
  congrArg Host.Outcome.next (State.registerWrite_host hl hd ha ho .rw 0 0 v)

end

theorem exec_registerWrite_weCap (s : State) (v : Word) :
    exec (.registerWrite .jormon 0x3000000020000 .rw 0 0 true v) s = .next (s.onPow fun w =>
      { w with capW := if 2500 ≤ v.toNat % 2 ^ 13 ∧ v.toNat % 2 ^ 13 ≤ 7500 then v.toNat % 2 ^ 13 else w.capW }) :=
  congrArg Host.Outcome.next (State.ioWrite_weCap s v)

/-- Settles O44: each request by its rule above. -/
theorem hostRequests : Obligations.HostRequests := by
  unfold Obligations.HostRequests
  intro s a mb hl hd
  refine ⟨fun y hy => ⟨fun off data => ?slots, fun v => ⟨fun hv h1 h2 hs => ?accepted, fun h => ?rejected⟩⟩,
    fun off size8 ha ho hr => ?read, fun v => ⟨?scratch, ?status, ?weCap⟩, ?unsupported⟩
  case slots =>
    exact ⟨_, _, exec_mailboxSlotWrite_linked hl hd mb off data, (State.slotWrite_onlyDev hy off data).mem_eq, State.slotWrite_reach hy off data,
      rfl, rfl, rfl, Mailbox.get_writeFree_page y off data⟩
  case accepted =>
    obtain ⟨z, hz, hprod, hpage, htaken, hfree⟩ := Mailbox.ring_accepts hv h1 h2 hs
    have he := exec_doorbell_linked hl hd mb true false v
    rw [State.doorbell_accepted hy hz] at he
    exact ⟨_, z, he, onlyDev_onDev _ _, State.reach_modMbox hy _, hprod, hpage, htaken, hfree⟩
  case rejected =>
    have he := exec_doorbell_linked hl hd mb true false v
    rw [State.doorbell_rejected hy (Mailbox.ring_rejects h)] at he
    exact ⟨_, he, (State.reach_doorbellReject _ _ _).trans hy, State.attCount_att Att.dbRejects (fun _ _ _ => rfl) s a.val 8 _,
      State.attCount_status s a.val _ (by decide)⟩
  case read =>
    exact ⟨_, exec_registerReadClear_host hl hd ha ho hr, State.hostRead_onlyDev _ _ _ _, State.hostRead_att _ _ _ _,
      fun b hb => State.hostRead_other s hb _ _⟩
  case scratch =>
    exact ⟨_, exec_registerWrite_host hl hd rfl rfl v, State.withStatus_modAtt_onlyDev _ _ _,
      (State.withStatus_modAtt_att Att.scratch (fun _ _ _ => rfl) s a.val _).trans (Att.hgWrite_scratch _ v)⟩
  case status =>
    exact ⟨_, exec_registerWrite_host hl hd rfl rfl v, State.withStatus_modAtt_onlyDev _ _ _,
      (State.withStatus_modAtt_att Att.status (fun _ _ _ => rfl) s a.val _).trans (Att.hgWrite_status _ v)⟩
  case weCap => exact ⟨_, exec_registerWrite_weCap s v, ⟨rfl, rfl, rfl, rfl, rfl⟩, rfl⟩
  case unsupported =>
    exact ⟨_, exec_unsupportedRequest_linked hl hd, State.attCount_onlyDev _ _ _ _,
      State.attCount_att Att.urCount (fun _ _ _ => rfl) s a.val 12 _, State.attCount_status s a.val _ (by decide)⟩

end Sys2Proof.Machine
end

section
/-!
PROOFS. Conversion of a scale group (R46, R47): each element is its rounded integer, held within the range of the format.
-/

namespace Sys2Proof

/-! ### The range of a format (R30, R47). -/

theorem clip_fst (f : Nat) (n : Int) :
    (clip f n).1 = if (qmax f : Int) < n then (qmax f : Int) else if n < -(qmax f : Int) then -(qmax f : Int) else n := by
  unfold clip
  dsimp only
  split
  · rfl
  · split <;> rfl

theorem clip_snd (f : Nat) (n : Int) : (clip f n).2 = decide ((qmax f : Int) < n ∨ n < -(qmax f : Int)) := by
  unfold clip
  dsimp only
  split
  · simp [*]
  · split <;> simp [*]

theorem clip_range (f : Nat) (n : Int) : -(qmax f : Int) ≤ (clip f n).1 ∧ (clip f n).1 ≤ (qmax f : Int) := by
  rw [clip_fst]
  split
  · omega
  · split <;> omega

theorem fmtBits_pos (f : Nat) : 0 < fmtBits f := by
  unfold fmtBits
  split <;> decide

/-- The excluded code of a format is no code of a number within Qmax: the two lie less than 2^b apart. -/
theorem code_ne_excluded {f : Nat} {v : Int} (h1 : -(qmax f : Int) ≤ v) (h2 : v ≤ (qmax f : Int)) :
    code (fmtBits f) v ≠ 2 ^ (fmtBits f - 1) := by
  intro h
  have hw : (2 : Int) ^ fmtBits f = 2 * 2 ^ (fmtBits f - 1) := by
    rw [← pow_succ', Nat.sub_add_cancel (fmtBits_pos f)]
  have hq : (qmax f : Int) = 2 ^ (fmtBits f - 1) - 1 := by simp [qmax]
  have hpos : (0 : Int) < 2 ^ (fmtBits f - 1) := by positivity
  have hmod : v % 2 ^ fmtBits f = 2 ^ (fmtBits f - 1) := by
    rw [← Int.toNat_of_nonneg (Int.emod_nonneg v (by omega)), ← code, h, Nat.cast_pow, Nat.cast_ofNat]
  have hzero : v - 2 ^ (fmtBits f - 1) = 0 :=
    Int.eq_zero_of_abs_lt_dvd (Int.dvd_self_sub_of_emod_eq hmod) (abs_lt.2 ⟨by omega, by omega⟩)
  omega

/-! ### A group element by element (R46 to R48). -/

/-- The rounded integer of element i of a group, before it is held within the range; in stochastic mode it takes the i-th draw from fr on. -/
def rounded (mode : Nat) (e : Int) (fr i : Nat) (x : Num) : Int :=
  roundNum mode x e (if mode = 2 then (Config.draw (fr + i)).toNat else 0)

/-- The elements behind the first take the draws that follow its own. -/
theorem rounded_tail (mode : Nat) (e : Int) (fr i : Nat) (x : Num) :
    rounded mode e (if mode = 2 then fr + 1 else fr) i x = rounded mode e fr (i + 1) x := by
  unfold rounded
  split
  · rw [Nat.add_right_comm, Nat.add_assoc]
  · rfl

theorem roundGroup_cons_fst (f mode : Nat) (e : Int) (x : Num) (t : List Num) (fr : Nat) :
    (roundGroup f mode e (x :: t) fr).1 =
      (clip f (rounded mode e fr 0 x)).1 :: (roundGroup f mode e t (if mode = 2 then fr + 1 else fr)).1 := rfl

theorem roundGroup_cons_sat (f mode : Nat) (e : Int) (x : Num) (t : List Num) (fr : Nat) :
    (roundGroup f mode e (x :: t) fr).2.sat =
      (if (clip f (rounded mode e fr 0 x)).2 then 1 else 0) + (roundGroup f mode e t (if mode = 2 then fr + 1 else fr)).2.sat := rfl

theorem roundGroup_fst (f mode : Nat) (e : Int) (xs : List Num) (fr : Nat) :
    (roundGroup f mode e xs fr).1 = xs.mapIdx fun i x => (clip f (rounded mode e fr i x)).1 := by
  induction xs generalizing fr with
  | nil => rfl
  | cons x t ih => simp only [roundGroup_cons_fst, List.mapIdx_cons, ih, rounded_tail]

theorem roundGroup_sat (f mode : Nat) (e : Int) (xs : List Num) (fr : Nat) :
    (roundGroup f mode e xs fr).2.sat = (xs.zipIdx.filter fun x => (clip f (rounded mode e fr x.2 x.1)).2).length := by
  induction xs generalizing fr with
  | nil => rfl
  | cons x t ih =>
    simp only [roundGroup_cons_sat, ih, rounded_tail, List.zipIdx_cons', List.filter_cons, List.filter_map, Function.comp_def]
    split <;> simp [Nat.add_comm]

theorem mem_roundGroup_range {f mode : Nat} {e : Int} {xs : List Num} {fr : Nat} {v : Int} (h : v ∈ (roundGroup f mode e xs fr).1) :
    -(qmax f : Int) ≤ v ∧ v ≤ (qmax f : Int) := by
  rw [roundGroup_fst, List.mem_mapIdx] at h
  obtain ⟨i, hi, rfl⟩ := h
  exact clip_range f _

/-- Settles O5: each element is its rounded integer held within the range, where the excluded code does not lie. -/
theorem saturatingConversion : Obligations.SaturatingConversion := by
  unfold Obligations.SaturatingConversion
  intro f mode e xs fr _ _
  refine ⟨?length, fun i x hx => ?element, ?count, fun v hv => ?range⟩
  case length => rw [roundGroup_fst, List.length_mapIdx]
  case element => rw [roundGroup_fst, List.getElem?_mapIdx, hx, Option.map_some, clip_fst]; rfl
  case count => simp only [roundGroup_sat, clip_snd]; rfl
  case range =>
    obtain ⟨hlo, hhi⟩ := mem_roundGroup_range hv
    exact ⟨hlo, hhi, code_ne_excluded hlo hhi⟩

end Sys2Proof
end

section
/-!
PROOFS. The E8 of each scale group (R33, R45): of the groups of a line that a command writes, and of the groups of kq.pin.
-/

namespace Sys2Proof

/-! ### The groups of a line (R33, R45). -/

/-- A rounded-up quotient grows by one with each whole divisor. -/
theorem ceilDiv_add_right {n : Nat} (hn : 0 < n) (a : Nat) : ceilDiv (a + n) n = ceilDiv a n + 1 := by
  unfold ceilDiv
  rw [Nat.sub_add_comm (by omega), Nat.add_div_right _ hn]

theorem ceilDiv_eq_one {a n : Nat} (ha : 0 < a) (h : a ≤ n) : ceilDiv a n = 1 :=
  Nat.div_eq_of_lt_le (by omega) (by omega)

theorem ceilDiv_zero {n : Nat} (hn : 0 < n) : ceilDiv 0 n = 0 :=
  Nat.div_eq_of_lt (by omega)

theorem length_chunks {α : Type} {n : Nat} (hn : 0 < n) (fuel : Nat) (l : List α) (h : l.length ≤ fuel) :
    (chunks fuel n l).length = ceilDiv l.length n := by
  induction fuel generalizing l with
  | zero => rw [Nat.le_zero.1 h, ceilDiv_zero hn]; rfl
  | succ fuel ih =>
    cases l with
    | nil => exact (ceilDiv_zero hn).symm
    | cons x t =>
      show (chunks fuel n ((x :: t).drop n)).length + 1 = _
      have hd : ((x :: t).drop n).length = (x :: t).length - n := List.length_drop
      rw [ih _ (by simp at h ⊢; omega), hd]
      rcases Nat.le_total (x :: t).length n with hle | hge
      · rw [Nat.sub_eq_zero_of_le hle, ceilDiv_zero hn, ceilDiv_eq_one (by simp) hle]
      · rw [← ceilDiv_add_right hn, Nat.sub_add_cancel hge]

theorem mem_of_mem_chunks {α : Type} {fuel n : Nat} {l g : List α} {x : α} (hg : g ∈ chunks fuel n l) (hx : x ∈ g) : x ∈ l := by
  induction fuel generalizing l with
  | zero => cases hg
  | succ fuel ih =>
    unfold chunks at hg
    split at hg
    · cases hg
    · rcases List.mem_cons.1 hg with rfl | hg
      · exact List.mem_of_mem_take hx
      · exact List.mem_of_mem_drop (ih hg)

/-- Elements of a scale group of a line of n elements: a block, or the whole line (R33). -/
def groupLen (f n : Nat) : Nat := if fmtBlock f = 0 then n else fmtBlock f

/-- Below KQ32, a format without blocks is a line format (Table 2.1). -/
theorem fmtLine_of_fmtBlock : ∀ f < 9, fmtBlock f = 0 → fmtLine f = true := by decide

/-- Every format but KQ32 and KA96 has its scales on the line: one a block, or one for the line (Table 2.1). -/
theorem lineScales_eq {f n : Nat} (h : fmtOk f = true) (h9 : f ≠ 9) (h10 : f ≠ 10) (hn : 0 < n) :
    lineScales f n = ceilDiv n (groupLen f n) := by
  unfold lineScales groupLen
  by_cases hb : fmtBlock f = 0
  · have hf : f ≤ 10 := of_decide_eq_true h
    rw [if_neg (not_not.2 hb), if_pos (fmtLine_of_fmtBlock f (by omega) hb), if_pos hb, ceilDiv_eq_one hn le_rfl]
  · rw [if_pos hb, if_neg hb]

theorem groupLen_pos {f n : Nat} (hn : 0 < n) : 0 < groupLen f n := by
  unfold groupLen
  split <;> omega

/-- A line's conversion after one more of its groups. -/
def convStep (f : Nat) (c : Conv) (fr : Nat) (r : List Int × Bytes × Cnt) (g : List Num) : List Int × Bytes × Cnt :=
  let o := convGroup f c g (fr + r.2.2.draws)
  (r.1 ++ o.2.1, r.2.1 ++ [o.1], r.2.2.add o.2.2)

/-- The scale bytes of a line are those of its groups, one after the other; those of KQ32 are written elsewhere (R49). -/
theorem writeLine_scales {f : Nat} (h9 : f ≠ 9) (h10 : f ≠ 10) (c : Conv) (xs : List Num) (fr : Nat) :
    (writeLine f c xs fr).2.1 =
      ((chunks xs.length (groupLen f xs.length) xs).foldl (convStep f c fr) (([] : List Int), ([] : Bytes), ({} : Cnt))).2.1 := by
  unfold writeLine
  rw [if_neg h10]
  exact if_neg h9

/-! ### Pinned mode (R45). -/

theorem convGroup_pinned {c : Conv} (hc : c.pinned = true) (f : Nat) {xs : List Num} (hx : ∀ x ∈ xs, x.poison = false) (fr : Nat) :
    (convGroup f c xs fr).1 = c.pe := by
  have hp : ¬ xs.any (fun x => x.poison) = true := by simpa using hx
  unfold convGroup
  rw [if_neg hp, hc]
  exact BitVec.ofInt_toInt

theorem foldl_convStep_pinned {c : Conv} (hc : c.pinned = true) (f fr : Nat) (gs : List (List Num))
    (hg : ∀ g ∈ gs, ∀ x ∈ g, x.poison = false) (r : List Int × Bytes × Cnt) :
    (gs.foldl (convStep f c fr) r).2.1 = r.2.1 ++ List.replicate gs.length c.pe := by
  induction gs generalizing r with
  | nil => exact (List.append_nil _).symm
  | cons g gs ih =>
    have hstep : (convStep f c fr r g).2.1 = r.2.1 ++ [c.pe] :=
      congrArg (fun b => r.2.1 ++ [b]) (convGroup_pinned hc f (hg g List.mem_cons_self) _)
    rw [List.foldl_cons, ih (fun g' h => hg g' (List.mem_cons_of_mem _ h)), hstep, List.append_assoc]
    rfl

theorem writeLine_scales_pinned {f : Nat} {c : Conv} {xs : List Num} (hc : c.pinned = true) (hx : ∀ x ∈ xs, x.poison = false)
    (hf : fmtOk f = true) (h9 : f ≠ 9) (h10 : f ≠ 10) (hne : xs ≠ []) (fr : Nat) :
    (writeLine f c xs fr).2.1 = List.replicate (lineScales f xs.length) c.pe := by
  have hn : 0 < xs.length := List.length_pos_iff.2 hne
  rw [writeLine_scales h9 h10, foldl_convStep_pinned hc f fr _ fun g hg x hxg => hx x (mem_of_mem_chunks hg hxg),
    length_chunks (groupLen_pos hn) _ _ le_rfl, lineScales_eq hf h9 h10 hn]
  rfl

/-! ### Bytes written one after the other. -/

theorem Mem.write_append (m : Mem) (a : Nat) (xs ys : Bytes) :
    Mem.write m a (xs ++ ys) = Mem.write (Mem.write m a xs) (a + xs.length) ys := by
  induction xs generalizing m a with
  | nil => rfl
  | cons b t ih =>
    show Mem.write (Mem.set m a b) (a + 1) (t ++ ys) = Mem.write (Mem.write (Mem.set m a b) (a + 1) t) (a + (b :: t).length) ys
    rw [ih, List.length_cons, Nat.add_right_comm, Nat.add_assoc]

theorem length_leBytes (n v : Nat) : (leBytes n v).length = n := by
  induction n generalizing v with
  | zero => rfl
  | succ n ih => exact congrArg (· + 1) (ih _)

end Sys2Proof

namespace Sys2Proof.Machine

/-! ### Elements of a vector group (R94). -/

theorem Cluster.vfill_concat (c : Cluster) (r w : Nat) (vs : List Nat) (v : Nat) :
    c.vfill r w (vs ++ [v]) = (c.vfill r w vs).vset r w vs.length v := by
  have hold : (List.range vs.length).foldl (fun c k => c.vset r w k ((vs ++ [v]).getD k 0)) c = c.vfill r w vs := by
    refine List.foldl_ext _ _ _ fun c k hk => ?_
    rw [List.getD_append _ _ _ _ (List.mem_range.1 hk)]
  rw [Cluster.vfill, List.length_append, List.length_singleton, List.range_succ, List.foldl_append, hold]
  simp

/-- Elements written one after the other are their bytes written one after the other. -/
theorem Cluster.vfill_v (c : Cluster) (r w : Nat) (vs : List Nat) :
    (c.vfill r w vs).v = Mem.write c.v (128 * r) (vs.flatMap (leBytes w)) := by
  induction vs using List.reverseRecOn with
  | nil => rfl
  | append_singleton vs v ih =>
    have hlen : (vs.flatMap (leBytes w)).length = w * vs.length := by
      simp [List.length_flatMap, length_leBytes, Nat.mul_comm]
    rw [Cluster.vfill_concat, List.flatMap_append, Mem.write_append, hlen, ← ih, List.flatMap_singleton]
    rfl

/-- An element of one byte that was written reads as the low byte of its value. -/
theorem Cluster.vget_vfill_byte (c : Cluster) (r : Nat) {vs : List Nat} {k : Nat} (h : k < vs.length) :
    (c.vfill r 1 vs).vget r 1 k = vs[k] % 256 := by
  have hb : vs.flatMap (leBytes 1) = vs.map (BitVec.ofNat 8) := (List.map_eq_flatMap).symm
  have hget : (c.vfill r 1 vs).vget r 1 k = (Mem.get (c.vfill r 1 vs).v (128 * r + k)).toNat := by
    simp [Cluster.vget, Mem.le, Mem.read, leNat]
  rw [hget, Cluster.vfill_v, hb, Mem.get_write, if_pos (by simp; omega)]
  simp [h]

theorem Cluster.vget_pinAll (c : Cluster) (vd vs2 : Nat) (vm : Bool) {g : Nat} (hg : g < c.groups) :
    (c.pinAll vd vs2 vm).vget vd 1 g = if (c.nums vs2 g vm).any (fun x => x.poison) then 0x80 else c.pe8.toNat := by
  unfold Cluster.pinAll
  rw [Cluster.vget_vfill_byte c vd (by simpa using hg), List.getElem_map, List.getElem_range]
  split
  · rfl
  · exact Nat.mod_eq_of_lt c.pe8.isLt

/-- Settles O4: a pinned group takes the E8 of the control, a line one for each of its groups, and kq.pin writes it for each. -/
theorem pinnedMode : Obligations.PinnedMode := by
  unfold Obligations.PinnedMode
  refine ⟨fun f c xs fr hc hx => ⟨?group, fun hf h9 h10 hne => ?line⟩, fun c vd vs2 vm g hg _ => ?pin⟩
  case group => exact convGroup_pinned hc f hx fr
  case line => exact writeLine_scales_pinned hc hx hf h9 h10 hne fr
  case pin => exact c.vget_pinAll vd.val vs2.val vm hg

end Sys2Proof.Machine
end

section
/-!
PROOFS. Scalar results of kernel code (R113, R117, R122, R126): kq.cnt, kqcvt, and the waits for what is done.
-/

namespace Sys2Proof.Machine

/-! ### Kernel instructions that change their cluster alone. -/

/-- A fetched kernel instruction whose effect touches its cluster alone ends in that effect: no other cluster's trap joins it. -/
theorem kernelStep_only {s : State} {p : Pre} (h : KernelRuns s p) {f : Nat → State → State} {t : State}
    (he : f (clIdx p.cl) (s.taking p) = t) (ho : OnlyCluster (clIdx p.cl) (s.taking p) t) : s.kernelStep p f = t := by
  rw [kernelStep_runs h, he, alsoTraps_only p ho]

/-! ### kqcvt (R122). -/

section
variable {s : State} {i : Nat} {op : CsrOp} {rs1 : Fin 32}
  (hk : csrWrites op rs1 = true → kqcvtOk (csrNew op (s.dev.getCl i).kqcvt ((s.dev.getCl i).csrArg op rs1)) = true)
include hk

/-- A CSR instruction on kqcvt whose value, if it writes one, is legal does not trap. -/
theorem State.kqcvtOp_of_ok (rd : Fin 32) :
    s.kqcvtOp i op rd rs1 = (s.modC i fun c => if csrWrites op rs1 then
      { c with kqcvt := csrNew op (s.dev.getCl i).kqcvt ((s.dev.getCl i).csrArg op rs1) &&& 0xFFFFFFFF000FFFFF } else c).done
        i rd (s.dev.getCl i).kqcvt := by
  refine if_neg ?_
  rintro ⟨hw, hbad⟩
  simp [hk hw] at hbad

theorem State.kqcvtOp_only (rd : Fin 32) : OnlyCluster i s (s.kqcvtOp i op rd rs1) := by
  rw [State.kqcvtOp_of_ok hk]
  exact (onlyCluster_modC _ _ _).trans (done_only _ _ _ _)

theorem State.kqcvtOp_getCl_of_writes (hw : csrWrites op rs1 = true) (rd : Fin 32) :
    (s.kqcvtOp i op rd rs1).dev.getCl i = (({ s.dev.getCl i with
      kqcvt := csrNew op (s.dev.getCl i).kqcvt ((s.dev.getCl i).csrArg op rs1) &&& 0xFFFFFFFF000FFFFF } : Cluster).xset
        rd (s.dev.getCl i).kqcvt).retire := by
  rw [State.kqcvtOp_of_ok hk, done_getCl, modC_getCl, if_pos hw]

theorem State.kqcvtOp_getCl_of_reads (hw : csrWrites op rs1 = false) (rd : Fin 32) :
    (s.kqcvtOp i op rd rs1).dev.getCl i = ((s.dev.getCl i).xset rd (s.dev.getCl i).kqcvt).retire := by
  rw [State.kqcvtOp_of_ok hk, done_getCl, modC_getCl, if_neg (Bool.eq_false_iff.1 hw)]

end

/-! ### The commands, of a kernel whose instruction is fetched. -/

section
variable {s : State} {p : Pre} (h : KernelRuns s p)
include h

theorem exec_kqCnt_runs (rd : Fin 32) (idx : BitVec 12) :
    exec (.kqCnt p rd idx) s = .next ((s.taking p).done (clIdx p.cl) rd
      (BitVec.ofNat 64 (cntValue ((s.taking p).dev.getCl (clIdx p.cl)) idx.toNat))) :=
  congrArg Host.Outcome.next (kernelStep_only h rfl (done_only _ _ _ _))

theorem exec_kqcvtWrite_runs {op : CsrOp} {rs1 : Fin 32}
    (hk : csrWrites op rs1 = true → kqcvtOk (csrNew op ((s.taking p).dev.getCl (clIdx p.cl)).kqcvt
      (((s.taking p).dev.getCl (clIdx p.cl)).csrArg op rs1)) = true) (rd : Fin 32) :
    exec (.kqcvtWrite p op rd rs1) s = .next ((s.taking p).kqcvtOp (clIdx p.cl) op rd rs1) :=
  congrArg Host.Outcome.next (kernelStep_only h rfl (State.kqcvtOp_only hk rd))

/-- A wait for an array operation that is done retires (R113). -/
theorem exec_kqWaitA_done {rs1 : Fin 32} {t : Nat} (ht : (((s.taking p).dev.getCl (clIdx p.cl)).xget rs1).toNat = t)
    (h1 : t ≤ ((s.taking p).dev.getCl (clIdx p.cl)).tickets)
    (h2 : ((s.taking p).dev.getCl (clIdx p.cl)).arrDone t = true) :
    exec (.kqWaitA p rs1) s = .next ((s.taking p).retire (clIdx p.cl)) := by
  refine congrArg Host.Outcome.next (kernelStep_only h ?_ (retire_only _ _))
  simp only [ht, h2, Nat.not_lt.2 h1, if_true, if_false]

/-- A wait for a mover request that is complete, and that lost no merge partner, retires (R117). -/
theorem exec_kqWaitM_done {rs1 : Fin 32} {t : Nat} (ht : (((s.taking p).dev.getCl (clIdx p.cl)).xget rs1).toNat = t)
    (h1 : t ≤ ((s.taking p).dev.getCl (clIdx p.cl)).tags)
    (h2 : ((s.taking p).dev.getCl (clIdx p.cl)).lost t = false)
    (h3 : (((s.taking p).dev.getCl (clIdx p.cl)).movs.all fun r => t < r.tag) = true) :
    exec (.kqWaitM p rs1) s = .next ((s.taking p).retire (clIdx p.cl)) := by
  refine congrArg Host.Outcome.next (kernelStep_only h ?_ (retire_only _ _))
  simp only [ht, h2, h3, Nat.not_lt.2 h1, if_true, if_false, Bool.false_eq_true]

end

/-- Settles O6: each instruction by its rule above. -/
theorem kernelScalarResults : Obligations.KernelScalarResults := by
  unfold Obligations.KernelScalarResults
  intro s p rd rs1 h i u c
  refine ⟨fun idx => ?count, fun op => ?kqcvt, fun h1 h2 => ?waitA, fun h1 h2 h3 => ?waitM⟩
  case count => exact ⟨_, exec_kqCnt_runs h rd idx, done_getCl _ _ _ _, done_only _ _ _ _⟩
  case kqcvt =>
    intro new hk
    exact ⟨_, exec_kqcvtWrite_runs h hk rd, State.kqcvtOp_only hk rd, fun hw => State.kqcvtOp_getCl_of_writes hk hw rd,
      fun hw => State.kqcvtOp_getCl_of_reads hk hw rd⟩
  case waitA => exact ⟨_, exec_kqWaitA_done h rfl h1 h2, retire_getCl _ _, retire_only _ _⟩
  case waitM => exact ⟨_, exec_kqWaitM_done h rfl h1 h2 h3, retire_getCl _ _, retire_only _ _⟩

end Sys2Proof.Machine
end

section
/-!
PROOFS. The matrix array (R61, R82 to R88, R91, R113): an operation of a cluster's queue starts, runs out its cycles and leaves; what a weight load leaves
in the registers, what a spill writes to the cup, and the steps of the activity level.
-/

namespace Sys2Proof

/-! ### Tables and bytes written piece by piece. -/

theorem Map.find_append {α : Type} (l m : List (Nat × α)) (k : Nat) : Map.find (l ++ m) k = (Map.find l k).or (Map.find m k) := by
  induction l with
  | nil => rfl
  | cons e t ih =>
    obtain ⟨a, v⟩ := e
    simp only [List.cons_append, Map.find]
    split
    · rfl
    · exact ih

/-- A table of n numbers from a on. -/
theorem Map.find_run {α : Type} (a n : Nat) (f : Nat → α) (k : Nat) :
    Map.find ((List.range n).map fun i => (a + i, f i)) k = if a ≤ k ∧ k < a + n then some (f (k - a)) else none := by
  induction n with
  | zero => rw [if_neg (by omega)]; rfl
  | succ n ih =>
    rw [List.range_succ, List.map_append, Map.find_append, ih, List.map_singleton]
    simp only [Map.find]
    by_cases hk : a + n = k
    · rw [if_neg (by omega), if_pos hk, if_pos (by omega), ← hk, Nat.add_sub_cancel_left]
      rfl
    · rw [if_neg hk, Option.or_none]
      exact if_congr (by omega) rfl rfl

theorem Mem.read_write_self (m : Mem) (a : Nat) (bs : Bytes) : Mem.read (Mem.write m a bs) a bs.length = bs := by
  refine List.ext_getElem (by simp [Mem.read]) fun k _ hk => ?_
  simp only [Mem.read, List.getElem_map, List.getElem_range]
  rw [Mem.get_write, if_pos (by omega), Nat.add_sub_cancel_left, List.getD_eq_getElem _ _ hk]

theorem Mem.read_write_other (m : Mem) {a n x : Nat} {bs : Bytes} (h : x + n ≤ a ∨ a + bs.length ≤ x) :
    Mem.read (Mem.write m a bs) x n = Mem.read m x n := by
  refine List.map_congr_left fun k hk => Mem.get_write_other _ _ _ _ ?_
  have := List.mem_range.1 hk
  omega

theorem length_flatMap_range {w : Nat} {g : Nat → Bytes} (hg : ∀ i, (g i).length = w) (n : Nat) :
    ((List.range n).flatMap g).length = w * n := by
  simp [List.length_flatMap, hg, Nat.mul_comm]

/-- Of blocks of w bytes that are written one after the other each is read where it stands. -/
theorem Mem.read_write_blocks {w : Nat} {g : Nat → Bytes} (hg : ∀ i, (g i).length = w) (m : Mem) (a : Nat) {n i : Nat} (hi : i < n) :
    Mem.read (Mem.write m a ((List.range n).flatMap g)) (a + w * i) w = g i := by
  induction n with
  | zero => omega
  | succ n ih =>
    rw [List.range_succ, List.flatMap_append, Mem.write_append, length_flatMap_range hg, List.flatMap_singleton]
    rcases Nat.lt_succ_iff_lt_or_eq.1 hi with h | rfl
    · have hle : w * i + w ≤ w * n := Nat.mul_succ w i ▸ Nat.mul_le_mul_left w h
      rw [Mem.read_write_other _ (.inl (by omega)), ih h]
    · conv_lhs => rw [← hg i]
      exact Mem.read_write_self _ _ _

end Sys2Proof

namespace Sys2Proof.Machine

/-! ### Operations that start, and that have nothing left to do (R88, R113). -/

theorem State.startArr_eq {s : State} {i ticket : Nat} {o : ArrOp} (ho : ((s.dev.getCl i).arrq.find? fun x => x.ticket = ticket) = some o)
    (hc : (s.dev.getCl i).canStart o = true) (us : List Upset) :
    s.startArr i ticket us = s.modC i fun c => us.foldl Cluster.strike (c.begun ticket us) := by
  simp [State.startArr, ho, hc]

theorem mem_of_find_ticket {l : List ArrOp} {o : ArrOp} {ticket : Nat} (h : (l.find? fun x => x.ticket = ticket) = some o) :
    o ∈ l ∧ o.ticket = ticket :=
  ⟨List.mem_of_find?_eq_some h, by simpa using List.find?_some h⟩

theorem State.runOut_of_stuck {s : State} {i ticket : Nat} (fuel : Nat)
    (h : ∀ o ∈ (s.dev.getCl i).arrq, o.ticket = ticket → (s.dev.getCl i).canStep o = false) : s.runOut fuel i ticket = s := by
  cases fuel with
  | zero => rfl
  | succ fuel =>
    unfold State.runOut
    dsimp only
    split
    · rfl
    · rename_i o ho
      obtain ⟨hmem, hticket⟩ := mem_of_find_ticket ho
      rw [if_neg (by simp [h o hmem hticket])]

theorem Cluster.canStep_eq_false {c : Cluster} {o : ArrOp} (h : o.started = true → c.through o = true) : c.canStep o = false := by
  unfold Cluster.canStep
  cases hs : o.started
  · rfl
  · simp [h hs]

/-- Where the started operations up to a ticket are through, nothing is left to catch up. -/
theorem State.catchUp_of_through {s : State} {i ticket : Nat}
    (h : ∀ x ∈ (s.dev.getCl i).arrq, x.started = true → x.ticket ≤ ticket → (s.dev.getCl i).through x = true) : s.catchUp i ticket = s := by
  unfold State.catchUp
  dsimp only
  refine List.foldlRecOn (motive := fun t => t = s) _ _ rfl fun t ht o ho => ?_
  subst ht
  obtain ⟨_, hsel⟩ := List.mem_filter.1 ho
  have hle : o.ticket ≤ ticket := by simpa using (Bool.and_eq_true_iff.1 hsel).2
  exact State.runOut_of_stuck _ fun x hx hxt => Cluster.canStep_eq_false fun hs => h x hx hs (hxt ▸ hle)

theorem State.wakeArr_of_free {s : State} {i : Nat} (h : (s.dev.getCl i).stall = .none) : s.wakeArr i = s := by
  simp [State.wakeArr, h]

/-- A started operation that is through after the catch-up leaves the queue; no core waits for it. -/
theorem State.finishArr_of_through {s t : State} {i ticket : Nat} {o : ArrOp} (ht : s.catchUp i ticket = t)
    (ho : ((t.dev.getCl i).arrq.find? fun x => x.ticket = ticket) = some o) (hs : o.started = true)
    (hthr : (t.dev.getCl i).through o = true) (hw : (t.dev.getCl i).stall = .none) :
    s.finishArr i ticket = (t.modC i fun c => { c with arrq := c.arrq.filter fun x => x.ticket ≠ ticket }).progressed (i / 20) := by
  unfold State.finishArr
  simp only [ht, ho, hs, hthr, Bool.not_true, Bool.false_eq_true, or_self, if_false]
  exact State.wakeArr_of_free (by rw [progressed_getCl, modC_getCl]; exact hw)

/-! ### An operation that is alone in the queue runs out its cycles (log 2). -/

/-- The queue holds one operation, which has run j cycles, and the core does not wait for the array. -/
def Cluster.Alone (c : Cluster) (o : ArrOp) (j : Nat) : Prop := c.arrq = [{ o with pos := j }] ∧ c.stall = .none

theorem Cluster.before_alone {c : Cluster} {o : ArrOp} (h : c.arrq = [o]) : c.before o = [] := by
  simp [Cluster.before, h]

/-- Nothing holds back a load, a drain or a reload that is alone. -/
theorem Cluster.opReady_alone {c : Cluster} {o : ArrOp} (h : c.arrq = [o]) (hk : o.kind.cls ≠ some 0) : c.opReady o = true := by
  unfold Cluster.opReady
  rw [Cluster.before_alone h]
  cases hkind : o.kind <;> simp_all [ArrKind.cls]

theorem Cluster.owe_eq (c : Cluster) (k : Option Nat) (n : Nat) : c.owe k n = { c with owed := (c.owe k n).owed } := by
  unfold Cluster.owe
  split
  · split <;> rfl
  · rfl

/-- A started operation that takes a number of array cycles, each of them without a fault; Q says what the cluster is after j of them. -/
structure ArrOp.Runs (o : ArrOp) (span : Nat) (Q : Nat → Cluster → Prop) : Prop where
  started : o.started = true
  noStream : o.kind.cls ≠ some 0
  cycles : ∀ wf, o.kind.span wf = span
  step : ∀ j c fr, j < span → c.Alone o j → Q j c → (c.opStep { o with pos := j } fr).fault = none ∧
    (c.opStep { o with pos := j } fr).c.Alone o (j + 1) ∧ Q (j + 1) (c.opStep { o with pos := j } fr).c
  owe : ∀ j c w, Q j c → Q j { c with owed := w }

section
variable {i span : Nat} {o : ArrOp} {Q : Nat → Cluster → Prop} (h : o.Runs span Q)
include h

/-- A cycle of an operation alone, and what it owes. -/
theorem State.arrStep_alone {s : State} {j : Nat} (hj : j < span) (ha : (s.dev.getCl i).Alone o j) (hq : Q j (s.dev.getCl i)) :
    let t := (s.arrStep i o.ticket).modC i fun c => c.owe o.kind.cls 1
    (s.dev.getCl i).canStep { o with pos := j } = true ∧ OnlyCluster i s t ∧ (t.dev.getCl i).Alone o (j + 1) ∧ Q (j + 1) (t.dev.getCl i) := by
  intro t
  obtain ⟨hq1, hst⟩ := ha
  have hcan : (s.dev.getCl i).canStep { o with pos := j } = true := by
    rw [Cluster.canStep, Cluster.opReady_alone hq1 h.noStream]
    simp [Cluster.through, h.started, h.cycles, hj]
  obtain ⟨hf, ⟨hq1', hst'⟩, hq'⟩ := h.step j _ s.dev.free hj ⟨hq1, hst⟩ hq
  have hfind : ((s.dev.getCl i).arrq.find? fun x => x.ticket = o.ticket) = some { o with pos := j } := by simp [hq1]
  have hstep' : s.arrStep i o.ticket = (s.modC i fun _ => ((s.dev.getCl i).opStep { o with pos := j } s.dev.free).c).took
      ((s.dev.getCl i).opStep { o with pos := j } s.dev.free).draws := by
    unfold State.arrStep
    dsimp only
    rw [hfind]
    dsimp only
    rw [hcan, hf]
    rfl
  have hget : t.dev.getCl i = ((s.dev.getCl i).opStep { o with pos := j } s.dev.free).c.owe o.kind.cls 1 := by
    simp only [t, hstep', modC_getCl, State.took_getCl]
  refine ⟨hcan, ?_, ?_, ?_⟩
  · simp only [t, hstep']
    exact ((onlyCluster_modC _ _ _).trans (onlyCluster_took _ _ _)).trans (onlyCluster_modC _ _ _)
  · rw [hget, Cluster.owe_eq]
    exact ⟨hq1', hst'⟩
  · rw [hget, Cluster.owe_eq]
    exact h.owe _ _ _ hq'

/-- It runs to its end. -/
theorem State.runOut_alone (fuel : Nat) : ∀ (s : State) (j : Nat), j + fuel = span → (s.dev.getCl i).Alone o j → Q j (s.dev.getCl i) →
    OnlyCluster i s (s.runOut fuel i o.ticket) ∧ ((s.runOut fuel i o.ticket).dev.getCl i).Alone o span ∧
      Q span ((s.runOut fuel i o.ticket).dev.getCl i) := by
  induction fuel with
  | zero =>
    rintro s j rfl ha hq
    exact ⟨OnlyCluster.refl _ _, ha, hq⟩
  | succ fuel ih =>
    intro s j hj ha hq
    obtain ⟨hcan, honly, ha', hq'⟩ := State.arrStep_alone h (by omega) ha hq
    obtain ⟨honly', hend⟩ := ih _ (j + 1) (by omega) ha' hq'
    have hrun : s.runOut (fuel + 1) i o.ticket =
        State.runOut fuel ((s.arrStep i o.ticket).modC i fun c => c.owe o.kind.cls 1) i o.ticket := by
      conv_lhs => unfold State.runOut
      simp [ha.1, hcan]
    rw [hrun]
    exact ⟨honly.trans honly', hend⟩

/-- It finishes when it is told to: its cycles have run, and the queue is empty. -/
theorem State.finishArr_alone {s : State} (ha : (s.dev.getCl i).Alone o 0) (hq : Q 0 (s.dev.getCl i)) :
    OnlyCluster i s (s.finishArr i o.ticket) ∧
      ∃ c, Q span c ∧ (s.finishArr i o.ticket).dev.getCl i = { c with arrq := [] } := by
  obtain ⟨honly, ⟨hq1, hst⟩, hend⟩ := State.runOut_alone h span s 0 (by omega) ha hq
  have hcatch : s.catchUp i o.ticket = s.runOut span i o.ticket := by
    simp [State.catchUp, ha.1, h.started, h.cycles]
  rw [State.finishArr_of_through (o := { o with pos := span }) hcatch (by simp [hq1]) h.started
    (by simp [Cluster.through, h.cycles]) hst]
  refine ⟨honly.trans ((onlyCluster_modC _ _ _).trans (onlyCluster_progressed _ _)), _, hend, ?_⟩
  rw [progressed_getCl, modC_getCl]
  simp [hq1]

end

/-! ### A weight load (R81, R82). -/

/-- The PE word of a row and column of a weight image (Table 4.3). -/
def loadWord (cup : Mem) (base f r col : Nat) : BitVec 32 := BitVec.ofNat 32 (Mem.le cup (base + 256 * r + col * peBytes f) (peBytes f))

/-- The PE words of a row of the registers, by number. -/
def loadTable (cup : Mem) (base f r : Nat) : List (Nat × BitVec 32) := (List.range 64).map fun col => (64 * r + col, loadWord cup base f r col)

/-- A row of a load changes the weight registers alone: the first empties them, one that the image holds adds its words. -/
theorem Cluster.loadRow_eq (c : Cluster) (base rows f r : Nat) : ∃ exps res, c.loadRow base rows f r = { c with
    wFmt := if r = 0 then f else c.wFmt
    wRows := if r = 0 then rows else c.wRows
    wExp := exps
    wRes := res
    wWord := (if r = 0 then [] else c.wWord) ++ if rows ≤ r then [] else loadTable c.cup base f r } := by
  unfold Cluster.loadRow loadTable
  dsimp only
  by_cases h0 : r = 0
  · by_cases hr : rows ≤ r
    · simp only [if_pos h0, if_pos hr, List.append_nil]
      exact ⟨_, _, rfl⟩
    · simp only [if_pos h0, if_neg hr, List.nil_append]
      exact ⟨_, _, rfl⟩
  · by_cases hr : rows ≤ r
    · simp only [if_neg h0, if_pos hr, List.append_nil]
      exact ⟨_, _, rfl⟩
    · simp only [if_neg h0, if_neg hr]
      exact ⟨_, _, rfl⟩

/-- A weight load after j of its rows: the words of the rows read so far stand in the registers, and no later one. -/
structure Cluster.Loaded (c : Cluster) (cup : Mem) (base rows f j : Nat) : Prop where
  cup_eq : c.cup = cup
  wFmt_eq : 0 < j → c.wFmt = f
  wRows_eq : 0 < j → c.wRows = rows
  word : ∀ r col, r < j → r < rows → col < 64 → Map.find c.wWord (64 * r + col) = some (loadWord cup base f r col)
  later : 0 < j → ∀ k, 64 * j ≤ k → Map.find c.wWord k = none

theorem Cluster.Loaded.congr {c d : Cluster} {cup : Mem} {base rows f j : Nat} (h : c.Loaded cup base rows f j) (hc : d.cup = c.cup)
    (hf : d.wFmt = c.wFmt) (hr : d.wRows = c.wRows) (hw : d.wWord = c.wWord) : d.Loaded cup base rows f j := by
  obtain ⟨h1, h2, h3, h4, h5⟩ := h
  exact ⟨hc.trans h1, fun h => hf.trans (h2 h), fun h => hr.trans (h3 h), by rwa [hw], by rwa [hw]⟩

theorem find_loadTable (cup : Mem) (base f r k : Nat) :
    Map.find (loadTable cup base f r) k = if 64 * r ≤ k ∧ k < 64 * r + 64 then some (loadWord cup base f r (k - 64 * r)) else none :=
  Map.find_run _ _ _ _

/-- A row adds its words to those of the rows before it. -/
theorem find_word_append {w : List (Nat × BitVec 32)} {cup : Mem} {base rows f j : Nat}
    (hw : ∀ r col, r < j → r < rows → col < 64 → Map.find w (64 * r + col) = some (loadWord cup base f r col))
    (hl : ∀ k, 64 * j ≤ k → Map.find w k = none) :
    let w' := w ++ if rows ≤ j then [] else loadTable cup base f j
    (∀ r col, r < j + 1 → r < rows → col < 64 → Map.find w' (64 * r + col) = some (loadWord cup base f r col)) ∧
      ∀ k, 64 * (j + 1) ≤ k → Map.find w' k = none := by
  intro w'
  refine ⟨fun r col hr hrow hc => ?_, fun k hk => ?_⟩
  · rw [Map.find_append]
    rcases Nat.lt_succ_iff_lt_or_eq.1 hr with h | rfl
    · rw [hw r col h hrow hc]
      rfl
    · rw [hl _ (by omega), if_neg (by omega), find_loadTable, if_pos (by omega), Nat.add_sub_cancel_left]
      rfl
  · rw [Map.find_append, hl k (by omega)]
    split
    · rfl
    · rw [find_loadTable, if_neg (by omega)]
      rfl

theorem Cluster.Loaded.loadRow {c : Cluster} {cup : Mem} {base rows f j : Nat} (h : c.Loaded cup base rows f j) :
    (c.loadRow base rows f j).Loaded cup base rows f (j + 1) := by
  obtain ⟨exps, res, heq⟩ := c.loadRow_eq base rows f j
  obtain ⟨hword, hlater⟩ := find_word_append (w := if j = 0 then [] else c.wWord) (j := j) (cup := cup) (base := base) (rows := rows) (f := f)
    (fun r col hr hrow hc => by rw [if_neg (by omega)]; exact h.word r col hr hrow hc)
    (fun k hk => by
      split
      · rfl
      · exact h.later (by omega) k hk)
  rw [heq, h.cup_eq]
  refine ⟨rfl, fun _ => ?_, fun _ => ?_, hword, fun _ => hlater⟩
  · split
    · rfl
    · exact h.wFmt_eq (by omega)
  · split
    · rfl
    · exact h.wRows_eq (by omega)

/-- What a cycle of a load leaves where nothing strikes the operation. -/
theorem Cluster.opStep_load {c : Cluster} {o : ArrOp} {base rows f : Nat} (hk : o.kind = .load base rows f) (hu : o.upsets = []) (fr : Nat) :
    c.opStep o fr = { c := { (if o.pos = 63 then ({ c.loadRow base rows f o.pos with level := 64 } : Cluster).addCnt
        (c.loadRow base rows f o.pos).loadCount else c.loadRow base rows f o.pos) with
      arrq := c.arrq.map fun x => if x.ticket = o.ticket then { x with pos := x.pos + 1 } else x } } := by
  obtain ⟨_, _, heq⟩ := c.loadRow_eq base rows f o.pos
  have hq : (c.loadRow base rows f o.pos).arrq = c.arrq := by rw [heq]
  unfold Cluster.opStep
  rw [hk, hu]
  dsimp only
  split <;> rw [← hq] <;> rfl

/-- A load that is alone runs its 64 cycles and leaves its image in the registers. -/
theorem runs_load {o : ArrOp} {base rows f : Nat} (hs : o.started = true) (hk : o.kind = .load base rows f) (hu : o.upsets = []) (cup : Mem) :
    o.Runs 64 fun j c => c.Loaded cup base rows f j ∧ (j = 64 → c.level = 64) where
  started := hs
  noStream := by simp [hk, ArrKind.cls]
  cycles _ := by rw [hk]; rfl
  owe _ _ _ h := ⟨h.1.congr rfl rfl rfl rfl, h.2⟩
  step j c fr hj ha hq := by
    obtain ⟨_, _, heq⟩ := c.loadRow_eq base rows f j
    have hl := hq.1.loadRow
    have hst : (c.loadRow base rows f j).stall = .none := by rw [heq]; exact ha.2
    rw [Cluster.opStep_load (o := { o with pos := j }) hk hu]
    refine ⟨rfl, ⟨by simp [ha.1], ?_⟩, ?_, ?_⟩
    · dsimp only
      split <;> exact hst
    · dsimp only
      split <;> exact hl.congr rfl rfl rfl rfl
    · intro h
      dsimp only
      rw [if_pos (by omega)]
      rfl

/-- A weight load that is alone finishes: the registers hold the image, row by row, and the level stands at 64 (R82, R91). -/
theorem finishArr_load {s : State} {i : Nat} {o : ArrOp} {base rows f : Nat} (hs : o.started = true) (hk : o.kind = .load base rows f)
    (hu : o.upsets = []) (ha : (s.dev.getCl i).Alone o 0) (hrows : 1 ≤ rows ∧ rows ≤ 64) :
    OnlyCluster i s (s.finishArr i o.ticket) ∧
      let c := (s.finishArr i o.ticket).dev.getCl i
      c.arrq = [] ∧ c.wFmt = f ∧ c.wRows = rows ∧ c.level = 64 ∧ c.cup = (s.dev.getCl i).cup ∧
      ∀ r col, r < rows → col < 64 → Map.get c.wWord (64 * r + col) 0 = loadWord (s.dev.getCl i).cup base f r col := by
  have hfirst : (s.dev.getCl i).Loaded (s.dev.getCl i).cup base rows f 0 :=
    ⟨rfl, fun h => absurd h (by omega), fun h => absurd h (by omega), fun _ _ h => absurd h (by omega), fun h => absurd h (by omega)⟩
  obtain ⟨honly, c, ⟨hload, hlevel⟩, hget⟩ := State.finishArr_alone (runs_load hs hk hu _) ha ⟨hfirst, fun h => absurd h (by omega)⟩
  obtain ⟨hcup, hfmt, hnrows, hword, _⟩ := hload
  refine ⟨honly, ?_⟩
  rw [hget]
  refine ⟨rfl, hfmt (by omega), hnrows (by omega), hlevel rfl, hcup, fun r col hr hc => ?_⟩
  simp only [Map.get, hword r col (by omega) hr hc, Option.getD_some]

/-! ### A spill into KA96 (R61, R86). -/

/-- An accumulator as a spill writes it: A, w and the flags as they stand. -/
def spillBytes (x : Num) : Bytes :=
  leBytes 12 (code 96 x.m) ++ leBytes 2 (code 16 x.e) ++ [BitVec.ofNat 8 ((if x.sticky then 1 else 0) + if x.poison then 2 else 0), 0]

/-- The bytes of a row of the bank. -/
def Cluster.spillRow (c : Cluster) (row : Nat) : Bytes := (List.range 64).flatMap fun col => spillBytes (c.acc (64 * row + col)).num

/-- The cup after some rows of a spill. -/
def Cluster.spilled (c : Cluster) (eb es q rows : Nat) : Mem :=
  (List.range rows).foldl (fun cup k => Mem.write cup (eb + k * es) (c.spillRow (q + k))) c.cup

theorem length_spillBytes (x : Num) : (spillBytes x).length = 16 := by
  simp [spillBytes, length_leBytes]

theorem Cluster.length_spillRow (c : Cluster) (row : Nat) : (c.spillRow row).length = 1024 :=
  length_flatMap_range (w := 16) (fun _ => length_spillBytes _) 64

theorem Cluster.spilled_succ (c : Cluster) (eb es q rows : Nat) :
    c.spilled eb es q (rows + 1) = Mem.write (c.spilled eb es q rows) (eb + rows * es) (c.spillRow (q + rows)) := by
  simp only [Cluster.spilled, List.range_succ, List.foldl_append, List.foldl_cons, List.foldl_nil]

/-- No row overwrites an earlier one: each accumulator reads as it was spilled. -/
theorem Cluster.read_spilled (c : Cluster) {eb es q rows k col : Nat} (hes : 1024 ≤ es) (hk : k < rows) (hc : col < 64) :
    Mem.read (c.spilled eb es q rows) (eb + k * es + 16 * col) 16 = spillBytes (c.acc (64 * (q + k) + col)).num := by
  induction rows with
  | zero => omega
  | succ rows ih =>
    rw [Cluster.spilled_succ]
    rcases Nat.lt_succ_iff_lt_or_eq.1 hk with h | rfl
    · have hle : k * es + es ≤ rows * es := Nat.succ_mul k es ▸ Nat.mul_le_mul_right es h
      rw [Mem.read_write_other _ (.inl (by omega)), ih h]
    · exact Mem.read_write_blocks (fun _ => length_spillBytes _) _ _ hc

theorem Cluster.get_spilled_other (c : Cluster) {eb es q rows a : Nat} (h : ∀ k, k < rows → a < eb + k * es ∨ eb + k * es + 1024 ≤ a) :
    Mem.get (c.spilled eb es q rows) a = Mem.get c.cup a := by
  induction rows with
  | zero => rfl
  | succ rows ih =>
    have ha := h rows (by omega)
    rw [Cluster.spilled_succ, Mem.get_write_other _ _ _ _ (by rw [Cluster.length_spillRow]; omega), ih fun k hk => h k (by omega)]

/-- A row of a spill whose parity holds is written to the cup, and nothing else changes but counts. -/
theorem Cluster.drainRow_ka96 {c : Cluster} {q k : Nat} (hok : ∀ col, col < 64 → (c.entry (64 * (q + k) + col)).ok = true)
    (eb es xb xs conv fr : Nat) : ∃ n, c.drainRow eb es xb xs q 10 conv k fr =
      { c := ({ c with cup := Mem.write c.cup (eb + k * es) (c.spillRow (q + k)) } : Cluster).addCnt n } := by
  have hany : ¬ ((List.range 64).map fun col => c.entry (64 * (q + k) + col)).any (fun e => !e.ok) = true := by
    simpa using hok
  unfold Cluster.drainRow
  dsimp only
  rw [if_neg hany, if_pos rfl, List.map_map, List.flatMap_map]
  exact ⟨_, rfl⟩

/-- A spill after j of its cycles: the bank as it was, and a row in the cup for each four cycles. -/
structure Cluster.Spilled (c d : Cluster) (eb es q j : Nat) : Prop where
  bank_eq : d.bank = c.bank
  open_eq : d.bankOpen = c.bankOpen
  cup_eq : d.cup = c.spilled eb es q ((j + 3) / 4)

theorem Cluster.entry_congr {c d : Cluster} (hb : d.bank = c.bank) (ho : d.bankOpen = c.bankOpen) (k : Nat) : d.entry k = c.entry k := by
  unfold Cluster.entry
  rw [hb, ho]

theorem Cluster.spillRow_congr {c d : Cluster} (hb : d.bank = c.bank) (ho : d.bankOpen = c.bankOpen) (row : Nat) : d.spillRow row = c.spillRow row := by
  unfold Cluster.spillRow Cluster.acc
  simp only [Cluster.entry_congr hb ho]

/-- What a cycle of a spill leaves where nothing strikes the operation: every fourth writes a row. -/
theorem Cluster.opStep_spill {c : Cluster} {o : ArrOp} {eb es xb xs n q conv : Nat} (hk : o.kind = .drain eb es xb xs n q 10 conv)
    (hu : o.upsets = []) (hok : ∀ col, col < 64 → (c.entry (64 * (q + o.pos / 4) + col)).ok = true) (fr : Nat) :
    ∃ counts draws, c.opStep o fr = { c := { c with
      cup := if o.pos % 4 = 0 then Mem.write c.cup (eb + o.pos / 4 * es) (c.spillRow (q + o.pos / 4)) else c.cup
      counts := counts, draws := draws
      arrq := c.arrq.map fun x => if x.ticket = o.ticket then { x with pos := x.pos + 1 } else x } } := by
  unfold Cluster.opStep
  rw [hk, hu]
  simp only [ArrKind.cadence, if_true]
  split
  · obtain ⟨n, hn⟩ := Cluster.drainRow_ka96 hok eb es xb xs conv fr
    rw [hn]
    dsimp only [Cluster.addCnt]
    exact ⟨_, _, rfl⟩
  · exact ⟨_, _, rfl⟩

/-- A spill that is alone, of rows whose parity holds, runs four cycles a row. -/
theorem runs_spill {o : ArrOp} {c : Cluster} {eb es xb xs n q conv : Nat} (hs : o.started = true)
    (hk : o.kind = .drain eb es xb xs n q 10 conv) (hu : o.upsets = []) (hok : ∀ k, k < 64 * n → (c.entry (64 * q + k)).ok = true) :
    o.Runs (n * 4) fun j d => c.Spilled d eb es q j where
  started := hs
  noStream := by simp [hk, ArrKind.cls]
  cycles _ := by rw [hk]; rfl
  owe _ _ _ h := ⟨h.1, h.2, h.3⟩
  step j d fr hj ha hq := by
    obtain ⟨hbank, hopen, hcup⟩ := hq
    have hrow : ∀ col, col < 64 → (d.entry (64 * (q + j / 4) + col)).ok = true := fun col hc => by
      rw [Cluster.entry_congr hbank hopen, Nat.mul_add, Nat.add_assoc]
      exact hok _ (by omega)
    obtain ⟨counts, draws, heq⟩ := Cluster.opStep_spill (o := { o with pos := j }) hk hu hrow fr
    rw [heq]
    refine ⟨rfl, ⟨by simp [ha.1], ha.2⟩, hbank, hopen, ?_⟩
    dsimp only
    rw [Cluster.spillRow_congr hbank hopen, hcup]
    split
    · have h1 : (j + 3) / 4 = j / 4 := by omega
      have h2 : (j + 1 + 3) / 4 = j / 4 + 1 := by omega
      rw [h1, h2, Cluster.spilled_succ]
    · have h1 : (j + 1 + 3) / 4 = (j + 3) / 4 := by omega
      rw [h1]

/-- A spill that is alone, of rows whose parity holds, finishes: the bank is as it was, each accumulator stands in the cup, and no other byte of
the cup has changed. -/
theorem finishArr_spill {s : State} {i : Nat} {o : ArrOp} {eb es xb xs n q conv : Nat} (hs : o.started = true)
    (hk : o.kind = .drain eb es xb xs n q 10 conv) (hu : o.upsets = []) (ha : (s.dev.getCl i).Alone o 0)
    (hok : ∀ k, k < 64 * n → ((s.dev.getCl i).entry (64 * q + k)).ok = true) :
    OnlyCluster i s (s.finishArr i o.ticket) ∧ ((s.finishArr i o.ticket).dev.getCl i).arrq = [] ∧
      ((s.finishArr i o.ticket).dev.getCl i).bank = (s.dev.getCl i).bank ∧
      ((s.finishArr i o.ticket).dev.getCl i).cup = (s.dev.getCl i).spilled eb es q n := by
  obtain ⟨honly, c, ⟨hbank, _, hcup⟩, hget⟩ := State.finishArr_alone (runs_spill hs hk hu hok) ha ⟨rfl, rfl, rfl⟩
  have hn : (n * 4 + 3) / 4 = n := by omega
  rw [hget]
  exact ⟨honly, rfl, hbank, hn ▸ hcup⟩

/-! ### The activity level (R91, Table 4.7). -/

theorem Cluster.ramp_cup (c : Cluster) : c.ramp.cup = c.cup := by
  unfold Cluster.ramp
  split
  · rfl
  · split
    · split
      · rw [Cluster.owe_eq]
      · rfl
    · split
      · rfl
      · split <;> rfl

theorem Cluster.ramp_of_loading {c : Cluster} (h : c.loading = true) : c.ramp.level = min 64 (c.level + 8) := by
  simp [Cluster.ramp, h]

theorem Cluster.ramp_of_rampDue {c : Cluster} (hl : c.loading = false) (hr : c.rampDue = true) (h : c.level < 64) :
    c.ramp.level = min 64 (c.level + 8) := by
  simp only [Cluster.ramp, hl, hr, h, if_true, Bool.false_eq_true, if_false]
  rw [Cluster.owe_eq]

theorem Cluster.ramp_falls {c : Cluster} (hl : c.loading = false) (hr : c.rampDue = false) (h : 8 < c.level)
    (hi : 4 * ((64 - c.level) / 8 + 1) ≤ c.idle) : c.ramp.level = c.level - 8 := by
  simp [Cluster.ramp, hl, hr, h, hi]

theorem Cluster.ramp_ends {c : Cluster} (hl : c.loading = false) (hr : c.rampDue = false) (h : c.level ≤ 8) (hi : 64 ≤ c.idle) :
    c.ramp.level = 0 := by
  unfold Cluster.ramp
  rw [if_neg (by simp [hl]), if_neg (by simp [hr]), if_neg (by omega)]
  split
  · rfl
  · omega

/-- Settles O11: each command by its rule above. -/
theorem arrayRun : Obligations.ArrayRun := by
  unfold Obligations.ArrayRun
  intro s cl ticket o i c
  refine ⟨fun ho hc us => ?start, fun ho hs hst hthr => ?through, fun hq ht hs hp hu hst => ?alone, ?ramp⟩
  case start =>
    have he : exec (.arrayOperationStart cl ticket us) s = .next (s.startArr i ticket us) := rfl
    rw [he, State.startArr_eq ho hc]
    exact ⟨_, rfl, onlyCluster_modC _ _ _, modC_getCl _ _ _⟩
  case through =>
    have he : exec (.arrayOperationDone cl ticket) s = .next (s.finishArr i ticket) := rfl
    obtain ⟨hmem, hticket⟩ := mem_of_find_ticket ho
    rw [he, State.finishArr_of_through (State.catchUp_of_through hthr) ho hs (hthr o hmem hs hticket.le) hst]
    exact ⟨_, rfl, (onlyCluster_modC _ _ _).trans (onlyCluster_progressed _ _), by rw [progressed_getCl, modC_getCl]⟩
  case alone =>
    subst ht
    have he : exec (.arrayOperationDone cl o.ticket) s = .next (s.finishArr i o.ticket) := rfl
    have ha : c.Alone o 0 := ⟨by rw [hq, ← hp], hst⟩
    refine ⟨fun base rows f hk h1 h64 => ?load, fun eb es xb xs n q conv hk hes hok => ?spill⟩
    case load =>
      obtain ⟨honly, harr, hfmt, hrows, hlevel, hcup, hword⟩ := finishArr_load hs hk hu ha ⟨h1, h64⟩
      exact ⟨_, he, honly, harr, hfmt, hrows, hlevel, hcup, hword⟩
    case spill =>
      obtain ⟨honly, harr, hbank, hcup⟩ := finishArr_spill hs hk hu ha hok
      refine ⟨_, he, honly, harr, hbank, ?_⟩
      rw [hcup]
      exact ⟨fun k col hk hc => c.read_spilled hes hk hc, fun a h => c.get_spilled_other h⟩
  case ramp =>
    refine ⟨_, rfl, onlyCluster_modC _ _ _, ?_⟩
    rw [modC_getCl]
    exact ⟨c.ramp_cup, Cluster.ramp_of_loading, Cluster.ramp_of_rampDue, Cluster.ramp_falls, Cluster.ramp_ends⟩

end Sys2Proof.Machine
end

section
/-!
PROOFS. Writes of a part by virtual address (R135, R233, R255, R259): one granule lies at one place, and each byte that is sent stands in the write of
the line that its address reaches.
-/

namespace Sys2Proof.Machine

/-! ### A granule lies at one place (R255, R259). -/

theorem bits_congr {v w : Nat} (h : v / granule = w / granule) (hi : Nat) {lo : Nat} (hlo : 16 ≤ lo) : bits v hi lo = bits w hi lo := by
  have hshift (x : Nat) : x >>> lo = x / granule / 2 ^ (lo - 16) := by
    rw [Nat.shiftRight_eq_div_pow, Nat.div_div_eq_div_mul]
    congr 1
    rw [show granule = 2 ^ 16 from rfl, ← pow_add, Nat.add_sub_cancel' hlo]
  unfold bits
  rw [hshift, hshift, h]

theorem Dev.windowOk_congr (d : Dev) (pt n : Nat) {a b : Nat} (h : a / granule = b / granule) : d.windowOk pt n a = d.windowOk pt n b := by
  unfold Dev.windowOk
  rw [bits_congr h 40 (by omega), bits_congr h 37 (by omega)]

theorem RangeEntry.covers_iff (e : RangeEntry) (a : Nat) : e.covers a = true ↔ e.va ≤ a / granule ∧ a / granule < e.va + e.granules := by
  have hg : 0 < granule := by decide
  rw [RangeEntry.covers, Bool.and_eq_true, decide_eq_true_iff, decide_eq_true_iff, Nat.le_div_iff_mul_le hg, Nat.div_lt_iff_lt_mul hg]

theorem RangeEntry.covers_congr (e : RangeEntry) {a b : Nat} (h : a / granule = b / granule) : e.covers a = e.covers b :=
  Bool.eq_iff_iff.2 (by rw [RangeEntry.covers_iff, RangeEntry.covers_iff, h])

theorem Ctx.entry_congr (c : Ctx) {a b : Nat} (h : a / granule = b / granule) : c.entry a = c.entry b := by
  unfold Ctx.entry
  simp only [RangeEntry.covers_congr _ h]

theorem Ctx.covers_of_entry {c : Ctx} {e : RangeEntry} {a : Nat} (h : c.entry a = some e) : e.covers a = true := by
  obtain ⟨r, hr, rfl⟩ := Option.map_eq_some_iff.1 h
  simpa using List.find?_some hr

/-- Two numbers of one granule are as far apart as their offsets in it. -/
theorem mod_granule_add {x y : Nat} (h : x / granule = y / granule) : y % granule + x = x % granule + y := by
  have hx := Nat.div_add_mod x granule
  have hy := Nat.div_add_mod y granule
  rw [h] at hx
  omega

theorem sub_div_granule {v a b : Nat} (h : a / granule = b / granule) : (a - v * granule) / granule = (b - v * granule) / granule := by
  rw [Nat.mul_comm, Nat.sub_mul_div, Nat.sub_mul_div, h]

/-- A granule of an object lies at one place. -/
theorem Obj.place_granule {o : Obj} {pt num ctx uid : Nat} {pinned write : Bool} {x y p : Nat} (h : x / granule = y / granule)
    (hp : o.place pt num ctx uid pinned write x = .phys p) : ∃ q, o.place pt num ctx uid pinned write y = .phys q ∧ q + x = p + y := by
  have hmod := mod_granule_add h
  unfold Obj.place at hp ⊢
  rw [← h]
  dsimp only at hp ⊢
  split at hp
  · cases hp
  rename_i hready
  rw [if_neg hready]
  split at hp
  · rename_i hshadow
    rw [if_pos hshadow]
    split at hp
    · split at hp
      · cases hp
      · rename_i hown
        rw [if_neg hown]
        split at hp <;> cases hp
        exact ⟨_, rfl, by omega⟩
    · cases hp
  · rename_i hshadow
    rw [if_neg hshadow]
    split at hp <;> cases hp
    exact ⟨_, rfl, by omega⟩

/-- An entry sends the addresses of a granule to one place, each at its offset. -/
theorem Dev.through_granule {d : Dev} {e : RangeEntry} {pt ctx uid quad : Nat} {pinned : Nat → Bool} {write : Bool} {a b p : Nat}
    (hc : e.covers a = true) (h : a / granule = b / granule) (hp : d.through e pt ctx uid quad pinned write a = .phys p) :
    ∃ q, d.through e pt ctx uid quad pinned write b = .phys q ∧ q + a = p + b := by
  have hg : granule = 65536 := rfl
  obtain ⟨hlo, _⟩ := (RangeEntry.covers_iff e a).1 hc
  have ha : e.va * granule ≤ a := (Nat.le_div_iff_mul_le (by decide)).1 hlo
  have hb : e.va * granule ≤ b := (Nat.le_div_iff_mul_le (by decide)).1 (h ▸ hlo)
  have hoff := sub_div_granule (v := e.va) h
  unfold Dev.through at hp ⊢
  dsimp only at hp ⊢
  split at hp
  · cases hp
    exact ⟨_, rfl, by omega⟩
  · have hpa : (e.target % 2 ^ 34 * granule + (a - e.va * granule)) / granule =
        (e.target % 2 ^ 34 * granule + (b - e.va * granule)) / granule := by
      rw [Nat.mul_comm, Nat.mul_add_div (by decide), Nat.mul_add_div (by decide), hoff]
    rw [← bits_congr hpa 40 (by omega), ← Dev.windowOk_congr d pt _ hpa]
    split at hp <;> cases hp
    rename_i hok
    rw [if_pos hok]
    exact ⟨_, rfl, by omega⟩
  · split at hp
    · obtain ⟨q, hq, hadd⟩ := Obj.place_granule hoff hp
      exact ⟨q, hq, by omega⟩
    · cases hp

/-- A part reaches the bytes of a granule at one place, each at its offset. -/
theorem Dev.place_granule {d : Dev} {uid access a b p : Nat} (hp : d.place uid access a = .phys p) (h : a / granule = b / granule) :
    ∃ q, d.place uid access b = .phys q ∧ q + a = p + b := by
  unfold Dev.place at hp ⊢
  split at hp
  · cases hp
  rename_i x hpart
  split at hp
  · cases hp
  rename_i c hctx
  rw [← c.entry_congr h]
  split at hp
  · cases hp
  rename_i e he
  unfold Dev.runPlace at hp ⊢
  simp only [hpart, hctx] at hp ⊢
  split at hp
  · rename_i hallows
    rw [if_pos hallows]
    exact Dev.through_granule (Ctx.covers_of_entry he) h hp
  · cases hp

/-! ### Bytes as writes of lines (R135, R233). -/

theorem getLsbD_maskOf (off n : Nat) {i : Nat} (hi : i < 128) : (maskOf off n).getLsbD i = decide (off ≤ i ∧ i < off + n) := by
  rw [maskOf, BitVec.getLsbD_ofNat, Nat.testBit_mul_two_pow, Nat.testBit_two_pow_sub_one]
  simp only [hi, decide_true, Bool.true_and, ← Bool.decide_and]
  exact decide_eq_decide.2 (by omega)

/-- A line's write carries a byte to an address. -/
def Carries (w : Nat × BitVec 128 × Bytes) (a : Nat) (b : Byte) : Prop :=
  w.1 = a / 128 ∧ w.2.1.getLsbD (a % 128) = true ∧ w.2.2.getD (a % 128) 0 = b

theorem lineSplit_succ {bs : Bytes} (h : bs ≠ []) (fuel a : Nat) :
    lineSplit (fuel + 1) a bs =
      (a / 128, maskOf (a % 128) (min (128 - a % 128) bs.length), List.replicate (a % 128) 0 ++ bs.take (min (128 - a % 128) bs.length) ++
        List.replicate (128 - a % 128 - min (128 - a % 128) bs.length) 0) ::
      lineSplit fuel (a + min (128 - a % 128) bs.length) (bs.drop (min (128 - a % 128) bs.length)) := by
  conv_lhs => unfold lineSplit
  rw [if_neg (by simpa using h)]

theorem getD_drop {bs : Bytes} {n k : Nat} (h : n ≤ k) : (bs.drop n).getD (k - n) 0 = bs.getD k 0 := by
  rw [List.getD, List.getElem?_drop, Nat.add_sub_cancel' h, List.getD]

/-- Every byte is carried to its address. -/
theorem lineSplit_carries (fuel : Nat) : ∀ (a : Nat) (bs : Bytes), bs.length < fuel → ∀ k, k < bs.length →
    ∃ w ∈ lineSplit fuel a bs, Carries w (a + k) (bs.getD k 0) := by
  induction fuel with
  | zero => exact fun _ _ h => absurd h (Nat.not_lt_zero _)
  | succ fuel ih =>
    intro a bs hf k hk
    have hne : bs ≠ [] := List.ne_nil_of_length_pos (by omega)
    rw [lineSplit_succ hne]
    generalize hn : min (128 - a % 128) bs.length = n
    rcases Nat.lt_or_ge k n with hkn | hkn
    · refine ⟨_, List.mem_cons_self, ?_⟩
      have hmod : (a + k) % 128 = a % 128 + k := by omega
      refine ⟨(by omega : a / 128 = (a + k) / 128), ?_, ?_⟩
      · rw [hmod, getLsbD_maskOf _ _ (by omega)]
        exact decide_eq_true (by omega)
      · rw [hmod, List.append_assoc, List.getD_append_right _ _ _ _ (by simp), List.length_replicate, Nat.add_sub_cancel_left,
          List.getD_append _ _ _ _ (by simp; omega)]
        simp [List.getD, hkn]
    · obtain ⟨w, hw, hc⟩ := ih (a + n) (bs.drop n) (by simp; omega) (k - n) (by simp; omega)
      refine ⟨w, List.mem_cons_of_mem _ hw, ?_⟩
      rwa [Nat.add_assoc, Nat.add_sub_cancel' hkn, getD_drop hkn] at hc

/-- Nothing else is written. -/
theorem lineSplit_within (fuel : Nat) : ∀ (a : Nat) (bs : Bytes), ∀ w ∈ lineSplit fuel a bs, ∀ i, i < 128 → w.2.1.getLsbD i = true →
    ∃ k, k < bs.length ∧ a + k = 128 * w.1 + i := by
  induction fuel with
  | zero => exact fun _ _ _ h => absurd h List.not_mem_nil
  | succ fuel ih =>
    intro a bs w hw i hi hm
    by_cases hne : bs = []
    · simp [lineSplit, hne] at hw
    rw [lineSplit_succ hne] at hw
    generalize hn : min (128 - a % 128) bs.length = n at hw
    rcases List.mem_cons.1 hw with rfl | hw
    · rw [getLsbD_maskOf _ _ hi, decide_eq_true_iff] at hm
      exact ⟨i - a % 128, by omega, by dsimp only; omega⟩
    · obtain ⟨k, hk, heq⟩ := ih _ _ w hw i hi hm
      rw [List.length_drop] at hk
      exact ⟨n + k, by omega, by omega⟩

/-! ### Bytes by virtual address (R135, R259). -/

/-- Bytes that stay within a granule, at the place where a part's write reaches it. -/
def Dev.vpiece (d : Dev) (uid va : Nat) (bs : Bytes) : List (Nat × Bytes) :=
  match d.place uid 1 va with | .phys pa => [(pa, bs)] | _ => []

theorem Dev.mem_vpiece {d : Dev} {uid va : Nat} {bs : Bytes} {x : Nat × Bytes} :
    x ∈ d.vpiece uid va bs ↔ d.place uid 1 va = .phys x.1 ∧ x.2 = bs := by
  unfold Dev.vpiece
  split
  · rename_i pa hp
    rw [hp, Place.phys.injEq, List.mem_singleton, Prod.ext_iff]
    exact and_congr_left fun _ => eq_comm
  · rename_i hp
    exact ⟨fun h => absurd h List.not_mem_nil, fun h => (hp _ h.1).elim⟩

theorem Dev.vpieces_succ {bs : Bytes} (h : bs ≠ []) (d : Dev) (fuel uid va : Nat) :
    d.vpieces (fuel + 1) uid va bs = d.vpiece uid va (bs.take (min (granule - va % granule) bs.length)) ++
      d.vpieces fuel uid (va + min (granule - va % granule) bs.length) (bs.drop (min (granule - va % granule) bs.length)) := by
  conv_lhs => unfold Dev.vpieces
  rw [if_neg (by simpa using h)]
  dsimp only [Dev.vpiece]
  cases d.place uid 1 va <;> rfl

theorem div_granule_add {va k : Nat} (h : k < granule - va % granule) : (va + k) / granule = va / granule := by
  have hg : granule = 65536 := rfl
  rw [hg] at h ⊢
  omega

/-- Every byte that a part's write reaches lies in a piece. -/
theorem Dev.vpieces_reach (d : Dev) (uid : Nat) (fuel : Nat) : ∀ (va : Nat) (bs : Bytes), bs.length < fuel → ∀ k pa, k < bs.length →
    d.place uid 1 (va + k) = .phys pa → ∃ x ∈ d.vpieces fuel uid va bs, ∃ j, j < x.2.length ∧ x.1 + j = pa ∧ x.2.getD j 0 = bs.getD k 0 := by
  induction fuel with
  | zero => exact fun _ _ h => absurd h (Nat.not_lt_zero _)
  | succ fuel ih =>
    intro va bs hf k pa hk hp
    have hne : bs ≠ [] := List.ne_nil_of_length_pos (by omega)
    have hroom : 0 < granule - va % granule := Nat.sub_pos_of_lt (Nat.mod_lt _ (by decide))
    rw [Dev.vpieces_succ hne]
    generalize hn : min (granule - va % granule) bs.length = n
    rcases Nat.lt_or_ge k n with hkn | hkn
    · obtain ⟨q, hq, hadd⟩ := Dev.place_granule hp (div_granule_add (by omega))
      refine ⟨(q, bs.take n), List.mem_append_left _ (Dev.mem_vpiece.2 ⟨hq, rfl⟩), k, by simp; omega, by dsimp only; omega, ?_⟩
      simp [List.getD, hkn]
    · have hk' : va + n + (k - n) = va + k := by omega
      obtain ⟨x, hx, j, hj, hpa, hb⟩ := ih (va + n) (bs.drop n) (by simp; omega) (k - n) pa (by simp; omega) (by rw [hk', hp])
      exact ⟨x, List.mem_append_right _ hx, j, hj, hpa, hb.trans (getD_drop hkn)⟩

/-- Every byte of a piece lies where the part's write reaches it. -/
theorem Dev.vpieces_within (d : Dev) (uid : Nat) (fuel : Nat) : ∀ (va : Nat) (bs : Bytes), ∀ x ∈ d.vpieces fuel uid va bs, ∀ j, j < x.2.length →
    ∃ k, k < bs.length ∧ d.place uid 1 (va + k) = .phys (x.1 + j) := by
  induction fuel with
  | zero => exact fun _ _ _ h => absurd h List.not_mem_nil
  | succ fuel ih =>
    intro va bs x hx j hj
    by_cases hne : bs = []
    · simp [Dev.vpieces, hne] at hx
    rw [Dev.vpieces_succ hne] at hx
    generalize hn : min (granule - va % granule) bs.length = n at hx
    rcases List.mem_append.1 hx with hx | hx
    · obtain ⟨hp, hb⟩ := Dev.mem_vpiece.1 hx
      rw [hb, List.length_take] at hj
      obtain ⟨q, hq, hadd⟩ := Dev.place_granule hp (div_granule_add (k := j) (by omega)).symm
      have hq' : q = x.1 + j := by omega
      exact ⟨j, by omega, hq' ▸ hq⟩
    · obtain ⟨k, hk, hp⟩ := ih _ _ x hx j hj
      rw [List.length_drop] at hk
      exact ⟨n + k, by omega, by rwa [← Nat.add_assoc]⟩

/-- Every byte that a part's write reaches is carried to its place. -/
theorem Dev.vlines_carries {d : Dev} {uid va : Nat} {bs : Bytes} {k pa : Nat} (hk : k < bs.length) (hp : d.place uid 1 (va + k) = .phys pa) :
    ∃ w ∈ d.vlines uid va bs, Carries w pa (bs.getD k 0) := by
  obtain ⟨x, hx, j, hj, rfl, hb⟩ := d.vpieces_reach uid _ va bs (Nat.lt_succ_self _) k pa hk hp
  obtain ⟨w, hw, hc⟩ := lineSplit_carries _ x.1 x.2 (Nat.lt_succ_self _) j hj
  exact ⟨w, List.mem_flatMap.2 ⟨x, hx, hw⟩, hb ▸ hc⟩

/-- Every byte that a part's write carries is one of its own, at the place that it reaches. -/
theorem Dev.vlines_within {d : Dev} {uid va : Nat} {bs : Bytes} {w : Nat × BitVec 128 × Bytes} (hw : w ∈ d.vlines uid va bs) {i : Nat} (hi : i < 128)
    (hm : w.2.1.getLsbD i = true) : ∃ k, k < bs.length ∧ d.place uid 1 (va + k) = .phys (128 * w.1 + i) := by
  obtain ⟨x, hx, hw⟩ := List.mem_flatMap.1 hw
  obtain ⟨j, hj, heq⟩ := lineSplit_within _ _ _ w hw i hi hm
  obtain ⟨k, hk, hp⟩ := d.vpieces_within uid _ va bs x hx j hj
  exact ⟨k, hk, heq ▸ hp⟩

end Sys2Proof.Machine
end

section
/-!
PROOFS. A part at its outputs (R134, R135, R172, R174): what stays alike while it computes and sends, so that it reaches the same places; that its bytes
are on their way to those places and to nowhere else; and that it has then computed.
-/

namespace Sys2Proof.Machine

/-! ### Where a part reaches stays alike (R255, R259, R263). -/

/-- What of a part decides which addresses it reaches, and whether it executes. -/
def Part.core (p : Part) : Nat × EngId × List Nat × PartStage := (p.ctx, p.eng, p.pins, p.stage)

/-- What of a context decides which addresses its parts reach. -/
def Ctx.core (c : Ctx) : Nat × List RangeRow := (c.pt, c.ranges)

/-- A data path in which a part reaches the same addresses, and no other part differs. -/
structure Dev.Alike (uid : Nat) (d e : Dev) : Prop where
  others : ∀ u, u ≠ uid → e.getPart u = d.getPart u
  part : (e.getPart uid).map Part.core = (d.getPart uid).map Part.core
  ctx : ∀ n, (e.getCtx n).map Ctx.core = (d.getCtx n).map Ctx.core
  windows : e.windows = d.windows
  partns : e.partns = d.partns
  free : d.free ≤ e.free

section
variable (uid : Nat) (d : Dev)

theorem Dev.Alike.refl : d.Alike uid d := ⟨fun _ _ => rfl, rfl, fun _ => rfl, rfl, rfl, le_rfl⟩

variable {uid d}

theorem Dev.Alike.trans {e f : Dev} (h : d.Alike uid e) (k : e.Alike uid f) : d.Alike uid f where
  others u hu := (k.others u hu).trans (h.others u hu)
  part := k.part.trans h.part
  ctx n := (k.ctx n).trans (h.ctx n)
  windows := k.windows.trans h.windows
  partns := k.partns.trans h.partns
  free := h.free.trans k.free

variable (uid d)

theorem Dev.alike_modPart {f : Part → Part} (hf : ∀ p, (f p).core = p.core) : d.Alike uid (d.modPart uid f) where
  others u hu := by rw [Dev.getPart_modPart, if_neg (Ne.symm hu)]
  part := by rw [Dev.getPart_modPart, if_pos rfl, Option.map_map]; congr 1; exact funext hf
  ctx _ := rfl
  windows := rfl
  partns := rfl
  free := le_rfl

theorem Dev.alike_modCtx (n : Nat) {f : Ctx → Ctx} (hf : ∀ c, (f c).core = c.core) : d.Alike uid (d.modCtx n f) where
  others _ _ := rfl
  part := rfl
  ctx m := by
    rw [Dev.getCtx_modCtx]
    split
    · rw [Option.map_map]; congr 1; exact funext hf
    · rfl
  windows := rfl
  partns := rfl
  free := le_rfl

theorem Dev.alike_modEng (e : Nat) (f : Engine → Engine) : d.Alike uid (d.modEng e f) := ⟨fun _ _ => rfl, rfl, fun _ => rfl, rfl, rfl, le_rfl⟩

theorem Dev.alike_modAtt (a : Nat) (f : Att → Att) : d.Alike uid (d.modAtt a f) := ⟨fun _ _ => rfl, rfl, fun _ => rfl, rfl, rfl, le_rfl⟩

theorem Dev.alike_free (n : Nat) : d.Alike uid { d with free := d.free + n } :=
  ⟨fun _ _ => rfl, rfl, fun _ => rfl, rfl, rfl, Nat.le_add_right _ _⟩

theorem Dev.alike_wrote (line : Nat) (mask : BitVec 128) : d.Alike uid (d.wrote uid line mask) := by
  unfold Dev.wrote
  split
  · exact .refl uid d
  · exact ((Dev.alike_modEng uid d _ _).trans (Dev.alike_modPart uid _ (by intro; rfl))).trans (Dev.alike_modCtx uid _ _ (by intro; rfl))

end

theorem Dev.through_congr {d e : Dev} (hw : e.windows = d.windows) (hp : e.partns = d.partns) (r : RangeEntry) (pt ctx uid quad : Nat)
    (pinned : Nat → Bool) (write : Bool) (va : Nat) :
    e.through r pt ctx uid quad pinned write va = d.through r pt ctx uid quad pinned write va := by
  unfold Dev.through Dev.windowOk Dev.getObj Dev.getPt
  rw [hw, hp]

theorem Ctx.entry_of_core {c c' : Ctx} (h : c'.core = c.core) (va : Nat) : c'.entry va = c.entry va := by
  obtain ⟨_, hr⟩ := Prod.mk.inj h
  unfold Ctx.entry
  rw [hr]

/-- What an entry leads to, for a part that is known. -/
theorem Dev.runPlace_of_some {d : Dev} {uid : Nat} {p : Part} {c : Ctx} (hp : d.getPart uid = some p) (hc : d.getCtx p.ctx = some c)
    (e : RangeEntry) (access va : Nat) : d.runPlace e uid access va =
      if e.allows access then d.through e c.pt p.ctx uid (p.eng.t.val / 4) (fun o => has p.pins o) (access = 1 || access = 3) va else .denied := by
  unfold Dev.runPlace
  simp only [hp, hc]

theorem Dev.Alike.place {uid : Nat} {d e : Dev} (h : d.Alike uid e) (access va : Nat) : e.place uid access va = d.place uid access va := by
  have hpart := h.part
  unfold Dev.place
  cases hd : d.getPart uid with
  | none =>
    rw [hd, Option.map_none, Option.map_eq_none_iff] at hpart
    rw [hpart]
  | some p =>
    rw [hd, Option.map_some, Option.map_eq_some_iff] at hpart
    obtain ⟨q, hq, hcore⟩ := hpart
    have hctx := h.ctx p.ctx
    simp only [Part.core, Prod.mk.injEq] at hcore
    obtain ⟨hc, he, hpins, _⟩ := hcore
    simp only [hq, hc]
    cases hdc : d.getCtx p.ctx with
    | none =>
      rw [hdc, Option.map_none, Option.map_eq_none_iff] at hctx
      rw [hctx]
    | some c =>
      rw [hdc, Option.map_some, Option.map_eq_some_iff] at hctx
      obtain ⟨c', hc', hccore⟩ := hctx
      obtain ⟨hpt, _⟩ := Prod.mk.inj hccore
      simp only [hc', Ctx.entry_of_core hccore]
      split
      · rfl
      · rw [Dev.runPlace_of_some hq (hc ▸ hc'), Dev.runPlace_of_some hd hdc, hc, he, hpins, hpt, Dev.through_congr h.windows h.partns]

/-! ### Bytes on their way (R135). -/

/-- An address lies in one of some extents. -/
def Covered (outs : List (Nat × Nat)) (a : Nat) : Prop := ∃ x ∈ outs, ∃ k, k < x.2 ∧ x.1 + k = a

/-- A part has sent bytes: nothing differs but what it keeps and what it counts, no byte of memory has changed, and every byte that is newly on its way
lies within given extents. -/
structure State.Sending (s : State) (uid : Nat) (outs : List (Nat × Nat)) (t : State) : Prop where
  pending : t.pending = s.pending
  time : t.time = s.time
  pow : t.pow = s.pow
  mgmt : t.mgmt = s.mgmt
  bytes : t.mem.bytes = s.mem.bytes
  poison : t.mem.poison = s.mem.poison
  alike : s.dev.Alike uid t.dev
  flight : ∃ ws, t.mem.flight = s.mem.flight ++ ws ∧ ∀ w ∈ ws, w.from' = .part uid ∧
    ∀ i, i < 128 → w.mask.getLsbD i = true → ∃ x ∈ outs, ∃ k, k < x.2 ∧ s.dev.place uid 1 (x.1 + k) = .phys (128 * w.line + i)

section
variable {uid : Nat} {outs : List (Nat × Nat)}

theorem State.sending_onDev {s : State} {f : Dev → Dev} (h : s.dev.Alike uid (f s.dev)) : s.Sending uid outs (s.onDev f) :=
  ⟨rfl, rfl, rfl, rfl, rfl, rfl, h, [], (List.append_nil _).symm, fun _ h => absurd h List.not_mem_nil⟩

theorem State.Sending.refl (s : State) : s.Sending uid outs s := State.sending_onDev (f := id) (.refl uid s.dev)

theorem State.Sending.trans {s t u : State} (h : s.Sending uid outs t) (k : t.Sending uid outs u) : s.Sending uid outs u where
  pending := k.pending.trans h.pending
  time := k.time.trans h.time
  pow := k.pow.trans h.pow
  mgmt := k.mgmt.trans h.mgmt
  bytes := k.bytes.trans h.bytes
  poison := k.poison.trans h.poison
  alike := h.alike.trans k.alike
  flight := by
    obtain ⟨ws, hws, hin⟩ := h.flight
    obtain ⟨vs, hvs, hin'⟩ := k.flight
    refine ⟨ws ++ vs, by rw [hvs, hws, List.append_assoc], fun w hw => ?_⟩
    rcases List.mem_append.1 hw with hw | hw
    · exact hin w hw
    · simpa only [h.alike.place] using hin' w hw

theorem State.sending_took (s : State) (n : Nat) : s.Sending uid outs (s.took n) := State.sending_onDev (Dev.alike_free uid s.dev n)

theorem State.sending_modPart (s : State) {f : Part → Part} (hf : ∀ p, (f p).core = p.core) :
    s.Sending uid outs (s.onDev fun d => d.modPart uid f) := State.sending_onDev (Dev.alike_modPart uid s.dev hf)

theorem State.sending_foldl {α : Type} {s : State} {f : State → α → State} {l : List α}
    (hf : ∀ t, ∀ x ∈ l, s.Sending uid outs t → s.Sending uid outs (f t x)) : s.Sending uid outs (l.foldl f s) :=
  List.foldlRecOn l f (.refl s) fun t ht x hx => hf t x hx ht

/-- What was on its way stays on its way. -/
theorem Sent.sending {s t u : State} {va : Nat} {bs : Bytes} (h : Sent s t uid va bs) (k : t.Sending uid outs u) : Sent s u uid va bs := by
  intro i pa hi hp
  obtain ⟨w, hw, hcarry⟩ := h i pa hi hp
  obtain ⟨ws, hws, _⟩ := k.flight
  exact ⟨w, hws ▸ List.mem_append_left _ hw, hcarry⟩

/-- The addresses of a part lead where they led before. -/
theorem Sent.of_alike {s s' t : State} {va : Nat} {bs : Bytes} (h : Sent s' t uid va bs) (k : s.dev.Alike uid s'.dev) : Sent s t uid va bs :=
  fun i pa hi hp => h i pa hi (by rwa [k.place])

/-- A part puts one line's write on its way. -/
def State.postLine (s : State) (uid ctx gen : Nat) (w : Nat × BitVec 128 × Bytes) : State :=
  (s.onMem fun m => m.issue (.part uid) ctx gen w.1 w.2.1 w.2.2).onDev fun d => d.wrote uid w.1 w.2.1

theorem State.vsend_eq {s : State} {p : Part} (hp : s.dev.getPart uid = some p) (va : Nat) (bs : Bytes) :
    ∃ gen, s.vsend uid va bs = (s.dev.vlines uid va bs).foldl (fun s w => s.postLine uid p.ctx gen w) s := by
  unfold State.vsend
  rw [hp]
  exact ⟨_, rfl⟩

/-- Each line's write joins those on their way, and nothing else of memory differs. -/
theorem State.postLines_flight (ctx gen : Nat) (l : List (Nat × BitVec 128 × Bytes)) (s : State) :
    ∃ ws, (l.foldl (fun s w => s.postLine uid ctx gen w) s).mem.flight = s.mem.flight ++ ws ∧
      (∀ x ∈ ws, x.from' = .part uid ∧ (x.line, x.mask, x.data) ∈ l) ∧ ∀ w ∈ l, ∃ x ∈ ws, x.from' = .part uid ∧ (x.line, x.mask, x.data) = w := by
  induction l generalizing s with
  | nil => exact ⟨[], (List.append_nil _).symm, fun _ h => absurd h List.not_mem_nil, fun _ h => absurd h List.not_mem_nil⟩
  | cons w l ih =>
    obtain ⟨ws, hws, hin, hall⟩ := ih (s.postLine uid ctx gen w)
    refine ⟨{ id := s.mem.nextId, from' := .part uid, ctx := ctx, gen := gen, line := w.1, mask := w.2.1, data := w.2.2 } :: ws, ?_,
      List.forall_mem_cons.2 ⟨⟨rfl, List.mem_cons_self⟩, fun x hx => ?_⟩, List.forall_mem_cons.2 ⟨⟨_, List.mem_cons_self, rfl, rfl⟩, fun v hv => ?_⟩⟩
    · rw [List.foldl_cons, hws]
      exact List.append_assoc _ _ _
    · obtain ⟨hfrom, hmem⟩ := hin x hx
      exact ⟨hfrom, List.mem_cons_of_mem _ hmem⟩
    · obtain ⟨x, hx, hw⟩ := hall v hv
      exact ⟨x, List.mem_cons_of_mem _ hx, hw⟩

/-- What writes of lines change beside those on their way. -/
theorem State.postLines_frame (ctx gen : Nat) (l : List (Nat × BitVec 128 × Bytes)) (s : State) :
    let t := l.foldl (fun s w => s.postLine uid ctx gen w) s
    t.pending = s.pending ∧ t.time = s.time ∧ t.pow = s.pow ∧ t.mgmt = s.mgmt ∧ t.mem.bytes = s.mem.bytes ∧ t.mem.poison = s.mem.poison ∧
      s.dev.Alike uid t.dev := by
  refine List.foldlRecOn (motive := fun t : State => t.pending = s.pending ∧ t.time = s.time ∧ t.pow = s.pow ∧ t.mgmt = s.mgmt ∧
    t.mem.bytes = s.mem.bytes ∧ t.mem.poison = s.mem.poison ∧ s.dev.Alike uid t.dev) l _ ⟨rfl, rfl, rfl, rfl, rfl, rfl, .refl uid _⟩ ?_
  rintro t ⟨h1, h2, h3, h4, h5, h6, h7⟩ w _
  exact ⟨h1, h2, h3, h4, h5, h6, h7.trans (Dev.alike_wrote uid _ _ _)⟩

/-- Bytes sent within some extents. -/
theorem State.sending_vsend (s : State) {va : Nat} {bs : Bytes} (h : ∀ k, k < bs.length → Covered outs (va + k)) :
    s.Sending uid outs (s.vsend uid va bs) := by
  cases hp : s.dev.getPart uid with
  | none =>
    unfold State.vsend
    rw [hp]
    exact .refl s
  | some p =>
    obtain ⟨gen, heq⟩ := State.vsend_eq hp va bs
    rw [heq]
    obtain ⟨h1, h2, h3, h4, h5, h6, h7⟩ := State.postLines_frame (uid := uid) p.ctx gen (s.dev.vlines uid va bs) s
    obtain ⟨ws, hws, hin, _⟩ := State.postLines_flight (uid := uid) p.ctx gen (s.dev.vlines uid va bs) s
    refine ⟨h1, h2, h3, h4, h5, h6, h7, ws, hws, fun w hw => ?_⟩
    obtain ⟨hfrom, hmem⟩ := hin w hw
    refine ⟨hfrom, fun i hi hm => ?_⟩
    obtain ⟨k, hk, hplace⟩ := Dev.vlines_within hmem hi hm
    obtain ⟨x, hx, j, hj, hadd⟩ := h k hk
    exact ⟨x, hx, j, hj, hadd ▸ hplace⟩

theorem State.sent_vsend {s : State} {p : Part} (hp : s.dev.getPart uid = some p) (va : Nat) (bs : Bytes) :
    Sent s (s.vsend uid va bs) uid va bs := by
  intro k pa hk hplace
  obtain ⟨gen, heq⟩ := State.vsend_eq hp va bs
  obtain ⟨ws, hws, _, hall⟩ := State.postLines_flight (uid := uid) p.ctx gen (s.dev.vlines uid va bs) s
  obtain ⟨w, hw, hline, hmask, hdata⟩ := Dev.vlines_carries hk hplace
  obtain ⟨x, hx, hfrom, rfl⟩ := hall w hw
  rw [heq, hws]
  exact ⟨x, List.mem_append_right _ hx, hfrom, hline, hmask, hdata⟩

/-! ### A part that has computed (R165). -/

theorem State.Sending.part {s t : State} (h : s.Sending uid outs t) {p : Part} (hp : s.dev.getPart uid = some p) :
    ∃ q, t.dev.getPart uid = some q ∧ q.core = p.core := by
  have hpart := h.alike.part
  rwa [hp, Option.map_some, Option.map_eq_some_iff] at hpart

theorem State.sending_progressed (s : State) (e : Nat) : s.Sending uid outs (s.progressed e) := by
  unfold State.progressed
  split
  · exact .refl s
  · exact State.sending_onDev (Dev.alike_modEng uid _ _ _)

theorem State.progressed_getPart (s : State) (e u : Nat) : (s.progressed e).dev.getPart u = s.dev.getPart u := by
  unfold State.progressed
  split <;> rfl

theorem State.sending_ranPart (s : State) : s.Sending uid outs (s.ranPart uid) := by
  unfold State.ranPart
  dsimp only
  split
  · exact (State.sending_modPart s (by intro; rfl)).trans (State.sending_progressed _ _)
  · exact State.sending_modPart s (by intro; rfl)

theorem State.ranPart_getPart {s : State} {p : Part} (hp : s.dev.getPart uid = some p) :
    (s.ranPart uid).dev.getPart uid = some { p with ran := true } := by
  have hset : (s.onDev fun d => d.modPart uid fun p => { p with ran := true }).dev.getPart uid = some { p with ran := true } := by
    rw [State.onDev_dev, Dev.getPart_modPart, if_pos rfl, hp]
    rfl
  unfold State.ranPart
  simp only [hset, State.progressed_getPart]

/-- A part that executes and has sent its outputs has computed. -/
theorem State.Sending.computed {s t : State} (h : s.Sending uid outs t) {p : Part} (hp : s.dev.getPart uid = some p) (hs : p.stage = .executing) :
    Computed s (t.ranPart uid) uid outs := by
  obtain ⟨q, hq, hcore⟩ := h.part hp
  have hstage : q.stage = .executing := by
    simp only [Part.core, Prod.mk.injEq] at hcore
    exact hcore.2.2.2.trans hs
  obtain ⟨h1, h2, h3, h4, h5, h6, h7, h8⟩ := h.trans (State.sending_ranPart t)
  exact ⟨h1, h2, h3, h4, h5, h6, ⟨_, State.ranPart_getPart hq, rfl, hstage⟩, h7.others, h8⟩

end

/-! ### Where a part forms its outputs (R134, R172, R174, R263). -/

section
variable {uid : Nat} {outs : List (Nat × Nat)}

theorem State.sending_keepLines (s : State) (vlines : List Nat) : s.Sending uid outs (s.keepLines uid vlines) := by
  refine State.sending_foldl fun t v _ ht => ?_
  dsimp only
  split
  · split
    · exact ht
    · refine ht.trans (State.sending_modPart t fun p => ?_)
      unfold Part.keep
      split <;> rfl
  · exact ht

theorem State.keepLines_atts (s : State) (vlines : List Nat) : (s.keepLines uid vlines).dev.atts = s.dev.atts := by
  refine List.foldlRecOn (motive := fun t : State => t.dev.atts = s.dev.atts) vlines _ rfl fun t ht v _ => ?_
  dsimp only
  split
  · split
    · exact ht
    · exact ht
  · exact ht

theorem Dev.alike_noteReleases (d : Dev) (b : Bytes) (rows : List (Nat × Nat)) : d.Alike uid (d.noteReleases uid b rows) := by
  unfold Dev.noteReleases
  split
  · exact .refl uid d
  · exact (Dev.alike_modCtx uid d _ (by intro; rfl)).trans (Dev.alike_modPart uid _ (by intro; rfl))

theorem Dev.noteReleases_atts (d : Dev) (b : Bytes) (rows : List (Nat × Nat)) : (d.noteReleases uid b rows).atts = d.atts := by
  unfold Dev.noteReleases
  split <;> rfl

/-- A part without rows by list has nothing to translate before it forms its outputs. -/
theorem State.forming_planes (s : State) (p : Part) (b : Bytes) : s.forming uid p (planeIo s uid p b) =
    (if p.kind = .kernel then s.onDev fun d => d.modPart uid fun q => { q with xl := { p.xl with hold := none } }
      else (s.onDev fun d => d.modPart uid fun q => { q with xl := { p.xl with hold := none } }).onDev fun d =>
        d.modEng (eIdx p.eng) fun y => { y with movSeq := true }).prepare uid p (s.dev.descOf uid) [] := rfl

theorem State.sending_forming (s : State) (p : Part) (b : Bytes) : s.Sending uid outs (s.forming uid p (planeIo s uid p b)) := by
  have hxl : s.Sending uid outs (s.onDev fun d => d.modPart uid fun q => { q with xl := { p.xl with hold := none } }) :=
    State.sending_modPart s (by intro; rfl)
  rw [State.forming_planes]
  refine State.Sending.trans ?_ ((State.sending_keepLines _ _).trans (State.sending_onDev (Dev.alike_noteReleases _ _ _)))
  split
  · exact hxl
  · exact hxl.trans (State.sending_onDev (Dev.alike_modEng uid _ _ _))

theorem State.forming_atts (s : State) (p : Part) (b : Bytes) : (s.forming uid p (planeIo s uid p b)).dev.atts = s.dev.atts := by
  rw [State.forming_planes]
  refine (Dev.noteReleases_atts _ _ _).trans ((State.keepLines_atts _ _).trans ?_)
  split <;> rfl

/-- A part that executes a command of lines, and reaches its planes, forms its outputs. -/
theorem State.runLines_of_runs {s : State} {p : Part} {op lo hi : Nat} (hr : Runs s uid p op) (hk : p.kind.span = some (lo, hi))
    (hreach : Reached s uid p (planeIo s uid p (s.dev.descOf uid))) {mine : Bytes → Bool} (hm : mine (s.dev.descOf uid) = true)
    (f : (Nat → Ref) → Bytes → Nat → Nat → State → State) :
    s.runLines uid mine f = f (pRef (s.dev.descOf uid) p.kind) (s.dev.descOf uid) lo hi (s.forming uid p (planeIo s uid p (s.dev.descOf uid))) := by
  obtain ⟨hpart, hstage, hran, hbegun, hon, hturn, hheld, _, _, hpoison⟩ := hr
  obtain ⟨hstop, _⟩ := hreach
  have hgo : p.stage = .executing ∧ (!p.ran) = true ∧ (mine (s.dev.descOf uid) && !p.begun) = true ∧ s.dev.engineOn p.eng = true ∧
      (p.kind = .kernel ∨ s.dev.seqTurn (eIdx p.eng) = true) ∧ (!p.xl.held) = true := by
    simp [hstage, hran, hbegun, hon, hturn, hheld, hm]
  have hclean (t : State) (ht : t.mem.poison = []) (xs : List (Nat × Nat)) : t.poisonReads uid (t.poisoned uid xs) = (t, true) := by
    unfold State.poisoned
    rw [ht]
    rfl
  unfold State.runLines State.runPart
  rw [hpart]
  dsimp only
  rw [if_pos hgo, hstop]
  have hxl : s.xlate (eIdx p.eng) uid p.xl (rowPages []) = (s, { p.xl with hold := none }, true) := rfl
  simp only [hxl, planeIo, hclean (s.onDev _) hpoison, hk, Bool.not_true, Bool.false_eq_true, if_false, if_true]
  rfl

end

end Sys2Proof.Machine
end

section
/-!
PROOFS. Lines and their extents (R31 to R36, R141): a line that is written takes the bytes of its format, a line that is read has its elements, and the
extents of a reference cover the lines that they are of.
-/

namespace Sys2Proof

/-! ### A line that is written (R31, R32, R45). -/

theorem fmtPack_pos (f : Nat) : 0 < (fmtPack f).1 := by
  unfold fmtPack
  split <;> decide

theorem length_packCodes (f : Nat) (qs : List Int) : (packCodes f qs).length = lineBytes f qs.length := by
  simp only [packCodes, List.length_flatMap, length_leBytes, List.map_const', List.sum_replicate, smul_eq_mul,
    length_chunks (fmtPack_pos f) _ _ le_rfl, lineBytes]

theorem flatten_chunks {α : Type} {n : Nat} (hn : 0 < n) (fuel : Nat) (l : List α) (h : l.length ≤ fuel) : (chunks fuel n l).flatten = l := by
  induction fuel generalizing l with
  | zero => rw [List.length_eq_zero_iff.1 (Nat.le_zero.1 h)]; rfl
  | succ fuel ih =>
    unfold chunks
    split
    · rename_i he
      rw [List.isEmpty_iff.1 he]
      rfl
    · rename_i he
      have hpos : l.length ≠ 0 := fun h0 => he (by rw [List.length_eq_zero_iff.1 h0]; rfl)
      rw [List.flatten_cons, ih _ (by rw [List.length_drop]; omega), List.take_append_drop]

theorem length_convGroup (f : Nat) (c : Conv) (xs : List Num) (fr : Nat) : (convGroup f c xs fr).2.1.length = xs.length := by
  unfold convGroup
  split
  · exact List.length_map _
  · dsimp only
    rw [roundGroup_fst, List.length_mapIdx]

theorem length_foldl_convStep (f : Nat) (c : Conv) (fr : Nat) (gs : List (List Num)) (r : List Int × Bytes × Cnt) :
    (gs.foldl (convStep f c fr) r).1.length = r.1.length + gs.flatten.length ∧ (gs.foldl (convStep f c fr) r).2.1.length = r.2.1.length + gs.length := by
  induction gs generalizing r with
  | nil => exact ⟨rfl, rfl⟩
  | cons g gs ih =>
    obtain ⟨h1, h2⟩ := ih (convStep f c fr r g)
    have hlen : (convStep f c fr r g).1.length = r.1.length + g.length := by
      rw [← length_convGroup f c g (fr + r.2.2.draws)]
      exact List.length_append
    have hlen' : (convStep f c fr r g).2.1.length = r.2.1.length + 1 := List.length_append
    rw [List.foldl_cons, h1, h2, hlen, hlen', List.flatten_cons, List.length_append, List.length_cons]
    exact ⟨by omega, by omega⟩

theorem length_ka96Bytes (x : Num) : (ka96Bytes x).length = 16 := by
  unfold ka96Bytes
  split <;> simp [length_leBytes]

/-- The element bytes of a line are those of its format (R31, R32). -/
theorem length_writeLine_elems (f : Nat) (c : Conv) (xs : List Num) (fr : Nat) : (writeLine f c xs fr).1.length = lineBytes f xs.length := by
  by_cases h10 : f = 10
  · subst h10
    simp [writeLine, List.length_flatMap, length_ka96Bytes, lineBytes, fmtPack, ceilDiv]
  · have heq : (writeLine f c xs fr).1 =
        packCodes f ((chunks xs.length (groupLen f xs.length) xs).foldl (convStep f c fr) (([] : List Int), ([] : Bytes), ({} : Cnt))).1 := by
      unfold writeLine
      rw [if_neg h10]
      rfl
    rw [heq, length_packCodes, (length_foldl_convStep f c fr _ _).1]
    cases xs with
    | nil => rfl
    | cons x t => rw [flatten_chunks (groupLen_pos (by simp)) _ _ le_rfl, List.length_nil, Nat.zero_add]

/-- A line has no more scale bytes than its format has scale groups (R33, R49). -/
theorem length_writeLine_scales {f : Nat} (hf : fmtOk f = true) (c : Conv) (xs : List Num) (fr : Nat) :
    (writeLine f c xs fr).2.1.length ≤ if f = 9 then 0 else lineScales f xs.length := by
  by_cases h10 : f = 10
  · subst h10
    exact Nat.zero_le _
  by_cases h9 : f = 9
  · subst h9
    exact le_rfl
  rw [if_neg h9, writeLine_scales h9 h10, (length_foldl_convStep f c fr _ _).2]
  cases xs with
  | nil => exact Nat.zero_le _
  | cons x t =>
    rw [length_chunks (groupLen_pos (by simp)) _ _ le_rfl, lineScales_eq hf h9 h10 (by simp), List.length_nil, Nat.zero_add]

/-! ### A line that is read (R31 to R36). -/

theorem length_readGroup (f : Nat) (byte : Nat → Byte) (scale : Byte) (lo n : Nat) : (readGroup f byte scale lo n).1.length = n := by
  unfold readGroup
  split
  · simp
  · simp

/-- A line is read piece by piece; len says how many elements the first pieces have. -/
theorem length_foldl_pieces (g : Nat → List Num × Cnt) (len : Nat → Nat) (hz : len 0 = 0) (m : Nat)
    (h : ∀ b, b < m → len b + (g b).1.length = len (b + 1)) :
    ((List.range m).foldl (fun (r : List Num × Cnt) b => (r.1 ++ (g b).1, r.2.add (g b).2)) ([], {})).1.length = len m := by
  induction m with
  | zero => exact hz.symm
  | succ m ih =>
    rw [List.range_succ, List.foldl_append, List.foldl_cons, List.foldl_nil, List.length_append, ih fun b hb => h b (by omega)]
    exact h m (Nat.lt_succ_self m)

theorem le_ceilDiv_mul {n : Nat} (hn : 0 < n) (a : Nat) : a ≤ ceilDiv a n * n := by
  have h1 := Nat.div_add_mod (a + n - 1) n
  have h2 := Nat.mod_lt (a + n - 1) hn
  rw [ceilDiv, Nat.mul_comm]
  omega

theorem length_readLine (f n : Nat) (byte scale : Nat → Byte) : (readLine f n byte scale).1.length = n := by
  unfold readLine
  split
  · exact length_foldl_pieces (fun i => ([(readKa96 byte (16 * i)).1], (readKa96 byte (16 * i)).2)) id rfl n fun _ _ => rfl
  · split
    · exact length_readGroup _ _ _ _ _
    · rename_i hb
      refine (length_foldl_pieces (fun b => readGroup f byte (scale b) (b * fmtBlock f) (min (fmtBlock f) (n - b * fmtBlock f)))
        (fun b => min n (b * fmtBlock f)) (by simp) _ fun b _ => ?_).trans (Nat.min_eq_left (le_ceilDiv_mul (Nat.pos_of_ne_zero hb) n))
      rw [length_readGroup, Nat.succ_mul]
      omega

end Sys2Proof

namespace Sys2Proof.Machine

theorem State.length_refLine (s : State) (uid : Nat) (r : Ref) (l : Nat) : (s.refLine uid r l).1.length = r.n0 := by
  have hrow (ea sa : Nat) (rd : Nat → Byte) (bad : Nat → Bool) : (readRow r.fmt r.n0 ea sa rd bad).1.length = r.n0 := by
    unfold readRow
    dsimp only
    split
    · exact length_readLine _ _ _ _
    · exact length_readLine _ _ _ _
  unfold State.refLine
  split
  · exact hrow _ _ _ _
  · exact hrow _ _ _ _

/-! ### The extents of a reference cover its lines (R34, R141). -/

theorem Covered.append_left {l m : List (Nat × Nat)} {a : Nat} (h : Covered l a) : Covered (l ++ m) a := by
  obtain ⟨x, hx, hk⟩ := h
  exact ⟨x, List.mem_append_left _ hx, hk⟩

theorem Covered.append_right {l m : List (Nat × Nat)} {a : Nat} (h : Covered m a) : Covered (l ++ m) a := by
  obtain ⟨x, hx, hk⟩ := h
  exact ⟨x, List.mem_append_right _ hx, hk⟩

/-- Extents without a byte cover none. -/
theorem Covered.filter {l : List (Nat × Nat)} {a : Nat} (h : Covered l a) : Covered (l.filter fun y => y.2 ≠ 0) a := by
  obtain ⟨x, hx, k, hk, hadd⟩ := h
  exact ⟨x, List.mem_filter.2 ⟨hx, decide_eq_true (by omega)⟩, k, hk, hadd⟩

theorem covered_singleton {x : Nat × Nat} {a : Nat} (h1 : x.1 ≤ a) (h2 : a < x.1 + x.2) : Covered [x] a :=
  ⟨x, List.mem_singleton_self x, a - x.1, by omega, by omega⟩

/-- One extent for each line. -/
theorem covered_each {g : Nat → Nat × Nat} {lo hi l k : Nat} (hl : lo ≤ l) (hh : l < hi) (hk : k < (g l).2) :
    Covered ((List.range (hi - lo)).map fun k => g (lo + k)) ((g l).1 + k) :=
  ⟨g l, List.mem_map.2 ⟨l - lo, List.mem_range.2 (by omega), by rw [Nat.add_sub_cancel' hl]⟩, k, hk, rfl⟩

/-- In one run of lines along dimension 1 the index in it grows with the line. -/
theorem mod_of_same_div {l lo n : Nat} (h : l / n = lo / n) (hl : lo ≤ l) : l % n = lo % n + (l - lo) := by
  have h1 := Nat.div_add_mod l n
  have h2 := Nat.div_add_mod lo n
  rw [h] at h1
  omega

theorem Ref.lineVa_same_run (r : Ref) {l lo : Nat} (h : l / r.n1 = lo / r.n1) (hl : lo ≤ l) : r.lineVa l = r.lineVa lo + (l - lo) * r.s1 := by
  unfold Ref.lineVa
  rw [h, mod_of_same_div h hl, Nat.add_mul]
  omega

theorem Ref.lineVa_packed (r : Ref) (h : r.s2 = r.n1 * r.s1) (l : Nat) : r.lineVa l = r.va + l * r.s1 := by
  have h1 : l / r.n1 % r.n2 * r.s2 + l / r.n1 / r.n2 * (r.n2 * r.s2) = l / r.n1 * r.s2 := by
    rw [← Nat.mul_assoc, ← Nat.add_mul, Nat.mod_add_div']
  have h2 : l % r.n1 * r.s1 + l / r.n1 * (r.n1 * r.s1) = l * r.s1 := by
    rw [← Nat.mul_assoc, ← Nat.add_mul, Nat.mod_add_div']
  rw [h] at h1
  unfold Ref.lineVa
  rw [h]
  omega

/-- Lines of one run, or of runs that stand one behind the other, lie within their span. -/
theorem Ref.covered_subSpan (r : Ref) {lo hi l k : Nat}
    (hone : lo / r.n1 = (hi - 1) / r.n1 ∨ r.s2 = r.n1 * r.s1) (hl : lo ≤ l) (hh : l < hi) (hk : k < lineBytes r.fmt r.n0) :
    Covered [r.subSpan lo hi] (r.lineVa l + k) := by
  unfold Ref.subSpan
  rw [if_neg (by omega)]
  dsimp only
  have hle {x y : Nat} (h : x ≤ y) : x * r.s1 ≤ y * r.s1 := Nat.mul_le_mul_right _ h
  by_cases hrun : lo / r.n1 = (hi - 1) / r.n1
  · have hlo := r.lineVa_same_run (l := l) (le_antisymm (hrun ▸ Nat.div_le_div_right (by omega)) (Nat.div_le_div_right hl)) hl
    have hhi := r.lineVa_same_run (l := hi - 1) hrun.symm (by omega)
    have := hle (x := l - lo) (y := hi - 1 - lo) (by omega)
    rw [if_pos hrun, if_pos hrun]
    exact covered_singleton (by dsimp only; omega) (by dsimp only; omega)
  · have hpack := r.lineVa_packed (hone.resolve_left hrun)
    have := hle hl
    have := hle (x := l) (y := hi - 1) (by omega)
    rw [if_neg hrun, if_neg hrun, hpack lo, hpack (hi - 1), hpack l]
    exact covered_singleton (by dsimp only; omega) (by dsimp only; omega)

theorem Ref.covered_line (r : Ref) {lo hi l k : Nat} (hl : lo ≤ l) (hh : l < hi) (hk : k < lineBytes r.fmt r.n0) :
    Covered (r.extents lo hi) (r.lineVa l + k) := by
  unfold Ref.extents
  refine Covered.filter (Covered.append_left ?_)
  split
  · rename_i h
    obtain ⟨_, hone⟩ := h
    exact r.covered_subSpan (hone.imp_left of_decide_eq_true) hl hh hk
  · exact covered_each (g := fun l => (r.lineVa l, lineBytes r.fmt r.n0)) hl hh hk

theorem lineScales_ka96 (n : Nat) : lineScales 10 n = 0 := rfl

/-- So do their scale bytes. -/
theorem Ref.covered_scaleSpan (r : Ref) {lo hi l k : Nat} (h9 : r.fmt ≠ 9)
    (hone : lo / r.n1 = (hi - 1) / r.n1 ∨ r.sn1 = r.n1) (hl : lo ≤ l) (hh : l < hi) (hk : k < lineScales r.fmt r.n0) :
    Covered [r.scaleSpan lo hi] (r.scaleVa l + k) := by
  have h10 : r.fmt ≠ 10 := fun h => by rw [h, lineScales_ka96] at hk; exact absurd hk (Nat.not_lt_zero k)
  unfold Ref.scaleSpan
  rw [if_neg (by omega), if_neg h9]
  have hidx : lo % r.n1 + r.sn1 * (lo / r.n1) ≤ l % r.n1 + r.sn1 * (l / r.n1) ∧
      l % r.n1 + r.sn1 * (l / r.n1) ≤ (hi - 1) % r.n1 + r.sn1 * ((hi - 1) / r.n1) := by
    by_cases hrun : lo / r.n1 = (hi - 1) / r.n1
    · have hlr : l / r.n1 = lo / r.n1 := le_antisymm (hrun ▸ Nat.div_le_div_right (by omega)) (Nat.div_le_div_right hl)
      rw [← hrun, hlr, mod_of_same_div hlr hl, mod_of_same_div hrun.symm (by omega)]
      omega
    · rw [hone.resolve_left hrun, Nat.mod_add_div, Nat.mod_add_div, Nat.mod_add_div]
      omega
  have h1 := Nat.mul_le_mul_left r.sper hidx.1
  have h2 := Nat.mul_le_mul_left r.sper hidx.2
  unfold Ref.scaleVa
  exact covered_singleton (by dsimp only; omega) (by dsimp only; omega)

theorem Ref.covered_scale (r : Ref) {lo hi l k : Nat} (h9 : r.fmt ≠ 9) (hl : lo ≤ l) (hh : l < hi) (hk : k < lineScales r.fmt r.n0) :
    Covered (r.extents lo hi) (r.scaleVa l + k) := by
  have h10 : r.fmt ≠ 10 := fun h => by rw [h, lineScales_ka96] at hk; exact absurd hk (Nat.not_lt_zero k)
  unfold Ref.extents
  refine Covered.filter (Covered.append_right ?_)
  dsimp only
  split
  · rename_i h
    simp only [h9, h10, decide_false, Bool.false_or, Bool.and_eq_true, Bool.or_eq_true, decide_eq_true_eq] at h
    obtain ⟨_, hone⟩ := h
    exact r.covered_scaleSpan h9 hone hl hh hk
  · exact covered_each (g := fun l => (r.scaleVa l, lineScales r.fmt r.n0)) hl hh hk

/-- The one E8 of a KQ32 tensor. -/
theorem Ref.covered_tensorScale (r : Ref) {lo hi : Nat} (h9 : r.fmt = 9) (h : lo < hi) : Covered (r.extents lo hi) r.sva := by
  unfold Ref.extents Ref.scaleSpan
  refine Covered.filter (Covered.append_right ?_)
  have h10 : ¬ (r.fmt = 10 ∨ hi ≤ lo) := by omega
  simp only [h9, decide_true, Bool.true_or, if_true]
  rw [if_neg (by omega)]
  exact covered_singleton (by simp) (by simp)

end Sys2Proof.Machine
end

section
/-!
PROOFS. GEMM, GEMM_T, CONVERT, COPY and FILL (R58 to R65, R135, R143, R147, R148, R357): the lines that a part computes are on their way to its output
and to nowhere else, or to the outflow of an attachment.
-/

namespace Sys2Proof.Machine

/-! ### Lines that are sent one after the other. -/

section
variable {uid : Nat} {outs : List (Nat × Nat)} {s : State} {p : Part}

/-- Steps that send, each leaving what later steps keep. -/
theorem State.sends_foldl {α : Type} {f : State → α → State} {P : α → State → Prop} {l : List α}
    (hstep : ∀ t, s.Sending uid outs t → ∀ x ∈ l, t.Sending uid outs (f t x) ∧ P x (f t x))
    (hP : ∀ x t u, P x t → t.Sending uid outs u → P x u) :
    s.Sending uid outs (l.foldl f s) ∧ ∀ x ∈ l, P x (l.foldl f s) := by
  induction l using List.reverseRecOn with
  | nil => exact ⟨.refl s, fun _ h => absurd h List.not_mem_nil⟩
  | append_singleton l x ih =>
    obtain ⟨hs, hall⟩ := ih fun t ht y hy => hstep t ht y (List.mem_append_left _ hy)
    obtain ⟨hx, hpx⟩ := hstep _ hs x (List.mem_append_right _ (List.mem_singleton_self x))
    rw [List.foldl_append]
    refine ⟨hs.trans hx, fun y hy => ?_⟩
    rcases List.mem_append.1 hy with hy | hy
    · exact hP y _ _ (hall y hy) hx
    · rw [List.mem_singleton.1 hy]
      exact hpx

/-- The element bytes and the scale bytes of a line are sent. -/
theorem State.sends_line {t : State} (ht : s.Sending uid outs t) (hp : s.dev.getPart uid = some p) {a b : Nat} {el sc : Bytes}
    (hel : ∀ k, k < el.length → Covered outs (a + k)) (hsc : ∀ k, k < sc.length → Covered outs (b + k)) :
    t.Sending uid outs ((t.vsend uid a el).vsend uid b sc) ∧ Sent s ((t.vsend uid a el).vsend uid b sc) uid a el ∧
      Sent s ((t.vsend uid a el).vsend uid b sc) uid b sc := by
  have h1 : t.Sending uid outs (t.vsend uid a el) := State.sending_vsend t hel
  have h2 : (t.vsend uid a el).Sending uid outs ((t.vsend uid a el).vsend uid b sc) := State.sending_vsend _ hsc
  obtain ⟨q, hq, _⟩ := ht.part hp
  obtain ⟨q', hq', _⟩ := h1.part hq
  exact ⟨h1.trans h2, ((State.sent_vsend hq a el).sending h2).of_alike ht.alike,
    (State.sent_vsend hq' b sc).of_alike (ht.trans h1).alike⟩

/-! ### Lines of numbers (R41, R43 to R49). -/

/-- Lines of numbers as they are converted: those of a KQ32 output are zero where any drew on poison (R41, R49). -/
def outRows (f : Nat) (rows : List (List Num)) : List (List Num) := if f = 9 then (zeroIfPoisoned rows).1 else rows

theorem length_outRows (f : Nat) (rows : List (List Num)) : (outRows f rows).length = rows.length := by
  unfold outRows zeroIfPoisoned
  split
  · split <;> simp
  · rfl

theorem length_of_mem_outRows {f n : Nat} {rows : List (List Num)} (h : ∀ r ∈ rows, r.length = n) : ∀ r ∈ outRows f rows, r.length = n := by
  unfold outRows zeroIfPoisoned
  split
  · split
    · simpa using h
    · exact h
  · exact h

/-- A line of numbers was converted with fresh free values and is on its way. -/
def LineSent (s : State) (uid : Nat) (o : Ref) (conv : Nat) (x : Nat × List Num) (t : State) : Prop :=
  ∃ fr, s.dev.free ≤ fr ∧ fr + (writeLine o.fmt (Conv.of conv) x.2 fr).2.2.draws ≤ t.dev.free ∧
    Sent s t uid (o.lineVa x.1) (writeLine o.fmt (Conv.of conv) x.2 fr).1 ∧ Sent s t uid (o.scaleVa x.1) (writeLine o.fmt (Conv.of conv) x.2 fr).2.1

theorem LineSent.sending {o : Ref} {conv : Nat} {x : Nat × List Num} {t u : State} (h : LineSent s uid o conv x t) (k : t.Sending uid outs u) :
    LineSent s uid o conv x u := by
  obtain ⟨fr, h1, h2, h3, h4⟩ := h
  exact ⟨fr, h1, h2.trans k.alike.free, h3.sending k, h4.sending k⟩

/-- Converts a line of numbers and sends it. -/
def State.putRow (s : State) (uid : Nat) (r : Ref) (conv : Nat) (x : Nat × List Num) : State :=
  let w := writeLine r.fmt (Conv.of conv) x.2 s.dev.free
  ((s.onDev fun d => d.modPart uid fun p => p.addCnt w.2.2).took w.2.2.draws).sendLine uid r x.1 w.1 w.2.1

section
variable {r : Ref} {lo hi : Nat} (hp : s.dev.getPart uid = some p) (hf : fmtOk r.fmt = true)
include hp hf

theorem State.sends_putRow {t : State} (ht : s.Sending uid (r.extents lo hi) t) (conv : Nat) {x : Nat × List Num} (hl : lo ≤ x.1) (hh : x.1 < hi)
    (hn : x.2.length = r.n0) :
    t.Sending uid (r.extents lo hi) (t.putRow uid r conv x) ∧ LineSent s uid r conv x (t.putRow uid r conv x) := by
  have helems := length_writeLine_elems r.fmt (Conv.of conv) x.2 t.dev.free
  have hscales := length_writeLine_scales hf (Conv.of conv) x.2 t.dev.free
  rw [hn] at helems hscales
  have h1 : t.Sending uid (r.extents lo hi) ((t.onDev fun d => d.modPart uid fun p =>
      p.addCnt (writeLine r.fmt (Conv.of conv) x.2 t.dev.free).2.2).took (writeLine r.fmt (Conv.of conv) x.2 t.dev.free).2.2.draws) :=
    (State.sending_modPart t (by intro; rfl)).trans (State.sending_took _ _)
  obtain ⟨h2, hel, hsc⟩ := State.sends_line (ht.trans h1) hp (a := r.lineVa x.1) (b := r.scaleVa x.1)
    (el := (writeLine r.fmt (Conv.of conv) x.2 t.dev.free).1) (sc := (writeLine r.fmt (Conv.of conv) x.2 t.dev.free).2.1)
    (fun k hk => r.covered_line hl hh (helems ▸ hk))
    (fun k hk => by
      by_cases h9 : r.fmt = 9
      · rw [if_pos h9] at hscales
        omega
      · rw [if_neg h9] at hscales
        exact r.covered_scale h9 hl hh (by omega))
  exact ⟨h1.trans h2, t.dev.free, ht.alike.free, h2.alike.free, hel, hsc⟩

/-- Lines of a reference that are put are on their way, each once. -/
theorem State.sends_putRows {t : State} (ht : s.Sending uid (r.extents lo hi) t) (conv : Nat) (g : Nat → List Num)
    (hn : ∀ k, (g k).length = r.n0) :
    let rows := (List.range (hi - lo)).map fun k => (lo + k, g k)
    t.Sending uid (r.extents lo hi) (t.putRows uid r conv rows) ∧
      ∀ k, k < hi - lo → LineSent s uid r conv (lo + k, (outRows r.fmt ((List.range (hi - lo)).map g)).getD k []) (t.putRows uid r conv rows) := by
  intro rows
  have hsnd : rows.map (fun x => x.2) = (List.range (hi - lo)).map g := by simp [rows, Function.comp_def]
  have hmem : ∀ x ∈ (rows.map fun x => x.1).zip (outRows r.fmt (rows.map fun x => x.2)), lo ≤ x.1 ∧ x.1 < hi ∧ x.2.length = r.n0 := by
    rintro ⟨l, xs⟩ hx
    obtain ⟨h1, h2⟩ := List.of_mem_zip hx
    obtain ⟨y, hy, rfl⟩ := List.mem_map.1 h1
    obtain ⟨k, hk, rfl⟩ := List.mem_map.1 hy
    have := List.mem_range.1 hk
    exact ⟨by simp, by dsimp only; omega, length_of_mem_outRows (by simp [hsnd, hn]) _ h2⟩
  obtain ⟨hfold, hall⟩ := State.sends_foldl (s := t) (f := fun t x => t.putRow uid r conv x) (P := LineSent s uid r conv)
    (l := (rows.map fun x => x.1).zip (outRows r.fmt (rows.map fun x => x.2)))
    (fun u hu x hx => by
      obtain ⟨hl, hh, hlen⟩ := hmem x hx
      exact State.sends_putRow hp hf (ht.trans hu) conv hl hh hlen)
    (fun x u v h k => h.sending k)
  have hput : (((rows.map fun x => x.1).zip (outRows r.fmt (rows.map fun x => x.2))).foldl (fun t x => t.putRow uid r conv x) t).Sending uid
      (r.extents lo hi) (t.putRows uid r conv rows) := by
    unfold State.putRows outRows
    dsimp only
    by_cases h9 : r.fmt = 9
    · simp only [if_pos h9]
      exact State.sending_modPart _ (by intro; rfl)
    · simp only [if_neg h9]
      exact .refl _
  refine ⟨hfold.trans hput, fun k hk => (hall _ ?_).sending hput⟩
  have hk1 : k < (rows.map fun x => x.1).length := by simpa [rows] using hk
  have hk2 : k < (outRows r.fmt (rows.map fun x => x.2)).length := by simpa [length_outRows, rows] using hk
  refine List.mem_iff_getElem.2 ⟨k, by rw [List.length_zip]; omega, ?_⟩
  rw [List.getElem_zip, ← hsnd, List.getD_eq_getElem _ _ hk2]
  simp [rows]

end

end

/-! ### What an accepted descriptor says (R141 to R148). -/

theorem refBad_of_descBad {b : Bytes} (h : descBad b = false) {o : Nat} (ho : o ∈ dOuts b) : refBad b o true (!dHost b) = false := by
  simp only [descBad, Bool.or_eq_false_iff] at h
  obtain ⟨⟨_, houts⟩, _⟩ := h
  simpa using List.any_eq_false.1 houts o ho

theorem fmtOk_of_refBad {b : Bytes} {o : Nat} {out addr : Bool} (h : refBad b o out addr = false) : fmtOk (Ref.of b o).fmt = true := by
  have hf : fmtOk (field b (o + 6) 1) = true := by
    by_contra hf
    simp [refBad, hf] at h
  have hle : field b (o + 6) 1 ≤ 10 := of_decide_eq_true hf
  have heq : (Ref.of b o).fmt = field b (o + 6) 1 := Nat.mod_eq_of_lt (by omega)
  rwa [heq]

/-- The output of an accepted command is of a format of Table 2.1. -/
theorem fmtOk_of_descBad {b : Bytes} (h : descBad b = false) {o : Nat} (ho : o ∈ dOuts b) : fmtOk (Ref.of b o).fmt = true :=
  fmtOk_of_refBad (refBad_of_descBad h ho)

theorem n0_of_same {r q : Ref} (h : r.same q = true) : r.n0 = q.n0 := by
  simp only [Ref.same, Bool.and_eq_true, decide_eq_true_eq] at h
  obtain ⟨⟨⟨h0, _⟩, _⟩, _⟩ := h
  exact h0

theorem descBad_convert {b : Bytes} (h : descBad b = false) (hop : dOp b = 6) : (Ref.of b 32).n0 = (Ref.of b 64).n0 := by
  simp only [descBad, Bool.or_eq_false_iff, hop] at h
  obtain ⟨_, ⟨_, hsame⟩, _⟩ := h
  exact n0_of_same (by simpa using hsame)

theorem descBad_copy {b : Bytes} (h : descBad b = false) (hop : dOp b = 7) :
    (Ref.of b 32).n0 = (Ref.of b 64).n0 ∧ (Ref.of b 32).fmt = (Ref.of b 64).fmt := by
  simp only [descBad, Bool.or_eq_false_iff, hop] at h
  obtain ⟨_, ⟨_, hsame⟩, hfmt⟩ := h
  exact ⟨n0_of_same (by simpa using hsame), by simpa using hfmt⟩

theorem pRef_fmt (b : Bytes) (k : PartKind) (o : Nat) : (pRef b k o).fmt = (Ref.of b o).fmt := by
  unfold pRef
  split
  · split
    · split
      · rfl
      · split <;> rfl
    · split <;> rfl
    · rfl
  · rfl

/-- Apart from GEMM and GEMM_T a part takes the same run of dimension 0 of each reference. -/
theorem pRef_n0 {b : Bytes} (h1 : dOp b ≠ 1) (h2 : dOp b ≠ 2) (k : PartKind) {o o' : Nat} (h : (Ref.of b o).n0 = (Ref.of b o').n0) :
    (pRef b k o).n0 = (pRef b k o').n0 := by
  cases k with
  | tile lo hi c0 c1 =>
    have hcols (o : Nat) : pRef b (.tile lo hi c0 c1) o = (Ref.of b o).cols c0 c1 := by
      unfold pRef
      dsimp only
      split
      · exact absurd ‹_› h1
      · exact absurd ‹_› h2
      · rfl
    rw [hcols, hcols]
    rfl
  | _ => exact h

theorem partOut_of_span {b : Bytes} {k : PartKind} {lo hi : Nat} (hk : k.span = some (lo, hi)) (hd : dHost b = false) :
    partOut b k = (pRef b k (outAt b)).extents lo hi := by
  cases k with
  | lines lo' hi' => cases hk; simp [partOut, PartKind.span, hd]
  | tile lo' hi' c0 c1 => cases hk; simp [partOut, PartKind.span, hd]
  | _ => cases hk

theorem dHost_of_op {b : Bytes} (h : dOp b ≠ 7) : dHost b = false := by
  simp [dHost, h]

/-! ### Commands that write lines of numbers (R143, R147). -/

/-- CONVERT takes the numbers of each line of src and puts them. -/
theorem State.convertRun_eq (s : State) (uid : Nat) (q : Nat → Ref) (b : Bytes) (lo hi : Nat) :
    ∃ n, s.convertRun uid q b lo hi = ((s.onDev fun d => d.modPart uid fun p => p.addCnt n).putRows uid (q 64) (field b 2 2)
      ((List.range (hi - lo)).map fun k => (lo + k, (s.refLine uid (q 32) (lo + k)).1))).ranPart uid := by
  unfold State.convertRun
  simp only [List.map_map, Function.comp_def]
  exact ⟨_, rfl⟩

theorem find_map_self {α : Type} (g : Nat → α) {l : List Nat} {k : Nat} (h : k ∈ l) : Sys2Proof.Map.find (l.map fun k => (k, g k)) k = some (g k) := by
  induction l with
  | nil => cases h
  | cons a l ih =>
    simp only [List.map_cons, Sys2Proof.Map.find]
    split
    · rename_i he
      rw [he]
    · rename_i he
      exact ih ((List.mem_cons.1 h).resolve_left (Ne.symm he))

/-- The batch of W that serves a line of a part is among those that the part reads. -/
theorem gemmBatch_mem (w o : Ref) {lo hi k : Nat} (h : k < hi - lo) : gemmBatch w o (lo + k) ∈ usedBatches w o lo hi :=
  List.mem_eraseDups.2 (List.mem_map.2 ⟨k, List.mem_range.2 h, rfl⟩)

/-- The values of an output line of GEMM or GEMM_T, as the part forms them (R58 to R65, R143). -/
def State.gemmRow (s : State) (uid : Nat) (tr : Bool) (q : Nat → Ref) (lo k : Nat) : List Num :=
  (gemmLine tr (q 64).fmt (q 32).fmt (q 96).fmt (q 96).n0
    ((List.range (q 64).n1).map fun j => opElems (q 64).fmt (s.refLine uid (q 64) (j + (q 64).n1 * gemmBatch (q 64) (q 96) (lo + k))).1)
    (opElems (q 32).fmt (s.refLine uid (q 32) (lo + k)).1) (s.dev.free + k * (q 96).n0)).1

theorem State.length_gemmRow (s : State) (uid : Nat) (tr : Bool) (q : Nat → Ref) (lo k : Nat) : (s.gemmRow uid tr q lo k).length = (q 96).n0 := by
  simp [State.gemmRow, gemmLine]

/-- GEMM and GEMM_T put the dot products of each line. -/
theorem State.gemmRun_eq (s : State) (uid : Nat) (tr : Bool) (q : Nat → Ref) (b : Bytes) (lo hi : Nat) :
    ∃ n m d, s.gemmRun uid tr q b lo hi = (((s.onDev fun d => d.modPart uid fun p => (p.addCnt n).addCnt m).took d).putRows uid (q 96) (field b 2 2)
      ((List.range (hi - lo)).map fun k => (lo + k, s.gemmRow uid tr q lo k))).ranPart uid := by
  have hrows : ((List.range (hi - lo)).map fun k => (lo + k, s.gemmRow uid tr q lo k)) = (List.range (hi - lo)).map fun k => (lo + k,
      (gemmLine tr (q 64).fmt (q 32).fmt (q 96).fmt (q 96).n0
        (match Sys2Proof.Map.find ((usedBatches (q 64) (q 96) lo hi).map fun k => (k, (List.range (q 64).n1).map fun j =>
            s.refLine uid (q 64) (j + (q 64).n1 * k))) (gemmBatch (q 64) (q 96) (lo + k)) with
          | some l => l.map fun y => opElems (q 64).fmt y.1
          | none => [])
        (opElems (q 32).fmt (s.refLine uid (q 32) (lo + k)).1) (s.dev.free + (lo + k - lo) * (q 96).n0)).1) := by
    refine List.map_congr_left fun k hk => ?_
    rw [find_map_self _ (gemmBatch_mem _ _ (List.mem_range.1 hk)), Nat.add_sub_cancel_left]
    simp only [State.gemmRow, List.map_map, Function.comp_def]
  rw [hrows]
  unfold State.gemmRun
  simp only [List.map_map, Function.comp_def]
  exact ⟨_, _, _, rfl⟩

section
variable {s v : State} {uid : Nat} {p : Part} (hp : s.dev.getPart uid = some p) (hst : p.stage = .executing)
include hp hst

/-- A part that has put the lines of its output has computed them. -/
theorem computed_putRows {r : Ref} {lo hi : Nat} (hf : fmtOk r.fmt = true) (hv : s.Sending uid (r.extents lo hi) v) (conv : Nat)
    (g : Nat → List Num) (hn : ∀ k, (g k).length = r.n0) :
    let t := (v.putRows uid r conv ((List.range (hi - lo)).map fun k => (lo + k, g k))).ranPart uid
    Computed s t uid (r.extents lo hi) ∧ RowsSent s t uid r conv lo ((List.range (hi - lo)).map g) := by
  obtain ⟨hput, hall⟩ := State.sends_putRows hp hf hv conv g hn
  refine ⟨(hv.trans hput).computed hp hst, fun k hk => ?_⟩
  exact (hall k (by simpa using hk)).sending (State.sending_ranPart (outs := r.extents lo hi) _)

/-- GEMM and GEMM_T: the dot products of R58 to R65 (R143). -/
theorem computed_gemmRun {q : Nat → Ref} {lo hi : Nat} (hf : fmtOk (q 96).fmt = true) (hv : s.Sending uid ((q 96).extents lo hi) v) (tr : Bool)
    (b : Bytes) : Computed s (v.gemmRun uid tr q b lo hi) uid ((q 96).extents lo hi) ∧
      RowsSent s (v.gemmRun uid tr q b lo hi) uid (q 96) (field b 2 2) lo ((List.range (hi - lo)).map (v.gemmRow uid tr q lo)) := by
  obtain ⟨n, m, d, heq⟩ := v.gemmRun_eq uid tr q b lo hi
  rw [heq]
  exact computed_putRows hp hst hf ((hv.trans (State.sending_modPart v (by intro; rfl))).trans (State.sending_took _ d)) _ _
    (v.length_gemmRow uid tr q lo)

/-- CONVERT: the numbers of src (R147). -/
theorem computed_convertRun {q : Nat → Ref} {lo hi : Nat} (hf : fmtOk (q 64).fmt = true) (hn : (q 32).n0 = (q 64).n0)
    (hv : s.Sending uid ((q 64).extents lo hi) v) (b : Bytes) : Computed s (v.convertRun uid q b lo hi) uid ((q 64).extents lo hi) ∧
      RowsSent s (v.convertRun uid q b lo hi) uid (q 64) (field b 2 2) lo
        ((List.range (hi - lo)).map fun k => (v.refLine uid (q 32) (lo + k)).1) := by
  obtain ⟨n, heq⟩ := v.convertRun_eq uid q b lo hi
  rw [heq]
  exact computed_putRows hp hst hf (hv.trans (State.sending_modPart v (by intro; rfl))) _ _ fun k => (State.length_refLine _ _ _ _).trans hn

end

/-! ### Commands that write bytes (R147, R148). -/

section
variable {s v : State} {uid : Nat} {p : Part} (hp : s.dev.getPart uid = some p) (hst : p.stage = .executing)
include hp

/-- Lines of bytes of a reference's format, and their scale bytes, are on their way. -/
theorem State.sends_lines {d : Ref} {lo hi : Nat} (hv : s.Sending uid (d.extents lo hi) v) (g : Nat → Bytes × Bytes)
    (hel : ∀ k, (g k).1.length = lineBytes d.fmt d.n0) (hsc : ∀ k, (g k).2.length = if d.fmt = 9 then 1 else lineScales d.fmt d.n0) :
    let t := (List.range (hi - lo)).foldl (fun t k => (t.vsend uid (d.lineVa (lo + k)) (g k).1).vsend uid (d.scaleAt (lo + k)) (g k).2) v
    v.Sending uid (d.extents lo hi) t ∧
      ∀ k ∈ List.range (hi - lo), Sent s t uid (d.lineVa (lo + k)) (g k).1 ∧ Sent s t uid (d.scaleAt (lo + k)) (g k).2 := by
  refine State.sends_foldl (P := fun k t => Sent s t uid (d.lineVa (lo + k)) (g k).1 ∧ Sent s t uid (d.scaleAt (lo + k)) (g k).2)
    (fun t ht k hk => State.sends_line (hv.trans ht) hp (fun j hj => ?_) fun j hj => ?_) fun k t u h hu => ⟨h.1.sending hu, h.2.sending hu⟩
  · rw [hel] at hj
    exact d.covered_line (by omega) (by have := List.mem_range.1 hk; omega) hj
  · have hk := List.mem_range.1 hk
    rw [hsc] at hj
    unfold Ref.scaleAt
    split at hj
    · rename_i h9
      obtain rfl : j = 0 := by omega
      rw [if_pos h9]
      exact d.covered_tensorScale h9 (by omega)
    · rename_i h9
      rw [if_neg h9]
      exact d.covered_scale h9 (by omega) (by omega) hj

include hst

/-- A part that has sent the lines of its output has computed them. -/
theorem computed_lines {d : Ref} {lo hi : Nat} (hv : s.Sending uid (d.extents lo hi) v) (g : Nat → Bytes × Bytes)
    (hel : ∀ k, (g k).1.length = lineBytes d.fmt d.n0) (hsc : ∀ k, (g k).2.length = if d.fmt = 9 then 1 else lineScales d.fmt d.n0) :
    let t := ((List.range (hi - lo)).foldl (fun t k => (t.vsend uid (d.lineVa (lo + k)) (g k).1).vsend uid (d.scaleAt (lo + k)) (g k).2) v).ranPart uid
    Computed s t uid (d.extents lo hi) ∧ ∀ l, lo ≤ l → l < hi → Sent s t uid (d.lineVa l) (g (l - lo)).1 ∧ Sent s t uid (d.scaleAt l) (g (l - lo)).2 := by
  intro t
  obtain ⟨hs, hall⟩ := State.sends_lines hp hv g hel hsc
  refine ⟨(hv.trans hs).computed hp hst, fun l hl hh => ?_⟩
  obtain ⟨h1, h2⟩ := hall (l - lo) (List.mem_range.2 (by omega))
  rw [Nat.add_sub_cancel' hl] at h1 h2
  have hran := State.sending_ranPart (uid := uid) (outs := d.extents lo hi)
    ((List.range (hi - lo)).foldl (fun t k => (t.vsend uid (d.lineVa (lo + k)) (g k).1).vsend uid (d.scaleAt (lo + k)) (g k).2) v)
  exact ⟨h1.sending hran, h2.sending hran⟩

omit hp hst in
/-- Where no line is poisoned, a line is moved as its bytes. -/
theorem State.movedLine_clean {s : State} (h : s.mem.poison = []) (uid : Nat) (r : Ref) (l : Nat) : s.movedLine uid r l =
    ((List.range (lineBytes r.fmt r.n0)).map fun k => s.vbyte uid (r.lineVa l + k),
     if r.fmt = 9 then [s.vbyte uid r.sva] else (List.range (lineScales r.fmt r.n0)).map fun k => s.vbyte uid (r.scaleVa l + k)) := by
  unfold State.movedLine
  rw [h]
  rfl

omit hp hst in
theorem State.copyRun_clean {s : State} (h : s.mem.poison = []) (uid : Nat) (q : Nat → Ref) (lo hi : Nat) : s.copyRun uid q lo hi =
    ((List.range (hi - lo)).foldl (fun t k => (t.vsend uid ((q 64).lineVa (lo + k)) (s.movedLine uid (q 32) (lo + k)).1).vsend uid
      ((q 64).scaleAt (lo + k)) (s.movedLine uid (q 32) (lo + k)).2) (s.took 0)).ranPart uid := by
  unfold State.copyRun
  dsimp only
  rw [h, List.foldl_map]
  rfl

/-- COPY: the bytes of src (R147). -/
theorem computed_copyRun {q : Nat → Ref} {lo hi : Nat} (hn : (q 32).n0 = (q 64).n0) (hf : (q 32).fmt = (q 64).fmt) (hclean : v.mem.poison = [])
    (hv : s.Sending uid ((q 64).extents lo hi) v) : Computed s (v.copyRun uid q lo hi) uid ((q 64).extents lo hi) ∧ ∀ l, lo ≤ l → l < hi →
      Sent s (v.copyRun uid q lo hi) uid ((q 64).lineVa l) (v.movedLine uid (q 32) l).1 ∧
      Sent s (v.copyRun uid q lo hi) uid ((q 64).scaleAt l) (v.movedLine uid (q 32) l).2 := by
  rw [State.copyRun_clean hclean]
  obtain ⟨hc, hall⟩ := computed_lines hp hst (hv.trans (State.sending_took v 0)) (fun k => v.movedLine uid (q 32) (lo + k))
    (fun k => by simp [State.movedLine_clean hclean, hn, hf])
    (fun k => by
      rw [State.movedLine_clean hclean, hn, hf]
      dsimp only
      split <;> simp)
  refine ⟨hc, fun l hl hh => ?_⟩
  have := hall l hl hh
  rwa [Nat.add_sub_cancel' hl] at this

omit hp hst in
theorem length_fillLine (r : Ref) (b : Bytes) :
    (fillLine r b).1.length = lineBytes r.fmt r.n0 ∧ (fillLine r b).2.length = if r.fmt = 9 then 1 else lineScales r.fmt r.n0 := by
  unfold fillLine
  split
  · rename_i h10
    rw [h10]
    have hsub : ∀ _ : Nat, (sub b 64 16).length = 16 := fun _ => by simp [sub]
    exact ⟨(length_flatMap_range hsub r.n0).trans (by simp [lineBytes, fmtPack, ceilDiv, Nat.mul_comm]), rfl⟩
  · exact ⟨(length_packCodes _ _).trans (by simp), by simp⟩

/-- FILL: its value (R148). -/
theorem computed_fillRun {q : Nat → Ref} {lo hi : Nat} (hv : s.Sending uid ((q 32).extents lo hi) v) (b : Bytes) :
    Computed s (v.fillRun uid q b lo hi) uid ((q 32).extents lo hi) ∧ ∀ l, lo ≤ l → l < hi →
      Sent s (v.fillRun uid q b lo hi) uid ((q 32).lineVa l) (fillLine (q 32) b).1 ∧
      Sent s (v.fillRun uid q b lo hi) uid ((q 32).scaleAt l) (fillLine (q 32) b).2 :=
  computed_lines hp hst hv (fun _ => fillLine (q 32) b) (fun _ => (length_fillLine _ b).1) fun _ => (length_fillLine _ b).2

end

/-! ### COPY with HOST_DST (R147, R349, R357). -/

/-- The pages of an extent hold the first byte that it has in the granule of each of its bytes. -/
theorem mem_pages {a n k : Nat} (hk : k < n) :
    ∃ x ∈ pages a n, x / granule = (a + k) / granule ∧ a ≤ x ∧ x ≤ a + k := by
  have hg : granule = 65536 := rfl
  unfold pages
  rw [if_neg (by omega), hg]
  refine ⟨_, List.mem_map.2 ⟨(a + k) / 65536 - a / 65536, List.mem_range.2 (by omega), rfl⟩, ?_⟩
  split <;> omega

/-- The exported pieces hold each byte that the part reaches, with its host address. -/
theorem State.exportBytes_reach (s : State) {uid va iova k pa : Nat} {bs : Bytes} (hk : k < bs.length) (hp : s.dev.place uid 0 (va + k) = .phys pa) :
    ∃ e ∈ s.exportBytes uid va iova bs true, ∃ j, j < e.2.2 ∧ e.1 + j = pa ∧ e.2.1 + j = iova + k := by
  have hg : granule = 65536 := rfl
  obtain ⟨x, hx, hdiv, hlo, hhi⟩ := mem_pages (a := va) hk
  obtain ⟨y, hy, hadd⟩ := Dev.place_granule hp hdiv.symm
  refine ⟨_, List.mem_map.2 ⟨x, hx, rfl⟩, va + k - x, ?_⟩
  dsimp only
  rw [hy]
  dsimp only
  rw [hg] at *
  exact ⟨by omega, by omega, by omega⟩

theorem State.vbad_clean {s : State} (h : s.mem.poison = []) (uid va : Nat) : s.vbad uid va = false := by
  unfold State.vbad State.bad
  rw [h]
  split
  · simp [Sys2Proof.Map.get]
  · rfl

theorem State.groupBad_clean {s : State} (h : s.mem.poison = []) (uid : Nat) (r : Ref) (l g : Nat) : s.groupBad uid r l g = false := by
  unfold State.groupBad State.tensorBad
  simp [State.vbad_clean h, h]

/-- The pieces of what a part exports: each line's element bytes and scale bytes. -/
def State.hostPieces (s : State) (uid : Nat) (q : Nat → Ref) (b : Bytes) (l : Nat) : List (Nat × Nat × Nat) :=
  s.exportBytes uid ((q 32).lineVa l) (field b 96 8 + ((q 64).lineVa l - (q 64).wva)) (s.movedLine uid (q 32) l).1 true ++
    s.exportBytes uid ((q 32).scaleAt l) (field b 104 8 + ((q 64).scaleAt l - (Ref.of b 64).sva)) (s.movedLine uid (q 32) l).2 true

/-- The pieces of every line that a part exports. -/
def State.hostSrc (s : State) (uid : Nat) (q : Nat → Ref) (b : Bytes) (lo hi : Nat) : List (Nat × Nat × Nat) :=
  (List.range (hi - lo)).flatMap fun k => s.hostPieces uid q b (lo + k)

/-- With a link that is up or an ATTACH in force, and no poison, what the part exports joins the outflow. -/
theorem State.hostRun_joins {s : State} {b : Bytes} (h : s.mem.poison = [])
    (hx : (s.dev.getAtt (field b 112 1)).dlActive = true ∨ (s.dev.getAtt (field b 112 1)).token ≠ none) (uid : Nat) (q : Nat → Ref) (lo hi : Nat) :
    s.hostRun uid q b lo hi = ((s.onDev fun y => y.modAtt (field b 112 1) fun x => { x with items := x.items ++
      [.exportOf uid (s.hostSrc uid q b lo hi) false] }).took 0).ranPart uid := by
  have hup : ¬ ((!(s.dev.getAtt (field b 112 1)).dlActive) = true ∧ (s.dev.getAtt (field b 112 1)).token.isNone = true) := by
    rintro ⟨h1, h2⟩
    rcases hx with hx | hx
    · simp [hx] at h1
    · exact hx (Option.isNone_iff_eq_none.1 h2)
  have hplain (n m : Nat) (r : Ref) (l a : Nat) : (!(List.range n).any (fun j => s.vbad uid (a + j)) &&
      !(List.range m).any fun g => s.groupBad uid r l g) = true := by
    simp [State.vbad_clean h, State.groupBad_clean h]
  unfold State.hostRun State.hostSrc State.hostPieces
  dsimp only
  rw [if_neg hup, h]
  simp only [hplain]
  rfl

/-- Every byte of src that the part reaches is among what it exports, with its host address. -/
theorem State.hostSrc_reach {s : State} (h : s.mem.poison = []) {uid : Nat} {q : Nat → Ref} (b : Bytes) {lo hi l k pa : Nat}
    (hl : lo ≤ l) (hh : l < hi) (hk : k < lineBytes (q 32).fmt (q 32).n0) (hp : s.dev.place uid 0 ((q 32).lineVa l + k) = .phys pa) :
    ∃ e ∈ s.hostSrc uid q b lo hi, ∃ j, j < e.2.2 ∧ e.1 + j = pa ∧ e.2.1 + j = field b 96 8 + ((q 64).lineVa l - (q 64).wva) + k := by
  have hlen : k < (s.movedLine uid (q 32) l).1.length := by simpa [State.movedLine_clean h] using hk
  obtain ⟨e, he, hj⟩ := s.exportBytes_reach (iova := field b 96 8 + ((q 64).lineVa l - (q 64).wva)) hlen hp
  refine ⟨e, List.mem_flatMap.2 ⟨l - lo, List.mem_range.2 (by omega), ?_⟩, hj⟩
  rw [Nat.add_sub_cancel' hl]
  exact List.mem_append_left _ he

theorem State.ranPart_getAtt (s : State) (uid a : Nat) : (s.ranPart uid).dev.getAtt a = s.dev.getAtt a := by
  have hprog (t : State) (e : Nat) : (t.progressed e).dev.getAtt a = t.dev.getAtt a := by
    unfold State.progressed
    split <;> rfl
  unfold State.ranPart
  dsimp only
  split
  · exact hprog _ _
  · rfl

/-! ### A part that fails (R168). -/

/-- A part that is released keeps its place in the table; no other part differs. -/
theorem Dev.releasePart_parts {d : Dev} {uid : Nat} {p : Part} (hp : d.getPart uid = some p) :
    (d.releasePart uid).parts = Sys2Proof.Map.mod d.parts uid fun p => { p with pins := [], coming := [], xl := {} } := by
  unfold Dev.releasePart
  rw [hp]
  dsimp only [Dev.modPart, Dev.dropExports, Dev.modPt]
  generalize List.range 20 = l
  congr 1
  refine List.foldlRecOn (motive := fun e : Dev => e.parts = d.parts) l _ rfl fun e he k _ => ?_
  split
  · exact he
  · exact he

theorem Dev.releasePart_getPart (d : Dev) (uid u : Nat) : ∃ f : Part → Part, (d.releasePart uid).getPart u =
    if uid = u then (d.getPart u).map f else d.getPart u := by
  cases hp : d.getPart uid with
  | none =>
    refine ⟨id, ?_⟩
    unfold Dev.releasePart
    rw [hp, Option.map_id, id, ite_self]
  | some p =>
    refine ⟨fun p => { p with pins := [], coming := [], xl := {} }, ?_⟩
    unfold Dev.getPart
    rw [Dev.releasePart_parts hp, Sys2Proof.Map.find_mod]

theorem State.stopPart_bytes (s : State) (uid : Nat) (stage : PartStage) : (s.stopPart uid stage).mem.bytes = s.mem.bytes := by
  unfold State.stopPart
  split <;> rfl

theorem State.stopPart_self {s : State} {uid : Nat} {p : Part} (hp : s.dev.getPart uid = some p) (stage : PartStage) :
    ∃ q, (s.stopPart uid stage).dev.getPart uid = some q ∧ q.stage = stage := by
  unfold State.stopPart
  rw [hp]
  dsimp only
  rw [State.took_getPart, Dev.getPart_modPart, if_pos rfl]
  obtain ⟨f, hf⟩ := Dev.releasePart_getPart (if p.kind = .kernel ∧ p.ran = true then s.dev.modEng (eIdx p.eng) Engine.dropCc else s.dev) uid uid
  have hd : (if p.kind = .kernel ∧ p.ran = true then s.dev.modEng (eIdx p.eng) Engine.dropCc else s.dev).getPart uid = some p := by
    split
    · exact hp
    · exact hp
  rw [hf, if_pos rfl, hd]
  exact ⟨_, rfl, rfl⟩

theorem State.stopPart_other (s : State) {uid u : Nat} (h : uid ≠ u) (stage : PartStage) :
    (s.stopPart uid stage).dev.getPart u = s.dev.getPart u := by
  unfold State.stopPart
  split
  · rfl
  rename_i p hp
  dsimp only
  rw [State.took_getPart, Dev.getPart_modPart, if_neg h]
  obtain ⟨f, hf⟩ := Dev.releasePart_getPart (if p.kind = .kernel ∧ p.ran = true then s.dev.modEng (eIdx p.eng) Engine.dropCc else s.dev) uid u
  rw [hf, if_neg h]
  split <;> rfl

/-- A live part that fails stands failed with the status, and no byte of memory changes. -/
theorem State.failPart_of_live {s : State} {uid status : Nat} {p : Part} (hp : s.dev.getPart uid = some p) (hl : p.live = true) :
    ∃ q, (s.failPart uid status).dev.getPart uid = some q ∧ q.stage = .failed status ∧ (s.failPart uid status).mem.bytes = s.mem.bytes := by
  unfold State.failPart
  rw [hp]
  dsimp only
  rw [if_neg (by simp [hl])]
  obtain ⟨q, hq, hstage⟩ := State.stopPart_self hp (.failed status)
  refine List.foldlRecOn (motive := fun t : State => ∃ q, t.dev.getPart uid = some q ∧ q.stage = .failed status ∧ t.mem.bytes = s.mem.bytes) _ _
    ⟨q, hq, hstage, State.stopPart_bytes _ _ _⟩ fun t ht u _ => ?_
  obtain ⟨q, hq, hstage, hbytes⟩ := ht
  split
  · rename_i x hx
    split
    · rename_i hlive
      have hne : u ≠ uid := by
        rintro rfl
        obtain rfl := Option.some.inj (hq.symm.trans hx)
        simp [Part.live, hstage] at hlive
      exact ⟨q, (State.stopPart_other t hne _).trans hq, hstage, (State.stopPart_bytes _ _ _).trans hbytes⟩
    · exact ⟨q, hq, hstage, hbytes⟩
  · exact ⟨q, hq, hstage, hbytes⟩

/-- With the link down and no ATTACH in force the part fails (R357). -/
theorem State.hostRun_lost {s : State} {b : Bytes} (hx : (s.dev.getAtt (field b 112 1)).dlActive = false)
    (ht : (s.dev.getAtt (field b 112 1)).token = none) (uid : Nat) (q : Nat → Ref) (lo hi : Nat) :
    s.hostRun uid q b lo hi = s.failPart uid stAttLost := by
  unfold State.hostRun
  dsimp only
  rw [if_pos (by simp [hx, ht])]

/-! ### The commands. -/

theorem State.forming_getAtt (s : State) (uid : Nat) (p : Part) (b : Bytes) (n : Nat) :
    (s.forming uid p (planeIo s uid p b)).dev.getAtt n = s.dev.getAtt n := by
  unfold Dev.getAtt
  rw [State.forming_atts]

/-- Settles O27: each command by its rule above, from the state in which the part forms its outputs. -/
theorem tensorParts : Obligations.TensorParts := by
  unfold Obligations.TensorParts
  intro s uid lo hi op p hr hk b io v row a w o done hreach
  obtain ⟨hp, hst, _, _, _, _, _, hop, hbad, hpoison⟩ := id hr
  replace hop : dOp b = op := hop
  replace hbad : descBad b = false := hbad
  have hv (outs : List (Nat × Nat)) : s.Sending uid outs v := State.sending_forming s p b
  have hclean : v.mem.poison = [] := (hv []).poison.trans hpoison
  have hatt : v.dev.getAtt (field b 112 1) = s.dev.getAtt (field b 112 1) := State.forming_getAtt s uid p b _
  have hout (h : dHost b = false) : io.writes = (pRef b p.kind (outAt b)).extents lo hi := partOut_of_span hk h
  have hrun (mine : Bytes → Bool) (hm : mine b = true) (f : (Nat → Ref) → Bytes → Nat → Nat → State → State) :
      s.runLines uid mine f = f (pRef b p.kind) b lo hi v := State.runLines_of_runs hr hk hreach hm f
  refine ⟨fun tr h => ?gemm, fun h => ?convert, fun h hd => ?copy, fun h => ?fill, fun h hd => ⟨fun hx => ?joins, fun hx ht => ?lost⟩⟩
  case gemm =>
    have hf : fmtOk o.fmt = true := by
      rw [pRef_fmt]
      exact fmtOk_of_descBad hbad (by cases tr <;> simp [dOuts, hop, h])
    have hw : io.writes = o.extents lo hi := by
      rw [hout (dHost_of_op (by cases tr <;> simp [hop, h]))]
      cases tr <;> simp [outAt, hop, h, o]
    have he : exec (if tr then .gemmT uid else .gemm uid) s = .next (v.gemmRun uid tr (pRef b p.kind) b lo hi) := by
      cases tr
      · exact congrArg Host.Outcome.next (hrun (fun b => dOp b = 1) (by simp [hop, h]) _)
      · exact congrArg Host.Outcome.next (hrun (fun b => dOp b = 2) (by simp [hop, h]) _)
    obtain ⟨hc, hrows⟩ := computed_gemmRun (q := pRef b p.kind) hp hst hf (hv _) tr b
    exact ⟨_, he, hw ▸ hc, hrows⟩
  case convert =>
    have hf : fmtOk w.fmt = true := by
      rw [pRef_fmt]
      exact fmtOk_of_descBad hbad (by simp [dOuts, hop, h])
    have hw : io.writes = w.extents lo hi := by
      rw [hout (dHost_of_op (by simp [hop, h]))]
      simp [outAt, hop, h, w]
    have hn : a.n0 = w.n0 := pRef_n0 (by omega) (by omega) p.kind (descBad_convert hbad (hop.trans h))
    obtain ⟨hc, hrows⟩ := computed_convertRun (q := pRef b p.kind) hp hst hf hn (hv _) b
    exact ⟨_, congrArg Host.Outcome.next (hrun (fun b => dOp b = 6) (by simp [hop, h]) _), hw ▸ hc, hrows⟩
  case copy =>
    obtain ⟨hn, hf⟩ := descBad_copy hbad (hop.trans h)
    have hw : io.writes = w.extents lo hi := by
      rw [hout hd]
      simp [outAt, hop, h, w]
    obtain ⟨hc, hsent⟩ := computed_copyRun (q := pRef b p.kind) hp hst (pRef_n0 (by omega) (by omega) p.kind hn)
      (by rw [pRef_fmt, pRef_fmt, hf]) hclean (hv _)
    refine ⟨_, congrArg Host.Outcome.next (hrun (fun b => dOp b = 7 && !dHost b) (by simp [hop, h, hd]) _), hw ▸ hc, ?_⟩
    simpa only [State.movedLine_clean hclean] using hsent
  case fill =>
    have hw : io.writes = a.extents lo hi := by
      rw [hout (dHost_of_op (by simp [hop, h]))]
      simp [outAt, hop, h, a]
    obtain ⟨hc, hsent⟩ := computed_fillRun (q := pRef b p.kind) hp hst (hv _) b
    refine ⟨_, congrArg Host.Outcome.next (hrun (fun b => dOp b = 9) (by simp [hop, h]) _), hw ▸ hc, fun l hl hh => ?_⟩
    obtain ⟨hel, hsc⟩ := hsent l hl hh
    refine ⟨fun h10 => ?_, fun h10 => ?_⟩
    · rwa [fillLine, if_pos h10] at hel
    · rw [fillLine, if_neg h10] at hel hsc
      exact ⟨hel, hsc⟩
  case joins =>
    have he := hrun (fun b => dHost b) hd (fun q b lo hi s => s.hostRun uid q b lo hi)
    rw [State.hostRun_joins hclean (hatt ▸ hx)] at he
    refine ⟨_, v.hostSrc uid (pRef b p.kind) b lo hi, congrArg Host.Outcome.next he, ?_, ?_, fun l k pa hl hh hk hpl => ?_⟩
    · exact (((hv []).trans (State.sending_onDev (Dev.alike_modAtt _ _ _ _))).trans (State.sending_took _ 0)).computed hp hst
    · rw [State.ranPart_getAtt, State.took_getAtt, ← hatt]
      exact congrArg Att.items (Dev.getAtt_modAtt_self _ _ _)
    · exact State.hostSrc_reach (q := pRef b p.kind) hclean b hl hh hk hpl
  case lost =>
    have he := hrun (fun b => dHost b) hd (fun q b lo hi s => s.hostRun uid q b lo hi)
    rw [State.hostRun_lost (hatt ▸ hx) (hatt ▸ ht)] at he
    obtain ⟨q, hq, hcore⟩ := (hv []).part hp
    obtain ⟨r, hr, hstage, hbytes⟩ := State.failPart_of_live (status := stAttLost) hq (by
      have hqs : q.stage = p.stage := congrArg (fun c => c.2.2.2) hcore
      simp [Part.live, hqs, hst])
    exact ⟨_, r, congrArg Host.Outcome.next he, hr, hstage, hbytes.trans (hv []).bytes⟩

end Sys2Proof.Machine
end

section
/-!
PROOFS. Issue of array operations (R83, R87, R88, R109 to R113): an array instruction whose operands pass its checks enters the queue of its cluster
with the next ticket.
-/

namespace Sys2Proof.Machine

/-! ### Legal operands (R109 to R112). -/

/-- The number of n bytes at offset o of the operand block that rs1 names (R110). -/
def Cluster.block (c : Cluster) (rs1 : Fin 32) (o n : Nat) : Nat := Mem.le c.cup ((c.xget rs1).toNat + o) n

/-- The format that an operand block names (R110). -/
def Cluster.blockFmt (c : Cluster) (rs1 : Fin 32) : Nat := c.block rs1 20 1 % 16

/-- The elements of a token that a stream issued now takes: one per reduction position, or per column where it is transposed (R83). -/
def Cluster.tokenSize (c : Cluster) (tr : Bool) : Nat := if tr then 64 else 64 * peP c.tileFmt

/-- The operand block that rs1 names is aligned and lies in the cup (R110). -/
structure Cluster.BlockPlaced (c : Cluster) (rs1 : Fin 32) : Prop where
  aligned : (c.xget rs1).toNat % 32 = 0
  inCup : (c.xget rs1).toNat + 32 ≤ cupEnd

/-- The operands of a weight load are legal: its image, and the rows and the format that rs2 gives (R109). -/
structure Cluster.WloadLegal (c : Cluster) (rs1 rs2 : Fin 32) : Prop where
  someRow : 1 ≤ (c.xget rs2).toNat % 128
  rowsMax : (c.xget rs2).toNat % 128 ≤ 64
  bitSeven : bit (c.xget rs2).toNat 7 = false
  highZero : (c.xget rs2).toNat < 2 ^ 12
  format : bits (c.xget rs2).toNat 11 8 < 10
  aligned : (c.xget rs1).toNat % 256 = 0
  inCup : (c.xget rs1).toNat + 16896 ≤ cupEnd

/-- The fields of a stream's operand block are legal (R83, R110, R112). -/
structure Cluster.StreamLegal (c : Cluster) (rs1 : Fin 32) (tr : Bool) : Prop where
  formatByte : c.block rs1 20 1 < 16
  flags : c.block rs1 21 1 < 2
  reserved : c.block rs1 22 10 = 0
  firstRow : c.block rs1 18 2 < 256
  format : c.blockFmt rs1 < 10
  elemStride : c.block rs1 4 4 % 64 = 0
  scaleStride : c.block rs1 12 4 % 16 = 0
  rows : if tr then c.block rs1 18 2 + peP c.tileFmt * c.block rs1 16 2 ≤ 256 else c.block rs1 18 2 + c.block rs1 16 2 ≤ 256
  inCup : c.block rs1 16 2 ≠ 0 →
    c.block rs1 0 4 + (c.block rs1 16 2 - 1) * c.block rs1 4 4 + actBytes (c.blockFmt rs1) (c.tokenSize tr) ≤ cupEnd ∧
    c.block rs1 8 4 + (c.block rs1 16 2 - 1) * c.block rs1 12 4 + actGroups (c.blockFmt rs1) (c.tokenSize tr) ≤ cupEnd

/-- The fields of a drain's operand block are legal (R86, R110 to R112). -/
structure Cluster.DrainLegal (c : Cluster) (rs1 : Fin 32) : Prop where
  formatByte : c.block rs1 20 1 < 16
  flags : c.block rs1 21 1 = 0
  reserved : c.block rs1 24 8 = 0
  format : fmtOk (c.blockFmt rs1) = true
  control : convOk (c.blockFmt rs1) (c.block rs1 22 2) = true
  pinned : c.blockFmt rs1 = 4 ∨ c.blockFmt rs1 = 7 → bit (c.block rs1 22 2) 2 = true
  elemStride : c.block rs1 4 4 % 64 = 0
  scaleStride : c.blockFmt rs1 ≠ 10 → c.block rs1 12 4 % 16 = 0
  rows : c.block rs1 18 2 + c.block rs1 16 2 ≤ 256
  firstRow : c.block rs1 18 2 < 256
  inCup : c.block rs1 16 2 ≠ 0 →
    c.block rs1 0 4 + (c.block rs1 16 2 - 1) * c.block rs1 4 4 + lineBytes (c.blockFmt rs1) 64 ≤ cupEnd ∧
    (c.blockFmt rs1 ≠ 10 → c.block rs1 8 4 + (c.block rs1 16 2 - 1) * c.block rs1 12 4 + actGroups (c.blockFmt rs1) 64 ≤ cupEnd)

/-- The fields of a reload's operand block are legal (R86, R110 to R112). -/
structure Cluster.ReloadLegal (c : Cluster) (rs1 : Fin 32) : Prop where
  flags : c.block rs1 21 1 = 0
  reserved : c.block rs1 24 8 = 0
  elemStride : c.block rs1 4 4 % 64 = 0
  rows : c.block rs1 18 2 + c.block rs1 16 2 ≤ 256
  firstRow : c.block rs1 18 2 < 256
  inCup : c.block rs1 16 2 ≠ 0 → c.block rs1 0 4 + (c.block rs1 16 2 - 1) * c.block rs1 4 4 + 1024 ≤ cupEnd

/-! ### Legal operands pass each check. -/

section
variable {s : State} {i : Nat} {rs1 : Fin 32}

theorem State.wload_of_legal {rs2 : Fin 32} (hl : (s.dev.getCl i).WloadLegal rs1 rs2) (rd : Fin 32) :
    s.wload i rd rs1 rs2 = s.issueArr i (.load ((s.dev.getCl i).xget rs1).toNat (((s.dev.getCl i).xget rs2).toNat % 128)
      (bits ((s.dev.getCl i).xget rs2).toNat 11 8)) rd := by
  obtain ⟨hsome, hmax, hseven, hhigh, hfmt, hal, hcup⟩ := hl
  refine (if_neg ?rows).trans ((if_neg ?format).trans ((if_neg ?aligned).trans (if_neg ?inCup)))
  case rows =>
    rw [hseven]
    simp only [Bool.false_eq_true, false_or]
    omega
  case format => exact Nat.not_le.2 hfmt
  case aligned => exact not_not_intro hal
  case inCup => exact Nat.not_lt.2 hcup

section
variable (hb : (s.dev.getCl i).BlockPlaced rs1) (rd : Fin 32)
include hb

theorem State.streamOp_of_legal {tr : Bool} (hl : (s.dev.getCl i).StreamLegal rs1 tr) :
    let w := (s.dev.getCl i).block rs1
    s.streamOp i tr rd rs1 =
      s.issueArr i (.stream tr (w 0 4) (w 4 4) (w 8 4) (w 12 4) (w 16 2) (w 18 2) ((s.dev.getCl i).blockFmt rs1) (w 21 1 = 1)) rd := by
  obtain ⟨hbyte, hflags, hres, hq, hfmt, hes, hxs, hrows, hcup⟩ := hl
  refine (if_neg ?aligned).trans ((if_neg ?block).trans ((if_neg ?fields).trans ((if_neg ?format).trans
    ((if_neg ?strides).trans ((if_neg ?rows).trans (if_neg ?inCup))))))
  case aligned => exact not_not_intro hb.aligned
  case block => exact Nat.not_lt.2 hb.inCup
  case fields => exact not_or.2 ⟨Nat.not_le.2 hbyte, not_or.2 ⟨Nat.not_le.2 hflags, not_or.2 ⟨not_not_intro hres, Nat.not_le.2 hq⟩⟩⟩
  case format => exact Nat.not_le.2 hfmt
  case strides => exact not_or.2 ⟨not_not_intro hes, not_not_intro hxs⟩
  case rows => exact ne_true_of_eq_false (congrArg not (decide_eq_true hrows))
  case inCup =>
    rintro ⟨hn, hout⟩
    exact hout.elim (Nat.not_lt.2 (hcup hn).1) (Nat.not_lt.2 (hcup hn).2)

theorem State.drainOp_of_legal (hl : (s.dev.getCl i).DrainLegal rs1) :
    let w := (s.dev.getCl i).block rs1
    s.drainOp i rd rs1 =
      s.issueArr i (.drain (w 0 4) (w 4 4) (w 8 4) (w 12 4) (w 16 2) (w 18 2) ((s.dev.getCl i).blockFmt rs1) (w 22 2)) rd := by
  obtain ⟨hbyte, hflags, hres, hfmt, hconv, hpin, hes, hxs, hrows, hq, hcup⟩ := hl
  refine (if_neg ?aligned).trans ((if_neg ?block).trans ((if_neg ?fields).trans ((if_neg ?control).trans
    ((if_neg ?strides).trans ((if_neg ?rows).trans (if_neg ?inCup))))))
  case aligned => exact not_not_intro hb.aligned
  case block => exact Nat.not_lt.2 hb.inCup
  case fields => exact not_or.2 ⟨Nat.not_le.2 hbyte, not_or.2 ⟨not_not_intro hflags, not_not_intro hres⟩⟩
  case control =>
    rintro (hbad | hbad | ⟨hf, hbad⟩)
    · exact ne_true_of_eq_false (congrArg not hfmt) hbad
    · exact ne_true_of_eq_false (congrArg not hconv) hbad
    · exact ne_true_of_eq_false (congrArg not (hpin hf)) hbad
  case strides => exact not_or.2 ⟨not_not_intro hes, fun hbad => hbad.2 (hxs hbad.1)⟩
  case rows => exact not_or.2 ⟨Nat.not_lt.2 hrows, Nat.not_le.2 hq⟩
  case inCup =>
    rintro ⟨hn, hout | ⟨hf, hout⟩⟩
    · exact Nat.not_lt.2 (hcup hn).1 hout
    · rw [if_neg hf] at hout
      exact Nat.not_lt.2 ((hcup hn).2 hf) hout

theorem State.reloadOp_of_legal (hl : (s.dev.getCl i).ReloadLegal rs1) :
    let w := (s.dev.getCl i).block rs1
    s.reloadOp i rd rs1 = s.issueArr i (.reload (w 0 4) (w 4 4) (w 16 2) (w 18 2)) rd := by
  obtain ⟨hflags, hres, hes, hrows, hq, hcup⟩ := hl
  refine (if_neg ?aligned).trans ((if_neg ?block).trans ((if_neg ?fields).trans
    ((if_neg ?strides).trans ((if_neg ?rows).trans (if_neg ?inCup)))))
  case aligned => exact not_not_intro hb.aligned
  case block => exact Nat.not_lt.2 hb.inCup
  case fields => exact not_or.2 ⟨not_not_intro hflags, not_not_intro hres⟩
  case strides => exact not_not_intro hes
  case rows => exact not_or.2 ⟨Nat.not_lt.2 hrows, Nat.not_le.2 hq⟩
  case inCup => exact fun hbad => Nat.not_lt.2 (hcup hbad.1) hbad.2

end
end

/-! ### The instructions, of a kernel whose instruction is fetched. -/

/-- KQ_STREAM and KQ_STREAMT are one operation, straight or transposed. -/
theorem exec_kqStream_kqStreamt (tr : Bool) (p : Pre) (rd rs1 : Fin 32) (s : State) :
    exec (if tr then .kqStreamt p rd rs1 else .kqStream p rd rs1) s = .next (s.kernelStep p fun i s => s.streamOp i tr rd rs1) := by
  cases tr <;> rfl

/-- A fetched instruction that issues an array operation enters it with the next ticket, where tickets and a place in the queue are left. -/
theorem kernelStep_issueArr {s : State} {p : Pre} (h : KernelRuns s p) {f : Nat → State → State} {k : ArrKind} {rd : Fin 32}
    (hf : f (clIdx p.cl) (s.taking p) = (s.taking p).issueArr (clIdx p.cl) k rd)
    (ht : ((s.taking p).dev.getCl (clIdx p.cl)).tickets + 1 < 2 ^ 32) (hq : ((s.taking p).dev.getCl (clIdx p.cl)).arrq.length < 4) :
    s.kernelStep p f = (s.taking p).issueArr (clIdx p.cl) k rd :=
  kernelStep_only h hf (issueArr_ok ht hq).1

/-- Settles O10: the operands of each instruction pass its checks, and what it issues enters the queue. -/
theorem arrayIssue : Obligations.ArrayIssue := by
  unfold Obligations.ArrayIssue
  intro s p rd rs1 rs2 h i u c b v w f enters ht hq
  have enters_of {ins : Instr} {g : Nat → State → State} {k : ArrKind} (he : exec ins s = .next (s.kernelStep p g))
      (hg : g i u = u.issueArr i k rd) : enters ins k :=
    ⟨_, he.trans (congrArg Host.Outcome.next (kernelStep_issueArr h hg ht hq)), issueArr_ok ht hq⟩
  refine ⟨fun hsome hmax hseven hhigh hfmt hal hcup => ?wload, fun hal hin => ?block⟩
  case wload => exact enters_of rfl (State.wload_of_legal ⟨hsome, hmax, hseven, hhigh, hfmt, hal, hcup⟩ rd)
  case block =>
    have hb : c.BlockPlaced rs1 := ⟨hal, hin⟩
    refine ⟨fun tr => ?stream, fun hbyte hfl hres hfmt hconv hpin hes hxs hrows hrow hcup => ?drain,
      fun hfl hres hes hrows hrow hcup => ?reload⟩
    case stream =>
      intro ext hbyte hfl hres hrow hfmt hes hxs hrows hcup
      exact enters_of (exec_kqStream_kqStreamt tr p rd rs1 s)
        (State.streamOp_of_legal hb rd ⟨hbyte, hfl, hres, hrow, hfmt, hes, hxs, hrows, hcup⟩)
    case drain =>
      exact enters_of rfl (State.drainOp_of_legal hb rd ⟨hbyte, hfl, hres, hfmt, hconv, hpin, hes, hxs, hrows, hrow, hcup⟩)
    case reload => exact enters_of rfl (State.reloadOp_of_legal hb rd ⟨hfl, hres, hes, hrows, hrow, hcup⟩)

end Sys2Proof.Machine
end

section
/-!
PROOFS. The vector instructions of Xkq (R122 to R124): where its operands are legal, each writes its registers, takes the free values that it draws, and
retires.
-/

namespace Sys2Proof.Machine

/-! ### Instructions that change their cluster, draw free values and retire. -/

/-- Only cluster i changes where it is changed, free values are drawn, and it retires. -/
theorem modC_took_retire_only (s : State) (i n : Nat) (k : Cluster → Cluster) : OnlyCluster i s (((s.modC i k).took n).retire i) :=
  ((onlyCluster_modC s i k).trans (onlyCluster_took _ i n)).trans (retire_only _ i)

theorem modC_retire_only (s : State) (i : Nat) (k : Cluster → Cluster) : OnlyCluster i s ((s.modC i k).retire i) :=
  (onlyCluster_modC s i k).trans (retire_only _ i)

theorem modC_took_retire_getCl (s : State) (i n : Nat) (k : Cluster → Cluster) :
    (((s.modC i k).took n).retire i).dev.getCl i = (k (s.dev.getCl i)).retire := by
  rw [retire_getCl, State.took_getCl, modC_getCl]

theorem modC_retire_getCl (s : State) (i : Nat) (k : Cluster → Cluster) : ((s.modC i k).retire i).dev.getCl i = (k (s.dev.getCl i)).retire := by
  rw [retire_getCl, modC_getCl]

@[simp] theorem progressed_free (s : State) (e : Nat) : (s.progressed e).dev.free = s.dev.free := by
  unfold State.progressed
  split <;> rfl

theorem modC_took_retire_free (s : State) (i n : Nat) (k : Cluster → Cluster) :
    (((s.modC i k).took n).retire i).dev.free = s.dev.free + n :=
  progressed_free _ _

/-! ### The commands, of a kernel whose instruction is fetched. -/

theorem State.vrun_of_ok {bad : Option Nat} (hb : bad = none) (s : State) (i enc : Nat) (f : State → State) : s.vrun i enc bad f = f s := by
  rw [hb]
  rfl

section
variable {s : State} {p : Pre} (h : KernelRuns s p) {ins : Instr} {f : Nat → State → State} (he : exec ins s = .next (s.kernelStep p f))
  {enc : Nat} {bad : Option Nat} {g : State → State} (hf : f (clIdx p.cl) (s.taking p) = (s.taking p).vrun (clIdx p.cl) enc bad g)
  (hb : bad = none)
include h he hf hb

/-- A vector instruction that passes its checks ends in its effect. -/
theorem exec_vector_runs (ho : OnlyCluster (clIdx p.cl) (s.taking p) (g (s.taking p))) : exec ins s = .next (g (s.taking p)) :=
  he.trans (congrArg Host.Outcome.next (kernelStep_only h (hf.trans (State.vrun_of_ok hb _ _ _ _)) ho))

/-- One that writes its cluster and retires does that alone. -/
theorem exec_vector_writes {k : Cluster → Cluster} (hg : g (s.taking p) = ((s.taking p).modC (clIdx p.cl) k).retire (clIdx p.cl)) :
    ∃ t, exec ins s = .next t ∧ t.dev.getCl (clIdx p.cl) = (k ((s.taking p).dev.getCl (clIdx p.cl))).retire ∧
      OnlyCluster (clIdx p.cl) (s.taking p) t := by
  have ho : OnlyCluster (clIdx p.cl) (s.taking p) (g (s.taking p)) := hg ▸ modC_retire_only _ _ _
  exact ⟨_, exec_vector_runs h he hf hb ho, hg ▸ modC_retire_getCl _ _ _, ho⟩

/-- One that draws free values beside takes that many of them. -/
theorem exec_vector_draws {k : Cluster → Cluster} {n : Nat}
    (hg : g (s.taking p) = (((s.taking p).modC (clIdx p.cl) k).took n).retire (clIdx p.cl)) :
    ∃ t, exec ins s = .next t ∧ t.dev.getCl (clIdx p.cl) = (k ((s.taking p).dev.getCl (clIdx p.cl))).retire ∧
      OnlyCluster (clIdx p.cl) (s.taking p) t ∧ t.dev.free = (s.taking p).dev.free + n := by
  have ho : OnlyCluster (clIdx p.cl) (s.taking p) (g (s.taking p)) := hg ▸ modC_took_retire_only _ _ _ _
  exact ⟨_, exec_vector_runs h he hf hb ho, hg ▸ modC_took_retire_getCl _ _ _ _, ho, hg ▸ modC_took_retire_free _ _ _ _⟩

end

/-- kq.srnd with a legal shift raises nothing (R123). -/
theorem srnd_legal {ok : Bool} {v : Nat} (hok : ok = true) (hv : v < 64) :
    (if !ok then some 2 else if 64 ≤ v then some 30 else none : Option Nat) = none := by
  rw [hok, if_neg (by simp), if_neg (Nat.not_le.2 hv)]

/-- kq.topk with a legal operand raises nothing (R124). -/
theorem topk_legal {ok : Bool} {v sew : Nat} (hok : ok = true) (hsew : sew ≤ 32) (hk : v % 16 ≠ 0) (hmax : v % 16 ≤ 8) (hlow : bits v 7 4 = 0)
    (hmid : bits v 15 9 = 0) (hhigh : v < 2 ^ 32) :
    (if !ok then some 2 else if v % 16 = 0 ∨ 8 < v % 16 ∨ (bits v 7 4 ≠ 0 ∨ bits v 15 9 ≠ 0 ∨ 2 ^ 32 ≤ v) ∨ 32 < sew then some 30 else none
      : Option Nat) = none := by
  rw [hok, if_neg (by simp), if_neg (by omega)]

/-- Settles O7: the checks of each instruction pass, and it writes its cluster and retires. -/
theorem vectorResults : Obligations.VectorResults := by
  unfold Obligations.VectorResults
  intro s p vd vs2 vs1 rs1 vm h i u c n v
  refine ⟨fun hb => ?bexp, fun hb => ⟨?fit, ?pin⟩, fun hb => ?align, fun hb => ?pack, fun hb => ?unpack, fun hok hv => ?srnd,
    fun hok hsew hk hmax hlow hmid hhigh => ?topk⟩
  case bexp =>
    obtain ⟨t, he, hc, ho, _⟩ := exec_vector_draws h (ins := .kqBexp p vd vs2) rfl rfl hb rfl
    exact ⟨t, he, hc, ho⟩
  case fit => exact exec_vector_writes h (ins := .kqFit p vd vs2 vm) (k := fun c => c.fitAll vd.val vs2.val vm) rfl rfl hb rfl
  case pin => exact exec_vector_writes h (ins := .kqPin p vd vs2 vm) (k := fun c => c.pinAll vd.val vs2.val vm) rfl rfl hb rfl
  case align =>
    obtain ⟨t, he, hc, ho, _⟩ := exec_vector_draws h (ins := .kqAlign p vd vs2 vs1) rfl rfl hb rfl
    exact ⟨t, he, hc, ho⟩
  case pack => exact exec_vector_writes h (ins := .kqPack p vd vs2 vs1) (k := fun c => c.packAll vd.val vs2.val vs1.val) rfl rfl hb rfl
  case unpack => exact exec_vector_writes h (ins := .kqUnpack p vd vs2) (k := fun c => c.unpackAll vd.val vs2.val) rfl rfl hb rfl
  case srnd =>
    obtain ⟨t, he, hc, ho, hn⟩ := exec_vector_draws h (ins := .kqSrnd p vd vs2 rs1 vm) rfl rfl (srnd_legal hok hv) rfl
    exact ⟨t, he, ho, hc, hn⟩
  case topk =>
    exact exec_vector_writes h (ins := .kqTopk p vd vs2 rs1 vm) (k := fun c => c.topkAll vd.val vs2.val v vm) rfl rfl
      (topk_legal hok hsew hk hmax hlow hmid hhigh) rfl

end Sys2Proof.Machine
end

section
/-!
PROOFS. Loads and stores of kernel code (R96 to R99, R103): the own cup, a virtual address that hits the range cache and the control cache, and vector
accesses of the cup.
-/

namespace Sys2Proof.Machine

/-! ### What a change of one cluster leaves alone. -/

theorem OnlyCluster.mem_eq {i : Nat} {s t : State} (h : OnlyCluster i s t) : t.mem = s.mem := by
  obtain ⟨hd, _⟩ := h
  exact hd.mem_eq

theorem OnlyCluster.getPart {i : Nat} {s t : State} (h : OnlyCluster i s t) (uid : Nat) : t.dev.getPart uid = s.dev.getPart uid := by
  obtain ⟨_, hdev, _⟩ := h
  rw [hdev]
  rfl

theorem OnlyCluster.cc {i : Nat} {s t : State} (h : OnlyCluster i s t) (e : Nat) : (t.dev.getEng e).cc = (s.dev.getEng e).cc := by
  obtain ⟨_, _, _, heng, _⟩ := h
  rw [heng e]

/-- An instruction that leaves every part as it was has no other cluster's trap joined to it. -/
theorem alsoTraps_same {s t : State} (p : Pre) (h : ∀ uid, t.dev.getPart uid = s.dev.getPart uid) : s.alsoTraps t p = t :=
  alsoTraps_none fun uid _ => congrArg (fun y : Option Part => y.bind fun x => x.trap) (h uid)

/-! ### The own cup (R96 to R99). -/

section
variable {s : State} {i a log2 : Nat} (ha : a % 2 ^ log2 = 0)
include ha

theorem State.kload_cup {o : Nat} (hl : 2 ^ 63 ≤ a) (ho : localOf (i % 20) a = .cup o) (rd : Fin 32) (sgn : Bool) :
    s.kload i rd a log2 sgn .ok = s.done i rd (loadValue log2 sgn (Mem.read (s.dev.getCl i).cup o (2 ^ log2))) := by
  unfold State.kload
  rw [if_neg (not_not_intro ha), if_pos hl, ho]
  rfl

theorem State.kstore_cup {o : Nat} (hl : 2 ^ 63 ≤ a) (ho : localOf (i % 20) a = .cup o) (v : Word) (chk : Check) :
    s.kstore i a v log2 chk = (s.modC i fun c => { c with cup := Mem.write c.cup o (leBytes (2 ^ log2) v.toNat) }).retire i := by
  unfold State.kstore
  rw [if_neg (not_not_intro ha), if_pos hl, ho]

end

/-! ### Virtual addresses (R103, R107, R258, R263). -/

theorem State.ccCheck_ok (s : State) (e slot : Nat) : s.ccCheck e slot .ok = (s, true) := by
  unfold State.ccCheck
  split <;> rfl

/-- An access whose line passes its check goes on as it is. -/
theorem State.checked_ok (s : State) (i access va : Nat) (f : State → State) : s.checked i access va .ok f = f s := by
  unfold State.checked
  split
  · rw [State.ccCheck_ok]
    rfl
  · rfl

section
variable {s : State} {i a log2 : Nat} (ha : a % 2 ^ log2 = 0) (hv : a < 2 ^ 48)
include ha hv

theorem State.kload_virtual (rd : Fin 32) (sgn : Bool) : s.kload i rd a log2 sgn .ok = s.vaccess i a (.load rd log2 sgn) := by
  unfold State.kload
  rw [if_neg (not_not_intro ha), if_neg (by omega), if_neg (by omega), State.checked_ok]

theorem State.kstore_virtual (v : Word) : s.kstore i a v log2 .ok = s.vaccess i a (.store v log2) := by
  unfold State.kstore
  rw [if_neg (not_not_intro ha), if_neg (by omega), if_neg (by omega), State.checked_ok]

end

/-- The range cache's entry of an access becomes its most recently used (R263). -/
def State.touching (s : State) (e ctx : Nat) (r : RangeEntry) : State := s.onDev fun d => d.modEng e fun y => y.rcTouch ctx r

theorem State.touching_cc (s : State) (e ctx : Nat) (r : RangeEntry) : ((s.touching e ctx r).dev.getEng e).cc = (s.dev.getEng e).cc := by
  rw [State.touching, State.onDev_dev, Dev.getEng_modEng_self]
  rfl

/-- An access of the cluster hits the control cache, and counts (R103). -/
def Cluster.hit (c : Cluster) : Cluster := { c with ccHits := min max64 (c.ccHits + 1) }

/-- An access that reaches a physical address promotes nothing. -/
theorem Dev.reach_phys {d : Dev} {r : RangeEntry} {uid access va pa : Nat} (h : d.runPlace r uid access va = .phys pa) :
    d.reach r uid access va = (d, .phys pa) := by
  unfold Dev.reach
  rw [h]

/-- An access whose line the control cache holds is a hit. -/
theorem State.ccAccess_hit {s : State} {e pa slot : Nat} {l : CcLine} (hl : (s.dev.getEng e).ccSlot (pa / 128) = some (slot, l)) (i uid : Nat)
    (acc : KAccess) : s.ccAccess i e uid pa acc = (s.modC i Cluster.hit).ccHit i e slot l uid pa acc := by
  unfold State.ccAccess
  dsimp only
  rw [hl]
  rfl

/-- A load, store or fetch whose entry the range cache holds, of no object, and whose line the control cache holds is a hit (R103, R258, R263). -/
theorem State.vaccess_hit {s : State} {i uid va pa slot : Nat} {x : Part} {r : RangeEntry} {l : CcLine} {acc : KAccess}
    (hu : (s.dev.getCl i).part = some uid) (hx : s.dev.getPart uid = some x) (hr : (s.dev.getEng (i / 20)).rcFind x.ctx va = some r)
    (hk : r.kind ≠ 2) (hl : (s.dev.getEng (i / 20)).ccSlot (pa / 128) = some (slot, l))
    (hpa : (s.touching (i / 20) x.ctx r).dev.runPlace r uid acc.kind va = .phys pa) (hacc : ∀ op dbl rd v, acc ≠ .amo op dbl rd v) :
    s.vaccess i va acc = ((s.touching (i / 20) x.ctx r).modC i Cluster.hit).ccHit i (i / 20) slot l uid pa acc := by
  have htouch : ((s.touching (i / 20) x.ctx r).dev.getEng (i / 20)).ccSlot (pa / 128) = some (slot, l) := by
    rw [Engine.ccSlot, State.touching_cc]
    exact hl
  rw [← State.ccAccess_hit htouch]
  have hreach := Dev.reach_phys hpa
  unfold State.touching at hreach ⊢
  unfold State.vaccess
  simp only [hu, hx, hr, hreach, if_neg hk]
  cases acc with
  | amo op dbl rd v => exact absurd rfl (hacc op dbl rd v)
  | load | store | fetch => rfl

@[simp] theorem Dev.getPart_modEng (d : Dev) (e u : Nat) (f : Engine → Engine) : (d.modEng e f).getPart u = d.getPart u := rfl
@[simp] theorem Dev.getPart_modCtx (d : Dev) (n u : Nat) (f : Ctx → Ctx) : (d.modCtx n f).getPart u = d.getPart u := rfl
@[simp] theorem Dev.getEng_modPart (d : Dev) (u e : Nat) (f : Part → Part) : (d.modPart u f).getEng e = d.getEng e := rfl
@[simp] theorem Dev.getEng_modCtx (d : Dev) (n e : Nat) (f : Ctx → Ctx) : (d.modCtx n f).getEng e = d.getEng e := rfl

/-! What a part has written is remembered: every trap, every cached line and every cluster stays (R174). -/

theorem Dev.wrote_trap (d : Dev) (uid line : Nat) (mask : BitVec 128) (u : Nat) :
    ((d.wrote uid line mask).getPart u).bind (fun x => x.trap) = (d.getPart u).bind fun x => x.trap := by
  unfold Dev.wrote
  split
  · rfl
  · simp only [Dev.getPart_modCtx, Dev.getPart_modPart, Dev.getPart_modEng]
    split
    · exact Option.bind_map
    · rfl

theorem Dev.wrote_cc (d : Dev) (uid line : Nat) (mask : BitVec 128) (e : Nat) :
    ((d.wrote uid line mask).getEng e).cc = (d.getEng e).cc := by
  unfold Dev.wrote
  split
  · rfl
  · simp only [Dev.getEng_modCtx, Dev.getEng_modPart, Dev.getEng_modEng]
    split <;> rfl

theorem Dev.wrote_getCl (d : Dev) (uid line : Nat) (mask : BitVec 128) (j : Nat) : (d.wrote uid line mask).getCl j = d.getCl j := by
  unfold Dev.wrote
  split <;> rfl

/-- A store that hits leaves its bytes in the line, and the cluster retires; memory and every part's trap stay. -/
theorem State.ccHit_store (s : State) (i e slot : Nat) (l : CcLine) (uid pa : Nat) (v : Word) (log2 : Nat) :
    let t := s.ccHit i e slot l uid pa (.store v log2)
    t.dev.getCl i = (s.dev.getCl i).retire ∧ t.mem = s.mem ∧
      (t.dev.getEng e).cc = Map.mod (s.dev.getEng e).cc slot (fun l => l.put (pa % 128) (leBytes (2 ^ log2) v.toNat)) ∧
      ∀ u, (t.dev.getPart u).bind (fun x => x.trap) = (s.dev.getPart u).bind fun x => x.trap := by
  intro t
  refine ⟨?cluster, ?memory, ?line, fun u => ?trap⟩
  case cluster => exact (retire_getCl _ _).trans (congrArg Cluster.retire (Dev.wrote_getCl _ _ _ _ _))
  case memory => exact (retire_only _ _).mem_eq
  case line =>
    refine ((retire_only _ _).cc e).trans ((Dev.wrote_cc _ _ _ _ _).trans ?_)
    rw [Dev.getEng_modEng_self]
  case trap => exact (congrArg (fun o : Option Part => o.bind fun x => x.trap) ((retire_only _ _).getPart u)).trans (Dev.wrote_trap _ _ _ _ _)

/-! ### Vector accesses of the cup (R94, R96). -/

theorem vfault_cup {k a w o : Nat} (ha : a % w = 0) (hl : 2 ^ 63 ≤ a) (ho : localOf k a = .cup o) (store : Bool) : vfault k a w store = none := by
  unfold vfault
  rw [if_neg (not_not_intro ha), if_neg (Nat.not_lt.2 hl), ho]

section
variable {s : State} {i vd log2 nf : Nat} {rs1 : Fin 32} {mode : VMode} {vm : Bool}

/-- A legal vector access of which every active element lies in the own cup moves them all (R96). -/
theorem State.vmem_of_cup {store : Bool} (hb : (s.dev.getCl i).vmemBad vd mode log2 nf vm store = false)
    (hcup : ∀ k ∈ (List.range (vcount (s.dev.getCl i) mode log2)).filter fun k => vm || (s.dev.getCl i).vmask k, ∀ f, f ≤ nf →
      let a := vaddr (s.dev.getCl i) mode ((s.dev.getCl i).xget rs1) log2 nf k f
      a % vwidth (s.dev.getCl i) mode log2 = 0 ∧ 2 ^ 63 ≤ a ∧ ∃ o, localOf (i % 20) a = .cup o) :
    s.vmem i vd rs1 mode log2 nf vm store = (s.modC i fun c =>
      ((List.range (vcount (s.dev.getCl i) mode log2)).filter fun k => vm || (s.dev.getCl i).vmask k).foldl
        (c.vmove (i % 20) vd mode ((s.dev.getCl i).xget rs1) log2 nf store) c).retire i := by
  have hbad : ((List.range (vcount (s.dev.getCl i) mode log2)).filter fun k => vm || (s.dev.getCl i).vmask k).findSome? (fun k =>
      (vsegFault (s.dev.getCl i) (i % 20) mode ((s.dev.getCl i).xget rs1) log2 nf k store).map fun x => (k, x)) = none := by
    refine List.findSome?_eq_none_iff.2 fun k hk => Option.map_eq_none_iff.2 (List.findSome?_eq_none_iff.2 fun f hf => ?_)
    obtain ⟨ha, hl, o, ho⟩ := hcup k hk f (Nat.lt_succ_iff.1 (List.mem_range.1 hf))
    exact vfault_cup ha hl ho store
  unfold State.vmem
  dsimp only
  rw [if_neg (Bool.eq_false_iff.1 hb), hbad]
  rfl

end

/-! ### The commands, of a kernel whose instruction is fetched. -/

/-- Settles O9: the own cup, a virtual address, and one whose line is held, each by its rule above. -/
theorem cupAccess : Obligations.CupAccess := by
  unfold Obligations.CupAccess
  intro s p rd rs1 rs2 imm log2 h i u c a
  have load_eq (sgn : Bool) (chk : Check) : exec (.kernelLoad p rd rs1 imm log2 sgn chk) s =
      .next (u.alsoTraps (u.kload i rd a log2.val sgn chk) p) := congrArg Host.Outcome.next (kernelStep_runs h _)
  have store_eq (chk : Check) : exec (.kernelStore p rs1 rs2 imm log2 chk) s =
      .next (u.alsoTraps (u.kstore i a (c.xget rs2) log2.val chk) p) := congrArg Host.Outcome.next (kernelStep_runs h _)
  have virtual_load (ha : a % 2 ^ log2.val = 0) (hv : a < 2 ^ 48) (sgn : Bool) : exec (.kernelLoad p rd rs1 imm log2 sgn .ok) s =
      .next (u.alsoTraps (u.vaccess i a (.load rd log2.val sgn)) p) := by
    rw [load_eq, State.kload_virtual ha hv]
  have virtual_store (ha : a % 2 ^ log2.val = 0) (hv : a < 2 ^ 48) : exec (.kernelStore p rs1 rs2 imm log2 .ok) s =
      .next (u.alsoTraps (u.vaccess i a (.store (c.xget rs2) log2.val)) p) := by
    rw [store_eq, State.kstore_virtual ha hv]
  refine ⟨fun o ha hl ho => ⟨fun sgn => ?loadCup, fun chk => ?storeCup⟩, fun ha hv => ⟨virtual_load ha hv, virtual_store ha hv⟩,
    fun uid slot pa x r l hv hu hx hr hk hl ha => ⟨fun hpa sgn => ?loadHit, fun hpa => ?storeHit⟩,
    fun vd mode nf vm => ?vector⟩
  case loadCup =>
    have ho' := done_only u i rd (loadValue log2.val sgn (Mem.read c.cup o (2 ^ log2.val)))
    refine ⟨_, ?_, done_getCl _ _ _ _, ho'⟩
    rw [load_eq, State.kload_cup ha hl ho, alsoTraps_only p ho']
  case storeCup =>
    have ho' := modC_retire_only u i fun c' => { c' with cup := Mem.write c'.cup o (leBytes (2 ^ log2.val) (c.xget rs2).toNat) }
    refine ⟨_, ?_, ho', modC_retire_getCl _ _ _⟩
    rw [store_eq, State.kstore_cup ha hl ho, alsoTraps_only p ho']
  case loadHit =>
    have ho' := (onlyCluster_modC (u.touching (i / 20) x.ctx r) i Cluster.hit).trans
      (done_only _ i rd (loadValue log2.val sgn (l.get (pa % 128) (2 ^ log2.val))))
    refine ⟨_, ?_, (done_getCl _ _ _ _).trans (congrArg (fun y => (Cluster.xset y rd _).retire) (modC_getCl _ _ _)), ho'.mem_eq⟩
    rw [virtual_load ha hv, State.vaccess_hit (acc := .load rd log2.val sgn) hu hx hr hk hl hpa (by simp)]
    exact congrArg Host.Outcome.next (alsoTraps_same p ho'.getPart)
  case storeHit =>
    obtain ⟨hc, hm, hcc, htrap⟩ := State.ccHit_store ((u.touching (i / 20) x.ctx r).modC i Cluster.hit) i (i / 20) slot l uid pa (c.xget rs2) log2.val
    refine ⟨_, ?_, hc.trans (congrArg Cluster.retire (modC_getCl _ _ _)), hm, hcc.trans ?_⟩
    · rw [virtual_store ha hv, State.vaccess_hit (acc := .store (c.xget rs2) log2.val) hu hx hr hk hl hpa (by simp)]
      exact congrArg Host.Outcome.next (alsoTraps_none fun w _ => htrap w)
    · exact congrArg (fun y => Map.mod y slot _) (State.touching_cc u (i / 20) x.ctx r)
  case vector =>
    intro at' act hcup
    have moves {ins : Instr} {store : Bool} (he : exec ins s = .next (s.kernelStep p fun i s => s.vmem i vd.val rs1 mode log2.val nf.val vm store))
        (hb : c.vmemBad vd.val mode log2.val nf.val vm store = false) :
        ∃ t, exec ins s = .next t ∧ OnlyCluster i u t ∧
          t.dev.getCl i = (act.foldl (c.vmove (i % 20) vd.val mode (c.xget rs1) log2.val nf.val store) c).retire := by
      have ho := modC_retire_only u i fun c' => act.foldl (c'.vmove (i % 20) vd.val mode (c.xget rs1) log2.val nf.val store) c'
      exact ⟨_, he.trans (congrArg Host.Outcome.next (kernelStep_only h (State.vmem_of_cup hb hcup) ho)), ho, modC_retire_getCl _ _ _⟩
    exact ⟨moves rfl, moves rfl⟩

end Sys2Proof.Machine
end

section
/-!
PROOFS. Traps of kernel code (R127, R128, Table 5.15): the part fails with its detail, every cluster of the kernel stops, and other clusters that
trapped in the same core cycle join.
-/

namespace Sys2Proof.Machine

/-! ### A part that ends its use of its engine (R168, R171): what stays, and what its clusters do. -/

/-- A cluster that is let go by its part. -/
def Cluster.letGo (c : Cluster) : Cluster :=
  { c with run := .idle, part := none, stall := .none, fetched := none, arrq := [], rampRun := 0, movs := [] }

/-- Lets go of those of the given clusters of an engine that a part holds. -/
def Dev.letGo (d : Dev) (e uid : Nat) (l : List Nat) : Dev :=
  l.foldl (fun d k => if (d.getCl (20 * e + k)).part = some uid then d.modCl (20 * e + k) Cluster.letGo else d) d

theorem Dev.letGo_getCl (e uid j : Nat) (l : List Nat) : ∀ d : Dev, (d.letGo e uid l).getCl j =
    if (∃ k ∈ l, 20 * e + k = j) ∧ (d.getCl j).part = some uid then (d.getCl j).letGo else d.getCl j := by
  induction l with
  | nil => intro d; simp [Dev.letGo]
  | cons k l ih =>
    intro d
    refine (ih _).trans ?_
    by_cases hj : 20 * e + k = j
    · subst hj
      by_cases hp : (d.getCl (20 * e + k)).part = some uid
      · simp [hp, Cluster.letGo]
      · simp [hp]
    · have hother : (if (d.getCl (20 * e + k)).part = some uid then d.modCl (20 * e + k) Cluster.letGo else d).getCl j = d.getCl j := by
        split
        · rw [Dev.getCl_modCl, if_neg hj]
        · rfl
      rw [hother]
      simp [hj]

/-- The clusters after a part is released: those of its engine that it holds are let go, and no other differs. -/
theorem Dev.releasePart_getCl {d : Dev} {uid : Nat} {p : Part} (hp : d.getPart uid = some p) (j : Nat) :
    (d.releasePart uid).getCl j =
      if (∃ k ∈ List.range 20, 20 * eIdx p.eng + k = j) ∧ (d.getCl j).part = some uid then (d.getCl j).letGo else d.getCl j := by
  unfold Dev.releasePart
  rw [hp]
  dsimp only [Dev.modPart, Dev.dropExports, Dev.modPt, Dev.getCl]
  exact Dev.letGo_getCl (eIdx p.eng) uid j (List.range 20) _

theorem Dev.releasePart_trap (d : Dev) (uid u : Nat) :
    ((d.releasePart uid).getPart u).map (fun x => x.trap) = (d.getPart u).map fun x => x.trap := by
  cases hp : d.getPart uid with
  | none =>
    unfold Dev.releasePart
    rw [hp]
  | some p =>
    unfold Dev.getPart
    rw [Dev.releasePart_parts hp, Sys2Proof.Map.find_mod]
    split
    · rw [Option.map_map]; rfl
    · rfl

/-! ### A part that is stopped (R168, R171). -/

/-- What a part is released from when it is stopped: a kernel that runs drops what its control cache holds for it. -/
def Dev.quieted (d : Dev) (p : Part) : Dev := if p.kind = .kernel ∧ p.ran then d.modEng (eIdx p.eng) Engine.dropCc else d

theorem Dev.quieted_parts (d : Dev) (p : Part) : (d.quieted p).parts = d.parts := by
  unfold Dev.quieted
  split <;> rfl

theorem Dev.quieted_cl (d : Dev) (p : Part) : (d.quieted p).cl = d.cl := by
  unfold Dev.quieted
  split <;> rfl

theorem State.stopPart_eq {s : State} {uid : Nat} {p : Part} (hp : s.dev.getPart uid = some p) (stage : PartStage) :
    s.stopPart uid stage = ({ s with dev := ((s.dev.quieted p).releasePart uid).modPart uid fun p => { p with stage := stage },
                                     mem := s.mem.unbuffer uid s.dev.free } : State).took s.mem.flight.length := by
  unfold State.stopPart
  rw [hp]
  rfl

theorem State.stopPart_none {s : State} {uid : Nat} (hp : s.dev.getPart uid = none) (stage : PartStage) : s.stopPart uid stage = s := by
  unfold State.stopPart
  rw [hp]

theorem State.stopPart_getCl {s : State} {uid : Nat} {p : Part} (hp : s.dev.getPart uid = some p) (stage : PartStage) (j : Nat) :
    (s.stopPart uid stage).dev.getCl j =
      if (∃ k ∈ List.range 20, 20 * eIdx p.eng + k = j) ∧ (s.dev.getCl j).part = some uid then (s.dev.getCl j).letGo else s.dev.getCl j := by
  have hq : (s.dev.quieted p).getPart uid = some p := by rw [Dev.getPart, Dev.quieted_parts]; exact hp
  have hc : (s.dev.quieted p).getCl j = s.dev.getCl j := by rw [Dev.getCl, Dev.quieted_cl]; rfl
  rw [State.stopPart_eq hp, State.took_getCl, ← hc]
  exact Dev.releasePart_getCl hq j

/-- A cluster that is idle stays idle when a part is stopped. -/
theorem State.stopPart_idle {s : State} {j : Nat} (h : (s.dev.getCl j).run = .idle) (uid : Nat) (stage : PartStage) :
    ((s.stopPart uid stage).dev.getCl j).run = .idle := by
  cases hp : s.dev.getPart uid with
  | none => rw [State.stopPart_none hp]; exact h
  | some p =>
    rw [State.stopPart_getCl hp]
    split
    · rfl
    · exact h

theorem State.stopPart_trap (s : State) (uid : Nat) (stage : PartStage) (u : Nat) :
    ((s.stopPart uid stage).dev.getPart u).map (fun x => x.trap) = (s.dev.getPart u).map fun x => x.trap := by
  cases hp : s.dev.getPart uid with
  | none => rw [State.stopPart_none hp]
  | some p =>
    have hq : (s.dev.quieted p).getPart u = s.dev.getPart u := by rw [Dev.getPart, Dev.quieted_parts]; rfl
    refine Eq.trans ?_ ((Dev.releasePart_trap (s.dev.quieted p) uid u).trans (congrArg _ hq))
    rw [State.stopPart_eq hp, State.took_getPart]
    dsimp only
    rw [Dev.getPart_modPart]
    split
    · rw [Option.map_map]; rfl
    · rfl

theorem State.stopPart_pow_mgmt (s : State) (uid : Nat) (stage : PartStage) :
    (s.stopPart uid stage).pow = s.pow ∧ (s.stopPart uid stage).mgmt = s.mgmt := by
  unfold State.stopPart
  split <;> exact ⟨rfl, rfl⟩

/-! ### A part that fails (R168). -/

/-- What holds once a live part has stopped, and is kept where other parts stop and commands change, holds when it has failed. -/
theorem State.failPart_induction {s : State} {uid status : Nat} {p : Part} (hp : s.dev.getPart uid = some p) (hl : p.live = true)
    {Q : State → Prop} (hstop : ∀ t u stage, Q t → Q (t.stopPart u stage))
    (hcmd : ∀ t n seq f, Q t → Q (t.onDev fun d => d.modCmd n seq f)) (h : Q (s.stopPart uid (.failed status))) : Q (s.failPart uid status) := by
  unfold State.failPart
  rw [hp]
  dsimp only
  rw [if_neg (by simp [hl])]
  refine hcmd _ _ _ _ (List.foldlRecOn (motive := Q) _ _ h fun t ht u _ => ?_)
  split
  · split
    · exact hstop _ _ _ ht
    · exact ht
  · exact ht

section
variable {s : State} {uid : Nat} {p : Part} (hp : s.dev.getPart uid = some p) (hl : p.live = true) (status : Nat)
include hp hl

/-- Every cluster of its engine that it held is idle (R127). -/
theorem State.failPart_idle {j : Nat} (hj : ∃ k ∈ List.range 20, 20 * eIdx p.eng + k = j) (hu : (s.dev.getCl j).part = some uid) :
    ((s.failPart uid status).dev.getCl j).run = .idle := by
  refine State.failPart_induction hp hl (Q := fun t => (t.dev.getCl j).run = .idle) (fun t u stage h => State.stopPart_idle h u stage)
    (fun _ _ _ _ h => h) ?_
  rw [State.stopPart_getCl hp, if_pos ⟨hj, hu⟩]
  rfl

theorem State.failPart_trap (u : Nat) : ((s.failPart uid status).dev.getPart u).map (fun x => x.trap) = (s.dev.getPart u).map fun x => x.trap :=
  State.failPart_induction hp hl (Q := fun t => (t.dev.getPart u).map (fun x => x.trap) = (s.dev.getPart u).map fun x => x.trap)
    (fun t v stage h => (State.stopPart_trap t v stage u).trans h) (fun _ _ _ _ h => h) (State.stopPart_trap _ _ _ _)

theorem State.failPart_pow_mgmt : (s.failPart uid status).pow = s.pow ∧ (s.failPart uid status).mgmt = s.mgmt := by
  refine State.failPart_induction hp hl (Q := fun t => t.pow = s.pow ∧ t.mgmt = s.mgmt) (fun t u stage h => ?_)
    (fun _ _ _ _ h => h) (State.stopPart_pow_mgmt _ _ _)
  obtain ⟨hpow, hmgmt⟩ := State.stopPart_pow_mgmt t u stage
  exact ⟨hpow.trans h.1, hmgmt.trans h.2⟩

end

/-! ### A part that has trapped (R127, R128, Table 5.16). -/

/-- The offset of a cluster's pc from the code base of its kernel (Table 5.16). -/
def State.pcOff (s : State) (uid j : Nat) : Nat := ((s.dev.getCl j).pc.toNat + 2 ^ 64 - field (s.dev.descOf uid) 32 8) % 2 ^ 32

/-- A part has failed with a trap of a detail: the clusters that it held are idle, and memory, power and management stay. -/
structure State.Trapped (s t : State) (uid : Nat) (x : Part) (detail : Nat × Nat × Nat × Nat × Nat) : Prop where
  part : ∃ y, t.dev.getPart uid = some y ∧ y.stage = .failed stTrap ∧ y.trap = some detail
  idle : ∀ k : Fin 20, (s.dev.getCl (20 * eIdx x.eng + k.val)).part = some uid → (t.dev.getCl (20 * eIdx x.eng + k.val)).run = .idle
  bytes : t.mem.bytes = s.mem.bytes
  pow : t.pow = s.pow
  mgmt : t.mgmt = s.mgmt

/-- The detail of a trap may be written anew. -/
theorem State.Trapped.withTrap {s t : State} {uid : Nat} {x : Part} {detail : Nat × Nat × Nat × Nat × Nat} (h : s.Trapped t uid x detail)
    (detail' : Nat × Nat × Nat × Nat × Nat) :
    s.Trapped (t.onDev fun d => d.modPart uid fun z => { z with trap := some detail' }) uid x detail' where
  part := by
    obtain ⟨y, hy, hstage, _⟩ := h.part
    exact ⟨{ y with trap := some detail' }, by rw [State.onDev_dev, Dev.getPart_modPart, if_pos rfl, hy]; rfl, hstage, rfl⟩
  idle := h.idle
  bytes := h.bytes
  pow := h.pow
  mgmt := h.mgmt

/-- A live part fails from any state that differs from s in free values and in the part's trap alone. -/
theorem State.trapped_failPart {s u : State} {uid : Nat} {x : Part} {detail : Nat × Nat × Nat × Nat × Nat}
    (hx : u.dev.getPart uid = some { x with trap := some detail }) (hl : x.live = true) (hc : ∀ j, u.dev.getCl j = s.dev.getCl j)
    (hbytes : u.mem.bytes = s.mem.bytes) (hpow : u.pow = s.pow) (hmgmt : u.mgmt = s.mgmt) : s.Trapped (u.failPart uid stTrap) uid x detail where
  part := by
    obtain ⟨y, hy, hstage, _⟩ := State.failPart_of_live (status := stTrap) hx hl
    have htrap := State.failPart_trap hx hl stTrap uid
    rw [hy, hx] at htrap
    exact ⟨y, hy, hstage, Option.some.inj htrap⟩
  idle k hk := State.failPart_idle hx hl stTrap ⟨k.val, List.mem_range.2 k.isLt, rfl⟩ ((hc _).symm ▸ hk)
  bytes := by
    obtain ⟨_, _, _, hb⟩ := State.failPart_of_live (status := stTrap) hx hl
    exact hb.trans hbytes
  pow := (State.failPart_pow_mgmt hx hl stTrap).1.trans hpow
  mgmt := (State.failPart_pow_mgmt hx hl stTrap).2.trans hmgmt

/-- The value that a trap reports: its own, or a free one where the manual states none (log 5). -/
def State.trapValue (s : State) (cause tval : Nat) : Nat := if tvalFree cause then (Config.trapValue s.dev.free).toNat else tval

/-- A trap of one cluster fails its live part, with its own detail. -/
theorem State.trapped_trap {s : State} {i uid : Nat} {x : Part} (hu : (s.dev.getCl i).part = some uid) (hx : s.dev.getPart uid = some x)
    (hl : x.live = true) (cause tval : Nat) :
    s.Trapped (s.trap i cause tval) uid x (cause, i % 20, 1, s.pcOff uid i, s.trapValue cause tval) := by
  unfold State.trap State.traps
  simp only [List.foldl_nil, hu]
  refine State.trapped_failPart ?_ hl (fun _ => rfl) rfl rfl rfl
  rw [State.onDev_dev, Dev.getPart_modPart, if_pos rfl, State.took_getPart, hx]
  rfl

/-! ### Clusters that trapped in the same core cycle (R127, R128). -/

/-- The lowest-numbered of a trap (cluster, cause, offset, value) and those of other clusters. -/
def lowestTrap (off : Nat → Nat) (a : Nat × Nat × Nat × Nat) (l : List (Fin 20 × Nat × Word)) : Nat × Nat × Nat × Nat :=
  l.foldl (fun a x => if x.1.val < a.1 then (x.1.val, x.2.1, off x.1.val, x.2.2.toNat) else a) a

theorem lowestTrap_le (off : Nat → Nat) (l : List (Fin 20 × Nat × Word)) : ∀ a : Nat × Nat × Nat × Nat,
    (lowestTrap off a l).1 ≤ a.1 ∧ ∀ x ∈ l, (lowestTrap off a l).1 ≤ x.1.val := by
  induction l with
  | nil => exact fun a => ⟨le_rfl, by simp⟩
  | cons x l ih =>
    intro a
    obtain ⟨hle, hall⟩ := ih (if x.1.val < a.1 then (x.1.val, x.2.1, off x.1.val, x.2.2.toNat) else a)
    have hmin : (if x.1.val < a.1 then (x.1.val, x.2.1, off x.1.val, x.2.2.toNat) else a).1 = min x.1.val a.1 := by
      split
      · exact (min_eq_left (by omega)).symm
      · exact (min_eq_right (by omega)).symm
    rw [hmin] at hle
    exact ⟨hle.trans (min_le_right _ _), List.forall_mem_cons.2 ⟨hle.trans (min_le_left _ _), hall⟩⟩

theorem lowestTrap_cases (off : Nat → Nat) (l : List (Fin 20 × Nat × Word)) (a : Nat × Nat × Nat × Nat) :
    lowestTrap off a l = a ∨ ∃ x ∈ l, lowestTrap off a l = (x.1.val, x.2.1, off x.1.val, x.2.2.toNat) := by
  refine List.foldlRecOn (motive := fun b => b = a ∨ ∃ x ∈ l, b = (x.1.val, x.2.1, off x.1.val, x.2.2.toNat)) l _ (.inl rfl) fun b hb x hx => ?_
  split
  · exact .inr ⟨x, hx, rfl⟩
  · exact hb

/-- The detail of traps that join (Table 5.16): that of the lowest, with the number of n and those of other clusters. -/
def joinedTrap (n : Nat) (low : Nat × Nat × Nat × Nat) (l : List (Fin 20 × Nat × Word)) : Nat × Nat × Nat × Nat × Nat :=
  (low.2.1, low.1, n + l.length, low.2.2.1, low.2.2.2)

/-- The traps of a cluster k and of others: which is reported, and what of it. -/
theorem joinedTrap_lowest {off : Nat → Nat} {l : List (Fin 20 × Nat × Word)} {k : Nat} (hne : ∀ a ∈ l, a.1.val ≠ k) (n cause tv : Nat) :
    ∃ ca cl tval, joinedTrap n (lowestTrap off (k, cause, off k, tv) l) l = (ca, cl, n + l.length, off cl, tval) ∧ cl ≤ k ∧
      (∀ a ∈ l, cl ≤ a.1.val) ∧ (cl = k → ca = cause ∧ tval = tv) ∧ (cl ≠ k → ∃ a ∈ l, a.1.val = cl ∧ a.2.1 = ca ∧ a.2.2.toNat = tval) := by
  obtain ⟨hle, hall⟩ := lowestTrap_le off l (k, cause, off k, tv)
  rcases lowestTrap_cases off l (k, cause, off k, tv) with hself | ⟨a, ha, hother⟩
  · rw [hself] at hle hall ⊢
    exact ⟨_, _, _, rfl, hle, hall, fun _ => ⟨rfl, rfl⟩, fun h => absurd rfl h⟩
  · rw [hother] at hle hall ⊢
    exact ⟨_, _, _, rfl, hle, hall, fun h => absurd h (hne a ha), fun _ => ⟨a, ha, rfl, rfl, rfl⟩⟩

/-- The other clusters of a part that trapped beside cluster k of its engine. -/
def State.alsoOf (s : State) (p : Pre) (uid k : Nat) : List (Fin 20 × Nat × Word) :=
  p.also.filter fun x => x.1.val ≠ k && (s.dev.getCl (20 * eIdx p.cl.eng + x.1.val)).ready &&
    (s.dev.getCl (20 * eIdx p.cl.eng + x.1.val)).part = some uid

/-- The first trap of a part takes the detail of the lowest-numbered cluster that trapped, with their number. -/
theorem alsoTraps_joined {s t : State} {p : Pre} {uid : Nat} {x y : Part} {cause k n off tv : Nat}
    (hu : (s.dev.getCl (clIdx p.cl)).part = some uid) (hx : s.dev.getPart uid = some x) (hn : x.trap = none)
    (hy : t.dev.getPart uid = some y) (ht : y.trap = some (cause, k, n, off, tv)) :
    s.alsoTraps t p = t.onDev fun d => d.modPart uid fun z =>
      let l := s.alsoOf p uid k
      { z with trap := some (joinedTrap n (lowestTrap (fun j => s.pcOff uid (20 * eIdx p.cl.eng + j)) (k, cause, off, tv) l) l) } := by
  unfold State.alsoTraps
  simp only [hu, hx, hy, Option.bind_some, hn, ht]
  rfl

/-- A part that had trapped before keeps the detail it has. -/
theorem alsoTraps_trapped {s t : State} {p : Pre} {uid : Nat} {x : Part} (hu : (s.dev.getCl (clIdx p.cl)).part = some uid)
    (hx : s.dev.getPart uid = some x) (hn : x.trap ≠ none) : s.alsoTraps t p = t := by
  obtain ⟨d, hd⟩ := Option.ne_none_iff_exists'.1 hn
  unfold State.alsoTraps
  simp only [hu, hx, Option.bind_some, hd]

/-! ### The commands, of a kernel whose instruction is fetched. -/

theorem clIdx_eq (c : ClId) : clIdx c = 20 * eIdx c.eng + clIdx c % 20 := by
  have := c.k.isLt
  unfold clIdx
  omega

/-- A kernel instruction that traps fails its live part: alone it reports its own detail; where the part had not trapped, that of the lowest-numbered
cluster that trapped in the same core cycle. -/
theorem kernelStep_trap {s : State} {p : Pre} {uid : Nat} {x : Part} (h : KernelRuns s p)
    (hu : ((s.taking p).dev.getCl (clIdx p.cl)).part = some uid) (hx : (s.taking p).dev.getPart uid = some x) (hl : x.live = true) (cause tval : Nat) :
    ∃ d, (s.taking p).Trapped (s.kernelStep p fun i s => s.trap i cause tval) uid x d ∧
      (p.also = [] → d = (cause, clIdx p.cl % 20, 1, (s.taking p).pcOff uid (clIdx p.cl), (s.taking p).trapValue cause tval)) ∧
      (x.trap = none → d = joinedTrap 1 (lowestTrap (fun j => (s.taking p).pcOff uid (20 * eIdx p.cl.eng + j))
        (clIdx p.cl % 20, cause, (s.taking p).pcOff uid (20 * eIdx p.cl.eng + clIdx p.cl % 20), (s.taking p).trapValue cause tval)
        ((s.taking p).alsoOf p uid (clIdx p.cl % 20))) ((s.taking p).alsoOf p uid (clIdx p.cl % 20))) := by
  have htrap := State.trapped_trap hu hx hl cause tval
  rw [kernelStep_runs h, ← clIdx_eq]
  by_cases hn : x.trap = none
  · obtain ⟨y, hy, _, hd⟩ := htrap.part
    rw [alsoTraps_joined hu hx hn hy hd]
    refine ⟨_, htrap.withTrap _, fun halso => ?_, fun _ => rfl⟩
    have hnone : (s.taking p).alsoOf p uid (clIdx p.cl % 20) = [] := by rw [State.alsoOf, halso]; rfl
    rw [hnone]
    rfl
  · rw [alsoTraps_trapped hu hx hn]
    exact ⟨_, htrap, fun _ => rfl, fun hnone => absurd hnone hn⟩

/-- Settles O8: each instruction traps with its cause; alone its part reports that trap, and with others the lowest-numbered. -/
theorem kernelTraps : Obligations.KernelTraps := by
  unfold Obligations.KernelTraps
  intro s p uid x h i u hu hx hl off traps
  have traps_of {ins : Instr} {cause tval : Nat} {holds : Nat → Prop}
      (he : exec ins s = .next (s.kernelStep p fun i s => s.trap i cause tval)) (hh : holds (u.trapValue cause tval)) : traps ins cause holds := by
    obtain ⟨d, htr, halone, hjoined⟩ := kernelStep_trap h hu hx hl cause tval
    obtain ⟨y, hy, hstage, hd⟩ := htr.part
    refine ⟨_, y, he, hy, hstage, fun halso => ⟨_, hd.trans (congrArg some (halone halso)), hh⟩, fun hn hother => ?joined,
      htr.idle, htr.bytes, htr.pow, htr.mgmt⟩
    have hall : u.alsoOf p uid (i % 20) = p.also := List.filter_eq_self.2 fun a ha => by
      obtain ⟨hne, hready, hpart⟩ := hother a ha
      simp [hne, hready, hpart]
    obtain ⟨ca, cl, tv, hlow, hle, hleall, hself, hothers⟩ := joinedTrap_lowest (off := fun j => u.pcOff uid (20 * eIdx p.cl.eng + j))
      (fun a ha => (hother a ha).1) 1 cause (u.trapValue cause tval)
    have hd' := hjoined hn
    rw [hall] at hd'
    refine ⟨ca, cl, tv, hd.trans (congrArg some (hd'.trans hlow)), hle, hleall, fun hcl => ?_, hothers⟩
    obtain ⟨hca, htv⟩ := hself hcl
    exact ⟨hca, htv.symm ▸ hh⟩
  refine ⟨traps_of rfl trivial, traps_of rfl trivial, fun bits hb => traps_of (tval := bits.toNat) ?illegal ?bits⟩
  case illegal => exact congrArg Host.Outcome.next (if_neg (Bool.eq_false_iff.1 hb))
  case bits => rfl

end Sys2Proof.Machine
end

section
/-!
PROOFS. Requests of clusters to the mover (R114 to R117, R134): a request that passes its checks is entered with its tag, and a COPY of one row within the
own cup is performed and completes in the turn of its cluster.
-/

namespace Sys2Proof.Machine

/-! ### A request is entered (R114, R116). -/

/-- A request enters the mover with a tag, and the cluster has given out one tag more. -/
def Cluster.entered (c : Cluster) (tag : Nat) (r : MovReq) : Cluster := { c with tags := c.tags + 1, movs := c.movs ++ [{ r with tag := tag }] }

/-- A cluster's request enters the mover, and its tag goes to rd. -/
def State.entering (s : State) (i : Nat) (r : MovReq) (rd : Fin 32) : State :=
  (s.modC i fun c => c.entered ((s.dev.getCl i).tags + 1) r).done i rd (BitVec.ofNat 64 ((s.dev.getCl i).tags + 1))

theorem State.entering_only (s : State) (i : Nat) (r : MovReq) (rd : Fin 32) : OnlyCluster i s (s.entering i r rd) :=
  (onlyCluster_modC _ _ _).trans (done_only _ _ _ _)

theorem State.entering_getCl (s : State) (i : Nat) (r : MovReq) (rd : Fin 32) : (s.entering i r rd).dev.getCl i =
    (((s.dev.getCl i).entered ((s.dev.getCl i).tags + 1) r).xset rd (BitVec.ofNat 64 ((s.dev.getCl i).tags + 1))).retire := by
  rw [State.entering, done_getCl, modC_getCl]

theorem OnlyCluster.merges {i : Nat} {s t : State} (h : OnlyCluster i s t) (e : Nat) : (t.dev.getEng e).merges = (s.dev.getEng e).merges := by
  obtain ⟨_, _, _, heng, _⟩ := h
  rw [heng e]

section
variable {s : State} {i : Nat} {r : MovReq} (hm : (s.dev.getCl i).movs.length < 16) (hr : r.rows ≠ 0)
include hm hr

theorem State.issueMov_alone (h2 : r.op ≠ 2) (rd : Fin 32) : s.issueMov i r rd = s.entering i r rd := by
  unfold State.issueMov
  dsimp only
  rw [if_neg (Nat.not_le.2 hm), if_neg (fun h => h2 h.1)]
  simp only [hr, if_false]
  rfl

theorem State.issueMov_merge {e : Engine} (h2 : r.op = 2)
    (hj : (s.dev.getEng (i / 20)).join (i % 20) { r with tag := (s.dev.getCl i).tags + 1 } = some e) (rd : Fin 32) :
    s.issueMov i r rd = (s.onDev fun d => d.modEng (i / 20) fun _ => e).entering i r rd := by
  unfold State.issueMov
  dsimp only
  rw [if_neg (Nat.not_le.2 hm), if_pos ⟨h2, hr⟩, hj]
  simp only [hr, if_false]
  rfl

end

/-- kq.mov with a request of its operation that passes the checks issues it (R98, R114). -/
theorem State.movOp_checked {s : State} {i a o : Nat} {rs1 : Fin 32} (h : ((s.dev.getCl i).xget rs1).toNat = a) (hl : 2 ^ 63 ≤ a)
    (ho : localOf (i % 20) a = .cup o) (ha : a % 64 = 0) {want : Nat → Bool} (hw : want (movReq (s.dev.getCl i).cup o 0).op = true)
    (hc : movCheck (s.dev.getCl i) o (i % 20) (s.dev.grant i) (movReq (s.dev.getCl i).cup o 0) = none) (rd : Fin 32) :
    s.movOp i want rd rs1 = s.issueMov i (movReq (s.dev.getCl i).cup o 0) rd := by
  unfold State.movOp
  simp only [h, if_neg (Nat.not_lt.2 hl), ho, ha, ne_eq, not_true_eq_false, if_false, hw, hc, Bool.not_true, Bool.false_eq_true]

/-! ### A copy of one row within the own cup (R115, R117). -/

/-- A request copies one row of the own cup of cluster k, from offset os to offset od. -/
structure MovReq.CupRow (r : MovReq) (k os od : Nat) : Prop where
  copies : r.op = 0
  row : r.rows = 1
  src : 2 ^ 63 ≤ r.src
  dst : 2 ^ 63 ≤ r.dst
  reads : ∀ j, j < r.rowLen → localOf k (r.src + j) = .cup (os + j)
  writes : localOf k r.dst = .cup od

/-- A cluster's request has moved bytes of its cup. -/
def Cluster.copied (c : Cluster) (od : Nat) (bs : Bytes) : Cluster := { c with cup := Mem.write c.cup od bs }

/-- The bytes of a row of the cup. -/
def Cluster.row (c : Cluster) (os n : Nat) : Bytes := (List.range n).map fun k => Mem.get c.cup (os + k)

section
variable {r : MovReq} {k os od : Nat} (h : r.CupRow k os od)
include h

theorem MovReq.CupRow.reads_eq : r.reads = [(r.src, r.rowLen), (r.srcScale, 0)] := by
  simp [MovReq.reads, MovReq.srcRow, h.row, h.copies]

theorem MovReq.CupRow.writes_eq : r.writes = [(r.dst, r.rowLen), (r.dstScale, 0)] := by
  simp [MovReq.writes, MovReq.dstRow, MovReq.scales, h.row, h.copies]

/-- It reaches no virtual address. -/
theorem MovReq.CupRow.pages (i : Nat) : movPages r [(i, r)] = [] := by
  have hsrc := h.src
  have hdst := h.dst
  simp only [movPages, List.flatMap_cons, List.flatMap_nil, List.append_nil, h.reads_eq, h.writes_eq, List.filter_cons, List.filter_nil,
    Nat.lt_irrefl, decide_false, Bool.false_and, Bool.false_eq_true, if_false, Nat.not_lt.2 hsrc, Nat.not_lt.2 hdst, Bool.and_false]
  rfl

/-- It reads no poisoned line. -/
theorem MovReq.CupRow.clean (s : State) (i uid : Nat) :
    ((([(i, r)] : List (Nat × MovReq)).flatMap fun x => x.2.reads).findSome? fun x =>
      if x.1 < 2 ^ 63 then s.firstPoison uid x.1 x.2 else none) = none := by
  have hzero : s.firstPoison uid r.srcScale 0 = none := by
    unfold State.firstPoison
    split <;> rfl
  have hsrc := Nat.not_lt.2 h.src
  rw [List.flatMap_singleton, h.reads_eq]
  simp only [List.findSome?_cons, List.findSome?_nil, hsrc, if_false, hzero, ite_self]

end

theorem State.movCopyRows_cupRow {s : State} {i uid os od : Nat} {r : MovReq} (h : r.CupRow (i % 20) os od) : s.movCopyRows i uid r =
    ((s.modC i fun c => c.copied od ((s.dev.getCl i).row os r.rowLen)).took 0) := by
  have hclean (j : Nat) : s.movPoison uid (r.src + j) = false := by
    have := h.src
    simp only [State.movPoison, Bool.and_eq_false_iff, decide_eq_false_iff_not]
    exact .inl (by omega)
  have hbyte (j : Nat) (hj : j < r.rowLen) : s.movByte i uid (r.src + j) = Mem.get (s.dev.getCl i).cup (os + j) := by
    have := h.src
    rw [State.movByte, if_neg (by omega), h.reads j hj]
  have hrow : ((List.range r.rowLen).map fun k => if s.movPoison uid (r.src + k) then Config.freeByte (s.dev.free + k)
      else s.movByte i uid (r.src + k)) = (s.dev.getCl i).row os r.rowLen :=
    List.map_congr_left fun j hj => by rw [hclean, if_neg (by simp), hbyte j (List.mem_range.1 hj)]
  have hany : ((List.range r.rowLen).any fun k => s.movPoison uid (r.src + k)) = false := by simp [hclean]
  have hwrite (bs : Bytes) : s.movWrite i uid r.dst bs = s.modC i fun c => c.copied od bs := by
    rw [State.movWrite, if_neg (Nat.not_lt.2 h.dst), h.writes]
    rfl
  unfold State.movCopyRows
  rw [h.row]
  simp only [List.range_one, List.foldl_cons, List.foldl_nil, Nat.zero_mul, Nat.add_zero, hrow, hwrite, hany, if_false,
    Bool.false_eq_true]

/-! ### The request is performed (R115, R134). -/

/-- The mover turns to the cluster that follows k, after a turn of a cluster (R134). -/
def Engine.turned (x : Engine) (k : Nat) : Engine := { x with movSeq := false, movPtr := (k + 1) % 20 }

/-- A cluster's request waits for no address any more. -/
def Cluster.released (c : Cluster) (r : MovReq) : Cluster :=
  { c with movs := c.movs.map fun q => if q.tag = r.tag then { q with xl := { r.xl with hold := none } } else q }

/-- The mover has moved n bytes for a cluster (R126). -/
def Cluster.moved (c : Cluster) (n : Nat) : Cluster := { c with movBytes := min max64 (c.movBytes + n) }

/-- A cluster's request has been performed, with the numbers of its writes. -/
def Cluster.performed (c : Cluster) (tag : Nat) (ids : Nat × Nat) : Cluster :=
  { c with movs := c.movs.map fun q => if q.tag = tag then { q with performed := some ids } else q }

/-- A cluster once its request has copied a row of its cup. -/
def Cluster.copyDone (c : Cluster) (r : MovReq) (os od : Nat) (ids : Nat × Nat) : Cluster :=
  (((c.released r).copied od (c.row os r.rowLen)).moved r.rowLen).performed r.tag ids

section
variable {s : State} {i uid os od : Nat} {r : MovReq} (h : r.CupRow (i % 20) os od)
include h

/-- It acts alone. -/
theorem MovReq.CupRow.movGroup (d : Dev) : d.movGroup i r = some [(i, r)] := by
  rw [Dev.movGroup, if_pos (by simp [h.copies])]

/-- A request that no earlier one holds back, and that waits for nothing, may be performed. -/
theorem MovReq.CupRow.movReady {d : Dev} (hp : r.performed = none) (hx : r.xl.hold = none)
    (hfirst : ((d.getCl i).movs.takeWhile fun x => x.tag ≠ r.tag) = []) : d.movReady i uid r = true := by
  have hbehind : d.movBehind uid [(i, r)] = false := by
    simp only [Dev.movBehind, List.any_cons, List.any_nil, hfirst, Bool.or_false]
  simp [Dev.movReady, hp, Dev.holdOver, hx, h.movGroup d, hbehind]

/-- In its turn the mover performs the copy at once. -/
theorem State.movPerform_cupRow (hready : s.dev.movReady i uid r = true) (hturn : s.dev.movTurn i = true) :
    let v := (s.onDev fun d => d.modEng (i / 20) fun x => x.turned (i % 20)).modC i fun c => c.released r
    let w := (v.movCopyRows i uid r).modC i fun c => c.moved r.rowLen
    s.movPerform i uid r = w.modC i fun c => c.performed r.tag (s.mem.nextId, w.mem.nextId) := by
  have h2 : r.op ≠ 2 := by simp [h.copies]
  have hbytes : r.rows * r.dstRow + r.scales r.dstFmt = r.rowLen := by
    simp [MovReq.dstRow, MovReq.scales, h.row, h.copies]
  unfold State.movPerform
  simp only [h.movGroup s.dev, hready, hturn, h.pages, State.xlate, h.clean, h2, if_pos h.copies, hbytes, if_false, Bool.not_true,
    Bool.false_eq_true, or_self]
  rfl

/-- A performed copy has changed its cluster and the turn of the mover alone. -/
theorem State.movPerform_cupRow_only (hready : s.dev.movReady i uid r = true) (hturn : s.dev.movTurn i = true) : ∃ ids,
    OnlyCluster i (s.onDev fun d => d.modEng (i / 20) fun x => x.turned (i % 20)) (s.movPerform i uid r) ∧
      (s.movPerform i uid r).dev.getCl i = (s.dev.getCl i).copyDone r os od ids := by
  rw [State.movPerform_cupRow h hready hturn, State.movCopyRows_cupRow h]
  refine ⟨(s.mem.nextId, s.mem.nextId), ?_, ?_⟩
  · exact ((((onlyCluster_modC _ i _).trans (onlyCluster_modC _ i _)).trans (onlyCluster_took _ i 0)).trans (onlyCluster_modC _ i _)).trans
      (onlyCluster_modC _ i _)
  · simp only [modC_getCl, State.took_getCl]
    rfl

end

/-! ### The request completes (R117). -/

/-- A cluster's request leaves the mover. -/
def Cluster.leaves (c : Cluster) (tag : Nat) : Cluster := { c with movs := c.movs.filter fun q => q.tag ≠ tag }

/-- Where nothing of a part is on its way, nothing lands. -/
theorem State.landUpTo_of_none {s : State} {uid : Nat} (h : ∀ w ∈ s.mem.flight, w.from' ≠ .part uid) (last : Nat) : s.landUpTo uid last = s := by
  have hnone : (s.mem.flight.filter fun w => w.from' = .part uid && w.id < last) = [] :=
    List.filter_eq_nil_iff.2 fun w hw => by simp [h w hw]
  have hall : (s.mem.flight.filter fun w => !(w.from' = .part uid && w.id < last)) = s.mem.flight :=
    List.filter_eq_self.2 fun w hw => by simp [h w hw]
  unfold State.landUpTo
  dsimp only
  rw [hnone, List.foldl_nil, State.onMem, hall]

/-- Of the clusters of its engine a cluster is one. -/
theorem filter_clusters_eq (i : Nat) : (((List.range 20).map fun k => i / 20 * 20 + k).filter fun j => decide (j = i)) = [i] := by
  have hmem : i ∈ (List.range 20).map fun k => i / 20 * 20 + k := List.mem_map.2 ⟨i % 20, List.mem_range.2 (by omega), by omega⟩
  have hnodup : ((List.range 20).map fun k => i / 20 * 20 + k).Nodup := List.nodup_range.map fun a b h => by simpa using h
  rw [List.filter_eq, List.count_eq_one_of_mem hnodup hmem, List.replicate_one]

theorem State.wakeMov_of_free {s : State} {i : Nat} (h : (s.dev.getCl i).stall = .none) : s.wakeMov i = s := by
  unfold State.wakeMov
  dsimp only
  rw [h]

/-- A request of one cluster, none of whose writes is on its way, leaves the mover. -/
theorem State.movFinish_alone {s : State} {i uid : Nat} {r : MovReq} (h2 : r.op ≠ 2) (hf : ∀ w ∈ s.mem.flight, w.from' ≠ .part uid)
    (hin : r ∈ (s.dev.getCl i).movs) (hs : (s.dev.getCl i).stall = .none) (ids : Nat × Nat) :
    s.movFinish i uid r ids = (s.progressed (i / 20)).modC i fun c => c.leaves r.tag := by
  have hhit : (((List.range 20).map fun k => i / 20 * 20 + k).filter fun j =>
      (s.dev.getCl j).movs.any fun q => decide (j = i) && decide (q.tag = r.tag)) = [i] := by
    rw [← filter_clusters_eq i]
    refine List.filter_congr fun j _ => ?_
    by_cases hj : j = i
    · subst hj
      simpa using ⟨r, hin, rfl⟩
    · simp [hj]
  unfold State.movFinish
  simp only [State.landUpTo_of_none hf, if_neg h2, hhit, List.foldl_cons, List.foldl_nil, decide_true, Bool.true_and]
  have hleft : (fun c : Cluster => { c with movs := c.movs.filter fun q => !decide (q.tag = r.tag) }) = fun c => c.leaves r.tag := by
    funext c
    simp [Cluster.leaves]
  rw [hleft]
  exact State.wakeMov_of_free (by rw [modC_getCl, progressed_getCl]; exact hs)

/-! ### A request in a list that is changed tag by tag. -/

section
variable {f : MovReq → MovReq} (hf : ∀ q, (f q).tag = q.tag)
include hf

theorem find_tag_map (l : List MovReq) (tag : Nat) : ((l.map f).find? fun q => q.tag = tag) = (l.find? fun q => q.tag = tag).map f := by
  rw [List.find?_map]
  refine congrArg (Option.map f) (congrArg (fun p => l.find? p) (funext fun q => ?_))
  simp [hf]

theorem filter_tag_map {tag : Nat} (hid : ∀ q, q.tag ≠ tag → f q = q) (l : List MovReq) :
    ((l.map f).filter fun q => q.tag ≠ tag) = l.filter fun q => q.tag ≠ tag := by
  induction l with
  | nil => rfl
  | cons q l ih =>
    by_cases hq : q.tag = tag
    · simpa [hf, hq] using ih
    · simpa [hq, hid q hq] using ih

end

/-! ### The mover's turn for a copy (R114, R117, R134). -/

/-- The request as it stands once it has been performed. -/
def MovReq.acted (q r : MovReq) (ids : Nat × Nat) : MovReq :=
  if q.tag = r.tag then { q with xl := { r.xl with hold := none }, performed := some ids } else q

theorem MovReq.acted_tag (r : MovReq) (ids : Nat × Nat) (q : MovReq) : (q.acted r ids).tag = q.tag := by
  unfold MovReq.acted
  split <;> rfl

section
variable (c : Cluster) (r : MovReq) (os od : Nat) (ids : Nat × Nat)

@[simp] theorem Cluster.copyDone_part : (c.copyDone r os od ids).part = c.part := by
  simp only [Cluster.copyDone, Cluster.performed, Cluster.moved, Cluster.copied, Cluster.released]
@[simp] theorem Cluster.copyDone_stall : (c.copyDone r os od ids).stall = c.stall := by
  simp only [Cluster.copyDone, Cluster.performed, Cluster.moved, Cluster.copied, Cluster.released]
@[simp] theorem Cluster.copyDone_x : (c.copyDone r os od ids).x = c.x := by
  simp only [Cluster.copyDone, Cluster.performed, Cluster.moved, Cluster.copied, Cluster.released]
@[simp] theorem Cluster.copyDone_movBytes : (c.copyDone r os od ids).movBytes = min max64 (c.movBytes + r.rowLen) := rfl
@[simp] theorem Cluster.copyDone_cup : (c.copyDone r os od ids).cup = Mem.write c.cup od (c.row os r.rowLen) := rfl

/-- Its requests are the same but the one, which has been performed. -/
@[simp] theorem Cluster.copyDone_movs : (c.copyDone r os od ids).movs = c.movs.map fun q => q.acted r ids := by
  refine (List.map_map ..).trans (List.map_congr_left fun q _ => ?_)
  by_cases hq : q.tag = r.tag <;> simp [MovReq.acted, hq]

theorem Cluster.length_row (n : Nat) : (c.row os n).length = n := by simp [Cluster.row]

/-- The row stands at its destination. -/
theorem Cluster.copyDone_row {k : Nat} (hk : k < r.rowLen) : Mem.get (c.copyDone r os od ids).cup (od + k) = Mem.get c.cup (os + k) := by
  rw [Cluster.copyDone_cup, Mem.get_write, Cluster.length_row, if_pos (by omega), Nat.add_sub_cancel_left,
    List.getD_eq_getElem _ _ (by rw [Cluster.length_row]; exact hk)]
  simp [Cluster.row]

/-- Every other byte of the cup stays. -/
theorem Cluster.copyDone_other {x : Nat} (hx : x < od ∨ od + r.rowLen ≤ x) : Mem.get (c.copyDone r os od ids).cup x = Mem.get c.cup x := by
  rw [Cluster.copyDone_cup, Mem.get_write_other]
  rwa [Cluster.length_row]

end

/-- A copy whose turn has come is performed and leaves the mover. -/
theorem State.movComplete_cupRow {s : State} {i tag uid os od : Nat} {r : MovReq} (h : r.CupRow (i % 20) os od)
    (hu : (s.dev.getCl i).part = some uid) (hr : ((s.dev.getCl i).movs.find? fun x => x.tag = tag) = some r)
    (hfirst : ((s.dev.getCl i).movs.takeWhile fun x => x.tag ≠ tag) = []) (hs : (s.dev.getCl i).stall = .none)
    (hp : r.performed = none) (hx : r.xl.hold = none) (hturn : s.dev.movTurn i = true) (hf : ∀ w ∈ s.mem.flight, w.from' ≠ .part uid) :
    OnlyCluster i (s.onDev fun d => d.modEng (i / 20) fun x => x.turned (i % 20)) (s.movComplete i tag false) ∧
      ∃ ids, (s.movComplete i tag false).dev.getCl i = ((s.dev.getCl i).copyDone r os od ids).leaves tag := by
  obtain rfl : r.tag = tag := by simpa using List.find?_some hr
  obtain ⟨ids, honly, hcl⟩ := State.movPerform_cupRow_only h (h.movReady hp hx hfirst) hturn
  have hpart : ((s.movPerform i uid r).dev.getCl i).part = some uid := by rw [hcl, Cluster.copyDone_part, hu]
  have hstall : ((s.movPerform i uid r).dev.getCl i).stall = .none := by rw [hcl, Cluster.copyDone_stall, hs]
  have hmovs : ((s.movPerform i uid r).dev.getCl i).movs = (s.dev.getCl i).movs.map fun q => q.acted r ids := by
    rw [hcl, Cluster.copyDone_movs]
  have hfind : (((s.movPerform i uid r).dev.getCl i).movs.find? fun x => x.tag = r.tag) = some (r.acted r ids) := by
    rw [hmovs, find_tag_map (MovReq.acted_tag r ids), hr]
    rfl
  have hperf : (r.acted r ids).performed = some ids := by simp [MovReq.acted]
  have hop : (r.acted r ids).op ≠ 2 := by simp [MovReq.acted, h.copies]
  have hflight : ∀ w ∈ (s.movPerform i uid r).mem.flight, w.from' ≠ .part uid := by rw [honly.mem_eq]; exact hf
  have hdone : s.movComplete i r.tag false = ((s.movPerform i uid r).progressed (i / 20)).modC i fun c => c.leaves r.tag := by
    unfold State.movComplete
    simp only [hu, hr, Option.bind_some, Option.map_some, hp, Option.isNone_none, if_true, Bool.false_eq_true, if_false, hpart, hfind, hperf]
    rw [State.movFinish_alone hop hflight (List.mem_of_find?_eq_some hfind) hstall, MovReq.acted_tag]
  rw [hdone]
  refine ⟨(honly.trans (onlyCluster_progressed _ i)).trans (onlyCluster_modC _ i _), ids, ?_⟩
  rw [modC_getCl, progressed_getCl, hcl]

/-- Settles O12: a request is entered by its rule above, and a copy of one row is performed and completes. -/
theorem moverRequests : Obligations.MoverRequests := by
  unfold Obligations.MoverRequests
  refine ⟨?entered, ?copied⟩
  case entered =>
    intro s p rd rs1 o h i u c a r hl ho ha hc hm hr enters
    have issues {ins : Instr} {want : Nat → Bool} (he : exec ins s = .next (s.kernelStep p fun i s => s.movOp i want rd rs1)) (hw : want r.op = true) :
        exec ins s = .next (u.alsoTraps (u.issueMov i r rd) p) :=
      he.trans (congrArg Host.Outcome.next ((kernelStep_runs h _).trans (congrArg (fun t => u.alsoTraps t p) (State.movOp_checked rfl hl ho ha hw hc rd))))
    have alone {ins : Instr} {want : Nat → Bool} (he : exec ins s = .next (s.kernelStep p fun i s => s.movOp i want rd rs1)) (hw : want r.op = true)
        (h2 : r.op ≠ 2) : enters ins := by
      have honly := State.entering_only u i r rd
      refine ⟨u.entering i r rd, ?_, State.entering_getCl u i r rd, fun _ => honly, honly.1⟩
      rw [issues he hw, State.issueMov_alone hm hr h2, alsoTraps_only p honly]
    refine ⟨fun h0 => alone rfl (by simp [h0]) (by omega), fun h1 => alone rfl (by simp [h1]) (by omega), fun h2 e hj => ?merge⟩
    case merge =>
      have honly := State.entering_only (u.onDev fun d => d.modEng (i / 20) fun _ => e) i r rd
      have he : exec (.merge p rd rs1) s = .next ((u.onDev fun d => d.modEng (i / 20) fun _ => e).entering i r rd) := by
        rw [issues rfl (by simp [h2]), State.issueMov_merge hm hr h2 hj]
        exact congrArg Host.Outcome.next (alsoTraps_same p honly.getPart)
      refine ⟨⟨_, he, State.entering_getCl _ i r rd, fun hne => absurd h2 hne, (onlyDev_onDev u _).trans honly.1⟩, _, he, ?_⟩
      rw [honly.merges, State.onDev_dev, Dev.getEng_modEng_self]
  case copied =>
    intro s cl tag uid os od r i c hu hr hfirst hs hp hx hturn hf h0 h1 hsrc hdst hreads hwrites
    obtain ⟨honly, ids, hcl⟩ := State.movComplete_cupRow ⟨h0, h1, hsrc, hdst, hreads, hwrites⟩ hu hr hfirst hs hp hx hturn hf
    obtain rfl : r.tag = tag := by simpa using List.find?_some hr
    obtain ⟨hdev, _, hother, heng, _⟩ := honly
    have hleft : (c.copyDone r os od ids).movs.filter (fun q => q.tag ≠ r.tag) = c.movs.filter fun q => q.tag ≠ r.tag := by
      rw [Cluster.copyDone_movs]
      exact filter_tag_map (MovReq.acted_tag r ids) (fun q hq => if_neg hq) c.movs
    refine ⟨_, rfl, (onlyDev_onDev s _).trans hdev, hother, fun e => ?eng, ?seq, ?ptr, ?cluster⟩
    case eng =>
      rw [heng e, State.onDev_dev, Dev.getEng_modEng]
      split <;> rfl
    case seq => rw [heng, State.onDev_dev, Dev.getEng_modEng_self]; rfl
    case ptr => rw [heng, State.onDev_dev, Dev.getEng_modEng_self]; rfl
    case cluster =>
      rw [hcl]
      exact ⟨fun _ hk => c.copyDone_row r os od ids hk, fun _ hx => c.copyDone_other r os od ids hx, hleft, c.copyDone_movBytes r os od ids,
        c.copyDone_x r os od ids⟩

end Sys2Proof.Machine
end

section
/-!
PROOFS. Commands by their number, and what the end of a command and a reply leave alone: of the contexts all but what is told and counted of
them, of the device the engines, the partitions and the memory (R162 to R170).
-/

namespace Sys2Proof.Machine

/-! ### Commands by number (R154, R170). -/

section
variable {f : Cmd → Cmd} (hf : ∀ x, (f x).seq = x.seq)
include hf

theorem find_modFirst (l : List Cmd) (seq q : Nat) : (modFirst l seq f).find? (fun x => x.seq = q) =
    if seq = q then (l.find? fun x => x.seq = q).map f else l.find? fun x => x.seq = q := by
  induction l with
  | nil => simp [modFirst]
  | cons x l ih =>
    unfold modFirst
    by_cases hx : x.seq = seq
    · by_cases hq : seq = q <;> simp [hx, hf, hq]
    · by_cases hxq : x.seq = q
      · simp [hxq, show ¬ q = seq from fun h => hx (hxq.trans h), show ¬ seq = q from fun h => hx (hxq.trans h.symm)]
      · simpa [hx, hxq] using ih

theorem Ctx.getCmd_modCmd (c : Ctx) (seq q : Nat) :
    (c.modCmd seq f).getCmd q = if seq = q then (c.getCmd q).map f else c.getCmd q := by
  unfold Ctx.getCmd Ctx.modCmd
  rw [List.reverse_reverse]
  exact find_modFirst hf _ _ _

theorem Dev.getCmd_modCmd (d : Dev) (n m seq q : Nat) :
    (d.modCmd n seq f).getCmd m q = if n = m ∧ seq = q then (d.getCmd m q).map f else d.getCmd m q := by
  unfold Dev.getCmd Dev.modCmd
  rw [Dev.getCtx_modCtx]
  by_cases hn : n = m
  · cases d.getCtx m with
    | none => simp
    | some c => by_cases hq : seq = q <;> simp [hn, hq, Ctx.getCmd_modCmd hf]
  · simp [hn]

theorem Dev.getCmd_modCmd_self (d : Dev) (n seq : Nat) : (d.modCmd n seq f).getCmd n seq = (d.getCmd n seq).map f := by
  rw [Dev.getCmd_modCmd hf, if_pos ⟨rfl, rfl⟩]

theorem map_seq_modFirst (l : List Cmd) (seq : Nat) : (modFirst l seq f).map Cmd.seq = l.map Cmd.seq := by
  induction l with
  | nil => rfl
  | cons x l ih =>
    unfold modFirst
    split
    · simp [hf]
    · simp [ih]

end

theorem Ctx.seq_of_getCmd {c : Ctx} {seq : Nat} {x : Cmd} (h : c.getCmd seq = some x) : x.seq = seq := by
  simpa using List.find?_some h

theorem Dev.seq_of_getCmd {d : Dev} {n seq : Nat} {x : Cmd} (h : d.getCmd n seq = some x) : x.seq = seq := by
  obtain ⟨c, _, hc⟩ := Option.bind_eq_some_iff.1 h
  exact Ctx.seq_of_getCmd hc

theorem Dev.getCmd_of_getCtx {d : Dev} {n : Nat} {c : Ctx} (h : d.getCtx n = some c) (q : Nat) : d.getCmd n q = c.getCmd q := by
  rw [Dev.getCmd, h, Option.bind_some]

/-- Where numbers are distinct, a command bears its own. -/
theorem Ctx.getCmd_of_mem {c : Ctx} (h : (c.cmds.map fun y => y.seq).Nodup) {x : Cmd} (hx : x ∈ c.cmds) : c.getCmd x.seq = some x := by
  obtain ⟨y, hy⟩ : ∃ y, c.getCmd x.seq = some y := Option.isSome_iff_exists.1 (List.find?_isSome.2 ⟨x, List.mem_reverse.2 hx, by simp⟩)
  have hmem : y ∈ c.cmds := List.mem_reverse.1 (List.mem_of_find?_eq_some hy)
  rw [hy, List.inj_on_of_nodup_map h hmem hx (Ctx.seq_of_getCmd hy)]

/-- Contexts with the same commands answer the same by number. -/
theorem Dev.getCmd_congr {d e : Dev} {n : Nat} (h : (e.getCtx n).map Ctx.cmds = (d.getCtx n).map Ctx.cmds) (q : Nat) :
    e.getCmd n q = d.getCmd n q := by
  have hread (g : Dev) : g.getCmd n q = ((g.getCtx n).map Ctx.cmds).bind fun l => l.reverse.find? fun x => x.seq = q := by
    unfold Dev.getCmd
    cases g.getCtx n <;> rfl
  rw [hread, hread, h]

/-! ### What is told and counted (R162 to R168, R381, R387, R394). -/

/-- A context apart from its mailbox, its running counters, and the gates that it has given up. -/
def Ctx.untold (c : Ctx) : Ctx := { c with mbox := {}, stats := { c.stats with live := [] }, freed := [], freeLater := [] }

/-- A data path after something was told or counted: gates, rings, mailboxes and counters may differ, and parts may be forgotten. -/
structure Dev.Told (d e : Dev) : Prop where
  rest : e = { d with ctxs := e.ctxs, atts := e.atts, gates := e.gates, qps := e.qps, ghosts := e.ghosts, parts := e.parts }
  ctx : ∀ n, (e.getCtx n).map Ctx.untold = (d.getCtx n).map Ctx.untold

theorem Dev.Told.refl (d : Dev) : d.Told d := ⟨rfl, fun _ => rfl⟩

theorem Dev.Told.trans {d e f : Dev} (h : d.Told e) (k : e.Told f) : d.Told f where
  rest := by rw [k.rest, h.rest]
  ctx n := (k.ctx n).trans (h.ctx n)

theorem Dev.Told.getCtx {d e : Dev} (h : d.Told e) {n : Nat} {c : Ctx} (hc : d.getCtx n = some c) :
    ∃ k, e.getCtx n = some k ∧ k.untold = c.untold := by
  have hn := h.ctx n
  rwa [hc, Option.map_some, Option.map_eq_some_iff] at hn

/-- What a context shows, apart from what is told and counted, is as before. -/
theorem Dev.Told.view {β : Type} (g : Ctx → β) (hg : ∀ c : Ctx, g c.untold = g c) {d e : Dev} (h : d.Told e) (n : Nat) :
    (e.getCtx n).map g = (d.getCtx n).map g := by
  have hview (o : Option Ctx) : o.map g = (o.map Ctx.untold).map g := by cases o <;> simp [hg]
  rw [hview, h.ctx n, ← hview]

theorem Dev.Told.getCmd {d e : Dev} (h : d.Told e) (n q : Nat) : e.getCmd n q = d.getCmd n q :=
  Dev.getCmd_congr (h.view Ctx.cmds (fun _ => rfl) n) q

theorem Dev.Told.partns {d e : Dev} (h : d.Told e) : e.partns = d.partns := by rw [h.rest]

theorem Dev.Told.eng {d e : Dev} (h : d.Told e) : e.eng = d.eng := by rw [h.rest]

theorem Dev.Told.getPt {d e : Dev} (h : d.Told e) (k : Nat) : e.getPt k = d.getPt k := by rw [Dev.getPt, h.partns, Dev.getPt]

theorem Dev.Told.getObj {d e : Dev} (h : d.Told e) (k o : Nat) : e.getObj k o = d.getObj k o := by
  rw [Dev.getObj, h.getPt, Dev.getObj]

theorem Dev.told_foldl {α : Type} {f : Dev → α → Dev} (hf : ∀ (d : Dev) a, d.Told (f d a)) (l : List α) (d : Dev) : d.Told (l.foldl f d) :=
  foldl_keep (fun e => d.Told e) f (fun e a h => h.trans (hf e a)) l d (.refl d)

theorem Dev.told_modCtx (d : Dev) (n : Nat) {f : Ctx → Ctx} (hf : ∀ c, (f c).untold = c.untold) : d.Told (d.modCtx n f) where
  rest := rfl
  ctx m := by
    rw [Dev.getCtx_modCtx]
    split
    · rw [Option.map_map]
      exact congrArg (fun g => (d.getCtx m).map g) (funext hf)
    · rfl

theorem Dev.told_modAtt (d : Dev) (a : Nat) (f : Att → Att) : d.Told (d.modAtt a f) := ⟨rfl, fun _ => rfl⟩

theorem Dev.told_gates (d : Dev) (g : List (Nat × Gate)) : d.Told { d with gates := g } := ⟨rfl, fun _ => rfl⟩

theorem Dev.told_countCtx (d : Dev) (n k c : Nat) : d.Told (d.countCtx n k c) := Dev.told_modCtx d n fun _ => rfl

theorem Dev.told_signal (d : Dev) (n g inc : Nat) : d.Told (d.signal n g inc) := by
  unfold Dev.signal
  split
  · split
    · exact .refl d
    · split
      · exact Dev.told_gates d _
      · exact (Dev.told_gates d _).trans (Dev.told_modCtx _ n fun _ => rfl)
  · exact .refl d

theorem Dev.told_signalAll (d : Dev) (n : Nat) (l : List (Nat × Nat)) : d.Told (d.signalAll n l) :=
  Dev.told_foldl (α := Nat × Nat) (fun d g => Dev.told_signal d n g.1 g.2) l d

theorem Dev.told_record (d : Dev) (n : Nat) (bs : Bytes) : d.Told (d.record n bs) := by
  unfold Dev.record
  split
  · exact .refl d
  · exact Dev.told_modAtt d _ _

theorem Dev.told_partRecords (d : Dev) (n : Nat) (x : Cmd) : d.Told (d.partRecords n x) := Dev.told_foldl (fun d _ => Dev.told_record d n _) _ d

theorem Dev.told_dropParts (d : Dev) (x : Cmd) : d.Told (d.dropParts x) := ⟨rfl, fun _ => rfl⟩

theorem Dev.told_freeGates (d : Dev) (n first count step : Nat) : d.Told (d.freeGates n first count step) :=
  (Dev.told_gates d _).trans (Dev.told_modCtx _ n fun _ => rfl)

theorem Dev.told_freeDue (d : Dev) (n : Nat) : d.Told (d.freeDue n) := by
  unfold Dev.freeDue
  split
  · exact .refl d
  · exact (Dev.told_foldl (fun d _ => Dev.told_freeGates d n _ _ _) _ d).trans (Dev.told_modCtx _ n fun _ => rfl)

/-! ### The end of a command (R164, R166, R168). -/

/-- A command that has ended: parked no longer. -/
def Cmd.endAs (x : Cmd) (fin : CmdState) : Cmd := { x with state := fin, parked := none }

@[simp] theorem Cmd.endAs_seq (x : Cmd) (fin : CmdState) : (x.endAs fin).seq = x.seq := rfl
@[simp] theorem Cmd.endAs_state (x : Cmd) (fin : CmdState) : (x.endAs fin).state = fin := rfl

/-- Beyond its new state, the end of a command only tells and counts, and forgets its parts. -/
theorem Dev.endCmd_told {d : Dev} {n seq : Nat} {x : Cmd} (hx : d.getCmd n seq = some x) (fin : CmdState) (detail : Bytes) :
    (d.modCmd n seq fun y => y.endAs fin).Told (d.endCmd n seq fin detail) := by
  have hif {p : Prop} [Decidable p] {d e f : Dev} (he : d.Told e) (hf : d.Told f) : d.Told (if p then e else f) := by
    split
    · exact he
    · exact hf
  unfold Dev.endCmd
  rw [hx]
  dsimp only
  refine Dev.Told.trans ?_ ((Dev.told_dropParts _ x).trans (Dev.told_freeDue _ n))
  refine Dev.Told.trans ?_ (Dev.told_countCtx _ n _ 1)
  have hsignal := hif (p := fin = .completed ∨ x.flag 2 = true) (Dev.told_signalAll (d.modCmd n seq fun y => y.endAs fin) n x.signals) (.refl _)
  have hrecord := fun bs => hsignal.trans (hif (p := x.again = true ∨ fin = .completed ∧ x.flag 3 = true) (.refl _) (Dev.told_record _ n bs))
  cases fin with
  | failed st => exact (hrecord _).trans (hif (.refl _) (Dev.told_partRecords _ n x))
  | _ => exact hrecord _

theorem Dev.endCmd_getCmd {d : Dev} {n seq : Nat} {x : Cmd} (hx : d.getCmd n seq = some x) (fin : CmdState) (detail : Bytes) :
    (d.endCmd n seq fin detail).getCmd n seq = some (x.endAs fin) := by
  rw [(Dev.endCmd_told hx fin detail).getCmd, Dev.getCmd_modCmd_self (f := fun y => y.endAs fin) (fun _ => rfl), hx, Option.map_some]

/-! ### Replies (R348, R381). -/

theorem Dev.told_modMbox (d : Dev) (mb : Mb) (f : Mailbox → Mailbox) : d.Told (d.modMbox mb f) := by
  unfold Dev.modMbox
  split
  · exact Dev.told_modAtt d _ _
  · split
    · exact Dev.told_modCtx d _ fun _ => rfl
    · exact ⟨rfl, fun _ => rfl⟩
  · exact .refl d

theorem State.reply_only (s : State) (r : ReplyTo) (status : Nat) (payload : Bytes) : OnlyDev s (s.reply r status payload) := by
  unfold State.reply
  dsimp only
  split <;> exact onlyDev_onDev _ _

theorem State.reply_told (s : State) (r : ReplyTo) (status : Nat) (payload : Bytes) : s.dev.Told (s.reply r status payload).dev := by
  unfold State.reply
  dsimp only
  split
  · exact ⟨rfl, fun _ => rfl⟩
  · exact (Dev.told_modMbox _ _ _).trans (Dev.told_modAtt _ _ _)
  · rw [State.onDev_dev]
    split
    · exact (Dev.told_modMbox _ _ _).trans (Dev.told_modAtt _ _ _)
    · exact Dev.told_modMbox _ _ _

/-! ### Messages that are taken (R348). -/

theorem State.takeHead_only (s : State) (mb : Mb) : OnlyDev s (s.takeHead mb) := by
  unfold State.takeHead
  split <;> exact onlyDev_onDev _ _

end Sys2Proof.Machine
end

section
/-!
PROOFS. Submission (R154, R262, R265, R386): what an accepted descriptor adds to its context, and where one that is parked enters the fault queue.
-/

namespace Sys2Proof.Machine

theorem isOp_of_op {m : MsgIn} {k : Nat} (h : m.op = k) : isOp k m.b = true :=
  decide_eq_true h

/-! ### A descriptor that is accepted (R154, R175). -/

/-- A context that accepts a command: its number is used, its journal notes it, and a STEP_MARK opens the next step. -/
def Ctx.accept (c : Ctx) (x : Cmd) : Ctx :=
  let k := { c with cmds := c.cmds ++ [x], nextSeq := seqNext x.seq }.note (.desc x.seq)
  if dOp x.desc = 0x30 then { k with step := k.step + 1 } else k

section
variable (c : Ctx) (x : Cmd)

theorem Ctx.note_cases (k : JKind) : (∃ j, c.note k = { c with journal := j }) ∨ ∃ o st, c.note k = { c with overflow := o, stats := st } := by
  unfold Ctx.note
  split
  · exact .inr ⟨_, _, rfl⟩
  · exact .inl ⟨_, rfl⟩

/-- What of a context no journal entry shows is what the accepted command makes it. -/
theorem Ctx.accept_view {β : Type} (g : Ctx → β) (hj : ∀ (k : Ctx) j, g { k with journal := j } = g k)
    (ho : ∀ (k : Ctx) o st, g { k with overflow := o, stats := st } = g k) :
    g (c.accept x) = g { c with cmds := c.cmds ++ [x], nextSeq := seqNext x.seq, step := if dOp x.desc = 0x30 then c.step + 1 else c.step } := by
  unfold Ctx.accept
  rcases Ctx.note_cases { c with cmds := c.cmds ++ [x], nextSeq := seqNext x.seq } (.desc x.seq) with ⟨j, h⟩ | ⟨o, st, h⟩ <;>
    dsimp only <;> rw [h] <;> split
  · exact hj { c with cmds := _, nextSeq := _, step := _ } j
  · exact hj { c with cmds := _, nextSeq := _, step := _ } j
  · exact ho { c with cmds := _, nextSeq := _, step := _ } o st
  · exact ho { c with cmds := _, nextSeq := _, step := _ } o st

@[simp] theorem Ctx.accept_cmds : (c.accept x).cmds = c.cmds ++ [x] := Ctx.accept_view c x Ctx.cmds (fun _ _ => rfl) fun _ _ _ => rfl
@[simp] theorem Ctx.accept_nextSeq : (c.accept x).nextSeq = seqNext x.seq := Ctx.accept_view c x Ctx.nextSeq (fun _ _ => rfl) fun _ _ _ => rfl
@[simp] theorem Ctx.accept_step : (c.accept x).step = if dOp x.desc = 0x30 then c.step + 1 else c.step :=
  Ctx.accept_view c x Ctx.step (fun _ _ => rfl) fun _ _ _ => rfl
@[simp] theorem Ctx.accept_pt : (c.accept x).pt = c.pt := Ctx.accept_view c x Ctx.pt (fun _ _ => rfl) fun _ _ _ => rfl

end

/-- The state once a context has accepted a command. -/
def State.accepting (s : State) (n : Nat) (x : Cmd) : State := s.onDev fun d => d.modCtx n fun c => c.accept x

theorem State.accepting_getCtx {s : State} {n : Nat} {c : Ctx} (h : s.dev.getCtx n = some c) (x : Cmd) :
    (s.accepting n x).dev.getCtx n = some (c.accept x) := by
  rw [State.accepting, State.onDev_dev, Dev.getCtx_modCtx, if_pos rfl, h, Option.map_some]

theorem State.accepting_pt (s : State) (n : Nat) (x : Cmd) (m : Nat) :
    ((s.accepting n x).dev.getCtx m).map Ctx.pt = (s.dev.getCtx m).map Ctx.pt := by
  rw [State.accepting, State.onDev_dev, Dev.getCtx_modCtx]
  split
  · rw [Option.map_map]
    exact congrArg (fun g => (s.dev.getCtx m).map g) (funext fun c => c.accept_pt x)
  · rfl

section
variable {s : State} {n : Nat} {c : Ctx} {b : Bytes} {sp : Split} {j : Judged} (hc : s.dev.getCtx n = some c)
  (hj : s.judge n c b sp none = .ok j) (hp : c.pendingCount < 1024)
include hc hj hp

theorem State.submitOne_queued (hg : j.trans.gap = none) :
    s.submitOne n b sp = .ok (s.accepting n (s.newCmd n c b j c.nextSeq), c.nextSeq, false) := by
  unfold State.submitOne
  simp only [hc, hj, Nat.not_le.2 hp, if_false, hg]
  rfl

theorem State.submitOne_parked {g : Nat × Nat} (hg : j.trans.gap = some g) : s.submitOne n b sp =
    .ok ((s.accepting n (s.newCmd n c b j c.nextSeq)).queueFault c.pt n c.nextSeq g.1 g.2 0, c.nextSeq, true) := by
  unfold State.submitOne
  simp only [hc, hj, Nat.not_le.2 hp, if_false, hg]
  rfl

end

/-! ### The backlog of a partition's fault queue (R272, R273). -/

/-- Nothing is sorted only where nothing is there. -/
theorem sortKey_eq_nil {α : Type} {l : List (Nat × α)} : sortKey l = [] ↔ l = [] := by
  have hinsert (k : Nat) (x : α) (m : List (Nat × α)) : (insertKey k x m).length = m.length + 1 := by
    induction m with
    | nil => rfl
    | cons y m ih =>
      unfold insertKey
      split
      · rfl
      · simp [ih]
  have hlength (m : List (Nat × α)) : (l.foldl (fun acc x => insertKey x.1 x.2 acc) m).length = m.length + l.length := by
    induction l generalizing m with
    | nil => rfl
    | cons y l ih => rw [List.foldl_cons, ih, hinsert, List.length_cons]; omega
  rw [← List.length_eq_zero_iff, ← List.length_eq_zero_iff, sortKey, List.length_map, hlength, List.length_nil, Nat.zero_add]

/-- The records that wait for room in a partition are none: no held record is listed, and no register holds one of it back. -/
theorem Dev.backlog_eq_nil {d : Dev} {pt : Nat} : d.backlog pt = [] ↔ (d.getPt pt).heldRecs = [] ∧
    ∀ x ∈ d.eng, ∀ r, x.2.faultReg = some r → r.full = true → ∀ c, d.getCtx r.ctx = some c → c.pt ≠ pt := by
  unfold Dev.backlog
  dsimp only
  rw [sortKey_eq_nil, List.map_eq_nil_iff, List.append_eq_nil_iff, List.filter_eq_nil_iff]
  refine and_congr_right fun _ => ⟨fun h x hx r hr hfull c hc hpt => ?_, fun h r hr hmine => ?_⟩
  · exact h r (List.mem_filterMap.2 ⟨x, hx, hr⟩) (by simp [hfull, hc, hpt])
  · obtain ⟨x, hx, hreg⟩ := List.mem_filterMap.1 hr
    rw [Bool.and_eq_true] at hmine
    obtain ⟨hfull, hpt⟩ := hmine
    cases hc : d.getCtx r.ctx with
    | none => simp [hc] at hpt
    | some c => exact h x hx r hreg hfull c hc (by simpa [hc] using hpt)

/-- An empty backlog stays empty where held records and partitions of contexts stay, and registers hold back no new record. -/
theorem Dev.backlog_stays {d e : Dev} {pt : Nat} (h : d.backlog pt = []) (hrecs : (e.getPt pt).heldRecs = (d.getPt pt).heldRecs)
    (hctx : ∀ n, (e.getCtx n).map Ctx.pt = (d.getCtx n).map Ctx.pt)
    (heng : ∀ x ∈ e.eng, ∀ r, x.2.faultReg = some r → r.full = true → ∃ y ∈ d.eng, y.2.faultReg = some r) : e.backlog pt = [] := by
  obtain ⟨hnone, hregs⟩ := Dev.backlog_eq_nil.1 h
  refine Dev.backlog_eq_nil.2 ⟨hrecs.trans hnone, fun x hx r hr hfull c hc => ?_⟩
  obtain ⟨y, hy, hyr⟩ := heng x hx r hr hfull
  have hn := hctx r.ctx
  rw [hc, Option.map_some, eq_comm, Option.map_eq_some_iff] at hn
  obtain ⟨k, hk, hpt⟩ := hn
  exact hpt ▸ hregs y hy r hyr hfull k hk

/-- With nothing held back, nothing enters the queue by itself. -/
theorem State.refill_of_backlog {s : State} {pt : Nat} (h : s.dev.backlog pt = []) : s.refill pt = s := by
  unfold State.refill
  cases (s.dev.getPt pt).heldRecs.length + (s.dev.eng.map fun e => 1 + e.2.faultWait.length).sum with
  | zero => rfl
  | succ fuel =>
    unfold State.refillN
    rw [h]
    rfl

/-! ### A record enters the fault queue (R268, R269). -/

/-- An event tells the attachment and the log, and changes nothing else. -/
theorem State.event_cases (s : State) (n type cause seq : Nat) (payload : Bytes) : s.event n type cause seq payload = s ∨
    ∃ a g f, s.event n type cause seq payload = (s.onMgmt fun _ => g).onDev fun d => d.modAtt a f := by
  unfold State.event
  split
  · exact .inl rfl
  · exact .inr ⟨_, _, _, rfl⟩

theorem State.event_told (s : State) (n type cause seq : Nat) (payload : Bytes) : s.dev.Told (s.event n type cause seq payload).dev := by
  rcases State.event_cases s n type cause seq payload with h | ⟨a, g, f, h⟩ <;> rw [h]
  · exact .refl _
  · exact Dev.told_modAtt _ _ _

theorem State.event_mem_pow (s : State) (n type cause seq : Nat) (payload : Bytes) :
    (s.event n type cause seq payload).mem = s.mem ∧ (s.event n type cause seq payload).pow = s.pow := by
  rcases State.event_cases s n type cause seq payload with h | ⟨a, g, f, h⟩ <;> rw [h] <;> exact ⟨rfl, rfl⟩

theorem State.enter_joins {s : State} {pt : Nat} {r : FaultRec} (h : (s.dev.getPt pt).joins r = true) : s.enter pt r =
    s.onDev fun d => d.modPt pt fun q => { q with faults := q.faults.map fun f => f.joinRec r } := if_pos h

theorem State.enter_opens {s : State} {pt : Nat} {r : FaultRec} (h : (s.dev.getPt pt).joins r = false) : s.enter pt r = s.openEntry pt r :=
  if_neg (by simp [h])

/-- The queue of a partition once an entry is opened. -/
theorem State.openEntry_faults (s : State) (pt : Nat) (r : FaultRec) :
    ((s.openEntry pt r).dev.getPt pt).faults = (s.dev.getPt pt).faults ++ [r.entry (s.dev.getPt pt).nextEntry] := by
  unfold State.openEntry
  dsimp only
  rw [(State.event_told _ _ _ _ _ _).getPt, State.onDev_dev, Dev.countPt, Dev.getPt_modPt_self, Dev.getPt_modPt_self]

/-- A record of a parked descriptor that enters stands in an entry of its context. -/
theorem State.enter_parks (s : State) (pt : Nat) {r : FaultRec} (hr : r.eng = none) :
    ∃ f ∈ ((s.enter pt r).dev.getPt pt).faults, f.ctx = r.ctx ∧ has f.parked r.seq = true := by
  cases hjoin : (s.dev.getPt pt).joins r with
  | true =>
    obtain ⟨_, hany⟩ := Bool.and_eq_true_iff.1 hjoin
    obtain ⟨f, hf, hjf⟩ := List.any_eq_true.1 hany
    refine ⟨f.joinRec r, ?_, ?_⟩
    · rw [State.enter_joins hjoin, State.onDev_dev, Dev.getPt_modPt_self]
      exact List.mem_map_of_mem hf
    · have hctx : f.ctx = r.ctx := by
        simp only [FaultEntry.joins, Bool.and_eq_true, decide_eq_true_eq] at hjf
        exact hjf.1.2
      have hrec : f.joinRec r = { f with queueSrc := true, parked := addOnce f.parked r.seq } := by
        simp [FaultEntry.joinRec, hr, hjf]
      refine ⟨by rw [hrec]; exact hctx, ?_⟩
      rw [hrec]
      unfold addOnce
      split
      · assumption
      · simp [has]
  | false =>
    refine ⟨r.entry (s.dev.getPt pt).nextEntry, ?_, rfl, ?_⟩
    · rw [State.enter_opens hjoin, State.openEntry_faults]
      exact List.mem_append_right _ (List.mem_singleton_self _)
    · simp [FaultRec.entry, hr, has]

/-- A fault met at queue time stands in an entry, where the queue has room and nothing waits before it. -/
theorem State.queueFault_parks {s : State} {pt : Nat} (ctx seq va access cause : Nat) (hroom : (s.dev.getPt pt).faults.length < 4096)
    (hback : s.dev.backlog pt = []) :
    ∃ f ∈ ((s.queueFault pt ctx seq va access cause).dev.getPt pt).faults, f.ctx = ctx ∧ has f.parked seq = true := by
  unfold State.queueFault
  dsimp only
  rw [if_pos]
  · exact State.enter_parks _ pt rfl
  · exact .inr ⟨Bool.or_eq_true_iff.2 (.inr (decide_eq_true hroom)), List.isEmpty_iff.2 hback⟩

/-! ### A list of descriptors (R386). -/

/-- A list whose bytes Jormon reaches, and for which there is room, is queued in order. -/
theorem State.submitList_reached {s : State} {m : MsgIn} {sp : Split} {c : Ctx} (hc : s.dev.getCtx m.n = some c)
    (hva : field m.b 16 8 % 128 = 0) (hk : field m.b 24 2 ≠ 0) (hmax : field m.b 24 2 ≤ 1024) (hend : field m.b 16 8 + 128 * field m.b 24 2 ≤ 2 ^ 48)
    (hroom : c.pendingCount + field m.b 24 2 ≤ 1024)
    (hreach : ∀ i, i < field m.b 24 2 → (s.dev.jormonPa m.n c (field m.b 16 8 + 128 * i)).isSome = true) :
    let r := s.submitAll m.n sp ((List.range (field m.b 24 2)).map fun i => s.readPa ((s.dev.jormonPa m.n c (field m.b 16 8 + 128 * i)).getD 0) 128) {}
    s.submitList m sp = r.1.reply m.back (if r.2.refused ≠ 0 then r.2.refused else if r.2.parked ≠ 0 then 8 else 0)
      (leBytes 4 r.2.first ++ leBytes 2 r.2.queued ++ leBytes 2 r.2.parked ++ leBytes 2 r.2.index ++ leBytes 2 r.2.refused) := by
  have hall : (((List.range (field m.b 24 2)).map fun i => s.dev.jormonPa m.n c (field m.b 16 8 + 128 * i)).any fun p => p.isNone) = false := by
    simp only [List.any_eq_false, List.mem_map, List.mem_range]
    rintro p ⟨i, hi, rfl⟩
    rw [Option.isNone_iff_eq_none]
    exact Option.isSome_iff_ne_none.1 (hreach i hi)
  unfold State.submitList State.inCtx
  simp only [hc, hva, hk, Nat.not_lt.2 hmax, Nat.not_lt.2 hend, Nat.not_lt.2 hroom, hall, ne_eq, not_true_eq_false, or_self, if_false,
    Bool.false_eq_true, List.map_map]
  rfl

/-- Settles O21: an accepted descriptor is the context's last command; a parked one enters the fault queue; a list goes in order. -/
theorem submission : Obligations.Submission := by
  unfold Obligations.Submission
  intro s mb m sp ht u b
  refine ⟨fun c j hop hc hj hp hg => ?queued, fun c j g hop hc hj hp hg hroom hback => ?parked, ?list⟩
  case queued =>
    let x := u.newCmd m.n c b j c.nextSeq
    refine ⟨u.accepting m.n x, c.accept x, x, ?_, (State.takeHead_only s mb).trans (onlyDev_onDev _ _), State.accepting_getCtx hc x, by simp, rfl, rfl,
      rfl, rfl, rfl, by simp; rfl, by simp; rfl⟩
    refine congrArg Host.Outcome.next ((message_taken ht (isOp_of_op hop) _).trans ?_)
    unfold State.submit
    rw [State.submitOne_queued hc hj hp hg]
    rfl
  case parked =>
    let x := u.newCmd m.n c b j c.nextSeq
    refine ⟨(u.accepting m.n x).queueFault c.pt m.n c.nextSeq g.1 g.2 0, ?_, State.queueFault_parks _ _ _ _ _ hroom ?_⟩
    · refine congrArg Host.Outcome.next ((message_taken ht (isOp_of_op hop) _).trans ?_)
      unfold State.submit
      rw [State.submitOne_parked hc hj hp hg]
      rfl
    · exact Dev.backlog_stays hback rfl (State.accepting_pt u m.n x) fun y hy r hr _ => ⟨y, hy, hr⟩
  case list =>
    intro c va k hop hc hva hk hva0 hk0 hmax hend hroom hreach
    subst hva hk
    exact congrArg Host.Outcome.next ((message_taken ht (isOp_of_op hop) _).trans
      (State.submitList_reached hc hva0 hk0 hmax hend hroom hreach))

end Sys2Proof.Machine
end

section
/-!
PROOFS. ABORT, its settlement, the settlement of a failure, and RESUME (R164, R168 to R171, R270): what undefined outputs and stopped parts leave alone.
-/

namespace Sys2Proof.Machine

/-! ### Outputs that become undefined (R169, R171, log 57). -/

/-- A state after outputs became undefined: contexts, parts, engines, what is on its way and what waits in the fault queues are as before. -/
structure State.Spoiled (s t : State) : Prop where
  pow : t.pow = s.pow
  mgmt : t.mgmt = s.mgmt
  flight : t.mem.flight = s.mem.flight
  ctxs : t.dev.ctxs = s.dev.ctxs
  parts : t.dev.parts = s.dev.parts
  eng : t.dev.eng = s.dev.eng
  queue : ∀ k, (t.dev.getPt k).faults = (s.dev.getPt k).faults ∧ (t.dev.getPt k).heldRecs = (s.dev.getPt k).heldRecs

section
variable {s t u : State}

theorem State.Spoiled.refl (s : State) : s.Spoiled s := ⟨rfl, rfl, rfl, rfl, rfl, rfl, fun _ => ⟨rfl, rfl⟩⟩

theorem State.Spoiled.trans (h : s.Spoiled t) (k : t.Spoiled u) : s.Spoiled u where
  pow := k.pow.trans h.pow
  mgmt := k.mgmt.trans h.mgmt
  flight := k.flight.trans h.flight
  ctxs := k.ctxs.trans h.ctxs
  parts := k.parts.trans h.parts
  eng := k.eng.trans h.eng
  queue n := ⟨(k.queue n).1.trans (h.queue n).1, (k.queue n).2.trans (h.queue n).2⟩

theorem State.spoiled_foldl {α : Type} {f : State → α → State} (hf : ∀ (t : State) a, t.Spoiled (f t a)) (l : List α) (s : State) :
    s.Spoiled (l.foldl f s) :=
  foldl_keep (fun t => s.Spoiled t) f (fun t a h => h.trans (hf t a)) l s (.refl s)

theorem State.spoiled_took (s : State) (n : Nat) : s.Spoiled (s.took n) := ⟨rfl, rfl, rfl, rfl, rfl, rfl, fun _ => ⟨rfl, rfl⟩⟩

theorem State.spoiled_modObj (s : State) (p o : Nat) (f : Obj → Obj) : s.Spoiled (s.onDev fun d => d.modObj p o f) where
  pow := rfl
  mgmt := rfl
  flight := rfl
  ctxs := rfl
  parts := rfl
  eng := rfl
  queue k := by
    rw [State.onDev_dev, Dev.modObj, Dev.getPt_modPt]
    split <;> exact ⟨rfl, rfl⟩

theorem State.spoiled_markDirty (s : State) (pa : Nat) : s.Spoiled (s.onDev fun d => d.markDirty pa) := by
  unfold Dev.markDirty
  rw [State.onDev]
  split
  · exact State.spoiled_modObj s _ _ _
  · exact .refl s

theorem Dev.gather_stripes (d : Dev) (line : Nat) : ∃ x, d.gather line = { d with stripes := x } := by
  unfold Dev.gather
  split
  · exact ⟨_, rfl⟩
  · exact ⟨d.stripes, rfl⟩

theorem Memory.writeLine_cases (m : Memory) (lean : Bool) (line : Nat) (mask : BitVec 128) (data : Bytes) :
    ∃ b p, m.writeLine lean line mask data = { m with bytes := b, poison := p } := ⟨_, _, rfl⟩

/-- A write at a home changes bytes and poison, the copies of server cores and the stripes that gather. -/
theorem State.homeWrite_cases (s : State) (line : Nat) (mask : BitVec 128) (data : Bytes) : ∃ b p c x,
    s.homeWrite line mask data = { s with mem := { s.mem with bytes := b, poison := p }, dev := { s.dev with cores := c, stripes := x } } := by
  obtain ⟨x, hx⟩ := Dev.gather_stripes (s.dev.dropLine line) line
  unfold State.homeWrite
  dsimp only
  rw [hx]
  split
  · rename_i bs _
    obtain ⟨b, p, h⟩ := Memory.writeLine_cases s.mem (s.dev.lean (line * 128)) line fullMask bs
    obtain ⟨b', p', h'⟩ := Memory.writeLine_cases { s.mem with bytes := b, poison := p } (s.dev.lean (line * 128)) line mask data
    rw [h, h']
    exact ⟨b', p', _, x, rfl⟩
  · obtain ⟨b, p, h⟩ := Memory.writeLine_cases s.mem (s.dev.lean (line * 128)) line mask data
    rw [h]
    exact ⟨b, p, _, x, rfl⟩

theorem State.spoiled_homeWrite (s : State) (line : Nat) (mask : BitVec 128) (data : Bytes) : s.Spoiled (s.homeWrite line mask data) := by
  obtain ⟨b, p, c, x, h⟩ := State.homeWrite_cases s line mask data
  rw [h]
  exact ⟨rfl, rfl, rfl, rfl, rfl, rfl, fun _ => ⟨rfl, rfl⟩⟩

theorem State.spoiled_writePa (s : State) (a : Nat) (bs : Bytes) : s.Spoiled (s.writePa a bs) := by
  unfold State.writePa
  exact State.spoiled_foldl (fun t _ => State.spoiled_homeWrite t _ _ _) _ s

theorem State.spoiled_freeExtent (s : State) (n : Nat) (x : Nat × Nat) : s.Spoiled (s.freeExtent n x) := by
  refine State.spoiled_foldl (fun t va => ?_) _ s
  split
  · exact .refl t
  · split
    · exact .refl t
    · dsimp only
      split
      · exact ((State.spoiled_writePa t _ _).trans (State.spoiled_markDirty _ _)).trans (State.spoiled_took _ _)
      · exact .refl t

theorem State.spoiled_freeHost (s : State) (a : Nat) (x : Nat × Nat) : s.Spoiled (s.freeHost a x) :=
  ⟨rfl, rfl, rfl, rfl, rfl, rfl, fun _ => ⟨rfl, rfl⟩⟩

theorem State.spoiled_freeLine (s : State) (key l : Nat) (mask : BitVec 128) : s.Spoiled (s.freeLine key l mask) := by
  unfold State.freeLine
  refine State.Spoiled.trans ?_ (State.spoiled_took _ 128)
  have hhome : s.Spoiled (match s.dev.keyLine key l with
      | some line => s.homeWrite line mask ((List.range 128).map fun i => Config.freeByte (s.dev.free + i))
      | none => s) := by
    split
    · exact State.spoiled_homeWrite s _ _ _
    · exact .refl s
  dsimp only
  split
  · exact hhome
  · split
    · split
      · exact hhome
      · exact hhome.trans (State.spoiled_modObj _ _ _ _)
    · exact hhome

theorem State.spoiled_freeWrote (s : State) (m : List (Nat × List (Nat × BitVec 128))) : s.Spoiled (s.freeWrote m) := by
  unfold State.freeWrote
  exact State.spoiled_foldl (fun t k => State.spoiled_foldl (fun t l => State.spoiled_freeLine t k.1 l.1 l.2) k.2 t) m s

theorem State.spoiled_freeOutputs (s : State) (n : Nat) (x : Cmd) : s.Spoiled (s.freeOutputs n x) := by
  unfold State.freeOutputs
  exact ((State.spoiled_foldl (fun t e => State.spoiled_freeExtent t n e) _ s).trans
    (State.spoiled_foldl (fun t e => State.spoiled_freeHost t _ e) _ _)).trans (State.spoiled_foldl (fun t _ => State.spoiled_freeWrote t _) _ _)

/-- A command without outputs, whose parts have written nothing, leaves nothing undefined. -/
theorem State.freeOutputs_none {x : Cmd} (n : Nat) (hout : outExtents x.desc = []) (hhost : hostExtents x.desc = [])
    (hw : ∀ p ∈ s.dev.partsOf x, p.2.wrote = []) : s.freeOutputs n x = s := by
  unfold State.freeOutputs
  simp only [hout, hhost, List.foldl_nil]
  refine List.foldlRecOn (motive := fun t => t = s) _ _ rfl fun t ht p hp => ?_
  rw [hw p hp]
  exact ht

theorem State.Spoiled.getCmd (h : s.Spoiled t) (n q : Nat) : t.dev.getCmd n q = s.dev.getCmd n q := by
  rw [Dev.getCmd, Dev.getCtx, h.ctxs]
  rfl

theorem State.Spoiled.backlog (h : s.Spoiled t) {pt : Nat} (hb : s.dev.backlog pt = []) : t.dev.backlog pt = [] :=
  Dev.backlog_stays hb (h.queue pt).2 (fun n => by rw [Dev.getCtx, h.ctxs]; rfl) fun y hy r hr _ => ⟨y, h.eng ▸ hy, hr⟩

theorem State.Spoiled.failStatus (h : s.Spoiled t) (x : Cmd) (st : Nat) : t.dev.failStatus x st = s.dev.failStatus x st := by
  unfold Dev.failStatus Dev.partsOf Dev.getPart
  rw [h.parts]

end

/-! ### A command that does not end well (R168, R171). -/

/-- The state once a command has ended with nothing to tell, its outputs undefined. -/
def State.spoilEnd (s : State) (n seq : Nat) (x : Cmd) (fin : CmdState) : State := (s.freeOutputs n x).onDev fun d => d.endCmd n seq fin []

section
variable {s : State} {n seq : Nat} {x : Cmd} (hx : s.dev.getCmd n seq = some x) (fin : CmdState)
include hx

theorem State.spoilEnd_getCmd : (s.spoilEnd n seq x fin).dev.getCmd n seq = some (x.endAs fin) :=
  Dev.endCmd_getCmd (((State.spoiled_freeOutputs s n x).getCmd n seq).trans hx) fin []

theorem State.spoilEnd_told : ((s.freeOutputs n x).dev.modCmd n seq fun y => y.endAs fin).Told (s.spoilEnd n seq x fin).dev :=
  Dev.endCmd_told (((State.spoiled_freeOutputs s n x).getCmd n seq).trans hx) fin []

end

/-- What the settlement of a command leaves alone: power, management, what is on its way, and memory where nothing became undefined. -/
theorem State.spoilEnd_rest (s : State) (n seq : Nat) (x : Cmd) (fin : CmdState) :
    let t := s.spoilEnd n seq x fin
    t.pow = s.pow ∧ t.mgmt = s.mgmt ∧ t.mem.flight = s.mem.flight ∧
      (outExtents x.desc = [] → hostExtents x.desc = [] → (∀ p ∈ s.dev.partsOf x, p.2.wrote = []) → t.mem = s.mem) :=
  have h := State.spoiled_freeOutputs s n x
  ⟨h.pow, h.mgmt, h.flight, fun hout hhost hw => (congrArg (fun u : State => (u.onDev fun d => d.endCmd n seq fin []).mem) (State.freeOutputs_none n hout hhost hw))⟩

/-- The replies of a list of aborts. -/
def State.replyAborts (s : State) (l : List ReplyTo) : State := l.foldl (fun s r => s.reply r stAborted []) s

theorem State.replyAborts_only (s : State) (l : List ReplyTo) : OnlyDev s (s.replyAborts l) :=
  foldl_keep (fun t => OnlyDev s t) _ (fun t r h => h.trans (State.reply_only t r _ _)) l s ⟨rfl, rfl, rfl, rfl, rfl⟩

theorem State.replyAborts_told (s : State) (l : List ReplyTo) : s.dev.Told (s.replyAborts l).dev :=
  foldl_keep (fun t : State => s.dev.Told t.dev) _ (fun t r h => h.trans (State.reply_told t r _ _)) l s (.refl _)

theorem State.abortEnd_settled {s : State} {n seq : Nat} {x : Cmd} (hx : s.dev.getCmd n seq = some x) (hl : s.landing x = false)
    (hs : x.state = .aborting) : s.abortEnd n seq = (s.spoilEnd n seq x .aborted).replyAborts x.abortTo := by
  unfold State.abortEnd
  simp only [hx, hs, hl, Bool.not_false, and_self, if_true]
  rfl

theorem State.failEnd_settled {s : State} {n seq : Nat} {x : Cmd} (hx : s.dev.getCmd n seq = some x) (hl : s.landing x = false)
    {st : Nat} (hs : x.state = .failing st) : s.failEnd n seq = s.spoilEnd n seq x (.failed (s.dev.failStatus x st)) := by
  unfold State.failEnd
  simp only [hx, hs, hl, Bool.false_eq_true, if_false]
  rw [State.onDev, (State.spoiled_freeOutputs s n x).failStatus]
  rfl

/-! ### ABORT (R170, R171). -/

/-- Stopping a part leaves every context as it is. -/
theorem Dev.releasePart_ctxs (d : Dev) (uid : Nat) : (d.releasePart uid).ctxs = d.ctxs := by
  unfold Dev.releasePart
  split
  · rfl
  · dsimp only [Dev.modPart, Dev.dropExports, Dev.modPt]
    refine List.foldlRecOn (motive := fun e : Dev => e.ctxs = d.ctxs) _ _ rfl fun e he k _ => ?_
    split
    · exact he
    · exact he

theorem State.stopPart_ctxs (s : State) (uid : Nat) (stage : PartStage) : (s.stopPart uid stage).dev.ctxs = s.dev.ctxs := by
  unfold State.stopPart
  split
  · rfl
  · refine (Dev.releasePart_ctxs _ uid).trans ?_
    split <;> rfl

/-- A part that lives is stopped. -/
def State.stopLive (s : State) (u : Nat) : State :=
  match s.dev.getPart u with
  | some p => if p.live then s.stopPart u .aborted else s
  | none => s

/-- No part of a number lives. -/
def State.Dead (s : State) (u : Nat) : Prop := ∀ p, s.dev.getPart u = some p → p.live = false

theorem State.stopLive_cases (s : State) (u : Nat) : (s.stopLive u = s ∧ s.Dead u) ∨ ∃ p, s.dev.getPart u = some p ∧ s.stopLive u = s.stopPart u .aborted := by
  unfold State.stopLive
  split
  · rename_i p hp
    split
    · exact .inr ⟨p, hp, rfl⟩
    · refine .inl ⟨rfl, fun q hq => ?_⟩
      obtain rfl := Option.some.inj (hp.symm.trans hq)
      simpa using ‹¬ p.live = true›
  · rename_i hp
    exact .inl ⟨rfl, fun q hq => absurd hq (by simp [hp])⟩

theorem State.stopLive_dead (s : State) (u : Nat) : (s.stopLive u).Dead u := by
  rcases State.stopLive_cases s u with ⟨h, hd⟩ | ⟨p, hp, h⟩
  · rwa [h]
  · intro q hq
    obtain ⟨r, hr, hstage⟩ := State.stopPart_self hp .aborted
    obtain rfl := Option.some.inj ((h ▸ hq).symm.trans hr)
    simp [Part.live, hstage]

theorem State.Dead.stopLive {s : State} {u : Nat} (hd : s.Dead u) (v : Nat) : (s.stopLive v).Dead u := by
  by_cases hv : v = u
  · exact hv ▸ State.stopLive_dead s v
  · rcases State.stopLive_cases s v with ⟨h, _⟩ | ⟨p, _, h⟩
    · rwa [h]
    · intro q hq
      rw [h, State.stopPart_other s hv] at hq
      exact hd q hq

/-- Every part of a list is dead once each that lived was stopped. -/
theorem State.stopLive_all (l : List Nat) : ∀ s : State, ∀ u ∈ l, (l.foldl State.stopLive s).Dead u := by
  induction l with
  | nil => simp
  | cons v l ih =>
    intro s u hu
    by_cases hmem : u ∈ l
    · exact ih _ u hmem
    · obtain rfl : u = v := (List.mem_cons.1 hu).resolve_right hmem
      exact foldl_keep (fun t : State => t.Dead u) _ (fun t w ht => ht.stopLive w) l _ (State.stopLive_dead s u)

theorem State.stopLive_frame (s : State) (u : Nat) : (s.stopLive u).dev.ctxs = s.dev.ctxs ∧ (s.stopLive u).mem.bytes = s.mem.bytes := by
  rcases State.stopLive_cases s u with ⟨h, _⟩ | ⟨_, _, h⟩ <;> rw [h]
  · exact ⟨rfl, rfl⟩
  · exact ⟨State.stopPart_ctxs s u _, State.stopPart_bytes s u _⟩

theorem State.stopLives_frame (s : State) (l : List Nat) :
    (l.foldl State.stopLive s).dev.ctxs = s.dev.ctxs ∧ (l.foldl State.stopLive s).mem.bytes = s.mem.bytes :=
  foldl_keep (fun t : State => t.dev.ctxs = s.dev.ctxs ∧ t.mem.bytes = s.mem.bytes) _
    (fun t u h => ⟨(State.stopLive_frame t u).1.trans h.1, (State.stopLive_frame t u).2.trans h.2⟩) l s ⟨rfl, rfl⟩

theorem State.stopCmd_eq (s : State) (n : Nat) (x : Cmd) : ∃ pt, s.stopCmd n x =
    (x.parts.foldl State.stopLive s).onDev fun d => d.modPt pt fun q => q.unpark n x.seq := ⟨_, rfl⟩

/-- A command under abort, whose reply waits. -/
def Cmd.abortFor (x : Cmd) (r : ReplyTo) : Cmd := { x with state := .aborting, parked := none, abortTo := x.abortTo ++ [r], waits := [] }

/-- ABORT of a command that has not ended. -/
theorem State.abortMsg_of_open {s : State} {m : MsgIn} {c : Ctx} {x : Cmd} (hc : s.dev.getCtx m.n = some c)
    (hx : c.getCmd (field m.b 16 4) = some x) (ha : x.again = false) (hs : x.state = .pending ∨ x.state = .running ∨ x.state = .aborting) :
    s.abortMsg m = (s.stopCmd m.n x).onDev fun d => d.modCmd m.n x.seq fun y => y.abortFor m.back := by
  unfold State.abortMsg State.inCtx
  simp only [hc, hx, ha, Bool.false_eq_true, if_false]
  rcases hs with hs | hs | hs <;> rw [hs] <;> rfl

/-- The command then stands under abort, its parts are dead, and no byte of memory has changed. -/
theorem State.stopCmd_aborts {s : State} {n : Nat} {x : Cmd} (hx : s.dev.getCmd n x.seq = some x) (r : ReplyTo) :
    let t := (s.stopCmd n x).onDev fun d => d.modCmd n x.seq fun y => y.abortFor r
    t.dev.getCmd n x.seq = some (x.abortFor r) ∧ (∀ u ∈ x.parts, ∀ p, t.dev.getPart u = some p → p.live = false) ∧ t.mem.bytes = s.mem.bytes := by
  obtain ⟨pt, heq⟩ := State.stopCmd_eq s n x
  obtain ⟨hctxs, hbytes⟩ := State.stopLives_frame s x.parts
  have hcmd : (s.stopCmd n x).dev.getCmd n x.seq = some x := by
    have hget : (s.stopCmd n x).dev.getCtx n = s.dev.getCtx n := by rw [heq]; exact congrArg (fun l => Map.find l n) hctxs
    rw [Dev.getCmd, hget]
    exact hx
  rw [heq] at hcmd ⊢
  refine ⟨?_, fun u hu p hp => State.stopLive_all x.parts s u hu p hp, hbytes⟩
  rw [State.onDev_dev, Dev.getCmd_modCmd_self (f := fun y => y.abortFor r) (fun _ => rfl), hcmd, Option.map_some]

/-! ### RESUME (R270). -/

/-- An entry of the fault queue is closed. -/
def State.closeEntry (s : State) (pt num : Nat) : State :=
  s.onDev fun d => d.modPt pt fun q => { q with faults := q.faults.filter fun g => g.num ≠ num }

theorem State.closeEntry_faults (s : State) (pt num : Nat) :
    ∀ g ∈ ((s.closeEntry pt num).dev.getPt pt).faults, g.num ≠ num := by
  intro g hg
  rw [State.closeEntry, State.onDev_dev, Dev.getPt_modPt_self] at hg
  simpa using (List.mem_filter.1 hg).2

theorem State.closeEntry_backlog {s : State} {pt : Nat} (h : s.dev.backlog pt = []) (num : Nat) : (s.closeEntry pt num).dev.backlog pt = [] :=
  Dev.backlog_stays h (by rw [State.closeEntry, State.onDev_dev, Dev.getPt_modPt_self]) (fun _ => rfl) fun y hy r hr _ => ⟨y, hy, hr⟩

section
variable {s : State} {m : MsgIn} {c : Ctx} {f : FaultEntry} {q : Nat} (hc : s.dev.getCtx m.n = some c)
  (hf : ((s.dev.getPt c.pt).faults.find? fun f => f.num = field m.b 16 4) = some f) (hctx : f.ctx = m.n) (hheld : f.held = [])
  (hback : s.dev.backlog c.pt = []) (hq : f.parked = [q])
include hc hf hctx hheld hback hq

/-- FAIL of an entry for which one descriptor waits. -/
theorem State.resume_fail (hact : field m.b 20 1 = 1) (sp : Split) :
    s.resume m sp = (((s.closeEntry c.pt f.num).failParked m.n q stBadRange).refill c.pt).reply m.back 0 [] := by
  have hrefill := State.refill_of_backlog (State.closeEntry_backlog hback f.num)
  unfold State.resume State.inCtx
  simp only [hc, hf, hact, hctx, Nat.lt_irrefl, if_false, ne_eq, not_true_eq_false, one_ne_zero, hheld, hq, List.foldl_cons, List.foldl_nil]
  exact congrArg (fun t : State => ((t.failParked m.n q stBadRange).refill c.pt).reply m.back 0 []) hrefill

/-- RETRY of an entry for which one descriptor waits. -/
theorem State.resume_retry (hact : field m.b 20 1 = 0) (hcause : f.cause = 0) (sp : Split) :
    s.resume m sp = (((s.closeEntry c.pt f.num).unparkCmd m.n q sp).refill c.pt).reply m.back 0 [] := by
  have hrefill := State.refill_of_backlog (State.closeEntry_backlog hback f.num)
  unfold State.resume State.inCtx State.releaseHeld
  simp only [hc, hf, hact, hctx, hcause, Nat.not_lt_zero, if_false, if_true, ne_eq, not_true_eq_false, zero_ne_one, hheld, hq, List.foldl_cons,
    List.foldl_nil]
  exact congrArg (fun t : State => ((t.unparkCmd m.n q sp).refill c.pt).reply m.back 0 []) hrefill

end

/-- A parked descriptor fails with a status, and what waits in the fault queues stays. -/
theorem State.failParked_ends {s : State} {n seq : Nat} {x : Cmd} (hx : s.dev.getCmd n seq = some x) (st : Nat) :
    s.failParked n seq st = s.spoilEnd n seq x (.failed st) := by
  unfold State.failParked
  rw [hx]
  rfl

section
variable {s : State} {n seq pt : Nat} {x : Cmd} (hx : s.dev.getCmd n seq = some x) (fin : CmdState)
include hx

theorem State.spoilEnd_backlog (h : s.dev.backlog pt = []) : (s.spoilEnd n seq x fin).dev.backlog pt = [] := by
  have hsp := State.spoiled_freeOutputs s n x
  have htold := State.spoilEnd_told hx fin
  refine Dev.backlog_stays (hsp.backlog h) ?_ (fun k => ?_) fun y hy r hr _ => ⟨y, ?_, hr⟩
  · rw [htold.getPt]
    rfl
  · refine (htold.view Ctx.pt (fun _ => rfl) k).trans ?_
    rw [Dev.modCmd, Dev.getCtx_modCtx]
    split
    · rw [Option.map_map]
      rfl
    · rfl
  · rw [htold.eng] at hy
    exact hy

theorem State.spoilEnd_faults : ((s.spoilEnd n seq x fin).dev.getPt pt).faults = (s.dev.getPt pt).faults := by
  rw [(State.spoilEnd_told hx fin).getPt]
  exact ((State.spoiled_freeOutputs s n x).queue pt).1

end

/-- A descriptor whose translation has no gap is parked no longer. -/
def Cmd.unparked (x : Cmd) (j : Judged) : Cmd := { x with segs := j.trans.segs, plan := j.plan, parked := none }

theorem State.unparkCmd_translated {s : State} {n seq : Nat} {c : Ctx} {x : Cmd} {sp : Split} {j : Judged} (hc : s.dev.getCtx n = some c)
    (hx : c.getCmd seq = some x) (hs : x.state = .pending) (hj : s.judge n c x.desc sp (if x.homes.isEmpty then none else some x.homes) = .ok j)
    (hg : j.trans.gap = none) : s.unparkCmd n seq sp = s.onDev fun d => d.modCmd n seq fun y => y.unparked j := by
  unfold State.unparkCmd
  simp only [hc, hx, hs, CmdState.waiting, Bool.not_true, Bool.false_eq_true, if_false, hj, hg, Option.map_none]
  rfl

/-- A change of a command leaves an empty backlog empty. -/
theorem State.modCmd_backlog {s : State} {pt : Nat} (h : s.dev.backlog pt = []) (n seq : Nat) (f : Cmd → Cmd) :
    (s.onDev fun d => d.modCmd n seq f).dev.backlog pt = [] := by
  refine Dev.backlog_stays h rfl (fun k => ?_) fun y hy r hr _ => ⟨y, hy, hr⟩
  rw [State.onDev_dev, Dev.modCmd, Dev.getCtx_modCtx]
  split
  · rw [Option.map_map]
    rfl
  · rfl

/-- Settles O22: ABORT stops the parts; a settlement ends the command, its outputs undefined; RESUME closes the entry and fails or unparks. -/
theorem abortAndResume : Obligations.AbortAndResume := by
  unfold Obligations.AbortAndResume
  refine ⟨⟨?abort, ?settle⟩, ?resume⟩
  case abort =>
    intro s mb m c x ht hop hc hx ha hs
    have hseq := Ctx.seq_of_getCmd hx
    have hcmd : (s.takeHead mb).dev.getCmd m.n x.seq = some x := by rw [hseq, Dev.getCmd_of_getCtx hc, hx]
    obtain ⟨hy, hdead, hbytes⟩ := State.stopCmd_aborts hcmd m.back
    refine ⟨_, x.abortFor m.back, congrArg Host.Outcome.next ((message_taken ht (isOp_of_op hop) _).trans (State.abortMsg_of_open hc hx ha hs)),
      hy, rfl, rfl, hdead, hbytes.trans (congrArg Memory.bytes (State.takeHead_only s mb).mem_eq)⟩
  case settle =>
    intro s n seq x hx hl rest
    refine ⟨fun hs => ?aborted, fun st hs => ?failed⟩
    case aborted =>
      have htold := State.replyAborts_told (s.spoilEnd n.val seq x .aborted) x.abortTo
      obtain ⟨_, _, hmem, hpow, hmgmt⟩ := State.replyAborts_only (s.spoilEnd n.val seq x .aborted) x.abortTo
      obtain ⟨hp, hg, hf, hnone⟩ := State.spoilEnd_rest s n.val seq x .aborted
      refine ⟨_, x.endAs .aborted, congrArg Host.Outcome.next (State.abortEnd_settled hx hl hs), (htold.getCmd _ _).trans (State.spoilEnd_getCmd hx _),
        rfl, hpow.trans hp, hmgmt.trans hg, (congrArg Memory.flight hmem).trans hf, fun h1 h2 h3 => hmem.trans (hnone h1 h2 h3)⟩
    case failed =>
      exact ⟨_, _, congrArg Host.Outcome.next (State.failEnd_settled hx hl hs), State.spoilEnd_getCmd hx _, rfl, State.spoilEnd_rest s n.val seq x _⟩
  case resume =>
    intro s mb sp m c f ht hop u hc hf hctx hheld hback w q x hq hx _
    have hback' := State.closeEntry_backlog hback f.num
    have hw : w.dev.getCmd m.n q = some x := (Dev.getCmd_of_getCtx hc q).trans hx
    have hnum := State.closeEntry_faults u c.pt f.num
    refine ⟨fun hact => ?fail, fun hact hcause hs j hj hg => ?retry⟩
    case fail =>
      refine ⟨w.spoilEnd m.n q x (.failed 6), x.endAs (.failed 6), ?_, State.spoilEnd_getCmd hw _, rfl, ?_⟩
      · refine congrArg Host.Outcome.next ((message_taken ht (by simp [isOp_of_op hop, hact]) _).trans ?_)
        refine (State.resume_fail hc hf hctx hheld hback hq hact _).trans ?_
        refine congrArg (fun t : State => t.reply m.back 0 []) ((congrArg (fun t : State => t.refill c.pt) (State.failParked_ends hw _)).trans ?_)
        exact State.refill_of_backlog (State.spoilEnd_backlog hw _ hback')
      · rw [State.spoilEnd_faults hw]
        exact hnum
    case retry =>
      refine ⟨w.onDev fun d => d.modCmd m.n q fun y => y.unparked j, x.unparked j, ?_, ?_, rfl, rfl, hs, hnum⟩
      · refine congrArg Host.Outcome.next ((message_taken ht (by simp [isOp_of_op hop, hact]) _).trans ?_)
        refine (State.resume_retry hc hf hctx hheld hback hq hact hcause _).trans ?_
        refine congrArg (fun t : State => t.reply m.back 0 []) ((congrArg (fun t : State => t.refill c.pt) (State.unparkCmd_translated (s := w) hc hx hs hj hg)).trans ?_)
        exact State.refill_of_backlog (State.modCmd_backlog hback' _ _ _)
      · rw [State.onDev_dev, Dev.getCmd_modCmd_self (f := fun y => y.unparked j) (fun _ => rfl), hw, Option.map_some]

end Sys2Proof.Machine
end

section
/-!
PROOFS. Dispatch, FENCE, STEP_MARK and the step commit (R153, R156, R175, R178, R226, R448).
-/

namespace Sys2Proof

/-! ### A table whose entries are changed each by its number. -/

theorem Map.find_map {α β : Type} (f : Nat → α → β) (m : List (Nat × α)) (k : Nat) :
    Map.find (m.map fun e => (e.1, f e.1 e.2)) k = (Map.find m k).map (f k) := by
  induction m with
  | nil => rfl
  | cons e m ih =>
    obtain ⟨j, v⟩ := e
    simp only [List.map_cons, Map.find]
    by_cases hj : j = k
    · subst hj
      simp
    · simp [hj, ih]

end Sys2Proof

namespace Sys2Proof.Machine

/-! ### The command that Jormon dispatches (R156). -/

theorem Dev.nextUp_of_dispatchable {d : Dev} {n : Nat} {x : Cmd} (h : d.dispatchable n = some x) : d.nextUp n = some x ∧ d.gatesMet n x = true :=
  Option.filter_eq_some_iff.1 h

/-- The next command of a context waits in it, Jormon is ready, and no FENCE or STEP_MARK holds the context. -/
theorem Dev.nextUp_spec {d : Dev} {n : Nat} {c : Ctx} {x : Cmd} (hc : d.getCtx n = some c) (h : d.nextUp n = some x) :
    x ∈ c.cmds ∧ x.state.waiting = true ∧ d.ready = true ∧ c.fenced = false := by
  unfold Dev.nextUp at h
  rw [hc] at h
  dsimp only at h
  split at h
  · cases h
  · rename_i y hy
    obtain ⟨⟨hready, _, _, _, _, _, hfence, _⟩, hxy⟩ := Option.ite_none_right_eq_some.1 h
    obtain rfl := Option.some.inj hxy
    exact ⟨List.mem_of_find?_eq_some hy, List.find?_some (p := fun x : Cmd => x.state.waiting) hy, hready, by simpa using hfence⟩

/-- A command as it runs. -/
def Cmd.run (x : Cmd) : Cmd := { x with state := .running }

/-- A context one of whose commands begins. -/
def Ctx.begun (c : Ctx) (seq order : Nat) : Ctx := { c.modCmd seq Cmd.run with lastDisp := order }

theorem Dev.begin_getCtx {d : Dev} {n : Nat} {c : Ctx} (hc : d.getCtx n = some c) (seq : Nat) :
    (d.begin n seq).getCtx n = some (c.begun seq d.serial) := by
  show ((d.modCmd n seq Cmd.run).modCtx n fun c => { c with lastDisp := d.serial }).getCtx n = _
  rw [Dev.getCtx_modCtx, if_pos rfl, Dev.modCmd, Dev.getCtx_modCtx, if_pos rfl, hc]
  rfl

theorem Dev.begin_other (d : Dev) {n m : Nat} (h : n ≠ m) (seq : Nat) : (d.begin n seq).getCtx m = d.getCtx m := by
  show ((d.modCmd n seq Cmd.run).modCtx n fun c => { c with lastDisp := d.serial }).getCtx m = _
  rw [Dev.getCtx_modCtx, if_neg h, Dev.modCmd, Dev.getCtx_modCtx, if_neg h]

/-- What of a context neither its commands nor the order of its last dispatch shows is as before. -/
theorem Dev.begin_view {β : Type} (g : Ctx → β) (hg : ∀ (c : Ctx) cmds k, g { c with cmds := cmds, lastDisp := k } = g c) (d : Dev) (n seq m : Nat) :
    ((d.begin n seq).getCtx m).map g = (d.getCtx m).map g := by
  by_cases hn : n = m
  · subst hn
    cases hc : d.getCtx n with
    | none =>
      show (((d.modCmd n seq Cmd.run).modCtx n fun c => { c with lastDisp := d.serial }).getCtx n).map g = _
      rw [Dev.getCtx_modCtx, if_pos rfl, Dev.modCmd, Dev.getCtx_modCtx, if_pos rfl, hc]
      rfl
    | some c =>
      rw [Dev.begin_getCtx hc]
      exact congrArg some (hg c _ _)
  · rw [Dev.begin_other d hn]

section
variable {s : State} {n : Nat} {c : Ctx} {x : Cmd} (h : NextUp s n c x)
include h

theorem NextUp.getCmd : s.dev.getCmd n x.seq = some x := by
  obtain ⟨hc, hd, hnodup⟩ := h
  rw [Dev.getCmd_of_getCtx hc]
  exact Ctx.getCmd_of_mem hnodup (Dev.nextUp_spec hc (Dev.nextUp_of_dispatchable hd).1).1

theorem NextUp.begun : (s.dev.begin n x.seq).getCmd n x.seq = some x.run := by
  have hx := h.getCmd
  obtain ⟨hc, _, _⟩ := h
  rw [Dev.getCmd_of_getCtx hc] at hx
  rw [Dev.getCmd_of_getCtx (Dev.begin_getCtx hc x.seq)]
  refine (Ctx.getCmd_modCmd (f := Cmd.run) (fun _ => rfl) c x.seq x.seq).trans ?_
  rw [if_pos rfl, hx, Option.map_some]

/-- No other command of the context bears its number. -/
theorem NextUp.split : ∃ pre post, c.cmds = pre ++ x :: post ∧ (∀ y ∈ pre, y.seq ≠ x.seq) ∧ ∀ y ∈ post, y.seq ≠ x.seq := by
  obtain ⟨hc, hd, hnodup⟩ := h
  obtain ⟨pre, post, hsplit⟩ := List.append_of_mem (Dev.nextUp_spec hc (Dev.nextUp_of_dispatchable hd).1).1
  rw [hsplit, List.map_append, List.map_cons, List.nodup_append] at hnodup
  obtain ⟨_, hpost, hdisj⟩ := hnodup
  refine ⟨pre, post, hsplit, fun y hy => hdisj _ (List.mem_map_of_mem hy) _ (List.mem_cons_self ..), fun y hy hseq => ?_⟩
  exact (List.nodup_cons.1 hpost).1 (hseq ▸ List.mem_map_of_mem (f := fun y : Cmd => y.seq) hy)

/-- The row of a command that Jormon carries out has its effect. -/
theorem State.jormon_runs {mine : Cmd → Bool} (hm : mine x = true) (f : Ctx → Cmd → State → State) :
    s.jormon n mine f = f c x (s.onDev fun d => d.begin n x.seq) := by
  obtain ⟨hc, hd, _⟩ := h
  unfold State.jormon
  simp only [hd, hc, hm, if_true]

end

theorem State.jormon_waits {s : State} {n : Nat} (h : s.dev.dispatchable n = none) (mine : Cmd → Bool) (f : Ctx → Cmd → State → State) :
    s.jormon n mine f = s := by
  unfold State.jormon
  rw [h]

/-! ### A command that stands behind every earlier one (R153). -/

theorem modFirst_append {l : List Cmd} {x : Cmd} (h : ∀ y ∈ l, y.seq ≠ x.seq) (m : List Cmd) (f : Cmd → Cmd) :
    modFirst (l ++ x :: m) x.seq f = l ++ f x :: m := by
  induction l with
  | nil => simp [modFirst]
  | cons y l ih =>
    obtain ⟨hy, hl⟩ := List.forall_mem_cons.1 h
    simp [modFirst, hy, ih hl]

theorem Ctx.modCmd_split {c : Ctx} {pre post : List Cmd} {x : Cmd} (h : c.cmds = pre ++ x :: post) (hpost : ∀ y ∈ post, y.seq ≠ x.seq)
    (f : Cmd → Cmd) : (c.modCmd x.seq f).cmds = pre ++ f x :: post := by
  unfold Ctx.modCmd
  rw [h, List.reverse_append, List.reverse_cons, List.append_assoc, List.singleton_append,
    modFirst_append (fun y hy => hpost y (List.mem_reverse.1 hy)), List.reverse_append, List.reverse_cons, List.reverse_reverse, List.reverse_reverse,
    List.append_assoc, List.singleton_append]

theorem takeWhile_append_of_not {α : Type} {p : α → Bool} {l : List α} {x : α} (h : ∀ y ∈ l, p y = true) (hx : p x = false) (m : List α) :
    (l ++ x :: m).takeWhile p = l := by
  rw [List.takeWhile_append_of_pos h, List.takeWhile_cons_of_neg (by simp [hx]), List.append_nil]

/-- A FENCE or STEP_MARK that begins is the one found, and the commands accepted before it are those before it. -/
theorem State.behind_begun {s : State} {n op : Nat} {c : Ctx} {x : Cmd} (h : NextUp s n c x) (hop : x.op = op) (hmark : op = 0x22 ∨ op = 0x30)
    (f : Ctx → Cmd → State → State) : (s.onDev fun d => d.begin n x.seq).behind n op f =
      if (c.cmds.takeWhile fun y => y.seq ≠ x.seq).all fun y => y.state.ended then
        f (c.begun x.seq s.dev.serial) x.run (s.onDev fun d => d.begin n x.seq)
      else s.onDev fun d => d.begin n x.seq := by
  obtain ⟨pre, post, hsplit, hpre, hpost⟩ := h.split
  obtain ⟨hc, hd, _⟩ := h
  obtain ⟨_, _, hready, hfence⟩ := Dev.nextUp_spec hc (Dev.nextUp_of_dispatchable hd).1
  have hcmds : (c.begun x.seq s.dev.serial).cmds = pre ++ x.run :: post := Ctx.modCmd_split hsplit hpost Cmd.run
  have hfind : (c.begun x.seq s.dev.serial).cmds.find? (fun y => y.op = op && y.state = .running) = some x.run := by
    have hnone : pre.find? (fun y => y.op = op && y.state = .running) = none := List.find?_eq_none.2 fun y hy hrun => by
      simp only [Bool.and_eq_true, decide_eq_true_eq] at hrun
      refine List.any_eq_false.1 hfence y (hsplit ▸ List.mem_append_left _ hy) ?_
      rcases hmark with rfl | rfl <;> simp [hrun.1, hrun.2]
    have hself : (x.run.op = op && x.run.state = .running) = true := by
      simp only [Bool.and_eq_true, decide_eq_true_eq]
      exact ⟨hop, rfl⟩
    rw [hcmds, List.find?_append, hnone, Option.none_or]
    exact List.find?_cons_of_pos (p := fun y : Cmd => y.op = op && y.state = .running) hself
  have hearlier : (c.begun x.seq s.dev.serial).earlier x.run.seq = c.cmds.takeWhile fun y => y.seq ≠ x.seq := by
    unfold Ctx.earlier
    rw [hcmds, hsplit, takeWhile_append_of_not (fun y hy => by simp [Cmd.run, hpre y hy]) (by simp [Cmd.run, CmdState.ended]),
      takeWhile_append_of_not (fun y hy => by simp [hpre y hy]) (by simp)]
  unfold State.behind
  rw [State.onDev_dev, Dev.begin_getCtx hc]
  simp only [hfind, hearlier]
  exact if_neg (by rw [Bool.not_eq_true, Bool.not_eq_false']; exact hready)

/-! ### Publication (R226). -/

/-- An object of a partition once a context's shadows are published. -/
def Dev.published (d : Dev) (n pt num : Nat) (o : Obj) : Obj := if o.owner = some n then o.publish (d.holders pt num) else o

theorem Dev.publish_objs (d : Dev) (n pt : Nat) :
    ((d.publish n pt).getPt pt).objs = (d.getPt pt).objs.map fun o => (o.1, d.published n pt o.1 o.2) := by
  unfold Dev.publish
  rw [Dev.getPt_modPt_self]
  refine List.map_congr_left fun o _ => ?_
  unfold Dev.published
  split <;> rfl

theorem Dev.published_owner (d : Dev) (n pt num : Nat) (o : Obj) : (d.published n pt num o).owner ≠ some n := by
  unfold Dev.published
  split
  · simp [Obj.publish]
  · assumption

theorem Dev.published_owned (d : Dev) {n : Nat} (pt num : Nat) {o : Obj} (h : o.owner = some n) :
    (d.published n pt num o).shadow = [] ∧ (d.published n pt num o).pend = none := by
  unfold Dev.published
  rw [if_pos h]
  exact ⟨rfl, rfl⟩

/-! ### The step commit (R178, R448). -/

theorem State.fwDone_cases (s : State) : ∃ g, s.fwDone = { s with mgmt := g } := by
  unfold State.fwDone
  split
  · exact ⟨s.mgmt, rfl⟩
  · split
    · exact ⟨s.mgmt, rfl⟩
    · exact ⟨_, rfl⟩

/-- The data path once the step of a STEP_MARK is closed: what its context owned is published, and its copies are dropped. -/
def Dev.closed (d : Dev) (n pt step log : Nat) (im : CtxImage) : Dev := ((d.publish n pt).modCtx n fun c => c.closeStep step log im).dropRetained n

/-- The context image as a STEP_MARK found it (R448). -/
def Dev.markImage (d : Dev) (c : Ctx) (x : Cmd) : CtxImage :=
  { ranges := x.snapRanges, gates := x.snapGates.filterMap fun g => d.gateImage c g, pins := c.pins }

theorem Dev.closed_getCtx {d : Dev} {n : Nat} {c : Ctx} (hc : d.getCtx n = some c) (pt step log : Nat) (im : CtxImage) :
    (d.closed n pt step log im).getCtx n = some (c.closeStep step log im) := by
  show ((d.publish n pt).modCtx n _).getCtx n = _
  rw [Dev.getCtx_modCtx, if_pos rfl]
  exact congrArg (Option.map _) hc

/-- A context after the commit of a step: it forgets the step's commands that have ended, and a version of Jormon serves it. -/
def Ctx.committed (c : Ctx) (step served : Nat) : Ctx :=
  { c with cmds := c.cmds.filter (fun y => ¬ (y.step ≤ step ∧ y.state.ended)), served := served }

/-- The context that a step commit leaves: closed, apart from what is told and counted. -/
theorem State.commitStep_spec {s : State} {n : Nat} {c : Ctx} {x y : Cmd} (hc : s.dev.getCtx n = some c) (hy : c.getCmd x.seq = some y) :
    let t := s.commitStep n c x
    let e := s.dev.closed n c.pt x.step s.mgmt.curLog (s.dev.markImage c x)
    t.mem = s.mem ∧ t.pow = s.pow ∧ (∀ k, t.dev.getPt k = e.getPt k) ∧
      ∃ k : Ctx, t.dev.getCtx n = some (k.committed x.step s.mgmt.fwVersion.toNat) ∧
        k.untold = ((c.closeStep x.step s.mgmt.curLog (s.dev.markImage c x)).modCmd x.seq fun y => y.endAs .completed).untold := by
  intro t e
  have hce : e.getCtx n = some (c.closeStep x.step s.mgmt.curLog (s.dev.markImage c x)) := Dev.closed_getCtx hc _ _ _ _
  have hcmd : e.getCmd n x.seq = some y := by rw [Dev.getCmd_of_getCtx hce]; exact hy
  have htold := Dev.endCmd_told hcmd .completed (c.markDetail x.step)
  obtain ⟨k, hk, hcore⟩ := htold.getCtx (by rw [Dev.modCmd, Dev.getCtx_modCtx, if_pos rfl, hce]; rfl)
  obtain ⟨g, ht⟩ := State.fwDone_cases ((s.onDev fun _ => e).onDev fun d =>
    (d.endCmd n x.seq .completed (c.markDetail x.step)).modCtx n fun c => c.committed x.step s.mgmt.fwVersion.toNat)
  have heq : t = _ := ht
  rw [heq]
  refine ⟨rfl, rfl, fun k => htold.getPt k, k, ?_, hcore⟩
  show ((e.endCmd n x.seq .completed _).modCtx n _).getCtx n = _
  rw [Dev.getCtx_modCtx, if_pos rfl, hk]
  rfl

/-- Settles O33: either stands behind the commands before it, and a STEP_MARK's end commits the step. -/
theorem stepCommit : Obligations.StepCommit := by
  unfold Obligations.StepCommit
  intro s n c x h earlier done
  obtain ⟨hc, _, _⟩ := id h
  have runs {op : Nat} (hop : x.op = op) (hmark : op = 0x22 ∨ op = 0x30) (f : Ctx → Cmd → State → State) :
      (s.jormon n.val (fun y => y.op = op) fun _ _ s => s).behind n.val op f =
        if done then f (c.begun x.seq s.dev.serial) x.run (s.onDev fun d => d.begin n.val x.seq) else s.onDev fun d => d.begin n.val x.seq :=
    (congrArg (fun t : State => t.behind n.val op f) (State.jormon_runs h (decide_eq_true hop) _)).trans (State.behind_begun h hop hmark f)
  refine ⟨fun k hk hd => ?waits, fun hop hd => ?fence, fun hop hd => ?commit⟩
  case waits =>
    refine ⟨s.onDev fun d => d.begin n.val x.seq, x.run, ?_, onlyDev_onDev s _, h.begun, rfl, rfl⟩
    rcases hk with ⟨hop, rfl⟩ | ⟨hop, rfl⟩
    · exact congrArg Host.Outcome.next ((runs hop (.inl rfl) _).trans (if_neg (by simp [hd])))
    · exact congrArg Host.Outcome.next ((runs hop (.inr rfl) _).trans (if_neg (by simp [hd])))
  case fence =>
    refine ⟨_, x.run.endAs .completed, congrArg Host.Outcome.next ((runs hop (.inl rfl) _).trans (if_pos hd)),
      (onlyDev_onDev s _).trans (onlyDev_onDev _ _), Dev.endCmd_getCmd h.begun _ _, rfl, ?_⟩
    exact (Dev.endCmd_told h.begun .completed []).partns
  case commit =>
    have hc' := Dev.begin_getCtx hc x.seq
    have hx' := h.begun
    rw [Dev.getCmd_of_getCtx hc'] at hx'
    obtain ⟨hmem, hpow, hpt, k, hget, hcore⟩ := State.commitStep_spec (s := s.onDev fun d => d.begin n.val x.seq) (x := x.run) hc' hx'
    have view {β : Type} (g : Ctx → β) (hg : ∀ k cmds v, g { k with cmds := cmds, served := v } = g k) (hu : ∀ k : Ctx, g k.untold = g k) :
        g (k.committed x.step s.mgmt.fwVersion.toNat) = g ((c.begun x.seq s.dev.serial).closeStep x.step s.mgmt.curLog (s.dev.markImage c x)) := by
      refine (hg k _ _).trans ?_
      rw [← hu k, hcore, hu]
      exact hg _ _ (Ctx.served _)
    have himage := view Ctx.image (fun _ _ _ => rfl) fun _ => rfl
    have hobjs := (congrArg Partn.objs (hpt c.pt)).trans (Dev.publish_objs (s.dev.begin n.val x.seq) n.val c.pt)
    refine ⟨_, _, congrArg Host.Outcome.next ((runs hop (.inr rfl) _).trans (if_pos hd)), hmem, hpow, hget, congrArg CtxImage.ranges himage,
      congrArg CtxImage.gates himage, congrArg CtxImage.pins himage, view Ctx.pins (fun _ _ _ => rfl) fun _ => rfl,
      view Ctx.journal (fun _ _ _ => rfl) fun _ => rfl, view Ctx.planPins (fun _ _ _ => rfl) fun _ => rfl,
      view Ctx.noImage (fun _ _ _ => rfl) fun _ => rfl, view Ctx.heldGates (fun _ _ _ => rfl) fun _ => rfl,
      view (fun k => k.stats.gen) (fun _ _ _ => rfl) fun _ => rfl, view Ctx.state (fun _ _ _ => rfl) fun _ => rfl, rfl,
      fun o ho => ?unowned, fun o z hz hown => ?published⟩
    case unowned =>
      rw [hobjs] at ho
      obtain ⟨w, _, rfl⟩ := List.mem_map.1 ho
      exact Dev.published_owner _ _ _ _ _
    case published =>
      refine ⟨(s.dev.begin n.val x.seq).published n.val c.pt o z, ?_, Dev.published_owned _ _ _ hown⟩
      rw [Dev.getObj, hobjs, Map.find_map (fun o z => (s.dev.begin n.val x.seq).published n.val c.pt o z)]
      exact congrArg (Option.map _) hz

end Sys2Proof.Machine
end

section
/-!
PROOFS. Parts are queued and start (R156, R159, R173, R208, R209, R369).
-/

namespace Sys2Proof

/-! ### Entries of a table. -/

theorem Map.mem_of_find {α : Type} {m : List (Nat × α)} {k : Nat} {v : α} (h : Map.find m k = some v) : (k, v) ∈ m := by
  induction m with
  | nil => cases h
  | cons e m ih =>
    obtain ⟨j, w⟩ := e
    unfold Map.find at h
    split at h
    · rename_i hj
      rw [hj, Option.some.inj h]
      exact List.mem_cons_self ..
    · exact List.mem_cons_of_mem _ (ih h)

end Sys2Proof

namespace Sys2Proof.Machine

/-! ### The parts of a command enter the queues of their engines (R156, R160). -/

/-- A part as it enters its engine's queue. -/
def Part.fresh (n : Nat) (x : Cmd) (idx : Nat) (k : PartKind) (e : EngId) : Part :=
  { ctx := n, seq := x.seq, idx := idx, eng := e, kind := k, work := minWork x.desc k, ledger := overlapBytes x.desc k }

/-- The command takes a part of a number. -/
def Cmd.addPart (x : Cmd) (u : Nat) : Cmd := { x with parts := x.parts ++ [u] }

/-- An engine's queue takes a part. -/
def Engine.enqueue (q : Engine) (u : Nat) : Engine := { q with queue := q.queue ++ [u] }

/-- One part of a command is made. -/
def Dev.makePart (d : Dev) (n : Nat) (x : Cmd) (idx : Nat) (k : PartKind) (e : EngId) : Dev :=
  (({ d with parts := Map.put d.parts d.nextUid (Part.fresh n x idx k e), nextUid := d.nextUid + 1 } : Dev).modEng (eIdx e)
    fun q => q.enqueue d.nextUid).modCmd n x.seq fun y => y.addPart d.nextUid

theorem Dev.makeParts_cons (d : Dev) (n : Nat) (x : Cmd) (idx : Nat) (k : PartKind) (e : EngId) (plan : List (PartKind × EngId)) :
    d.makeParts n x idx ((k, e) :: plan) = (d.makePart n x idx k e).makeParts n x (idx + 1) plan := rfl

theorem has_iff {l : List Nat} {u : Nat} : has l u = true ↔ u ∈ l := by
  simp [has]

section
variable (d : Dev) (n : Nat) (x : Cmd) (idx : Nat) (k : PartKind) (e : EngId)

theorem Dev.makePart_nextUid : (d.makePart n x idx k e).nextUid = d.nextUid + 1 := rfl

theorem Dev.makePart_getPart (u : Nat) :
    (d.makePart n x idx k e).getPart u = if d.nextUid = u then some (Part.fresh n x idx k e) else d.getPart u := Map.find_put _ _ _ _

theorem Dev.makePart_getEng (i : Nat) : (d.makePart n x idx k e).getEng i =
    if eIdx e = i then (d.getEng i).enqueue d.nextUid else d.getEng i :=
  Dev.getEng_modEng { d with parts := Map.put d.parts d.nextUid (Part.fresh n x idx k e), nextUid := d.nextUid + 1 } (eIdx e) i
    fun q => q.enqueue d.nextUid

theorem Dev.makePart_getCmd {y : Cmd} (hy : d.getCmd n x.seq = some y) : (d.makePart n x idx k e).getCmd n x.seq = some (y.addPart d.nextUid) := by
  refine (Dev.getCmd_modCmd_self (f := fun y => y.addPart d.nextUid) (fun _ => rfl) _ n x.seq).trans ?_
  exact congrArg (Option.map _) hy

end

section
variable (n : Nat) (x : Cmd)

theorem Dev.makeParts_partns (plan : List (PartKind × EngId)) : ∀ (d : Dev) (idx : Nat), (d.makeParts n x idx plan).partns = d.partns := by
  induction plan with
  | nil => exact fun _ _ => rfl
  | cons ke plan ih => exact fun d idx => ih (d.makePart n x idx ke.1 ke.2) (idx + 1)

theorem Dev.makeParts_getCmd (plan : List (PartKind × EngId)) : ∀ (d : Dev) (idx : Nat) (y : Cmd), d.getCmd n x.seq = some y →
    (d.makeParts n x idx plan).getCmd n x.seq = some { y with parts := y.parts ++ List.range' d.nextUid plan.length } := by
  induction plan with
  | nil =>
    intro d idx y hy
    simpa [Dev.makeParts] using hy
  | cons ke plan ih =>
    intro d idx y hy
    rw [Dev.makeParts_cons, ih _ _ _ (Dev.makePart_getCmd d n x idx ke.1 ke.2 hy), Dev.makePart_nextUid]
    simp [Cmd.addPart, List.range'_succ]

/-- Parts made earlier stay. -/
theorem Dev.makeParts_getPart_old (plan : List (PartKind × EngId)) : ∀ (d : Dev) (idx u : Nat), u < d.nextUid →
    (d.makeParts n x idx plan).getPart u = d.getPart u := by
  induction plan with
  | nil => exact fun _ _ _ _ => rfl
  | cons ke plan ih =>
    intro d idx u hu
    rw [Dev.makeParts_cons, ih _ _ _ (by rw [Dev.makePart_nextUid]; omega), Dev.makePart_getPart, if_neg (by omega)]

theorem Dev.makeParts_queue_old (plan : List (PartKind × EngId)) : ∀ (d : Dev) (idx i u : Nat), u ∈ (d.getEng i).queue →
    u ∈ ((d.makeParts n x idx plan).getEng i).queue := by
  induction plan with
  | nil => exact fun _ _ _ _ h => h
  | cons ke plan ih =>
    intro d idx i u hu
    refine ih (d.makePart n x idx ke.1 ke.2) _ i u ?_
    rw [Dev.makePart_getEng]
    split
    · exact List.mem_append_left _ hu
    · exact hu

/-- Part i of the plan stands under the i-th number that was free, and waits in the queue of its engine. -/
theorem Dev.makeParts_part (plan : List (PartKind × EngId)) : ∀ (d : Dev) (idx i : Nat) (k : PartKind) (e : EngId), plan[i]? = some (k, e) →
    d.nextUid + i ∈ ((d.makeParts n x idx plan).getEng (eIdx e)).queue ∧
      (d.makeParts n x idx plan).getPart (d.nextUid + i) = some (Part.fresh n x (idx + i) k e) := by
  induction plan with
  | nil => simp
  | cons ke plan ih =>
    intro d idx i k e hi
    rw [Dev.makeParts_cons]
    cases i with
    | zero =>
      obtain rfl : ke = (k, e) := by simpa using hi
      refine ⟨Dev.makeParts_queue_old n x plan _ _ _ _ ?_, ?_⟩
      · rw [Dev.makePart_getEng, if_pos rfl]
        exact List.mem_append_right _ (List.mem_singleton_self _)
      · rw [Dev.makeParts_getPart_old n x plan _ _ _ (by rw [Dev.makePart_nextUid]; omega), Dev.makePart_getPart, if_pos (Nat.add_zero _).symm]
        rfl
    | succ i =>
      have hnext := ih (d.makePart n x idx ke.1 ke.2) (idx + 1) i k e (by simpa using hi)
      rwa [Dev.makePart_nextUid, Nat.add_assoc, Nat.add_assoc, Nat.add_comm 1 i] at hnext

end

/-! ### Demand steeps where no object sinks (R209). -/

theorem Dev.getObj_modObj (d : Dev) (p o q r : Nat) (f : Obj → Obj) :
    (d.modObj p o f).getObj q r = if p = q ∧ o = r then (d.getObj q r).map f else d.getObj q r := by
  unfold Dev.getObj Dev.modObj
  rw [Dev.getPt_modPt]
  by_cases hp : p = q
  · by_cases ho : o = r <;> simp [hp, ho, Map.find_mod]
  · simp [hp]

/-- No object of a partition sinks. -/
def Dev.NoneSinks (d : Dev) (pt : Nat) : Prop := ∀ o z, d.getObj pt o = some z → z.res ≠ .sinking

/-- A demand for a CADDY_ONLY object makes it rise, and changes nothing else. -/
theorem Dev.promote_caddyOnly {d : Dev} {pt num : Nat} {o : Obj} (ho : d.getObj pt num = some o) (hr : o.res = .caddyOnly) (kind : RiseKind)
    (ctx : Nat) : d.promote pt num kind ctx =
      { d.modObj pt num fun o => { o with res := .rising, rise := some { kind := kind, ctx := ctx, order := d.serial } } with
        serial := d.serial + 1 } := by
  unfold Dev.promote
  simp only [ho, hr]

theorem Dev.demand_frame {d : Dev} {pt : Nat} (h : d.NoneSinks pt) : ∃ q k, d.demand pt = { d with partns := q, serial := k } := by
  have hstep (l : List (Nat × Nat)) : ∀ e : Dev, e.NoneSinks pt → ∃ q k, (l.foldl (fun d w =>
      match d.getObj pt w.1 with
      | some o => if o.res = .caddyOnly ∨ o.res = .sinking then d.promote pt w.1 .demand w.2 else d
      | none => d) e) = { e with partns := q, serial := k } := by
    induction l with
    | nil => exact fun e _ => ⟨e.partns, e.serial, rfl⟩
    | cons w l ih =>
      intro e he
      rw [List.foldl_cons]
      split
      · rename_i o ho
        split
        · rename_i hres
          rw [Dev.promote_caddyOnly ho (hres.resolve_right (he _ _ ho))]
          refine ih _ fun o' z hz => ?_
          replace hz : (e.modObj pt w.1 _).getObj pt o' = some z := hz
          rw [Dev.getObj_modObj] at hz
          split at hz
          · obtain ⟨y, _, rfl⟩ := Option.map_eq_some_iff.1 hz
            simp
          · exact he _ _ hz
        · exact ih e he
      · exact ih e he
  exact hstep (d.wants pt) d h

/-! ### DESCRIPTOR_DISPATCH (R156, R369). -/

section
variable {s : State} {n : Nat} {c : Ctx} {x : Cmd} (h : NextUp s n c x)
include h

theorem State.dispatchParts_yields (hy : s.dev.yields n c x.plan = true) : s.dispatchParts n = s := by
  obtain ⟨hc, hd, _⟩ := h
  unfold State.dispatchParts
  simp only [hd, hc, hy, or_true, if_true]

theorem State.dispatchParts_runs (hp : x.plan ≠ []) (hy : s.dev.yields n c x.plan = false) :
    s.dispatchParts n = s.onDev fun d => ((d.begin n x.seq).makeParts n x 0 x.plan).demand c.pt := by
  obtain ⟨hc, hd, _⟩ := h
  unfold State.dispatchParts
  simp only [hd, hc, hy, List.isEmpty_iff, hp, Bool.false_eq_true, or_self, if_false]

end

/-- A descriptor that no context withholds its engines from begins, and its parts wait in their engines' queues. -/
theorem State.dispatchParts_spec {s : State} {n : Nat} {c : Ctx} {x : Cmd} (h : NextUp s n c x) (hp : x.plan ≠ [])
    (hy : s.dev.yields n c x.plan = false) (hsink : ∀ o ∈ (s.dev.getPt c.pt).objs, o.2.res ≠ .sinking) :
    let t := s.dispatchParts n
    let u := (s.dev.begin n x.seq).nextUid
    OnlyDev s t ∧ t.dev.getCmd n x.seq = some { x.run with parts := x.parts ++ List.range' u x.plan.length } ∧
      ∀ i k e, x.plan[i]? = some (k, e) → u + i ∈ (t.dev.getEng (eIdx e)).queue ∧ t.dev.getPart (u + i) = some (Part.fresh n x i k e) := by
  intro t u
  have hnone : ((s.dev.begin n x.seq).makeParts n x 0 x.plan).NoneSinks c.pt := by
    intro o z hz
    rw [Dev.getObj, Dev.getPt, Dev.makeParts_partns] at hz
    exact hsink _ (Map.mem_of_find hz)
  obtain ⟨q, k, hd⟩ := Dev.demand_frame hnone
  have ht : t = s.onDev fun _ => { (s.dev.begin n x.seq).makeParts n x 0 x.plan with partns := q, serial := k } :=
    (State.dispatchParts_runs h hp hy).trans (congrArg (fun d => s.onDev fun _ => d) hd)
  rw [ht]
  refine ⟨onlyDev_onDev s _, Dev.makeParts_getCmd n x x.plan _ 0 _ h.begun, fun i k e hi => ?_⟩
  have hpart := Dev.makeParts_part n x x.plan (s.dev.begin n x.seq) 0 i k e hi
  rwa [Nat.zero_add] at hpart

/-! ### What commands and parts show of their work (R159, R165). -/

/-- Whether an item of an outflow is a host write of a part. -/
def Item.exportsOf (i : Item) (u : Nat) : Bool :=
  match i with
  | .exportOf v _ _ => v = u
  | _ => false

/-- Whether an attachment's outflow holds a host write of a part. -/
def Att.exports (x : Att) (u : Nat) : Bool := x.items.any fun i => i.exportsOf u

/-- Whether a host write of a part is on its way. -/
def Dev.exports (d : Dev) (u : Nat) : Bool := d.atts.any fun a => a.2.exports u

/-- What of a part its start and its commit rest on. -/
def Part.task (p : Part) : Nat × Nat × PartKind × PartStage × Bool := (p.ctx, p.seq, p.kind, p.stage, p.ran)

theorem Part.task_eq_iff {p q : Part} :
    p.task = q.task ↔ p.ctx = q.ctx ∧ p.seq = q.seq ∧ p.kind = q.kind ∧ p.stage = q.stage ∧ p.ran = q.ran := by
  simp [Part.task]

/-- A data path with the same commands, whose parts stand where they stood and have no more host writes on their way. -/
structure Dev.SameWork (d e : Dev) : Prop where
  cmds : ∀ n, (e.getCtx n).map Ctx.cmds = (d.getCtx n).map Ctx.cmds
  part : ∀ u, (e.getPart u).map Part.task = (d.getPart u).map Part.task
  exports : ∀ u, e.exports u = true → d.exports u = true

section
variable {d e f : Dev}

theorem Dev.SameWork.refl (d : Dev) : d.SameWork d := ⟨fun _ => rfl, fun _ => rfl, fun _ => id⟩

theorem Dev.SameWork.trans (h : d.SameWork e) (k : e.SameWork f) : d.SameWork f :=
  ⟨fun n => (k.cmds n).trans (h.cmds n), fun u => (k.part u).trans (h.part u), fun u hu => h.exports u (k.exports u hu)⟩

theorem Dev.SameWork.getPart (h : d.SameWork e) {u : Nat} {p : Part} (hp : d.getPart u = some p) : ∃ q, e.getPart u = some q ∧ q.task = p.task := by
  have hu := h.part u
  rwa [hp, Option.map_some, Option.map_eq_some_iff] at hu

theorem Dev.SameWork.getPart_of (h : d.SameWork e) {u : Nat} {q : Part} (hq : e.getPart u = some q) : ∃ p, d.getPart u = some p ∧ p.task = q.task := by
  have hu := h.part u
  rwa [hq, Option.map_some, eq_comm, Option.map_eq_some_iff] at hu

theorem Dev.SameWork.getCmd (h : d.SameWork e) (n q : Nat) : e.getCmd n q = d.getCmd n q := Dev.getCmd_congr (h.cmds n) q

theorem Dev.sameWork_foldl {α : Type} {g : Dev → α → Dev} (hg : ∀ (d : Dev) a, d.SameWork (g d a)) (l : List α) (d : Dev) : d.SameWork (l.foldl g d) :=
  foldl_keep (fun e => d.SameWork e) g (fun e a h => h.trans (hg e a)) l d (.refl d)

theorem Dev.sameWork_modPart (d : Dev) (u : Nat) {g : Part → Part} (hg : ∀ p, (g p).task = p.task) : d.SameWork (d.modPart u g) where
  cmds _ := rfl
  part v := by
    rw [Dev.getPart_modPart]
    split
    · rw [Option.map_map]
      exact congrArg (fun k => (d.getPart v).map k) (funext hg)
    · rfl
  exports _ := id

theorem Dev.sameWork_modCtx (d : Dev) (n : Nat) {g : Ctx → Ctx} (hg : ∀ c, (g c).cmds = c.cmds) : d.SameWork (d.modCtx n g) where
  cmds m := by
    rw [Dev.getCtx_modCtx]
    split
    · rw [Option.map_map]
      exact congrArg (fun k => (d.getCtx m).map k) (funext hg)
    · rfl
  part _ := rfl
  exports _ := id

theorem Dev.sameWork_modEng (d : Dev) (i : Nat) (g : Engine → Engine) : d.SameWork (d.modEng i g) := ⟨fun _ => rfl, fun _ => rfl, fun _ => id⟩

theorem Dev.sameWork_modPt (d : Dev) (k : Nat) (g : Partn → Partn) : d.SameWork (d.modPt k g) := ⟨fun _ => rfl, fun _ => rfl, fun _ => id⟩

theorem Dev.sameWork_trimRetained (d : Dev) (es : List Nat) (limit : Nat) : d.SameWork (d.trimRetained es limit) := by
  unfold Dev.trimRetained
  dsimp only
  split
  · exact .refl d
  · exact Dev.sameWork_foldl (fun d k => Dev.sameWork_modEng d k _) es d

/-- A part holds a use pin on an object. -/
def Part.hold (p : Part) (o : Nat) : Part := { p with pins := p.pins ++ [o] }

theorem Dev.sameWork_usePin (d : Dev) (u o : Nat) : d.SameWork (d.usePin u o) := by
  unfold Dev.usePin
  split
  · exact .refl d
  · split
    · exact .refl d
    · exact (Dev.sameWork_modPart d u (g := fun p => p.hold o) fun _ => rfl).trans ⟨fun _ => rfl, fun _ => rfl, fun _ => id⟩

end

/-! ### PART_START (R159, R173, R208). -/

/-- What an engine shows of its parts: those that wait and those that execute. -/
def Engine.lists (x : Engine) : List Nat × List Nat := (x.queue, x.executing)

/-- The oldest retained copies go; the parts of every engine stay. -/
theorem Dev.trimRetained_lists (d : Dev) (es : List Nat) (limit i : Nat) : ((d.trimRetained es limit).getEng i).lists = (d.getEng i).lists := by
  unfold Dev.trimRetained
  dsimp only
  split
  · rfl
  · refine List.foldlRecOn (motive := fun e : Dev => (e.getEng i).lists = (d.getEng i).lists) es _ rfl fun e he k _ => ?_
    rw [Dev.getEng_modEng]
    split <;> exact he

theorem Dev.usePin_getEng (d : Dev) (u o i : Nat) : (d.usePin u o).getEng i = d.getEng i := by
  unfold Dev.usePin
  split
  · rfl
  · split <;> rfl

/-- A part without prefetch space. -/
def Part.tight (p : Part) : Part := { p with extra := 0 }

/-- Prefetch space of the parts that execute on engines is given back (R173). -/
def Dev.giveBack (d : Dev) (es : List Nat) : Dev :=
  es.foldl (fun d k => (d.getEng k).executing.foldl (fun d v => d.modPart v fun q => q.tight) d) d

theorem Dev.sameWork_giveBack (d : Dev) (es : List Nat) : d.SameWork (d.giveBack es) :=
  Dev.sameWork_foldl (fun d k => Dev.sameWork_foldl (fun d v => Dev.sameWork_modPart d v (g := fun q => q.tight) fun _ => rfl) (d.getEng k).executing d) es d

theorem Dev.giveBack_getEng (d : Dev) (es : List Nat) (i : Nat) : (d.giveBack es).getEng i = d.getEng i :=
  foldl_keep (fun e : Dev => e.getEng i = d.getEng i) _ (fun e k he =>
    foldl_keep (fun f : Dev => f.getEng i = d.getEng i) (fun f v => f.modPart v fun q => q.tight) (fun _ _ hf => hf) (e.getEng k).executing e he) es d rfl

/-- An engine takes a part from its queue. -/
def Engine.takes (x : Engine) (u : Nat) : Engine := { x with queue := x.queue.filter (fun q => q ≠ u), executing := x.executing ++ [u], idleArr := 0 }

theorem Engine.takes_lists {x y : Engine} (h : x.lists = y.lists) (u : Nat) : (x.takes u).lists = (y.takes u).lists := by
  obtain ⟨hqueue, hexec⟩ := Prod.mk.inj h
  exact Prod.ext (congrArg (fun l => l.filter fun q => q ≠ u) hqueue) (congrArg (fun l => l ++ [u]) hexec)

/-- A data path in which a part has started on an engine, with some prefetch space and use pins. -/
def Dev.started (d : Dev) (i u more : Nat) (objs : List Nat) : Dev :=
  objs.foldl (fun d o => d.usePin u o) ((d.modEng i fun x => x.takes u).modPart u fun p => { p with stage := .executing, extra := more })

theorem Dev.started_getPart {d : Dev} {i u more : Nat} {p : Part} (hp : d.getPart u = some p) (objs : List Nat) :
    ∃ q, (d.started i u more objs).getPart u = some q ∧ q.stage = .executing := by
  have hset : ((d.modEng i fun x => x.takes u).modPart u fun p => { p with stage := .executing, extra := more }).getPart u =
      some { p with stage := .executing, extra := more } := by
    rw [Dev.getPart_modPart, if_pos rfl, Dev.getPart_modEng, hp, Option.map_some]
  obtain ⟨q, hq, htask⟩ := (Dev.sameWork_foldl (fun d o => Dev.sameWork_usePin d u o) objs _).getPart hset
  obtain ⟨_, _, _, hstage, _⟩ := Part.task_eq_iff.1 htask
  exact ⟨q, hq, hstage⟩

theorem Dev.started_getEng (d : Dev) (i u more : Nat) (objs : List Nat) : (d.started i u more objs).getEng i = (d.getEng i).takes u := by
  refine foldl_keep (fun e : Dev => e.getEng i = (d.getEng i).takes u) _ (fun e o he => (Dev.usePin_getEng e u o i).trans he) objs _ ?_
  rw [Dev.getEng_modPart, Dev.getEng_modEng_self]

theorem State.partStart_none {s : State} {e : EngId} (h : ((s.dev.getEng (eIdx e)).queue.find? fun u => s.dev.partReady u) = none) : s.partStart e = s := by
  unfold State.partStart
  simp only [h]

section
variable {s : State} {e : EngId} {u : Nat} {p : Part} (hu : ((s.dev.getEng (eIdx e)).queue.find? fun u => s.dev.partReady u) = some u)
  (hp : s.dev.getPart u = some p) (hon : s.dev.engineOn e = true) (hhold : (s.pow.getDom e.t.val).partHold = false)
  (hplace : ((s.dev.sharers e).map fun k => (s.dev.getEng k).executing.length).sum < 4)
  (hspace : p.work + p.ledger + s.dev.cisternUsed (s.dev.sharers e) ≤ cisternSize)
include hu hp hon hhold hplace hspace

theorem State.partStart_runs : ∃ limit more objs, s.partStart e =
    s.onDev fun d => ((d.trimRetained (s.dev.sharers e) limit).giveBack (s.dev.sharers e)).started (eIdx e) u more objs := by
  unfold State.partStart
  simp only [hu, hp, hon, hhold, Nat.not_le.2 hplace, Nat.not_lt.2 hspace, Bool.not_true, Bool.false_eq_true, or_self, if_false]
  exact ⟨_, _, _, rfl⟩

/-- The first ready part of an engine that runs, and has a place and the part's space, starts. -/
theorem State.partStart_spec : OnlyDev s (s.partStart e) ∧ (∃ q, (s.partStart e).dev.getPart u = some q ∧ q.stage = .executing) ∧
    ((s.partStart e).dev.getEng (eIdx e)).lists = ((s.dev.getEng (eIdx e)).takes u).lists := by
  obtain ⟨limit, more, objs, heq⟩ := State.partStart_runs hu hp hon hhold hplace hspace
  let d := (s.dev.trimRetained (s.dev.sharers e) limit).giveBack (s.dev.sharers e)
  have hwork : s.dev.SameWork d := (Dev.sameWork_trimRetained s.dev (s.dev.sharers e) limit).trans (Dev.sameWork_giveBack _ _)
  obtain ⟨q, hq, _⟩ := hwork.getPart hp
  have heng : (d.started (eIdx e) u more objs).getEng (eIdx e) = ((s.dev.trimRetained (s.dev.sharers e) limit).getEng (eIdx e)).takes u :=
    (Dev.started_getEng d _ _ _ _).trans (congrArg (fun x : Engine => x.takes u) (Dev.giveBack_getEng _ _ _))
  rw [heq]
  refine ⟨onlyDev_onDev s _, Dev.started_getPart hq objs, (congrArg Engine.lists heng).trans ?_⟩
  exact Engine.takes_lists (Dev.trimRetained_lists s.dev (s.dev.sharers e) limit (eIdx e)) u

end

end Sys2Proof.Machine
end

section
/-!
PROOFS. A part commits, and its command with the last part (R165, R166, R199); a fault record enters the queue (R268, R269): O31.
-/

namespace Sys2Proof.Machine

/-! ### What a commit leaves as it is (R165). -/

/-- A state with the same commands, whose parts stand where they stood and have no more on their way. -/
structure State.Still (s t : State) : Prop where
  work : s.dev.SameWork t.dev
  flight : t.mem.flight = s.mem.flight

section
variable {s t u : State}

theorem State.Still.refl (s : State) : s.Still s := ⟨.refl _, rfl⟩

theorem State.Still.trans (h : s.Still t) (k : t.Still u) : s.Still u := ⟨h.work.trans k.work, k.flight.trans h.flight⟩

theorem State.still_foldl {α : Type} {f : State → α → State} (hf : ∀ (t : State) a, t.Still (f t a)) (l : List α) (s : State) : s.Still (l.foldl f s) :=
  foldl_keep (fun t => s.Still t) f (fun t a h => h.trans (hf t a)) l s (.refl s)

theorem State.still_onDev (s : State) {f : Dev → Dev} (h : s.dev.SameWork (f s.dev)) : s.Still (s.onDev f) := ⟨h, rfl⟩

/-- Writes of a part in flight, or to the host, are what it is busy with. -/
theorem State.partBusy_eq (s : State) (u : Nat) :
    s.partBusy u = ((s.mem.flight.any fun w => w.from' = .part u || w.from' = .ccWb u) || s.dev.exports u) := by
  unfold State.partBusy
  congr 2

theorem State.Still.idle (h : s.Still t) {k : Nat} (hk : s.partBusy k = false) : t.partBusy k = false := by
  rw [State.partBusy_eq, Bool.or_eq_false_iff] at hk ⊢
  rw [h.flight]
  exact ⟨hk.1, Bool.eq_false_iff.2 fun he => Bool.eq_false_iff.1 hk.2 (h.work.exports k he)⟩

end

section
variable (s : State)

theorem State.still_homeWrite (line : Nat) (mask : BitVec 128) (data : Bytes) : s.Still (s.homeWrite line mask data) := by
  obtain ⟨b, p, c, x, h⟩ := State.homeWrite_cases s line mask data
  rw [h]
  exact ⟨⟨fun _ => rfl, fun _ => rfl, fun _ => id⟩, rfl⟩

theorem Dev.sameWork_markDirty (d : Dev) (pa : Nat) : d.SameWork (d.markDirty pa) := by
  unfold Dev.markDirty
  split
  · exact Dev.sameWork_modPt d _ _
  · exact .refl d

theorem State.still_writeBack (l : CcLine) : s.Still (s.writeBack l) := by
  unfold State.writeBack
  split
  · exact .refl s
  · exact (State.still_homeWrite s _ _ _).trans (State.still_onDev _ (Dev.sameWork_markDirty _ _))

theorem State.still_ccClean (e : Nat) (sel : Nat × CcLine → Bool) : s.Still (s.ccClean e sel) := by
  unfold State.ccClean
  exact (State.still_foldl (fun t (l : Nat × CcLine) => State.still_writeBack t l.2) _ s).trans (State.still_onDev _ (Dev.sameWork_modEng _ _ _))

/-- A part remembers a write of its own. -/
def Part.remember (k : Nat × Nat) (mask : BitVec 128) (p : Part) : Part := { p with wrote := addWrote p.wrote k mask }

theorem Dev.sameWork_wrote (d : Dev) (u line : Nat) (mask : BitVec 128) : d.SameWork (d.wrote u line mask) := by
  unfold Dev.wrote
  split
  · exact .refl d
  · have hpart (e : Dev) := Dev.sameWork_modPart e u (g := Part.remember (e.lineKey line) mask) fun _ => rfl
    refine Dev.SameWork.trans ?_ (Dev.sameWork_modCtx _ _ fun _ => rfl)
    refine Dev.SameWork.trans ?_ (hpart _)
    exact Dev.sameWork_modEng d _ _

theorem State.still_landNow (u : Nat) (w : Nat × BitVec 128 × Bytes) : s.Still (s.landNow u w) :=
  (State.still_homeWrite s _ _ _).trans (State.still_onDev _ ((Dev.sameWork_wrote _ u _ _).trans (Dev.sameWork_markDirty _ _)))

theorem State.still_vwrite (u va : Nat) (bs : Bytes) : s.Still (s.vwrite u va bs) :=
  State.still_foldl (fun t w => State.still_landNow t u w) _ s

theorem State.still_kernelEnd (u : Nat) (p : Part) : s.Still (s.kernelEnd u p) := by
  unfold State.kernelEnd
  split
  · exact .refl s
  · refine (State.still_ccClean s _ _).trans (State.still_onDev _ ?_)
    refine Dev.sameWork_foldl (fun d k => ?_) _ _
    exact Dev.sameWork_modPart d u fun _ => rfl

theorem State.still_writeTail (u : Nat) (p : Part) : s.Still (s.writeTail u p) := by
  unfold State.writeTail
  split
  · dsimp only
    split
    · exact State.still_vwrite s u _ _
    · exact .refl s
  · exact .refl s

theorem State.still_retain (u : Nat) (p : Part) (b : Bytes) : s.Still (s.retain u p b) := by
  unfold State.retain
  split
  · refine State.still_onDev s (Dev.SameWork.trans ?_ (Dev.sameWork_trimRetained _ _ _))
    exact ⟨fun _ => rfl, fun _ => rfl, fun _ => id⟩
  · exact .refl s

theorem Dev.sameWork_dropRead (d : Dev) (p : Part) : d.SameWork (d.dropRead p) := by
  unfold Dev.dropRead
  split
  · exact .refl d
  · exact Dev.sameWork_modEng d _ _

/-- What an attachment posts is no host write of a part. -/
theorem Att.post_exports (x : Att) (ring ctx base log2 size phaseAt : Nat) (bs : Bytes) (u : Nat) :
    (x.post ring ctx base log2 size phaseAt bs).exports u = x.exports u := by
  unfold Att.post Att.exports
  dsimp only
  split
  · rw [List.any_append]
    exact Bool.or_false _
  · rfl

theorem Dev.sameWork_post (d : Dev) (a : Nat) {f : Att → Att} (hf : ∀ x u, (f x).exports u = x.exports u) : d.SameWork (d.modAtt a f) where
  cmds _ := rfl
  part _ := rfl
  exports u h := by
    obtain ⟨e, he, hu⟩ := List.any_eq_true.1 h
    rcases mem_put _ _ _ _ he with rfl | he
    · rw [hf, Dev.getAtt, Map.get] at hu
      cases hx : Map.find d.atts a with
      | none => simp [hx, Att.exports] at hu
      | some x => exact List.any_eq_true.2 ⟨_, Map.mem_of_find hx, by simpa [hx] using hu⟩
    · exact List.any_eq_true.2 ⟨e, he, hu⟩

theorem State.still_event (n type cause seq : Nat) (payload : Bytes) : s.Still (s.event n type cause seq payload) := by
  unfold State.event
  split
  · exact .refl s
  · exact ⟨Dev.sameWork_post s.dev _ fun x u => Att.post_exports x _ _ _ _ _ _ _ u, rfl⟩

theorem State.still_absorbedEvent (p : Part) : s.Still (s.absorbedEvent p) := by
  unfold State.absorbedEvent
  split
  · exact .refl s
  · exact (State.still_event s _ _ _ _ _).trans (State.still_onDev _ (Dev.sameWork_modCtx _ _ fun _ => rfl))

end

end Sys2Proof.Machine
end

section
/-!
PROOFS. The commit of a part and of the last part of a command (R165, R166, R199); fault records (R268, R269): O31.
-/

namespace Sys2Proof.Machine

/-! ### A part lets its engine go. -/

theorem Dev.releasePart_atts {d : Dev} {uid : Nat} {p : Part} (hp : d.getPart uid = some p) : (d.releasePart uid).atts = (d.dropExports uid).atts := by
  unfold Dev.releasePart
  rw [hp]
  dsimp only [Dev.modPart, Dev.dropExports, Dev.modPt]
  generalize List.range 20 = l
  congr 1
  refine List.foldlRecOn (motive := fun e : Dev => e.atts = d.atts) l _ rfl fun e he k _ => ?_
  split <;> exact he

theorem Dev.sameWork_releasePart (d : Dev) (uid : Nat) : d.SameWork (d.releasePart uid) := by
  cases hp : d.getPart uid with
  | none =>
    unfold Dev.releasePart
    rw [hp]
    exact .refl d
  | some p =>
    refine ⟨fun n => ?_, fun v => ?_, fun v hv => ?_⟩
    · rw [Dev.getCtx, Dev.releasePart_ctxs]
      rfl
    · unfold Dev.getPart
      rw [Dev.releasePart_parts hp, Map.find_mod]
      split
      · rw [Option.map_map]
        rfl
      · rfl
    · unfold Dev.exports at hv ⊢
      rw [Dev.releasePart_atts hp] at hv
      obtain ⟨a, ha, hav⟩ := List.any_eq_true.1 hv
      obtain ⟨b, hb, rfl⟩ := List.mem_map.1 ha
      obtain ⟨i, hi, hiv⟩ := List.any_eq_true.1 hav
      exact List.any_eq_true.2 ⟨b, hb, List.any_eq_true.2 ⟨i, List.mem_of_mem_filter hi, hiv⟩⟩

/-! ### The commit of one part (R165). -/

/-- What a part that is ready does at its commit before it lets its engine go (R121, R130, R174, R463). -/
def State.settled (s : State) (uid : Nat) (p : Part) (b : Bytes) : State :=
  let t := (((s.kernelEnd uid p).writeTail uid p).retain uid p b).onDev fun d => d.dropRead p
  let cnt := match t.dev.getPart uid with | some q => q.counts | none => []
  (t.onDev fun d => (d.modCtx p.ctx fun c => { c with stats := c.stats.countAll cnt }).modEng (eIdx p.eng) fun x => { x with progress := 0 }).absorbedEvent p

theorem State.still_settled (s : State) (uid : Nat) (p : Part) (b : Bytes) : s.Still (s.settled uid p b) := by
  unfold State.settled
  dsimp only
  refine State.Still.trans ?_ (State.still_absorbedEvent _ p)
  refine State.Still.trans ?_ (State.still_onDev _ (Dev.SameWork.trans ?_ (Dev.sameWork_modEng _ _ _)))
  case refine_2 => exact Dev.sameWork_modCtx _ _ fun _ => rfl
  exact (((State.still_kernelEnd s uid p).trans (State.still_writeTail _ uid p)).trans (State.still_retain _ uid p b)).trans
    (State.still_onDev _ (Dev.sameWork_dropRead _ p))

/-- A part as it stands committed. -/
def Part.commit (p : Part) : Part := { p with stage := .committed, saved := [], atoms := [] }

/-- A command completes once its last part has committed. -/
def State.concluded (s : State) (uid : Nat) (p : Part) (b : Bytes) : State :=
  match s.dev.getCmd p.ctx p.seq with
  | none => s
  | some x =>
    if x.state = .running ∧ (s.dev.partsOf x).all fun q => q.2.stage = .committed then
      s.onDev fun d => (d.endCmd p.ctx p.seq .completed
        (match s.dev.getPart uid with | some q => q.detail.flatMap fun y => leBytes 4 y.2 | none => [])).unplan p.ctx b
    else s

theorem State.commitPart_idle {s : State} {uid : Nat} (h : ∀ p, s.dev.getPart uid = some p → s.canCommit uid p = false) (chks : List (Nat × Check))
    (pre : Part → Bytes → State → State) : s.commitPart uid chks pre = s := by
  unfold State.commitPart
  split
  · rfl
  · rename_i p hp
    simp only [h p hp, Bool.not_false, if_true]

/-- A part that is ready commits, and its command with it if it is the last. -/
theorem State.commitPart_commits {s : State} {uid : Nat} {p : Part} (hp : s.dev.getPart uid = some p) (hcan : s.canCommit uid p = true)
    {chks : List (Nat × Check)} (hchk : s.commitChecks p chks = (s, true)) {pre : Part → Bytes → State → State}
    (hpre : ∀ t, pre p (s.dev.descOf uid) t = t) : ∃ t, s.Still t ∧
      s.commitPart uid chks pre = (t.onDev fun d => d.modPart uid Part.commit).concluded uid p (s.dev.descOf uid) := by
  refine ⟨(s.settled uid p (s.dev.descOf uid)).onDev fun d => d.releasePart uid,
    (State.still_settled s uid p _).trans (State.still_onDev _ (Dev.sameWork_releasePart _ uid)), ?_⟩
  unfold State.commitPart
  simp only [hp, hcan, hchk, hpre, Bool.not_true, Bool.false_eq_true, if_false]
  rfl

/-! ### The last part of a command (R166). -/

theorem Dev.mem_partsOf {d : Dev} {x : Cmd} {q : Nat × Part} : q ∈ d.partsOf x ↔ q.1 ∈ x.parts ∧ d.getPart q.1 = some q.2 := by
  obtain ⟨u, p⟩ := q
  simp only [Dev.partsOf, List.mem_filterMap, Option.map_eq_some_iff, Prod.mk.injEq]
  constructor
  · rintro ⟨v, hv, r, hr, rfl, rfl⟩
    exact ⟨hv, hr⟩
  · exact fun ⟨hu, hp⟩ => ⟨u, hu, p, hp, rfl, rfl⟩

theorem Dev.freeDue_parts (d : Dev) (n : Nat) : (d.freeDue n).parts = d.parts := by
  unfold Dev.freeDue
  split
  · rfl
  · exact foldl_keep (fun e : Dev => e.parts = d.parts) (fun d (g : Nat × Nat × Nat × Nat) => d.freeGates n g.1 g.2.1 g.2.2.1) (fun _ _ h => h) _ d rfl

/-- The parts of a command that has ended are forgotten. -/
theorem Dev.endCmd_forgets {d : Dev} {n seq : Nat} {x : Cmd} (hx : d.getCmd n seq = some x) (fin : CmdState) (detail : Bytes) {u : Nat}
    (hu : u ∈ x.parts) : (d.endCmd n seq fin detail).getPart u = none := by
  unfold Dev.endCmd
  rw [hx]
  dsimp only
  rw [Dev.getPart, Dev.freeDue_parts]
  refine Option.eq_none_iff_forall_ne_some.2 fun p hp => ?_
  have hkept := List.of_mem_filter (Map.mem_of_find hp)
  rw [has_iff.2 hu] at hkept
  exact absurd hkept (by decide)

section
variable {s : State} {uid : Nat} {p : Part} {x : Cmd} (b : Bytes) (hx : s.dev.getCmd p.ctx p.seq = some x)
include hx

theorem State.concluded_waits (h : ∃ u ∈ x.parts, ∃ q, s.dev.getPart u = some q ∧ q.stage ≠ .committed) : s.concluded uid p b = s := by
  obtain ⟨u, hu, q, hq, hstage⟩ := h
  have hall : (s.dev.partsOf x).all (fun q => q.2.stage = .committed) = false :=
    List.all_eq_false.2 ⟨(u, q), Dev.mem_partsOf.2 ⟨hu, hq⟩, by simpa using hstage⟩
  unfold State.concluded
  simp only [hx, hall, Bool.false_eq_true, and_false, if_false]

theorem State.concluded_ends (hrun : x.state = .running)
    (h : ∀ u ∈ x.parts, ∀ q, s.dev.getPart u = some q → q.stage = .committed) :
    (s.concluded uid p b).dev.getCmd p.ctx p.seq = some (x.endAs .completed) ∧ ∀ u ∈ x.parts, (s.concluded uid p b).dev.getPart u = none := by
  have hall : (s.dev.partsOf x).all (fun q => q.2.stage = .committed) = true := List.all_eq_true.2 fun q hq => by
    obtain ⟨hu, hp⟩ := Dev.mem_partsOf.1 hq
    exact decide_eq_true (h _ hu _ hp)
  have hunplan (d : Dev) (n : Nat) : d.SameWork (d.unplan n b) := by
    unfold Dev.unplan
    split
    · exact .refl d
    · exact Dev.sameWork_modCtx _ _ fun _ => rfl
  unfold State.concluded
  simp only [hx, hrun, hall, and_self, if_true, State.onDev_dev]
  refine ⟨(Dev.SameWork.getCmd (hunplan _ _) _ _).trans (Dev.endCmd_getCmd hx _ _), fun u hu => ?_⟩
  refine Option.map_eq_none_iff.1 (((hunplan _ _).part u).trans ?_)
  rw [Dev.endCmd_forgets hx _ _ hu, Option.map_none]

end

/-! ### Parts of a command that commit (R165, R166, R199). -/

/-- Checks that find no fault leave the state as it is (R107). -/
theorem State.commitChecks_ok (s : State) (p : Part) {chks : List (Nat × Check)} (h : ∀ y ∈ chks, y.2 = .ok) : s.commitChecks p chks = (s, true) := by
  unfold State.commitChecks
  split
  · unfold State.ccChecks
    refine List.foldlRecOn (motive := fun r => r = (s, true)) chks _ rfl fun r hr y hy => ?_
    rw [hr, h y hy]
    split
    · split
      · exact State.ccCheck_ok s _ _
      · rfl
    · rfl
  · rfl

/-- A part of a plan without entries, or of another descriptor, acts on none at its commit (R191). -/
theorem State.actPlan_none (s : State) (uid : Nat) {p : Part} (h : p.planned = []) (b : Bytes) : s.actPlan uid p b = s := by
  unfold State.actPlan
  rw [h]
  split <;> rfl

/-- Another part than the one that commits stands where it stood. -/
theorem State.Still.commit_other {s t : State} (h : s.Still t) {uid v : Nat} (hv : v ≠ uid) :
    ((t.onDev fun d => d.modPart uid Part.commit).dev.getPart v).map Part.task = (s.dev.getPart v).map Part.task := by
  rw [State.onDev_dev, Dev.getPart_modPart, if_neg hv.symm]
  exact h.work.part v

theorem State.Still.commit_stage {s t : State} (h : s.Still t) {uid v : Nat} (hv : v ≠ uid) :
    ((t.onDev fun d => d.modPart uid Part.commit).dev.getPart v).map Part.stage = (s.dev.getPart v).map Part.stage := by
  have htask := congrArg (fun o => o.map fun k : Nat × Nat × PartKind × PartStage × Bool => k.2.2.2.1) (h.commit_other (uid := uid) hv)
  rwa [Option.map_map, Option.map_map] at htask

/-- The part that commits stands committed. -/
theorem State.Still.commit_self {s t : State} (h : s.Still t) {uid : Nat} {p : Part} (hp : s.dev.getPart uid = some p) :
    ∃ q, (t.onDev fun d => d.modPart uid Part.commit).dev.getPart uid = some q ∧ q.task = p.commit.task := by
  obtain ⟨q, hq, htask⟩ := h.work.getPart hp
  obtain ⟨hctx, hseq, hkind, _, hran⟩ := Part.task_eq_iff.1 htask
  refine ⟨q.commit, ?_, Part.task_eq_iff.2 ⟨hctx, hseq, hkind, rfl, hran⟩⟩
  rw [State.onDev_dev, Dev.getPart_modPart, if_pos rfl, hq, Option.map_some]

section
variable {s : State} {uid : Nat} {p : Part} {x : Cmd} {chks : List (Nat × Check)} {pre : Part → Bytes → State → State}
  (hp : s.dev.getPart uid = some p) (hcan : s.canCommit uid p = true) (hchk : s.commitChecks p chks = (s, true))
  (hpre : ∀ t, pre p (s.dev.descOf uid) t = t) (hx : s.dev.getCmd p.ctx p.seq = some x)
include hp hcan hchk hpre hx

/-- A part commits, and another part of its command has yet to. -/
theorem State.commitPart_waits (h : ∃ v ∈ x.parts, v ≠ uid ∧ ∃ q, s.dev.getPart v = some q ∧ q.stage ≠ .committed) :
    ∃ t, s.Still t ∧ s.commitPart uid chks pre = t.onDev fun d => d.modPart uid Part.commit := by
  obtain ⟨t, ht, heq⟩ := State.commitPart_commits hp hcan hchk hpre
  obtain ⟨v, hv, hne, q, hq, hstage⟩ := h
  refine ⟨t, ht, heq.trans (State.concluded_waits _ ((ht.work.getCmd _ _).trans hx) ⟨v, hv, ?_⟩)⟩
  have hv' := ht.commit_stage hne
  rw [hq, Option.map_some, Option.map_eq_some_iff] at hv'
  obtain ⟨r, hr, hrs⟩ := hv'
  exact ⟨r, hr, hrs ▸ hstage⟩

/-- The last part of a command commits, and the command completes. -/
theorem State.commitPart_ends (hrun : x.state = .running)
    (h : ∀ v ∈ x.parts, ∀ q, s.dev.getPart v = some q → v = uid ∨ q.stage = .committed) :
    (s.commitPart uid chks pre).dev.getCmd p.ctx p.seq = some (x.endAs .completed) ∧
      ∀ v ∈ x.parts, (s.commitPart uid chks pre).dev.getPart v = none := by
  obtain ⟨t, ht, heq⟩ := State.commitPart_commits hp hcan hchk hpre
  rw [heq]
  refine State.concluded_ends _ ((ht.work.getCmd _ _).trans hx) hrun fun v hv q hq => ?_
  by_cases hne : v = uid
  · obtain ⟨r, hr, htask⟩ := ht.commit_self hp
    obtain ⟨_, _, _, hstage, _⟩ := Part.task_eq_iff.1 htask
    rw [hne, hr] at hq
    exact Option.some.inj hq ▸ hstage
  · have hv' := ht.commit_stage hne
    rw [hq, Option.map_some, eq_comm, Option.map_eq_some_iff] at hv'
    obtain ⟨r, hr, hrs⟩ := hv'
    exact hrs ▸ (h v hv r hr).resolve_left hne

end

/-! ### The parts of a COMBINE commit together (R199). -/

/-- A command whose parts commit one by one: those that have yet to are ready, and stand in a list. -/
structure State.Committing (s : State) (n : Nat) (x : Cmd) (rest : List Nat) : Prop where
  cmd : s.dev.getCmd n x.seq = some x
  part : ∀ v ∈ x.parts, ∀ q, s.dev.getPart v = some q → q.ctx = n ∧ q.seq = x.seq ∧ q.kind ≠ .kernel ∧
    (q.stage = .committed ∨ (q.stage = .executing ∧ q.ran = true ∧ s.partBusy v = false ∧ v ∈ rest))
  some_left : ∃ v ∈ x.parts, ∃ q, s.dev.getPart v = some q ∧ q.stage ≠ .committed

/-- A command that has completed, its parts forgotten. -/
def State.Finished (s : State) (n : Nat) (x : Cmd) : Prop :=
  s.dev.getCmd n x.seq = some (x.endAs .completed) ∧ ∀ v ∈ x.parts, s.dev.getPart v = none

/-- The next part of the command commits. -/
def State.commitNext (s : State) (v : Nat) : State := s.commitPart v [] fun _ _ s => s

section
variable {n : Nat} {x : Cmd} (hrun : x.state = .running)

theorem State.Finished.next {s : State} (h : s.Finished n x) {v : Nat} (hv : v ∈ x.parts) : s.commitNext v = s :=
  State.commitPart_idle (fun p hp => by rw [h.2 v hv] at hp; cases hp) _ _

/-- A part that has committed, or is none, needs no turn. -/
theorem State.Committing.skip {s : State} {v : Nat} {rest : List Nat} (h : s.Committing n x (v :: rest))
    (hv : ∀ q, s.dev.getPart v = some q → q.stage = .committed) : s.Committing n x rest where
  cmd := h.cmd
  some_left := h.some_left
  part u hu q hq := by
    obtain ⟨hctx, hseq, hkind, hstage⟩ := h.part u hu q hq
    refine ⟨hctx, hseq, hkind, hstage.imp id fun ⟨hexec, hran, hidle, hmem⟩ => ⟨hexec, hran, hidle, ?_⟩⟩
    refine (List.mem_cons.1 hmem).resolve_left fun huv => ?_
    rw [hv q (huv ▸ hq)] at hexec
    cases hexec

include hrun

theorem State.Committing.next {s : State} {v : Nat} {rest : List Nat} (h : s.Committing n x (v :: rest)) (hv : v ∈ x.parts) :
    (s.commitNext v).Committing n x rest ∨ (s.commitNext v).Finished n x := by
  by_cases hdone : ∀ q, s.dev.getPart v = some q → q.stage = .committed
  · left
    rw [State.commitNext, State.commitPart_idle fun p hp => by simp [State.canCommit, hdone p hp]]
    exact h.skip hdone
  · push Not at hdone
    obtain ⟨p, hp, hopen⟩ := hdone
    obtain ⟨rfl, hseq, hkind, hstage⟩ := h.part v hv p hp
    obtain ⟨hexec, hran, hidle, _⟩ := hstage.resolve_left hopen
    have hcan : s.canCommit v p = true := by simp [State.canCommit, hexec, hran, hidle, hkind]
    have hchk := State.commitChecks_ok s p (chks := []) (by simp)
    have hx : s.dev.getCmd p.ctx p.seq = some x := hseq ▸ h.cmd
    by_cases hlast : ∀ u ∈ x.parts, ∀ q, s.dev.getPart u = some q → u = v ∨ q.stage = .committed
    · right
      have hends := State.commitPart_ends hp hcan hchk (pre := fun _ _ s => s) (fun _ => rfl) hx hrun hlast
      rwa [hseq] at hends
    · left
      push Not at hlast
      obtain ⟨w, hw, r, hr, hne, hrs⟩ := hlast
      obtain ⟨t, ht, heq⟩ := State.commitPart_waits hp hcan hchk (pre := fun _ _ s => s) (fun _ => rfl) hx ⟨w, hw, hne, r, hr, hrs⟩
      rw [State.commitNext, heq]
      refine ⟨(ht.work.getCmd _ _).trans h.cmd, fun u hu q hq => ?_, ?_⟩
      · by_cases huv : u = v
        · obtain ⟨q', hq', htask⟩ := ht.commit_self hp
          obtain ⟨hctx', hseq', hkind', hstage', _⟩ := Part.task_eq_iff.1 htask
          rw [huv, hq'] at hq
          obtain rfl := Option.some.inj hq
          exact ⟨hctx', hseq'.trans hseq, fun hk => hkind (hkind'.symm.trans hk), .inl hstage'⟩
        · have hu' := ht.commit_other (uid := v) huv
          rw [hq, Option.map_some, eq_comm, Option.map_eq_some_iff] at hu'
          obtain ⟨q', hq', htask⟩ := hu'
          obtain ⟨hctx', hseq', hkind', hstage', hran'⟩ := Part.task_eq_iff.1 htask
          obtain ⟨hctx, hseq, hkind, hst⟩ := h.part u hu q' hq'
          refine ⟨hctx' ▸ hctx, hseq' ▸ hseq, hkind' ▸ hkind, hst.imp (fun hc => hstage' ▸ hc) fun ⟨he, hn, hi, hm⟩ => ?_⟩
          exact ⟨hstage' ▸ he, hran' ▸ hn, ht.idle hi, (List.mem_cons.1 hm).resolve_left huv⟩
      · have hw' := ht.commit_stage (uid := v) hne
        rw [hr, Option.map_some, Option.map_eq_some_iff] at hw'
        obtain ⟨r', hr', hrs'⟩ := hw'
        exact ⟨w, hw, r', hr', hrs' ▸ hrs⟩

/-- When each has had its turn, the command has completed. -/
theorem State.commitAll_finished {l : List Nat} : ∀ {s : State}, (∀ v ∈ l, v ∈ x.parts) → s.Committing n x l ∨ s.Finished n x →
    (l.foldl State.commitNext s).Finished n x := by
  induction l with
  | nil =>
    intro s _ h
    refine h.resolve_left fun h => ?_
    obtain ⟨v, hv, q, hq, hstage⟩ := h.some_left
    obtain ⟨_, _, _, hst⟩ := h.part v hv q hq
    obtain ⟨_, _, _, hmem⟩ := hst.resolve_left hstage
    cases hmem
  | cons v l ih =>
    intro s hl h
    obtain ⟨hv, hl⟩ := List.forall_mem_cons.1 hl
    refine ih hl ?_
    rcases h with h | h
    · exact h.next hrun hv
    · exact .inr ((h.next hv).symm ▸ h)

end

end Sys2Proof.Machine
end

section
/-!
PROOFS. Fault records enter the queue (R268, R269), and the life of parts (R156, R159, R165, R166): O31.
-/

namespace Sys2Proof.Machine

/-! ### FAULT_ENTRY_OPEN (R268, R269, R272). -/

/-- A state in which a record may have entered a fault queue: memory, power, engines, held records and partitions of contexts are as before. -/
structure State.Entered (s t : State) : Prop where
  mem : t.mem = s.mem
  pow : t.pow = s.pow
  eng : t.dev.eng = s.dev.eng
  held : ∀ k, (t.dev.getPt k).heldRecs = (s.dev.getPt k).heldRecs
  ctxPt : ∀ n, (t.dev.getCtx n).map Ctx.pt = (s.dev.getCtx n).map Ctx.pt

theorem Dev.modPt_heldRecs (d : Dev) (pt : Nat) {f : Partn → Partn} (hf : ∀ q, (f q).heldRecs = q.heldRecs) (k : Nat) :
    ((d.modPt pt f).getPt k).heldRecs = (d.getPt k).heldRecs := by
  rw [Dev.getPt_modPt]
  split
  · exact hf _
  · rfl

theorem State.entered_openEntry (s : State) (pt : Nat) (r : FaultRec) : s.Entered (s.openEntry pt r) := by
  let opened : Partn → Partn := fun q => { q with
    faults := q.faults ++ [r.entry (s.dev.getPt pt).nextEntry], nextEntry := if q.nextEntry = 2 ^ 32 - 1 then 1 else q.nextEntry + 1 }
  let t := s.onDev fun d => (d.modPt pt opened).countPt pt 0 1
  have htold := State.event_told t r.ctx 1 r.cause r.seq (r.entry (s.dev.getPt pt).nextEntry).bytes
  obtain ⟨hmem, hpow⟩ := State.event_mem_pow t r.ctx 1 r.cause r.seq (r.entry (s.dev.getPt pt).nextEntry).bytes
  refine ⟨hmem, hpow, htold.eng, fun k => ?_, htold.view Ctx.pt fun _ => rfl⟩
  refine (congrArg Partn.heldRecs (htold.getPt k)).trans ?_
  refine Eq.trans ?_ (Dev.modPt_heldRecs s.dev pt (f := opened) (fun _ => rfl) k)
  exact Dev.modPt_heldRecs (s.dev.modPt pt opened) pt (f := fun q => { q with stats := q.stats.count 0 1 }) (fun _ => rfl) k

theorem State.entered_enter (s : State) (pt : Nat) (r : FaultRec) : s.Entered (s.enter pt r) := by
  unfold State.enter
  split
  · refine ⟨rfl, rfl, rfl, fun k => ?_, fun _ => rfl⟩
    exact Dev.modPt_heldRecs s.dev pt (f := fun q => { q with faults := q.faults.map fun f => f.joinRec r }) (fun _ => rfl) k
  · exact State.entered_openEntry s pt r

theorem State.Entered.backlog {s t : State} (h : s.Entered t) {pt : Nat} (hb : s.dev.backlog pt = []) : t.dev.backlog pt = [] :=
  Dev.backlog_stays hb (h.held pt) h.ctxPt fun x hx _ hr _ => ⟨x, h.eng ▸ hx, hr⟩

theorem State.Entered.getEng {s t : State} (h : s.Entered t) (i : Nat) : t.dev.getEng i = s.dev.getEng i := by
  rw [Dev.getEng, h.eng]
  rfl

/-- A register that gives its record up leaves the backlog empty, unless the access behind it was held back. -/
theorem Dev.backlog_freeReg {d : Dev} {pt i : Nat} (h : d.backlog pt = []) (hwait : ∀ f, (d.getEng i).faultWait.head? = some f → f.full = false) :
    (d.modEng i Engine.freeReg).backlog pt = [] := by
  refine Dev.backlog_stays h rfl (fun _ => rfl) fun x hx r hr hfull => ?_
  rcases mem_put _ _ _ _ hx with rfl | hx
  · rw [hwait r hr] at hfull
    cases hfull
  · exact ⟨x, hx, hr⟩

/-- A record for which the queue has an entry or room enters it, and frees its register. -/
theorem State.faultOpen_enters {s : State} {i : Nat} {r : FaultRec} {c : Ctx} (hr : (s.dev.getEng i).faultReg = some r)
    (hc : s.dev.getCtx r.ctx = some c) (hb : s.dev.backlog c.pt = []) (hlow : s.dev.lowerFirst c.pt i r = false)
    (hwait : ∀ f, (s.dev.getEng i).faultWait.head? = some f → f.full = false)
    (henters : s.dev.enters c.pt r = true) : s.faultOpen i = (s.onDev fun d => d.modEng i Engine.freeReg).enter c.pt r := by
  have hnone := (State.entered_enter (s.onDev fun d => d.modEng i Engine.freeReg) c.pt r).backlog (Dev.backlog_freeReg hb hwait)
  rw [← State.refill_of_backlog hnone]
  unfold State.faultOpen
  simp only [hr, hc, hlow, henters, hb, List.isEmpty_nil, and_self, or_true, if_true, Bool.false_eq_true, if_false]

/-- An engine's register once its record has entered the queue. -/
theorem State.enter_faultReg (s : State) (i pt : Nat) (r : FaultRec) :
    (((s.onDev fun d => d.modEng i Engine.freeReg).enter pt r).dev.getEng i).faultReg = (s.dev.getEng i).faultWait.head? := by
  rw [(State.entered_enter _ pt r).getEng, State.onDev_dev, Dev.getEng_modEng_self]
  rfl

/-! ### PART_COMMIT (R165, R166, R199). -/

section
variable {s : State} {uid : Nat} {p : Part} {x : Cmd} (hp : s.dev.getPart uid = some p) (hx : s.dev.getCmd p.ctx p.seq = some x)

/-- A part that is none of a COMBINE commits by itself. -/
theorem State.commitAny_one (h : dOp (s.dev.descOf uid) ≠ 5) (chks : List (Nat × Check)) :
    s.commitAny uid chks = s.commitPart uid chks fun p b s => s.actPlan uid p b := if_neg h

include hp hx

/-- The parts of a COMBINE that have all run and landed commit one after another. -/
theorem State.commitAny_all (h : dOp (s.dev.descOf uid) = 5)
    (hall : ∀ q ∈ s.dev.partsOf x, q.2.stage = .executing ∧ q.2.ran = true ∧ s.partBusy q.1 = false) (chks : List (Nat × Check)) :
    s.commitAny uid chks = ((s.dev.partsOf x).map fun q => q.1).foldl State.commitNext s := by
  have hsib : s.dev.siblings uid = s.dev.partsOf x := by
    unfold Dev.siblings
    simp only [hp, hx]
  have hready : ((s.dev.partsOf x).all fun q => q.2.stage = .executing && q.2.ran && !s.partBusy q.1) = true := List.all_eq_true.2 fun q hq => by
    obtain ⟨hstage, hran, hidle⟩ := hall q hq
    simp [hstage, hran, hidle]
  unfold State.commitAny
  rw [if_pos h, hsib, List.foldl_map]
  exact if_pos hready

/-- A command all of whose parts are ready may commit them one by one. -/
theorem State.committing_all (hmem : uid ∈ x.parts) (hps : ∀ q ∈ s.dev.partsOf x, q.2.stage = .executing ∧ q.2.ran = true ∧
    s.partBusy q.1 = false ∧ q.2.kind ≠ .kernel ∧ q.2.ctx = p.ctx ∧ q.2.seq = p.seq) :
    s.Committing p.ctx x ((s.dev.partsOf x).map fun q => q.1) := by
  have hseq := Dev.seq_of_getCmd hx
  refine ⟨hseq ▸ hx, fun v hv q hq => ?_, uid, hmem, p, hp, ?_⟩
  · have hq' : (v, q) ∈ s.dev.partsOf x := Dev.mem_partsOf.2 ⟨hv, hq⟩
    obtain ⟨hstage, hran, hidle, hkind, hctx, hs⟩ := hps _ hq'
    exact ⟨hctx, hs.trans hseq.symm, hkind, .inr ⟨hstage, hran, hidle, List.mem_map_of_mem hq'⟩⟩
  · obtain ⟨hstage, _⟩ := hps (uid, p) (Dev.mem_partsOf.2 ⟨hmem, hp⟩)
    exact fun h => PartStage.noConfusion (hstage.symm.trans h)

/-- The parts of a COMBINE commit together, and the command completes (R199). -/
theorem State.commitAny_combine (h : dOp (s.dev.descOf uid) = 5) (hrun : x.state = .running) (hmem : uid ∈ x.parts)
    (hps : ∀ q ∈ s.dev.partsOf x, q.2.stage = .executing ∧ q.2.ran = true ∧ s.partBusy q.1 = false ∧ q.2.kind ≠ .kernel ∧ q.2.ctx = p.ctx ∧
      q.2.seq = p.seq) (chks : List (Nat × Check)) : (s.commitAny uid chks).dev.getCmd p.ctx p.seq = some (x.endAs .completed) := by
  have hparts : ∀ v ∈ (s.dev.partsOf x).map fun q => q.1, v ∈ x.parts := by
    intro v hv
    obtain ⟨q, hq, rfl⟩ := List.mem_map.1 hv
    exact (Dev.mem_partsOf.1 hq).1
  have hready : ∀ q ∈ s.dev.partsOf x, q.2.stage = .executing ∧ q.2.ran = true ∧ s.partBusy q.1 = false := fun q hq => by
    obtain ⟨hstage, hran, hidle, _⟩ := hps q hq
    exact ⟨hstage, hran, hidle⟩
  obtain ⟨hcmd, _⟩ := State.commitAll_finished hrun hparts (.inl (State.committing_all hp hx hmem hps))
  rw [State.commitAny_all hp hx h hready]
  exact Dev.seq_of_getCmd hx ▸ hcmd

end

/-! ### The life of parts. -/

/-- Settles O31: by the spec of the dispatch, of the start, of one commit and of the commits of a COMBINE, and of a record that enters. -/
theorem partLife : Obligations.PartLife := by
  unfold Obligations.PartLife
  refine ⟨?dispatches, ?starts, ?commits, ?faults⟩
  case dispatches =>
    intro s n c x h hplan
    refine ⟨fun hy => congrArg Host.Outcome.next (State.dispatchParts_yields h hy), fun hy hsink => ?_⟩
    obtain ⟨honly, hcmd, hparts⟩ := State.dispatchParts_spec h hplan hy hsink
    refine ⟨s.dispatchParts n.val, _, List.range' (s.dev.begin n.val x.seq).nextUid x.plan.length, rfl, honly, hcmd, rfl, rfl, by simp, fun i k e hi => ?_⟩
    obtain ⟨hqueue, hpart⟩ := hparts i k e hi
    refine ⟨(s.dev.begin n.val x.seq).nextUid + i, ?_, has_iff.2 hqueue, hpart⟩
    rw [List.getElem?_range' (List.getElem?_eq_some_iff.1 hi).1, Nat.one_mul]
  case starts =>
    intro s e i es
    refine ⟨fun hnone => congrArg Host.Outcome.next (State.partStart_none hnone), fun u p hu hp hon hhold hplace hspace => ?_⟩
    obtain ⟨honly, ⟨q, hq, hstage⟩, hlists⟩ := State.partStart_spec hu hp hon hhold hplace hspace
    obtain ⟨hqueue, hexec⟩ := Prod.mk.inj hlists
    exact ⟨s.partStart e, q, rfl, honly, hq, hstage, hexec, hqueue⟩
  case commits =>
    intro s uid p x hp hx hrun ps chks hchks
    refine ⟨fun hop hstage hran hbusy hkernel hplanned => ?_,
      fun hop hhas hps => ⟨s.commitAny uid chks, _, rfl, State.commitAny_combine hp hx hop hrun (has_iff.1 hhas) hps chks, rfl⟩⟩
    have hcan : s.canCommit uid p = true := by
      by_cases hk : p.kind = .kernel
      · simp [State.canCommit, hstage, hran, hbusy, hkernel hk]
      · simp [State.canCommit, hstage, hran, hbusy, hk]
    have hchk := State.commitChecks_ok s p hchks
    let pre (p : Part) (b : Bytes) (s : State) : State := s.actPlan uid p b
    have hpre (t : State) : pre p (s.dev.descOf uid) t = t := State.actPlan_none t uid hplanned _
    have hexec : exec (.partCommit uid chks) s = .next (s.commitPart uid chks pre) := congrArg Host.Outcome.next (State.commitAny_one hop chks)
    refine ⟨fun ⟨q, hq, hne, hopen⟩ => ?_, fun hlast => ?_⟩
    · obtain ⟨hmem, hpart⟩ := Dev.mem_partsOf.1 hq
      obtain ⟨t, ht, heq⟩ := State.commitPart_waits hp hcan hchk hpre hx ⟨q.1, hmem, hne, q.2, hpart, hopen⟩
      obtain ⟨r, hr, htask⟩ := ht.commit_self hp
      obtain ⟨_, _, _, hcommitted, _⟩ := Part.task_eq_iff.1 htask
      exact ⟨_, r, x, hexec.trans (congrArg Host.Outcome.next heq), hr, hcommitted, (ht.work.getCmd _ _).trans hx, hrun⟩
    · obtain ⟨hcmd, _⟩ := State.commitPart_ends hp hcan hchk hpre hx hrun fun v hv q hq => hlast (v, q) (Dev.mem_partsOf.2 ⟨hv, hq⟩)
      exact ⟨_, _, hexec, hcmd, rfl⟩
  case faults =>
    intro s e r c x q hr hc hb hlow hwait
    let t := s.onDev fun d => d.modEng (eIdx e) Engine.freeReg
    have hin := State.entered_enter t c.pt r
    have hreg : ((t.enter c.pt r).dev.getEng (eIdx e)).faultReg = x.faultWait.head? := State.enter_faultReg s (eIdx e) c.pt r
    have hexec (h : s.dev.enters c.pt r = true) : exec (.faultEntryOpen e) s = .next (t.enter c.pt r) :=
      congrArg Host.Outcome.next (State.faultOpen_enters hr hc hb hlow hwait h)
    refine ⟨fun hjoin hroom => ?_, fun hjoin => ?_⟩
    · refine ⟨_, hexec (Bool.or_eq_true_iff.2 (.inr (decide_eq_true hroom))), hin.mem, hin.pow, ?_, hreg⟩
      rw [State.enter_opens (s := t) hjoin, State.openEntry_faults]
      rfl
    · have hjoins := State.enter_joins (s := t) hjoin
      refine ⟨_, hexec (Bool.or_eq_true_iff.2 (.inl hjoin)), ?_, ?_, hreg⟩
      · rw [hjoins]
        exact (onlyDev_onDev s _).trans (onlyDev_onDev _ _)
      · rw [hjoins, State.onDev_dev, Dev.getPt_modPt_self]
        rfl

end Sys2Proof.Machine
end

section
/-!
PROOFS. O32 fails: PIN with STEEP promotes its objects (R213), which ends the SINKs that wait on them by context and command number (R223), and
nothing in the statement keeps a table of contexts from naming a number twice.
-/

namespace Sys2Proof.Machine

/-- The descriptor of an object's command: opcode, one object, flags, object 3. -/
def oneObject (op flags : Nat) : Bytes := leBytes 1 op ++ leBytes 31 0 ++ leBytes 1 1 ++ leBytes 1 flags ++ leBytes 6 0 ++ leBytes 4 3 ++ leBytes 84 0

/-- A PIN with STEEP of object 3 that waits, and would end as failed if it ended for an object. -/
def twicePin : Cmd := { seq := 1, desc := oneObject 0x12 1, step := 0, objGen := [1], late := some 7 }

/-- A SINK of object 3, of the same number, that runs. -/
def twiceSink : Cmd := { seq := 1, desc := oneObject 0x11 0, step := 0, objGen := [1], state := .running, waits := [(3, 1)] }

/-- A context with one command. -/
def twiceCtx (x : Cmd) : Ctx :=
  { pt := 0, gen := 0, home := 0, prio := 0, vector := 1, quota := 1, engShare := 0, caddyShare := 0, holdoff := 0, recIova := 0, recLog2 := 6,
    evtIova := 0, evtLog2 := 6, cmds := [x] }

/-- Object 3, which sinks and has not been released. -/
def twiceObj : Obj :=
  { reg := 1, granules := 1, home := 0, expertHome := 0xFF, attrs := 0, hint := 0, elemOff := 0, elemLen := 0, scaleOff := 0, scaleLen := 0, res := .sinking }

/-- A state whose table of contexts names context 1 twice: by that number one finds the PIN, and over the table one meets the SINK. -/
def twiceState : State :=
  { dev := { ready := true, ctxs := [(1, twiceCtx twicePin), (1, twiceCtx twiceSink)], partns := [(0, { objs := [(3, twiceObj)] })] } }

theorem nextUp_twice : NextUp twiceState 1 (twiceCtx twicePin) twicePin := ⟨rfl, by decide +kernel, by decide⟩

/-- The PIN's list: object 3 in its one registration. -/
theorem listed_twice : twiceState.dev.listed 0 (dObjs twicePin.desc) twicePin.objGen = ([(3, 1)], false) := by decide +kernel

/-- The promotion of object 3 ends the SINK of context 1 by its number, and what bears that number first is the PIN: it has failed. -/
theorem pin_twice_failed : ∃ t, exec (.pin 1) twiceState = .next t ∧ (t.dev.getCmd 1 1).map Cmd.state = some (.failed 7) :=
  ⟨_, rfl, by decide +kernel⟩

/-- Refutes O32: in a state whose table names context 1 twice, a PIN whose pins all fit ends as failed and not as completed. -/
theorem not_jormonCommands : ¬ Obligations.JormonCommands := by
  unfold Obligations.JormonCommands
  rintro ⟨h, _⟩
  obtain ⟨hpin, _⟩ := h twiceState 1 (twiceCtx twicePin) twicePin nextUp_twice
  have hl : twiceState.dev.listed (twiceCtx twicePin).pt (dObjs twicePin.desc) twicePin.objGen = ([(3, 1)], false) := listed_twice
  obtain ⟨hfits, _⟩ := hpin (congrArg Prod.snd hl) (by decide +kernel)
  obtain ⟨t, _, y, ht, _, _, hy, hstate, _⟩ := hfits (by rw [hl]; decide +kernel)
  obtain ⟨u, hu, hfailed⟩ := pin_twice_failed
  obtain rfl : t = u := Host.Outcome.next.inj (ht.symm.trans hu)
  have hcmd : t.dev.getCmd 1 1 = some y := hy
  rw [hcmd, Option.map_some, hstate] at hfailed
  cases hfailed

end Sys2Proof.Machine
end

section
/-!
PROOFS. ROUTE (R179 to R190): no list passes the capacity, no more slots are dropped than the tokens have, and what ROUTE writes is on its way to its
regions and to nowhere else.
-/

namespace Sys2Proof.Machine

theorem length_sortKey {α : Type} (l : List (Nat × α)) : (sortKey l).length = l.length := by
  have hinsert (k : Nat) (x : α) (m : List (Nat × α)) : (insertKey k x m).length = m.length + 1 := by
    induction m with
    | nil => rfl
    | cons y m ih =>
      unfold insertKey
      split
      · rfl
      · rw [List.length_cons, ih, List.length_cons]
  rw [sortKey, List.length_map]
  induction l using List.reverseRecOn with
  | nil => rfl
  | append_singleton l x ih => rw [List.foldl_append, List.foldl_cons, List.foldl_nil, hinsert, ih, List.length_append, List.length_singleton]

/-! ### Rank passes (R180, R181, R187). -/

/-- A token's ranking of the experts with their logits, none for a poisoned token (R179). -/
abbrev TokenRank := Option (List (Nat × Num))

section
variable (r : RouteRun) (cap policy k slot t : Nat)

/-- An offer ends with an expert that had room, or with a dropped slot (R180, R181). -/
theorem RouteRun.offer_cases (order : List Nat) :
    let z := r.offer cap policy k t slot order
    (∃ e, (r.list e).length < cap ∧ z.lists = Map.put r.lists e (r.list e ++ [(t, slot)]) ∧ z.dropped = r.dropped) ∨
      z.lists = r.lists ∧ z.dropped.length = r.dropped.length + 1 := by
  unfold RouteRun.offer
  dsimp only
  split
  · rename_i hroom
    exact .inl ⟨_, hroom, rfl, rfl⟩
  · split
    · exact .inr ⟨rfl, List.length_append⟩
    · split
      · rename_i c hc
        have hfound := List.find?_some hc
        rw [Bool.and_eq_true, decide_eq_true_iff] at hfound
        exact .inl ⟨c, hfound.1, rfl, rfl⟩
      · exact .inr ⟨rfl, List.length_append⟩

/-- No list is longer than the capacity. -/
def RouteRun.Within (r : RouteRun) (cap : Nat) : Prop := ∀ e, (r.list e).length ≤ cap

variable {r cap}

theorem RouteRun.Within.turn (h : r.Within cap) (rank : TokenRank) : (r.turn cap policy k slot t rank).Within cap := by
  intro e
  unfold RouteRun.turn
  split
  · rename_i l
    rcases r.offer_cases cap policy k slot t (l.map fun x => x.1) with ⟨c, hroom, hlists, _⟩ | ⟨hlists, _⟩
    · rw [RouteRun.list, hlists, Map.get_put]
      split
      · rw [List.length_append, List.length_singleton]
        exact hroom
      · exact h e
    · rw [RouteRun.list, hlists]
      exact h e
  · split
    · exact h e
    · exact h e

/-- No expert's list passes the capacity (R180). -/
theorem routeAll_within (ranks : List TokenRank) : (routeAll cap policy k ranks).Within cap :=
  foldl_keep (fun r : RouteRun => r.Within cap) _
    (fun _ slot h => foldl_keep (fun r : RouteRun => r.Within cap) _ (fun _ x h => h.turn policy k slot x.2 x.1) _ _ h) _ _ fun _ => Nat.zero_le _

/-- How many slots of a token may be dropped in the first n passes: those of a poisoned token all in pass 0 (R187). -/
def dropsUpTo {α : Type} (k n : Nat) (rank : Option α) : Nat :=
  match rank with
  | some _ => n
  | none => if n = 0 then 0 else k

variable (r cap) in
theorem RouteRun.turn_dropped (rank : TokenRank) : (r.turn cap policy k slot t rank).dropped.length + dropsUpTo k slot rank ≤
    r.dropped.length + dropsUpTo k (slot + 1) rank := by
  cases rank with
  | some l =>
    show (r.offer cap policy k t slot _).dropped.length + slot ≤ r.dropped.length + (slot + 1)
    rcases r.offer_cases cap policy k slot t (l.map fun x => x.1) with ⟨_, _, _, hdropped⟩ | ⟨_, hdropped⟩
    · rw [hdropped]
      omega
    · omega
  | none =>
    unfold RouteRun.turn dropsUpTo
    by_cases h0 : slot = 0
    · simp [h0]
    · simp [h0]

theorem RouteRun.pass_dropped (l : List (TokenRank × Nat)) (r : RouteRun) :
    (l.foldl (fun r x => r.turn cap policy k slot x.2 x.1) r).dropped.length + (l.map fun x => dropsUpTo k slot x.1).sum ≤
      r.dropped.length + (l.map fun x => dropsUpTo k (slot + 1) x.1).sum := by
  induction l generalizing r with
  | nil => exact le_rfl
  | cons x l ih =>
    have hturn := r.turn_dropped cap policy k slot x.2 x.1
    have hrest := ih (r.turn cap policy k slot x.2 x.1)
    simp only [List.foldl_cons, List.map_cons, List.sum_cons]
    omega

/-- No more slots are dropped than the tokens have. -/
theorem routeAll_dropped (ranks : List TokenRank) : (routeAll cap policy k ranks).dropped.length ≤ k * ranks.length := by
  have hpasses (n : Nat) : ((List.range n).foldl (fun r slot => ranks.zipIdx.foldl (fun r x => r.turn cap policy k slot x.2 x.1) r)
      ({} : RouteRun)).dropped.length ≤ (ranks.zipIdx.map fun x => dropsUpTo k n x.1).sum := by
    induction n with
    | zero => exact Nat.zero_le _
    | succ n ih =>
      rw [List.range_succ, List.foldl_append]
      have hpass := RouteRun.pass_dropped (cap := cap) policy k n ranks.zipIdx ((List.range n).foldl (fun r slot =>
        ranks.zipIdx.foldl (fun r x => r.turn cap policy k slot x.2 x.1) r) {})
      exact Nat.le_of_add_le_add_right (hpass.trans (Nat.add_comm _ _ ▸ Nat.add_le_add_left ih _))
  refine (hpasses k).trans ((List.sum_le_card_nsmul _ k ?_).trans (by simp [Nat.mul_comm]))
  rintro _ hx
  obtain ⟨⟨rank, _⟩, _, rfl⟩ := List.mem_map.1 hx
  unfold dropsUpTo
  split
  · exact le_rfl
  · split
    · exact Nat.zero_le _
    · exact le_rfl

theorem RouteRun.length_plan (r : RouteRun) (n : Nat) : (r.plan n).length ≤ n := by
  rw [RouteRun.plan, length_sortKey, List.length_map]
  exact (List.length_filter_le _ _).trans (List.length_range (n := n)).le

end

/-! ### What ROUTE sends (R182 to R189). -/

/-- The plan that a part keeps for its commit (R190). -/
def Dev.plannedOf (d : Dev) (uid : Nat) : Option (List Nat) := (d.getPart uid).map Part.planned

theorem Dev.plannedOf_modPart (d : Dev) (uid : Nat) {f : Part → Part} (hf : ∀ q, (f q).planned = q.planned) :
    (d.modPart uid f).plannedOf uid = d.plannedOf uid := by
  rw [Dev.plannedOf, Dev.getPart_modPart, if_pos rfl, Option.map_map]
  exact congrArg (fun g => (d.getPart uid).map g) (funext hf)

theorem Dev.plannedOf_wrote (d : Dev) (uid line : Nat) (mask : BitVec 128) : (d.wrote uid line mask).plannedOf uid = d.plannedOf uid := by
  unfold Dev.wrote
  split
  · rfl
  · exact Dev.plannedOf_modPart _ uid fun _ => rfl

theorem State.plannedOf_vsend (s : State) (uid va : Nat) (bs : Bytes) : (s.vsend uid va bs).dev.plannedOf uid = s.dev.plannedOf uid := by
  unfold State.vsend
  split
  · rfl
  · exact foldl_keep (fun t : State => t.dev.plannedOf uid = s.dev.plannedOf uid) _ (fun _ _ h => (Dev.plannedOf_wrote _ uid _ _).trans h) _ s rfl

/-- The rankings of the tokens of a ROUTE (R179). -/
def State.routeRanks (s : State) (uid : Nat) (b : Bytes) : List TokenRank :=
  ((List.range (rT b)).map fun t => s.refLine uid (Ref.of b 32) t).map fun x => ranking x.1

/-- The assignments of a ROUTE (R180, R181). -/
def routeOf (b : Bytes) (ranks : List TokenRank) : RouteRun := routeAll (rCap b) (field b 105 1) (rK b) ranks

/-- The choices region up to the weights (Table 7.2). -/
def choiceBytes (b : Bytes) (z : RouteRun) : Bytes :=
  leBytes 4 (rT b) ++ leBytes 1 (rK b) ++ leBytes 1 (rWfmt b) ++ leBytes 2 (rE b - 1) ++ leBytes 4 (rCap b) ++ leBytes 1 (field b 105 1) ++ leBytes 3 0 ++
    (List.range (rT b)).flatMap fun t => (List.range 8).flatMap fun j => leBytes 2 (z.entry t j)

/-- The weights of a token's slots, poisoned where the token is (R179, R182). -/
def RouteRun.weightLine (z : RouteRun) (b : Bytes) (x : TokenRank × Nat) : List Num :=
  match x.1 with
  | some l => z.weights (field b 105 1) (rK b) x.2 l
  | none => (List.range 8).map fun _ => { m := 0, poison := true }

/-- Converts a token's weights and sends them. -/
def State.sendWeights (s : State) (uid : Nat) (b : Bytes) (z : RouteRun) (x : TokenRank × Nat) : State :=
  let w := writeLine (rWfmt b) (Conv.of (field b 2 2)) (z.weightLine b x) s.dev.free
  let s := (s.onDev fun d => d.modPart uid fun q => q.addCnt w.2.2).took w.2.2.draws
  (s.vsend uid (field b 64 8 + 16 + 16 * rT b + 16 * x.2) (sub w.1 0 16)).vsend uid (field b 64 8 + 16 + 32 * rT b + x.2) w.2.1

/-- The list of an expert in ascending token index (R185). -/
def RouteRun.listBytes (z : RouteRun) (e : Nat) : Bytes := (sortKey ((z.list e).map fun a => (a.1, a))).flatMap listEntry

/-- An expert's assigned count and demand (R186). -/
def countBytes (b : Bytes) (ranks : List TokenRank) (z : RouteRun) (e : Nat) : Bytes :=
  leBytes 4 (sortKey ((z.list e).map fun a => (a.1, a))).length ++ leBytes 4 (demand (rK b) ranks e)

/-- Sends an expert's list and counts. -/
def State.sendList (s : State) (uid : Nat) (b : Bytes) (ranks : List TokenRank) (z : RouteRun) (e : Nat) : State :=
  (s.vsend uid (field b 72 8 + 4 * rCap b * e) (z.listBytes e)).vsend uid (field b 80 8 + 8 * e) (countBytes b ranks z e)

/-- The dropped region (R187). -/
def RouteRun.dropBytes (z : RouteRun) : Bytes := leBytes 4 z.dropped.length ++ leBytes 12 0 ++ z.dropped.flatMap dropRecord

/-- The plan region as ROUTE writes it (R189). -/
def planBytes (d : Dev) (pt : Nat) (b : Bytes) (ranks : List TokenRank) (z : RouteRun) : Bytes :=
  leBytes 4 (z.plan (rE b)).length ++ leBytes 4 (rT b) ++ leBytes 8 0 ++ (z.plan (rE b)).flatMap fun e =>
    leBytes 4 (rObj b + e) ++ leBytes 4 (z.list e).length ++ leBytes 4 (demand (rK b) ranks e) ++ leBytes 1 (d.expertHomeOf pt (rObj b + e)) ++ leBytes 3 0

/-- What a part keeps of its ROUTE for its commit: the plan, the completion detail and the counts (R188, R190). -/
def Part.routed (q : Part) (b : Bytes) (z : RouteRun) (cnt : Cnt) : Part :=
  let assigned := ((List.range (rE b)).map fun e => (z.list e).length).sum
  let q := q.addCnt cnt
  { q with planned := z.plan (rE b), detail := [(0, assigned), (1, z.dropped.length), (2, z.moved)],
           counts := [(0x0A, assigned), (0x0B, z.dropped.length), (0x0C, z.moved)].foldl (fun m x => Map.addSat m x.1 x.2 max64) q.counts }

theorem Part.routed_planned (q : Part) (b : Bytes) (z : RouteRun) (cnt : Cnt) : (q.routed b z cnt).planned = z.plan (rE b) := by
  simp only [Part.routed]

/-- ROUTE before it writes its dropped region: what it keeps, its choices, its lists. -/
def State.sendRoutes (s : State) (uid : Nat) (b : Bytes) (ranks : List TokenRank) (z : RouteRun) (cnt : Cnt) : State :=
  (List.range (rE b)).foldl (fun s e => s.sendList uid b ranks z e) (ranks.zipIdx.foldl (fun s x => s.sendWeights uid b z x)
    ((s.onDev fun d => d.modPart uid fun q => q.routed b z cnt).vsend uid (field b 64 8) (choiceBytes b z)))

theorem length_planBytes (d : Dev) (pt : Nat) (b : Bytes) (ranks : List TokenRank) (z : RouteRun) :
    (planBytes d pt b ranks z).length = 16 + 16 * (z.plan (rE b)).length := by
  simp +arith [planBytes, length_leBytes, List.length_flatMap, Nat.mul_comm]

/-- ROUTE keeps its plan and sends its regions one after the other. -/
theorem State.routeRun_eq (s : State) (uid : Nat) (p : Part) (b : Bytes) :
    let ranks := s.routeRanks uid b
    let z := routeOf b ranks
    ∃ cnt pt, let t := (s.sendRoutes uid b ranks z cnt).vsend uid (field b 88 8) z.dropBytes
      s.routeRun uid p b = (t.vsend uid (field b 96 8) (planBytes t.dev pt b ranks z)).ranPart uid :=
  ⟨(((List.range (rT b)).map fun t => s.refLine uid (Ref.of b 32) t).map fun x => x.2).foldl Cnt.add {},
    match s.dev.getCtx p.ctx with | some c => c.pt | none => 0, rfl⟩

/-! ### ROUTE writes its regions (R182 to R189). -/

section
variable (b : Bytes)

theorem choiceRegion_mem : (field b 64 8, 16 + 33 * rT b) ∈ rRegions b := by simp [rRegions]
theorem listRegion_mem : (field b 72 8, 4 * rE b * rCap b) ∈ rRegions b := by simp [rRegions]
theorem countRegion_mem : (field b 80 8, 8 * rE b) ∈ rRegions b := by simp [rRegions]
theorem dropRegion_mem : (field b 88 8, 16 + 8 * rK b * rT b) ∈ rRegions b := by simp [rRegions]
theorem planRegion_mem : (field b 96 8, 16 + 16 * rE b) ∈ rRegions b := by simp [rRegions]

end

theorem covered_region {b : Bytes} {a n k : Nat} (hx : (a, n) ∈ rRegions b) (hk : k < n) : Covered (partOut b .whole) (a + k) :=
  Covered.filter ⟨(a, n), hx, k, hk, rfl⟩

/-- The weight format of an accepted ROUTE, and so its one scale byte a token (R182). -/
theorem descBad_route {b : Bytes} (h : descBad b = false) (hop : dOp b = 3) : fmtOk (rWfmt b) = true ∧ rWfmt b ≠ 9 ∧ lineScales (rWfmt b) 8 = 1 := by
  simp only [descBad, Bool.or_eq_false_iff, hop] at h
  obtain ⟨_, hroute⟩ := h
  simp only [routeBad, Bool.or_eq_false_iff, decide_eq_false_iff_not, not_lt] at hroute
  have hf : 3 ≤ rWfmt b ∧ rWfmt b < 8 := by omega
  exact (by decide : ∀ f < 8, 3 ≤ f → fmtOk f = true ∧ f ≠ 9 ∧ lineScales f 8 = 1) _ hf.2 hf.1

theorem length_choiceBytes (b : Bytes) (z : RouteRun) : (choiceBytes b z).length = 16 + 16 * rT b := by
  simp +arith [choiceBytes, length_leBytes, List.length_flatMap, Nat.mul_comm]

theorem RouteRun.length_weightLine (z : RouteRun) (b : Bytes) (x : TokenRank × Nat) : (z.weightLine b x).length = 8 := by
  unfold RouteRun.weightLine
  split
  · simp [RouteRun.weights]
  · rfl

theorem RouteRun.length_listBytes (z : RouteRun) (e : Nat) : (z.listBytes e).length = 4 * (z.list e).length := by
  simp [RouteRun.listBytes, listEntry, length_leBytes, List.length_flatMap, length_sortKey, Nat.mul_comm]

theorem countBytes_eq (b : Bytes) (ranks : List TokenRank) (z : RouteRun) (e : Nat) :
    countBytes b ranks z e = leBytes 4 (z.list e).length ++ leBytes 4 (demand (rK b) ranks e) := by
  rw [countBytes, length_sortKey, List.length_map]

theorem RouteRun.length_dropBytes (z : RouteRun) : z.dropBytes.length = 16 + 8 * z.dropped.length := by
  simp +arith [RouteRun.dropBytes, dropRecord, length_leBytes, List.length_flatMap, Nat.mul_comm]

section
variable {s t : State} {uid : Nat} {p : Part} {b : Bytes} {ranks : List TokenRank} {z : RouteRun}

/-- Bytes within given extents are sent. -/
theorem State.sends_bytes {outs : List (Nat × Nat)} (ht : s.Sending uid outs t) (hp : s.dev.getPart uid = some p) {va : Nat} {bs : Bytes}
    (h : ∀ k, k < bs.length → Covered outs (va + k)) :
    t.Sending uid outs (t.vsend uid va bs) ∧ Sent s (t.vsend uid va bs) uid va bs := by
  obtain ⟨q, hq, _⟩ := ht.part hp
  exact ⟨State.sending_vsend t h, (State.sent_vsend hq va bs).of_alike ht.alike⟩

/-- A token's weights stay within the choices region. -/
theorem State.sending_sendWeights (hbad : descBad b = false) (hop : dOp b = 3) {x : TokenRank × Nat} (hx : x.2 < rT b) :
    t.Sending uid (partOut b .whole) (t.sendWeights uid b z x) := by
  obtain ⟨hf, h9, hone⟩ := descBad_route hbad hop
  have hscales := length_writeLine_scales hf (Conv.of (field b 2 2)) (z.weightLine b x) t.dev.free
  rw [if_neg h9, z.length_weightLine, hone] at hscales
  unfold State.sendWeights
  refine (((State.sending_modPart t (by intro; rfl)).trans (State.sending_took _ _)).trans (State.sending_vsend _ fun k hk => ?_)).trans
    (State.sending_vsend _ fun k hk => ?_)
  · rw [sub, List.length_map, List.length_range] at hk
    simpa only [Nat.add_assoc] using covered_region (choiceRegion_mem b) (k := 16 + (16 * rT b + (16 * x.2 + k))) (by omega)
  · simpa only [Nat.add_assoc] using covered_region (choiceRegion_mem b) (k := 16 + (32 * rT b + (x.2 + k))) (by omega)

/-- An expert's list and counts are on their way. -/
def ListSent (s : State) (uid : Nat) (b : Bytes) (ranks : List TokenRank) (z : RouteRun) (e : Nat) (t : State) : Prop :=
  Sent s t uid (field b 72 8 + 4 * rCap b * e) (z.listBytes e) ∧ Sent s t uid (field b 80 8 + 8 * e) (countBytes b ranks z e)

/-- A list that keeps the capacity stays within the lists region. -/
theorem State.sends_sendList (ht : s.Sending uid (partOut b .whole) t) (hp : s.dev.getPart uid = some p) (hz : z.Within (rCap b)) {e : Nat}
    (he : e < rE b) : t.Sending uid (partOut b .whole) (t.sendList uid b ranks z e) ∧ ListSent s uid b ranks z e (t.sendList uid b ranks z e) := by
  refine State.sends_line ht hp (fun k hk => ?_) fun k hk => ?_
  · have hle := hz e
    have hmul : 4 * rCap b * (e + 1) ≤ 4 * rCap b * rE b := Nat.mul_le_mul_left _ he
    rw [z.length_listBytes] at hk
    rw [Nat.mul_succ, Nat.mul_right_comm 4 _ (rE b)] at hmul
    rw [Nat.add_assoc]
    exact covered_region (listRegion_mem b) (by omega)
  · rw [countBytes_eq, List.length_append, length_leBytes, length_leBytes] at hk
    rw [Nat.add_assoc]
    exact covered_region (countRegion_mem b) (by omega)

/-- The choices, and every expert's list and counts, are sent. -/
theorem State.sends_sendRoutes (hs : s.Sending uid (partOut b .whole) t) (hp : s.dev.getPart uid = some p) (hbad : descBad b = false) (hop : dOp b = 3)
    (hz : z.Within (rCap b)) (hranks : ranks.length = rT b) (cnt : Cnt) :
    let u := t.sendRoutes uid b ranks z cnt
    s.Sending uid (partOut b .whole) u ∧ Sent s u uid (field b 64 8) (choiceBytes b z) ∧ ∀ e < rE b, ListSent s uid b ranks z e u := by
  have h0 := hs.trans (State.sending_modPart t (f := fun q => q.routed b z cnt) (by intro; rfl))
  obtain ⟨h1, hchoices⟩ := State.sends_bytes h0 hp fun k (hk : k < (choiceBytes b z).length) =>
    covered_region (choiceRegion_mem b) (by rw [length_choiceBytes] at hk; omega)
  have h2 := State.sending_foldl (s := (t.onDev fun d => d.modPart uid fun q => q.routed b z cnt).vsend uid (field b 64 8) (choiceBytes b z))
    (l := ranks.zipIdx) (f := fun s x => s.sendWeights uid b z x) fun t x hx ht =>
      ht.trans (State.sending_sendWeights hbad hop (hranks ▸ List.snd_lt_of_mem_zipIdx hx))
  obtain ⟨h3, hlists⟩ := State.sends_foldl (l := List.range (rE b)) (f := fun s e => s.sendList uid b ranks z e) (P := ListSent s uid b ranks z)
    (fun u hu e he => State.sends_sendList (((h0.trans h1).trans h2).trans hu) hp hz (List.mem_range.1 he))
    fun e u v h k => ⟨h.1.sending k, h.2.sending k⟩
  exact ⟨((h0.trans h1).trans h2).trans h3, (hchoices.sending h2).sending h3, fun e he => hlists e (List.mem_range.2 he)⟩

theorem State.plannedOf_sendWeights (t : State) (x : TokenRank × Nat) :
    (t.sendWeights uid b z x).dev.plannedOf uid = t.dev.plannedOf uid := by
  unfold State.sendWeights
  dsimp only
  rw [State.plannedOf_vsend, State.plannedOf_vsend]
  exact Dev.plannedOf_modPart t.dev uid (by intro; rfl)

theorem State.plannedOf_sendList (t : State) (e : Nat) : (t.sendList uid b ranks z e).dev.plannedOf uid = t.dev.plannedOf uid := by
  rw [State.sendList, State.plannedOf_vsend, State.plannedOf_vsend]

theorem State.plannedOf_sendRoutes (hp : t.dev.getPart uid = some p) (cnt : Cnt) :
    (t.sendRoutes uid b ranks z cnt).dev.plannedOf uid = some (z.plan (rE b)) := by
  unfold State.sendRoutes
  refine foldl_keep (fun u : State => u.dev.plannedOf uid = some (z.plan (rE b))) _ (fun u e h => (State.plannedOf_sendList u e).trans h) _ _
    (foldl_keep (fun u : State => u.dev.plannedOf uid = some (z.plan (rE b))) _ (fun u x h => (State.plannedOf_sendWeights u x).trans h) _ _ ?_)
  rw [State.plannedOf_vsend, Dev.plannedOf, State.onDev_dev, Dev.getPart_modPart, if_pos rfl, hp, Option.map_some, Option.map_some, Part.routed_planned]

theorem State.plannedOf_ranPart (t : State) (uid : Nat) : (t.ranPart uid).dev.plannedOf uid = t.dev.plannedOf uid := by
  have hmod : (t.onDev fun d => d.modPart uid fun p => { p with ran := true }).dev.plannedOf uid = t.dev.plannedOf uid :=
    Dev.plannedOf_modPart t.dev uid (by intro; rfl)
  unfold State.ranPart
  dsimp only
  split
  · rwa [Dev.plannedOf, State.progressed_getPart]
  · exact hmod

/-- A part keeps the plan of its ROUTE for its commit (R190). -/
theorem State.plannedOf_routeRun {v : State} {q : Part} (hq : v.dev.getPart uid = some q) (p : Part) (b : Bytes) :
    (v.routeRun uid p b).dev.plannedOf uid = some ((routeOf b (v.routeRanks uid b)).plan (rE b)) := by
  obtain ⟨cnt, pt, ht⟩ := v.routeRun_eq uid p b
  rw [ht, State.plannedOf_ranPart, State.plannedOf_vsend, State.plannedOf_vsend, State.plannedOf_sendRoutes hq]

end

/-- ROUTE has computed: its regions are on their way (R183 to R189). -/
theorem computed_routeRun {s v : State} {uid : Nat} {p : Part} {b : Bytes} (hp : s.dev.getPart uid = some p) (hst : p.stage = .executing)
    (hv : s.Sending uid (partOut b .whole) v) (hbad : descBad b = false) (hop : dOp b = 3) :
    let ranks := v.routeRanks uid b
    let z := routeOf b ranks
    let t := v.routeRun uid p b
    Computed s t uid (partOut b .whole) ∧ Sent s t uid (field b 64 8) (choiceBytes b z) ∧ (∀ e < rE b, ListSent s uid b ranks z e t) ∧
      Sent s t uid (field b 88 8) z.dropBytes := by
  intro ranks z t
  have hlen : ranks.length = rT b := by simp [ranks, State.routeRanks]
  have hwithin : z.Within (rCap b) := routeAll_within (field b 105 1) (rK b) ranks
  have hdrops : z.dropped.length ≤ rK b * rT b := hlen ▸ routeAll_dropped (field b 105 1) (rK b) ranks
  obtain ⟨cnt, pt, ht⟩ := v.routeRun_eq uid p b
  replace ht : t = (((v.sendRoutes uid b ranks z cnt).vsend uid (field b 88 8) z.dropBytes).vsend uid (field b 96 8)
    (planBytes ((v.sendRoutes uid b ranks z cnt).vsend uid (field b 88 8) z.dropBytes).dev pt b ranks z)).ranPart uid := ht
  clear_value t z ranks
  rw [ht]
  obtain ⟨h1, hchoices, hlists⟩ := State.sends_sendRoutes hv hp hbad hop hwithin hlen cnt
  obtain ⟨h2, hdropped⟩ := State.sends_bytes h1 hp fun k (hk : k < z.dropBytes.length) =>
    covered_region (dropRegion_mem b) (by rw [z.length_dropBytes] at hk; rw [Nat.mul_assoc]; omega)
  have hplan := z.length_plan (rE b)
  obtain ⟨h3, _⟩ := State.sends_bytes (h1.trans h2) hp fun k (hk : k < (planBytes _ pt b ranks z).length) =>
    covered_region (planRegion_mem b) (by rw [length_planBytes] at hk; omega)
  have hrest := h3.trans (State.sending_ranPart _)
  have hsent {va : Nat} {bs : Bytes} (h : Sent s _ uid va bs) := h.sending (h2.trans hrest)
  exact ⟨((h1.trans h2).trans h3).computed hp hst, hsent hchoices, fun e he => ⟨hsent (hlists e he).1, hsent (hlists e he).2⟩,
    hdropped.sending hrest⟩

end Sys2Proof.Machine
end

section
/-!
PROOFS. Where a part forms its outputs, of rows that it reads by list (R134, R208, R209, R263): a translation that succeeds changes the data path alone,
and whatever it makes of other parts, the part stands as it stood.
-/

namespace Sys2Proof

/-! ### Entries that are left of a table. -/

theorem Map.find_filter {α : Type} (m : List (Nat × α)) (keep : Nat → Bool) (k : Nat) :
    Map.find (m.filter fun x => keep x.1) k = if keep k then Map.find m k else none := by
  induction m with
  | nil => simp
  | cons x m ih =>
    obtain ⟨j, a⟩ := x
    by_cases hjk : j = k
    · subst hjk
      cases hkeep : keep j
      · simp [hkeep, ih]
      · simp [hkeep, Map.find]
    · cases hkeep : keep j
      · simp [hkeep, ih, Map.find, hjk]
      · simp [hkeep, ih, Map.find, hjk]

end Sys2Proof

namespace Sys2Proof.Machine

/-! ### Rows that the range cache translates (R208, R209, R263). -/

/-- A data path in which parts may have been forgotten; those that are left stand as before. -/
def Dev.Forgets (d e : Dev) : Prop := ∀ u q, e.getPart u = some q → d.getPart u = some q

section
variable {d e f : Dev}

theorem Dev.Forgets.refl (d : Dev) : d.Forgets d := fun _ _ => id

theorem Dev.Forgets.trans (h : d.Forgets e) (k : e.Forgets f) : d.Forgets f := fun u q hq => h u q (k u q hq)

theorem Dev.forgets_of_parts (h : e.parts = d.parts) : d.Forgets e := fun _ _ hq => by rwa [Dev.getPart, ← h]

theorem Dev.forgets_foldl {α : Type} {g : Dev → α → Dev} (hg : ∀ (d : Dev) a, d.Forgets (g d a)) (l : List α) (d : Dev) : d.Forgets (l.foldl g d) :=
  foldl_keep (fun e => d.Forgets e) g (fun e a h => h.trans (hg e a)) l d (.refl d)

theorem Dev.forgets_ite {c : Prop} [Decidable c] (he : d.Forgets e) (hf : d.Forgets f) : d.Forgets (if c then e else f) := by
  split
  · exact he
  · exact hf

theorem Dev.forgets_dropParts (d : Dev) (x : Cmd) : d.Forgets (d.dropParts x) := fun u q hq => by
  have hfind : (if !has x.parts u then d.getPart u else none) = some q := (Map.find_filter d.parts (fun u => !has x.parts u) u).symm.trans hq
  split at hfind
  · exact hfind
  · cases hfind

theorem Dev.forgets_signalAll (d : Dev) (n : Nat) (l : List (Nat × Nat)) : d.Forgets (d.signalAll n l) := by
  refine Dev.forgets_foldl (α := Nat × Nat) (fun d g => Dev.forgets_of_parts ?_) l d
  unfold Dev.signal
  split
  · split
    · rfl
    · split
      · rfl
      · rfl
  · rfl

theorem Dev.forgets_record (d : Dev) (n : Nat) (bs : Bytes) : d.Forgets (d.record n bs) := by
  refine Dev.forgets_of_parts ?_
  unfold Dev.record
  split
  · rfl
  · rfl

/-- A command that ends forgets its own parts. -/
theorem Dev.forgets_endCmd (d : Dev) (n seq : Nat) (fin : CmdState) (detail : Bytes) : d.Forgets (d.endCmd n seq fin detail) := by
  unfold Dev.endCmd
  split
  · exact .refl d
  rename_i x _
  refine Dev.Forgets.trans ?_ ((Dev.forgets_dropParts _ x).trans (Dev.forgets_of_parts (Dev.freeDue_parts _ n)))
  refine Dev.Forgets.trans ?_ (Dev.forgets_of_parts rfl : Dev.Forgets _ (Dev.countCtx _ n _ 1))
  have hsignal := Dev.forgets_ite (c := fin = .completed ∨ x.flag 2 = true)
    (Dev.forgets_signalAll (d.modCmd n seq fun y => y.endAs fin) n x.signals) (.refl _)
  have hrecord := fun bs => hsignal.trans (Dev.forgets_ite (c := x.again = true ∨ fin = .completed ∧ x.flag 3 = true) (.refl _) (Dev.forgets_record _ n bs))
  cases fin with
  | failed st => exact (hrecord _).trans (Dev.forgets_ite (.refl _) (Dev.forgets_foldl (fun d _ => Dev.forgets_record d n _) _ _))
  | _ => exact hrecord _

theorem Dev.forgets_acted (d : Dev) (pt num op : Nat) : d.Forgets (d.acted pt num op) := by
  unfold Dev.acted
  refine Dev.forgets_foldl (fun d w => ?_) _ d
  dsimp only
  split
  · exact Dev.forgets_ite (Dev.forgets_endCmd _ _ _ _ _) (.refl _)
  · exact .refl _

/-- A promotion may end a SINK or STEEP, and forgets its parts (R209, R210). -/
theorem Dev.forgets_promote (d : Dev) (pt num : Nat) (kind : RiseKind) (ctx : Nat) : d.Forgets (d.promote pt num kind ctx) := by
  unfold Dev.promote
  split
  · exact .refl d
  dsimp only
  split
  · exact .refl _
  · exact .refl _
  · exact .refl d
  · split
    · exact .refl _
    · refine Dev.Forgets.trans (Dev.forgets_of_parts ?_) ((Dev.forgets_acted _ pt num 0x11).trans (Dev.forgets_acted _ pt num 0x10))
      dsimp only [Dev.modObj, Dev.modPt]
      split
      · rfl
      · rfl

end

/-- A part that reaches memory is there as before. -/
theorem Dev.reach_part {d : Dev} {r : RangeEntry} {uid access va pa : Nat} (h : (d.reach r uid access va).2 = .phys pa) :
    ∃ p, (d.reach r uid access va).1.getPart uid = some p ∧ d.getPart uid = some p := by
  have hthere {e : Dev} (he : e.runPlace r uid access va = .phys pa) : ∃ p, e.getPart uid = some p := by
    unfold Dev.runPlace at he
    split at he
    · cases he
    · exact ⟨_, ‹_›⟩
  unfold Dev.reach at h ⊢
  split at h
  · obtain ⟨q, hq⟩ := hthere h
    exact ⟨q, hq, Dev.forgets_promote _ _ _ _ _ _ _ hq⟩
  · obtain ⟨q, hq⟩ := hthere h
    exact ⟨q, hq, hq⟩

/-- Where every access is translated, only the data path differs, and the part stands where it stood. -/
theorem State.xlate_done {s : State} {e uid : Nat} {x : Xlat} {l : List (Nat × Nat)} {p : Part} (hp : s.dev.getPart uid = some p)
    (h : (s.xlate e uid x l).2.2 = true) :
    OnlyDev s (s.xlate e uid x l).1 ∧ ∃ q, (s.xlate e uid x l).1.dev.getPart uid = some q ∧ q.task = p.task := by
  induction l generalizing s x p with
  | nil => exact ⟨⟨rfl, rfl, rfl, rfl, rfl⟩, p, hp, rfl⟩
  | cons y l ih =>
    obtain ⟨access, va⟩ := y
    unfold State.xlate at h ⊢
    simp only [hp] at h ⊢
    split at h
    · cases h
    rename_i r _
    generalize htouch : (if has x.got (va / granule) = true then s else s.onDev fun d => d.modEng e fun y => y.rcTouch p.ctx r) = u at h ⊢
    have hsame : OnlyDev s u ∧ u.dev.getPart uid = some p := by
      rw [← htouch]
      split
      · exact ⟨⟨rfl, rfl, rfl, rfl, rfl⟩, hp⟩
      · exact ⟨onlyDev_onDev s _, hp⟩
    obtain ⟨honly, hu⟩ := hsame
    split at h
    · rename_i pa hpa
      obtain ⟨q, hq, hq'⟩ := Dev.reach_part hpa
      obtain rfl : q = p := Option.some.inj (hq'.symm.trans hu)
      split at h
      · rename_i hobject
        obtain ⟨q1, hq1, htask1⟩ := (Dev.sameWork_usePin _ uid (r.target % 2 ^ 22)).getPart hq
        obtain ⟨honly2, q2, hq2, htask2⟩ := ih hq1 h
        rw [if_pos hobject]
        exact ⟨honly.trans (((onlyDev_onDev u _).trans (onlyDev_onDev _ _)).trans honly2), q2, hq2, htask2.trans htask1⟩
      · rename_i hobject
        obtain ⟨honly2, hpart2⟩ := ih (s := u.onDev fun _ => (u.dev.reach r uid access va).1) hq h
        rw [if_neg hobject]
        exact ⟨honly.trans ((onlyDev_onDev u _).trans honly2), hpart2⟩
    all_goals cases h

/-! ### A part forms its outputs (R134, R172, R174, R263). -/

section
variable {s : State} {uid op : Nat} {p : Part} (hr : Runs s uid p op)
include hr

/-- A part that executes, and reaches what it reads and writes, forms its outputs. -/
theorem State.runPart_of_runs {mine : Part → Bytes → Bool} {io : State → Nat → Part → Bytes → PartIo} (hm : mine p (s.dev.descOf uid) = true)
    (hreach : Reached s uid p (io s uid p (s.dev.descOf uid))) (f : Part → Bytes → State → State) :
    s.runPart uid mine io f = f p (s.dev.descOf uid) (s.forming uid p (io s uid p (s.dev.descOf uid))) := by
  obtain ⟨hpart, hstage, hran, _, hon, hturn, hheld, _, _, hpoison⟩ := hr
  obtain ⟨hstop, hrows⟩ := hreach
  have hgo : p.stage = .executing ∧ (!p.ran) = true ∧ mine p (s.dev.descOf uid) = true ∧ s.dev.engineOn p.eng = true ∧
      (p.kind = .kernel ∨ s.dev.seqTurn (eIdx p.eng) = true) ∧ (!p.xl.held) = true := by
    simp [hstage, hran, hon, hturn, hheld, hm]
  have hclean (t : State) (ht : t.mem.poison = []) (xs : List (Nat × Nat)) : t.poisonReads uid (t.poisoned uid xs) = (t, true) := by
    unfold State.poisoned
    rw [ht]
    rfl
  obtain ⟨⟨_, _, hmem, _, _⟩, _⟩ := State.xlate_done hpart hrows
  unfold State.runPart State.forming
  rw [hpart]
  dsimp only
  rw [if_pos hgo, hstop]
  simp only [hrows, Bool.not_true, Bool.false_eq_true, if_false]
  rw [hclean _ (by rw [State.onDev_mem, hmem, hpoison])]
  rfl

/-- Where a part forms its outputs memory is as it was, without poison, and the part still executes. -/
theorem State.forming_of_reached {io : PartIo} (hreach : Reached s uid p io) :
    let v := s.forming uid p io
    v.mem.bytes = s.mem.bytes ∧ v.mem.poison = [] ∧ ∃ q, v.dev.getPart uid = some q ∧ q.stage = .executing := by
  obtain ⟨hpart, hstage, _, _, _, _, _, _, _, hpoison⟩ := hr
  obtain ⟨_, hrows⟩ := hreach
  obtain ⟨⟨_, _, hmem, _, _⟩, q, hq, htask⟩ := State.xlate_done hpart hrows
  obtain ⟨_, _, _, hqs, _⟩ := Part.task_eq_iff.1 htask
  generalize hg : s.xlate (eIdx p.eng) uid p.xl (rowPages io.rows) = g at hmem hq
  have hxl : g.1.Sending uid [] (g.1.onDev fun d => d.modPart uid fun q => { q with xl := g.2.1 }) := State.sending_modPart g.1 (by intro; rfl)
  have hsend : g.1.Sending uid [] (s.forming uid p io) := by
    unfold State.forming
    rw [hg]
    refine State.Sending.trans ?_ ((State.sending_keepLines _ _).trans (State.sending_onDev (Dev.alike_noteReleases _ _ _)))
    split
    · exact hxl
    · exact hxl.trans (State.sending_onDev (Dev.alike_modEng uid _ _ _))
  obtain ⟨q', hq', hcore⟩ := hsend.part hq
  refine ⟨hsend.bytes.trans (congrArg Memory.bytes hmem), hsend.poison.trans ((congrArg Memory.poison hmem).trans hpoison), q', hq', ?_⟩
  simp only [Part.core, Prod.mk.injEq] at hcore
  obtain ⟨_, _, _, hstage'⟩ := hcore
  exact hstage'.trans (hqs.trans hstage)

end

end Sys2Proof.Machine
end

section
/-!
PROOFS. DISPATCH (R185, R194): the rows that its lists name are on their way to their slices, or it fails with LIST_MISMATCH; O29.
-/

namespace Sys2Proof.Machine

/-! ### DISPATCH (R185, R194). -/

theorem Covered.flatMap {α : Type} {f : α → List (Nat × Nat)} {l : List α} {x : α} {a : Nat} (hx : x ∈ l) (h : Covered (f x) a) :
    Covered (l.flatMap f) a := by
  obtain ⟨y, hy, hk⟩ := h
  exact ⟨y, List.mem_flatMap.2 ⟨x, hx, hy⟩, hk⟩

/-- An accepted DISPATCH copies rows of one format and length, into slices of the capacity (R145, R194). -/
theorem descBad_dispatch {b : Bytes} (h : descBad b = false) (hop : dOp b = 4) :
    (Ref.of b 32).n0 = (Ref.of b 64).n0 ∧ (Ref.of b 32).fmt = (Ref.of b 64).fmt ∧ dCap b = (Ref.of b 64).n1 := by
  simp only [descBad, Bool.or_eq_false_iff, hop] at h
  obtain ⟨_, hrouted⟩ := h
  simp only [routedBad, Bool.or_eq_false_iff, decide_eq_false_iff_not, not_not, Bool.false_eq_true, if_false] at hrouted
  obtain ⟨⟨⟨⟨⟨⟨⟨⟨hn0, _⟩, _⟩, _⟩, _⟩, _⟩, _⟩, _⟩, ⟨_, hfmt⟩, _⟩ := hrouted
  exact ⟨hn0, hfmt, if_pos hop⟩

/-- The rows that a DISPATCH copies: the row of dst and what of src it takes (R194). -/
def State.gathered (s : State) (uid : Nat) (b : Bytes) (ps : List Nat) : List (Nat × Bytes × Bytes) :=
  ps.flatMap fun k => (s.listOf uid b k (min (s.countOf uid b k) (dCap b))).zipIdx.map fun e =>
    (k * (Ref.of b 64).n1 + e.2, s.movedLine uid (Ref.of b 32) e.1.1)

/-- Copies a row into its slice. -/
def State.sendGathered (s : State) (uid : Nat) (b : Bytes) (x : Nat × Bytes × Bytes) : State :=
  (s.vsend uid ((Ref.of b 64).lineVa x.1) x.2.1).vsend uid ((Ref.of b 64).scaleAt x.1) x.2.2

/-- A row is on its way to its slice. -/
def RowGathered (s : State) (uid : Nat) (b : Bytes) (x : Nat × Bytes × Bytes) (t : State) : Prop :=
  Sent s t uid ((Ref.of b 64).lineVa x.1) x.2.1 ∧ Sent s t uid ((Ref.of b 64).scaleAt x.1) x.2.2

/-- Whether a list of a DISPATCH does not fit: a count above the capacity, or a token that src has not (R194). -/
def State.listsBad (s : State) (uid : Nat) (b : Bytes) (ps : List Nat) : Bool :=
  ps.any fun k => dCap b < s.countOf uid b k || (s.listOf uid b k (min (s.countOf uid b k) (dCap b))).any fun e => (Ref.of b 32).n1 ≤ e.1

theorem State.countOf_le {s : State} {uid : Nat} {b : Bytes} {ps : List Nat} (h : s.listsBad uid b ps = false) {k : Nat} (hk : k ∈ ps) :
    s.countOf uid b k ≤ dCap b := by
  have hfit := List.any_eq_false.1 h k hk
  rw [Bool.not_eq_true, Bool.or_eq_false_iff, decide_eq_false_iff_not, not_lt] at hfit
  exact hfit.1

/-- DISPATCH fails, or sends the rows of its lists one after the other. -/
theorem State.dispatchRun_eq {s : State} (hclean : s.mem.poison = []) {p : Part} {ps : List Nat} (hk : p.kind = .experts ps) (uid : Nat) (b : Bytes) :
    s.dispatchRun uid p b = if s.listsBad uid b ps then s.failPart uid stMismatch else
      ((s.gathered uid b ps).foldl (fun s x => s.sendGathered uid b x) (s.took 0)).ranPart uid := by
  unfold State.dispatchRun State.gathered State.listsBad
  simp only [hk, hclean, List.any_map, List.flatMap_map]
  rfl

theorem Ref.covered_scaleAt (r : Ref) {lo hi l k : Nat} (hl : lo ≤ l) (hh : l < hi) (hk : k < if r.fmt = 9 then 1 else lineScales r.fmt r.n0) :
    Covered (r.extents lo hi) (r.scaleAt l + k) := by
  unfold Ref.scaleAt
  by_cases h9 : r.fmt = 9
  · rw [if_pos h9] at hk ⊢
    obtain rfl : k = 0 := by omega
    exact r.covered_tensorScale h9 (hl.trans_lt hh)
  · rw [if_neg h9] at hk ⊢
    exact r.covered_scale h9 hl hh hk

theorem State.length_movedLine {s : State} (h : s.mem.poison = []) (uid : Nat) (r : Ref) (l : Nat) :
    (s.movedLine uid r l).1.length = lineBytes r.fmt r.n0 ∧ (s.movedLine uid r l).2.length = if r.fmt = 9 then 1 else lineScales r.fmt r.n0 := by
  rw [State.movedLine_clean h]
  refine ⟨by simp, ?_⟩
  dsimp only
  split
  · rfl
  · simp

theorem State.length_listOf (s : State) (uid : Nat) (b : Bytes) (k n : Nat) : (s.listOf uid b k n).length = n := by
  simp [State.listOf]

/-- An entry of a list leads to its row of the expert's slice (R194). -/
theorem State.mem_gathered {s : State} {uid : Nat} {b : Bytes} {ps : List Nat} {x : Nat × Bytes × Bytes} : x ∈ s.gathered uid b ps ↔
    ∃ k ∈ ps, ∃ i e, (s.listOf uid b k (min (s.countOf uid b k) (dCap b)))[i]? = some e ∧
      x = (k * (Ref.of b 64).n1 + i, s.movedLine uid (Ref.of b 32) e.1) := by
  simp only [State.gathered, List.mem_flatMap, List.mem_map, Prod.exists, List.mem_zipIdx_iff_getElem?]
  constructor
  · rintro ⟨k, hk, t, slot, i, he, rfl⟩
    exact ⟨k, hk, i, t, slot, he, rfl⟩
  · rintro ⟨k, hk, i, t, slot, he, rfl⟩
    exact ⟨k, hk, t, slot, i, he, rfl⟩

section
variable {v : State} {uid : Nat} {q : Part} {b : Bytes} {ps : List Nat} (hq : v.dev.getPart uid = some q) (hclean : v.mem.poison = [])
  (hbad : descBad b = false) (hop : dOp b = 4)
include hq hclean hbad hop

/-- Every row that a DISPATCH copies stays within its expert's slice of dst. -/
theorem State.sends_gathered {t : State} (ht : v.Sending uid (partOut b (.experts ps)) t) {x : Nat × Bytes × Bytes} (hx : x ∈ v.gathered uid b ps) :
    t.Sending uid (partOut b (.experts ps)) (t.sendGathered uid b x) ∧ RowGathered v uid b x (t.sendGathered uid b x) := by
  obtain ⟨hn, hf, hcap⟩ := descBad_dispatch hbad hop
  obtain ⟨k, hk, i, e, he, rfl⟩ := State.mem_gathered.1 hx
  obtain ⟨hel, hsc⟩ := State.length_movedLine hclean uid (Ref.of b 32) e.1
  rw [hn, hf] at hel hsc
  obtain ⟨hi, _⟩ := List.getElem?_eq_some_iff.1 he
  rw [State.length_listOf, hcap] at hi
  have hlo : k * (Ref.of b 64).n1 ≤ k * (Ref.of b 64).n1 + i := Nat.le_add_right _ _
  have hhi : k * (Ref.of b 64).n1 + i < (k + 1) * (Ref.of b 64).n1 := by
    rw [Nat.succ_mul]
    omega
  exact State.sends_line ht hq (fun j hj => Covered.flatMap hk (Ref.covered_line _ hlo hhi (hel ▸ hj)))
    fun j hj => Covered.flatMap hk (Ref.covered_scaleAt _ hlo hhi (hsc ▸ hj))

/-- DISPATCH has computed: the rows of its lists are on their way (R194). -/
theorem computed_dispatchRun {p : Part} (hst : q.stage = .executing) (hk : p.kind = .experts ps) (hfit : v.listsBad uid b ps = false) :
    let t := v.dispatchRun uid p b
    Computed v t uid (partOut b p.kind) ∧ ∀ x ∈ v.gathered uid b ps, RowGathered v uid b x t := by
  rw [State.dispatchRun_eq hclean hk, hfit, if_neg Bool.false_ne_true, hk]
  have htook := State.sending_took (uid := uid) (outs := partOut b (.experts ps)) v 0
  obtain ⟨hsend, hall⟩ := State.sends_foldl (l := v.gathered uid b ps) (P := RowGathered v uid b)
    (fun t ht x hx => State.sends_gathered hq hclean hbad hop (htook.trans ht) hx) fun x t u h k => ⟨h.1.sending k, h.2.sending k⟩
  have hran := State.sending_ranPart (uid := uid) (outs := partOut b (.experts ps))
    ((v.gathered uid b ps).foldl (fun s x => s.sendGathered uid b x) (v.took 0))
  exact ⟨(htook.trans hsend).computed hq hst, fun x hx => ⟨(hall x hx).1.sending hran, (hall x hx).2.sending hran⟩⟩

end

/-! ### The commands. -/

/-- Settles O29: each command by its rule above, from the state in which the part forms its outputs. -/
theorem routeAndDispatch : Obligations.RouteAndDispatch := by
  unfold Obligations.RouteAndDispatch
  intro s uid op p hr b r d
  obtain ⟨hp, hst, _, _, _, _, _, hop, hbad, _⟩ := id hr
  refine ⟨fun h3 hk hstop => ?route, fun ps h4 hk => ?dispatch⟩
  case route =>
    intro ranks z
    have hreach : Reached s uid p (planeIo s uid p b) := ⟨by simpa only [planeIo, hk] using hstop, rfl⟩
    have he : exec (.route uid) s = .next ((s.forming uid p (planeIo s uid p b)).routeRun uid p b) :=
      congrArg Host.Outcome.next (State.runPart_of_runs hr (decide_eq_true (hop.trans h3)) hreach _)
    have hv : s.Sending uid (partOut b .whole) (s.forming uid p (planeIo s uid p b)) := State.sending_forming s p b
    obtain ⟨hc, hchoices, hlists, hdropped⟩ := computed_routeRun hp hst hv hbad (hop.trans h3)
    obtain ⟨q', hq', _⟩ := hv.part hp
    have hplan := State.plannedOf_routeRun hq' p b
    obtain ⟨_, _, hpow, hmgmt, hbytes, _, ⟨q, hq, hran, _⟩, _⟩ := hc
    have hranks : (s.forming uid p (planeIo s uid p b)).routeRanks uid b = ranks := List.map_map
    rw [hranks] at hchoices hlists hdropped hplan
    rw [Dev.plannedOf, hq, Option.map_some, Option.some.injEq] at hplan
    refine ⟨_, q, he, hq, hran, hplan, hbytes, hpow, hmgmt, routeAll_within _ _ _, fun e he => ?_, hchoices, hdropped⟩
    obtain ⟨hlist, hcount⟩ := hlists e he
    rw [countBytes_eq] at hcount
    exact ⟨hcount, hlist⟩
  case dispatch =>
    intro io v n bad hreach
    have he : exec (.dispatch uid) s = .next (v.dispatchRun uid p b) :=
      congrArg Host.Outcome.next (State.runPart_of_runs hr (decide_eq_true (hop.trans h4)) hreach _)
    obtain ⟨hbytes, hclean, q, hq, hqs⟩ := State.forming_of_reached hr hreach
    refine ⟨fun hfit => ?_, fun hmis => ?_⟩
    · obtain ⟨hc, hrows⟩ := computed_dispatchRun hq hclean hbad (hop.trans h4) hqs hk hfit
      obtain ⟨_, _, _, _, hsame, _⟩ := id hc
      refine ⟨_, he, hsame.trans hbytes, hc, fun k hkp i e hi => ?_⟩
      have hrow := hrows _ (State.mem_gathered.2 ⟨k, hkp, i, e, by rwa [Nat.min_eq_left (State.countOf_le hfit hkp)], rfl⟩)
      rwa [State.movedLine_clean hclean] at hrow
    · obtain ⟨r, hr, hstage, hsame⟩ := State.failPart_of_live (status := stMismatch) hq (by simp [Part.live, hqs])
      rw [State.dispatchRun_eq hclean hk, if_pos (show v.listsBad uid b ps = true from hmis)] at he
      exact ⟨_, r, he, hr, hstage, hsame.trans hbytes⟩

end Sys2Proof.Machine
end

section
/-!
PROOFS. Commands that wait for objects (R214, R220, R223): each visit of one takes the object from what it waits for, and ends it where that was the
last; what it does to the rest of the device.
-/

namespace Sys2Proof.Machine

/-- A step of a fold that turns P into Q, which every step keeps, where no other step breaks P before it. -/
theorem foldl_reaches {α β : Type} {P Q : β → Prop} {f : β → α → β} {a : α} (hP : ∀ b x, x ≠ a → P b → P (f b x)) (hPQ : ∀ b, P b → Q (f b a))
    (hQ : ∀ b x, Q b → Q (f b x)) {l : List α} (ha : a ∈ l) {b : β} (hb : P b) : Q (l.foldl f b) := by
  obtain ⟨l₁, l₂, rfl, hnot⟩ := List.eq_append_cons_of_mem ha
  rw [List.foldl_append, List.foldl_cons]
  refine foldl_keep Q f hQ l₂ _ (hPQ _ ?_)
  exact List.foldlRecOn (motive := P) l₁ f hb fun b hb x hx => hP b x (fun h => hnot (h ▸ hx)) hb

/-! ### Changes of contexts and of what is told. -/

/-- Only contexts, what is told to hosts, gates, and parts may differ. -/
def Dev.OnlyCmds (d e : Dev) : Prop :=
  e = { d with ctxs := e.ctxs, atts := e.atts, gates := e.gates, qps := e.qps, ghosts := e.ghosts, parts := e.parts }

section
variable {d e f : Dev}

theorem Dev.OnlyCmds.refl (d : Dev) : d.OnlyCmds d := rfl

theorem Dev.OnlyCmds.trans (h : d.OnlyCmds e) (k : e.OnlyCmds f) : d.OnlyCmds f := by
  unfold Dev.OnlyCmds at *
  rw [k, h]

theorem Dev.OnlyCmds.foldl {α : Type} {g : Dev → α → Dev} (hg : ∀ (d : Dev) a, d.OnlyCmds (g d a)) (l : List α) (d : Dev) : d.OnlyCmds (l.foldl g d) :=
  foldl_keep (fun e => d.OnlyCmds e) g (fun e a h => h.trans (hg e a)) l d (.refl d)

theorem Dev.OnlyCmds.getObj (h : d.OnlyCmds e) (pt num : Nat) : e.getObj pt num = d.getObj pt num := by
  rw [h]
  rfl

theorem Dev.OnlyCmds.cl (h : d.OnlyCmds e) : e.cl = d.cl := by rw [h]

end

/-! ### One visit of a command. -/

/-- How a command ends that waits for objects: as failed where one of them ended badly. -/
def Cmd.verdict (x : Cmd) : CmdState := match x.late with | some st => .failed st | none => .completed

/-- A command that waits for an object no longer. -/
def Cmd.strip (num : Nat) (x : Cmd) : Cmd := { x with waits := x.waits.filter fun y => y.1 ≠ num }

/-- A command is visited for an object: it ends where it then meets a condition. -/
def Cmd.visited (C : Cmd → Bool) (num : Nat) (x : Cmd) : Cmd := if C (x.strip num) then (x.strip num).endAs x.verdict else x.strip num

/-- A context's command of a number is visited. -/
def Dev.visit (C : Cmd → Bool) (num : Nat) (d : Dev) (w : Nat × Nat) : Dev :=
  match (d.modCmd w.1 w.2 (Cmd.strip num)).getCmd w.1 w.2 with
  | some x => if C x then (d.modCmd w.1 w.2 (Cmd.strip num)).endCmd w.1 w.2 x.verdict [] else d.modCmd w.1 w.2 (Cmd.strip num)
  | none => d.modCmd w.1 w.2 (Cmd.strip num)

section
variable (C : Cmd → Bool) (num : Nat)

theorem Dev.onlyCmds_visit (d : Dev) (w : Nat × Nat) : d.OnlyCmds (d.visit C num w) := by
  unfold Dev.visit
  split
  · rename_i x hx
    split
    · exact (Dev.endCmd_told hx _ []).rest
    · rfl
  · rfl

theorem Dev.getCmd_visit (d : Dev) (w : Nat × Nat) (n q : Nat) :
    (d.visit C num w).getCmd n q = if w = (n, q) then (d.getCmd n q).map (Cmd.visited C num) else d.getCmd n q := by
  obtain ⟨m, seq⟩ := w
  have hstrip := Dev.getCmd_modCmd (f := Cmd.strip num) (fun _ => rfl) d m
  have hself := hstrip m seq seq
  rw [if_pos ⟨rfl, rfl⟩] at hself
  unfold Dev.visit
  dsimp only
  rw [hself]
  cases hx : d.getCmd m seq with
  | none =>
    refine (hstrip n seq q).trans ?_
    by_cases hw : m = n ∧ seq = q
    · obtain ⟨rfl, rfl⟩ := hw
      simp [hx]
    · simp [hw]
  | some x =>
    rw [hx] at hself
    dsimp only [Option.map_some]
    by_cases hw : m = n ∧ seq = q
    · obtain ⟨rfl, rfl⟩ := hw
      rw [if_pos rfl, hx, Option.map_some, Cmd.visited]
      split
      · exact Dev.endCmd_getCmd hself _ []
      · exact hself
    · have hne : ¬ (m, seq) = (n, q) := by simpa using hw
      rw [if_neg hne]
      split
      · rw [(Dev.endCmd_told hself _ []).getCmd]
        rw [Dev.getCmd_modCmd (f := fun y => y.endAs (x.strip num).verdict) (fun _ => rfl), if_neg hw, hstrip, if_neg hw]
      · rw [hstrip, if_neg hw]

end

/-! ### Commands that have ended so. -/

/-- A command of a context waits for nothing, has ended, and would end so again. -/
def Dev.Ended (d : Dev) (n q : Nat) (fin : CmdState) : Prop := ∃ v, d.getCmd n q = some v ∧ v.waits = [] ∧ v.state = fin ∧ v.verdict = fin

section
variable {d e : Dev} {n q : Nat} {fin : CmdState} {C : Cmd → Bool} {num : Nat}

theorem Dev.Ended.of_getCmd (h : d.Ended n q fin) (he : e.getCmd n q = d.getCmd n q) : e.Ended n q fin := by
  unfold Dev.Ended
  rwa [he]

/-- Further visits leave it as it ended. -/
theorem Dev.Ended.visit (h : d.Ended n q fin) (w : Nat × Nat) : (d.visit C num w).Ended n q fin := by
  obtain ⟨v, hv, hwaits, hstate, hverdict⟩ := h
  unfold Dev.Ended
  rw [Dev.getCmd_visit, hv]
  split
  · have hnone : (v.strip num).waits = [] := by simp [Cmd.strip, hwaits]
    refine ⟨v.visited C num, rfl, ?_⟩
    unfold Cmd.visited
    split
    · exact ⟨hnone, hverdict, hverdict⟩
    · exact ⟨hnone, hstate, hverdict⟩
  · exact ⟨v, rfl, hwaits, hstate, hverdict⟩

/-- A command that waits for one object ends at its visit, whatever other commands are visited. -/
theorem Dev.ended_of_visits {y : Cmd} {r : Nat} (hy : d.getCmd n q = some y) (hwaits : y.waits = [(num, r)]) (hC : C (y.strip num) = true)
    {l : List (Nat × Nat)} (hl : (n, q) ∈ l) : (l.foldl (fun d w => d.visit C num w) d).Ended n q y.verdict := by
  refine foldl_reaches (P := fun d : Dev => d.getCmd n q = some y) (Q := fun d => d.Ended n q y.verdict) (fun d w hw h => ?_) (fun d h => ?_)
    (fun d w h => h.visit w) hl hy
  · rw [Dev.getCmd_visit, if_neg hw, h]
  · refine ⟨y.visited C num, by rw [Dev.getCmd_visit, if_pos rfl, h, Option.map_some], ?_⟩
    rw [Cmd.visited, if_pos hC]
    exact ⟨by simp [Cmd.strip, Cmd.endAs, hwaits], rfl, rfl⟩

end

/-! ### Objects that are acted on (R214, R223). -/

/-- The running commands of an opcode that wait for an object. -/
def Dev.waitersOf (d : Dev) (pt num op : Nat) : List (Nat × Nat) :=
  (d.ctxs.filter fun c => c.2.pt = pt).flatMap fun c =>
    (c.2.cmds.filter fun x => x.op = op && x.state = .running && x.waits.any fun w => w.1 = num).map fun x => (c.1, x.seq)

theorem Dev.acted_eq (d : Dev) (pt num op : Nat) :
    d.acted pt num op = (d.waitersOf pt num op).foldl (fun d w => d.visit (fun x => x.waits.isEmpty) num w) d := rfl

theorem Dev.onlyCmds_acted (d : Dev) (pt num op : Nat) : d.OnlyCmds (d.acted pt num op) := by
  rw [Dev.acted_eq]
  exact Dev.OnlyCmds.foldl (Dev.onlyCmds_visit _ num) _ d

theorem Dev.Ended.acted {d : Dev} {n q : Nat} {fin : CmdState} (h : d.Ended n q fin) (pt num op : Nat) : (d.acted pt num op).Ended n q fin := by
  rw [Dev.acted_eq]
  exact foldl_keep (fun e : Dev => e.Ended n q fin) _ (fun _ w k => k.visit w) _ d h

theorem Ctx.mem_of_getCmd {c : Ctx} {q : Nat} {x : Cmd} (h : c.getCmd q = some x) : x ∈ c.cmds :=
  List.mem_reverse.1 (List.mem_of_find?_eq_some h)

/-- A running command of an opcode waits for one object of its partition, and for nothing else. -/
structure Dev.WaitsFor (d : Dev) (pt num op n : Nat) (y : Cmd) : Prop where
  ctx : (d.getCtx n).map Ctx.pt = some pt
  cmd : d.getCmd n y.seq = some y
  op : y.op = op
  running : y.state = .running
  waits : ∃ r, y.waits = [(num, r)]

section
variable {d : Dev} {pt num op n : Nat} {y : Cmd} (h : d.WaitsFor pt num op n y)
include h

/-- It stands in the table of contexts. -/
theorem Dev.WaitsFor.mem : ∃ c, (n, c) ∈ d.ctxs ∧ c.pt = pt ∧ y ∈ c.cmds := by
  obtain ⟨hpt, hcmd, _, _, _⟩ := h
  obtain ⟨c, hc, hcp⟩ := Option.map_eq_some_iff.1 hpt
  rw [Dev.getCmd_of_getCtx hc] at hcmd
  exact ⟨c, Map.mem_of_find hc, hcp, Ctx.mem_of_getCmd hcmd⟩

theorem Dev.WaitsFor.mem_waitersOf : (n, y.seq) ∈ d.waitersOf pt num op := by
  obtain ⟨c, hc, hpt, hy⟩ := h.mem
  obtain ⟨_, _, hop, hrun, r, hwaits⟩ := h
  refine List.mem_flatMap.2 ⟨(n, c), List.mem_filter.2 ⟨hc, decide_eq_true hpt⟩, List.mem_map.2 ⟨y, List.mem_filter.2 ⟨hy, ?_⟩, rfl⟩⟩
  simp [hop, hrun, hwaits]

theorem Dev.WaitsFor.acted : (d.acted pt num op).Ended n y.seq y.verdict := by
  obtain ⟨r, hwaits⟩ := h.waits
  rw [Dev.acted_eq]
  exact Dev.ended_of_visits h.cmd hwaits (by simp [Cmd.strip, hwaits]) h.mem_waitersOf

end

/-! ### Objects that are given up (R214, R223). -/

/-- A command that waits for an object that ended badly. -/
def Cmd.setLate (num op st : Nat) (x : Cmd) : Cmd :=
  if x.op = op ∧ x.state = .running ∧ x.waits.any (fun w => w.1 = num) then { x with late := some st } else x

/-- The commands of a partition that wait for an object are to end with a status. -/
def Dev.setLate (d : Dev) (pt num op st : Nat) : Dev :=
  { d with ctxs := d.ctxs.map fun c => (c.1, if c.2.pt = pt then c.2.setLate num op st else c.2) }

theorem Dev.giveUp_eq (d : Dev) (pt num op st : Nat) : d.giveUp pt num op st = (d.setLate pt num op st).acted pt num op := by
  unfold Dev.giveUp Dev.setLate
  congr 2
  refine List.map_congr_left fun c _ => ?_
  split <;> rfl

theorem Dev.onlyCmds_giveUp (d : Dev) (pt num op st : Nat) : d.OnlyCmds (d.giveUp pt num op st) := by
  rw [Dev.giveUp_eq]
  exact Dev.OnlyCmds.trans (e := d.setLate pt num op st) rfl (Dev.onlyCmds_acted _ pt num op)

@[simp] theorem Cmd.setLate_seq (num op st : Nat) (x : Cmd) : (x.setLate num op st).seq = x.seq := by
  unfold Cmd.setLate
  split <;> rfl

theorem Ctx.getCmd_setLate (c : Ctx) (num op st q : Nat) : (c.setLate num op st).getCmd q = (c.getCmd q).map (Cmd.setLate num op st) := by
  show (c.cmds.map (Cmd.setLate num op st)).reverse.find? _ = _
  rw [← List.map_reverse, List.find?_map]
  exact congrArg (Option.map _) (congrArg (fun p => c.cmds.reverse.find? p) (funext fun x => by simp))

theorem Dev.getCtx_setLate (d : Dev) (pt num op st n : Nat) :
    (d.setLate pt num op st).getCtx n = (d.getCtx n).map fun c => if c.pt = pt then c.setLate num op st else c :=
  Map.find_map (fun _ (c : Ctx) => if c.pt = pt then c.setLate num op st else c) d.ctxs n

/-- A command that waits for an object that is given up ends with the status. -/
theorem Dev.WaitsFor.giveUp {d : Dev} {pt num op n : Nat} {y : Cmd} (h : d.WaitsFor pt num op n y) (st : Nat) :
    (d.giveUp pt num op st).Ended n y.seq (.failed st) := by
  obtain ⟨hpt, hcmd, hop, hrun, r, hwaits⟩ := h
  obtain ⟨c, hc, hcp⟩ := Option.map_eq_some_iff.1 hpt
  have hctx : (d.setLate pt num op st).getCtx n = some (c.setLate num op st) := by rw [Dev.getCtx_setLate, hc, Option.map_some, if_pos hcp]
  have hlate : y.setLate num op st = { y with late := some st } := if_pos ⟨hop, hrun, by simp [hwaits]⟩
  rw [Dev.getCmd_of_getCtx hc] at hcmd
  rw [Dev.giveUp_eq]
  refine Dev.WaitsFor.acted (y := { y with late := some st }) ⟨?_, ?_, hop, hrun, r, hwaits⟩
  · rw [hctx]
    exact congrArg some hcp
  · rw [Dev.getCmd_of_getCtx hctx, Ctx.getCmd_setLate, hcmd, Option.map_some, hlate]

/-! ### Sinks that end (R220, R221). -/

/-- Whether a SINK runs that waits for nothing. -/
def Cmd.sunk (x : Cmd) : Bool := decide (x.state = .running ∧ x.op = 0x11 ∧ x.waits.isEmpty = true)

theorem Dev.actedFor_eq (d : Dev) (n seq num : Nat) : d.actedFor n seq num = d.visit Cmd.sunk num (n, seq) := by
  unfold Dev.actedFor Dev.visit Cmd.sunk
  simp only [decide_eq_true_eq]
  rfl

theorem Dev.onlyCmds_sinkEnded (d : Dev) (pt num : Nat) (late : Option Nat) : d.OnlyCmds (d.sinkEnded pt num late) := by
  refine Dev.OnlyCmds.foldl (α := Nat × Nat) (fun d w => ?_) _ d
  dsimp only
  rw [Dev.actedFor_eq]
  refine Dev.OnlyCmds.trans ?_ (Dev.onlyCmds_visit Cmd.sunk num _ _)
  split <;> rfl

/-- A SINK that waits for an object on which no further request waits ends with its sink. -/
theorem Dev.WaitsFor.sinkEnded {d : Dev} {pt num n : Nat} {y : Cmd} (h : d.WaitsFor pt num 0x11 n y) {o : Obj} (ho : d.getObj pt num = some o)
    (hnone : o.sinkWait = []) : (d.sinkEnded pt num none).Ended n y.seq y.verdict := by
  have hvisits : d.sinkEnded pt num none = (d.waitersOf pt num 0x11).foldl (fun d w => d.visit Cmd.sunk num w) d := by
    unfold Dev.sinkEnded Dev.waitersOf Dev.ctxsOf
    simp only [ho, hnone, Dev.actedFor_eq, List.map_nil, List.any_nil, Bool.not_false, Bool.and_true]
  obtain ⟨r, hwaits⟩ := h.waits
  rw [hvisits]
  exact Dev.ended_of_visits h.cmd hwaits (decide_eq_true ⟨h.running, h.op, by simp [Cmd.strip, hwaits]⟩) h.mem_waitersOf

/-- With no request that waits on it, an object's requests go ahead without effect. -/
theorem Dev.resumeSinks_of_none {d : Dev} {pt num : Nat} {o : Obj} (ho : d.getObj pt num = some o) (hnone : o.sinkWait = []) :
    d.resumeSinks pt num = d.modObj pt num fun o => { o with sinkWait := [] } := by
  unfold Dev.resumeSinks
  rw [ho]
  simp only [hnone, List.foldl_nil]

end Sys2Proof.Machine
end

section
/-!
PROOFS. Granules (R215, R219, R224, R255): what stands in memory, or in a slot, where content has replaced a run of bytes.
-/

namespace Sys2Proof

/-! ### Bytes that are replaced. -/

theorem Map.find_eq_none {α : Type} {m : List (Nat × α)} {k : Nat} (h : k ∉ m.map Prod.fst) : Map.find m k = none := by
  cases hk : Map.find m k with
  | none => rfl
  | some v => exact absurd (List.mem_map_of_mem (Map.mem_of_find hk)) h

theorem Mem.get_zero (m : Mem) (a n x : Nat) : Mem.get (Mem.zero m a n) x = if a ≤ x ∧ x < a + n then 0 else Mem.get m x := by
  unfold Mem.get Map.get Mem.zero
  rw [Map.find_filter m (fun j => decide ¬ (a ≤ j ∧ j < a + n))]
  by_cases h : a ≤ x ∧ x < a + n <;> simp [h]

/-- The content of n bytes: each is listed at most once, by its offset. -/
structure Mem.Content (m : Mem) (n : Nat) : Prop where
  nodup : (m.map Prod.fst).Nodup
  lt : ∀ e ∈ m, e.1 < n

/-- Content put into a memory from a base on. -/
def Mem.put (m : Mem) (base : Nat) (content : Mem) : Mem := content.foldl (fun b e => Mem.set b (base + e.1) e.2) m

theorem Mem.put_cons (m : Mem) (base : Nat) (e : Nat × Byte) (content : Mem) :
    m.put base (e :: content) = (Mem.set m (base + e.1) e.2).put base content := rfl

theorem Mem.get_put_other (base x : Nat) (content : Mem) (hx : ∀ e ∈ content, base + e.1 ≠ x) : ∀ m : Mem, (m.put base content).get x = m.get x := by
  induction content with
  | nil => exact fun _ => rfl
  | cons e content ih =>
    intro m
    obtain ⟨he, hrest⟩ := List.forall_mem_cons.1 hx
    rw [Mem.put_cons, ih hrest, Mem.get_set, if_neg he]

theorem Mem.get_put (base k : Nat) (content : Mem) (h : (content.map Prod.fst).Nodup) :
    ∀ m : Mem, (m.put base content).get (base + k) = (Map.find content k).getD (m.get (base + k)) := by
  induction content with
  | nil => exact fun _ => rfl
  | cons e content ih =>
    intro m
    obtain ⟨hnot, hrest⟩ := List.nodup_cons.1 h
    rw [Mem.put_cons, ih hrest, Mem.get_set]
    obtain ⟨j, b⟩ := e
    by_cases hj : j = k
    · subst hj
      simp [Map.find, Map.find_eq_none hnot]
    · simp [Map.find, hj]

/-- A run of n bytes replaced by content. -/
def Mem.refill (m : Mem) (base n : Nat) (content : Mem) : Mem := (Mem.zero m base n).put base content

section
variable {content : Mem} {n : Nat} (h : content.Content n) (m : Mem) (base : Nat)
include h

theorem Mem.Content.get_refill {k : Nat} (hk : k < n) : (m.refill base n content).get (base + k) = content.get k := by
  unfold Mem.refill
  rw [Mem.get_put base k content h.nodup, Mem.get_zero, if_pos (by omega)]
  rfl

theorem Mem.Content.get_refill_other {a : Nat} (ha : a < base ∨ base + n ≤ a) : (m.refill base n content).get a = m.get a := by
  unfold Mem.refill
  rw [Mem.get_put_other base a content (fun e he => by have := h.lt e he; omega), Mem.get_zero, if_neg (by omega)]

end

/-! ### Content that is cut out of a memory. -/

theorem Mem.nodup_of_wf {m : Mem} (h : Mem.wf m = true) : (m.map Prod.fst).Nodup := by
  induction m with
  | nil => exact List.nodup_nil
  | cons e m ih =>
    obtain ⟨_, hlt, hwf⟩ := (Machine.wf_cons e.1 e.2 m).1 h
    refine List.nodup_cons.2 ⟨fun hmem => ?_, ih hwf⟩
    obtain ⟨x, hx, heq⟩ := List.mem_map.1 hmem
    exact absurd (hlt x hx) (by omega)

theorem Mem.content_slice {m : Mem} (h : Mem.wf m = true) (a n : Nat) : (Mem.slice m a n 0).Content n := by
  have hwithin : ∀ e ∈ m.filter (fun e => decide (a ≤ e.1 ∧ e.1 < a + n)), a ≤ e.1 ∧ e.1 < a + n := fun e he => by simpa using List.of_mem_filter he
  constructor
  · have hkeys : (Mem.slice m a n 0).map Prod.fst = ((m.filter fun e => decide (a ≤ e.1 ∧ e.1 < a + n)).map Prod.fst).map fun j => j - a := by
      unfold Mem.slice
      rw [List.map_map, List.map_map]
      rfl
    rw [hkeys]
    refine List.Nodup.map_on (fun x hx y hy hxy => ?_) (Mem.nodup_of_wf (Machine.wf_filter _ m h))
    obtain ⟨e, he, rfl⟩ := List.mem_map.1 hx
    obtain ⟨e', he', rfl⟩ := List.mem_map.1 hy
    have := hwithin e he
    have := hwithin e' he'
    omega
  · intro e he
    obtain ⟨x, hx, rfl⟩ := List.mem_map.1 he
    have := hwithin x hx
    show x.1 - a + 0 < n
    omega

theorem Mem.get_slice (m : Mem) (a n : Nat) {k : Nat} (hk : k < n) : (Mem.slice m a n 0).get k = m.get (a + k) := by
  unfold Mem.get Map.get
  congr 1
  induction m with
  | nil => rfl
  | cons e m ih =>
    obtain ⟨j, b⟩ := e
    unfold Mem.slice at ih ⊢
    by_cases hin : a ≤ j ∧ j < a + n
    · rw [List.filter_cons_of_pos (by simpa using hin), List.map_cons]
      simp only [Map.find, ih]
      exact if_congr (by omega) rfl rfl
    · rw [List.filter_cons_of_neg (by simpa using hin), ih]
      simp only [Map.find]
      rw [if_neg (by omega)]

end Sys2Proof

namespace Sys2Proof.Machine

/-! ### The content of a granule of device memory (R255). -/

/-- Of a run of numbers, those with a byte that is not zero, in order. -/
theorem foldl_nonzero (f : Nat → Byte) (l : List Nat) : ∀ m : Mem,
    l.foldl (fun m k => let b := f k; if b = 0 then m else m ++ [(k, b)]) m = m ++ (l.map fun k => (k, f k)).filter fun e => decide (f e.1 ≠ 0) := by
  induction l with
  | nil => exact fun m => (List.append_nil m).symm
  | cons k l ih =>
    intro m
    rw [List.foldl_cons, ih, List.map_cons]
    by_cases hk : f k = 0
    · have hzero : decide (f k ≠ 0) = false := decide_eq_false (not_not_intro hk)
      simp only [List.filter_cons, hzero, if_pos hk, Bool.false_eq_true, if_false]
    · have hkept : decide (f k ≠ 0) = true := decide_eq_true hk
      simp only [List.filter_cons, hkept, if_neg hk, if_true, List.append_assoc, List.singleton_append]

theorem State.granuleMem_eq (s : State) (base : Nat) :
    s.granuleMem base = ((List.range granule).map fun k => (k, s.byte (base + k))).filter fun e => decide (s.byte (base + e.1) ≠ 0) := by
  unfold State.granuleMem
  generalize List.range granule = l
  exact (foldl_nonzero (fun k => s.byte (base + k)) l []).trans (List.nil_append _)

theorem State.content_granuleMem (s : State) (base : Nat) : (s.granuleMem base).Content granule := by
  rw [State.granuleMem_eq]
  constructor
  · refine List.Nodup.sublist (List.Sublist.map _ List.filter_sublist) ?_
    rw [List.map_map]
    exact (List.map_id _).symm ▸ List.nodup_range
  · intro e he
    obtain ⟨k, hk, rfl⟩ := List.mem_map.1 (List.mem_of_mem_filter he)
    exact List.mem_range.1 hk

/-- A granule's content holds its bytes as its homes serve them. -/
theorem State.get_granuleMem (s : State) (base : Nat) {k : Nat} (hk : k < granule) : (s.granuleMem base).get k = s.byte (base + k) := by
  have hrun := Map.find_run 0 granule (fun k => s.byte (base + k)) k
  rw [if_pos (by omega)] at hrun
  simp only [Nat.zero_add, Nat.sub_zero] at hrun
  rw [State.granuleMem_eq, Mem.get, Map.get, Map.find_filter _ (fun j => decide (s.byte (base + j) ≠ 0)), hrun]
  by_cases hz : s.byte (base + k) = 0
  · rw [if_neg (ne_true_of_eq_false (decide_eq_false (not_not_intro hz))), hz]
    rfl
  · rw [if_pos (decide_eq_true hz)]
    rfl

/-! ### A granule that is written (R215, R224). -/

/-- Server-core copies of the granule are dropped, its bytes are the content, and lines of it are poisoned. -/
theorem State.putGranule_eq (s : State) (base : Nat) (content : Mem) (bad : List Nat) :
    ∃ (cores : List (Nat × Core)) (poison : List (Nat × BitVec 128)), s.putGranule base content bad =
    { s with dev := { s.dev with cores := cores }, mem := { s.mem with bytes := Mem.refill s.mem.bytes base granule content, poison := poison } } := by
  have hdrop : ∀ l : List Nat, ∃ cores : List (Nat × Core), l.foldl (fun s k => s.onDev fun d => d.dropLine (base / 128 + k)) s =
      { s with dev := { s.dev with cores := cores } } := fun l =>
    foldl_keep (fun t : State => ∃ cores : List (Nat × Core), t = { s with dev := { s.dev with cores := cores } }) _
      (fun t k h => by obtain ⟨cores, rfl⟩ := h; exact ⟨_, rfl⟩) l s ⟨s.dev.cores, rfl⟩
  have hpoison (m : Memory) : ∃ poison : List (Nat × BitVec 128),
      bad.foldl (fun m l => m.setPoison (base / 128 + l) fullMask) m = { m with poison := poison } :=
    foldl_keep (fun k : Memory => ∃ poison : List (Nat × BitVec 128), k = { m with poison := poison }) _
      (fun k l h => by obtain ⟨poison, rfl⟩ := h; exact ⟨_, rfl⟩) bad m ⟨m.poison, rfl⟩
  obtain ⟨cores, hc⟩ := hdrop (List.range 512)
  obtain ⟨poison, hp⟩ := hpoison { s.mem.zero base granule with bytes := Mem.refill s.mem.bytes base granule content }
  refine ⟨cores, poison, ?_⟩
  unfold State.putGranule
  dsimp only
  rw [hc]
  exact congrArg (fun m : Memory => ({ s with dev := { s.dev with cores := cores }, mem := m } : State)) hp

end Sys2Proof.Machine
end

section
/-!
PROOFS. Demands (R209, R210) and parts that fail (R168): what they leave of objects and of commands.
-/

namespace Sys2Proof.Machine

/-! ### Promotions (R210, Table 8.5). -/

/-- An object that was left alone, or that rises now: only its residency, its rise and its mark of a conflict may differ. -/
structure Obj.Steeped (o z : Obj) : Prop where
  rest : z = { o with res := z.res, rise := z.rise, conflict := z.conflict }
  resident : o.res = .resident → z = o
  res : z.res = o.res ∨ z.res = .rising

theorem Obj.Steeped.refl (o : Obj) : o.Steeped o := ⟨rfl, fun _ => rfl, .inl rfl⟩

theorem Obj.Steeped.trans {o y z : Obj} (h : o.Steeped y) (k : y.Steeped z) : o.Steeped z where
  rest := by rw [k.rest, h.rest]
  resident hr := by
    have hy := h.resident hr
    exact (k.resident (hy ▸ hr)).trans hy
  res := k.res.elim (fun hz => h.res.imp hz.trans hz.trans) .inr

/-- An object that sinks has passed its release point. -/
def Obj.past (o : Obj) : Prop := o.res = .sinking → o.released = true

theorem Obj.Steeped.past {o z : Obj} (h : o.Steeped z) (hp : o.past) : z.past := fun hz => by
  have hrel : z.released = o.released := by
    unfold Obj.released
    rw [h.rest]
  rcases h.res with hr | hr
  · exact hrel.trans (hp (hr.symm.trans hz))
  · exact absurd (hr.symm.trans hz) (by decide)

/-- What a promotion does: nothing, a change of its object that lets it rise, or the end of a sink before its release point. -/
theorem Dev.promote_cases (d : Dev) (pt num : Nat) (kind : RiseKind) (ctx : Nat) : d.promote pt num kind ctx = d ∨
    (∃ (g : Obj → Obj) (k : Nat), d.promote pt num kind ctx = { d.modObj pt num g with serial := k } ∧
      ∀ o, d.getObj pt num = some o → o.Steeped (g o)) ∨
    (∃ (o : Obj) (g : Obj → Obj) (e : Dev), d.getObj pt num = some o ∧ ¬ o.past ∧ d.Told e ∧
      d.promote pt num kind ctx = ((e.modObj pt num g).acted pt num 0x11).acted pt num 0x10) := by
  unfold Dev.promote
  split
  · exact .inl rfl
  rename_i o ho
  have hsame {z : Obj} (hz : d.getObj pt num = some z) : z = o := Option.some.inj (hz.symm.trans ho)
  dsimp only
  split
  case h_1 hres =>
    exact .inr (.inl ⟨_, _, rfl, fun z hz => ⟨rfl, fun hr => absurd (hr.symm.trans (hsame hz ▸ hres)) (by decide), .inr rfl⟩⟩)
  case h_2 hres =>
    exact .inr (.inl ⟨_, d.serial, rfl, fun z hz => ⟨rfl, fun hr => absurd (hr.symm.trans (hsame hz ▸ hres)) (by decide), .inl rfl⟩⟩)
  case h_3 => exact .inl rfl
  case h_4 hres =>
    split
    · exact .inr (.inl ⟨_, _, rfl, fun z hz => ⟨rfl, fun hr => absurd (hr.symm.trans (hsame hz ▸ hres)) (by decide), .inr rfl⟩⟩)
    · refine .inr (.inr ⟨o, _, _, ho, fun hp => ‹¬ o.released = true› (hp hres), ?_, rfl⟩)
      split
      · exact Dev.told_countCtx d _ _ _
      · exact .refl d

section
variable (d : Dev) (pt num : Nat) (kind : RiseKind) (ctx : Nat)

theorem Dev.promote_cl : (d.promote pt num kind ctx).cl = d.cl := by
  rcases Dev.promote_cases d pt num kind ctx with h | ⟨g, k, h, _⟩ | ⟨o, g, e, _, _, he, h⟩ <;> rw [h]
  · rfl
  · exact (Dev.onlyCmds_acted _ _ _ _).cl.trans ((Dev.onlyCmds_acted _ _ _ _).cl.trans (Dev.OnlyCmds.cl (d := d) (e := e) he.rest))

theorem Dev.promote_getObj_other {o : Nat} (ho : num ≠ o) : (d.promote pt num kind ctx).getObj pt o = d.getObj pt o := by
  have hmod (e : Dev) (g : Obj → Obj) : (e.modObj pt num g).getObj pt o = e.getObj pt o := by rw [Dev.getObj_modObj, if_neg (fun h => ho h.2)]
  rcases Dev.promote_cases d pt num kind ctx with h | ⟨g, k, h, _⟩ | ⟨z, g, e, _, _, he, h⟩ <;> rw [h]
  · exact hmod d g
  · rw [(Dev.onlyCmds_acted _ _ _ _).getObj, (Dev.onlyCmds_acted _ _ _ _).getObj, hmod, he.getObj]

end

theorem Dev.getObj_modObj_self {d : Dev} {pt num : Nat} {o : Obj} (ho : d.getObj pt num = some o) (f : Obj → Obj) :
    (d.modObj pt num f).getObj pt num = some (f o) := by
  rw [Dev.getObj_modObj, if_pos ⟨rfl, rfl⟩, ho, Option.map_some]

theorem Dev.promote_getObj {d : Dev} {pt num : Nat} {o : Obj} (ho : d.getObj pt num = some o) (hp : o.past) (kind : RiseKind) (ctx : Nat) :
    ∃ z, (d.promote pt num kind ctx).getObj pt num = some z ∧ o.Steeped z := by
  rcases Dev.promote_cases d pt num kind ctx with h | ⟨g, k, h, hg⟩ | ⟨z, g, e, hz, hnot, he, h⟩
  · exact ⟨o, h.symm ▸ ho, .refl o⟩
  · refine ⟨g o, ?_, hg o ho⟩
    rw [h]
    exact Dev.getObj_modObj_self ho g
  · exact absurd (Option.some.inj (ho.symm.trans hz) ▸ hp) hnot

theorem Dev.Ended.promote {d : Dev} {n q : Nat} {fin : CmdState} (hd : d.Ended n q fin) (pt num : Nat) (kind : RiseKind) (ctx : Nat) :
    (d.promote pt num kind ctx).Ended n q fin := by
  rcases Dev.promote_cases d pt num kind ctx with h | ⟨g, k, h, _⟩ | ⟨o, g, e, _, _, he, h⟩ <;> rw [h]
  · exact hd
  · exact hd
  · exact (Dev.Ended.acted (d := e.modObj pt num g) (hd.of_getCmd (he.getCmd n q)) _ _ _).acted _ _ _

/-! ### Demands (R209). -/

/-- What every promotion keeps, the demands of a partition keep. -/
theorem Dev.demand_keep {P : Dev → Prop} {pt : Nat} (hP : ∀ d num ctx, P d → P (d.promote pt num .demand ctx)) {d : Dev} (h : P d) :
    P (d.demand pt) := by
  unfold Dev.demand
  refine foldl_keep P _ (fun e w he => ?_) _ d h
  split
  · split
    · exact hP e _ _ he
    · exact he
  · exact he

theorem Dev.demand_cl (d : Dev) (pt : Nat) : (d.demand pt).cl = d.cl :=
  Dev.demand_keep (P := fun e => e.cl = d.cl) (fun e num ctx h => (Dev.promote_cl e pt num .demand ctx).trans h) rfl

theorem Dev.Ended.demand {d : Dev} {n q : Nat} {fin : CmdState} (h : d.Ended n q fin) (pt : Nat) : (d.demand pt).Ended n q fin :=
  Dev.demand_keep (P := fun e => e.Ended n q fin) (fun _ num ctx k => k.promote pt num .demand ctx) h

/-- Of an object that is not on the way to its release point, demands change no more than that it rises. -/
theorem Dev.demand_getObj {d : Dev} {pt num : Nat} {o : Obj} (ho : d.getObj pt num = some o) (hp : o.past) :
    ∃ z, (d.demand pt).getObj pt num = some z ∧ o.Steeped z := by
  refine Dev.demand_keep (P := fun e => ∃ z, e.getObj pt num = some z ∧ o.Steeped z) (fun e k ctx h => ?_) ⟨o, ho, .refl o⟩
  obtain ⟨z, hz, hoz⟩ := h
  by_cases hk : k = num
  · subst hk
    obtain ⟨y, hy, hzy⟩ := Dev.promote_getObj hz (hoz.past hp) .demand ctx
    exact ⟨y, hy, hoz.trans hzy⟩
  · exact ⟨z, (Dev.promote_getObj_other e pt k .demand ctx hk).trans hz, hoz⟩

/-- A resident object is not demanded. -/
theorem Dev.demand_resident {d : Dev} {pt num : Nat} {o : Obj} (ho : d.getObj pt num = some o) (hr : o.res = .resident) :
    (d.demand pt).getObj pt num = some o := by
  obtain ⟨z, hz, hoz⟩ := Dev.demand_getObj ho fun hs => absurd (hr.symm.trans hs) (by decide)
  rw [hz, hoz.resident hr]

/-- Where no cluster is held at an object, no access is tried again. -/
theorem State.retryObjects_of_none {s : State} (h : ∀ c ∈ s.dev.cl, ∀ va acc, c.2.stall ≠ .object va acc) : s.retryObjects = s := by
  unfold State.retryObjects
  rw [List.filter_eq_nil_iff.2]
  · rfl
  · intro c hc
    split
    · exact absurd ‹_› (h c hc _ _)
    · exact Bool.false_ne_true

/-! ### Parts that stop and fail: objects, and the commands of others (R168). -/

/-- An object apart from the granules that parts bound before a publication (R226). -/
def Obj.current (o : Obj) : Obj := { o with old := [] }

/-- What parts that stop leave: the bytes of memory, the power side, which command each part is of, and objects but for old granules. -/
structure State.Stops (s t : State) : Prop where
  pow : t.pow = s.pow
  bytes : t.mem.bytes = s.mem.bytes
  pt : ∀ n, (t.dev.getCtx n).map Ctx.pt = (s.dev.getCtx n).map Ctx.pt
  part : ∀ u, (t.dev.getPart u).map (fun p => (p.ctx, p.seq)) = (s.dev.getPart u).map fun p => (p.ctx, p.seq)
  obj : ∀ k o, (t.dev.getObj k o).map Obj.current = (s.dev.getObj k o).map Obj.current

theorem State.Stops.refl (s : State) : s.Stops s := ⟨rfl, rfl, fun _ => rfl, fun _ => rfl, fun _ _ => rfl⟩

theorem State.Stops.trans {s t u : State} (h : s.Stops t) (k : t.Stops u) : s.Stops u :=
  ⟨k.pow.trans h.pow, k.bytes.trans h.bytes, fun n => (k.pt n).trans (h.pt n), fun v => (k.part v).trans (h.part v),
    fun p o => (k.obj p o).trans (h.obj p o)⟩

/-- A part that is released forgets the old granules that it bound, and the accesses that its faults hold (R226, R271). -/
def Partn.forget (q : Partn) (uid : Nat) : Partn :=
  { q with objs := q.objs.map fun o => (o.1, { o.2 with old := o.2.old.filter fun g => g.2.2 ≠ uid })
           faults := q.faults.map fun f => { f with held := f.held.filter fun u => u.1 ≠ uid } }

theorem Dev.releasePart_forgets {d : Dev} {uid : Nat} {p : Part} (hp : d.getPart uid = some p) : ∃ pt g, (d.releasePart uid).partns =
    (((d.modEng (eIdx p.eng) g).letGo (eIdx p.eng) uid (List.range 20)).modPt pt fun q => q.forget uid).partns := by
  refine ⟨match d.getCtx p.ctx with | some c => c.pt | none => 0, fun x => { x.dropFaults uid with
    queue := x.queue.filter (fun u => u ≠ uid), executing := x.executing.filter (fun u => u ≠ uid)
    merges := if x.executing.any (fun u => u = uid) then [] else x.merges }, ?_⟩
  unfold Dev.releasePart Dev.letGo
  rw [hp]
  generalize List.range 20 = l
  rfl

theorem Dev.letGo_partns (d : Dev) (e uid : Nat) (l : List Nat) : (d.letGo e uid l).partns = d.partns :=
  foldl_keep (fun f : Dev => f.partns = d.partns) _ (fun f k hf => by split <;> exact hf) l d rfl

theorem Dev.getObj_congr {d e : Dev} (h : e.partns = d.partns) (k o : Nat) : e.getObj k o = d.getObj k o := by
  unfold Dev.getObj Dev.getPt
  rw [h]

theorem Dev.getObj_forget (d : Dev) (pt uid k o : Nat) :
    ((d.modPt pt fun q => q.forget uid).getObj k o).map Obj.current = (d.getObj k o).map Obj.current := by
  unfold Dev.getObj
  rw [Dev.getPt_modPt]
  split
  · refine (congrArg _ (Map.find_map (fun _ (z : Obj) => { z with old := z.old.filter fun g => decide (g.2.2 ≠ uid) }) _ o)).trans ?_
    rw [Option.map_map]
    rfl
  · rfl

theorem Dev.releasePart_getObj (d : Dev) (uid k o : Nat) : ((d.releasePart uid).getObj k o).map Obj.current = (d.getObj k o).map Obj.current := by
  cases hp : d.getPart uid with
  | none =>
    unfold Dev.releasePart
    rw [hp]
  | some p =>
    obtain ⟨pt, g, h⟩ := Dev.releasePart_forgets hp
    rw [Dev.getObj_congr h, Dev.getObj_forget, Dev.getObj_congr (Dev.letGo_partns _ _ _ _)]
    rfl

theorem State.stops_stopPart (s : State) (uid : Nat) (stage : PartStage) : s.Stops (s.stopPart uid stage) := by
  cases hp : s.dev.getPart uid with
  | none =>
    rw [State.stopPart_none hp]
    exact .refl s
  | some p =>
    have hquiet : (s.dev.quieted p).partns = s.dev.partns := by
      unfold Dev.quieted
      split <;> rfl
    refine ⟨(State.stopPart_pow_mgmt s uid stage).1, State.stopPart_bytes s uid stage, fun n => ?_, fun u => ?_, fun k o => ?_⟩
    · rw [Dev.getCtx, State.stopPart_ctxs]
      rfl
    · rw [State.stopPart_eq hp, State.took_getPart]
      dsimp only
      have htask := congrArg (Option.map fun x : Nat × Nat × PartKind × PartStage × Bool => (x.1, x.2.1))
        ((Dev.sameWork_releasePart (s.dev.quieted p) uid).part u)
      rw [Option.map_map, Option.map_map] at htask
      rw [Dev.getPart_modPart]
      refine Eq.trans ?_ (htask.trans ?_)
      · split
        · rw [Option.map_map]
          rfl
        · rfl
      · unfold Dev.getPart
        rw [Dev.quieted_parts]
        rfl
    · rw [State.stopPart_eq hp]
      exact (Dev.releasePart_getObj (s.dev.quieted p) uid k o).trans (congrArg _ (Dev.getObj_congr hquiet k o))

theorem State.stops_stopLive (s : State) (u : Nat) : s.Stops (s.stopLive u) := by
  rcases State.stopLive_cases s u with ⟨h, _⟩ | ⟨_, _, h⟩ <;> rw [h]
  · exact .refl s
  · exact State.stops_stopPart s u _

/-- A command that fails, unless it is under abort (R168, R171). -/
def Cmd.fail (status : Nat) (x : Cmd) : Cmd := match x.state with | .aborting => x | _ => { x with state := .failing status }

@[simp] theorem Cmd.fail_seq (status : Nat) (x : Cmd) : (x.fail status).seq = x.seq := by
  unfold Cmd.fail
  split <;> rfl

/-- A part fails: parts stop, and its command is failing. -/
theorem State.failPart_cases (s : State) (uid status : Nat) : s.failPart uid status = s ∨ ∃ (p : Part) (l : List Nat), s.dev.getPart uid = some p ∧
    s.failPart uid status = (l.foldl State.stopLive (s.stopPart uid (.failed status))).onDev fun d => d.modCmd p.ctx p.seq (Cmd.fail status) := by
  unfold State.failPart
  split
  · exact .inl rfl
  rename_i p hp
  split
  · exact .inl rfl
  · exact .inr ⟨p, _, hp, rfl⟩

theorem State.stops_failPart (s : State) (uid status : Nat) : s.Stops (s.failPart uid status) := by
  rcases State.failPart_cases s uid status with h | ⟨p, l, _, h⟩ <;> rw [h]
  · exact .refl s
  · have hstop : s.Stops (l.foldl State.stopLive (s.stopPart uid (.failed status))) :=
      foldl_keep (fun t => s.Stops t) _ (fun t u k => k.trans (State.stops_stopLive t u)) l _ (State.stops_stopPart s uid _)
    refine hstop.trans ⟨rfl, rfl, fun n => ?_, fun _ => rfl, fun _ _ => rfl⟩
    rw [State.onDev_dev, Dev.modCmd, Dev.getCtx_modCtx]
    split
    · rw [Option.map_map]
      rfl
    · rfl

/-- A part that is not of a command leaves the command as it is. -/
theorem State.failPart_getCmd {s : State} {uid n q : Nat} (h : ∀ p, s.dev.getPart uid = some p → p.ctx ≠ n ∨ p.seq ≠ q) (status : Nat) :
    (s.failPart uid status).dev.getCmd n q = s.dev.getCmd n q := by
  rcases State.failPart_cases s uid status with hf | ⟨p, l, hp, hf⟩ <;> rw [hf]
  have hctxs : (l.foldl State.stopLive (s.stopPart uid (.failed status))).dev.ctxs = s.dev.ctxs :=
    (State.stopLives_frame _ l).1.trans (State.stopPart_ctxs s uid _)
  rw [State.onDev_dev, Dev.getCmd_modCmd (Cmd.fail_seq status), if_neg (fun hw => (h p hp).elim (· hw.1) (· hw.2))]
  unfold Dev.getCmd Dev.getCtx
  rw [hctxs]

/-- Parts that are not of a command fail and leave the command as it is. -/
theorem State.failParts_getCmd {s : State} {n q : Nat} (h : ∀ p ∈ s.dev.parts, p.2.ctx ≠ n ∨ p.2.seq ≠ q) (l : List (Nat × Nat)) (status : Nat) :
    let t := l.foldl (fun s p => s.failPart p.1 status) s
    s.Stops t ∧ t.dev.getCmd n q = s.dev.getCmd n q := by
  refine foldl_keep (fun t : State => s.Stops t ∧ t.dev.getCmd n q = s.dev.getCmd n q) _ (fun t w k => ?_) l s ⟨.refl s, rfl⟩
  obtain ⟨hstop, hcmd⟩ := k
  refine ⟨hstop.trans (State.stops_failPart t w.1 status), (State.failPart_getCmd (fun p hp => ?_) status).trans hcmd⟩
  have howner := hstop.part w.1
  rw [hp, Option.map_some, eq_comm, Option.map_eq_some_iff] at howner
  obtain ⟨p₀, hp₀, heq⟩ := howner
  obtain ⟨hctx, hseq⟩ := Prod.mk.inj heq
  exact hctx ▸ hseq ▸ h _ (Map.mem_of_find hp₀)

theorem State.stops_failParts (s : State) (l : List (Nat × Nat)) (status : Nat) : s.Stops (l.foldl (fun s p => s.failPart p.1 status) s) :=
  foldl_keep (fun t => s.Stops t) _ (fun t w k => k.trans (State.stops_failPart t w.1 status)) l s (.refl s)

end Sys2Proof.Machine
end

section
/-!
PROOFS. How objects rise (R215, R217, R223 to R225): O34.
-/

namespace Sys2Proof.Machine

/-! ### Commands that wait for one object. -/

/-- A running command of a context whose numbers are distinct, and that waits for one object, in a data path with the same contexts. -/
theorem Dev.waitsFor_of {d e : Dev} {pt num op n : Nat} {c : Ctx} {y : Cmd} (he : e.ctxs = d.ctxs) (hc : d.getCtx n = some c) (hpt : c.pt = pt)
    (hnodup : (c.cmds.map fun z => z.seq).Nodup) (hy : y ∈ c.cmds) (hop : y.op = op) (hrun : y.state = .running)
    (hwaits : ∃ r, y.waits = [(num, r)]) : e.WaitsFor pt num op n y := by
  have hctx : e.getCtx n = some c := by
    unfold Dev.getCtx
    rw [he]
    exact hc
  refine ⟨?_, ?_, hop, hrun, hwaits⟩
  · rw [hctx]
    exact congrArg some hpt
  · rw [Dev.getCmd_of_getCtx hctx]
    exact Ctx.getCmd_of_mem hnodup hy

theorem Cmd.verdict_of_none {y : Cmd} (h : y.late = none) : y.verdict = .completed := by
  unfold Cmd.verdict
  rw [h]

/-- A count of a partition leaves its objects as they are. -/
theorem Dev.getObj_countPt (d : Dev) (k i c pt num : Nat) : (d.countPt k i c).getObj pt num = d.getObj pt num := by
  unfold Dev.getObj Dev.countPt
  rw [Dev.getPt_modPt]
  split <;> rfl

@[simp] theorem Dev.modObj_cl (d : Dev) (pt num : Nat) (f : Obj → Obj) : (d.modObj pt num f).cl = d.cl := rfl

/-! ### Room (R215). -/

section
variable {s : State} {pt num : Nat} {o : Obj} {r : Rise} (ho : s.dev.getObj pt num = some o) (hr : o.rise = some r)
include ho hr

theorem State.riseRoom_takes {gs : List Nat} (hready : s.dev.ready = true) (hroom : r.room = false) (hsink : o.sinkOp = none)
    (hgs : s.dev.room o.home o.lean o.riseGranules = some gs) :
    OnlyDev s (s.riseRoom pt num) ∧ ∃ z, (s.riseRoom pt num).dev.getObj pt num = some z ∧ z.image = gs.take o.granules ∧
      z.rise = some { r with room := true, waits := 0, loads := o.loads } ∧ z.record = o.record := by
  unfold State.riseRoom
  simp only [hready, Bool.not_true, Bool.false_eq_true, if_false, ho, hr, hroom, hsink, Option.isSome_none, or_self, hgs]
  exact ⟨onlyDev_onDev s _, _, Dev.getObj_modObj_self ho _, rfl, by rw [hr]; rfl, rfl⟩

/-! ### A complete image (R215). -/

/-- An object whose image is complete. -/
def Obj.risen (o : Obj) : Obj := { o with res := .resident, rise := none, dirty := false, conflict := false }

theorem State.riseComplete_eq (hres : o.res = .rising) (hroom : r.room = true) (hdone : ∀ c, c < o.riseGranules → has r.done c = true) :
    s.riseComplete pt num = (s.onDev fun d => (((d.modObj pt num Obj.risen).acted pt num 0x10).resumeSinks pt num).demand pt).retryObjects := by
  unfold State.riseComplete
  simp only [ho, hres, hr, hroom, true_and]
  exact if_pos (List.all_eq_true.2 fun c hc => hdone c (List.mem_range.1 hc))

theorem State.riseComplete_ends (hres : o.res = .rising) (hroom : r.room = true) (hdone : ∀ c, c < o.riseGranules → has r.done c = true)
    (hnone : o.sinkWait = []) (hstill : ∀ c ∈ s.dev.cl, ∀ va acc, c.2.stall ≠ .object va acc) :
    OnlyDev s (s.riseComplete pt num) ∧ (s.riseComplete pt num).dev.getObj pt num = some { o.risen with sinkWait := [] } ∧
      ∀ n y, s.dev.WaitsFor pt num 0x10 n y → (s.riseComplete pt num).dev.Ended n y.seq y.verdict := by
  let d := (s.dev.modObj pt num Obj.risen).acted pt num 0x10
  have hacted := Dev.onlyCmds_acted (s.dev.modObj pt num Obj.risen) pt num 0x10
  have hobj : d.getObj pt num = some o.risen := (hacted.getObj pt num).trans (Dev.getObj_modObj_self ho _)
  have hresume : d.resumeSinks pt num = d.modObj pt num fun o => { o with sinkWait := [] } := Dev.resumeSinks_of_none hobj hnone
  have heq : s.riseComplete pt num = s.onDev fun _ => (d.modObj pt num fun o => { o with sinkWait := [] }).demand pt := by
    rw [State.riseComplete_eq ho hr hres hroom hdone, ← hresume]
    refine State.retryObjects_of_none ?_
    rw [State.onDev_dev, show (s.dev.modObj pt num Obj.risen).acted pt num 0x10 = d from rfl, hresume, Dev.demand_cl]
    exact hacted.cl ▸ hstill
  rw [heq]
  refine ⟨onlyDev_onDev s _, Dev.demand_resident (Dev.getObj_modObj_self hobj _) rfl, fun n y hy => ?_⟩
  have hend : d.Ended n y.seq y.verdict := Dev.WaitsFor.acted (d := s.dev.modObj pt num Obj.risen) ⟨hy.ctx, hy.cmd, hy.op, hy.running, hy.waits⟩
  exact Dev.Ended.demand (d := d.modObj pt num _) hend pt

end

/-! ### A residency deadlock (R223). -/

/-- An object whose rise has been given up. -/
def Obj.fallen (o : Obj) : Obj :=
  { o with shadowWait := 0, shadowTried := [], res := if o.rise.isSome then .caddyOnly else o.res, rise := none
           image := if o.rise.isSome then [] else o.image, shadow := if o.rise.isSome then [] else o.shadow }

/-- A deadlock: the object falls back, parts fail, waiting commands end, and contexts are told. -/
theorem State.deadlock_eq (s : State) (pt num : Nat) (o : Obj) : ∃ (parts : List (Nat × Nat)) (told : List Nat), s.deadlock pt num o =
    told.foldl (fun s n => s.event n 1 2 0 (leBytes 4 num ++ leBytes 1 o.home))
      ((parts.foldl (fun s p => s.failPart p.1 stNoResource) (s.onDev fun d => d.modObj pt num Obj.fallen)).onDev
        fun d => (d.giveUp pt num 0x10 stNoResource).resumeSinks pt num) := ⟨_, _, rfl⟩

/-- Events change neither memory nor the power side, and of the data path what is told alone. -/
theorem State.events_frame (s : State) (l : List Nat) (b : Bytes) : let t := l.foldl (fun s n => s.event n 1 2 0 b) s
    t.mem = s.mem ∧ t.pow = s.pow ∧ s.dev.Told t.dev := by
  refine foldl_keep (fun t : State => t.mem = s.mem ∧ t.pow = s.pow ∧ s.dev.Told t.dev) _ (fun t n h => ?_) l s ⟨rfl, rfl, .refl _⟩
  obtain ⟨hmem, hpow, htold⟩ := h
  obtain ⟨kmem, kpow⟩ := State.event_mem_pow t n 1 2 0 b
  exact ⟨kmem.trans hmem, kpow.trans hpow, htold.trans (State.event_told t n 1 2 0 b)⟩

theorem Obj.current_eq {o z : Obj} (h : z.current = o.current) : z = { o with old := z.old } := by
  obtain ⟨⟩ := z
  obtain ⟨⟩ := o
  simpa [Obj.current] using h

section
variable {s : State} {pt num : Nat} {o : Obj} (ho : s.dev.getObj pt num = some o)
include ho

theorem State.deadlock_ends (hnone : o.sinkWait = []) :
    (s.deadlock pt num o).mem.bytes = s.mem.bytes ∧ (s.deadlock pt num o).pow = s.pow ∧
      (∃ old, (s.deadlock pt num o).dev.getObj pt num = some { o.fallen with old := old, sinkWait := [] }) ∧
      ∀ n y, s.dev.WaitsFor pt num 0x10 n y → (∀ p ∈ s.dev.parts, p.2.ctx ≠ n ∨ p.2.seq ≠ y.seq) →
        (s.deadlock pt num o).dev.Ended n y.seq (.failed stNoResource) := by
  obtain ⟨parts, told, heq⟩ := State.deadlock_eq s pt num o
  let s₁ := s.onDev fun d => d.modObj pt num Obj.fallen
  let t := parts.foldl (fun s p => s.failPart p.1 stNoResource) s₁
  let d := t.dev.giveUp pt num 0x10 stNoResource
  have hstop : s₁.Stops t := State.stops_failParts s₁ parts stNoResource
  obtain ⟨z, hz, hcur⟩ : ∃ z, t.dev.getObj pt num = some z ∧ z.current = o.fallen.current := by
    have hobj := hstop.obj pt num
    rw [show s₁.dev.getObj pt num = some o.fallen from Dev.getObj_modObj_self ho _] at hobj
    exact Option.map_eq_some_iff.1 hobj
  have hfallen := Obj.current_eq hcur
  have hdz : d.getObj pt num = some z := ((Dev.onlyCmds_giveUp _ _ _ _ _).getObj pt num).trans hz
  have hresume : d.resumeSinks pt num = d.modObj pt num fun o => { o with sinkWait := [] } :=
    Dev.resumeSinks_of_none hdz (by rw [hfallen]; exact hnone)
  obtain ⟨hmem, hpow, htold⟩ := State.events_frame (t.onDev fun _ => d.resumeSinks pt num) told (leBytes 4 num ++ leBytes 1 o.home)
  rw [heq]
  refine ⟨(congrArg Memory.bytes hmem).trans hstop.bytes, hpow.trans hstop.pow, ⟨z.old, ?_⟩, fun n y hy hparts => ?_⟩
  · refine (htold.getObj pt num).trans ?_
    rw [State.onDev_dev, hresume, Dev.getObj_modObj_self hdz]
    exact congrArg (fun w : Obj => some { w with sinkWait := [] }) hfallen
  · have hcmd : t.dev.getCmd n y.seq = some y := (State.failParts_getCmd (s := s₁) hparts parts stNoResource).2.trans hy.cmd
    have hend : d.Ended n y.seq (.failed stNoResource) :=
      Dev.WaitsFor.giveUp (d := t.dev) ⟨(hstop.pt n).trans hy.ctx, hcmd, hy.op, hy.running, hy.waits⟩ stNoResource
    refine Dev.Ended.of_getCmd (d := d) hend ((htold.getCmd n y.seq).trans ?_)
    rw [State.onDev_dev, hresume]
    rfl

theorem State.residencyDeadlock_never {r : Rise} (hr : o.rise = some r) (hroom : r.room = false) (hsink : o.sinkOp = none)
    (hfits : s.dev.fits o.home o.lean o.riseGranules = false) : s.residencyDeadlock pt num = s.deadlock pt num o := by
  unfold State.residencyDeadlock
  simp [ho, hr, hroom, hsink, hfits]

end

/-! ### A chunk of a rise (R215, R217). -/

/-- An object of whose rise a chunk is written. -/
def Obj.chunked (c : Nat) (o : Obj) : Obj := { o with rise := o.rise.map fun r => { r with done := c :: r.done, redo := false } }

theorem State.putGranule_getObj (s : State) (base : Nat) (content : Mem) (bad : List Nat) (pt num : Nat) :
    (s.putGranule base content bad).dev.getObj pt num = s.dev.getObj pt num := by
  obtain ⟨cores, poison, h⟩ := State.putGranule_eq s base content bad
  rw [h]
  rfl

theorem State.putGranule_cl (s : State) (base : Nat) (content : Mem) (bad : List Nat) : (s.putGranule base content bad).dev.cl = s.dev.cl := by
  obtain ⟨cores, poison, h⟩ := State.putGranule_eq s base content bad
  rw [h]

/-- A granule that is written holds its content; no other byte, nothing of the power or management side differs. -/
theorem State.putGranule_spec {s : State} {base : Nat} {content : Mem} (hfit : content.Content granule) (bad : List Nat) (f : Dev → Dev) :
    let t := (s.putGranule base content bad).onDev f
    t.pow = s.pow ∧ t.mgmt = s.mgmt ∧ (∀ k, k < granule → Mem.get t.mem.bytes (base + k) = Mem.get content k) ∧
      ∀ a, a < base ∨ base + granule ≤ a → Mem.get t.mem.bytes a = Mem.get s.mem.bytes a := by
  obtain ⟨cores, poison, h⟩ := State.putGranule_eq s base content bad
  generalize s.putGranule base content bad = t at h ⊢
  subst h
  exact ⟨rfl, rfl, fun k hk => hfit.get_refill _ _ hk, fun a ha => hfit.get_refill_other _ _ ha⟩

/-- A chunk of the record (R215). -/
def Obj.chunk (o : Obj) (c : Nat) : Mem := Mem.slice (o.record.getD []) (c * granule) granule 0

theorem State.riseChunk_eq {s : State} {pt num c : Nat} {o : Obj} (hc : c < o.granules) : ∃ bad n, s.riseChunk pt num c o =
    (s.putGranule (o.image.getD c 0) (o.chunk c) bad).onDev fun d =>
      ((d.modObj pt num (Obj.chunked c)).countPt pt 0x06 granule).countPt pt 0x07 n := by
  unfold State.riseChunk Obj.chunk
  simp only [if_pos hc]
  cases o.record with
  | none => exact ⟨_, _, rfl⟩
  | some m => exact ⟨_, _, rfl⟩

/-- The infuser's turn passes on. -/
def Dev.turnInfuser (d : Dev) (h ptr : Nat) (sink : Bool) : Dev :=
  { d with infPtr := Map.put d.infPtr h ptr, sinceSink := Map.put d.sinceSink h (if sink then 0 else Map.get d.sinceSink h 0 + 1) }

section
variable {s : State} {h pt ptr num c : Nat} {o : Obj} (hready : s.dev.ready = true) (ho : s.dev.getObj pt num = some o)
include hready ho

theorem State.infuserChunk_rises (hnext : s.infuserNext h = some (pt, ptr, num, c, false)) :
    s.infuserChunk h false = (s.onDev fun d => d.turnInfuser h ptr false).riseChunk pt num c o := by
  unfold State.infuserChunk
  simp only [hready, Bool.not_true, Bool.false_eq_true, if_false, hnext, ho]
  rfl

theorem State.infuserChunk_sinks (hnext : s.infuserNext h = some (pt, ptr, num, c, true)) {k : SinkOp} (hk : o.sinkOp = some k) :
    s.infuserChunk h false = (s.onDev fun d => d.turnInfuser h ptr true).sinkChunk pt num c o k := by
  unfold State.infuserChunk
  simp only [hready, Bool.not_true, Bool.false_eq_true, if_false, hnext, ho, hk]
  rfl

end

/-! ### A shadow granule (R224, R225). -/

/-- An object that takes a shadow granule. -/
def Obj.shadowed (n g base : Nat) (o : Obj) : Obj :=
  { o with owner := some n, shadow := o.shadow ++ [(g, base)], shadowWait := 0, shadowTried := [] }

theorem State.shadowFill_fills {s : State} {pt num g n base : Nat} {o : Obj} (ho : s.dev.getObj pt num = some o) (hstate : bit o.attrs 1 = true)
    (howner : o.owner = none ∨ o.owner = some n) (hfree : Map.find o.shadow g = none) (hg : g < o.image.length)
    (hwanted : s.dev.shadowWanted n pt num g = true) (hroom : s.dev.room o.home o.lean 1 = some [base])
    (hstill : ∀ c ∈ s.dev.cl, ∀ va acc, c.2.stall ≠ .object va acc) :
    let src := o.image.getD g 0
    s.shadowFill pt num g n =
      (s.putGranule base (s.granuleMem src) (s.badLines src 0)).onDev fun d => d.modObj pt num (Obj.shadowed n g base) := by
  intro src
  unfold State.shadowFill
  simp only [ho, hstate, hfree, hwanted, hroom, Bool.not_true, Bool.false_eq_true, Option.isSome_none, false_or, or_false, List.headD_cons]
  rw [if_neg (by simpa using And.intro howner.resolve_left hg)]
  refine State.retryObjects_of_none (s := (s.putGranule base (s.granuleMem src) (s.badLines src 0)).onDev fun d => d.modObj pt num _) ?_
  rwa [State.onDev_dev, Dev.modObj_cl, State.putGranule_cl]

/-! ### The commands. -/

/-- Settles O34: each row by its rule above. -/
theorem rises : Obligations.Rises := by
  unfold Obligations.Rises
  intro s still steepWaits
  have hwaits {e : Dev} (he : e.ctxs = s.dev.ctxs) {pt num n : Nat} {c : Ctx} {y : Cmd} (h : steepWaits pt num n c y) :
      e.WaitsFor pt num 0x10 n y ∧ y.verdict = .completed ∧ ∀ p ∈ s.dev.parts, p.2.ctx ≠ n ∨ p.2.seq ≠ y.seq := by
    obtain ⟨hc, hpt, hnodup, hy, hop, hrun, hlate, hw, hparts⟩ := h
    exact ⟨Dev.waitsFor_of he hc hpt hnodup hy hop hrun hw, Cmd.verdict_of_none hlate, hparts⟩
  refine ⟨fun pt num o r ho hr => ⟨?room, ?complete, ?deadlock⟩, ?chunk, ?shadow⟩
  case room =>
    intro gs hready hroom hsink hgs
    obtain ⟨honly, z, hz⟩ := State.riseRoom_takes ho hr hready hroom hsink hgs
    exact ⟨_, z, rfl, honly, hz⟩
  case complete =>
    intro hres hroom hdone hnone hstill
    obtain ⟨honly, hz, hcmds⟩ := State.riseComplete_ends ho hr hres hroom hdone hnone hstill
    refine ⟨_, _, rfl, honly, hz, rfl, rfl, rfl, rfl, fun n c y h => ?_⟩
    obtain ⟨hy, hverdict, _⟩ := hwaits rfl h
    obtain ⟨v, hv, _, hstate, _⟩ := hcmds n y hy
    exact ⟨v, hv, hstate.trans hverdict⟩
  case deadlock =>
    intro hroom hsink hfits hnone
    obtain ⟨hbytes, hpow, ⟨old, hz⟩, hcmds⟩ := State.deadlock_ends ho hnone
    have heq := State.residencyDeadlock_never ho hr hroom hsink hfits
    refine ⟨_, _, congrArg Host.Outcome.next heq, hbytes, hpow, hz, by simp [Obj.fallen, hr], rfl, by simp [Obj.fallen, hr], rfl,
      fun n c y h => ?_⟩
    obtain ⟨hy, _, hparts⟩ := hwaits rfl h
    obtain ⟨v, hv, _, hstate, _⟩ := hcmds n y hy hparts
    exact ⟨v, hv, hstate⟩
  case chunk =>
    intro h pt ptr num c o hready hnext ho hc hwf base
    let s₁ := s.onDev fun d => d.turnInfuser h.val ptr false
    obtain ⟨bad, n, heq⟩ := State.riseChunk_eq (s := s₁) (pt := pt) (num := num) hc
    have hstep := (State.infuserChunk_rises hready ho hnext).trans heq
    obtain ⟨hpow, hmgmt, hin, hout⟩ := State.putGranule_spec (s := s₁) (base := base) (Mem.content_slice hwf (c * granule) granule) bad _
    refine ⟨_, Obj.chunked c o, congrArg Host.Outcome.next hstep, hpow, hmgmt, fun k hk => (hin k hk).trans (Mem.get_slice _ _ _ hk), hout, ?_, rfl⟩
    rw [State.onDev_dev, Dev.getObj_countPt, Dev.getObj_countPt]
    exact Dev.getObj_modObj_self ((State.putGranule_getObj s₁ _ _ _ pt num).trans ho) _
  case shadow =>
    intro pt num g n o base ho hstate howner hfree hg hwanted hroom hstill
    have hstep := State.shadowFill_fills ho hstate howner hfree hg hwanted hroom hstill
    obtain ⟨hpow, hmgmt, hin, hout⟩ := State.putGranule_spec (s := s) (base := base) (s.content_granuleMem (o.image.getD g 0))
      (s.badLines (o.image.getD g 0) 0) _
    refine ⟨_, Obj.shadowed n.val g base o, congrArg Host.Outcome.next hstep, hpow, hmgmt, ?_, rfl, rfl, rfl,
      fun k hk => (hin k hk).trans (s.get_granuleMem _ hk), hout⟩
    exact Dev.getObj_modObj_self ((State.putGranule_getObj s _ _ _ pt.val num).trans ho) _

end Sys2Proof.Machine
end

section
/-!
PROOFS. How objects sink (R217 to R221): O35.
-/

namespace Sys2Proof.Machine

/-! ### A chunk of a sink (R218 to R220). -/

/-- A write-down that has taken a chunk into its slot. -/
def SinkOp.wrote (c n : Nat) (bad : List Nat) (content : Mem) (k : SinkOp) : SinkOp :=
  { k with done := c :: k.done, sizes := Map.put k.sizes c n, bad := k.bad ++ bad, slot := Mem.refill k.slot (c * granule) granule content }

@[simp] theorem SinkOp.wrote_slot (c n : Nat) (bad : List Nat) (content : Mem) (k : SinkOp) :
    (k.wrote c n bad content).slot = Mem.refill k.slot (c * granule) granule content := rfl

/-- An object whose write-down has taken a chunk. -/
def Obj.wrote (c n : Nat) (bad : List Nat) (content : Mem) (o : Obj) : Obj := { o with sinkOp := o.sinkOp.map (SinkOp.wrote c n bad content) }

theorem State.granuleMem_congr {s t : State} (h : ∀ a, t.byte a = s.byte a) (base : Nat) : t.granuleMem base = s.granuleMem base := by
  simp only [State.granuleMem_eq, h]

section
variable {s : State} {pt num c : Nat} {o : Obj} (k : SinkOp) (hc : c < o.granules)
include hc

theorem State.sinkChunk_eq : let m := s.granuleMem (o.image.getD c 0)
    let n := chunkSize m o.hint
    let bad := s.badLines (o.image.getD c 0) c
    s.sinkChunk pt num c o k = if s.mgmt.store pt < s.dev.storeUsed pt + n then s.sinkNoRoom pt num k else
      s.onDev fun d => ((d.modObj pt num (Obj.wrote c n bad m)).countPt pt 0x08 granule).countPt pt 0x09 n := by
  unfold State.sinkChunk
  simp only [if_pos hc]
  rfl

/-- A chunk for which the object store has room is read into the slot, and changes nothing else of the object. -/
theorem State.sinkChunk_writes (ho : s.dev.getObj pt num = some o) (hk : o.sinkOp = some k)
    (hroom : s.dev.storeUsed pt + chunkSize (s.granuleMem (o.image.getD c 0)) o.hint ≤ s.mgmt.store pt) :
    OnlyDev s (s.sinkChunk pt num c o k) ∧ ∃ n bad, (s.sinkChunk pt num c o k).dev.getObj pt num =
      some { o with sinkOp := some (k.wrote c n bad (s.granuleMem (o.image.getD c 0))) } := by
  rw [State.sinkChunk_eq k hc, if_neg (by omega)]
  refine ⟨onlyDev_onDev s _, chunkSize (s.granuleMem (o.image.getD c 0)) o.hint, s.badLines (o.image.getD c 0) c, ?_⟩
  rw [State.onDev_dev, Dev.getObj_countPt, Dev.getObj_countPt, Dev.getObj_modObj_self ho, Obj.wrote, hk, Option.map_some]

end

/-- A write-down without room is cancelled (R220). -/
def Obj.unsunk (o : Obj) : Obj := { o with res := .resident, sinkOp := none }

/-- An object that waits for room has tried the eviction of another. -/
def Obj.passOver (num : Nat) (o : Obj) : Obj :=
  { o with rise := o.rise.map fun r => { r with tried := addOnce r.tried num }
           shadowTried := if o.shadowWait = 0 then o.shadowTried else addOnce o.shadowTried num }

/-- What a cancelled eviction was for passes to its next candidate. -/
def Dev.nextCandidate (d : Dev) (pt num : Nat) (evict : Bool) : Dev :=
  if !evict then d else d.modPt pt fun q => { q with objs := q.objs.map fun o => (o.1, o.2.passOver num) }

theorem Dev.nextCandidate_getObj {d : Dev} {pt num : Nat} {o : Obj} (ho : d.getObj pt num = some o) (evict : Bool) :
    ∃ rise tried, (d.nextCandidate pt num evict).getObj pt num = some { o with rise := rise, shadowTried := tried } := by
  unfold Dev.nextCandidate
  split
  · exact ⟨o.rise, o.shadowTried, ho⟩
  · refine ⟨(o.passOver num).rise, (o.passOver num).shadowTried, ?_⟩
    unfold Dev.getObj at ho ⊢
    rw [Dev.getPt_modPt_self, Map.find_map (fun _ (z : Obj) => z.passOver num), ho]
    rfl

theorem State.sinkNoRoom_eq (s : State) (pt num : Nat) (k : SinkOp) : s.sinkNoRoom pt num k =
    ((s.onDev fun d => (d.modObj pt num Obj.unsunk).countCtx k.ctx 0x10 1).onDev fun d => d.nextCandidate pt num k.evict).onDev
      fun d => ((d.sinkEnded pt num (some stNoResource)).resumeSinks pt num).demand pt := rfl

theorem State.sinkNoRoom_only (s : State) (pt num : Nat) (k : SinkOp) : OnlyDev s (s.sinkNoRoom pt num k) := by
  rw [State.sinkNoRoom_eq]
  exact ((onlyDev_onDev s _).trans (onlyDev_onDev _ _)).trans (onlyDev_onDev _ _)

/-- The object stays resident on its image, as dirty as it was. -/
theorem State.sinkNoRoom_stays {s : State} {pt num : Nat} {o : Obj} (ho : s.dev.getObj pt num = some o) (hnone : o.sinkWait = []) (k : SinkOp) :
    ∃ rise tried, (s.sinkNoRoom pt num k).dev.getObj pt num = some { o.unsunk with rise := rise, shadowTried := tried, sinkWait := [] } := by
  have hcount : ((s.dev.modObj pt num Obj.unsunk).countCtx k.ctx 0x10 1).getObj pt num = some o.unsunk := Dev.getObj_modObj_self ho _
  obtain ⟨rise, tried, hnext⟩ := Dev.nextCandidate_getObj hcount k.evict
  have hended := ((Dev.onlyCmds_sinkEnded _ pt num (some stNoResource)).getObj pt num).trans hnext
  refine ⟨rise, tried, ?_⟩
  rw [State.sinkNoRoom_eq, State.onDev_dev, State.onDev_dev, State.onDev_dev, Dev.resumeSinks_of_none hended hnone]
  exact Dev.demand_resident (Dev.getObj_modObj_self hended _) rfl

/-! ### The release point (R219, R221). -/

/-- The record once a write-down has reached the object store. -/
def Obj.kept (o : Obj) (k : SinkOp) : Option Mem :=
  if has k.done 0 then some (Mem.slice k.slot 0 (o.granules * granule) 0) else o.record

theorem Obj.take_eq (o : Obj) (k : SinkOp) : ∃ sizes bad pend pendSizes pendBad, o.take k =
    { o with record := o.kept k, sizes := sizes, recBad := bad, pend := pend, pendSizes := pendSizes, pendBad := pendBad } := by
  have himage : ∃ sizes bad, (if has k.done 0 then { o with
      record := some (Mem.slice k.slot 0 (o.granules * granule) 0), sizes := k.sizes.filter fun x => x.1 < o.granules
      recBad := k.bad.filter fun l => l < o.granules * 512 } else o) = { o with record := o.kept k, sizes := sizes, recBad := bad } := by
    unfold Obj.kept
    split
    · exact ⟨_, _, rfl⟩
    · exact ⟨o.sizes, o.recBad, rfl⟩
  obtain ⟨sizes, bad, himage⟩ := himage
  unfold Obj.take
  dsimp only
  rw [himage]
  split
  · exact ⟨sizes, bad, o.pend, o.pendSizes, o.pendBad, rfl⟩
  · exact ⟨sizes, bad, _, _, _, rfl⟩

/-- An object whose SINK with KEEP has ended. -/
def Obj.keepEnded (k : SinkOp) (o : Obj) : Obj := { o.take k with dirty := k.rewritten, sinkOp := none }

/-- An object whose sink has passed its release point. -/
def Obj.letOut (k : SinkOp) (o : Obj) : Obj :=
  { o.take k with dirty := false, sinkOp := some { k with released := true, slot := [], sizes := [] } }

section
variable {s : State} {pt num : Nat} {o : Obj} {k : SinkOp} (ho : s.dev.getObj pt num = some o) (hk : o.sinkOp = some k)
include ho hk

/-- Every chunk has been written down, and no pin holds the object's image: the release point is reached. -/
theorem State.sinkRelease_eq (hrel : k.released = false) (hfull : ∀ c ∈ o.sinkChunks k.keep, has k.done c = true)
    (hpins : k.keep = false → s.dev.pinCount pt num = 0) : s.sinkRelease pt num =
      if k.keep then (s.onDev fun d => (d.modObj pt num (Obj.keepEnded k)).sinkEnded pt num none).onDev fun d => d.resumeSinks pt num
      else s.onDev fun d => ((d.modObj pt num (Obj.letOut k)).sinkEnded pt num none).demand pt := by
  have hall : ((o.sinkChunks k.keep).all fun c => has k.done c) = true := List.all_eq_true.2 hfull
  unfold State.sinkRelease
  simp only [ho, hk, hrel, hall, Bool.false_eq_true, Bool.not_true, false_or]
  rw [if_neg (by simpa using hpins)]
  rfl

variable (hrel : k.released = false) (hfull : ∀ c ∈ o.sinkChunks k.keep, has k.done c = true)
  (hpins : k.keep = false → s.dev.pinCount pt num = 0) (hnone : o.sinkWait = [])
include hrel hfull hpins hnone

/-- A SINK with KEEP ends: the slot is the record, and the object stays as it stands. -/
theorem State.sinkRelease_keep (hkeep : k.keep = true) : OnlyDev s (s.sinkRelease pt num) ∧
    (s.sinkRelease pt num).dev.getObj pt num = some { o.keepEnded k with sinkWait := [] } ∧
      ∀ n y, s.dev.WaitsFor pt num 0x11 n y → (s.sinkRelease pt num).dev.Ended n y.seq y.verdict := by
  let d := (s.dev.modObj pt num (Obj.keepEnded k)).sinkEnded pt num none
  have hobj : (s.dev.modObj pt num (Obj.keepEnded k)).getObj pt num = some (o.keepEnded k) := Dev.getObj_modObj_self ho _
  have hwait : (o.keepEnded k).sinkWait = [] := by
    obtain ⟨_, _, _, _, _, htake⟩ := Obj.take_eq o k
    rw [Obj.keepEnded, htake]
    exact hnone
  have hd : d.getObj pt num = some (o.keepEnded k) := ((Dev.onlyCmds_sinkEnded _ pt num none).getObj pt num).trans hobj
  rw [State.sinkRelease_eq ho hk hrel hfull hpins, if_pos hkeep]
  refine ⟨(onlyDev_onDev s _).trans (onlyDev_onDev _ _), ?_, fun n y hy => ?_⟩ <;> rw [State.onDev_dev, State.onDev_dev, Dev.resumeSinks_of_none hd hwait]
  · exact Dev.getObj_modObj_self hd _
  · exact Dev.WaitsFor.sinkEnded (d := s.dev.modObj pt num (Obj.keepEnded k)) ⟨hy.ctx, hy.cmd, hy.op, hy.running, hy.waits⟩ hobj hwait

/-- A sink passes its release point: the slot is the record, the object is clean, and may rise again. -/
theorem State.sinkRelease_lets_out (hkeep : k.keep = false) : OnlyDev s (s.sinkRelease pt num) ∧
    (∃ z, (s.sinkRelease pt num).dev.getObj pt num = some z ∧ (o.letOut k).Steeped z) ∧
      ∀ n y, s.dev.WaitsFor pt num 0x11 n y → (s.sinkRelease pt num).dev.Ended n y.seq y.verdict := by
  have hobj : (s.dev.modObj pt num (Obj.letOut k)).getObj pt num = some (o.letOut k) := Dev.getObj_modObj_self ho _
  have hwait : (o.letOut k).sinkWait = [] := by
    obtain ⟨_, _, _, _, _, htake⟩ := Obj.take_eq o k
    rw [Obj.letOut, htake]
    exact hnone
  rw [State.sinkRelease_eq ho hk hrel hfull hpins, if_neg (by simp [hkeep])]
  refine ⟨onlyDev_onDev s _, ?_, fun n y hy => ?_⟩
  · exact Dev.demand_getObj (((Dev.onlyCmds_sinkEnded _ pt num none).getObj pt num).trans hobj) fun _ => rfl
  · refine Dev.Ended.demand ?_ pt
    exact Dev.WaitsFor.sinkEnded (d := s.dev.modObj pt num (Obj.letOut k)) ⟨hy.ctx, hy.cmd, hy.op, hy.running, hy.waits⟩ hobj hwait

end

/-! ### The end of a drain (R219). -/

/-- An object that has no granule any longer. -/
def Obj.drained (o : Obj) : Obj :=
  { o with image := [], shadow := [], sinkOp := none, res := if o.res = .sinking then .caddyOnly else o.res }

theorem State.drainEnd_drains {s : State} {pt num : Nat} {o : Obj} (ho : s.dev.getObj pt num = some o) (hrel : o.released = true) :
    OnlyDev s (s.drainEnd pt num) ∧ ∃ z, (s.drainEnd pt num).dev.getObj pt num = some z ∧ o.drained.Steeped z := by
  unfold State.drainEnd
  rw [ho]
  dsimp only
  rw [if_pos hrel]
  refine ⟨onlyDev_onDev s _, Dev.demand_getObj (o := o.drained) (Dev.getObj_modObj_self ho Obj.drained) fun hs => ?_⟩
  unfold Obj.drained at hs
  dsimp only at hs
  split at hs
  · cases hs
  · contradiction

/-! ### The commands. -/

/-- Settles O35: each row by its rule above. -/
theorem sinks : Obligations.Sinks := by
  unfold Obligations.Sinks
  intro s
  refine ⟨fun h pt ptr num c o k hready hnext ho hk hc => ⟨?chunk, ?cancelled⟩, fun pt num o k ho hk => ?ends⟩
  case chunk =>
    intro hroom
    let s₁ := s.onDev fun d => d.turnInfuser h.val ptr true
    have hmem := State.granuleMem_congr (s := s) (t := s₁) (fun _ => rfl) (o.image.getD c 0)
    obtain ⟨honly, n, bad, hz⟩ := State.sinkChunk_writes (s := s₁) k hc ho hk (hmem.symm ▸ hroom)
    rw [hmem] at hz
    refine ⟨_, _, _, congrArg Host.Outcome.next (State.infuserChunk_sinks hready ho hnext hk), (onlyDev_onDev s _).trans honly, hz, rfl, rfl, rfl,
      fun i hi => ?_, fun a ha => ?_⟩ <;> rw [SinkOp.wrote_slot]
    · rw [(s.content_granuleMem _).get_refill _ _ hi, s.get_granuleMem _ hi]
    · rw [(s.content_granuleMem _).get_refill_other _ _ (by rwa [Nat.add_mul, Nat.one_mul] at ha)]
  case cancelled =>
    intro hfull hnone
    let s₁ := s.onDev fun d => d.turnInfuser h.val ptr true
    have hmem := State.granuleMem_congr (s := s) (t := s₁) (fun _ => rfl) (o.image.getD c 0)
    have hstep : s.infuserChunk h.val false = s₁.sinkNoRoom pt num k := by
      rw [State.infuserChunk_sinks hready ho hnext hk, State.sinkChunk_eq k hc, hmem]
      exact if_pos (Nat.lt_of_not_le hfull)
    obtain ⟨rise, tried, hz⟩ := State.sinkNoRoom_stays (s := s₁) ho hnone k
    exact ⟨_, _, congrArg Host.Outcome.next hstep, (onlyDev_onDev s _).trans (State.sinkNoRoom_only s₁ pt num k), hz, rfl, rfl, rfl, rfl, rfl⟩
  case ends =>
    intro kept sinkWaits
    refine ⟨?release, ?drain⟩
    case release =>
      intro hrel hfull hpins hnone
      have hwaits {n : Nat} {c : Ctx} {y : Cmd} (h : sinkWaits n c y) : s.dev.WaitsFor pt.val num 0x11 n y ∧ y.verdict = .completed := by
        obtain ⟨hc, hpt, hnodup, hy, hop, hrun, hlate, hw⟩ := h
        exact ⟨Dev.waitsFor_of rfl hc hpt hnodup hy hop hrun hw, Cmd.verdict_of_none hlate⟩
      obtain ⟨_, _, _, _, _, htake⟩ := Obj.take_eq o k
      cases hkeep : k.keep with
      | true =>
        obtain ⟨honly, hz, hcmds⟩ := State.sinkRelease_keep ho hk hrel hfull hpins hnone hkeep
        refine ⟨_, _, rfl, honly, hz, ?_, fun _ => ⟨rfl, rfl, ?_⟩, fun hno => absurd hno (by simp), fun n c y h => ?_⟩
        · rw [Obj.keepEnded, htake]
          rfl
        · rw [Obj.keepEnded, htake]
        · obtain ⟨hy, hverdict⟩ := hwaits h
          obtain ⟨v, hv, _, hstate, _⟩ := hcmds n y hy
          exact ⟨v, hv, hstate.trans hverdict⟩
      | false =>
        obtain ⟨honly, ⟨z, hz, hsteep⟩, hcmds⟩ := State.sinkRelease_lets_out ho hk hrel hfull hpins hnone hkeep
        refine ⟨_, z, rfl, honly, hz, ?_, fun hyes => absurd hyes (by simp), fun _ => ⟨?_, ?_⟩, fun n c y h => ?_⟩
        · rw [hsteep.rest, Obj.letOut, htake]
          rfl
        · rw [hsteep.rest]
          rfl
        · rw [hsteep.rest]
          rfl
        · obtain ⟨hy, hverdict⟩ := hwaits h
          obtain ⟨v, hv, _, hstate, _⟩ := hcmds n y hy
          exact ⟨v, hv, hstate.trans hverdict⟩
    case drain =>
      intro hrel
      obtain ⟨honly, z, hz, hsteep⟩ := State.drainEnd_drains ho (by rw [Obj.released, hk]; exact hrel)
      refine ⟨_, z, rfl, honly, hz, by rw [hsteep.rest]; rfl, by rw [hsteep.rest]; rfl, by rw [hsteep.rest]; rfl, by rw [hsteep.rest]; rfl, fun hs => ?_⟩
      exact hsteep.res.imp_left fun hr => hr.trans (if_pos hs)

end Sys2Proof.Machine
end

section
/-!
PROOFS. Frame classes and object policies (R202, R203, R206, R283): O20.
-/

namespace Sys2Proof.Machine

/-! ### Frames that are zeroed (R283). -/

/-- A memory in which frames of a terrace are rewritten as zero. -/
def State.zeroFrames (s : State) (t : Nat) (fs : List Nat) : State :=
  fs.foldl (fun s f => s.onMem fun x => x.zero (hbmPa t (f * 2 ^ 30)) (2 ^ 30)) s

/-- Only memory differs: each byte of the frames is zero, and every other is as before. -/
theorem State.zeroFrames_spec (t : Nat) (fs : List Nat) : ∀ s : State, (∃ m, s.zeroFrames t fs = { s with mem := m }) ∧
    ∀ a, Mem.get (s.zeroFrames t fs).mem.bytes a =
      if ∃ f ∈ fs, hbmPa t (f * 2 ^ 30) ≤ a ∧ a < hbmPa t (f * 2 ^ 30) + 2 ^ 30 then 0 else Mem.get s.mem.bytes a := by
  induction fs with
  | nil => exact fun s => ⟨⟨s.mem, rfl⟩, fun a => by simp [State.zeroFrames]⟩
  | cons f fs ih =>
    intro s
    obtain ⟨⟨m, hm⟩, hget⟩ := ih (s.onMem fun x => x.zero (hbmPa t (f * 2 ^ 30)) (2 ^ 30))
    refine ⟨⟨m, hm⟩, fun a => (hget a).trans ?_⟩
    have hzero : Mem.get (s.onMem fun x => x.zero (hbmPa t (f * 2 ^ 30)) (2 ^ 30)).mem.bytes a =
        if hbmPa t (f * 2 ^ 30) ≤ a ∧ a < hbmPa t (f * 2 ^ 30) + 2 ^ 30 then 0 else Mem.get s.mem.bytes a := Mem.get_zero _ _ _ _
    rw [hzero]
    by_cases hf : hbmPa t (f * 2 ^ 30) ≤ a ∧ a < hbmPa t (f * 2 ^ 30) + 2 ^ 30
    · rw [if_pos hf, ite_self, if_pos ⟨f, List.mem_cons_self .., hf⟩]
    · rw [if_neg hf]
      refine if_congr ⟨fun ⟨g, hg, h⟩ => ⟨g, List.mem_cons_of_mem _ hg, h⟩, fun ⟨g, hg, h⟩ => ?_⟩ rfl rfl
      rcases List.mem_cons.1 hg with rfl | hg
      · exact absurd h hf
      · exact ⟨g, hg, h⟩

/-- A frame of a terrace whose listed frames have been given a class. -/
theorem frame_of_class (cls : Nat) (fs : List Nat) (f : Nat) : ∀ x : Terrace,
    ({ x with frames := fs.foldl (fun l f => Map.put l f cls) x.frames } : Terrace).frame f = if f ∈ fs then cls else x.frame f := by
  induction fs with
  | nil => exact fun x => by simp
  | cons g fs ih =>
    intro x
    refine (ih { x with frames := Map.put x.frames g cls }).trans ?_
    unfold Terrace.frame
    dsimp only
    rw [Map.get_put]
    by_cases hf : f ∈ fs
    · simp [hf]
    · by_cases hg : g = f
      · simp [hg]
      · simp [hf, hg, Ne.symm hg]

theorem mem_run {first count f : Nat} : f ∈ (List.range count).map (fun k => first + k) ↔ first ≤ f ∧ f < first + count := by
  simp only [List.mem_map, List.mem_range]
  exact ⟨fun ⟨k, hk, h⟩ => by omega, fun h => ⟨f - first, by omega, by omega⟩⟩

/-! ### FRAME_CLASS (R202, R283). -/

/-- The frames of a run whose protection changes with their class. -/
def Dev.reprotected (d : Dev) (t cls first count : Nat) : List Nat :=
  ((List.range count).map fun k => first + k).filter fun f => bit ((d.getTerr t).frame f) 0 ≠ bit cls 0

theorem Dev.mem_reprotected {d : Dev} {t cls first count f : Nat} :
    f ∈ d.reprotected t cls first count ↔ (first ≤ f ∧ f < first + count) ∧ bit ((d.getTerr t).frame f) 0 ≠ bit cls 0 := by
  rw [Dev.reprotected, List.mem_filter, mem_run, decide_eq_true_iff]

/-- The state in which a run of frames has its class. -/
def State.classed (s : State) (t cls first count : Nat) : State :=
  (s.zeroFrames t (s.dev.reprotected t cls first count)).onDev fun d => d.modTerr t fun x =>
    { x with frames := ((List.range count).map fun k => first + k).foldl (fun l f => Map.put l f cls) x.frames }

section
variable (s : State) (t cls first count : Nat)

theorem State.classed_rest : (s.classed t cls first count).pow = s.pow ∧ (s.classed t cls first count).mgmt = s.mgmt := by
  obtain ⟨m, hm⟩ := (State.zeroFrames_spec t (s.dev.reprotected t cls first count) s).1
  unfold State.classed
  rw [hm]
  exact ⟨rfl, rfl⟩

theorem State.classed_frame (f : Nat) : ((s.classed t cls first count).dev.getTerr t).frame f =
    if first ≤ f ∧ f < first + count then cls else (s.dev.getTerr t).frame f := by
  obtain ⟨m, hm⟩ := (State.zeroFrames_spec t (s.dev.reprotected t cls first count) s).1
  unfold State.classed
  rw [State.onDev_dev, Dev.getTerr_modTerr_self, frame_of_class, hm]
  exact if_congr mem_run rfl rfl

theorem State.classed_get (a : Nat) : Mem.get (s.classed t cls first count).mem.bytes a =
    if ∃ f ∈ s.dev.reprotected t cls first count, hbmPa t (f * 2 ^ 30) ≤ a ∧ a < hbmPa t (f * 2 ^ 30) + 2 ^ 30 then 0
    else Mem.get s.mem.bytes a :=
  (State.zeroFrames_spec t (s.dev.reprotected t cls first count) s).2 a

end

theorem State.frameClass_of_ok {s : State} {m : MsgIn} {c : Ctx} (hc : s.dev.getCtx m.n = some c) (h191 : field m.b 17 1 ≤ 191)
    (hcount : field m.b 18 1 ≠ 0) (h192 : field m.b 17 1 + field m.b 18 1 ≤ 192) (hcls : field m.b 19 1 < 4)
    (hown : has (s.mgmt.terraces c.pt) (field m.b 16 1) = true)
    (hok : ∀ f, field m.b 17 1 ≤ f → f < field m.b 17 1 + field m.b 18 1 →
      s.dev.frameRefusal (field m.b 16 1) f (field m.b 19 1) = none ∧ (186 ≤ f → bit (field m.b 19 1) 1 = true)) :
    s.frameClass m = (s.classed (field m.b 16 1) (field m.b 19 1) (field m.b 17 1) (field m.b 18 1)).reply m.back 0 [] := by
  have hnone (p : Nat → Bool) (hp : ∀ f, field m.b 17 1 ≤ f → f < field m.b 17 1 + field m.b 18 1 → p f = false) :
      ¬ ((List.range (field m.b 18 1)).map fun k => field m.b 17 1 + k).any p = true := by
    rw [Bool.not_eq_true, List.any_eq_false]
    exact fun f hf => by simp [hp f (mem_run.1 hf).1 (mem_run.1 hf).2]
  have hreserve := hnone (fun f => 186 ≤ f && !bit (field m.b 19 1) 1) fun f h1 h2 => by simpa using (hok f h1 h2).2
  have hmapped := hnone (fun f => s.dev.frameRefusal (field m.b 16 1) f (field m.b 19 1) = some 6) fun f h1 h2 => by simp [(hok f h1 h2).1]
  have hbusy := hnone (fun f => (s.dev.frameRefusal (field m.b 16 1) f (field m.b 19 1)).isSome) fun f h1 h2 => by simp [(hok f h1 h2).1]
  unfold State.frameClass State.inCtx
  rw [hc]
  dsimp only
  rw [if_neg (by omega), if_neg (by simp [hown]), if_neg hreserve, if_neg hmapped, if_neg hbusy]
  rfl

/-! ### OBJ_REGISTER and OBJ_POLICY (R203, R206). -/

/-- The object that a policy block registers. -/
def Obj.registered (b : Bytes) (reg : Nat) : Obj :=
  { reg := reg, granules := field b 20 4, home := field b 24 1, expertHome := field b 25 1, attrs := field b 26 1, hint := field b 27 1
    elemOff := field b 28 4, elemLen := field b 32 4, scaleOff := field b 36 4, scaleLen := field b 40 4 }

/-- A partition's table takes an object. -/
def Dev.register (d : Dev) (pt num : Nat) (o : Obj) : Dev :=
  { d.modPt pt fun q => { q with objs := Map.put q.objs num o } with nextReg := d.nextReg + 1 }

theorem Dev.register_getObj (d : Dev) (pt num : Nat) (o : Obj) (k : Nat) :
    (d.register pt num o).getObj pt k = if num = k then some o else d.getObj pt k := by
  show Map.find ((d.modPt pt fun q => { q with objs := Map.put q.objs num o }).getPt pt).objs k = _
  rw [Dev.getPt_modPt_self]
  exact Map.find_put _ _ _ _

/-- An object leaves its partition's table, and what waits for it is given up. -/
def Dev.release (d : Dev) (pt num : Nat) : Dev :=
  ((d.modPt pt fun q => { q with objs := Map.del q.objs num }).giveUp pt num 0x10 4).giveUp pt num 0x11 4

theorem Dev.release_getObj (d : Dev) (pt num : Nat) : (d.release pt num).getObj pt num = none := by
  rw [Dev.release, (Dev.onlyCmds_giveUp _ _ _ _ _).getObj, (Dev.onlyCmds_giveUp _ _ _ _ _).getObj, Dev.getObj, Dev.getPt_modPt_self,
    Map.find_del, if_pos rfl]

section
variable {s : State} {m : MsgIn} {c : Ctx} (hc : s.dev.getCtx m.n = some c) (hres : policyReserved m.b = false)
  (hown : s.mgmt.policyOwner c.pt m.b = false)
include hc hres hown

theorem State.objRegister_of_ok (hchange : field m.b 44 1 = 0) (hnum : field m.b 16 4 < 2 ^ 22) (hzero : field m.b 20 4 ≠ 0)
    (hmax : field m.b 20 4 ≤ 262144) (hfield : policyField m.b (field m.b 20 4) = false) (hnew : s.dev.getObj c.pt (field m.b 16 4) = none) :
    s.objRegister m = (s.onDev fun d => d.register c.pt (field m.b 16 4) (.registered m.b s.dev.nextReg)).reply m.back 0 [] := by
  unfold State.objRegister State.inCtx
  rw [hc]
  dsimp only
  rw [if_neg (by simp [hres, hchange, hzero, hfield, hnew]; omega), if_neg (by simp [hown])]
  rfl

theorem State.objPolicy_of_ok {o : Obj} (hnum : field m.b 16 4 < 2 ^ 22) (hbits : bits (field m.b 44 1) 6 4 = 0)
    (ho : s.dev.getObj c.pt (field m.b 16 4) = some o) (hfield : policyField m.b o.granules = false)
    (hbusy : s.dev.policyBusy c.pt (field m.b 16 4) (field m.b 44 1) o = false) :
    s.objPolicy m = (s.onDev fun d => if bit (field m.b 44 1) 7 then d.release c.pt (field m.b 16 4)
      else d.modObj c.pt (field m.b 16 4) fun o => o.policy m.b (field m.b 44 1)).reply m.back 0 [] := by
  unfold State.objPolicy State.inCtx
  rw [hc]
  dsimp only
  rw [if_neg (by simp [hres, hbits]; omega), ho]
  dsimp only
  rw [if_neg (by simp [hfield]), if_neg (by simp [hown]), if_neg (by simp [hbusy])]
  rfl

end

/-! ### The messages. -/

/-- Settles O20: each message reaches its handler, which answers by its rule above. -/
theorem framesAndObjects : Obligations.FramesAndObjects := by
  unfold Obligations.FramesAndObjects
  intro s mb m c ht hc u t first count cls num change
  obtain ⟨hpending, htime, hmem, hpow, hmgmt⟩ := State.takeHead_only s mb
  refine ⟨?frames, ?register, ?policy⟩
  case frames =>
    intro hop h191 hcount h192 hcls hown hok
    obtain ⟨kpow, kmgmt⟩ := State.classed_rest u t cls first count
    refine ⟨u.classed t cls first count, congrArg Host.Outcome.next ((message_taken ht (isOp_of_op hop) _).trans
        (State.frameClass_of_ok hc h191 hcount h192 hcls hown hok)), kpow.trans hpow, kmgmt.trans hmgmt, fun f h1 h2 => ?_, fun f hf => ?_,
      fun f a h1 h2 hbit hlo hhi => ?_, fun a ha => ?_⟩
    · rw [State.classed_frame, if_pos ⟨h1, h2⟩]
    · rw [State.classed_frame, if_neg (by omega)]
    · rw [State.classed_get, if_pos ⟨f, Dev.mem_reprotected.2 ⟨⟨h1, h2⟩, hbit⟩, hlo, hhi⟩]
    · rw [State.classed_get, if_neg, hmem]
      rintro ⟨f, hf, hlo, hhi⟩
      obtain ⟨⟨h1, h2⟩, _⟩ := Dev.mem_reprotected.1 hf
      unfold hbmPa at ha hlo hhi
      omega
  case register =>
    intro hop hres hchange hnum hzero hmax hfield hnew hown
    refine ⟨_, .registered m.b u.dev.nextReg, congrArg Host.Outcome.next ((message_taken ht (isOp_of_op hop) _).trans
        (State.objRegister_of_ok hc hres hown hchange hnum hzero hmax hfield hnew)), (State.takeHead_only s mb).trans (onlyDev_onDev _ _),
      ?_, rfl, rfl, rfl, rfl, rfl, rfl, fun k hk => ?_⟩ <;> rw [State.onDev_dev, Dev.register_getObj]
    · exact if_pos rfl
    · exact if_neg (Ne.symm hk)
  case policy =>
    intro hop hnum hres hbits o ho hfield hown hbusy
    have hstep := (message_taken ht (isOp_of_op hop) fun m s => s.objPolicy m).trans (State.objPolicy_of_ok hc hres hown hnum hbits ho hfield hbusy)
    refine ⟨fun h7 => ⟨_, congrArg Host.Outcome.next hstep, (State.takeHead_only s mb).trans (onlyDev_onDev _ _), ?_⟩,
      fun h7 => ⟨_, congrArg Host.Outcome.next hstep, ?_⟩⟩
    · rw [State.onDev_dev, if_neg (ne_true_of_eq_false h7)]
      exact Dev.getObj_modObj_self ho _
    · rw [State.onDev_dev, if_pos h7]
      exact Dev.release_getObj _ _ _

end Sys2Proof.Machine
end

section
/-!
PROOFS. A byte of device memory as its home serves it (R232, R233, R236): the copies that server
cores hold, and what a write at a home, a write of bytes within a line and a write-back leave.
-/

namespace Sys2Proof.Machine

/-! ### Server-core copies of a line (R236, R244). -/

/-- A core without its copies of a line, and without a reservation on it. -/
def Core.without (line : Nat) (x : Core) : Core :=
  { x with
    dirty := Map.del x.dirty line
    clean := x.clean.filter (fun l => l ≠ line)
    resv := if x.resv = some line then none else x.resv }

/-- A core after a line that it holds dirty was written back: it holds the line clean. -/
def Core.wroteBack (line : Nat) (x : Core) : Core :=
  if (Map.find x.dirty line).isSome then { x with dirty := Map.del x.dirty line, clean := addOnce x.clean line } else x

theorem Dev.getCore_map (d : Dev) {f : Core → Core} (hf : f {} = {}) (k : Nat) :
    ({ d with cores := d.cores.map fun c => (c.1, f c.2) } : Dev).getCore k = f (d.getCore k) := by
  unfold Dev.getCore Map.get
  dsimp only
  rw [Map.find_map fun _ x => f x]
  cases Map.find d.cores k with
  | none => exact hf.symm
  | some x => rfl

theorem Dev.getCore_dropLine (d : Dev) (line k : Nat) :
    (d.dropLine line).getCore k = (d.getCore k).without line :=
  Dev.getCore_map d (f := Core.without line) rfl k

theorem Dev.getCore_gather (d : Dev) (line k : Nat) : (d.gather line).getCore k = d.getCore k := by
  obtain ⟨x, hx⟩ := Dev.gather_stripes d line
  rw [hx]
  rfl

theorem State.getCore_homeWrite (s : State) (line : Nat) (mask : BitVec 128) (data : Bytes) (k : Nat) :
    (s.homeWrite line mask data).dev.getCore k = (s.dev.getCore k).without line :=
  (Dev.getCore_gather _ _ _).trans (Dev.getCore_dropLine _ _ _)

theorem Core.without_resv (x : Core) (line : Nat) : (x.without line).resv ≠ some line := by
  unfold Core.without
  dsimp only
  split
  · exact fun h => by cases h
  · assumption

theorem Core.find_wroteBack_dirty (x : Core) (line l : Nat) :
    Map.find (x.wroteBack line).dirty l = if line = l then none else Map.find x.dirty l := by
  unfold Core.wroteBack
  split
  · exact Map.find_del _ _ _
  · rename_i h
    split
    · rename_i hl
      exact hl ▸ Option.not_isSome_iff_eq_none.1 h
    · rfl

/-! ### The dirty copy of a line. -/

theorem Dev.dirtyCopy_congr {d e : Dev} {line : Nat}
    (h : ∀ k, Map.find (e.getCore k).dirty line = Map.find (d.getCore k).dirty line) :
    e.dirtyCopy line = d.dirtyCopy line := by
  unfold Dev.dirtyCopy
  simp only [h]

theorem Dev.dirtyCopy_eq_none {d : Dev} {line : Nat}
    (h : ∀ k, Map.find (d.getCore k).dirty line = none) : d.dirtyCopy line = none :=
  List.findSome?_eq_none_iff.2 fun k _ => h k

/-- Where one core alone may hold a line dirty, its copy is the dirty copy. -/
theorem Dev.dirtyCopy_of_owner {d : Dev} {c line : Nat} (hc : c < 96)
    (h : ∀ k, k ≠ c → Map.find (d.getCore k).dirty line = none) :
    d.dirtyCopy line = Map.find (d.getCore c).dirty line := by
  cases hf : Map.find (d.getCore c).dirty line with
  | none => exact Dev.dirtyCopy_eq_none fun k => (eq_or_ne k c).elim (fun hk => hk ▸ hf) (h k)
  | some bs =>
    unfold Dev.dirtyCopy
    cases hd : (List.range 96).findSome? fun c => Map.find (d.getCore c).dirty line with
    | none => exact (List.findSome?_eq_none_iff.1 hd c (List.mem_range.2 hc)).symm.trans hf
    | some bs' =>
      obtain ⟨k, _, hk⟩ := List.exists_of_findSome?_eq_some hd
      obtain rfl : k = c := by
        by_contra hne
        rw [h k hne] at hk
        cases hk
      exact hk.symm.trans hf

/-! ### Bytes of a line written under a mask (R233). -/

theorem Memory.get_bytesUnder (m : Mem) (line : Nat) (mask : BitVec 128) (data : Bytes) (b : Nat) :
    Mem.get (Memory.bytesUnder m line mask data) b =
      if b / 128 = line ∧ mask.getLsbD (b % 128) = true then data.getD (b % 128) 0 else Mem.get m b := by
  refine (get_foldl_set_if (fun i => mask.getLsbD i) data (line * 128) m 128 b).trans ?_
  have hmod (h : b / 128 = line) : b - line * 128 = b % 128 := by omega
  by_cases hb : b / 128 = line
  · rw [hmod hb]
    exact if_congr ⟨fun h => ⟨hb, h.2.2⟩, fun h => ⟨by omega, by omega, h.2⟩⟩ rfl rfl
  · rw [if_neg (by omega), if_neg fun h => hb h.1]

theorem Memory.writeLine_bytes (m : Memory) (lean : Bool) (line : Nat) (mask : BitVec 128) (data : Bytes) :
    (m.writeLine lean line mask data).bytes = Memory.bytesUnder m.bytes line mask data := by
  unfold Memory.writeLine Memory.setPoison
  rfl

theorem Memory.get_writeLine (m : Memory) (lean : Bool) (line : Nat) (mask : BitVec 128) (data : Bytes)
    (b : Nat) :
    Mem.get (m.writeLine lean line mask data).bytes b =
      if b / 128 = line ∧ mask.getLsbD (b % 128) = true then data.getD (b % 128) 0 else Mem.get m.bytes b :=
  (congrArg (fun bytes => Mem.get bytes b) (m.writeLine_bytes lean line mask data)).trans (Memory.get_bytesUnder _ _ _ _ _)

theorem getLsbD_fullMask (b : Nat) : fullMask.getLsbD (b % 128) = true := by
  rw [fullMask, BitVec.getLsbD_allOnes]
  exact decide_eq_true (by omega)

theorem Memory.get_writeLine_full (m : Memory) (lean : Bool) (line : Nat) (data : Bytes) (b : Nat) :
    Mem.get (m.writeLine lean line fullMask data).bytes b = if b / 128 = line then data.getD (b % 128) 0
        else Mem.get m.bytes b := by
  rw [Memory.get_writeLine]
  exact if_congr (and_iff_left (getLsbD_fullMask b)) rfl rfl

/-! ### Bytes as their homes serve them (R236). -/

theorem State.byte_of_dirty {s : State} {a : Nat} {bs : Bytes}
    (h : s.dev.dirtyCopy (a / 128) = some bs) : s.byte a = bs.getD (a % 128) 0 := by
  unfold State.byte
  rw [h]

theorem State.byte_of_clean {s : State} {a : Nat} (h : s.dev.dirtyCopy (a / 128) = none) :
    s.byte a = Mem.get s.mem.bytes a := by
  unfold State.byte
  rw [h]

theorem State.byte_congr {s t : State} {a : Nat} (hd : t.dev.dirtyCopy (a / 128) = s.dev.dirtyCopy (a / 128))
    (hm : Mem.get t.mem.bytes a = Mem.get s.mem.bytes a) : t.byte a = s.byte a := by
  unfold State.byte
  rw [hd, hm]

/-- A change of the data path under which every core holds a byte's line dirty as before. -/
theorem State.byte_onDev {s : State} {f : Dev → Dev} {b : Nat}
    (h : ∀ k, Map.find ((f s.dev).getCore k).dirty (b / 128) = Map.find (s.dev.getCore k).dirty (b / 128)) : (s.onDev f).byte b = s.byte b :=
  State.byte_congr (Dev.dirtyCopy_congr h) (by rw [State.onDev_mem])

theorem State.readPa_congr {s t : State} (h : ∀ b, t.byte b = s.byte b) (a n : Nat) :
    t.readPa a n = s.readPa a n := by
  unfold State.readPa
  simp only [h]

theorem State.length_readPa (s : State) (a n : Nat) : (s.readPa a n).length = n := by
  simp [State.readPa]

theorem State.getD_readPa (s : State) (a : Nat) {n i : Nat} (h : i < n) :
    (s.readPa a n).getD i 0 = s.byte (a + i) := by
  simp [State.readPa, List.getD, h]

/-- Writing back the dirty copy of a line, if there is one, leaves in memory what its home serves. -/
theorem State.get_recalled (s : State) (lean : Bool) (line b : Nat) :
    Mem.get (match s.dev.dirtyCopy line with | some bs => s.mem.writeLine lean line fullMask bs | none => s.mem).bytes b =
      if b / 128 = line then s.byte b else Mem.get s.mem.bytes b := by
  cases hd : s.dev.dirtyCopy line with
  | none =>
    dsimp only
    split
    · rename_i hb
      exact (State.byte_of_clean (hb ▸ hd)).symm
    · rfl
  | some bs =>
    refine (Memory.get_writeLine_full _ _ _ _ _).trans ?_
    split
    · rename_i hb
      exact (State.byte_of_dirty (hb ▸ hd)).symm
    · rfl

/-- A write at a home leaves its bytes under its mask, and every other byte as it was. -/
theorem State.byte_homeWrite (s : State) (line : Nat) (mask : BitVec 128) (data : Bytes) (b : Nat) :
    (s.homeWrite line mask data).byte b =
      if b / 128 = line ∧ mask.getLsbD (b % 128) = true then data.getD (b % 128) 0 else s.byte b := by
  have hfind (k l : Nat) : Map.find ((s.homeWrite line mask data).dev.getCore k).dirty l =
      if line = l then none else Map.find (s.dev.getCore k).dirty l := by
    rw [State.getCore_homeWrite]
    exact Map.find_del _ _ _
  have hmem : Mem.get (s.homeWrite line mask data).mem.bytes b =
      if b / 128 = line ∧ mask.getLsbD (b % 128) = true then data.getD (b % 128) 0
      else if b / 128 = line then s.byte b else Mem.get s.mem.bytes b := by
    rw [← s.get_recalled (s.dev.lean (line * 128)) line b]
    exact Memory.get_writeLine _ _ _ _ _ _
  by_cases hb : b / 128 = line
  · rw [State.byte_of_clean (Dev.dirtyCopy_eq_none fun k => by rw [hfind, if_pos hb.symm]), hmem]
    rw [if_pos hb]
  · rw [if_neg fun h => hb h.1, if_neg hb] at hmem
    rw [if_neg fun h => hb h.1]
    exact State.byte_congr (Dev.dirtyCopy_congr fun k => by rw [hfind, if_neg (Ne.symm hb)]) hmem

/-! ### Bytes written within a line. -/

/-- The bytes of a line that holds some bytes from an offset on. -/
def lineOf (off : Nat) (bs : Bytes) : Bytes :=
    List.replicate off 0 ++ bs ++ List.replicate (128 - off - bs.length) 0

theorem getD_lineOf {off k : Nat} {bs : Bytes} (h1 : off ≤ k) (h2 : k < off + bs.length) :
    (lineOf off bs).getD k 0 = bs.getD (k - off) 0 := by
  rw [lineOf, List.append_assoc, List.getD_append_right _ _ _ _ (by simpa using h1), List.length_replicate,
    List.getD_append _ _ _ _ (by omega)]

/-- Bytes that stay within a line are one write. -/
theorem lineSplit_line {a fuel : Nat} {bs : Bytes} (h : a % 128 + bs.length ≤ 128) (hne : bs ≠ []) :
    lineSplit (fuel + 2) a bs = [(a / 128, maskOf (a % 128) bs.length, lineOf (a % 128) bs)] := by
  have hmin : min (128 - a % 128) bs.length = bs.length := by omega
  rw [lineSplit_succ hne, hmin, List.take_length, List.drop_length]
  unfold lineSplit
  rfl

/-- The byte that a write of some bytes within a line leaves at an address. -/
theorem masked_lineOf {a b : Nat} {bs : Bytes} (h : a % 128 + bs.length ≤ 128) (old : Byte) :
    (if b / 128 = a / 128 ∧ (maskOf (a % 128) bs.length).getLsbD (b % 128) = true then (lineOf (a % 128) bs).getD (b % 128) 0 else old) =
      if a ≤ b ∧ b < a + bs.length then bs.getD (b - a) 0 else old := by
  simp only [getLsbD_maskOf _ _ (Nat.mod_lt b (by decide : 0 < 128)), decide_eq_true_iff]
  by_cases hb : a ≤ b ∧ b < a + bs.length
  · have hmod : b % 128 = a % 128 + (b - a) := by omega
    rw [if_pos hb, if_pos (by omega), hmod, getD_lineOf (by omega) (by omega), Nat.add_sub_cancel_left]
  · rw [if_neg hb, if_neg (by omega)]

theorem State.writePa_line (s : State) {a : Nat} {bs : Bytes} (h : a % 128 + bs.length ≤ 128) (hne : bs ≠ []) :
    s.writePa a bs = s.homeWrite (a / 128) (maskOf (a % 128) bs.length) (lineOf (a % 128) bs) := by
  obtain ⟨n, hn⟩ := Nat.exists_eq_succ_of_ne_zero (mt List.length_eq_zero_iff.1 hne)
  rw [State.writePa, hn, lineSplit_line h hne, hn]
  rfl

theorem State.byte_writePa_line (s : State) {a : Nat} {bs : Bytes} (h : a % 128 + bs.length ≤ 128)
    (hne : bs ≠ []) (b : Nat) :
    (s.writePa a bs).byte b = if a ≤ b ∧ b < a + bs.length then bs.getD (b - a) 0 else s.byte b := by
  rw [s.writePa_line h hne, State.byte_homeWrite, masked_lineOf h]

/-! ### A line written back (R236, R320). -/

theorem State.cleanLine_of_dirty {s : State} {line : Nat} {bs : Bytes} (h : s.dev.dirtyCopy line = some bs) :
    s.cleanLine line = (s.onMem fun m => m.writeLine (s.dev.lean (line * 128)) line fullMask bs).onDev fun d =>
      ({ d with cores := d.cores.map fun x => (x.1, x.2.wroteBack line) } : Dev).gather line := by
  unfold State.cleanLine
  rw [h]
  rfl

theorem State.getCore_cleanLine {s : State} {line : Nat} {bs : Bytes}
    (h : s.dev.dirtyCopy line = some bs) (k : Nat) :
    (s.cleanLine line).dev.getCore k = (s.dev.getCore k).wroteBack line := by
  rw [State.cleanLine_of_dirty h]
  exact (Dev.getCore_gather _ _ _).trans (s.dev.getCore_map (f := Core.wroteBack line) rfl k)

theorem State.cleanLine_of_clean {s : State} {line : Nat} (h : s.dev.dirtyCopy line = none) :
    s.cleanLine line = s := by
  unfold State.cleanLine
  rw [h]

theorem State.dirtyCopy_cleanLine (s : State) (line : Nat) : (s.cleanLine line).dev.dirtyCopy line = none := by
  cases h : s.dev.dirtyCopy line with
  | none => rw [State.cleanLine_of_clean h, h]
  | some bs => exact Dev.dirtyCopy_eq_none fun k => by rw [State.getCore_cleanLine h, Core.find_wroteBack_dirty, if_pos rfl]

theorem State.byte_cleanLine (s : State) (line b : Nat) : (s.cleanLine line).byte b = s.byte b := by
  cases h : s.dev.dirtyCopy line with
  | none => rw [State.cleanLine_of_clean h]
  | some bs =>
    have hmem : Mem.get (s.cleanLine line).mem.bytes b = if b / 128 = line then bs.getD (b % 128) 0
        else Mem.get s.mem.bytes b := by
      rw [State.cleanLine_of_dirty h]
      exact Memory.get_writeLine_full s.mem (s.dev.lean (line * 128)) line bs b
    by_cases hb : b / 128 = line
    · rw [State.byte_of_clean (hb ▸ s.dirtyCopy_cleanLine line), hmem, if_pos hb, State.byte_of_dirty (hb ▸ h)]
    · rw [if_neg hb] at hmem
      refine State.byte_congr (Dev.dirtyCopy_congr fun k => ?_) hmem
      rw [State.getCore_cleanLine h, Core.find_wroteBack_dirty, if_neg (Ne.symm hb)]

end Sys2Proof.Machine
end

section
/-!
PROOFS. The store buffer of a server core (R236, R246): what its draining does where it is empty,
and what every store that is performed leaves of the cores, the power side and the management side.
-/

namespace Sys2Proof.Machine

/-! ### States that a draining of an empty store buffer leaves (R246). -/

/-- A state whose table of cores is written anew, each core as it was. -/
structure State.Restated (s t : State) : Prop where
  rest : t = { s with dev := { s.dev with cores := t.dev.cores } }
  core : ∀ k, t.dev.getCore k = s.dev.getCore k

section
variable {s t u : State}

theorem State.Restated.refl (s : State) : s.Restated s := ⟨rfl, fun _ => rfl⟩

theorem State.Restated.trans (h : s.Restated t) (k : t.Restated u) : s.Restated u where
  rest := by rw [k.rest, h.rest]
  core c := (k.core c).trans (h.core c)

/-- What does not look at the cores is as before. -/
theorem State.Restated.same {β : Type} (h : s.Restated t) (g : State → β)
    (hg : ∀ cores, g { s with dev := { s.dev with cores := cores } } = g s) :
    g t = g s := by
  rw [h.rest]
  exact hg _

theorem State.Restated.onlyDev (h : s.Restated t) : OnlyDev s t := by
  rw [h.rest]
  exact ⟨rfl, rfl, rfl, rfl, rfl⟩

theorem State.Restated.byte (h : s.Restated t) (b : Nat) : t.byte b = s.byte b :=
  State.byte_congr (Dev.dirtyCopy_congr fun k => by rw [h.core]) (by rw [h.onlyDev.mem_eq])

theorem State.Restated.readPa (h : s.Restated t) (a n : Nat) : t.readPa a n = s.readPa a n :=
    State.readPa_congr h.byte a n

theorem State.Restated.poisonedAt (h : s.Restated t) (a n : Nat) : t.poisonedAt a n = s.poisonedAt a n :=
  h.same (fun z => z.poisonedAt a n) fun _ => rfl

theorem State.restated_modCore {c : Nat} {f : Core → Core} (h : f (s.dev.getCore c) = s.dev.getCore c) :
    s.Restated (s.onDev fun d => d.modCore c f) where
  rest := rfl
  core k := by
    rw [State.onDev_dev, Dev.getCore_modCore]
    split
    · rename_i hk
      exact hk ▸ h
    · rfl

end

/-! ### A core with an empty store buffer, on which no store stalls. -/

/-- No store of the core waits. -/
def Core.idle (x : Core) : Prop := x.sb = [] ∧ x.stalled = []

theorem Core.idle_drop {x : Core} (h : x.idle) (n : Nat) : { x with sb := x.sb.drop n } = x := by
  have hdrop : x.sb.drop n = x.sb := by rw [h.1, List.drop_nil]
  rw [hdrop]

theorem Core.idle_enter {x : Core} (h : x.idle) : x.enter x.stalled = x := by
  have hsb : x.sb ++ x.stalled.take (64 - x.sb.length) = x.sb := by rw [h.2, List.take_nil, List.append_nil]
  have hstalled : x.stalled.drop (64 - x.sb.length) = x.stalled := by rw [h.2, List.drop_nil]
  unfold Core.enter
  dsimp only
  rw [hsb, hstalled]

section
variable {s t : State} {c : Nat} (h : (s.dev.getCore c).idle)
include h

theorem State.Restated.idle (k : s.Restated t) : (t.dev.getCore c).idle := by
  rw [k.core]
  exact h

theorem State.drainN_idle (n : Nat) : s.Restated (s.drainN c n) := by
  have hdrop : s.Restated (s.onDev fun d => d.modCore c fun x => { x with sb := x.sb.drop n }) :=
      State.restated_modCore (Core.idle_drop h n)
  unfold State.drainN
  rw [h.1, List.take_nil]
  refine hdrop.trans (State.restated_modCore ?_)
  exact Core.idle_enter (hdrop.idle h)

theorem State.drain_idle : s.Restated (s.drain c) :=
  (State.drainN_idle h 64).trans (State.drainN_idle ((State.drainN_idle h 64).idle h) 64)

theorem State.settleLine_idle (line : Nat) : s.Restated (s.settleLine c line) := State.drainN_idle h _

theorem State.beforeLoad_idle (p : Piece) : s.Restated (s.beforeLoad c p) := by
  unfold State.beforeLoad
  split
  · exact State.drain_idle h
  · split
    · exact .refl s
    · exact (State.settleLine_idle h _).trans (State.settleLine_idle ((State.settleLine_idle h _).idle h) _)

theorem State.beforeAtomic_idle (a : Nat) (rl : Bool) : s.Restated (s.beforeAtomic c a rl) := by
  unfold State.beforeAtomic
  split
  · exact State.drain_idle h
  · exact State.settleLine_idle h _

/-- Such a core sees memory itself. -/
theorem State.forwarded_idle (a n : Nat) : s.forwarded c a n = s.readPa a n := by
  unfold State.forwarded State.readPa
  rw [h.1]
  rfl

theorem State.except_idle_onlyDev (k : Nat) : OnlyDev s (s.except c k) :=
    (State.drain_idle h).onlyDev.trans (onlyDev_onDev _ _)

theorem State.except_idle_core (k : Nat) : (s.except c k).dev.getCore c = { s.dev.getCore c with exc := k } := by
  unfold State.except
  rw [State.onDev_dev, Dev.getCore_modCore_self, (State.drain_idle h).core]

end

/-! ### What stores that are performed leave as it is. -/

/-- A state after lines were written, moved between memory and the cores' caches, or freed: the power
side, the management side, and of every core
its hart and the stores that wait are as before. -/
structure State.Moved (s t : State) : Prop where
  pow : t.pow = s.pow
  mgmt : t.mgmt = s.mgmt
  hart : ∀ k, (t.dev.getCore k).hart = (s.dev.getCore k).hart
  sb : ∀ k, (t.dev.getCore k).sb = (s.dev.getCore k).sb
  stalled : ∀ k, (t.dev.getCore k).stalled = (s.dev.getCore k).stalled

section
variable {s t u : State}

theorem State.Moved.refl (s : State) : s.Moved s := ⟨rfl, rfl, fun _ => rfl, fun _ => rfl, fun _ => rfl⟩

theorem State.Moved.trans (h : s.Moved t) (k : t.Moved u) : s.Moved u where
  pow := k.pow.trans h.pow
  mgmt := k.mgmt.trans h.mgmt
  hart c := (k.hart c).trans (h.hart c)
  sb c := (k.sb c).trans (h.sb c)
  stalled c := (k.stalled c).trans (h.stalled c)

theorem State.moved_foldl {α : Type} {f : State → α → State} (hf : ∀ (t : State) a, t.Moved (f t a))
    (l : List α) (s : State) :
    s.Moved (l.foldl f s) :=
  foldl_keep (fun t => s.Moved t) f (fun t a h => h.trans (hf t a)) l s (.refl s)

/-- A change of memory and of what each core's caches hold. -/
theorem State.moved_of_core (hp : t.pow = s.pow) (hm : t.mgmt = s.mgmt) {f : Core → Core}
    (hf : ∀ x, (f x).hart = x.hart ∧ (f x).sb = x.sb ∧ (f x).stalled = x.stalled)
        (h : ∀ k, t.dev.getCore k = f (s.dev.getCore k)) : s.Moved t where
  pow := hp
  mgmt := hm
  hart k := by rw [h, (hf _).1]
  sb k := by rw [h, (hf _).2.1]
  stalled k := by rw [h, (hf _).2.2]

theorem State.moved_modCore (c : Nat) {f : Core → Core}
    (hf : ∀ x, (f x).hart = x.hart ∧ (f x).sb = x.sb ∧ (f x).stalled = x.stalled) :
    s.Moved (s.onDev fun d => d.modCore c f) := by
  have hcore (k : Nat) : (s.onDev fun d => d.modCore c f).dev.getCore k =
      if c = k then f (s.dev.getCore k) else s.dev.getCore k :=
    Dev.getCore_modCore _ _ _ _
  constructor
  case pow => rfl
  case mgmt => rfl
  all_goals
    intro k
    rw [hcore]
    split
    · simp only [hf]
    · rfl

end

section
variable (s : State)

theorem State.moved_dropLine (line : Nat) : s.Moved (s.onDev fun d => d.dropLine line) :=
  State.moved_of_core rfl rfl (f := Core.without line) (fun _ => ⟨rfl, rfl, rfl⟩) (Dev.getCore_dropLine _ line)

theorem State.moved_homeWrite (line : Nat) (mask : BitVec 128) (data : Bytes) :
    s.Moved (s.homeWrite line mask data) :=
  State.moved_of_core rfl rfl (f := Core.without line) (fun _ => ⟨rfl, rfl, rfl⟩)
      (s.getCore_homeWrite line mask data)

theorem State.moved_writePa (a : Nat) (bs : Bytes) : s.Moved (s.writePa a bs) :=
  State.moved_foldl (fun t _ => t.moved_homeWrite _ _ _) _ s

theorem Core.wroteBack_front (line : Nat) (x : Core) :
    (x.wroteBack line).hart = x.hart ∧ (x.wroteBack line).sb = x.sb ∧ (x.wroteBack line).stalled = x.stalled := by
  unfold Core.wroteBack
  split <;> exact ⟨rfl, rfl, rfl⟩

theorem State.moved_cleanLine (line : Nat) : s.Moved (s.cleanLine line) := by
  cases h : s.dev.dirtyCopy line with
  | none => rw [State.cleanLine_of_clean h]; exact .refl s
  | some bs =>
    refine State.moved_of_core ?_ ?_ (Core.wroteBack_front line) (State.getCore_cleanLine h)
    · rw [State.cleanLine_of_dirty h, State.onDev_pow, State.onMem_pow]
    · rw [State.cleanLine_of_dirty h, State.onDev_mgmt, State.onMem_mgmt]

/-- A core with other clean lines. -/
def Core.reclean (f : List Nat → List Nat) (x : Core) : Core := { x with clean := f x.clean }

/-- What makes room in a core's caches: nothing, or the loss of a clean line, after it was written back
where it was dirty. -/
theorem State.makeRoom_cases (c : Nat) : s.makeRoom c = s ∨
    ∃ (t : State) (f : List Nat → List Nat), (t = s ∨ ∃ l ∈ (s.dev.getCore c).dirty, t = s.cleanLine l.1) ∧
      s.makeRoom c = t.onDev fun d => d.modCore c (Core.reclean f) := by
  unfold State.makeRoom
  dsimp only
  split
  · exact .inl rfl
  · split
    · exact .inl rfl
    · split
      · exact .inr ⟨s, fun _ => _, .inl rfl, rfl⟩
      · rename_i l _ _ hl
        exact .inr ⟨_, fun m => m.filter fun k => k ≠ l.1, .inr ⟨l, hl ▸ List.mem_cons_self, rfl⟩, rfl⟩
      · exact .inl rfl

theorem State.moved_makeRoom (c : Nat) : s.Moved (s.makeRoom c) := by
  rcases s.makeRoom_cases c with h | ⟨t, f, rfl | ⟨l, _, rfl⟩, h⟩ <;> rw [h]
  · exact .refl s
  · exact State.moved_modCore c fun _ => ⟨rfl, rfl, rfl⟩
  · exact (s.moved_cleanLine l.1).trans (State.moved_modCore c fun _ => ⟨rfl, rfl, rfl⟩)

theorem State.moved_holds (c line : Nat) : s.Moved (s.holds c line) := by
  unfold State.holds
  dsimp only
  split
  · exact .refl s
  · exact (s.moved_makeRoom c).trans (State.moved_modCore c fun _ => ⟨rfl, rfl, rfl⟩)

/-- A change of the data path that leaves its cores as they are. -/
theorem State.moved_onDev {f : Dev → Dev} (h : (f s.dev).cores = s.dev.cores) : s.Moved (s.onDev f) :=
  State.moved_of_core rfl rfl (f := id) (fun _ => ⟨rfl, rfl, rfl⟩) fun k => by rw [State.onDev_dev, Dev.getCore, h]; rfl

theorem Dev.markDirty_cores (d : Dev) (pa : Nat) : (d.markDirty pa).cores = d.cores := by
  unfold Dev.markDirty
  split <;> rfl

theorem State.moved_freeLine (key l : Nat) (mask : BitVec 128) : s.Moved (s.freeLine key l mask) := by
  have hhome : s.Moved (match s.dev.keyLine key l with
      | some line => s.homeWrite line mask ((List.range 128).map fun i => Config.freeByte (s.dev.free + i))
      | none => s) := by
    split
    · exact s.moved_homeWrite _ _ _
    · exact .refl s
  unfold State.freeLine
  refine State.Moved.trans ?_ (State.moved_onDev _ rfl)
  dsimp only
  split
  · exact hhome
  · split
    · split
      · exact hhome
      · exact hhome.trans (State.moved_onDev _ rfl)
    · exact hhome

theorem State.moved_freeObject (pa : Nat) : s.Moved (s.freeObject pa) := by
  unfold State.freeObject
  split
  · exact .refl s
  · split
    · exact .refl s
    · exact (s.moved_onDev (Dev.markDirty_cores _ _)).trans (State.moved_foldl (fun t _ => t.moved_freeLine _ _ _) _ _)

theorem State.moved_coreLine (c : Nat) (nc : Bool) (w : Nat × BitVec 128 × Bytes) :
    s.Moved (s.coreLine c nc w) := by
  unfold State.coreLine
  split
  · exact ((s.moved_dropLine w.1).trans (State.moved_makeRoom _ c)).trans (State.moved_modCore c fun _ => ⟨rfl, rfl, rfl⟩)
  · exact (s.moved_homeWrite _ _ _).trans (State.moved_freeObject _ _)

theorem State.moved_perform (c : Nat) (e : SbEntry) : s.Moved (s.perform c e) :=
  State.moved_foldl (fun t w => t.moved_coreLine c e.nc w) _ s

/-! ### The n oldest stores are performed, and stalled ones enter (R236, R246). -/

theorem State.drainN_pow (c n : Nat) : (s.drainN c n).pow = s.pow :=
  (State.moved_foldl (fun t e => t.moved_perform c e) _ (s.onDev fun d => d.modCore c fun x => { x with sb := x.sb.drop n })).pow

theorem State.drainN_mgmt (c n : Nat) : (s.drainN c n).mgmt = s.mgmt :=
  (State.moved_foldl (fun t e => t.moved_perform c e) _ (s.onDev fun d => d.modCore c fun x => { x with sb := x.sb.drop n })).mgmt

theorem State.drainN_stores (c n : Nat) : ((s.drainN c n).dev.getCore c).sb = (s.dev.getCore c).sb.drop n ++
      (s.dev.getCore c).stalled.take (64 - ((s.dev.getCore c).sb.drop n).length) ∧
    ((s.drainN c n).dev.getCore c).stalled = (s.dev.getCore c).stalled.drop (64 - ((s.dev.getCore c).sb.drop n).length) := by
  have hmoved := State.moved_foldl (fun t e => t.moved_perform c e) ((s.dev.getCore c).sb.take n)
    (s.onDev fun d => d.modCore c fun x => { x with sb := x.sb.drop n })
  unfold State.drainN Core.enter
  dsimp only
  rw [State.onDev_dev, Dev.getCore_modCore_self]
  dsimp only
  rw [hmoved.sb, hmoved.stalled, State.onDev_dev, Dev.getCore_modCore_self]
  exact ⟨rfl, rfl⟩

theorem State.drain_pow (c : Nat) : (s.drain c).pow = s.pow :=
    (State.drainN_pow _ c 64).trans (s.drainN_pow c 64)
theorem State.drain_mgmt (c : Nat) : (s.drain c).mgmt = s.mgmt :=
    (State.drainN_mgmt _ c 64).trans (s.drainN_mgmt c 64)

/-- A full buffer on which no store stalls is empty after its draining. -/
theorem State.drainN_all {s : State} {c n : Nat} (hn : (s.dev.getCore c).sb.length ≤ n)
    (hst : (s.dev.getCore c).stalled = []) :
    ((s.drainN c n).dev.getCore c).idle := by
  obtain ⟨hsb, hstalled⟩ := s.drainN_stores c n
  rw [hst] at hsb hstalled
  exact ⟨by rw [hsb, List.drop_of_length_le hn, List.take_nil, List.append_nil], by rw [hstalled, List.drop_nil]⟩

theorem State.drain_all {s : State} {c : Nat} (hn : (s.dev.getCore c).sb.length ≤ 64)
    (hst : (s.dev.getCore c).stalled = []) :
    ((s.drain c).dev.getCore c).idle :=
  have h := State.drainN_all hn hst
  State.drainN_all (by rw [h.1]; exact Nat.zero_le _) h.2

end

end Sys2Proof.Machine
end

section
/-!
PROOFS. Writes performed at their home and reads served there (R233, R236, R250, R284, R285): O36.
-/

namespace Sys2Proof.Machine

/-! ### A write on its way lands (R233, R234). -/

theorem State.land_of_may {s : State} {id : Nat} {w : LineWrite}
    (hw : (s.mem.flight.find? fun w => w.id = id) = some w)
    (hm : s.mem.mayLand w = true) (ha : s.dev.arrived id = true) :
    s.land id = ((s.onMem fun m => { m with flight := m.flight.filter fun x => x.id ≠ id }).homeWrite w.line w.mask w.data).onDev
      fun d => d.markDirty (w.line * 128) := by
  unfold State.land
  rw [hw]
  exact if_pos ⟨hm, ha⟩

/-- A mark on an object moves no byte. -/
theorem State.byte_markDirty (s : State) (pa b : Nat) : (s.onDev fun d => d.markDirty pa).byte b = s.byte b :=
  State.byte_onDev fun k => by rw [Dev.getCore, Dev.markDirty_cores]; rfl

theorem State.homeWrite_flight (s : State) (line : Nat) (mask : BitVec 128) (data : Bytes) :
    (s.homeWrite line mask data).mem.flight = s.mem.flight := (s.spoiled_homeWrite line mask data).flight

/-- Where nothing of an origin is on its way, there is nothing to wait for. -/
theorem State.landAll_of_quiet {s : State} {o : Origin} (h : ∀ w ∈ s.mem.flight, w.from' ≠ o) :
    s.landAll o = s := by
  have hnone : (s.mem.flight.filter fun w => w.from' = o) = [] :=
      List.filter_eq_nil_iff.2 fun w hw => by simpa using h w hw
  unfold State.landAll
  rw [hnone]
  rfl

/-! ### A read of HBM reaches its home (R16, R24, R324). -/

section
variable {s : State} {pa len t off : Nat} (hpa : paOf pa = .hbm t off)
include hpa

/-- A read of HBM by anyone but a core meets no check before its home. -/
theorem State.target_hbm {r : Reader} (hr : ∀ c, r ≠ .core c) : s.target r pa = some pa := by
  unfold State.target
  rw [hpa]
  cases r with
  | core c => exact absurd rfl (hr c)
  | _ => rfl

/-- A core's partition filter is asked first. -/
theorem State.target_hbm_core {c : Fin 96} : s.target (.core c) pa =
    if s.admits c.val pa 1 = true then some pa else none := by
  unfold State.target
  rw [hpa]
  dsimp only
  cases s.admits c.val pa 1 <;> rfl

/-- The read is served after the reader's own writes and the check of its line. -/
theorem State.homeRead_hbm {r : Reader} (ht : s.target r pa = some pa) (hlen : pa % 128 + len ≤ 128)
    (chk : Check) :
    s.homeRead r pa len chk = (let u := (s.beforeRead r pa len).homeChecked pa chk
      u.served r (u.dataFor r pa len) (u.poisonedAt pa len)) := by
  have hmin : min len (128 - pa % 128) = len := by omega
  unfold State.homeRead
  rw [ht]
  dsimp only
  rw [hmin, hpa]
  rfl

theorem State.homeChecked_hbm_ok : s.homeChecked pa .ok = s := by
  unfold State.homeChecked
  rw [hpa]

theorem State.homeChecked_hbm_uncorrectable :
    s.homeChecked pa .uncorrectable = s.hbmDetected (s.dev.hbmPlace t off).1 (s.dev.hbmPlace t off).2.1 (pa / 128) := by
  unfold State.homeChecked
  rw [hpa]

end

/-- A refused read of a core changes nothing: it brings no bytes. -/
theorem State.homeRead_core_refused {s : State} {c : Fin 96} {pa t off : Nat}
    (hpa : paOf pa = .hbm t off) (h : s.admits c.val pa 1 = false)
    (len : Nat) (chk : Check) : s.homeRead (.core c) pa len chk = s := by
  unfold State.homeRead
  rw [State.target_hbm_core hpa, h]
  rfl

/-! ### A detection (R284). -/

theorem get_setPoison_full (m : Memory) (line l : Nat) :
    Map.get (m.setPoison line fullMask).poison l 0 = if line = l then fullMask else Map.get m.poison l 0 := by
  unfold Memory.setPoison
  rw [if_neg (by decide)]
  exact Map.get_put _ _ _ _ _

theorem State.hbmDetected_mem (s : State) (st p line : Nat) :
    (s.hbmDetected st p line).mem = s.mem.setPoison line fullMask := rfl

/-! ### Answers to readers (R285). -/

theorem State.dataFor_window (s : State) (a : Fin 8) (pa n : Nat) :
    s.dataFor (.window a) pa n = s.readPa pa n := rfl

section
variable (s : State) (data : Bytes) (bad : Bool)

theorem State.served_window (a : Fin 8) : s.served (.window a) data bad = s.onDev fun d =>
    d.modAtt a.val fun x => { x with
    rdata := if bad then List.replicate data.length 0xFF else data, rbad := bad } := rfl

theorem State.served_rdma (q : Nat) : s.served (.rdma q) data bad = s.onDev fun d => d.modQp q fun x =>
    if bad then { x with answer := 2, rdata := [] } else { x with answer := 0, rdata := data } := rfl

/-- A core whose stores are all performed gets its bytes, or exception 5. -/
theorem State.served_core {c : Fin 96} (h : (s.dev.getCore c.val).idle) :
    OnlyDev s (s.served (.core c) data bad) ∧
    (s.served (.core c) data bad).dev.getCore c.val =
      if bad then { s.dev.getCore c.val with exc := 5 }
          else { s.dev.getCore c.val with rd := BitVec.ofNat 64 (leNat data) } := by
  cases bad with
  | true => exact ⟨State.except_idle_onlyDev h 5, State.except_idle_core h 5⟩
  | false => exact ⟨onlyDev_onDev _ _, Dev.getCore_modCore_self _ _ _⟩

end

/-- Settles O36: a landing by the rule of a write at its home; each reader by what it waits for and what
it is answered. -/
theorem homeReadsAndWrites : Obligations.HomeReadsAndWrites := by
  unfold Obligations.HomeReadsAndWrites
  refine ⟨fun s id w hw hm ha => ?landing, ?reads⟩
  case landing =>
    have hmoved := State.moved_homeWrite (s.onMem fun m => { m with flight := m.flight.filter fun x => x.id ≠ id }) w.line w.mask w.data
    refine ⟨_, congrArg Host.Outcome.next (State.land_of_may hw hm ha), hmoved.mgmt, hmoved.pow, ?_, fun b => ?_⟩
    · rw [State.onDev_mem, State.homeWrite_flight, State.onMem_mem]
    · rw [State.byte_markDirty, State.byte_homeWrite]
      rfl
  intro s pa len t off hpa hlen bad quiet
  refine ⟨fun a hq => ?window, fun c chk h => ?refused, fun c hc hsb hst => ?core, fun q x hx hq => ?rdma, fun a hq => ?uncorrectable⟩
  case window =>
    have hread := State.homeRead_hbm hpa (State.target_hbm (s := s) (r := .window a) hpa fun _ => nofun) hlen .ok
    rw [State.beforeRead, State.landAll_of_quiet hq, State.homeChecked_hbm_ok hpa, State.served_window] at hread
    refine ⟨_, congrArg Host.Outcome.next hread, onlyDev_onDev _ _, ?_, ?_, fun b hb => ?_⟩
    · rw [State.onDev_dev, Dev.getAtt_modAtt_self]
      rfl
    · rw [State.onDev_dev, Dev.getAtt_modAtt_self, State.dataFor_window, State.length_readPa]
      rfl
    · rw [State.onDev_dev, Dev.getAtt_modAtt, if_neg (Ne.symm hb)]
  case refused => exact congrArg Host.Outcome.next (State.homeRead_core_refused hpa h len chk)
  case core =>
    have hidle : (s.dev.getCore c.val).idle := ⟨hsb, hst⟩
    have hread := State.homeRead_hbm hpa ((State.target_hbm_core (s := s) hpa).trans (if_pos hc)) hlen .ok
    have hbefore : s.Restated (s.beforeRead (.core c) pa len) := State.beforeLoad_idle hidle _
    obtain ⟨honly, hcore⟩ := State.served_core _ ((s.beforeRead (.core c) pa len).dataFor (.core c) pa len)
      ((s.beforeRead (.core c) pa len).poisonedAt pa len) (hbefore.idle hidle)
    rw [State.homeChecked_hbm_ok hpa] at hread
    refine ⟨_, congrArg Host.Outcome.next hread, hbefore.onlyDev.trans honly, hcore.trans ?_⟩
    rw [hbefore.core, hbefore.poisonedAt, State.dataFor, State.forwarded_idle (hbefore.idle hidle), hbefore.readPa]
    rfl
  case rdma =>
    have hread := State.homeRead_hbm hpa (State.target_hbm (s := s) (r := .rdma q) hpa fun _ => nofun) hlen .ok
    rw [State.beforeRead, State.landAll_of_quiet hq, State.homeChecked_hbm_ok hpa, State.served_rdma] at hread
    have hqp (f : Qp → Qp) : (s.dev.modQp q f).getQp q = some (f x) := by rw [Dev.getQp_modQp, if_pos rfl, hx, Option.map_some]
    refine ⟨_, _, congrArg Host.Outcome.next hread, onlyDev_onDev _ _, hqp _, ?_, ?_⟩ <;>
    · show _ = if s.poisonedAt pa len = true then _ else _
      split <;> rfl
  case uncorrectable =>
    have hread := State.homeRead_hbm hpa (State.target_hbm (s := s) (r := .window a) hpa fun _ => nofun) hlen .uncorrectable
    rw [State.beforeRead, State.landAll_of_quiet hq, State.homeChecked_hbm_uncorrectable hpa, State.served_window] at hread
    refine ⟨_, congrArg Host.Outcome.next hread, rfl, ?_, fun l hl => ?_⟩ <;>
      rw [State.onDev_mem, State.hbmDetected_mem, get_setPoison_full]
    · exact if_pos rfl
    · exact if_neg (Ne.symm hl)

end Sys2Proof.Machine
end

section
/-!
PROOFS. Loads, stores, fences and cache-block operations of server cores, and what refuses them
(R236, R245 to R248, R276, R318 to R322): O40.
-/

namespace Sys2Proof.Machine

/-! ### A running core's access (R276, R318, R322). -/

section
variable {s w : State} {c : Nat} {h : HPre}

theorem State.coreStep_acts (ha : (s.dev.getCore c).acts = true) (f : State → State) :
    s.coreStep c h f = f (s.accessing c h) := if_pos ha

/-- An access that reaches one piece has its effect there. -/
theorem State.coreMem_at {use : PageUse} {va a n ty : Nat} (hat : s.coreAt c h use va a n ty w)
    (f : List Piece → State → State) :
    s.coreMem c h use va n f = f [⟨a, n, ty⟩] w := by
  obtain ⟨hacts, hspan, hcheck⟩ := hat
  unfold State.coreMem
  rw [State.coreStep_acts hacts]
  dsimp only
  rw [hspan]
  simp only [List.head?_cons, Option.map_some, Option.getD_some, hcheck, if_true]

/-- An access whose translation is refused is an exception. -/
theorem State.coreMem_fault (ha : (s.dev.getCore c).acts = true) {use : PageUse} {va n k : Nat}
    (hspan : (s.accessing c h).span c use va n = .fault k)
    (f : List Piece → State → State) : s.coreMem c h use va n f = (s.accessing c h).except c k := by
  unfold State.coreMem
  rw [State.coreStep_acts ha]
  dsimp only
  rw [hspan]

theorem State.except_exc (s : State) (c k : Nat) : ((s.except c k).dev.getCore c).exc = k := by
  unfold State.except
  rw [State.onDev_dev, Dev.getCore_modCore_self]

theorem Core.stalled_of_acts {x : Core} (h : x.acts = true) : x.stalled = [] := by
  unfold Core.acts at h
  rw [Bool.and_eq_true, Bool.and_eq_true] at h
  exact List.isEmpty_iff.1 h.1.2

theorem Core.running_of_acts {x : Core} (h : x.acts = true) : x.hart = .running := by
  unfold Core.acts at h
  rw [Bool.and_eq_true, Bool.and_eq_true] at h
  exact of_decide_eq_true h.1.1

theorem State.accessing_core (s : State) (c : Nat) (h : HPre) :
    (s.accessing c h).dev.getCore c = { s.dev.getCore c with wrs := false, csrs := h.csrs.getD (s.dev.getCore c).csrs } :=
  Dev.getCore_modCore_self _ _ _

theorem isReg_of_caddy {a : Nat} (h : isCaddy a = true) : isReg a = false := by
  unfold isCaddy at h
  unfold isReg
  split at h
  · rename_i hpa
    rw [hpa]
  · cases h

end

/-! ### Lines that move between memory and the caches carry their bytes (R235, R236). -/

section
variable (s : State)

/-- A change of a core that leaves its dirty lines leaves every byte. -/
theorem State.byte_modCore (c : Nat) {f : Core → Core} (hf : ∀ x, (f x).dirty = x.dirty) (b : Nat) :
    (s.onDev fun d => d.modCore c f).byte b = s.byte b := by
  refine State.byte_onDev fun k => ?_
  rw [Dev.getCore_modCore]
  split
  · rw [hf]
  · rfl

theorem State.byte_makeRoom (c b : Nat) : (s.makeRoom c).byte b = s.byte b := by
  rcases s.makeRoom_cases c with h | ⟨t, f, rfl | ⟨l, _, rfl⟩, h⟩ <;> rw [h]
  · exact State.byte_modCore _ c (f := Core.reclean f) (fun _ => rfl) b
  · exact (State.byte_modCore _ c (f := Core.reclean f) (fun _ => rfl) b).trans (s.byte_cleanLine l.1 b)

/-- Making room makes no line dirty. -/
theorem State.makeRoom_dirty_none {s : State} {k l : Nat} (h : Map.find (s.dev.getCore k).dirty l = none)
    (c : Nat) :
    Map.find ((s.makeRoom c).dev.getCore k).dirty l = none := by
  have hmod (t : State) (f : List Nat → List Nat) (ht : Map.find (t.dev.getCore k).dirty l = none) :
      Map.find ((t.onDev fun d => d.modCore c (Core.reclean f)).dev.getCore k).dirty l = none := by
    rw [State.onDev_dev, Dev.getCore_modCore]
    split <;> exact ht
  rcases s.makeRoom_cases c with hm | ⟨t, f, rfl | ⟨d, _, rfl⟩, hm⟩ <;> rw [hm]
  · exact h
  · exact hmod _ f h
  · refine hmod _ f ?_
    cases hd : s.dev.dirtyCopy d.1 with
    | none => rwa [State.cleanLine_of_clean hd]
    | some bs =>
      rw [State.getCore_cleanLine hd, Core.find_wroteBack_dirty]
      split
      · rfl
      · exact h

theorem State.byte_holds (c line b : Nat) : (s.holds c line).byte b = s.byte b := by
  unfold State.holds
  dsimp only
  split
  · rfl
  · exact (State.byte_modCore _ c (f := Core.reclean fun l => addOnce l line) (fun _ => rfl) b).trans (s.byte_makeRoom c b)

theorem has_addOnce (l : List Nat) (n : Nat) : has (addOnce l n) n = true := by
  unfold addOnce
  split
  · assumption
  · simp [has_iff]

/-- A core that has fetched a line holds it. -/
theorem State.holds_line (c line : Nat) : has ((s.holds c line).dev.getCore c).clean line = true ∨
    (Map.find ((s.holds c line).dev.getCore c).dirty line).isSome = true := by
  unfold State.holds
  dsimp only
  split
  · assumption
  · left
    rw [State.onDev_dev, Dev.getCore_modCore_self]
    exact has_addOnce _ _

end

/-! ### One store of a line (R236, R300, R319). -/

theorem getD_mergeLine (old : Bytes) (mask : BitVec 128) (data : Bytes) (b : Nat) :
    (mergeLine old mask data).getD (b % 128) 0 =
        if mask.getLsbD (b % 128) = true then data.getD (b % 128) 0 else old.getD (b % 128) 0 := by
  have hb : b % 128 < 128 := Nat.mod_lt _ (by decide)
  simp [mergeLine, List.getD, hb]

/-- A store that a core performs in its L2, with ownership, leaves its bytes in the line, and every other
byte as it was. -/
theorem State.byte_owned (s : State) {c : Nat} (hc : c < 96) (line : Nat) (mask : BitVec 128)
    (data : Bytes) (b : Nat) :
    ((((s.onDev fun d => d.dropLine line).makeRoom c).onDev fun d => d.modCore c fun x =>
        { x with dirty := Map.put x.dirty line (mergeLine (s.readPa (line * 128) 128) mask data) }).byte b) =
      if b / 128 = line ∧ mask.getLsbD (b % 128) = true then data.getD (b % 128) 0 else s.byte b := by
  generalize hbs : mergeLine (s.readPa (line * 128) 128) mask data = bs
  have hdrop (k l : Nat) : Map.find ((s.onDev fun d => d.dropLine line).dev.getCore k).dirty l =
      if line = l then none else Map.find (s.dev.getCore k).dirty l := by
    rw [State.onDev_dev, Dev.getCore_dropLine]
    exact Map.find_del _ _ _
  have hnone (k : Nat) : Map.find (((s.onDev fun d => d.dropLine line).makeRoom c).dev.getCore k).dirty line = none :=
    State.makeRoom_dirty_none (by rw [hdrop, if_pos rfl]) c
  have hput (k l : Nat) : Map.find ((((s.onDev fun d => d.dropLine line).makeRoom c).onDev fun d => d.modCore c fun x =>
      { x with dirty := Map.put x.dirty line bs }).dev.getCore k).dirty l =
      if c = k ∧ line = l then some bs else Map.find (((s.onDev fun d => d.dropLine line).makeRoom c).dev.getCore k).dirty l := by
    rw [State.onDev_dev, Dev.getCore_modCore]
    by_cases hk : c = k
    · rw [if_pos hk]
      exact (Map.find_put _ _ _ _).trans (if_congr (by simp [hk]) rfl rfl)
    · rw [if_neg hk, if_neg fun h => hk h.1]
  by_cases hb : b / 128 = line
  · rw [State.byte_of_dirty (bs := bs), ← hbs, getD_mergeLine, s.getD_readPa _ (Nat.mod_lt _ (by decide)), ← hb, Nat.div_add_mod']
    · exact if_congr (by simp) rfl rfl
    · rw [hb, Dev.dirtyCopy_of_owner hc fun k hk => by rw [hput, if_neg fun h => hk h.1.symm, hnone], hput, if_pos ⟨rfl, rfl⟩]
  · rw [if_neg fun h => hb h.1]
    have hother : (s.onDev fun d => d.dropLine line).byte b = s.byte b :=
      State.byte_onDev fun k => (hdrop k _).trans (if_neg (Ne.symm hb))
    rw [← hother, ← State.byte_makeRoom (s.onDev fun d => d.dropLine line) c b]
    exact State.byte_onDev fun k => (hput k _).trans (if_neg fun h => hb h.2.symm)

theorem State.objectAt_homeWrite (s : State) (line : Nat) (mask : BitVec 128) (data : Bytes) (pa : Nat) :
    (s.homeWrite line mask data).dev.objectAt pa = s.dev.objectAt pa := by
  obtain ⟨b, p, c, x, h⟩ := s.homeWrite_cases line mask data
  rw [h]
  rfl

theorem State.freeObject_none {s : State} {pa : Nat} (h : s.dev.objectAt pa = none) : s.freeObject pa = s := by
  unfold State.freeObject
  rw [h]

/-- A line of a store that reaches no object's content is written under its mask. -/
theorem State.byte_coreLine {s : State} {c : Nat} (hc : c < 96) {w : Nat × BitVec 128 × Bytes}
    (ho : s.dev.objectAt (w.1 * 128) = none) (nc : Bool)
    (b : Nat) : (s.coreLine c nc w).byte b =
      if b / 128 = w.1 ∧ w.2.1.getLsbD (b % 128) = true then w.2.2.getD (b % 128) 0 else s.byte b := by
  unfold State.coreLine
  split
  · exact s.byte_owned hc w.1 w.2.1 w.2.2 b
  · rw [State.freeObject_none ((s.objectAt_homeWrite _ _ _ _).trans ho), State.byte_homeWrite]

/-- A store within a line that reaches no object's content writes its bytes and no others. -/
theorem State.byte_perform {s : State} {c : Nat} (hc : c < 96) {e : SbEntry} (hline : e.a % 128 + e.n ≤ 128)
    (ho : s.dev.objectAt (e.a / 128 * 128) = none) (b : Nat) :
    (s.perform c e).byte b = if e.a ≤ b ∧ b < e.a + e.n then (leBytes e.n e.v.toNat).getD (b - e.a) 0
        else s.byte b := by
  obtain ⟨a, n, v, nc⟩ := e
  dsimp only at hline ho ⊢
  unfold State.perform
  dsimp only
  cases n with
  | zero =>
    rw [if_neg (by omega), show lineSplit (0 + 1) a (leBytes 0 v.toNat) = [] from rfl, List.foldl_nil]
  | succ n =>
    have hlen : (leBytes (n + 1) v.toNat).length = n + 1 := length_leBytes _ _
    rw [lineSplit_line (by rw [hlen]; exact hline) (List.ne_nil_of_length_pos (by omega)), List.foldl_cons, List.foldl_nil,
      State.byte_coreLine hc (w := (a / 128, _, _)) ho, masked_lineOf (by rw [hlen]; exact hline), hlen]

/-- The oldest store is performed at its place and nowhere else. -/
theorem State.byte_drainN_one {s : State} {c : Nat} (hc : c < 96) {e : SbEntry} {rest : List SbEntry}
    (hsb : (s.dev.getCore c).sb = e :: rest)
    (hline : e.a % 128 + e.n ≤ 128) (ho : s.dev.objectAt (e.a / 128 * 128) = none) (b : Nat) :
    (s.drainN c 1).byte b = if e.a ≤ b ∧ b < e.a + e.n then (leBytes e.n e.v.toNat).getD (b - e.a) 0
        else s.byte b := by
  unfold State.drainN
  rw [hsb]
  refine (State.byte_modCore _ c (f := fun x => x.enter x.stalled) (fun _ => rfl) b).trans ?_
  refine (State.byte_perform hc hline ?_ b).trans ?_
  · exact ho
  · rw [State.byte_modCore s c (f := fun x => { x with sb := x.sb.drop 1 }) (fun _ => rfl)]

/-! ### Loads and stores of one piece (R245 to R247). -/

section
variable {w : State} {c a n : Nat}

theorem State.coreLoad_caddy (hcaddy : isCaddy a = true) (hadm : w.admits c a n = true)
    (hclean : w.poisonedAt a n = false) :
    w.coreLoad c [⟨a, n, 0⟩] = (w.holds c (a / 128)).onDev fun d => d.modCore c fun x =>
      { x with rd := BitVec.ofNat 64 (leNat (w.forwarded c a n)) } := by
  simp [State.coreLoad, State.beforeLoad, isReg_of_caddy hcaddy, hcaddy, hadm, hclean]

/-- What a store of a piece leaves to be performed. -/
def storeEntry (a n ty : Nat) (v : Word) : SbEntry :=
    { a := a, n := n, v := BitVec.ofNat 64 (v.toNat % 2 ^ (8 * n)), nc := ty ≠ 0 }

theorem storeEntry_zero (a n ty : Nat) : storeEntry a n ty 0 = ⟨a, n, 0, ty ≠ 0⟩ := by
  simp [storeEntry]

theorem State.coreStore_buffered {ty : Nat} (hty : ty ≠ 2) (hreg : isReg a = false)
    (hadm : w.admits c a n = true) (v : Word) :
    w.coreStore c [⟨a, n, ty⟩] v = w.onDev fun d => d.modCore c fun x => x.enter [storeEntry a n ty v] := by
  simp [State.coreStore, storePieces, storeEntry, hreg, hadm, hty]

theorem Core.enter_room {x : Core} (h : x.sb.length < 64) (e : SbEntry) :
    (x.enter [e]).sb = x.sb ++ [e] ∧ (x.enter [e]).stalled = [] := by
  obtain ⟨k, hk⟩ : ∃ k, 64 - x.sb.length = k + 1 := ⟨63 - x.sb.length, by omega⟩
  simp [Core.enter, hk]

theorem Core.enter_full {x : Core} (h : 64 ≤ x.sb.length) (e : SbEntry) :
    (x.enter [e]).sb = x.sb ∧ (x.enter [e]).stalled = [e] := by
  simp [Core.enter, Nat.sub_eq_zero_of_le h]

end

/-! ### A core that is lost (R332). -/

theorem State.getCore_needsService (s : State) (r k : Nat) :
    (s.needsService r).dev.getCore k = s.dev.getCore k := by
  unfold State.needsService State.withStatus
  rw [(State.notify_interrupted _ _).1]
  rfl

theorem Dev.getCore_raiseSource (d : Dev) (p n k : Nat) : (d.raiseSource p n).getCore k = d.getCore k := rfl

theorem State.getCore_log (s : State) (type : Nat) (att ctx : Option Nat) (data : Bytes) (k : Nat) :
    (s.log type att ctx data).dev.getCore k = s.dev.getCore k := rfl

/-- The hart of a core that is lost runs no longer. -/
theorem State.hartLost_stops {s : State} {c : Nat} (h : (s.dev.getCore c).hart ≠ .lost) :
    ((s.hartLost c).dev.getCore c).hart ≠ .running := by
  unfold State.hartLost
  rw [if_neg h]
  dsimp only
  have hreport (u : State) (p v : Nat) (hu : (u.dev.getCore c).hart ≠ .running) :
      (((u.bootPut p 40 16 v).onDev fun d => d.raiseSource p 2).dev.getCore c).hart ≠ .running := by
    rw [State.onDev_dev, Dev.getCore_raiseSource, State.bootPut, (u.moved_writePa _ _).hart]
    exact hu
  have hspare (d : Dev) (phys : Option Nat) (m : List (Nat × Nat)) :
      ({ (d.modCore c fun _ => { hart := .stopped, phys := phys }) with spareCores := m } : Dev).getCore c = { hart := .stopped, phys := phys } :=
    d.getCore_modCore_self c fun _ => { hart := .stopped, phys := phys }
  split
  case' h_2 => refine hreport _ _ _ ?_
  all_goals
    split
    · split <;>
        simp only [State.getCore_needsService, State.getCore_log, State.onMgmt_dev, State.onDev_dev, hspare, ne_eq, reduceCtorEq, not_false_eq_true]
    · simp only [State.onDev_dev, Dev.getCore_modCore_self, ne_eq, reduceCtorEq, not_false_eq_true]

/-- An uncorrectable line that its core holds dirty loses the core, and the access ends (R322). -/
theorem State.coreMem_lost {s : State} {c : Nat} {h : HPre} (ha : (s.dev.getCore c).acts = true)
    {use : PageUse} {va a n ty : Nat}
    (hspan : (s.accessing c h).span c use va n = .ok [⟨a, n, ty⟩]) {lv : Fin 2} {way : Fin 16}
        (hhit : h.hit = some (lv, way, .uncorrectable))
    (hdirty : (Map.find (s.dev.getCore c).dirty (a / 128)).isSome = true) (f : List Piece → State → State) :
    s.coreMem c h use va n f = (s.accessing c h).hartLost c := by
  have hcheck : (s.accessing c h).cacheCheck c (a / 128) h.hit = ((s.accessing c h).hartLost c, false) := by
    unfold State.cacheCheck
    simp only [hhit, State.accessing_core, hdirty, Bool.not_true, Bool.false_eq_true, if_false, if_true, false_and]
  unfold State.coreMem
  rw [State.coreStep_acts ha]
  dsimp only
  rw [hspan]
  simp only [List.head?_cons, Option.map_some, Option.getD_some, hcheck, Bool.false_eq_true, if_false]

/-! ### The device register range (R248, R325). -/

/-- A load of the safety partition's registers, after the core's store buffer has drained. -/
theorem State.ioAccess_sp {w : State} {c a p off : Nat} (log2 : Fin 4) (hp : w.corePt c = some p)
    (hreg : coreReg p (w.mgmt.cores p).length (w.dev.getCore c).csrs.mode.val a = .sp off)
        (hal : a % 2 ^ log2.val = 0) :
    w.ioAccess c a (2 ^ log2.val) none = (w.drain c).onDev fun d => d.modCore c fun x =>
      { x with rd := BitVec.ofNat 64 (w.pow.spReg (off / 8 * 8) / 2 ^ (8 * (off % 8)) % 2 ^ (8 * 2 ^ log2.val)) } := by
  have hsize : has [1, 2, 4, 8] (2 ^ log2.val) = true := by
    clear hal
    revert log2
    decide
  unfold State.ioAccess
  rw [hp]
  dsimp only
  rw [if_neg (by simp [hsize, hal]), w.drain_mgmt, w.drain_pow, hreg]

/-! ### Cache-block operations (R320). -/

theorem State.cbo_idle {w : State} {c a ty : Nat} (hadm : w.admits c a 64 = true) (f : State → Nat → State) :
    w.cbo c [⟨a, 64, ty⟩] f = f (w.settleLine c (a / 128)) (a / 128) := if_pos hadm

/-- A core without a clean copy of a line. -/
def Core.unclean (line : Nat) (x : Core) : Core := { x with clean := x.clean.filter fun l => l ≠ line }

theorem State.flushLine_core (s : State) (line k : Nat) :
    (s.flushLine line).dev.getCore k = ((s.cleanLine line).dev.getCore k).unclean line :=
  (s.cleanLine line).dev.getCore_map (f := Core.unclean line) rfl k

theorem State.flushLine_dirtyCopy (s : State) (line l : Nat) :
    (s.flushLine line).dev.dirtyCopy l = (s.cleanLine line).dev.dirtyCopy l :=
  Dev.dirtyCopy_congr fun k => by rw [State.flushLine_core]; rfl

theorem State.flushLine_clean (s : State) (line k : Nat) :
    has ((s.flushLine line).dev.getCore k).clean line = false := by
  rw [State.flushLine_core, Bool.eq_false_iff, ne_eq, has_iff]
  simp [Core.unclean]

theorem State.byte_flushLine (s : State) (line b : Nat) : (s.flushLine line).byte b = s.byte b :=
  (State.byte_congr (s.flushLine_dirtyCopy line _) (by rw [State.flushLine, State.onDev_mem])).trans (s.byte_cleanLine line b)

/-! ### The accesses. -/

/-- A fetched line, of an address that its page maps as memory and that the filter admits. -/
theorem State.prefetch_of_mapped {s : State} {c va a : Nat}
    (hspan : s.span c .block (va / 64 * 64) 64 = .ok [⟨a, 64, 0⟩])
    (hadm : s.admits c (a / 128 * 128) 128 = true) : s.prefetch c va = s.holds c (a / 128) := by
  unfold State.prefetch
  rw [hspan]
  exact if_pos ⟨hadm, rfl⟩

theorem State.byte_accessing (s : State) (c : Nat) (h : HPre) (b : Nat) : (s.accessing c h).byte b = s.byte b :=
  s.byte_modCore c (f := fun x => { x with wrs := false, csrs := h.csrs.getD x.csrs }) (fun _ => rfl) b

/-- Settles O40: each access by its rule above. -/
theorem coreAccesses : Obligations.CoreAccesses := by
  unfold Obligations.CoreAccesses
  intro s c h va a log2 x n line
  refine ⟨fun n v nc rest hsb hline ho => ?performed, fun w hat hcaddy hadm hclean => ?load, fun w ty v hat hty hreg hadm => ?store,
    fun hacts => ⟨fun hlen => ?fence, ?fenceReads, fun k hspan => ?loadFault, fun k v hspan => ?storeFault, fun lv way hspan hhit hdirty => ?lost⟩,
    fun w ty p off hat hp hcr hal hsb hst => ?io, fun w ty hat hty hreg hadm hlen => ?zero,
    fun w ty hat hadm hsb hst => ⟨?clean, ?flush, ?inval⟩, fun hacts hspan hadm => ?prefetch⟩
  case performed =>
    obtain ⟨hsb', hst'⟩ := s.drainN_stores c.val 1
    rw [hsb] at hsb' hst'
    exact ⟨_, rfl, hsb', hst', State.byte_drainN_one c.isLt hsb hline ho⟩
  case load =>
    have hmoved := w.moved_holds c.val (a / 128)
    refine ⟨_, congrArg Host.Outcome.next ((State.coreMem_at hat _).trans (State.coreLoad_caddy hcaddy hadm hclean)), hmoved.pow, hmoved.mgmt,
      ?_, ?_, fun hsb => ?_, fun b => ?_⟩
    · rw [State.onDev_dev, Dev.getCore_modCore_self]
    · rw [State.onDev_dev, Dev.getCore_modCore_self]
      exact hmoved.sb c.val
    · unfold State.forwarded State.readPa
      rw [hsb]
      rfl
    · refine (State.byte_modCore _ c.val ?_ b).trans (w.byte_holds c.val (a / 128) b)
      exact fun _ => rfl
  case store =>
    refine ⟨_, congrArg Host.Outcome.next ((State.coreMem_at hat _).trans (State.coreStore_buffered hty hreg hadm v)), onlyDev_onDev _ _,
      fun hlen => ?_, fun hlen => ?_⟩ <;> rw [State.onDev_dev, Dev.getCore_modCore_self]
    · exact Core.enter_room hlen _
    · exact Core.enter_full hlen _
  case fence =>
    have hstep : exec (.serverCoreFence c true) s = .next ((s.accessing c.val {}).drain c.val) :=
      congrArg Host.Outcome.next (State.coreStep_acts hacts _)
    refine ⟨_, hstep, (State.drain_all ?_ ?_).1, State.drain_pow _ _, State.drain_mgmt _ _⟩ <;> rw [State.accessing_core]
    · exact hlen
    · show x.stalled = []
      exact Core.stalled_of_acts hacts
  case fenceReads =>
    have hstep : exec (.serverCoreFence c false) s = .next (s.accessing c.val {}) :=
        congrArg Host.Outcome.next (State.coreStep_acts hacts _)
    exact ⟨_, hstep, onlyDev_onDev _ _, by rw [State.accessing_core]⟩
  case loadFault => exact ⟨_, congrArg Host.Outcome.next (State.coreMem_fault hacts hspan _), State.except_exc _ _ _⟩
  case storeFault => exact ⟨_, congrArg Host.Outcome.next (State.coreMem_fault hacts hspan _), State.except_exc _ _ _⟩
  case lost =>
    refine ⟨_, congrArg Host.Outcome.next (State.coreMem_lost hacts hspan hhit hdirty _), State.hartLost_stops ?_⟩
    rw [State.accessing_core]
    exact fun hl => absurd ((Core.running_of_acts hacts).symm.trans hl) (by decide)
  case io =>
    have hidle : (w.dev.getCore c.val).idle := ⟨hsb, hst⟩
    refine ⟨_, congrArg Host.Outcome.next ((State.coreMem_at hat _).trans (State.ioAccess_sp log2 hp hcr hal)),
      (State.drain_idle hidle).onlyDev.trans (onlyDev_onDev _ _), ?_⟩
    rw [State.onDev_dev, Dev.getCore_modCore_self]
  case zero =>
    refine ⟨_, congrArg Host.Outcome.next ((State.coreMem_at hat _).trans (State.coreStore_buffered hty hreg hadm 0)), onlyDev_onDev _ _, ?_⟩
    rw [State.onDev_dev, Dev.getCore_modCore_self, (Core.enter_room hlen _).1, storeEntry_zero]
  case clean =>
    have hre := State.settleLine_idle (c := c.val) (s := w) ⟨hsb, hst⟩ (a / 128)
    exact ⟨_, congrArg Host.Outcome.next ((State.coreMem_at hat _).trans (State.cbo_idle hadm _)), State.dirtyCopy_cleanLine _ _,
      fun b => (State.byte_cleanLine _ _ b).trans (hre.byte b)⟩
  case flush =>
    have hre := State.settleLine_idle (c := c.val) (s := w) ⟨hsb, hst⟩ (a / 128)
    exact ⟨_, congrArg Host.Outcome.next ((State.coreMem_at hat _).trans (State.cbo_idle hadm _)),
      (State.flushLine_dirtyCopy _ _ _).trans (State.dirtyCopy_cleanLine _ _), State.flushLine_clean _ _,
      fun b => (State.byte_flushLine _ _ b).trans (hre.byte b)⟩
  case inval =>
    have hre := State.settleLine_idle (c := c.val) (s := w) ⟨hsb, hst⟩ (a / 128)
    exact ⟨_, congrArg Host.Outcome.next ((State.coreMem_at hat _).trans (State.cbo_idle hadm _)),
      (State.flushLine_dirtyCopy _ _ _).trans (State.dirtyCopy_cleanLine _ _), State.flushLine_clean _ _,
      fun b => (State.byte_flushLine _ _ b).trans ((State.byte_cleanLine _ _ b).trans (hre.byte b))⟩
  case prefetch =>
    exact ⟨_, congrArg Host.Outcome.next ((State.coreStep_acts hacts _).trans (State.prefetch_of_mapped hspan hadm)), State.holds_line _ _ _,
      fun b => (State.byte_holds _ _ _ b).trans (s.byte_accessing c.val h b)⟩

end Sys2Proof.Machine
end

section
/-!
PROOFS. Atomics of server cores on system memory (R242 to R244): O41.
-/

namespace Sys2Proof.Machine

/-- The bytes of an AMO, LR or SC. -/
def atomSize (dbl : Bool) : Nat := if dbl then 8 else 4

/-- An aligned atomic stays within its line. -/
theorem atom_line {a : Nat} (dbl : Bool) (h : a % atomSize dbl = 0) : a % 128 + atomSize dbl ≤ 128 := by
  cases dbl <;> simp only [atomSize, Bool.false_eq_true, if_false, if_true] at h ⊢ <;> omega

theorem atomSize_pos (dbl : Bool) : 0 < atomSize dbl := by
  cases dbl <;> decide

/-- A write of an atomic's bytes at its home ends every hold on the line. -/
theorem State.writePa_ends_hold (s : State) {a : Nat} {bs : Bytes} (h : a % 128 + bs.length ≤ 128)
    (hne : bs ≠ []) (c : Nat) :
    ((s.writePa a bs).dev.getCore c).resv ≠ some (a / 128) := by
  rw [s.writePa_line h hne, State.getCore_homeWrite]
  exact Core.without_resv _ _

/-! ### An aligned atomic of system memory, by a core whose stores are all performed. -/

section
variable {w : State} {c a : Nat} {dbl : Bool} (hidle : (w.dev.getCore c).idle)
    (hadm : w.admits c a (atomSize dbl) = true)
  (hcaddy : isCaddy a = true) (hal : a % atomSize dbl = 0)

include hadm hcaddy hal in
theorem State.atomFault_none (fault : Nat) : w.atomFault c a (atomSize dbl) fault = none := by
  simp [State.atomFault, hadm, hcaddy, hal]

include hidle hadm hcaddy hal

theorem State.coreAmo_plain (hclean : w.poisonedAt a (atomSize dbl) = false) (rl : Bool) (op : AmoOp)
    (v : Word) :
    w.coreAmo c a dbl rl op v = ((w.beforeAtomic c a rl).writePa a (leBytes (atomSize dbl) (amoResult op (8 * atomSize dbl)
        (leNat (w.readPa a (atomSize dbl))) (v.toNat % 2 ^ (8 * atomSize dbl))))).onDev fun d =>
            d.modCore c fun x =>
      { x with rd := sext (atomSize dbl) (w.readPa a (atomSize dbl)) } := by
  have hre := State.beforeAtomic_idle hidle a rl
  unfold State.coreAmo
  rw [← atomSize]
  dsimp only
  rw [State.atomFault_none hadm hcaddy hal]
  dsimp only
  rw [hre.poisonedAt, hclean, hre.readPa]
  rfl

theorem State.coreLr_plain (hclean : w.poisonedAt a (atomSize dbl) = false) (rl : Bool) :
    w.coreLr c a dbl rl = (w.beforeAtomic c a rl).onDev fun d => d.modCore c fun x =>
      { x with rd := sext (atomSize dbl) (w.readPa a (atomSize dbl)), resv := some (a / 128) } := by
  have hre := State.beforeAtomic_idle hidle a rl
  unfold State.coreLr
  rw [← atomSize]
  dsimp only
  rw [State.atomFault_none hadm hcaddy hal]
  dsimp only
  rw [hre.poisonedAt, hclean, hre.readPa]
  rfl

theorem State.coreSc_plain (rl : Bool) (v : Word) :
    w.coreSc c a dbl rl v =
      if (w.dev.getCore c).resv = some (a / 128) then
        ((w.beforeAtomic c a rl).writePa a (leBytes (atomSize dbl) v.toNat)).onDev fun d =>
            d.modCore c fun x => { x with rd := 0, resv := none }
      else (w.beforeAtomic c a rl).onDev fun d => d.modCore c fun x => { x with rd := 1, resv := none } := by
  have hre := State.beforeAtomic_idle hidle a rl
  unfold State.coreSc
  rw [← atomSize]
  dsimp only
  rw [State.atomFault_none hadm hcaddy hal]
  dsimp only
  rw [hre.core]

end

/-- What the write of an atomic leaves: its bytes in memory and every other byte as it was, and no hold
on the line (R243, R244). -/
theorem State.atomic_written {w u : State} (hre : w.Restated u) {a n : Nat} (hline : a % 128 + n ≤ 128)
    (hpos : 0 < n) (v c : Nat) {f : Core → Core}
    (hf : ∀ x, (f x).dirty = x.dirty ∧ ((f x).resv = x.resv ∨ (f x).resv = none)) :
    let t := (u.writePa a (leBytes n v)).onDev fun d => d.modCore c f
    (∀ b, t.byte b = if a ≤ b ∧ b < a + n then (leBytes n v).getD (b - a) 0 else w.byte b) ∧ (t.dev.getCore c).resv ≠ some (a / 128) ∧
      t.pow = w.pow ∧ t.mgmt = w.mgmt := by
  intro t
  have hlen := length_leBytes n v
  have hfit : a % 128 + (leBytes n v).length ≤ 128 := by rw [hlen]; exact hline
  have hne : leBytes n v ≠ [] := List.ne_nil_of_length_pos (by omega)
  have hmoved := u.moved_writePa a (leBytes n v)
  obtain ⟨_, _, _, hpow, hmgmt⟩ := hre.onlyDev
  refine ⟨fun b => ?_, ?_, hmoved.pow.trans hpow, hmoved.mgmt.trans hmgmt⟩
  · rw [State.byte_modCore _ c fun x => (hf x).1, State.byte_writePa_line u hfit hne, hlen, hre.byte]
  · rw [State.onDev_dev, Dev.getCore_modCore_self]
    rcases (hf ((u.writePa a (leBytes n v)).dev.getCore c)).2 with hr | hr <;> rw [hr]
    · exact u.writePa_ends_hold hfit hne c
    · exact fun h => by cases h

/-- Settles O41: each atomic by its rule above. -/
theorem coreAtomics : Obligations.CoreAtomics := by
  unfold Obligations.CoreAtomics
  intro s c h va a dbl aq rl v n plain writes
  refine ⟨fun w op hp hclean => ?amo, fun w hp hclean => ?lr, fun w hp hheld => ?success, fun w hp hfree => ?failure, fun line mask data => ?hold⟩
  case amo =>
    obtain ⟨hat, hsb, hst, hadm, hcaddy, hal⟩ := hp
    have hidle : (w.dev.getCore c.val).idle := ⟨hsb, hst⟩
    refine ⟨_, congrArg Host.Outcome.next ((State.coreMem_at hat _).trans (State.coreAmo_plain hidle hadm hcaddy hal hclean rl op v)), ?_,
      State.atomic_written (State.beforeAtomic_idle hidle a rl) (atom_line dbl hal)
          (atomSize_pos dbl) _ _ fun _ => ⟨rfl, .inl rfl⟩⟩
    rw [State.onDev_dev, Dev.getCore_modCore_self]
    rfl
  case lr =>
    obtain ⟨hat, hsb, hst, hadm, hcaddy, hal⟩ := hp
    have hidle : (w.dev.getCore c.val).idle := ⟨hsb, hst⟩
    refine ⟨_, congrArg Host.Outcome.next ((State.coreMem_at hat _).trans (State.coreLr_plain hidle hadm hcaddy hal hclean rl)),
      (State.beforeAtomic_idle hidle a rl).onlyDev.trans (onlyDev_onDev _ _), ?_, ?_⟩ <;>
      rw [State.onDev_dev, Dev.getCore_modCore_self]
    rfl
  case success =>
    obtain ⟨hat, hsb, hst, hadm, hcaddy, hal⟩ := hp
    have hidle : (w.dev.getCore c.val).idle := ⟨hsb, hst⟩
    refine ⟨_, congrArg Host.Outcome.next ((State.coreMem_at hat _).trans ((State.coreSc_plain hidle hadm hcaddy hal rl v).trans (if_pos hheld))), ?_,
      State.atomic_written (State.beforeAtomic_idle hidle a rl) (atom_line dbl hal)
          (atomSize_pos dbl) _ _ fun _ => ⟨rfl, .inr rfl⟩⟩
    rw [State.onDev_dev, Dev.getCore_modCore_self]
  case failure =>
    obtain ⟨hat, hsb, hst, hadm, hcaddy, hal⟩ := hp
    have hidle : (w.dev.getCore c.val).idle := ⟨hsb, hst⟩
    have hre := State.beforeAtomic_idle hidle a rl
    refine ⟨_, congrArg Host.Outcome.next ((State.coreMem_at hat _).trans ((State.coreSc_plain hidle hadm hcaddy hal rl v).trans (if_neg hfree))),
      hre.onlyDev.trans (onlyDev_onDev _ _), ?_, ?_, fun b => ?_⟩
    · rw [State.onDev_dev, Dev.getCore_modCore_self]
    · rw [State.onDev_dev, Dev.getCore_modCore_self]
    · refine (State.byte_modCore _ c.val ?_ b).trans (hre.byte b)
      exact fun _ => rfl
  case hold =>
    rw [State.getCore_homeWrite]
    exact Core.without_resv _ _

end Sys2Proof.Machine
end

section
/-!
PROOFS. Accesses of hosts and network clients by virtual address (R250, R251, R253, R258, R341 to
R343): what such an access does within a line, what the landing of earlier writes leaves, and the
data windows: O43.
-/

namespace Sys2Proof.Machine

/-! ### What a landing leaves of attachments and queue pairs (R233, R250, R253). -/

/-- The tables that no write at a home touches. -/
structure Dev.Clients (d e : Dev) : Prop where
  atts : e.atts = d.atts
  qps : e.qps = d.qps
  ctxs : e.ctxs = d.ctxs
  eports : e.eports = d.eports
  ready : e.ready = d.ready

theorem Dev.Clients.refl (d : Dev) : d.Clients d := ⟨rfl, rfl, rfl, rfl, rfl⟩

theorem Dev.Clients.trans {d e f : Dev} (h : d.Clients e) (k : e.Clients f) : d.Clients f :=
  ⟨k.atts.trans h.atts, k.qps.trans h.qps, k.ctxs.trans h.ctxs, k.eports.trans h.eports, k.ready.trans h.ready⟩

theorem Dev.clients_markDirty (d : Dev) (pa : Nat) : d.Clients (d.markDirty pa) := by
  unfold Dev.markDirty
  split <;> exact ⟨rfl, rfl, rfl, rfl, rfl⟩

theorem State.clients_homeWrite (s : State) (line : Nat) (mask : BitVec 128) (data : Bytes) :
    s.dev.Clients (s.homeWrite line mask data).dev := by
  obtain ⟨b, p, c, x, h⟩ := s.homeWrite_cases line mask data
  rw [h]
  exact ⟨rfl, rfl, rfl, rfl, rfl⟩

theorem State.clients_land (s : State) (id : Nat) : s.dev.Clients (s.land id).dev := by
  unfold State.land
  split
  · exact .refl _
  · split
    · exact (State.clients_homeWrite (s.onMem _) _ _ _).trans (Dev.clients_markDirty _ _)
    · exact .refl _

theorem State.clients_landAll (s : State) (o : Origin) : s.dev.Clients (s.landAll o).dev :=
  foldl_keep (fun t : State => s.dev.Clients t.dev) _ (fun t w h => h.trans (t.clients_land w.id)) _ s (.refl _)

section
variable {d e : Dev} (h : d.Clients e)
include h

theorem Dev.Clients.getAtt (a : Nat) : e.getAtt a = d.getAtt a := by rw [Dev.getAtt, h.atts]; rfl
theorem Dev.Clients.getQp (q : Nat) : e.getQp q = d.getQp q := by rw [Dev.getQp, h.qps]; rfl
theorem Dev.Clients.getCtx (n : Nat) : e.getCtx n = d.getCtx n := by rw [Dev.getCtx, h.ctxs]; rfl

end

/-! ### An access within a line. -/

theorem lineExtents_line {va n : Nat} (hn : n ≠ 0) (h : va % 128 + n ≤ 128) :
    lineExtents (n + 1) va n = [(va, n)] := by
  have hmin : min (128 - va % 128) n = n := by omega
  obtain ⟨k, rfl⟩ := Nat.exists_eq_succ_of_ne_zero hn
  unfold lineExtents
  rw [if_neg hn, hmin]
  dsimp only
  unfold lineExtents
  rw [Nat.sub_self, if_pos rfl]

/-- The write of a line that a client's access puts on its way. -/
def State.clientLine (s : State) (o : Origin) (n pa : Nat) (data : Bytes) : State :=
  s.onMem fun m => m.issue o n (match s.dev.getCtx n with | some c => c.gen | none => 0) (pa / 128)
      (maskOf (pa % 128) data.length)
    (lineOf (pa % 128) data)

theorem sub_all (data : Bytes) : sub data 0 data.length = data := by
  refine List.ext_getElem (by simp [sub]) fun i h1 h2 => ?_
  simp [sub, List.getD, h2]

section
variable {s : State} {n va : Nat} {data : Bytes} (hne : data ≠ []) (hline : va % 128 + data.length ≤ 128)
include hne hline

/-- A write that the context's table serves is on its way. -/
theorem State.clientWrite_served {pa : Nat} (hpa : s.dev.clientPa n va true = some pa) (o : Origin) :
    s.clientWrite o n va data = s.clientLine o n pa data := by
  unfold State.clientWrite
  dsimp only
  rw [lineExtents_line (mt List.length_eq_zero_iff.1 hne) hline, List.foldl_cons, List.foldl_nil]
  dsimp only
  rw [hpa, Nat.sub_self, sub_all]
  rfl

/-- A write that it refuses is discarded and counts. -/
theorem State.clientWrite_refused (hpa : s.dev.clientPa n va true = none) (o : Origin) :
    s.clientWrite o n va data = s.onDev fun d => d.countCtx n 0x12 1 := by
  unfold State.clientWrite
  dsimp only
  rw [lineExtents_line (mt List.length_eq_zero_iff.1 hne) hline, List.foldl_cons, List.foldl_nil]
  dsimp only
  rw [hpa]

end

/-- A read that the table serves answers with the line's bytes, or with ones where it touches poison. -/
theorem State.clientRead_served {s : State} {n va len pa : Nat} (hlen : len ≠ 0) (hline : va % 128 + len ≤ 128)
    (hpa : s.dev.clientPa n va false = some pa) :
    s.clientRead n va len = (if s.poisonedAt pa len then List.replicate len 0xFF else s.readPa pa len, s.poisonedAt pa len, 0) := by
  unfold State.clientRead
  rw [lineExtents_line hlen hline, List.foldl_cons, List.foldl_nil, hpa]
  rfl

/-- A count of a context's statistics holds at its greatest value. -/
theorem Dev.getCtx_countCtx {d : Dev} {n : Nat} {c : Ctx} (h : d.getCtx n = some c) (k m : Nat) :
    (d.countCtx n k m).getCtx n = some { c with stats := c.stats.count k m } := by
  rw [Dev.countCtx, Dev.getCtx_modCtx, if_pos rfl, h, Option.map_some]

theorem Stats.count_one (x : Stats) (k : Nat) :
    Map.get (x.count k 1).live k 0 = min max64 (Map.get x.live k 0 + 1) := by
  unfold Stats.count Map.addSat
  rw [if_neg (by decide)]
  exact Map.get_put_self _ _ _ _

/-- The bytes of a write on its way stand in its line. -/
theorem getD_lineOf_offset {data : Bytes} {off i : Nat} (hi : i < data.length) :
    (lineOf off data).getD (off + i) 0 = data.getD i 0 := by
  rw [getD_lineOf (Nat.le_add_right _ _) (Nat.add_lt_add_left hi _), Nat.add_sub_cancel_left]

/-! ### The data window (R341 to R343). -/

section
variable {s : State} {a : Fin 8} (hl : s.linked a.val = true) (hd : s.pow.dormant = false)
include hl hd

theorem exec_windowWrite_linked (off : Nat) (data : Bytes) :
    exec (.windowWrite a off data) s = .next (s.windowWrite a.val off data) :=
  congrArg Host.Outcome.next (State.host_of_linked hl hd _)

theorem exec_windowRead_linked (off len : Nat) :
    exec (.windowRead a off len) s = .next (s.windowRead a.val off len) :=
  congrArg Host.Outcome.next (State.host_of_linked hl hd _)

theorem exec_windowBind_linked : exec (.windowBind a) s = .next (s.windowBind a.val) :=
  congrArg Host.Outcome.next (State.host_of_linked hl hd _)

end

theorem State.windowWrite_bound {s : State} {a n base : Nat}
    (hb : (s.dev.getAtt a).bound = some (n, base)) (hr : s.dev.ready = true) (off : Nat)
    (data : Bytes) : s.windowWrite a off data = s.clientWrite (.window a) n (base * 2 ^ 16 + off) data := by
  unfold State.windowWrite
  rw [hb]
  exact if_pos hr

theorem State.windowWrite_unbound {s : State} {a : Nat} (hb : (s.dev.getAtt a).bound = none) (off : Nat)
    (data : Bytes) :
    s.windowWrite a off data = s.windowDrop a := by
  unfold State.windowWrite
  rw [hb]

/-- A read of a bound window, within a line that the table serves once the window's own writes have landed. -/
theorem State.windowRead_served {s : State} {a n base off len pa : Nat}
    (hb : (s.dev.getAtt a).bound = some (n, base)) (hr : s.dev.ready = true)
    (hlen : len ≠ 0) (hline : (base * 2 ^ 16 + off) % 128 + len ≤ 128)
    (hpa : (s.landAll (.window a)).dev.clientPa n (base * 2 ^ 16 + off) false = some pa) :
    s.windowRead a off len = (let v := s.landAll (.window a)
      (v.onDev fun d => d.countCtx n 0x12 0).returns a (if v.poisonedAt pa len then List.replicate len 0xFF else v.readPa pa len)
        (v.poisonedAt pa len)) := by
  unfold State.windowRead
  dsimp only
  rw [hb]
  dsimp only
  rw [if_pos hr, State.clientRead_served hlen hline hpa]

/-- A window may be bound to an active context of its attachment. -/
def State.bindable (s : State) (a n : Nat) : Bool :=
  match s.dev.getCtx n with
  | some c => c.home = a && c.state = .active
  | none => false

theorem State.bindable_of_active {s : State} {a n : Nat} {c : Ctx} (hc : s.dev.getCtx n = some c)
    (hh : c.home = a) (hs : c.state = .active) :
    s.bindable a n = true := by
  simp [State.bindable, hc, hh, hs]

theorem State.not_bindable {s : State} {a n : Nat}
    (h : ∀ c, s.dev.getCtx n = some c → c.home ≠ a ∨ c.state ≠ .active) : s.bindable a n = false := by
  unfold State.bindable
  split
  · rename_i c hc
    rcases h c hc with hn | hn <;> simp [hn]
  · rfl

/-- The context that HG_WINDOW_CTX names, and the granule that HG_WINDOW_VA names. -/
def Att.named (x : Att) : Nat × Nat := (x.winCtx.toNat % 2 ^ 12, bits x.winVa.toNat 47 16)

/-- What a read of HG_WINDOW_VA makes of the binding (R342, R343). -/
def State.rebind (s : State) (a : Nat) : State :=
  if (s.dev.getAtt a).winCtx.getLsbD 16 = false then s.onDev fun d => d.modAtt a fun x =>
      { x with bound := none }
  else if s.bindable a (s.dev.getAtt a).named.1 = true then s.onDev fun d => d.modAtt a fun x =>
      { x with bound := some (s.dev.getAtt a).named }
  else s.attCount a 11 fun x => { x with bound := none, winCtx := x.winCtx &&& ~~~0x10000#64 }

/-- With none of the window's writes on its way, the read makes its change and answers. -/
theorem State.windowBind_eq {s : State} {a : Nat} (hq : ∀ w ∈ s.mem.flight, w.from' ≠ .window a) :
    s.windowBind a = (s.rebind a).returns a (leBytes 8 ((s.rebind a).dev.getAtt a).boundVa) false := by
  unfold State.windowBind
  rw [State.landAll_of_quiet hq]
  dsimp only
  cases hb : (s.dev.getAtt a).winCtx.getLsbD 16 with
  | false =>
    unfold State.rebind
    rw [if_pos hb]
    rfl
  | true =>
    unfold State.rebind
    rw [if_neg (ne_false_of_eq_true hb)]
    rfl

theorem State.rebind_onlyDev (s : State) (a : Nat) : OnlyDev s (s.rebind a) := by
  unfold State.rebind
  split
  · exact onlyDev_onDev _ _
  · split
    · exact onlyDev_onDev _ _
    · exact State.attCount_onlyDev _ _ _ _

theorem State.rebind_off {s : State} {a : Nat} (h : (s.dev.getAtt a).winCtx.getLsbD 16 = false) :
    (s.rebind a).dev.getAtt a = { s.dev.getAtt a with bound := none } := by
  unfold State.rebind
  rw [if_pos h, State.onDev_dev, Dev.getAtt_modAtt_self]

theorem State.rebind_on {s : State} {a : Nat} (h : (s.dev.getAtt a).winCtx.getLsbD 16 = true)
    (hb : s.bindable a (s.dev.getAtt a).named.1 = true) :
    (s.rebind a).dev.getAtt a = { s.dev.getAtt a with bound := some (s.dev.getAtt a).named } := by
  unfold State.rebind
  rw [if_neg (ne_false_of_eq_true h), if_pos hb, State.onDev_dev, Dev.getAtt_modAtt_self]

theorem State.rebind_refused {s : State} {a : Nat} (h : (s.dev.getAtt a).winCtx.getLsbD 16 = true)
    (hb : s.bindable a (s.dev.getAtt a).named.1 = false) :
    ((s.rebind a).dev.getAtt a).bound = none ∧ ((s.rebind a).dev.getAtt a).winCtx.getLsbD 16 = false := by
  unfold State.rebind
  rw [if_neg (ne_false_of_eq_true h), if_neg (ne_true_of_eq_false hb)]
  constructor
  · exact State.attCount_att Att.bound (fun _ _ _ => rfl) s a 11 _
  · rw [State.attCount_att Att.winCtx (fun _ _ _ => rfl) s a 11]
    show ((s.dev.getAtt a).winCtx &&& ~~~0x10000#64).getLsbD 16 = false
    rw [BitVec.getLsbD_and, BitVec.getLsbD_not, show (0x10000#64).getLsbD 16 = true from rfl, Bool.not_true, Bool.and_false, Bool.and_false]

/-- What the read of HG_WINDOW_VA leaves: memory, and the binding that it made. -/
theorem exec_windowBind_quiet {s : State} {a : Fin 8} (hl : s.linked a.val = true) (hd : s.pow.dormant = false)
    (hq : ∀ w ∈ s.mem.flight, w.from' ≠ .window a.val) {b : Option (Nat × Nat)}
        (hb : ((s.rebind a.val).dev.getAtt a.val).bound = b)
    (hw : b = none → ((s.rebind a.val).dev.getAtt a.val).winCtx.getLsbD 16 = false) :
    ∃ u, exec (.windowBind a) s = .next u ∧ u.mem = s.mem ∧ (u.dev.getAtt a.val).bound = b ∧
      (b = none → (u.dev.getAtt a.val).winCtx.getLsbD 16 = false) := by
  have hstep := exec_windowBind_linked hl hd
  rw [State.windowBind_eq hq] at hstep
  refine ⟨_, hstep, (s.rebind_onlyDev a.val).mem_eq, ?_, ?_⟩ <;> rw [State.returns, State.onDev_dev, Dev.getAtt_modAtt_self]
  · exact hb
  · exact hw

/-- Settles O43: a write and a read of a bound window by the rule of a client's access within a line, a
binding by its rule above. -/
theorem windowAccesses : Obligations.WindowAccesses := by
  unfold Obligations.WindowAccesses
  intro s a off hl hd x
  refine ⟨fun n base c hb hr hc => ?bound, fun hb data => ?unbound, fun hq => ⟨fun hoff => ?off, fun c hon hc hh hs => ?on, fun hon h => ?refused⟩⟩
  case bound =>
    intro va
    refine ⟨fun pa data hpa hne hline _ => ?write, fun data hpa hne hline => ?dropped, ?read⟩
    case write =>
      have hstep := exec_windowWrite_linked hl hd off data
      rw [State.windowWrite_bound hb hr, State.clientWrite_served hne hline hpa] at hstep
      refine ⟨_, _, hstep, rfl, rfl, rfl, rfl, rfl, ?_, rfl, rfl, fun i hi => getD_lineOf_offset hi⟩
      dsimp only
      rw [hc]
    case dropped =>
      have hstep := exec_windowWrite_linked hl hd off data
      rw [State.windowWrite_bound hb hr, State.clientWrite_refused hne hline hpa] at hstep
      exact ⟨_, _, hstep, rfl, Dev.getCtx_countCtx hc _ _, Stats.count_one _ _⟩
    case read =>
      intro pa len v hpa hlen hline
      have hstep := exec_windowRead_linked hl hd off len
      rw [State.windowRead_served hb hr hlen hline hpa] at hstep
      refine ⟨_, hstep, rfl, ?_, ?_⟩ <;> rw [State.returns, State.onDev_dev, Dev.getAtt_modAtt_self]
  case unbound =>
    have hstep := exec_windowWrite_linked hl hd off data
    rw [State.windowWrite_unbound hb] at hstep
    exact ⟨_, hstep, (State.attCount_onlyDev _ _ _ _).mem_eq, State.attCount_att Att.winDrops (fun _ _ _ => rfl) s a.val 10 _,
      State.attCount_status s a.val _ (by decide)⟩
  case off =>
    refine exec_windowBind_quiet hl hd hq ?_ fun _ => ?_ <;> rw [State.rebind_off hoff]
    exact hoff
  case on =>
    refine exec_windowBind_quiet hl hd hq ?_ fun h => by cases h
    rw [State.rebind_on hon (State.bindable_of_active hc hh hs)]
    rfl
  case refused =>
    obtain ⟨hb, hw⟩ := State.rebind_refused hon (State.not_bindable h)
    exact exec_windowBind_quiet hl hd hq hb fun _ => hw

end Sys2Proof.Machine
end

section
/-!
PROOFS. Requests of network clients (R253, R405 to R410, Table 17.2): O47.
-/

namespace Sys2Proof.Machine

/-! ### Frames of a port, and queue pairs (R402, R413). -/

/-- A port that is up, with room in its receive buffer, takes a frame. -/
theorem State.frame_taken {s : State} {p : Nat} (hup : (s.dev.getEPort p).up = true)
    (hfill : (s.dev.getEPort p).fill < 2 ^ 23)
    (f : State → State) : s.frame p f = f s := by
  unfold State.frame
  dsimp only
  rw [if_neg (by simp [hup]), if_neg fun h => by omega]

theorem State.packet_taken {s : State} {q : Nat} {x : Qp} (hx : s.dev.getQp q = some x)
    (hup : (s.dev.getEPort x.port).up = true)
    (hfill : (s.dev.getEPort x.port).fill < 2 ^ 23) (f : Qp → State → State) : s.packet q f = f x s := by
  unfold State.packet
  rw [hx]
  exact State.frame_taken hup hfill _

theorem Dev.getQp_modQp_self {d : Dev} {q : Nat} {x : Qp} (h : d.getQp q = some x) (f : Qp → Qp) :
    (d.modQp q f).getQp q = some (f x) := by
  rw [Dev.getQp_modQp, if_pos rfl, h, Option.map_some]

theorem State.getQp_modQp {s : State} {q : Nat} {x : Qp} (h : s.dev.getQp q = some x) (f : Qp → Qp) :
    (s.onDev fun d => d.modQp q f).dev.getQp q = some (f x) := Dev.getQp_modQp_self h f

theorem State.getQp_modQp_netCount {s : State} {q : Nat} {x : Qp} (h : s.dev.getQp q = some x)
    (f : Qp → Qp) (p row n : Nat) :
    (s.onDev fun d => (d.modQp q f).netCount p row n).dev.getQp q = some (f x) := Dev.getQp_modQp_self h f

theorem Dev.getQp_netCount (d : Dev) (p row n q : Nat) : (d.netCount p row n).getQp q = d.getQp q := rfl

theorem State.answer_onlyDev (s : State) (q p a : Nat) : OnlyDev s (s.answer q p a) := onlyDev_onDev _ _

/-- An answer changes its queue pair alone: its code. -/
theorem State.answer_getQp {s : State} {q : Nat} {x : Qp} (h : s.dev.getQp q = some x) (p a : Nat) :
    (s.answer q p a).dev.getQp q = some { x with answer := a } := by
  unfold State.answer
  rw [State.onDev_dev]
  dsimp only
  have hmod := Dev.getQp_modQp_self h fun x => { x with answer := a }
  split <;> split <;> exact hmod

/-! ### Connections (R405, R406). -/

/-- A connection that no rule of R406 refuses. -/
theorem State.connectCode_none {s : State} {p n gen mtu : Nat} {key : Word} {c : Ctx}
    (hc : s.dev.getCtx n = some c) (hgen : c.gen = gen)
    (hkey : (s.dev.getAtt c.home).token = some key) (hpt : bit (recNet s.mgmt.record p 28 1) c.pt = true)
        (hroom : s.dev.qps.length < 4096)
    (hstate : c.state = .active) (hmtu : mtu = 4096 ∨ mtu = 1024) : s.connectCode p n gen key mtu = none := by
  unfold State.connectCode
  rw [hc]
  dsimp only
  rw [if_neg (not_not_intro hgen), if_neg (not_not_intro hkey), if_neg (by simp [hpt]), if_neg (by omega), if_neg (not_not_intro hstate),
    if_neg (by omega)]

/-- The queue pair that a connection makes. -/
def State.newQp (s : State) (p n gen : Nat) : Qp :=
  { port := p, ctx := n, gen := gen, rkey := Config.rkey s.dev.free, raised := s.time.fabric,
    dscp := recNet s.mgmt.record p 26 1, dscpCnp := recNet s.mgmt.record p 27 1,
    retries := Config.retryCount, rnrRetries := Config.rnrCount }

/-- The table of queue pairs and the port after a connection. -/
def Dev.connected (d : Dev) (p : Nat) (x : Qp) : Dev :=
  ({ d with qps := Map.put d.qps d.nextQp x, nextQp := d.nextQp + 1 } : Dev).modEPort p fun y =>
      { y with cmCode := 0, cmQp := d.nextQp }

theorem State.connect_of_ok {s : State} {p n gen mtu : Nat} {key : Word}
    (h : s.connectCode p n gen key mtu = none) :
    s.connect p n gen key mtu = (s.took 1).onDev fun d => d.connected p (s.newQp p n gen) := by
  unfold State.connect
  rw [h]
  rfl

theorem Dev.connected_getQp (d : Dev) (p : Nat) (x : Qp) (k : Nat) :
    (d.connected p x).getQp k = if d.nextQp = k then some x else d.getQp k := Map.find_put _ _ _ _

theorem Dev.connected_port (d : Dev) (p : Nat) (x : Qp) :
    ((d.connected p x).getEPort p).cmCode = 0 ∧ ((d.connected p x).getEPort p).cmQp = d.nextQp := by
  unfold Dev.connected
  rw [Dev.getEPort_modEPort_self]
  exact ⟨rfl, rfl⟩

/-! ### SEND (R407, R408, R410). -/

/-- The bytes of a request count towards its port. -/
def State.received (s : State) (p n : Nat) : State := s.onDev fun d => d.netCount p 0 n

section
variable {s : State} {q : Nat} {x : Qp} (hx : s.dev.getQp q = some x) (hup : (s.dev.getEPort x.port).up = true)
  (hfill : (s.dev.getEPort x.port).fill < 2 ^ 23)
include hx hup hfill

omit hup hfill in
theorem State.received_answer (p n a : Nat) : OnlyDev s ((s.received p n).answer q x.port a) ∧
    ((s.received p n).answer q x.port a).dev.getQp q = some { x with answer := a } :=
  ⟨(onlyDev_onDev s _).trans (State.answer_onlyDev _ _ _ _), State.answer_getQp (s := s.received p n) hx _ _⟩

theorem State.send_of_error (herr : x.err = true) (data : Bytes) :
    s.send q data = (s.received x.port data.length).answer q x.port 2 := by
  unfold State.send
  rw [State.packet_taken hx hup hfill]
  exact if_pos herr

theorem State.send_of_length (herr : x.err = false) {data : Bytes} (hlen : data.length ≠ 256) :
    s.send q data = (s.received x.port data.length).answer q x.port 1 := by
  unfold State.send
  rw [State.packet_taken hx hup hfill]
  exact (if_neg (ne_true_of_eq_false herr)).trans (if_pos hlen)

theorem State.send_of_active {c : Ctx} (hc : s.dev.getCtx x.ctx = some c) (herr : x.err = false)
    {data : Bytes} (hlen : data.length = 256) :
    s.send q data = if c.state ≠ .active ∨ 16 ≤ x.msgs.length then (s.received x.port data.length).answer q x.port 3
      else ((s.received x.port data.length).onDev fun d => d.modQp q fun x => { x with msgs := x.msgs ++ [data] }).answer q x.port 0 := by
  have hctx : (s.onDev fun d => d.netCount x.port 0 data.length).dev.getCtx x.ctx = some c := hc
  unfold State.send
  rw [State.packet_taken hx hup hfill]
  dsimp only
  rw [if_neg (ne_true_of_eq_false herr), if_neg (not_not_intro hlen)]
  rw [hctx]
  exact if_congr (by simp) rfl rfl

/-! ### RDMA and the operations that the subset refuses (R409, Table 17.2). -/

omit hx hup hfill in
/-- An RDMA request of a queue pair in Error, with another R_Key, or beyond 48 bits of address. -/
theorem Qp.rejects_iff (x : Qp) (va : Word) (rkey : BitVec 32) :
    x.rejects va rkey = true ↔ x.err = true ∨ rkey ≠ x.rkey ∨ 2 ^ 48 ≤ va.toNat := by
  simp [Qp.rejects, or_assoc]

omit hx hup hfill in
theorem Qp.not_rejects (x : Qp) {va : Word} {rkey : BitVec 32} (herr : x.err = false)
    (hkey : rkey = x.rkey) (hva : va.toNat < 2 ^ 48) :
    x.rejects va rkey = false := by
  rw [Bool.eq_false_iff, ne_eq, Qp.rejects_iff]
  rintro (he | hk | hv)
  · exact Bool.false_ne_true (herr.symm.trans he)
  · exact hk hkey
  · omega

theorem State.rdmaWrite_rejected {va : Word} {rkey : BitVec 32} (h : x.rejects va rkey = true) (data : Bytes) :
    s.rdmaWrite q va rkey data = (s.received x.port data.length).answer q x.port 2 := by
  unfold State.rdmaWrite
  rw [State.packet_taken hx hup hfill]
  exact if_pos h

theorem State.rdmaWrite_taken {va : Word} {rkey : BitVec 32} (h : x.rejects va rkey = false) (data : Bytes) :
    s.rdmaWrite q va rkey data = ((s.received x.port data.length).clientWrite (.qp q) x.ctx va.toNat data).answer q x.port 0 := by
  unfold State.rdmaWrite
  rw [State.packet_taken hx hup hfill]
  exact if_neg (ne_true_of_eq_false h)

theorem State.rdmaRead_rejected {va : Word} {rkey : BitVec 32} (h : x.rejects va rkey = true) (len : Nat) :
    s.rdmaRead q va rkey len = s.answer q x.port 2 := by
  unfold State.rdmaRead
  rw [State.packet_taken hx hup hfill]
  exact if_pos h

/-- A queue pair with one READ more, and the bytes that it returns. -/
def Qp.reading (data : Bytes) (x : Qp) : Qp := { x with reads := x.reads + 1, rdata := data }

/-- What a READ answers, within a line that the table serves once the queue pair's own writes have landed. -/
theorem State.rdmaRead_served {va : Word} {rkey : BitVec 32} (h : x.rejects va rkey = false)
    (hreads : x.reads < 16) {len pa : Nat} (hlen : len ≠ 0)
    (hline : va.toNat % 128 + len ≤ 128) (hpa : (s.landAll (.qp q)).dev.clientPa x.ctx va.toNat false = some pa) :
    s.rdmaRead q va rkey len = (let v := (s.landAll (.qp q)).onDev fun d => d.countCtx x.ctx 0x12 0
      if (s.landAll (.qp q)).poisonedAt pa len = true then v.answer q x.port 2
      else (v.onDev fun d => (d.modQp q (Qp.reading ((s.landAll (.qp q)).readPa pa len))).netCount x.port 1 len).answer q x.port 0) := by
  unfold State.rdmaRead
  rw [State.packet_taken hx hup hfill]
  dsimp only
  rw [if_neg (ne_true_of_eq_false h), if_neg (by omega), State.clientRead_served hlen hline hpa]
  dsimp only
  split <;> rfl

theorem State.refuseOp_taken (herr : x.err = false) : s.refuseOp q = s.answer q x.port 1 := by
  unfold State.refuseOp
  rw [State.packet_taken hx hup hfill, herr]
  rfl

end

/-! ### Replies and retries (R405, R408, R410). -/

theorem Qp.accepted_of_reply {x : Qp} (h : x.replies ≠ []) :
    x.accepted = { x with replies := x.replies.tail, retries := Config.retryCount, rnrRetries := Config.rnrCount } := by
  unfold Qp.accepted
  rw [if_neg (by simpa using h), List.drop_one]
  rfl

/-- PFC holds a port's retries. -/
theorem Dev.retry_paused {d : Dev} {q : Nat} {x : Qp} (hx : d.getQp q = some x)
    (hp : (d.getEPort x.port).paused = true) : d.retry q false = d := by
  unfold Dev.retry
  rw [hx]
  exact if_pos (.inr (.inl hp))

section
variable {d : Dev} {q : Nat} {x : Qp} (hx : d.getQp q = some x) (herr : x.err = false) (hrep : x.replies ≠ [])
include hx herr hrep

/-- An acknowledgement takes the oldest reply and restores the retries. -/
theorem Dev.ackFor_reply : (d.ackFor q .ack).getQp q =
    some { x with replies := x.replies.tail, retries := Config.retryCount, rnrRetries := Config.rnrCount } := by
  unfold Dev.ackFor
  rw [hx]
  dsimp only
  rw [if_neg (ne_true_of_eq_false herr), Dev.getQp_netCount, Dev.getQp_modQp_self hx, Qp.accepted_of_reply hrep]

theorem Dev.retry_again (hp : (d.getEPort x.port).paused = false) (hr : x.retries ≠ 0) :
    (d.retry q false).getQp q = some { x with retries := x.retries - 1 } := by
  unfold Dev.retry
  rw [hx]
  dsimp only
  rw [if_neg (by simp [herr, hp, hrep])]
  simp only [Bool.false_eq_true, if_false]
  rw [if_neg hr]
  exact Dev.getQp_modQp_self hx _

theorem Dev.retry_exhausted (hp : (d.getEPort x.port).paused = false) (hr : x.retries = 0) :
    (d.retry q false).getQp q = some { x with err := true, msgs := [] } := by
  unfold Dev.retry
  rw [hx]
  dsimp only
  rw [if_neg (by simp [herr, hp, hrep])]
  simp only [Bool.false_eq_true, if_false]
  rw [if_pos hr, Dev.qpError, hx]
  dsimp only
  rw [if_neg (ne_true_of_eq_false herr)]
  exact Dev.getQp_modQp_self hx _

end

/-- Settles O47: each request by its rule above. -/
theorem networkRequests : Obligations.NetworkRequests := by
  unfold Obligations.NetworkRequests
  refine ⟨fun s p n gen key mtu c hup hfill hc hgen hkey hpt hroom hstate hmtu => ?connect, fun s q x c hx hc hup hfill => ?requests⟩
  case connect =>
    have hstep : exec (.connectRequest p n gen key mtu) s = .next ((s.took 1).onDev fun d => d.connected p.val (s.newQp p.val n gen)) :=
      congrArg Host.Outcome.next ((State.frame_taken hup hfill _).trans
        (State.connect_of_ok (State.connectCode_none hc hgen hkey hpt hroom hstate hmtu)))
    obtain ⟨hcode, hqp⟩ := Dev.connected_port (s.took 1).dev p.val (s.newQp p.val n gen)
    have htook : OnlyDev s (s.took 1) := ⟨rfl, rfl, rfl, rfl, rfl⟩
    exact ⟨_, s.newQp p.val n gen, hstep, htook.trans (onlyDev_onDev _ _), (Dev.connected_getQp _ _ _ _).trans (if_pos rfl), rfl, rfl, rfl, rfl, rfl, rfl, rfl,
      hcode, hqp, fun k hk => (Dev.connected_getQp _ _ _ _).trans (if_neg (Ne.symm hk))⟩
  intro answered
  have hreply {k : Instr} {n a : Nat} (hk : exec k s = .next ((s.received x.port n).answer q x.port a)) :
      answered k a :=
    ⟨_, hk, State.received_answer hx _ _ _⟩
  have hrefuse {k : Instr} {a : Nat} (hk : exec k s = .next (s.answer q x.port a)) : answered k a :=
    ⟨_, hk, State.answer_onlyDev _ _ _ _, State.answer_getQp hx _ _⟩
  refine ⟨fun data => ⟨fun herr hlen hs hm => ?send, fun herr hlen => ?length, fun herr => ?error, fun herr hlen h => ?full⟩,
    fun va rkey data => ⟨fun h => ⟨?writeRejected, fun len => ?readRejected⟩, fun herr hkey hva => ⟨fun pa hpa hne hline hmod => ?write, ?read⟩⟩,
    fun herr => ⟨?immediate, ?writeImmediate, ?swap, ?add⟩, fun herr hrep =>
        ⟨?ack, fun hp => ?paused, fun hp hr => ?again, fun hp hr => ?exhausted⟩⟩
  case send =>
    have hsend := State.send_of_active hx hup hfill hc herr hlen
    rw [if_neg (by simp [hs]; omega)] at hsend
    refine ⟨_, congrArg Host.Outcome.next hsend, ?_, ?_⟩
    · exact (onlyDev_onDev s _).trans ((onlyDev_onDev (s.received x.port data.length) _).trans (State.answer_onlyDev _ _ _ _))
    · exact State.answer_getQp (State.getQp_modQp (s := s.received x.port data.length) hx _) _ _
  case length => exact hreply (congrArg Host.Outcome.next (State.send_of_length hx hup hfill herr hlen))
  case error => exact hreply (congrArg Host.Outcome.next (State.send_of_error hx hup hfill herr data))
  case full => exact hreply (congrArg Host.Outcome.next ((State.send_of_active hx hup hfill hc herr hlen).trans (if_pos h)))
  case writeRejected => exact hreply (congrArg Host.Outcome.next (State.rdmaWrite_rejected hx hup hfill ((x.rejects_iff va rkey).2 h) data))
  case readRejected => exact hrefuse (congrArg Host.Outcome.next (State.rdmaRead_rejected hx hup hfill ((x.rejects_iff va rkey).2 h) len))
  case write =>
    have hrej : x.rejects va rkey = false := x.not_rejects herr hkey hva
    have hstep := State.rdmaWrite_taken hx hup hfill hrej data
    rw [State.clientWrite_served hne hline (s := s.received x.port data.length) hpa] at hstep
    refine ⟨_, _, congrArg Host.Outcome.next hstep, rfl, rfl, rfl, rfl, ?_, rfl, rfl, fun i hi => getD_lineOf_offset hi, ?_⟩
    · have hctx : (s.received x.port data.length).dev.getCtx x.ctx = some c := hc
      dsimp only
      rw [hctx]
    · exact State.answer_getQp (s := (s.received x.port data.length).clientLine (.qp q) x.ctx pa data) hx _ _
  case read =>
    intro pa len v hpa hreads hlen hline
    have hv : v.dev.getQp q = some x := ((s.clients_landAll (.qp q)).getQp q).trans hx
    have hrej : x.rejects va rkey = false := x.not_rejects herr hkey hva
    have hstep := State.rdmaRead_served hx hup hfill hrej hreads hlen hline hpa
    refine ⟨_, congrArg Host.Outcome.next hstep, ?_, fun hbad => ?_, fun hgood => ?_⟩
    · dsimp only
      split
      · exact ((onlyDev_onDev v _).trans (State.answer_onlyDev _ _ _ _)).mem_eq
      · exact ((onlyDev_onDev v _).trans ((onlyDev_onDev _ _).trans (State.answer_onlyDev _ _ _ _))).mem_eq
    · dsimp only
      rw [if_pos hbad]
      exact State.answer_getQp (s := v.onDev fun d => d.countCtx x.ctx 0x12 0) hv _ _
    · dsimp only
      rw [if_neg (ne_true_of_eq_false hgood)]
      exact State.answer_getQp (x := x.reading (v.readPa pa len))
        (State.getQp_modQp_netCount (s := v.onDev fun d => d.countCtx x.ctx 0x12 0) hv _ _ _ _) _ _
  case immediate => exact hrefuse (congrArg Host.Outcome.next (State.refuseOp_taken hx hup hfill herr))
  case writeImmediate => exact hrefuse (congrArg Host.Outcome.next (State.refuseOp_taken hx hup hfill herr))
  case swap => exact hrefuse (congrArg Host.Outcome.next (State.refuseOp_taken hx hup hfill herr))
  case add => exact hrefuse (congrArg Host.Outcome.next (State.refuseOp_taken hx hup hfill herr))
  case ack =>
    exact ⟨_, congrArg Host.Outcome.next (State.packet_taken hx hup hfill _), onlyDev_onDev _ _, Dev.ackFor_reply hx herr hrep⟩
  case paused =>
    have hstep : exec (.retransmissionTimeout q) s = .next (s.onDev fun d => d.retry q false) := rfl
    rw [hstep, State.onDev, Dev.retry_paused hx hp]
  case again => exact ⟨_, rfl, onlyDev_onDev _ _, Dev.retry_again hx herr hrep hp hr⟩
  case exhausted => exact ⟨_, rfl, onlyDev_onDev _ _, Dev.retry_exhausted hx herr hrep hp hr⟩

end Sys2Proof.Machine
end

section
/-!
PROOFS. Range tables (R257, R267): O19.
-/

namespace Sys2Proof.Machine

@[simp] theorem Ctx.note_ranges (c : Ctx) (k : JKind) : (c.note k).ranges = c.ranges := by
  rcases c.note_cases k with ⟨_, h⟩ | ⟨_, _, h⟩ <;> rw [h]

/-- A context that is there, after a change of it. -/
theorem Dev.getCtx_modCtx_of_some {d : Dev} {n : Nat} {c : Ctx} (h : d.getCtx n = some c) (f : Ctx → Ctx) :
    (d.modCtx n f).getCtx n = some (f c) := by
  rw [Dev.getCtx_modCtx, if_pos rfl, h, Option.map_some]

/-! ### RANGE_MAP (R257). -/

/-- A context with entries added at the end of its table. -/
def Ctx.mapped (c : Ctx) (es : List RangeEntry) : Ctx := { c with ranges := c.ranges ++ es.map fun e => ({ entry := e } : RangeRow) }

/-- Entries that are accepted are added, all of them, and nothing but the data path changes. -/
theorem State.mapEntries_ok {s w : State} {n : Nat} {c : Ctx} {es : List RangeEntry} (hc : s.dev.getCtx n = some c)
    (h : s.mapEntries n c es = .ok w) : OnlyDev s w ∧ w.dev.getCtx n = some (c.mapped es) := by
  unfold State.mapEntries at h
  dsimp only at h
  split at h
  case isTrue => cases h
  case isFalse =>
    split at h
    case h_1 => cases h
    case h_2 windows _ =>
      split at h
      case isTrue => cases h
      case isFalse =>
        cases h
        exact ⟨onlyDev_onDev _ _, Dev.getCtx_modCtx_of_some (d := { s.dev with windows := windows }) hc _⟩

/-- The offsets at which a RANGE_MAP lists its entries. -/
def MsgIn.entryOffs (m : MsgIn) : List Nat := (List.range (field m.b 16 1)).map fun i => 32 + 32 * i

/-- The entries that a RANGE_MAP lists. -/
def MsgIn.entries (m : MsgIn) : List RangeEntry := m.entryOffs.map fun o => entryAt m.b o

section
variable {s : State} {m : MsgIn} {c : Ctx} (hc : s.dev.getCtx m.n = some c)
  (hfield : (m.entryOffs.any fun o => s.dev.entryField c.pt m.b o) = false)
include hc hfield

/-- Entries that pass every check are mapped, and answered with the table's new length. -/
theorem State.rangeMap_of_ok {w : State} (h : s.mapEntries m.n c m.entries = .ok w) : s.rangeMap m =
    (w.onDev fun d => d.modCtx m.n fun c => c.note (.rmap m.entries)).reply m.back 0 (leBytes 2 (c.ranges.length + m.entries.length)) := by
  unfold MsgIn.entries MsgIn.entryOffs at *
  unfold State.rangeMap State.inCtx
  simp only [hc, hfield, h, Bool.false_eq_true, if_false]

/-- Entries that a check refuses are answered with the refusal alone. -/
theorem State.rangeMap_of_error {st : Nat} (h : s.mapEntries m.n c m.entries = .error st) : s.rangeMap m = s.reply m.back st [] := by
  unfold MsgIn.entries MsgIn.entryOffs at *
  unfold State.rangeMap State.inCtx
  simp only [hc, hfield, h, Bool.false_eq_true, if_false]
  rfl

end

/-! ### RANGE_UNMAP (R267). -/

theorem State.rangeUnmap_of_mapped {s : State} {m : MsgIn} {c : Ctx} (hc : s.dev.getCtx m.n = some c)
    (h : (c.ranges.any fun r => r.entry.va = field m.b 16 4 && r.unmap.isNone) = true) :
    s.rangeUnmap m = s.onDev fun d => d.modCtx m.n fun c => (c.markUnmap (field m.b 16 4) m.back).note (.runmap (field m.b 16 4)) := by
  unfold State.rangeUnmap State.inCtx
  rw [hc]
  exact if_pos h

/-! ### RANGE_UNMAP_DONE (R267). -/

/-- An entry stops counting at its window, and no context is changed by that. -/
@[simp] theorem Dev.unref_getCtx (d : Dev) (e : RangeEntry) (n : Nat) : (d.unref e).getCtx n = d.getCtx n := by
  unfold Dev.unref
  dsimp only
  split
  · rfl
  · split <;> rfl

/-- A data path from which a row of a context's table is removed, at its window and in every engine too. -/
def Dev.removeRow (d : Dev) (n va : Nat) (r : RangeRow) : Dev :=
  let d := (d.unref r.entry).modCtx n fun c => { c with ranges := c.ranges.erase r }
  { d with eng := d.eng.map fun e => (e.1, { e.2 with rcache := e.2.rcache.filter fun x => ¬ (x.1 = n ∧ x.2.va = va) }) }

theorem Dev.removeRow_getCtx {d : Dev} {n : Nat} {c : Ctx} (hc : d.getCtx n = some c) (va : Nat) (r : RangeRow) :
    (d.removeRow n va r).getCtx n = some { c with ranges := c.ranges.erase r } :=
  Dev.getCtx_modCtx_of_some ((d.unref_getCtx r.entry n).trans hc) _

theorem Dev.removeRow_rcache (d : Dev) (n va : Nat) (r : RangeRow) :
    ∀ e ∈ (d.removeRow n va r).eng, ∀ x ∈ e.2.rcache, ¬ (x.1 = n ∧ x.2.va = va) := by
  intro e he x hx
  obtain ⟨_, _, rfl⟩ := List.mem_map.1 he
  exact of_decide_eq_true (List.mem_filter.1 hx).2

/-- An entry that waits for its removal, and that no command uses, is removed; beyond that a reply is told where one is due. -/
theorem State.unmapEnd_of_unused {s : State} {n va seq : Nat} {back : Option ReplyTo} {c : Ctx} {r : RangeRow} (hc : s.dev.getCtx n = some c)
    (hfind : (c.ranges.find? fun r => r.entry.va = va && r.unmap.isSome) = some r) (hr : r.unmap = some (back, seq))
    (huse : c.inUse r.entry seq = false) :
    OnlyDev s (s.unmapEnd n va) ∧ (s.dev.removeRow n va r).Told (s.unmapEnd n va).dev := by
  have hremoved : OnlyDev s (s.onDev fun d => d.removeRow n va r) := onlyDev_onDev _ _
  unfold State.unmapEnd
  simp only [hc, hfind, hr, huse, Bool.false_eq_true, if_false]
  cases back with
  | none => exact ⟨hremoved, .refl _⟩
  | some b => exact ⟨hremoved.trans (State.reply_only _ b _ _), State.reply_told (s.onDev fun d => d.removeRow n va r) b _ _⟩

/-- Settles O19, by what the row of each of the three commands does. -/
theorem rangeTables : Obligations.RangeTables := by
  unfold Obligations.RangeTables
  refine ⟨fun s mb m c htaken hc => ⟨fun hop hfield => ⟨fun w hw => ?mapped, fun st hst => ?refused⟩, fun hop hany => ?marked⟩,
    fun s n g seq back c r hc hfind hr huse => ?removed⟩
  case mapped =>
    obtain ⟨honly, hctx⟩ := State.mapEntries_ok hc hw
    exact ⟨_, (c.mapped m.entries).note (.rmap m.entries),
      congrArg Host.Outcome.next ((message_taken htaken (isOp_of_op hop) _).trans (State.rangeMap_of_ok hc hfield hw)),
      ((State.takeHead_only s mb).trans honly).trans (onlyDev_onDev _ _), Dev.getCtx_modCtx_of_some hctx _, Ctx.note_ranges _ _⟩
  case refused =>
    exact congrArg Host.Outcome.next ((message_taken htaken (isOp_of_op hop) _).trans (State.rangeMap_of_error hc hfield hst))
  case marked =>
    exact ⟨_, (c.markUnmap (field m.b 16 4) m.back).note (.runmap (field m.b 16 4)),
      congrArg Host.Outcome.next ((message_taken htaken (isOp_of_op hop) _).trans (State.rangeUnmap_of_mapped hc hany)),
      (State.takeHead_only s mb).trans (onlyDev_onDev _ _), Dev.getCtx_modCtx_of_some hc _, Ctx.note_ranges _ _⟩
  case removed =>
    obtain ⟨honly, htold⟩ := State.unmapEnd_of_unused hc hfind hr huse
    obtain ⟨d, hd, huntold⟩ := htold.getCtx (Dev.removeRow_getCtx hc g r)
    refine ⟨_, d, rfl, honly, hd, congrArg Ctx.ranges huntold, ?_⟩
    show ∀ e ∈ (s.unmapEnd n.val g).dev.eng, _
    rw [htold.eng]
    exact Dev.removeRow_rcache s.dev n.val g r

end Sys2Proof.Machine
end

section
/-!
PROOFS. Memory care (R287, R290 to R292, R295 to R299): O37, O38.
-/

namespace Sys2Proof.Machine

/-! ### The log and calls for service (R468, R471). -/

@[simp] theorem State.log_dev (s : State) (type : Nat) (att ctx : Option Nat) (data : Bytes) : (s.log type att ctx data).dev = s.dev := rfl
@[simp] theorem State.log_mem (s : State) (type : Nat) (att ctx : Option Nat) (data : Bytes) : (s.log type att ctx data).mem = s.mem := rfl

/-- What does not look at the log is as before a record. -/
theorem Mgmt.addLog_view {β : Type} (g : Mgmt → β)
    (hg : ∀ (m : Mgmt) next resv log kept dropped,
      g { m with nextLog := next, resvEnd := resv, log := log, kept := kept, dropped := dropped } = g m) (m : Mgmt) (r : LogRec) :
    g (m.addLog r) = g m := by
  unfold Mgmt.addLog Mgmt.takeSeq
  split
  · exact hg m _ _ _ _ _
  · split
    · rfl
    · split <;> exact hg m _ _ _ _ _

theorem State.log_l4 (s : State) (type : Nat) (att ctx : Option Nat) (data : Bytes) : (s.log type att ctx data).mgmt.l4 = s.mgmt.l4 :=
  Mgmt.addLog_view Mgmt.l4 (fun _ _ _ _ _ _ => rfl) _ _

@[simp] theorem State.needsService_mem (s : State) (reason : Nat) : (s.needsService reason).mem = s.mem := rfl

/-- What does not look at the attachments is as before a call for service. -/
theorem State.needsService_view {β : Type} (g : Dev → β) (hg : ∀ d atts, g { d with atts := atts } = g d) (s : State) (reason : Nat) :
    g (s.needsService reason).dev = g s.dev := by
  unfold State.needsService State.withStatus
  rw [(State.notify_interrupted _ _).1, hg, State.onMgmt_dev]

theorem State.needsService_mgmt (s : State) (reason : Nat) : (s.needsService reason).mgmt =
    if s.mgmt.service.getLsbD reason then s.mgmt
    else { s.mgmt with service := s.mgmt.service ||| BitVec.ofNat 8 (2 ^ reason), events := s.mgmt.events + 1 } := rfl

theorem State.needsService_l4 (s : State) (reason : Nat) : (s.needsService reason).mgmt.l4 = s.mgmt.l4 := by
  rw [State.needsService_mgmt]
  split <;> rfl

/-- A reason that service was called for stands. -/
theorem State.needsService_service (s : State) {reason : Nat} (h : reason < 8) :
    (s.needsService reason).mgmt.service.getLsbD reason = true := by
  rw [State.needsService_mgmt]
  split
  · assumption
  · rw [BitVec.getLsbD_or, BitVec.getLsbD_ofNat, Nat.testBit_two_pow_self, decide_eq_true h, Bool.and_self, Bool.or_true]

/-! ### Patrol scrub (R282, R284, R290). -/

theorem exec_patrolScrub_hbm {s : State} {pa t off : Nat} (hpa : paOf pa = .hbm t off) (chk : Check) :
    exec (.patrolScrub pa chk) s = .next (s.homeChecked pa chk) := by
  show execPatrolScrub pa chk s = _
  unfold execPatrolScrub
  rw [hpa]

theorem State.homeChecked_hbm_corrected {s : State} {pa t off : Nat} (hpa : paOf pa = .hbm t off) (hlean : s.dev.lean pa = false) :
    s.homeChecked pa .corrected = s.hbmCorrected (s.dev.hbmPlace t off).1 (s.dev.hbmPlace t off).2.1 (pa / 128) := by
  unfold State.homeChecked
  rw [hpa]
  dsimp only
  rw [hlean]
  rfl

/-- A correction changes no byte and is counted. -/
theorem State.hbmCorrected_counts (s : State) (st p line : Nat) :
    (s.hbmCorrected st p line).mem = s.mem ∧ (s.hbmCorrected st p line).dev.stats = s.dev.stats.count 0 1 := by
  unfold State.hbmCorrected
  dsimp only
  split <;> exact ⟨rfl, rfl⟩

theorem State.hbmDetected_stats (s : State) (st p line : Nat) : (s.hbmDetected st p line).dev.stats = s.dev.stats.count 1 1 := rfl

/-! ### Row repair (R290). -/

/-- Whether a line is served from a row of a bank. -/
def Dev.inDramRow (d : Dev) (bank row line : Nat) : Bool :=
  match paOf (line * 128) with
  | .hbm t off => decide (Config.dramRow (d.hbmPlace t off).2.2 = (bank, row))
  | _ => false

/-- The lines of errors of a pseudo-channel that lie outside a row. -/
def Dev.outsideRow (d : Dev) (st p bank row : Nat) : List Nat :=
  (Map.get (d.getStack st).errs p []).filter fun l => !d.inDramRow bank row l

theorem Dev.inDramRow_of_outside {d : Dev} {st p bank row l : Nat} (h : l ∈ d.outsideRow st p bank row) : d.inDramRow bank row l = false :=
  (Bool.not_eq_true' _).mp (List.mem_filter.1 h).2

/-- Repairs that a bank of a pseudo-channel has had. -/
def Stack.bankRepaired (x : Stack) (p bank : Nat) : Nat := (x.repaired.filter fun r => r.1 = 2 ^ 16 * p + bank).length

section
variable {s : State} {st p bank row : Nat} (hfour : 4 ≤ ((Map.get (s.dev.getStack st).errs p []).filter (s.dev.inDramRow bank row)).length)
include hfour

/-- Where the bank has a repair left, the row is replaced. -/
theorem State.rowRepair_spare (h : (s.dev.getStack st).bankRepaired p bank < Config.bankRepairs) :
    s.rowRepair st p bank row = (s.onDev fun d => d.modStack st fun x => { x with
      errs := Map.put x.errs p (s.dev.outsideRow st p bank row), repaired := x.repaired ++ [(2 ^ 16 * p + bank, row)] }).log 0x201 none none
        (leBytes 1 st ++ leBytes 1 p ++ leBytes 4 row) :=
  (if_neg (Nat.not_lt.2 hfour)).trans (if_neg (Nat.not_le.2 h))

/-- Where it has none left, its pseudo-channel is to be retired. -/
theorem State.rowRepair_exhausted (h : Config.bankRepairs ≤ (s.dev.getStack st).bankRepaired p bank) :
    s.rowRepair st p bank row = s.onDev fun d => d.modStack st fun x =>
      { x with errs := Map.put x.errs p (s.dev.outsideRow st p bank row), triggers := addOnce x.triggers p } :=
  (if_neg (Nat.not_lt.2 hfour)).trans (if_pos h)

end

/-! ### Retirement of a pseudo-channel (R280, R291, R292). -/

theorem has_filter_ne (l : List Nat) (p : Nat) : has (l.filter fun q => q ≠ p) p = false := by
  rw [Bool.eq_false_iff, ne_eq, has_iff]
  simp

/-- The first trigger of a stack whose reserve frames are empty retires its pseudo-channel. -/
theorem State.retirePc_first {s : State} {st p : Nat} (htrig : has (s.dev.getStack st).triggers p = true)
    (hnone : (s.dev.getStack st).retired = none) (hempty : s.dev.inReserve st = []) :
    s.retirePc st p = (s.onDev fun d => d.modStack st fun x =>
      { x with retired := some p, triggers := x.triggers.filter fun q => q ≠ p }).log 0x204 none none
        (leBytes 1 (st / 3) ++ leBytes 1 st ++ leBytes 1 p) := by
  unfold State.retirePc
  dsimp only
  rw [htrig, hnone, hempty]
  rfl

/-- A second trigger of a stack asks for service. -/
theorem State.retirePc_second {s : State} {st p q : Nat} (htrig : has (s.dev.getStack st).triggers p = true)
    (hsome : (s.dev.getStack st).retired = some q) :
    s.retirePc st p = ((s.onDev fun d => d.modStack st fun x => { x with triggers := x.triggers.filter fun q => q ≠ p }).log 0x205 none none
      (leBytes 1 (st / 3) ++ leBytes 1 st ++ leBytes 1 p)).needsService 1 := by
  unfold State.retirePc
  dsimp only
  rw [htrig, hsome]
  rfl

theorem State.needsService_getStack (s : State) (reason st : Nat) : (s.needsService reason).dev.getStack st = s.dev.getStack st :=
  State.needsService_view (fun d => d.getStack st) (fun _ _ => rfl) s reason

/-- The reserve frames of a stack with a retired pseudo-channel are out. -/
theorem Dev.frameOut_of_retired {d : Dev} {st p f : Nat} (h : (d.getStack st).retired = some p) (hlo : 186 + 2 * (st % 3) ≤ f)
    (hhi : f < 188 + 2 * (st % 3)) : d.frameOut (st / 3) f = true := by
  have hstack : 3 * (st / 3) + (f - 186) / 2 = st := by omega
  have hreserve : 186 ≤ f := by omega
  unfold Dev.frameOut
  rw [hstack, h, Option.isSome_some, Bool.and_true, decide_eq_true hreserve]

theorem Dev.not_pool_of_frameOut {d : Dev} {t f : Nat} (h : d.frameOut t f = true) (lean : Bool) : has (d.poolFrames t lean) f = false := by
  rw [Bool.eq_false_iff, ne_eq, has_iff]
  simp [Dev.poolFrames, h]

/-- Settles O37: each row by its rule above. -/
theorem memoryRepair : Obligations.MemoryRepair := by
  unfold Obligations.MemoryRepair
  intro s st pc x t
  refine ⟨fun pa u off hpa => ⟨?scrubOk, ?scrubBad, fun hlean => ?scrubCorrected⟩, ?row,
    fun htrig hnone hempty => ?first, fun p htrig hsome => ?second⟩
  case scrubOk => rw [exec_patrolScrub_hbm hpa, State.homeChecked_hbm_ok hpa]
  case scrubBad =>
    refine ⟨_, (exec_patrolScrub_hbm hpa _).trans (congrArg Host.Outcome.next (State.homeChecked_hbm_uncorrectable hpa)), rfl, ?_, ?_⟩
    · rw [State.hbmDetected_mem, get_setPoison_full, if_pos rfl]
    · rw [State.hbmDetected_stats, Stats.count_one]
  case scrubCorrected =>
    obtain ⟨hmem, hstats⟩ := s.hbmCorrected_counts (s.dev.hbmPlace u off).1 (s.dev.hbmPlace u off).2.1 (pa / 128)
    refine ⟨_, (exec_patrolScrub_hbm hpa _).trans (congrArg Host.Outcome.next (State.homeChecked_hbm_corrected hpa hlean)), hmem, ?_⟩
    rw [hstats, Stats.count_one]
  case row =>
    intro bank row inRow hfour
    have hrest : ∀ l ∈ s.dev.outsideRow st pc bank row, inRow l = false := fun l hl => Dev.inDramRow_of_outside hl
    by_cases hspare : x.bankRepaired pc bank < Config.bankRepairs
    · refine ⟨_, congrArg Host.Outcome.next (State.rowRepair_spare hfour hspare), rfl, ?_⟩
      rw [State.log_dev, State.onDev_dev, Dev.getStack_modStack_self, Map.get_put_self]
      exact ⟨hrest, (if_pos hspare).mpr ⟨rfl, rfl⟩⟩
    · refine ⟨_, congrArg Host.Outcome.next (State.rowRepair_exhausted hfour (Nat.not_lt.1 hspare)), rfl, ?_⟩
      rw [State.onDev_dev, Dev.getStack_modStack_self, Map.get_put_self]
      exact ⟨hrest, (if_neg hspare).mpr ⟨rfl, has_addOnce _ _⟩⟩
  case first =>
    have hu := State.retirePc_first htrig hnone hempty
    have hstack : (s.retirePc st pc).dev.getStack st = { x with retired := some pc.val, triggers := x.triggers.filter fun q => q ≠ pc.val } := by
      rw [hu, State.log_dev, State.onDev_dev, Dev.getStack_modStack_self]
    have hretired : ((s.retirePc st pc).dev.getStack st).retired = some pc.val := congrArg Stack.retired hstack
    refine ⟨_, rfl, ?_, hretired, ?_, fun f => ?_, fun f lean hlo hhi => ?_⟩
    · rw [hu, State.log_mem, State.onDev_mem]
    · rw [hstack]
      exact has_filter_ne _ _
    · rw [hu]
      rfl
    · have hout := Dev.frameOut_of_retired hretired hlo hhi
      exact ⟨hout, Dev.not_pool_of_frameOut hout lean⟩
  case second =>
    refine ⟨_, congrArg Host.Outcome.next (State.retirePc_second htrig hsome), State.needsService_mem _ _, ?_⟩
    rw [State.needsService_getStack, State.log_dev, State.onDev_dev, Dev.getStack_modStack_self]
    exact ⟨hsome, has_filter_ne _ _, State.needsService_service _ (by decide)⟩

/-! ### Retirement of a caddy channel (R298, R299). -/

/-- Whether another channel of a channel's group is retired. -/
def Dev.mateRetired (d : Dev) (ch : Nat) : Bool :=
  (List.range 13).any fun k => decide (13 * (ch / 13) + k ≠ ch) && (d.getChan (13 * (ch / 13) + k)).retired

section
variable {s : State} {ch : Nat} (hfails : 8 ≤ (s.dev.getChan ch).fails) (hserves : (s.dev.getChan ch).retired = false)
include hfails hserves

/-- The first channel of a group is retired, and service called for. -/
theorem State.retireChan_alone (h : s.dev.mateRetired ch = false) :
    s.retireChan ch = ((s.onDev fun d => d.modChan ch fun x =>
      { x with fails := 0, retired := true, badSerial := some x.serial }).log 0x210 none none
        (leBytes 1 ch ++ leBytes 8 (s.dev.getChan ch).serial)).needsService 2 := by
  have hgo : ¬ ((s.dev.getChan ch).fails < 8 ∨ (s.dev.getChan ch).retired = true) := by rw [hserves]; simpa using hfails
  exact (if_neg hgo).trans (if_neg (Bool.eq_false_iff.1 h))

/-- A second one loses the group, and L4 is called for. -/
theorem State.retireChan_lost (h : s.dev.mateRetired ch = true) :
    s.retireChan ch = ((s.onDev fun d => d.modChan ch fun x => { x with fails := 0 }).log 0x211 none none
      (leBytes 1 ch ++ leBytes 8 (s.dev.getChan ch).serial)).callL4 := by
  have hgo : ¬ ((s.dev.getChan ch).fails < 8 ∨ (s.dev.getChan ch).retired = true) := by rw [hserves]; simpa using hfails
  exact (if_neg hgo).trans (if_pos h)

end

theorem State.needsService_getChan (s : State) (reason ch : Nat) : (s.needsService reason).dev.getChan ch = s.dev.getChan ch :=
  State.needsService_view (fun d => d.getChan ch) (fun _ _ => rfl) s reason

/-! ### Refresh (R287). -/

theorem Stack.stepDown_high {x : Stack} {a now : Nat} (hr : x.refresh = 4) (hc : x.coolHi = some a) (h : a + 2 ^ 11 ≤ now) :
    x.stepDown now = { x with refresh := 2 } := by
  unfold Stack.stepDown
  rw [hc]
  exact if_pos ⟨hr, decide_eq_true h⟩

theorem Stack.stepDown_low {x : Stack} {a now : Nat} (hr : x.refresh = 2) (hc : x.coolLo = some a) (h : a + 2 ^ 11 ≤ now) :
    x.stepDown now = { x with refresh := 1 } := by
  have hnot : x.refresh ≠ 4 := by omega
  unfold Stack.stepDown
  rw [hc]
  exact (if_neg fun h4 => hnot h4.1).trans (if_pos ⟨hr, decide_eq_true h⟩)

/-- Settles O38: each row by its rule above. -/
theorem refreshAndCaddy : Obligations.RefreshAndCaddy := by
  unfold Obligations.RefreshAndCaddy
  intro s st c x y mate
  refine ⟨fun q => ?reading, fun a hr hc h => ?high, fun a hr hc h => ?low, fun ok => ?retry, fun hfails hserves halone => ?retired,
    fun hfails hserves hmate => ?lost, fun h n => ?stripe⟩
  case reading =>
    have hstack : ((s.dev.modStack st fun x => x.read q s.kettle).getStack st) = x.read q s.kettle := Dev.getStack_modStack_self ..
    exact ⟨_, rfl, rfl, rfl, congrArg Stack.refresh hstack, congrArg Stack.coolLo hstack, congrArg Stack.coolHi hstack, Map.get_put_self ..⟩
  case high => exact ⟨_, rfl, onlyDev_onDev _ _, (Dev.getStack_modStack_self ..).trans (Stack.stepDown_high hr hc h)⟩
  case low => exact ⟨_, rfl, onlyDev_onDev _ _, (Dev.getStack_modStack_self ..).trans (Stack.stepDown_low hr hc h)⟩
  case retry =>
    have hchan (k : Nat) : (s.onDev fun d => (d.modChan c fun x => x.retry ok).count 3 1).dev.getChan k =
        if c.val = k then (s.dev.getChan k).retry ok else s.dev.getChan k := Dev.getChan_modChan s.dev c k fun x => x.retry ok
    exact ⟨_, rfl, onlyDev_onDev _ _, (hchan c).trans (if_pos rfl), Stats.count_one .., fun k hk => (hchan k).trans (if_neg (Ne.symm hk))⟩
  case retired =>
    refine ⟨_, congrArg Host.Outcome.next (State.retireChan_alone hfails hserves halone), State.needsService_mem _ _, ?_,
      State.needsService_service _ (by decide), ?_⟩
    · rw [State.needsService_getChan, State.log_dev, State.onDev_dev, Dev.getChan_modChan_self]
    · rw [State.needsService_l4, State.log_l4, State.onDev_mgmt]
  case lost =>
    have hchan : (s.dev.modChan c fun x => { x with fails := 0 }).getChan c = { y with fails := 0 } := Dev.getChan_modChan_self ..
    exact ⟨_, congrArg Host.Outcome.next (State.retireChan_lost hfails hserves hmate), rfl, rfl, rfl, (congrArg Chan.retired hchan).trans hserves⟩
  case stripe =>
    exact ⟨_, rfl, onlyDev_onDev _ _, fun k => (Map.find_del ..).trans (if_congr eq_comm rfl rfl)⟩

end Sys2Proof.Machine
end

section
/-!
PROOFS. The boot record, and harts that start, stop and are suspended (R326 to R328).
-/

namespace Sys2Proof.Machine

/-! ### The boot record (R326, R361). -/

/-- System memory begins with a line. -/
theorem Mgmt.sysmem_line (m : Mgmt) (p : Nat) : (m.sysmem p).1 % 128 = 0 := by
  unfold Mgmt.sysmem sliceBase sliceBytes
  dsimp only
  split
  · omega
  · rfl

theorem leNat_leBytes (n v : Nat) : leNat (leBytes n v) = v % 256 ^ n := by
  induction n generalizing v with
  | zero => rw [Nat.pow_zero, Nat.mod_one]; rfl
  | succ n ih =>
    show (BitVec.ofNat 8 v).toNat + 256 * leNat (leBytes n (v / 256)) = _
    rw [ih, BitVec.toNat_ofNat, Nat.pow_succ' (m := 256), Nat.mod_mul]

/-- Bytes written within a line are read back. -/
theorem State.readPa_writePa_line (s : State) {a : Nat} {bs : Bytes} (h : a % 128 + bs.length ≤ 128) (hne : bs ≠ []) :
    (s.writePa a bs).readPa a bs.length = bs := by
  refine List.ext_getElem (State.length_readPa ..) fun i _ hi => ?_
  have hbyte : (s.writePa a bs).byte (a + i) = bs.getD i 0 := by
    rw [s.byte_writePa_line h hne, if_pos (by omega), Nat.add_sub_cancel_left]
  rw [← List.getD_eq_getElem _ 0, State.getD_readPa _ _ hi, hbyte, List.getD_eq_getElem _ 0 hi]

theorem State.moved_bootPut (s : State) (p off n v : Nat) : s.Moved (s.bootPut p off n v) := s.moved_writePa _ _

/-- A field of the boot record that is written is read back. -/
theorem State.bootField_bootPut (s : State) (p v : Nat) {off n : Nat} (hline : off + n ≤ 128) (hpos : 0 < n) :
    (s.bootPut p off n v).bootField p off n = v % 256 ^ n := by
  have hlen := length_leBytes n v
  have hbase := s.mgmt.sysmem_line p
  have hread := s.readPa_writePa_line (a := (s.mgmt.sysmem p).1 + off) (bs := leBytes n v) (by omega) (List.ne_nil_of_length_pos (by omega))
  rw [hlen] at hread
  rw [State.bootField, (s.moved_bootPut p off n v).mgmt, State.bootPut, hread, leNat_leBytes]

/-- A field that lies beyond the one that is written stays. -/
theorem State.bootField_bootPut_beyond (s : State) (p v : Nat) {off n off' n' : Nat} (hline : off + n ≤ 128) (hpos : 0 < n)
    (hbeyond : off + n ≤ off') : (s.bootPut p off n v).bootField p off' n' = s.bootField p off' n' := by
  have hlen := length_leBytes n v
  have hbase := s.mgmt.sysmem_line p
  rw [State.bootField, (s.moved_bootPut p off n v).mgmt, State.bootField, State.bootPut, State.readPa, State.readPa]
  refine congrArg leNat (List.map_congr_left fun i _ => ?_)
  rw [s.byte_writePa_line (by omega) (List.ne_nil_of_length_pos (by omega)), if_neg (by omega)]

/-- Fields stay where no byte of memory changes. -/
theorem State.bootField_congr {s t : State} (hm : t.mgmt = s.mgmt) (hb : ∀ b, t.byte b = s.byte b) (p off n : Nat) :
    t.bootField p off n = s.bootField p off n := by
  rw [State.bootField, State.bootField, hm, State.readPa_congr hb]

theorem State.bootField_modPt (s : State) (q : Nat) (f : Partn → Partn) (p off n : Nat) :
    (s.onDev fun d => d.modPt q f).bootField p off n = s.bootField p off n :=
  State.bootField_congr rfl (fun _ => State.byte_onDev fun _ => rfl) p off n

/-- The write of a field is one write at a home. -/
theorem State.bootPut_home (s : State) (p v : Nat) {off n : Nat} (hline : off + n ≤ 128) (hpos : 0 < n) :
    ∃ mask data, s.bootPut p off n v = s.homeWrite (((s.mgmt.sysmem p).1 + off) / 128) mask data := by
  have hlen := length_leBytes n v
  have hbase := s.mgmt.sysmem_line p
  exact ⟨_, _, s.writePa_line (by omega) (List.ne_nil_of_length_pos (by omega))⟩

/-! ### Changes of cores. -/

/-- A change of a core that leaves its hart leaves every hart. -/
theorem State.hart_modCore (s : State) (c k : Nat) {f : Core → Core} (hf : ∀ x, (f x).hart = x.hart) :
    ((s.onDev fun d => d.modCore c f).dev.getCore k).hart = (s.dev.getCore k).hart := by
  rw [State.onDev_dev, Dev.getCore_modCore]
  split
  · exact hf _
  · rfl

/-- Cores that are changed one after the other, each in a way that does no more when done twice. -/
theorem Dev.getCore_foldl_modCore {f : Nat → Core → Core} (hf : ∀ k x, f k (f k x) = f k x) (l : List Nat) (d : Dev) (k : Nat) :
    (l.foldl (fun d c => d.modCore c (f c)) d).getCore k = if k ∈ l then f k (d.getCore k) else d.getCore k := by
  induction l generalizing d with
  | nil => rfl
  | cons c l ih =>
    rw [List.foldl_cons, ih, Dev.getCore_modCore]
    by_cases hc : c = k
    · subst hc
      rw [if_pos rfl, hf, ite_self, if_pos List.mem_cons_self]
    · rw [if_neg hc]
      exact if_congr (by simp [Ne.symm hc]) rfl rfl

theorem State.hart_drainN (s : State) (c n k : Nat) : ((s.drainN c n).dev.getCore k).hart = (s.dev.getCore k).hart := by
  unfold State.drainN
  dsimp only
  rw [State.hart_modCore (f := fun x => x.enter x.stalled) _ _ _ fun _ => rfl,
    (State.moved_foldl (fun t e => t.moved_perform c e) _ _).hart,
    State.hart_modCore (f := fun x => { x with sb := x.sb.drop n }) _ _ _ fun _ => rfl]

theorem State.hart_drain (s : State) (c k : Nat) : ((s.drain c).dev.getCore k).hart = (s.dev.getCore k).hart :=
  (State.hart_drainN _ c 64 k).trans (s.hart_drainN c 64 k)

theorem State.hart_accessing (s : State) (c : Nat) (h : HPre) (k : Nat) : ((s.accessing c h).dev.getCore k).hart = (s.dev.getCore k).hart :=
  s.hart_modCore c k fun _ => rfl

/-! ### The monitor starts a partition (R327). -/

/-- A core of a partition that is started: hart 0 runs, the others are stopped. -/
def Core.booted (hart : Nat) (entry arg : Word) (x : Core) : Core :=
  if x.hart = .lost then x else if hart = 0 then x.start entry 0 arg else { x with hart := .stopped }

theorem Core.booted_twice (hart : Nat) (entry arg : Word) (x : Core) :
    (x.booted hart entry arg).booted hart entry arg = x.booted hart entry arg := by
  unfold Core.booted
  by_cases hlost : x.hart = .lost
  · rw [if_pos hlost, if_pos hlost]
  · rw [if_neg hlost]
    split <;> exact if_neg nofun

theorem Core.booted_dirty (hart : Nat) (entry arg : Word) (x : Core) : (x.booted hart entry arg).dirty = x.dirty := by
  unfold Core.booted
  split
  · rfl
  · split <;> rfl

theorem Core.booted_first {x : Core} (h : x.hart ≠ .lost) (entry arg : Word) : x.booted 0 entry arg = x.start entry 0 arg := if_neg h

theorem Core.booted_other {x : Core} (h : x.hart ≠ .lost) {hart : Nat} (hh : hart ≠ 0) (entry arg : Word) :
    x.booted hart entry arg = { x with hart := .stopped } := (if_neg h).trans (if_neg hh)

/-- The cores of a partition are started. -/
def Dev.booted (d : Dev) (m : Mgmt) (p : Nat) (entry arg : Word) : Dev :=
  (m.cores p).foldl (fun d c => d.modCore c (Core.booted (m.hartOf p c) entry arg)) d

theorem Dev.getCore_booted (d : Dev) (m : Mgmt) (p : Nat) (entry arg : Word) (k : Nat) :
    (d.booted m p entry arg).getCore k =
      if k ∈ m.cores p then (d.getCore k).booted (m.hartOf p k) entry arg else d.getCore k :=
  Dev.getCore_foldl_modCore (f := fun c => Core.booted (m.hartOf p c) entry arg) (fun _ x => x.booted_twice _ _ _) _ d k

theorem State.bootStart_starts {s : State} {p : Nat} (hready : s.dev.ready = true) (hpart : s.mgmt.terraces p ≠ [])
    (hvalid : s.bootValid p = true) (hgo : s.bootField p 8 4 = 1) (hheld : s.allHeld p = true) (hentry : s.entryOk p = true) :
    s.bootStart p = (s.bootPut p 8 4 2).onDev fun d =>
      d.booted s.mgmt p (BitVec.ofNat 64 (s.bootField p 16 8)) (BitVec.ofNat 64 (s.bootField p 24 8)) := by
  have hgoes : ¬ (!s.dev.ready ∨ (s.mgmt.terraces p).isEmpty ∨ !s.bootValid p ∨ s.bootField p 8 4 ≠ 1 ∨ !s.allHeld p) := by
    simp [hready, hpart, hvalid, hgo, hheld]
  unfold State.bootStart
  rw [if_neg hgoes, hentry, ← (s.moved_bootPut p 8 4 2).mgmt]
  rfl

theorem State.bootField_booted (s : State) (m : Mgmt) (q : Nat) (entry arg : Word) (p off n : Nat) :
    (s.onDev fun d => d.booted m q entry arg).bootField p off n = s.bootField p off n := by
  refine State.bootField_congr (s := s) (t := s.onDev fun d => d.booted m q entry arg) rfl (fun b => State.byte_onDev fun k => ?_) p off n
  rw [Dev.getCore_booted]
  split
  · rw [Core.booted_dirty]
  · rfl

/-! ### Harts that stop (R327, R328). -/

/-- A hart stops: its stores are performed, its dirty lines written back, its state lost. -/
def State.stopHart (s : State) (c : Nat) : State :=
  if (s.dev.getCore c).hart = .lost then s
  else
    (((s.drain c).dev.getCore c).dirty.foldl (fun s l => s.cleanLine l.1) (s.drain c)).onDev fun d => d.modCore c fun x =>
      { hart := .held, phys := x.phys, wayFails := x.wayFails, wayOff := x.wayOff }

theorem State.stopHarts_eq (s : State) (p : Nat) : s.stopHarts p = (s.mgmt.cores p).foldl State.stopHart s := rfl

theorem State.moved_cleanLines (s : State) (l : List (Nat × Bytes)) : s.Moved (l.foldl (fun s l => s.cleanLine l.1) s) :=
  State.moved_foldl (fun t x => t.moved_cleanLine x.1) l s

theorem State.stopHart_mgmt (s : State) (c : Nat) : (s.stopHart c).mgmt = s.mgmt := by
  unfold State.stopHart
  split
  · rfl
  · rw [State.onDev_mgmt, (State.moved_cleanLines _ _).mgmt, s.drain_mgmt]

theorem State.stopHarts_mgmt (s : State) (p : Nat) : (s.stopHarts p).mgmt = s.mgmt :=
  foldl_keep (fun t => t.mgmt = s.mgmt) State.stopHart (fun t c h => (t.stopHart_mgmt c).trans h) _ s rfl

theorem State.stopHart_hart (s : State) (c k : Nat) : ((s.stopHart c).dev.getCore k).hart =
    if c = k ∧ (s.dev.getCore k).hart ≠ .lost then .held else (s.dev.getCore k).hart := by
  unfold State.stopHart
  by_cases hlost : (s.dev.getCore c).hart = .lost
  · rw [if_pos hlost, if_neg]
    rintro ⟨rfl, hne⟩
    exact hne hlost
  · rw [if_neg hlost, State.onDev_dev, Dev.getCore_modCore]
    by_cases hc : c = k
    · subst hc
      rw [if_pos rfl, if_pos ⟨rfl, hlost⟩]
    · rw [if_neg hc, if_neg fun h => hc h.1, (State.moved_cleanLines _ _).hart, State.hart_drain]

/-- Every hart of a partition that was not lost is held. -/
theorem State.stopHarts_held {s : State} {p k : Nat} (hk : k ∈ s.mgmt.cores p) (hne : (s.dev.getCore k).hart ≠ .lost) :
    ((s.stopHarts p).dev.getCore k).hart = .held := by
  rw [State.stopHarts_eq]
  refine foldl_reaches (P := fun t : State => (t.dev.getCore k).hart ≠ .lost) (Q := fun t : State => (t.dev.getCore k).hart = .held)
    (fun t c hc ht => ?_) (fun t ht => ?_) (fun t c ht => ?_) hk hne
  · rwa [State.stopHart_hart, if_neg fun h => hc h.1]
  · rw [State.stopHart_hart, if_pos ⟨rfl, ht⟩]
  · rw [State.stopHart_hart, ht, ite_self]

/-! ### Caches that are emptied (R236, R328). -/

theorem Map.eq_nil_of_find {α : Type} {m : List (Nat × α)} (h : ∀ k, Map.find m k = none) : m = [] := by
  cases m with
  | nil => rfl
  | cons e m => exact absurd (h e.1) (by simp [Map.find])

theorem State.find_cleanLine (s : State) {c : Nat} (hc : c < 96) (line l : Nat) :
    Map.find ((s.cleanLine line).dev.getCore c).dirty l = if line = l then none else Map.find (s.dev.getCore c).dirty l := by
  cases h : s.dev.dirtyCopy line with
  | some bs => rw [State.getCore_cleanLine h, Core.find_wroteBack_dirty]
  | none =>
    rw [State.cleanLine_of_clean h]
    split
    · rename_i hl
      exact hl ▸ List.findSome?_eq_none_iff.1 h c (List.mem_range.2 hc)
    · rfl

/-- A core whose dirty lines are written back holds none dirty. -/
theorem State.cleanLines_dirty (s : State) {c : Nat} (hc : c < 96) :
    (((s.dev.getCore c).dirty.foldl (fun s l => s.cleanLine l.1) s).dev.getCore c).dirty = [] := by
  refine Map.eq_nil_of_find fun line => ?_
  have hstays (t : State) (x : Nat × Bytes) (ht : Map.find (t.dev.getCore c).dirty line = none) :
      Map.find ((t.cleanLine x.1).dev.getCore c).dirty line = none := by
    rw [State.find_cleanLine t hc, ht, ite_self]
  cases h : Map.find (s.dev.getCore c).dirty line with
  | none => exact foldl_keep (fun t : State => Map.find (t.dev.getCore c).dirty line = none) _ hstays _ s h
  | some bs =>
    exact foldl_reaches (P := fun _ => True) (fun _ _ _ _ => trivial) (fun t _ => by rw [State.find_cleanLine t hc, if_pos rfl]) hstays
      (Map.mem_of_find h) trivial

end Sys2Proof.Machine
end

section
/-!
PROOFS. Server harts: a lost core (R300, R332), the monitor, suspension and interrupt files (R326 to R331): O42.
-/

namespace Sys2Proof.Machine

/-! ### Poison of lines (R284, R300). -/

theorem Memory.poison_setPoison_other (m : Memory) {line l : Nat} (h : line ≠ l) (p : BitVec 128) :
    Map.find (m.setPoison line p).poison l = Map.find m.poison l := by
  unfold Memory.setPoison
  dsimp only
  split
  · rw [Map.find_del, if_neg h]
  · rw [Map.find_put, if_neg h]

theorem Memory.poison_writeLine_other (m : Memory) (lean : Bool) {line l : Nat} (h : line ≠ l) (mask : BitVec 128) (data : Bytes) :
    Map.find (m.writeLine lean line mask data).poison l = Map.find m.poison l := Memory.poison_setPoison_other _ h _

/-- A write at a home leaves the poison of other lines. -/
theorem State.poison_homeWrite_other (s : State) {line l : Nat} (h : line ≠ l) (mask : BitVec 128) (data : Bytes) :
    Map.find (s.homeWrite line mask data).mem.poison l = Map.find s.mem.poison l := by
  unfold State.homeWrite
  dsimp only
  refine (Memory.poison_writeLine_other _ _ h _ _).trans ?_
  split
  · exact Memory.poison_writeLine_other _ _ h _ _
  · rfl

/-! ### A lost core (R300, R332). -/

theorem State.log_record (s : State) (type : Nat) (att ctx : Option Nat) (data : Bytes) :
    (s.log type att ctx data).mgmt.record = s.mgmt.record :=
  Mgmt.addLog_view Mgmt.record (fun _ _ _ _ _ _ => rfl) _ _

theorem State.needsService_record (s : State) (reason : Nat) : (s.needsService reason).mgmt.record = s.mgmt.record := by
  rw [State.needsService_mgmt]
  split <;> rfl

/-- Lines whose data is lost are marked. -/
def State.marked (s : State) (lines : List (Nat × Bytes)) : State := lines.foldl (fun s l => s.markCaddy l.1) s

theorem State.marked_dev (s : State) (lines : List (Nat × Bytes)) : (s.marked lines).dev = s.dev :=
  foldl_keep (fun t : State => t.dev = s.dev) (fun s (l : Nat × Bytes) => s.markCaddy l.1) (fun _ _ h => h) lines s rfl

theorem State.marked_record (s : State) (lines : List (Nat × Bytes)) : (s.marked lines).mgmt.record = s.mgmt.record :=
  foldl_keep (fun t : State => t.mgmt.record = s.mgmt.record) (fun s (l : Nat × Bytes) => s.markCaddy l.1) (fun _ _ h => (State.log_record ..).trans h) lines s rfl

theorem State.markCaddy_poison (s : State) (line l : Nat) :
    Map.get (s.markCaddy line).mem.poison l 0 = if line = l then fullMask else Map.get s.mem.poison l 0 :=
  get_setPoison_full _ _ _

theorem State.marked_poison (s : State) {lines : List (Nat × Bytes)} {l : Nat × Bytes} (h : l ∈ lines) :
    Map.get (s.marked lines).mem.poison l.1 0 = fullMask := by
  refine foldl_reaches (P := fun _ => True) (Q := fun t : State => Map.get t.mem.poison l.1 0 = fullMask) (fun _ _ _ _ => trivial)
    (fun t _ => ?_) (fun t x ht => ?_) h trivial
  · rw [State.markCaddy_poison, if_pos rfl]
  · rw [State.markCaddy_poison, ht, ite_self]

/-- A core's number goes to a spare of its die while there is one; out is the physical core that fails, used the spares in use. -/
def State.spared (s : State) (c out used : Nat) : State :=
  let kind := Config.unitKind 2
  if used < 4 then
    let s := s.onDev fun d => { (d.modCore c fun _ => { hart := .stopped, phys := some (48 + used) }) with
      spareCores := Map.put d.spareCores (c / 48) (used + 1) }
    let s := s.onMgmt fun m => { m with swaps := m.swaps ++ [(kind, c, out, 48 + used)] }
    let s := s.log 0x230 none none (leBytes 1 kind ++ leBytes 2 c ++ leBytes 2 out ++ leBytes 2 (48 + used))
    if used = 3 then s.needsService 0 else s
  else s.onDev fun d => d.modCore c fun x => { hart := .lost, phys := x.phys }

/-- The loss of a core is told to its partition: its hart's bit in the boot record, and the source. -/
def State.lossTold (s : State) (p h : Nat) : State :=
  (s.bootPut p 40 16 (s.bootField p 40 16 ||| 2 ^ h)).onDev fun d => d.raiseSource p 2

section
variable (s : State) (c out used : Nat)

theorem State.spared_mem : (s.spared c out used).mem = s.mem := by
  unfold State.spared
  dsimp only
  split
  · split
    · rw [State.needsService_mem, State.log_mem, State.onMgmt_mem, State.onDev_mem]
    · rw [State.log_mem, State.onMgmt_mem, State.onDev_mem]
  · rfl

theorem State.spared_record : (s.spared c out used).mgmt.record = s.mgmt.record := by
  unfold State.spared
  dsimp only
  split
  · split
    · rw [State.needsService_record, State.log_record]
      rfl
    · exact State.log_record ..
  · rfl

/-- While there is a spare, the core's number stands for it, and it is in use. -/
theorem State.spared_spare {used : Nat} (h : used < 4) :
    (s.spared c out used).dev.getCore c = { hart := .stopped, phys := some (48 + used) } ∧
      Map.get (s.spared c out used).dev.spareCores (c / 48) 0 = used + 1 := by
  have hnow : let d : Dev := { (s.dev.modCore c fun _ => { hart := .stopped, phys := some (48 + used) }) with
        spareCores := Map.put s.dev.spareCores (c / 48) (used + 1) }
      d.getCore c = { hart := .stopped, phys := some (48 + used) } ∧ Map.get d.spareCores (c / 48) 0 = used + 1 :=
    ⟨Dev.getCore_modCore_self s.dev c fun _ => { hart := .stopped, phys := some (48 + used) }, Map.get_put_self ..⟩
  unfold State.spared
  dsimp only
  rw [if_pos h]
  split
  · rw [State.getCore_needsService, State.needsService_view Dev.spareCores fun _ _ => rfl]
    exact hnow
  · exact hnow

theorem State.spared_none {used : Nat} (h : 4 ≤ used) : ((s.spared c out used).dev.getCore c).hart = .lost := by
  unfold State.spared
  dsimp only
  rw [if_neg (Nat.not_lt.2 h), State.onDev_dev, Dev.getCore_modCore_self]

end

theorem Mgmt.sysmem_congr {m n : Mgmt} (h : n.record = m.record) (p : Nat) : n.sysmem p = m.sysmem p := by
  unfold Mgmt.sysmem Mgmt.terraces
  rw [h]

theorem State.corePt_congr {s t : State} (h : t.mgmt.record = s.mgmt.record) (c : Nat) : t.corePt c = s.corePt c := by
  unfold State.corePt Mgmt.ptOf
  rw [h]

/-- A core whose dirty lines are marked, and whose number goes to a spare. -/
def State.withoutCore (s : State) (c : Nat) : State :=
  let x := s.dev.getCore c
  (s.marked x.dirty).spared c (x.phys.getD (c % 48)) (Map.get s.dev.spareCores (c / 48) 0)

theorem State.withoutCore_record (s : State) (c : Nat) : (s.withoutCore c).mgmt.record = s.mgmt.record :=
  (State.spared_record ..).trans (State.marked_record ..)

/-- The loss of a core is told to its partition, if it has one. -/
theorem State.hartLost_eq {s : State} {c : Nat} (h : (s.dev.getCore c).hart ≠ .lost) : s.hartLost c =
    ((s.corePt c).map fun p => (s.withoutCore c).lossTold p ((s.withoutCore c).mgmt.hartOf p c)).getD (s.withoutCore c) := by
  have hlost : s.hartLost c = match (s.withoutCore c).corePt c with
    | none => s.withoutCore c
    | some p => (s.withoutCore c).lossTold p ((s.withoutCore c).mgmt.hartOf p c) := (if_neg h).trans rfl
  rw [hlost, State.corePt_congr (s.withoutCore_record c)]
  cases s.corePt c <;> rfl

/-- What tells of a loss writes one line of the boot record. -/
theorem State.lossTold_cases (s : State) (p h : Nat) : ∃ mask data,
    s.lossTold p h = (s.homeWrite (((s.mgmt.sysmem p).1 + 40) / 128) mask data).onDev fun d => d.raiseSource p 2 := by
  obtain ⟨mask, data, hw⟩ := s.bootPut_home p (s.bootField p 40 16 ||| 2 ^ h) (off := 40) (n := 16) (by decide) (by decide)
  exact ⟨mask, data, congrArg (fun t : State => t.onDev fun d => d.raiseSource p 2) hw⟩

section
variable (s : State) (p h : Nat)

theorem State.lossTold_mgmt : (s.lossTold p h).mgmt = s.mgmt := by
  rw [State.lossTold, State.onDev_mgmt, (s.moved_bootPut _ _ _ _).mgmt]

theorem State.lossTold_core (k : Nat) : (s.lossTold p h).dev.getCore k =
    (s.dev.getCore k).without (((s.mgmt.sysmem p).1 + 40) / 128) := by
  obtain ⟨_, _, hw⟩ := s.lossTold_cases p h
  rw [hw, State.onDev_dev, Dev.getCore_raiseSource, State.getCore_homeWrite]

theorem State.lossTold_poison {l : Nat} (hl : l ≠ ((s.mgmt.sysmem p).1 + 40) / 128) :
    Map.get (s.lossTold p h).mem.poison l 0 = Map.get s.mem.poison l 0 := by
  obtain ⟨_, _, hw⟩ := s.lossTold_cases p h
  rw [hw, State.onDev_mem, Map.get, State.poison_homeWrite_other _ (Ne.symm hl), Map.get]

theorem State.lossTold_spareCores : (s.lossTold p h).dev.spareCores = s.dev.spareCores := by
  obtain ⟨mask, data, hw⟩ := s.lossTold_cases p h
  obtain ⟨_, _, _, _, hhome⟩ := s.homeWrite_cases (((s.mgmt.sysmem p).1 + 40) / 128) mask data
  rw [hw, hhome]
  rfl

theorem State.lossTold_source : ((s.lossTold p h).dev.getPt p).sources.testBit 2 = true := by
  unfold State.lossTold
  rw [State.onDev_dev, Dev.raiseSource, Dev.getPt_modPt_self, Nat.testBit_or, Nat.testBit_two_pow_self, Bool.or_true]

end

/-! ### The layout record stays. -/

theorem State.hartLost_record (s : State) (c : Nat) : (s.hartLost c).mgmt.record = s.mgmt.record := by
  by_cases h : (s.dev.getCore c).hart = .lost
  · exact congrArg (fun t : State => t.mgmt.record) (if_pos h)
  · rw [State.hartLost_eq h]
    cases s.corePt c with
    | none => exact s.withoutCore_record c
    | some p => rw [Option.map_some, Option.getD_some, State.lossTold_mgmt, State.withoutCore_record]

theorem State.emptyCaches_mgmt (s : State) (c : Nat) : (s.emptyCaches c).mgmt = s.mgmt := (s.moved_cleanLines _).mgmt

theorem State.coreWay_record (s : State) (c lv way : Nat) : (s.coreWay c lv way).mgmt.record = s.mgmt.record := by
  unfold State.coreWay
  extract_lets x y fails off put
  have hput (l : List Nat) (t : State) : (put l t).mgmt = t.mgmt := rfl
  split
  · rw [hput]
  · split
    · rw [State.hartLost_record, hput]
    · split
      · rw [hput, State.emptyCaches_mgmt]
      · rw [hput]
        exact foldl_keep (fun t : State => t.mgmt.record = s.mgmt.record) (fun s k => s.emptyCaches (48 * (c / 48) + k))
          (fun t k h => (congrArg Mgmt.record (t.emptyCaches_mgmt _)).trans h) _ s rfl

theorem State.cacheCheck_record (s : State) (c line : Nat) (hit : Option (Fin 2 × Fin 16 × Check)) :
    (s.cacheCheck c line hit).1.mgmt.record = s.mgmt.record := by
  unfold State.cacheCheck
  dsimp only
  split
  · rfl
  · split
    · rfl
    · split
      · rfl
      · exact State.coreWay_record ..
      · split
        · exact State.hartLost_record ..
        · exact State.coreWay_record ..

/-- An access of a core leaves the cores of every partition. -/
theorem State.coreAt_cores {s w : State} {c : Nat} {h : HPre} {use : PageUse} {va a n ty : Nat} (hat : s.coreAt c h use va a n ty w) (p : Nat) :
    w.mgmt.cores p = s.mgmt.cores p := by
  obtain ⟨_, _, hcheck⟩ := hat
  have hrecord : w.mgmt.record = s.mgmt.record := by
    have h := (s.accessing c h).cacheCheck_record c (a / 128) h.hit
    rwa [hcheck] at h
  unfold Mgmt.cores Mgmt.terraces
  rw [hrecord]

/-! ### The monitor takes a partition back (R327, R328). -/

/-- A partition stands in the monitor with a status: every core of it that was not lost is held. -/
def State.Halted (s u : State) (p status : Nat) : Prop :=
  u.bootField p 8 4 = status ∧ ∀ k ∈ s.mgmt.cores p, (s.dev.getCore k).hart ≠ .lost → (u.dev.getCore k).hart = .held

/-- Once its harts have stopped, the monitor writes the status. -/
theorem State.halted_bootPut {s t v : State} {p : Nat} (hm : t.mgmt = s.mgmt) (ht : ∀ k, (t.dev.getCore k).hart = (s.dev.getCore k).hart)
    (hv : (t.stopHarts p).Moved v) {n : Nat} (hn : n % 256 ^ 4 = n) : s.Halted (v.bootPut p 8 4 n) p n := by
  refine ⟨(v.bootField_bootPut p n (by decide) (by decide)).trans hn, fun k hk hne => ?_⟩
  rw [(v.moved_bootPut _ _ _ _).hart, hv.hart]
  exact State.stopHarts_held (hm ▸ hk) (ht k ▸ hne)

theorem State.Halted.modPt {s u : State} {p status : Nat} (h : s.Halted u p status) (q : Nat) (f : Partn → Partn) :
    s.Halted (u.onDev fun d => d.modPt q f) p status := by
  obtain ⟨hstatus, hharts⟩ := h
  exact ⟨(u.bootField_modPt q f p 8 4).trans hstatus, hharts⟩

theorem exec_bootHalt {s : State} {p : Fin 8} (hpart : s.mgmt.terraces p ≠ []) (hvalid : s.bootValid p = true) (hgo : s.bootField p 8 4 = 5)
    (hrun : s.allHeld p = false) : exec (.bootHalt p) s = .next ((s.stopHarts p).bootPut p 8 4 3) := by
  have hgoes : ¬ ((s.mgmt.terraces p.val).isEmpty ∨ !s.bootValid p.val ∨ s.bootField p.val 8 4 ≠ 5 ∨ s.allHeld p.val) := by
    simp [hpart, hvalid, hgo, hrun]
  exact congrArg Host.Outcome.next (if_neg hgoes)

section
variable {s : State} {c : Fin 96} {p : Nat} (hacts : (s.dev.getCore c).acts = true) (hp : s.corePt c = some p)
include hacts hp

theorem exec_sbiSrstShutdown : exec (.sbiSrstShutdown c) s = .next (((s.accessing c {}).stopHarts p).bootPut p 8 4 3) := by
  have hpt : (s.accessing c {}).corePt c = some p := hp
  show Host.Outcome.next _ = _
  rw [State.coreStep_acts hacts, hpt]

theorem sbiSrstShutdown_halts : ∃ u, exec (.sbiSrstShutdown c) s = .next u ∧ s.Halted u p 3 :=
  ⟨_, exec_sbiSrstShutdown hacts hp,
    State.halted_bootPut (s := s) (t := s.accessing c {}) rfl (s.hart_accessing c {}) (.refl _) (n := 3) (by norm_num)⟩

theorem exec_sbiSrstReboot : exec (.sbiSrstReboot c) s =
    .next (((((s.accessing c {}).stopHarts p).bootPut p 12 4 1).bootPut p 8 4 1).onDev fun d =>
      d.modPt p fun q => { q with monitor := s.mgmt.fwVersion.toNat }) := by
  have hpt : (s.accessing c {}).corePt c = some p := hp
  show Host.Outcome.next _ = _
  rw [State.coreStep_acts hacts, hpt]
  rfl

/-- A reboot leaves the status, the reason and the monitor's version (Table 13.3). -/
theorem sbiSrstReboot_halts : ∃ u, exec (.sbiSrstReboot c) s = .next u ∧ s.Halted u p 1 ∧ u.bootField p 12 4 = 1 ∧
    (u.dev.getPt p).monitor = s.mgmt.fwVersion.toNat := by
  have hhalted := State.halted_bootPut (s := s) (t := s.accessing c {}) (p := p) rfl (s.hart_accessing c {}) (State.moved_bootPut _ p 12 4 1) (n := 1)
    (by norm_num)
  refine ⟨_, exec_sbiSrstReboot hacts hp, hhalted.modPt _ _, ?_, ?_⟩
  · rw [State.bootField_modPt, State.bootField_bootPut_beyond _ _ _ (by decide) (by decide) (by decide),
      State.bootField_bootPut _ _ _ (by decide) (by decide)]
    norm_num
  · rw [State.onDev_dev, Dev.getPt_modPt_self]

end

/-! ### Calls to the monitor (R328). -/

/-- A hart that is stopped is started, and its caller gets 0. -/
theorem State.hsmStart_starts {s : State} {c h t p : Nat} {addr : Word} (hp : s.corePt c = some p) (ht : (s.mgmt.cores p)[h]? = some t)
    (hstopped : (s.dev.getCore t).hart = .stopped) (hadm : s.mgmt.admits p addr.toNat 1 = true) (arg : Word) :
    ∃ v, s.hsmStart c h addr arg = (((s.bootPut p 40 16 v).onDev fun d => d.modCore t fun x => x.start addr (BitVec.ofNat 64 h) arg).onDev
      fun d => d.modCore c fun x => { x with a0 := 0 }) := by
  refine ⟨s.bootField p 40 16 &&& (2 ^ 128 - 1 - 2 ^ h), ?_⟩
  unfold State.hsmStart State.hart
  rw [hp]
  dsimp only
  rw [ht]
  dsimp only
  rw [if_neg (fun hne => hne hstopped), hadm]
  rfl

/-- A hart that another one has started runs at its address, and its caller holds 0. -/
theorem State.hartStarted_cores (s : State) {c t : Nat} (hct : c ≠ t) (pc a0 a1 : Word) :
    let u := (s.onDev fun d => d.modCore t fun x => x.start pc a0 a1).onDev fun d => d.modCore c fun x => { x with a0 := 0 }
    (u.dev.getCore c).a0 = 0 ∧ (u.dev.getCore t).hart = .running ∧ (u.dev.getCore t).pc = pc ∧ (u.dev.getCore t).a0 = a0 ∧
      (u.dev.getCore t).a1 = a1 ∧ (u.dev.getCore t).csrs = {} := by
  intro u
  have hcaller : (u.dev.getCore c).a0 = 0 := congrArg Core.a0 (Dev.getCore_modCore_self ..)
  have hstarted : u.dev.getCore t = (s.dev.getCore t).start pc a0 a1 :=
    (Dev.getCore_modCore ..).trans ((if_neg hct).trans (Dev.getCore_modCore_self ..))
  rw [hstarted]
  exact ⟨hcaller, rfl, rfl, rfl, rfl, rfl⟩

/-! ### Interrupt files (R329). -/

/-- A store of 4 bytes to an interrupt file. -/
theorem State.ioAccess_file {w : State} {c a p h f : Nat} (hp : w.corePt c = some p)
    (hreg : coreReg p (w.mgmt.cores p).length (w.dev.getCore c).csrs.mode.val a = .file h f 0) (hal : a % 4 = 0) (v : Word) :
    w.ioAccess c a 4 (some v) = (w.drain c).fileWrite p h f 0 v.toNat := by
  unfold State.ioAccess
  rw [hp]
  dsimp only
  rw [if_neg (by simp [has, hal]), w.drain_mgmt, hreg]
  rfl

theorem State.fileWrite_hart {s : State} {p h t : Nat} (ht : (s.mgmt.cores p)[h]? = some t) (f v : Nat) :
    s.fileWrite p h f 0 v = (s.drain t).onDev fun d => d.modCore t fun x => x.interrupt f (v % 2 ^ 32) := by
  unfold State.fileWrite
  rw [ht]
  rfl

section
variable (x : Core) {f i : Nat} (h1 : 1 ≤ i) (h2 : i ≤ 255)
include h1 h2

theorem Core.interrupt_of_identity : x.interrupt f i =
    { x with imsic := addOnce x.imsic (256 * f + i), wrs := false, hart := if x.hart = .suspended then .running else x.hart } :=
  if_pos ⟨h1, h2⟩

theorem Core.interrupt_pends : has (x.interrupt f i).imsic (256 * f + i) = true := by
  rw [x.interrupt_of_identity h1 h2]
  exact has_addOnce _ _

theorem Core.interrupt_wakes (h : x.hart = .suspended) : (x.interrupt f i).hart = .running := by
  rw [x.interrupt_of_identity h1 h2]
  exact if_pos h

end

theorem State.interrupt_core (s : State) (t f i : Nat) :
    (s.onDev fun d => d.modCore t fun x => x.interrupt f i).dev.getCore t = (s.dev.getCore t).interrupt f i := Dev.getCore_modCore_self _ _ _

/-! ### Suspension (R328). -/

/-- A core whose caches are emptied holds no line. -/
theorem State.emptyCaches_core (s : State) {c : Nat} (hc : c < 96) :
    ((s.emptyCaches c).dev.getCore c).sb = (s.dev.getCore c).sb ∧ ((s.emptyCaches c).dev.getCore c).dirty = [] ∧
      ((s.emptyCaches c).dev.getCore c).clean = [] := by
  unfold State.emptyCaches
  rw [State.onDev_dev, Dev.getCore_modCore_self]
  exact ⟨(State.moved_cleanLines _ _).sb c, State.cleanLines_dirty _ hc, rfl⟩

/-- A core that is suspended keeps what its store buffer and its caches hold. -/
theorem State.suspended_core (s : State) (c : Nat) (retentive : Bool) :
    (s.onDev fun d => d.modCore c fun x => { x with hart := .suspended, retentive := retentive }).dev.getCore c =
      { s.dev.getCore c with hart := .suspended, retentive := retentive } := Dev.getCore_modCore_self _ _ _

/-- What the suspension of a running core that loses its power leaves of it. -/
theorem hsmSuspend_empties {s : State} {c : Fin 96} (hacts : (s.dev.getCore c).acts = true) (hlen : (s.dev.getCore c).sb.length ≤ 64) :
    ∃ u, exec (.hsmSuspend c false) s = .next u ∧ (u.dev.getCore c).hart = .suspended ∧ (u.dev.getCore c).sb = [] ∧
      (u.dev.getCore c).dirty = [] ∧ (u.dev.getCore c).clean = [] := by
  have hst : (s.dev.getCore c).stalled = [] := Core.stalled_of_acts hacts
  have hcore := s.accessing_core c {}
  obtain ⟨hsb, _⟩ := State.drain_all (s := s.accessing c {}) (c := c) (by rw [hcore]; exact hlen) (by rw [hcore]; exact hst)
  obtain ⟨hsb', hdirty, hclean⟩ := ((s.accessing c {}).drain c).emptyCaches_core c.isLt
  have hstep : exec (.hsmSuspend c false) s = .next ((((s.accessing c {}).drain c).emptyCaches c).onDev fun d =>
      d.modCore c fun x => { x with hart := .suspended, retentive := false }) :=
    congrArg Host.Outcome.next (State.coreStep_acts hacts _)
  refine ⟨_, hstep, ?_⟩
  rw [State.suspended_core]
  dsimp only
  exact ⟨rfl, hsb'.trans hsb, hdirty, hclean⟩

/-- A store of an identity to an interrupt file of a hart makes it pending there. -/
theorem exec_imsicWrite {s w : State} {c : Fin 96} {g : HPre} {va a ty p h f t : Nat} {v : BitVec 32} (hat : s.coreAt c g .store va a 4 ty w)
    (hp : w.corePt c = some p) (hreg : coreReg p (s.mgmt.cores p).length (w.dev.getCore c).csrs.mode.val a = .file h f 0) (hal : a % 4 = 0)
    (ht : (s.mgmt.cores p)[h]? = some t) : exec (.imsicWrite c g va v) s =
      .next (((w.drain c).drain t).onDev fun d => d.modCore t fun x => x.interrupt f v.toNat) := by
  have hcores := State.coreAt_cores hat p
  have hv : (v.zeroExtend 64).toNat % 2 ^ 32 = v.toNat := by
    have := v.isLt
    simp only [BitVec.truncate_eq_setWidth, BitVec.toNat_setWidth]
    omega
  have hfile := State.ioAccess_file hp (by rw [hcores]; exact hreg) hal (v.zeroExtend 64)
  rw [State.fileWrite_hart (t := t) (by rw [w.drain_mgmt, hcores]; exact ht), hv] at hfile
  exact congrArg Host.Outcome.next ((State.coreMem_at hat _).trans hfile)

/-- Settles O42: each row by its rule above. -/
theorem serverHarts : Obligations.ServerHarts := by
  unfold Obligations.ServerHarts
  refine ⟨fun s p c => ?harts, ?lost⟩
  case harts =>
    intro cores x held
    refine ⟨fun hready hpart hvalid hgo hallHeld hentry => ?start, fun hpart hvalid hgo hrun => ?halt, fun hacts hp => ⟨?shutdown, ?reboot, ?hsm⟩,
      fun g va a ty w h f t v hat hp hreg hal ht hne h1 h2 => ?imsic, fun hacts => ⟨?nto, ?sto, ?retentive, fun hlen => ?suspend⟩⟩
    case start =>
      refine ⟨_, congrArg Host.Outcome.next (State.bootStart_starts hready hpart hvalid hgo hallHeld hentry), ?_, fun k hk hne => ?_⟩
      · rw [State.bootField_booted, State.bootField_bootPut _ _ _ (by decide) (by decide)]
        norm_num
      · have hput : ((s.bootPut p 8 4 2).dev.getCore k).hart ≠ .lost := by
          rw [(s.moved_bootPut _ _ _ _).hart]
          exact hne
        rw [State.onDev_dev, Dev.getCore_booted, if_pos hk]
        refine ⟨fun hfirst => ?_, fun hother => ?_⟩
        · rw [hfirst, Core.booted_first hput]
          exact ⟨rfl, rfl, rfl, rfl, rfl⟩
        · rw [Core.booted_other hput hother]
    case halt => exact ⟨_, exec_bootHalt hpart hvalid hgo hrun, State.halted_bootPut (t := s) rfl (fun _ => rfl) (.refl _) (by norm_num)⟩
    case shutdown => exact sbiSrstShutdown_halts hacts hp
    case reboot => exact sbiSrstReboot_halts hacts hp
    case hsm =>
      intro h t addr arg ht hstopped hadm
      have hct : c.val ≠ t := by
        rintro rfl
        exact absurd ((Core.running_of_acts hacts).symm.trans hstopped) (by decide)
      obtain ⟨v, hstart⟩ := State.hsmStart_starts (s := s.accessing c {}) hp ht ((s.hart_accessing c {} t).trans hstopped) hadm arg
      exact ⟨_, congrArg Host.Outcome.next ((State.coreStep_acts hacts _).trans hstart), State.hartStarted_cores _ hct _ _ _⟩
    case imsic =>
      refine ⟨_, exec_imsicWrite hat hp hreg hal ht, ?_, ?_, ?_⟩
      · rw [State.onDev_pow, State.drain_pow, State.drain_pow]
      · rw [State.onDev_mgmt, State.drain_mgmt, State.drain_mgmt]
      · rw [State.interrupt_core]
        refine ⟨Core.interrupt_pends _ h1 h2, fun hsusp => Core.interrupt_wakes _ h1 h2 ?_⟩
        rw [State.hart_drain, State.hart_drain, hsusp]
    case nto =>
      refine ⟨_, congrArg Host.Outcome.next (State.coreStep_acts hacts _), onlyDev_onDev _ _, ?_⟩
      rw [State.onDev_dev, Dev.getCore_modCore_self, State.accessing_core]
      rfl
    case sto => exact ⟨_, congrArg Host.Outcome.next (State.coreStep_acts hacts _), onlyDev_onDev _ _, State.accessing_core _ _ _⟩
    case retentive =>
      refine ⟨_, congrArg Host.Outcome.next (State.coreStep_acts hacts _), onlyDev_onDev _ _, ?_⟩
      rw [State.onDev_dev, Dev.getCore_modCore_self, if_pos rfl, State.accessing_core]
      rfl
    case suspend => exact hsmSuspend_empties hacts hlen
  case lost =>
    intro s c p x used hne hp hlines
    have hsys := Mgmt.sysmem_congr (s.withoutCore_record c) p
    have hstep : exec (.hartLost c) s = .next ((s.withoutCore c).lossTold p ((s.withoutCore c).mgmt.hartOf p c)) :=
      congrArg Host.Outcome.next ((State.hartLost_eq hne).trans (by rw [hp]; rfl))
    refine ⟨_, hstep, fun l hl => ?_, State.lossTold_source .., fun hspare => ?_, fun hnone => ?_⟩
    · rw [State.lossTold_poison _ _ _ (hsys ▸ hlines l hl 0 (by decide)), State.withoutCore, State.spared_mem, State.marked_poison _ hl]
    · obtain ⟨hcore, hused⟩ := State.spared_spare (s.marked x.dirty) c (x.phys.getD (c % 48)) hspare
      rw [State.lossTold_core, State.lossTold_spareCores, State.withoutCore, hcore]
      exact ⟨rfl, rfl, rfl, hused⟩
    · rw [State.lossTold_core]
      exact State.spared_none _ _ _ hnone

end Sys2Proof.Machine
end

section
/-!
PROOFS. Safety: the state after reset (R471, R481, R495) and what every step keeps (R476, R481): O2 and O3.
-/

namespace Sys2Proof.Machine

/-- Settles O2: each is the value of a field that reset gives. -/
theorem resetState : Obligations.ResetState := by
  unfold Obligations.ResetState
  exact ⟨by decide, rfl, rfl, rfl, rfl, rfl, rfl, rfl, rfl⟩

/-- Settles O3, by the two cases of the queue: what a command keeps, and what a cycle of time keeps. -/
theorem stepKeepsSafe : Obligations.StepKeepsSafe := by
  unfold Obligations.StepKeepsSafe
  intro s t hs ht
  cases hq : s.pending with
  | nil =>
    rw [step_of_empty hq] at ht
    obtain rfl := Host.Outcome.next.inj ht
    obtain ⟨_, _, _, hkept⟩ := tick_keeps s
    exact hkept hs
  | cons c rest =>
    have hstep : step s = exec c { s with pending := rest } := by
      unfold step
      rw [hq]
    obtain ⟨u, hu, hk⟩ := exec_keeps c { s with pending := rest }
    obtain rfl := Host.Outcome.next.inj ((hu.symm.trans hstep.symm).trans ht)
    obtain ⟨_, _, _, _, hkept⟩ := hk
    exact hkept hs

end Sys2Proof.Machine
end

section
/-!
PROOFS. What the shared operations leave alone that the last statements speak of: log records, calls for service, and the calls of L3 and L4
(R454 to R456, R468, R471).
-/

namespace Sys2Proof.Machine

/-! ### Log records and status interrupts. -/

@[simp] theorem State.log_pow (s : State) (type : Nat) (att ctx : Option Nat) (data : Bytes) : (s.log type att ctx data).pow = s.pow := rfl
@[simp] theorem State.log_time (s : State) (type : Nat) (att ctx : Option Nat) (data : Bytes) : (s.log type att ctx data).time = s.time := rfl

/-- What does not look at the log is as before a record. -/
theorem State.log_view {β : Type} (g : Mgmt → β)
    (hg : ∀ (m : Mgmt) next resv log kept dropped,
      g { m with nextLog := next, resvEnd := resv, log := log, kept := kept, dropped := dropped } = g m)
    (s : State) (type : Nat) (att ctx : Option Nat) (data : Bytes) : g (s.log type att ctx data).mgmt = g s.mgmt :=
  Mgmt.addLog_view g hg _ _

@[simp] theorem State.notify_mem (old s : State) : (State.notify old s).mem = s.mem := rfl
@[simp] theorem State.notify_pow (old s : State) : (State.notify old s).pow = s.pow := rfl
@[simp] theorem State.notify_mgmt (old s : State) : (State.notify old s).mgmt = s.mgmt := rfl

/-- What does not look at the attachments is as before status interrupts. -/
theorem State.notify_view {β : Type} (g : Dev → β) (hg : ∀ d atts, g { d with atts := atts } = g d) (old s : State) :
    g (State.notify old s).dev = g s.dev := by
  rw [(State.notify_interrupted old s).1, hg]

@[simp] theorem State.needsService_pow (s : State) (reason : Nat) : (s.needsService reason).pow = s.pow := rfl

/-! ### L3 and L4 (R454 to R456). -/

@[simp] theorem State.callL4_mem (s : State) : s.callL4.mem = s.mem := rfl
@[simp] theorem State.callL4_pow (s : State) : s.callL4.pow = s.pow := rfl
@[simp] theorem State.callL4_dev (s : State) : s.callL4.dev = s.dev.halt := rfl
@[simp] theorem State.callL4_mgmt (s : State) : s.callL4.mgmt = { s.mgmt with l4 := true } := rfl

/-- A call of L3 changes nothing where recovery runs already; else the device halts, for its L3 or, at the third within 2^31 kettle cycles,
for L4. -/
theorem State.callL3_cases (s : State) :
    (s.callL3 = s ∧ (s.mgmt.l4 = true ∨ s.mgmt.l3Since.isSome = true)) ∨ s.callL3 = s.callL4 ∨
      ∃ recent, s.callL3 = (s.onMgmt fun m => { m with l3Since := some s.kettle, l3s := recent }).onDev Dev.halt := by
  unfold State.callL3
  dsimp only
  split
  · exact .inl ⟨rfl, ‹_›⟩
  · split
    · exact .inr (.inl rfl)
    · exact .inr (.inr ⟨_, rfl⟩)

@[simp] theorem State.callL3_mem (s : State) : s.callL3.mem = s.mem := by
  obtain ⟨h, _⟩ | h | ⟨_, h⟩ := s.callL3_cases <;> rw [h] <;> rfl

@[simp] theorem State.callL3_pow (s : State) : s.callL3.pow = s.pow := by
  obtain ⟨h, _⟩ | h | ⟨_, h⟩ := s.callL3_cases <;> rw [h] <;> rfl

/-- What a halt leaves alone is as before a call of L3. -/
theorem State.callL3_view {β : Type} (g : Dev → β) (hg : ∀ d, g d.halt = g d) (s : State) : g s.callL3.dev = g s.dev := by
  obtain ⟨h, _⟩ | h | ⟨_, h⟩ := s.callL3_cases
  · rw [h]
  · rw [h]
    exact hg _
  · rw [h]
    exact hg _

/-- After a call of L3 an L3 is under way or L4 has been called for. -/
theorem State.callL3_called (s : State) : s.callL3.mgmt.l4 = true ∨ s.callL3.mgmt.l3Since.isSome = true := by
  obtain ⟨h, hc⟩ | h | ⟨_, h⟩ := s.callL3_cases
  · rw [h]
    exact hc
  · rw [h]
    exact .inl rfl
  · rw [h]
    exact .inr rfl

/-- The first L3 starts now, and the device halts. -/
theorem State.callL3_first {s : State} (h4 : s.mgmt.l4 = false) (hn : s.mgmt.l3Since = none) (hs : s.mgmt.l3s = []) :
    s.callL3 = (s.onMgmt fun m => { m with l3Since := some s.kettle, l3s := [s.kettle] }).onDev Dev.halt := by
  simp [State.callL3, h4, hn, hs]

end Sys2Proof.Machine
end

section
/-!
PROOFS. Links, ports and requesters (R306, R309 to R315): O39.
-/

namespace Sys2Proof.Machine

/-! ### Links (R309 to R311). -/

theorem Dev.getLink_count (d : Dev) (k n l : Nat) : (d.count k n).getLink l = d.getLink l := rfl

theorem mem_foldl_addOnce (l : List Nat) : ∀ (base : List Nat) (n : Nat), has (l.foldl addOnce base) n = (has base n || has l n) := by
  induction l with
  | nil =>
    intro base n
    simp [has]
  | cons a t ih =>
    intro base n
    have hadd : has (addOnce base a) n = (has base n || decide (a = n)) := by
      unfold addOnce
      split
      · rename_i ha
        by_cases hn : a = n
        · subst hn
          simp [ha]
        · simp [hn]
      · simp [has]
    rw [List.foldl_cons, ih, hadd]
    simp [has, Bool.or_assoc]

/-- The link after a retrain: its counts are cleared, and its modules beyond their redundant lanes run at half width. -/
def Link.retrain (x : Link) (l : Nat) (bad : List Nat) : Link :=
  { x with consec := 0, recent := [], needs := false, bad := laneCounts l bad, half := (halfModules l (laneCounts l bad)).foldl addOnce x.half }

theorem State.retrained_spec {s : State} {l : Nat} (hneeds : (s.dev.getLink l).needs = true) (hfailed : (s.dev.getLink l).failed = false)
    (bad : List Nat) : (s.retrained l bad).mem = s.mem ∧ (s.retrained l bad).pow = s.pow ∧
      (s.retrained l bad).dev.getLink l = (s.dev.getLink l).retrain l bad := by
  have hlink (t : State) : (t.needsService 6).dev.getLink l = t.dev.getLink l :=
    State.needsService_view (fun d => d.getLink l) (fun _ _ => rfl) t 6
  have hmod (f : Link → Link) : ((s.dev.modLink l f).count 6 1).getLink l = f (s.dev.getLink l) := by
    rw [Dev.getLink_count, Dev.getLink_modLink_self]
  unfold State.retrained
  dsimp only
  rw [if_neg (by simp [hneeds, hfailed])]
  split
  · refine ⟨rfl, rfl, ?_⟩
    rw [State.log_dev, State.onDev_dev, hmod]
    rfl
  · refine ⟨State.needsService_mem _ _, State.needsService_pow _ _, ?_⟩
    rw [hlink, State.log_dev, State.log_dev, State.onDev_dev, hmod]
    rfl

theorem Link.retrain_half {x : Link} {l : Nat} {bad : List Nat} {m : Nat} (h : m ∈ x.half) : has (x.retrain l bad).half m = true := by
  rw [Link.retrain, mem_foldl_addOnce, has_iff.2 h, Bool.true_or]

theorem Link.retrain_half_of_lanes {x : Link} {l : Nat} {bad : List Nat} {m n : Nat} (h : (m, n) ∈ laneCounts l bad) (hn : spareLanes l < n) :
    has (x.retrain l bad).half m = true := by
  have hm : m ∈ halfModules l (laneCounts l bad) := List.mem_map.2 ⟨(m, n), List.mem_filter.2 ⟨h, decide_eq_true hn⟩, rfl⟩
  rw [Link.retrain, mem_foldl_addOnce, has_iff.2 hm, Bool.or_true]

theorem State.linkFails_spec {s : State} {l : Nat} (hneeds : (s.dev.getLink l).needs = true) (hfailed : (s.dev.getLink l).failed = false) :
    (s.linkFails l).mem.bytes = s.mem.bytes ∧ (s.linkFails l).pow = s.pow ∧ ((s.linkFails l).dev.getLink l).failed = true ∧
      ((s.linkFails l).mgmt.l4 = true ∨ (s.linkFails l).mgmt.l3Since.isSome = true) := by
  unfold State.linkFails
  dsimp only
  rw [if_neg (by simp [hneeds, hfailed])]
  refine ⟨by rw [State.callL3_mem]; rfl, by rw [State.callL3_pow]; rfl, ?_, State.callL3_called _⟩
  rw [State.callL3_view (fun d => (d.getLink l).failed) (fun _ => rfl), State.log_dev, State.onDev_dev, Dev.getLink_modLink_self]

/-! ### Ports (R306, R312 to R315). -/

/-- A burst that arrives at a port from a requester that is present: it joins a queue that has room, and no other queue or grant changes. -/
theorem Dev.park_present {d : Dev} {p r : Nat} (hr : has (d.getAPort p).absent r = false) (b : Burst) (now : Nat) :
    ((d.park p r b now).1.getAPort p).grant = (d.getAPort p).grant ∧
      (∀ k, k ≠ r → Map.get ((d.park p r b now).1.getAPort p).queues k [] = Map.get (d.getAPort p).queues k []) ∧
      Map.get ((d.park p r b now).1.getAPort p).queues r [] =
        if (Map.get (d.getAPort p).queues r []).length < 16 then enqueue (Map.get (d.getAPort p).queues r []) { b := b, rev := 0, since := now }
        else Map.get (d.getAPort p).queues r [] := by
  unfold Dev.park
  simp only [hr, Bool.false_eq_true, if_false]
  split
  · rw [Dev.getAPort_modAPort_self]
    refine ⟨rfl, fun k hk => ?_, Map.get_put_self _ _ _ _⟩
    rw [Map.get_put, if_neg hk.symm]
  · split <;> exact ⟨rfl, fun _ _ => rfl, rfl⟩

theorem nextFrom_mem {ptr : Nat} {l : List (Nat × QBurst)} {r : Nat × QBurst} (h : nextFrom ptr l = some r) : r ∈ l := by
  unfold nextFrom at h
  split at h
  · cases h
    exact List.mem_of_find?_eq_some ‹_›
  · exact List.mem_of_head? h

theorem nextFrom_eq_none {ptr : Nat} {l : List (Nat × QBurst)} (h : nextFrom ptr l = none) : l = [] := by
  unfold nextFrom at h
  split at h
  · cases h
  · exact List.head?_eq_none_iff.1 h

/-- The next request of a class among some. -/
def APort.ofClass (x : APort) (k : Nat) (l : List (Nat × QBurst)) : Option (Nat × QBurst) :=
  nextFrom (Map.get x.ptrs k 0) (l.filter fun r => r.2.cls = k)

theorem APort.ofClass_cls {x : APort} {k : Nat} {l : List (Nat × QBurst)} {r : Nat × QBurst} (h : x.ofClass k l = some r) : r.2.cls = k :=
  of_decide_eq_true (List.mem_filter.1 (nextFrom_mem h)).2

theorem APort.ofClass_none {x : APort} {k : Nat} {l : List (Nat × QBurst)} (h : x.ofClass k l = none) {y : Nat × QBurst} (hy : y ∈ l) :
    y.2.cls ≠ k := fun hk => by
  have hnil := nextFrom_eq_none h
  have hmem : y ∈ l.filter fun r => decide (r.2.cls = k) := List.mem_filter.2 ⟨hy, decide_eq_true hk⟩
  rw [hnil] at hmem
  cases hmem

theorem reqClass_lt (k : Req) : reqClass k < 4 := by
  cases k <;> decide

/-- With no batch of writes under way and no request that has waited 512 cycles, the highest class goes first. -/
theorem APort.choose_highest {x : APort} {now q : Nat} {b : QBurst} {age : Bool} (h : x.choose now = some (q, b, age)) (hb : x.batch = 0)
    (hyoung : ∀ y ∈ x.seen, y.2.cls ≠ 0 → now < y.2.since + 512) : ∀ y ∈ x.seen, b.cls ≤ y.2.cls := by
  intro y hy
  have hold : (x.seen.filter fun r => 1 ≤ r.2.cls && r.2.since + 512 ≤ now) = [] := by
    refine List.filter_eq_nil_iff.2 fun z hz => ?_
    have := hyoung z hz
    simp only [Bool.and_eq_true, decide_eq_true_eq, not_and]
    omega
  have hnone (k : Nat) : x.ofClass k [] = none := rfl
  unfold APort.choose at h
  simp only [← APort.ofClass.eq_1, hold, hnone, hb, Nat.lt_irrefl, if_false, List.findSome?_eq_none_iff.2 fun _ _ => rfl] at h
  split at h
  · rename_i r hr
    cases h
    have := APort.ofClass_cls hr
    omega
  · cases ‹none = some _›
  · obtain ⟨r, hr, he⟩ := Option.map_eq_some_iff.1 h
    cases he
    obtain ⟨front, k, back, hlist, hk, hfront⟩ := List.findSome?_eq_some_iff.1 hr
    obtain rfl : r.2.cls = k := APort.ofClass_cls hk
    have hrising : List.Pairwise (· < ·) (front ++ r.2.cls :: back) := hlist ▸ (by decide : List.Pairwise (· < ·) [0, 1, 2, 3])
    have hmem : y.2.cls ∈ front ++ r.2.cls :: back := hlist ▸ (by have := reqClass_lt y.2.b.kind; simp [QBurst.cls]; omega)
    rcases List.mem_append.1 hmem with hin | hin
    · exact absurd rfl (APort.ofClass_none (hfront _ hin) hy)
    · rcases List.mem_cons.1 hin with heq | hin
      · exact heq.ge
      · exact Nat.le_of_lt ((List.pairwise_cons.1 (List.pairwise_append.1 hrising).2.1).1 _ hin)

/-- A burst that heads its requester's queue is granted: it leaves the queue, and the pointer of its class goes past the requester. -/
theorem APort.take_head {x : APort} {r : Nat} {b : QBurst} (h : (Map.get x.queues r []).head? = some b) (p : Nat) (age : Bool) :
    (x.take p r b age).grant = some (r, b) ∧ (x.take p r b age).queues = Map.put x.queues r (Map.get x.queues r []).tail ∧
      (x.take p r b age).ptrs = Map.put x.ptrs b.cls (r + 1) := by
  unfold APort.take
  dsimp only
  cases hq : Map.get x.queues r [] with
  | nil =>
    rw [hq] at h
    cases h
  | cons c t =>
    rw [hq] at h
    obtain rfl : c = b := Option.some.inj h
    dsimp only
    rw [if_pos rfl]
    exact ⟨rfl, rfl, rfl⟩

/-- A port that is free to send grants the choice of its cycle. -/
theorem Dev.arbitrate_free {d : Dev} {p now q : Nat} {b : QBurst} {age : Bool} (hheld : d.portHeld p = false)
    (hfree : (d.getAPort p).grant = none) (hc : (d.getAPort p).choose now = some (q, b, age)) :
    ∃ seen, (d.arbitrate p now).getAPort p = { APort.take { d.getAPort p with grant := none, sent := 0 } p q b age with seen := seen } := by
  have hgo : d.forward p now = (d, true) := by
    unfold Dev.forward
    rw [hfree]
  have hc' : APort.choose { d.getAPort p with grant := none, sent := 0 } now = some (q, b, age) := hc
  unfold Dev.arbitrate
  rw [if_neg (by simp [hheld])]
  simp only [hfree, if_true, hgo, Dev.getAPort_modAPort_self, hc']
  exact ⟨_, rfl⟩

/-- Absence discards a requester's queue, and its grant unless that has started and sends no write. -/
theorem APort.setAbsent_grant (x : APort) (r : Nat) (g : Nat × QBurst) :
    (x.setAbsent r true).grant = some g ↔ x.grant = some g ∧ (g.1 = r → x.sent ≠ 0 ∧ g.2.cls ≠ 2) := by
  unfold APort.setAbsent
  cases hg : x.grant with
  | none => simp
  | some k =>
    simp only [if_true]
    constructor
    · intro h
      split at h
      · cases h
      · rename_i hcut
        obtain rfl := Option.some.inj h
        refine ⟨rfl, fun hr => ?_⟩
        simpa [hr] using hcut
    · rintro ⟨h, hr⟩
      obtain rfl := Option.some.inj h
      rw [if_neg]
      simpa [imp_and] using hr

theorem APort.mem_writes {x : APort} {r : Nat} {b : QBurst} {i : Nat} (hb : b ∈ Map.get x.queues r []) (hi : i ∈ b.b.writes) : i ∈ x.writes := by
  unfold Map.get at hb
  cases hq : Map.find x.queues r with
  | none =>
    rw [hq] at hb
    cases hb
  | some q =>
    rw [hq] at hb
    exact List.mem_append.2 (.inl (List.mem_flatMap.2 ⟨(r, q), Map.mem_of_find hq, List.mem_flatMap.2 ⟨b, hb, hi⟩⟩))

theorem State.absentAt_port (s : State) (port r : Nat) (absent : Bool) :
    (s.absentAt port r absent).dev.getAPort port = (s.dev.getAPort port).setAbsent r absent := by
  unfold State.absentAt
  rw [State.onMem_dev, State.onDev_dev, Dev.getAPort_modAPort_self]

/-- A write that a discarded burst brings, and no burst at the port any more, is not on its way. -/
theorem State.absentAt_drops {s : State} {port r i : Nat} {absent : Bool} (hi : i ∈ (s.dev.getAPort port).writes)
    (hgone : has ((s.dev.getAPort port).setAbsent r absent).writes i = false) {w : LineWrite} (hw : w ∈ (s.absentAt port r absent).mem.flight) :
    w.id ≠ i := by
  rintro rfl
  obtain ⟨_, hkept⟩ := List.mem_filter.1 (show w ∈ s.mem.flight.filter _ from hw)
  have hin : w.id ∈ (s.dev.getAPort port).writes.filter fun i => !has ((s.dev.getAPort port).setAbsent r absent).writes i :=
    List.mem_filter.2 ⟨hi, by rw [hgone]; rfl⟩
  rw [has_iff.2 hin] at hkept
  cases hkept

/-- The fall of the signal discards nothing. -/
theorem State.absentAt_false (s : State) (port r : Nat) : OnlyDev s (s.absentAt port r false) := by
  refine ⟨rfl, rfl, ?_, rfl, rfl⟩
  have hw : (s.dev.getAPort port).writes.filter (fun i => !has ((s.dev.getAPort port).setAbsent r false).writes i) = [] := by
    refine List.filter_eq_nil_iff.2 fun i hi => ?_
    rw [show ((s.dev.getAPort port).setAbsent r false).writes = (s.dev.getAPort port).writes from rfl, has_iff.2 hi]
    simp
  show s.mem.drop _ = s.mem
  rw [hw]
  exact congrArg (fun f => { s.mem with flight := f }) (List.filter_eq_self.2 fun _ _ => rfl)

/-- Settles O39: each row by its rule above. -/
theorem linksAndPorts : Obligations.LinksAndPorts := by
  unfold Obligations.LinksAndPorts
  intro s l port r x p now
  refine ⟨fun ok hn hf => ?replay, fun bad hn hf => ?retrained, fun hf hn => ?failed, fun b hb hr => ?request, fun b hb => ?otherPort,
    fun q b age hh hg hc hq => ?grant, ?absent, ?present⟩
  case replay =>
    have he : exec (.linkReplay l ok) s = .next (s.onDev fun d => (d.modLink l.val fun x => x.replay ok now).count 5 1) :=
      congrArg Host.Outcome.next (if_neg (by simp [x, hn, hf]) : _ = _)
    refine ⟨_, he, onlyDev_onDev _ _, ?_⟩
    rw [State.onDev_dev, Dev.getLink_count, Dev.getLink_modLink_self]
    refine ⟨rfl, ?_, ?_, hf⟩
    · rintro rfl h7
      simp [Link.replay, x, h7]
    · intro h255
      simp [Link.replay, x] at h255 ⊢
      omega
  case retrained =>
    obtain ⟨hm, hp, hx⟩ := State.retrained_spec hn hf bad
    refine ⟨_, rfl, hm, hp, ?_⟩
    rw [hx]
    exact ⟨rfl, rfl, rfl, fun m h => Link.retrain_half h, fun m n h hl => Link.retrain_half_of_lanes h hl⟩
  case failed => exact ⟨_, rfl, State.linkFails_spec hn hf⟩
  case request =>
    have he : exec (.portRequest port r b) s = .next (s.onDev fun d => (d.park port r b now).1) :=
      congrArg Host.Outcome.next (if_pos hb : _ = _)
    obtain ⟨hgrant, hother, hown⟩ := Dev.park_present (d := s.dev) hr b now
    refine ⟨_, he, onlyDev_onDev _ _, hgrant, hother, fun h16 => ?_, fun h16 => ?_⟩
    · exact hown.trans (if_neg (Nat.not_lt.2 h16))
    · refine hown.trans ((if_pos h16).trans ?_)
      simp [enqueue, QBurst.alarm, p]
  case otherPort => exact congrArg Host.Outcome.next (if_neg hb : _ = _)
  case grant =>
    obtain ⟨seen, hport⟩ := Dev.arbitrate_free hh hg hc
    obtain ⟨hgrant, hqueues, hptrs⟩ := APort.take_head (x := { p with grant := none, sent := 0 }) hq port age
    refine ⟨_, rfl, onlyDev_onDev _ _, ?_⟩
    rw [State.onDev_dev, hport]
    refine ⟨hgrant, ?_, ?_, APort.choose_highest hc⟩
    · exact (congrArg (fun m => Map.get m q []) hqueues).trans (Map.get_put_self _ _ _ _)
    · exact (congrArg (fun m => Map.get m b.cls 0) hptrs).trans (Map.get_put_self _ _ _ _)
  case absent =>
    refine ⟨_, rfl, rfl, rfl, rfl, ?_⟩
    rw [State.absentAt_port]
    refine ⟨has_addOnce _ _, ?_, APort.setAbsent_grant p r, fun k hk => ?_, fun w hw => List.mem_of_mem_filter hw,
      fun b hb i hi hgone w hw => State.absentAt_drops (APort.mem_writes hb hi) hgone hw⟩
    · show (Map.find (Map.del p.queues r) r).getD [] = []
      rw [Map.find_del, if_pos rfl]
      rfl
    · show (Map.find (Map.del p.queues r) k).getD [] = (Map.find p.queues k).getD []
      rw [Map.find_del, if_neg hk.symm]
  case present =>
    refine ⟨_, rfl, State.absentAt_false s port r, ?_⟩
    rw [State.absentAt_port]
    exact ⟨has_filter_ne _ _, rfl, rfl⟩

end Sys2Proof.Machine
end

section
/-!
PROOFS. Dormancy, hart timers and the halving of usage (R330, R368, R420 to R422): O50.
-/

namespace Sys2Proof.Machine

/-! ### Server-core lines are written back (R236, R421). -/

/-- A state after dirty lines of server cores were written back: memory, the cores' caches and the stripe buffers may differ, and every byte reads
as before. -/
structure State.WrittenBack (s t : State) : Prop where
  pow : t.pow = s.pow
  mgmt : t.mgmt = s.mgmt
  dev : ∃ cores stripes, t.dev = { s.dev with cores := cores, stripes := stripes }
  byte : ∀ a, t.byte a = s.byte a

theorem State.WrittenBack.refl (s : State) : s.WrittenBack s := ⟨rfl, rfl, ⟨_, _, rfl⟩, fun _ => rfl⟩

theorem State.WrittenBack.trans {s t u : State} (h : s.WrittenBack t) (k : t.WrittenBack u) : s.WrittenBack u where
  pow := k.pow.trans h.pow
  mgmt := k.mgmt.trans h.mgmt
  dev := by
    obtain ⟨c, p, hd⟩ := h.dev
    obtain ⟨c', p', kd⟩ := k.dev
    exact ⟨c', p', by rw [kd, hd]⟩
  byte a := (k.byte a).trans (h.byte a)

/-- What does not look at the cores and the stripe buffers is as before. -/
theorem State.WrittenBack.view {β : Type} {s t : State} (h : s.WrittenBack t) (g : Dev → β)
    (hg : ∀ d cores stripes, g { d with cores := cores, stripes := stripes } = g d) : g t.dev = g s.dev := by
  obtain ⟨c, p, hd⟩ := h.dev
  rw [hd, hg]

theorem State.writtenBack_cleanLine (s : State) (line : Nat) : s.WrittenBack (s.cleanLine line) := by
  cases h : s.dev.dirtyCopy line with
  | none =>
    rw [State.cleanLine_of_clean h]
    exact .refl s
  | some bs =>
    refine ⟨(s.moved_cleanLine line).pow, (s.moved_cleanLine line).mgmt, ?_, s.byte_cleanLine line⟩
    obtain ⟨x, hx⟩ := Dev.gather_stripes { s.dev with cores := s.dev.cores.map fun y => (y.1, y.2.wroteBack line) } line
    rw [State.cleanLine_of_dirty h]
    exact ⟨_, _, hx⟩

/-- Lines written back one after the other are no longer dirty, and no other line becomes dirty. -/
theorem State.find_cleanLines (l : List Nat) {c : Nat} (hc : c < 96) (line : Nat) : ∀ s : State,
    Map.find ((l.foldl State.cleanLine s).dev.getCore c).dirty line = if line ∈ l then none else Map.find (s.dev.getCore c).dirty line := by
  induction l with
  | nil => exact fun _ => rfl
  | cons a l ih =>
    intro s
    rw [List.foldl_cons, ih, State.find_cleanLine s hc]
    by_cases ha : a = line
    · subst ha
      rw [if_pos rfl, ite_self, if_pos List.mem_cons_self]
    · rw [if_neg ha]
      exact if_congr (by simp [Ne.symm ha]) rfl rfl

/-- The lines that some server core holds dirty. -/
def Dev.dirtyLines (d : Dev) : List Nat := d.cores.flatMap fun c => c.2.dirty.map fun l => l.1

theorem Dev.mem_dirtyLines {d : Dev} {c line : Nat} {bs : Bytes} (h : Map.find (d.getCore c).dirty line = some bs) : line ∈ d.dirtyLines := by
  cases hc : Map.find d.cores c with
  | none =>
    rw [Dev.getCore, Map.get, hc] at h
    cases h
  | some x =>
    rw [Dev.getCore, Map.get, hc] at h
    exact List.mem_flatMap.2 ⟨(c, x), Map.mem_of_find hc, List.mem_map.2 ⟨(line, bs), Map.mem_of_find h, rfl⟩⟩

theorem State.writeBackCores_eq (s : State) : s.writeBackCores = (s.dev.dirtyLines.foldl State.cleanLine s).onDev fun d =>
    { d with cores := d.cores.map fun c => (c.1, { c.2 with clean := [] }) } := rfl

theorem State.writtenBack_writeBackCores (s : State) : s.WrittenBack s.writeBackCores := by
  rw [State.writeBackCores_eq]
  refine (foldl_keep (fun t => s.WrittenBack t) _ (fun t line h => h.trans (t.writtenBack_cleanLine line)) _ s (.refl s)).trans
    ⟨rfl, rfl, ⟨_, _, rfl⟩, fun a => State.byte_onDev fun k => ?_⟩
  rw [Dev.getCore_map _ (f := fun x => { x with clean := [] }) rfl]

/-- No server core holds a dirty line any more. -/
theorem State.writeBackCores_dirtyCopy (s : State) (line : Nat) : s.writeBackCores.dev.dirtyCopy line = none := by
  rw [State.writeBackCores_eq]
  refine List.findSome?_eq_none_iff.2 fun c hc => ?_
  rw [State.onDev_dev, Dev.getCore_map _ (f := fun x => { x with clean := [] }) rfl, State.find_cleanLines _ (List.mem_range.1 hc)]
  split
  · rfl
  · rename_i hline
    cases hf : Map.find (s.dev.getCore c).dirty line with
    | none => rfl
    | some bs => exact absurd (Dev.mem_dirtyLines hf) hline

/-! ### Entry and wake (R420 to R422). -/

/-- The device as it sleeps: Jormon takes no messages, and the network ports are down. -/
def State.asleep (s : State) : State :=
  (s.onDev fun d => { d with ready := false, eports := d.eports.map fun p => (p.1, p.2.down) }).onPow fun w => { w with dormant := true }

theorem State.dormantEntry_enters {s : State} (hq : s.quiet = true) (hon : s.mgmt.dormantOn = true) (hi : s.mgmt.dormantIdle ≤ s.pow.dormantRun) :
    s.dormantEntry = s.writeBackCores.asleep := if_pos ⟨hq, hon, hi⟩

/-- What a wake of a dormant device leaves: Jormon takes messages again, and but for status interrupts nothing else changes. -/
theorem State.awake_of_dormant {s : State} (h : s.pow.dormant = true) :
    s.awake = s.withStatus fun s => (s.onPow fun w => { w with dormant := false, dormantRun := 0 }).onDev fun d => { d with ready := true } := if_pos h

theorem State.awake_mem (s : State) : s.awake.mem = s.mem := by
  unfold State.awake
  split <;> rfl

theorem State.awake_dormant (s : State) : s.awake.pow.dormant = false := by
  unfold State.awake
  split
  · rfl
  · rename_i h
    exact Bool.eq_false_iff.2 h

theorem State.awake_getCore (s : State) (c : Nat) : s.awake.dev.getCore c = s.dev.getCore c := by
  unfold State.awake State.withStatus
  split
  · rw [State.notify_view (fun d => d.getCore c) fun _ _ => rfl]
    rfl
  · rfl

/-! ### Hart timers (R330). -/

/-- A core whose timer interrupt is due. -/
def Core.timed (x : Core) : Core := { x with timer := true, wrs := false, hart := if x.hart = .suspended then .running else x.hart }

@[simp] theorem Core.timed_sb (x : Core) : x.timed.sb = x.sb := rfl
@[simp] theorem Core.timed_timer (x : Core) : x.timed.timer = true := rfl

theorem exec_hartTimerInterrupt_early {s : State} {c : Fin 96}
    (h : ¬ (s.dev.getCore c.val).csrs.stimecmp.toNat ≤ s.timeCsr (c.val / 48)) : exec (.hartTimerInterrupt c) s = .next s :=
  congrArg Host.Outcome.next (if_pos (Nat.lt_of_not_le h) : _ = _)

theorem exec_hartTimerInterrupt_suspended {s : State} {c : Fin 96} (h : (s.dev.getCore c.val).csrs.stimecmp.toNat ≤ s.timeCsr (c.val / 48))
    (hh : (s.dev.getCore c.val).hart = .suspended) :
    exec (.hartTimerInterrupt c) s = .next (s.awake.onDev fun d => d.modCore c.val Core.timed) := by
  show execHartTimerInterrupt c s = _
  simp only [execHartTimerInterrupt, if_neg (Nat.not_lt.2 h), hh, if_true, reduceCtorEq, if_false]
  rfl

theorem exec_hartTimerInterrupt_running {s : State} {c : Fin 96} (h : (s.dev.getCore c.val).csrs.stimecmp.toNat ≤ s.timeCsr (c.val / 48))
    (hh : (s.dev.getCore c.val).hart = .running) :
    exec (.hartTimerInterrupt c) s = .next ((s.drain c.val).onDev fun d => d.modCore c.val Core.timed) := by
  show execHartTimerInterrupt c s = _
  simp only [execHartTimerInterrupt, if_neg (Nat.not_lt.2 h), hh, if_true, reduceCtorEq, if_false]
  rfl

/-! ### Usage (R368). -/

theorem exec_usageHalving_early {s : State} (h : s.time.fabric < s.dev.halvedAt + 2 ^ 24) : exec .usageHalving s = .next s :=
  congrArg Host.Outcome.next (if_neg (Nat.not_le.2 h) : _ = _)

theorem exec_usageHalving_due {s : State} (h : s.dev.halvedAt + 2 ^ 24 ≤ s.time.fabric) :
    exec .usageHalving s = .next (s.onDev fun d =>
      { d with halvedAt := d.halvedAt + 2 ^ 24, ctxs := d.ctxs.map fun c => (c.1, { c.2 with usage := c.2.usage / 2 }) }) :=
  congrArg Host.Outcome.next (if_pos h : _ = _)

/-- Settles O50: each row by its rule above. -/
theorem dormancy : Obligations.Dormancy := by
  unfold Obligations.Dormancy
  intro s
  refine ⟨fun hq hon hi => ?entry, fun cause hd hw => ?wake, fun c => ⟨exec_hartTimerInterrupt_early, fun hdue hh => ?suspended,
    fun hdue hh hsb hst => ?running⟩, exec_usageHalving_early, fun hdue => ?halving⟩
  case entry =>
    have hback := s.writtenBack_writeBackCores
    have he : exec .dormantEntry s = .next s.writeBackCores.asleep := congrArg Host.Outcome.next (State.dormantEntry_enters hq hon hi)
    exact ⟨_, he, congrArg (fun w : Pow => { w with dormant := true }) hback.pow, hback.mgmt, rfl, hback.view Dev.ctxs fun _ _ _ => rfl,
      hback.view Dev.gates fun _ _ _ => rfl, hback.view Dev.partns fun _ _ _ => rfl, hback.view Dev.eng fun _ _ _ => rfl,
      hback.view Dev.atts fun _ _ _ => rfl, hback.byte, s.writeBackCores_dirtyCopy⟩
  case wake =>
    have he : exec (.dormantWake cause) s = .next s.awake := congrArg Host.Outcome.next (if_pos hw : _ = _)
    rw [State.awake_of_dormant hd] at he
    refine ⟨_, he, rfl, State.notify_ready _ _, rfl, rfl, State.notify_view Dev.ctxs (fun _ _ => rfl) _ _,
      State.notify_view Dev.gates (fun _ _ => rfl) _ _⟩
  case suspended =>
    refine ⟨_, exec_hartTimerInterrupt_suspended hdue hh, s.awake_dormant, s.awake_mem, ?_⟩
    rw [State.onDev_dev, Dev.getCore_modCore_self, State.awake_getCore, Core.timed, if_pos hh]
  case running =>
    refine ⟨_, exec_hartTimerInterrupt_running hdue hh, ?_⟩
    rw [State.onDev_dev, Dev.getCore_modCore_self]
    exact ⟨(Core.timed_sb _).trans (State.drain_all hsb hst).1, Core.timed_timer _, s.drain_pow c.val, s.drain_mgmt c.val⟩
  case halving =>
    refine ⟨_, exec_usageHalving_due hdue, onlyDev_onDev _ _, rfl, fun n => ?_⟩
    exact Map.find_map (fun _ c => { c with usage := c.usage / 2 }) s.dev.ctxs n

end Sys2Proof.Machine
end

section
/-!
PROOFS. Power states of engines and terraces (R418, R419): O49.
-/

namespace Sys2Proof.Machine

theorem eIdx_div (e : EngId) : eIdx e / 5 = e.t.val := by
  have := e.e.isLt
  unfold eIdx
  omega

/-! ### Engines (R418, R419). -/

theorem Dev.clockGate_idle {d : Dev} {e : Nat} (hr : (d.getEng e).power = .running) (hi : d.engIdle e = true) (ht : 64 ≤ (d.getEng e).idleArr) :
    d.clockGate e = d.modEng e fun x => { x with power := .clockGated, idleArr := 0 } := if_pos ⟨hr, hi, ht⟩

/-- The clusters of an engine lose what they held. -/
def Dev.clearClusters (d : Dev) (e : Nat) : Dev := (List.range 20).foldl (fun d k => d.setCl (20 * e + k) {}) d

theorem Dev.powerGate_idle {d : Dev} {e : Nat} (hg : (d.getEng e).power = .clockGated) (hi : d.engIdle e = true) (hq : (d.getEng e).queue = [])
    (ht : 2 ^ 16 ≤ (d.getEng e).idleArr) : d.powerGate e = (d.modEng e Engine.unpowered).clearClusters e :=
  if_pos ⟨hg, hi, by rw [hq]; rfl, ht⟩

theorem Dev.getCl_setCls (n b : Nat) (d : Dev) (j : Nat) : ((List.range n).foldl (fun d k => d.setCl (b + k) {}) d).getCl j =
    if b ≤ j ∧ j < b + n then {} else d.getCl j := by
  induction n with
  | zero => exact (if_neg (by omega)).symm
  | succ n ih =>
    rw [List.range_succ, List.foldl_append, List.foldl_cons, List.foldl_nil, Dev.setCl, Dev.getCl]
    dsimp only
    rw [Map.get_put]
    by_cases hj : b + n = j
    · rw [if_pos hj, if_pos (by omega)]
    · rw [if_neg hj]
      exact ih.trans (if_congr (by omega) rfl rfl)

theorem Dev.clearClusters_getCl (d : Dev) (e j : Nat) :
    (d.clearClusters e).getCl j = if 20 * e ≤ j ∧ j < 20 * e + 20 then {} else d.getCl j := Dev.getCl_setCls 20 (20 * e) d j

theorem Dev.getEng_setCls (l : List Nat) (b : Nat) (d : Dev) (j : Nat) : (l.foldl (fun d k => d.setCl (b + k) {}) d).getEng j = d.getEng j :=
  foldl_keep (fun y : Dev => y.getEng j = d.getEng j) (fun d k => d.setCl (b + k) {}) (fun _ _ h => h) l d rfl

theorem Dev.clearClusters_getEng (d : Dev) (e j : Nat) : (d.clearClusters e).getEng j = d.getEng j := Dev.getEng_setCls _ _ _ _

/-- A power-gated engine that a part waits for, and no other of its terrace, wakes. -/
theorem State.engineWake_wakes {s : State} {e : Nat} (hready : s.dev.ready = true) (hg : (s.dev.getEng e).power = .powerGated)
    (hiso : (s.dev.getEng e).isolated = none) (hq : (s.dev.getEng e).queue ≠ []) (hpll : (s.dev.getTerr (e / 5)).pllOff = false)
    (hfirst : ∀ w ∈ s.dev.waking (e / 5), w.1 = e) :
    s.engineWake e = (s.onDev fun d => d.modEng e fun x => { x with power := .running, absent := false, idleArr := 0 }).onMgmt fun m =>
      { m with loaderOn := addOnce m.loaderOn e } := by
  unfold State.engineWake
  dsimp only
  rw [if_neg (by simp [hready, hg, hiso, hq, hpll]), if_pos hg, if_pos]
  exact List.all_eq_true.2 fun w hw => by rw [decide_eq_true (hfirst w hw), Bool.true_or]

/-! ### Terraces (R418). -/

/-- Where every logical engine of a terrace is power-gated, so is every physical one. -/
theorem Dev.physPower_gated {d : Dev} {t : Nat} (h : ∀ k, k < 5 → (d.getEng (5 * t + k)).power = .powerGated) (k : Nat) :
    d.physPower t k = .powerGated := by
  unfold Dev.physPower
  split
  · rename_i e he
    exact h e (List.mem_range.1 (List.mem_of_find?_eq_some he))
  · rfl

theorem State.pllOff_gated {s : State} {t : Nat} (h : ∀ k, k < 5 → (s.dev.getEng (5 * t + k)).power = .powerGated)
    (hlong : 2 ^ 24 ≤ (s.dev.getTerr t).allGated ∨ s.mgmt.ptOf t = none) :
    s.pllOff t = s.onDev fun d => d.modTerr t fun x => { x with pllOff := true } :=
  if_pos ⟨List.all_eq_true.2 fun k _ => decide_eq_true (Dev.physPower_gated h k), hlong.imp_right fun hn => by rw [hn]; rfl⟩

theorem Dev.pllWake_wanted {d : Dev} {t : Nat} (hready : d.ready = true) (hoff : (d.getTerr t).pllOff = true)
    (hq : ∃ k, k < 5 ∧ (d.getEng (5 * t + k)).queue ≠ []) : d.pllWake t = d.modTerr t fun x => { x with pllOff := false, allGated := 0 } := by
  obtain ⟨k, hk, hne⟩ := hq
  exact if_pos ⟨hready, hoff, List.any_eq_true.2 ⟨k, List.mem_range.2 hk, by simp [hne]⟩⟩

theorem Dev.getEng_modEng_other (d : Dev) {i j : Nat} (h : j ≠ i) (f : Engine → Engine) : (d.modEng i f).getEng j = d.getEng j := by
  rw [Dev.getEng_modEng, if_neg h.symm]

theorem Dev.getTerr_modTerr_other (d : Dev) {i j : Nat} (h : j ≠ i) (f : Terrace → Terrace) : (d.modTerr i f).getTerr j = d.getTerr j := by
  rw [Dev.getTerr_modTerr, if_neg h.symm]

/-- Settles O49: each row by its rule above. -/
theorem unitPowerStates : Obligations.UnitPowerStates := by
  unfold Obligations.UnitPowerStates
  intro s e t i x y terrOnly
  refine ⟨fun hr hi ht => ?clockGate, fun hg hi hq ht => ?powerGate, fun hready hg hiso hq hpll hfirst => ?wake, fun hg hlong => ?pllOff,
    fun hready hoff hq => ?pllWake⟩
  case clockGate =>
    refine ⟨_, rfl, onlyDev_onDev _ _, ?_⟩
    rw [State.onDev_dev, Dev.clockGate_idle hr hi ht]
    exact ⟨rfl, Dev.getEng_modEng_self _ _ _, fun j hj => Dev.getEng_modEng_other _ hj _⟩
  case powerGate =>
    refine ⟨_, rfl, onlyDev_onDev _ _, ?_⟩
    rw [State.onDev_dev, Dev.powerGate_idle hg hi hq ht]
    simp only [Dev.clearClusters_getEng, Dev.clearClusters_getCl]
    rw [Dev.getEng_modEng_self]
    refine ⟨rfl, rfl, rfl, rfl, rfl, ?_, fun k hk => if_pos (by omega), fun c hc => if_neg (by omega), fun j hj => Dev.getEng_modEng_other _ hj _⟩
    exact if_congr List.isEmpty_iff rfl rfl
  case wake =>
    rw [← eIdx_div] at hpll hfirst
    have he : exec (.engineWake e) s = _ := congrArg Host.Outcome.next (State.engineWake_wakes hready hg hiso hq hpll hfirst)
    exact ⟨_, he, rfl, rfl, rfl, Dev.getEng_modEng_self _ _ _, has_addOnce _ _, fun j hj => Dev.getEng_modEng_other _ hj _⟩
  case pllOff =>
    have he : exec (.terracePllOff t) s = _ := congrArg Host.Outcome.next (State.pllOff_gated hg hlong)
    exact ⟨_, he, ⟨onlyDev_onDev _ _, rfl, fun j hj => Dev.getTerr_modTerr_other _ hj _⟩, Dev.getTerr_modTerr_self _ _ _⟩
  case pllWake =>
    refine ⟨_, rfl, ⟨onlyDev_onDev _ _, ?_⟩, ?_⟩ <;> rw [State.onDev_dev, Dev.pllWake_wanted hready hoff hq]
    · exact ⟨rfl, fun j hj => Dev.getTerr_modTerr_other _ hj _⟩
    · exact Dev.getTerr_modTerr_self _ _ _

end Sys2Proof.Machine
end

section
/-!
PROOFS. The weir: the fast loop, droops, the end of a hold and the slow interval of a cool domain (R427 to R430): O51 and O52.
-/

namespace Sys2Proof.Machine

/-! ### Changes of one domain. -/

theorem Pow.getDom_modDom_other (w : Pow) {d k : Nat} (h : k ≠ d) (f : Domain → Domain) : (w.modDom d f).getDom k = w.getDom k := by
  rw [Pow.getDom_modDom, if_neg h.symm]

/-- The budget of a domain looks at its hold and its throttle alone. -/
theorem Pow.budget_congr {v w : Pow} {d : Nat} (heff : v.effW = w.effW) (hhold : (v.getDom d).hold = (w.getDom d).hold)
    (hcut : (v.getDom d).cut = (w.getDom d).cut) : v.budget d = w.budget d := by
  unfold Pow.budget
  dsimp only
  rw [heff, hhold, hcut]

/-! ### The fast loop (R427). -/

/-- The step that a window's end gives a domain. -/
def Domain.nextStep (x : Domain) (est b : Nat) : Nat :=
  if b < x.scaled est then (if 4 < x.step then x.step - 1 else x.step)
  else if 16 * x.scaled est < 15 * b ∧ x.step < x.top then x.step + 1 else x.step

theorem Pow.fastLoop_eq {w : Pow} (henf : w.spStatus.getLsbD 2 = false) (d est : Nat) :
    (w.fastLoop d est).getDom d = { w.getDom d with step := (w.getDom d).nextStep est (w.budget d) } ∧
      ∀ k, k ≠ d → (w.fastLoop d est).getDom k = w.getDom k := by
  unfold Pow.fastLoop Domain.nextStep
  dsimp only
  rw [if_neg (by rw [henf]; exact Bool.false_ne_true)]
  split
  · exact ⟨Pow.getDom_modDom_self _ _ _, fun k hk => Pow.getDom_modDom_other _ hk _⟩
  · split
    · rename_i hlow
      refine ⟨(Pow.getDom_modDom_self _ _ _).trans ?_, fun k hk => Pow.getDom_modDom_other _ hk _⟩
      simp only [hlow, true_and]
    · rename_i hlow
      rw [if_neg fun h => hlow h.1]
      exact ⟨rfl, fun _ _ => rfl⟩

theorem exec_fastLoop_early {s : State} {d : Fin 14} (h : s.windowEnded d.val = false) (est : Nat) : exec (.fastLoop d est) s = .next s :=
  congrArg Host.Outcome.next (if_neg (by simp [h]) : _ = _)

theorem exec_fastLoop_ended {s : State} {d : Fin 14} (h : s.windowEnded d.val = true) (est : Nat) :
    exec (.fastLoop d est) s = .next ((s.nextWindow d.val).onPow fun w => w.fastLoop d.val est) :=
  congrArg Host.Outcome.next (if_pos h : _ = _)

/-- The next window begins: of a terrace its count of array cycles goes back, of another domain its time goes on; no step or budget changes. -/
theorem State.nextWindow_spec (s : State) (d : Nat) :
    (s.nextWindow d).mem = s.mem ∧ (s.nextWindow d).mgmt = s.mgmt ∧ (s.nextWindow d).dev = { s.dev with terr := (s.nextWindow d).dev.terr } ∧
    (∀ k, (s.nextWindow d).dev.getTerr k =
      if k = d ∧ k < 8 then { s.dev.getTerr k with window := (s.dev.getTerr k).window - 512 } else s.dev.getTerr k) ∧
    (s.nextWindow d).pow.spStatus = s.pow.spStatus ∧ (s.nextWindow d).pow.budget d = s.pow.budget d ∧
    (s.nextWindow d).pow.getDom d = { s.pow.getDom d with fastAt := if d < 8 then (s.pow.getDom d).fastAt else (s.pow.getDom d).fastAt + 2 ^ 12 } ∧
    ∀ k, k ≠ d → (s.nextWindow d).pow.getDom k = s.pow.getDom k := by
  unfold State.nextWindow
  split
  · rename_i hd
    refine ⟨rfl, rfl, rfl, fun k => ?_, rfl, rfl, rfl, fun _ _ => rfl⟩
    rw [State.onDev_dev, Dev.getTerr_modTerr]
    exact if_congr ⟨fun h => ⟨h.symm, h ▸ hd⟩, fun h => h.1.symm⟩ rfl rfl
  · rename_i hd
    refine ⟨rfl, rfl, rfl, fun k => (if_neg fun h : k = d ∧ k < 8 => hd (h.1 ▸ h.2)).symm, rfl, ?_, ?_, fun k hk => Pow.getDom_modDom_other _ hk _⟩
    · refine Pow.budget_congr rfl ?_ ?_ <;> rw [State.onPow_pow, Pow.getDom_modDom_self]
    · rw [State.onPow_pow, Pow.getDom_modDom_self]

theorem Domain.endHold_of_passed {x : Domain} {b : Nat} (h : x.hold = some (0, b)) : x.endHold = { x with hold := none } := by
  simp only [Domain.endHold, h]

/-- Settles O51: each row by its rule above. -/
theorem weirSteps : Obligations.WeirSteps := by
  unfold Obligations.WeirSteps
  intro s d est x b
  refine ⟨fun h => exec_fastLoop_early h est, fun h henf => ?fastLoop, fun t => ?droop, fun k hold hh => ?holdEnd⟩
  case fastLoop =>
    obtain ⟨hmem, hmgmt, hdev, hterr, hsp, hbudget, hdom, hother⟩ := s.nextWindow_spec d.val
    obtain ⟨hstep, hrest⟩ := Pow.fastLoop_eq (w := (s.nextWindow d.val).pow) (by rw [hsp]; exact henf) d.val est
    refine ⟨_, exec_fastLoop_ended h est, hmem, hmgmt, hdev, hterr, fun k hk => (hrest k hk).trans (hother k hk), hstep.trans ?_⟩
    rw [hbudget, hdom]
    rfl
  case droop =>
    exact ⟨_, rfl, rfl, rfl, Dev.getTerr_modTerr_self _ _ _, Pow.getDom_modDom_self _ _ _,
      fun k hk => ⟨Pow.getDom_modDom_other _ hk _, Dev.getTerr_modTerr_other _ hk _⟩⟩
  case holdEnd =>
    refine ⟨_, rfl, ⟨rfl, rfl, rfl, rfl, rfl⟩, ?_, fun j hj => Pow.getDom_modDom_other _ hj _⟩
    rw [State.onPow_pow, Pow.getDom_modDom_self, Domain.endHold_of_passed hh]

/-! ### The slow loop (R428 to R430). -/

/-- A state after a change of one domain: memory, the effective cap and every other domain are as before. -/
structure State.DomStep (d : Nat) (f : Domain → Domain) (s t : State) : Prop where
  mem : t.mem = s.mem
  effW : t.pow.effW = s.pow.effW
  dom : t.pow.getDom d = f (s.pow.getDom d)
  other : ∀ k, k ≠ d → t.pow.getDom k = s.pow.getDom k

theorem State.DomStep.trans {d : Nat} {f g : Domain → Domain} {s t u : State} (h : State.DomStep d f s t) (k : State.DomStep d g t u) :
    State.DomStep d (fun x => g (f x)) s u where
  mem := k.mem.trans h.mem
  effW := k.effW.trans h.effW
  dom := by rw [k.dom, h.dom]
  other j hj := (k.other j hj).trans (h.other j hj)

theorem State.domStep_of_modDom {d : Nat} {f : Domain → Domain} {s t : State} (hm : t.mem = s.mem) (hp : t.pow = s.pow.modDom d f) :
    State.DomStep d f s t where
  mem := hm
  effW := by rw [hp]; rfl
  dom := by rw [hp, Pow.getDom_modDom_self]
  other j hj := by rw [hp, Pow.getDom_modDom_other _ hj]

theorem State.domStep_onPow (s : State) (d : Nat) (f : Domain → Domain) : State.DomStep d f s (s.onPow fun w => w.modDom d f) :=
  State.domStep_of_modDom rfl rfl

theorem State.domStep_id (s : State) (d : Nat) : State.DomStep d id s s := ⟨rfl, rfl, rfl, fun _ _ => rfl⟩

theorem State.DomStep.congr {d : Nat} {f g : Domain → Domain} {s t : State} (h : State.DomStep d f s t)
    (hfg : f (s.pow.getDom d) = g (s.pow.getDom d)) : State.DomStep d g s t := ⟨h.mem, h.effW, h.dom.trans hfg, h.other⟩

/-- A cool die is not throttled, and its next warning is due at its next crossing. -/
theorem State.slowTemps_cool {s : State} {d : Nat} {q : Int} (hd : d < 14) (hv : validTemp q = true) (hq : q < 368)
    (hx : (s.pow.getDom d).thermal = false) : State.DomStep d (fun x => { x with warned := false }) s (s.slowTemps d (some q) none) := by
  have hwarn : State.DomStep d (fun x => { x with warned := false }) s ((s.tempRead (dieSensor d) (some q)).thermalWarn d q) := by
    unfold State.thermalWarn State.tempRead
    dsimp only
    rw [if_pos hv, if_neg (by omega), if_pos hq]
    exact State.domStep_of_modDom rfl rfl
  have hthrottle (x : Domain) (ht : x.thermal = false) (r : Bool) : x.throttle false r = x := by
    simp [Domain.throttle, ht]
  have hhot : (decide ((400 : Int) ≤ q) || memAt none (if d < 8 then 400 else 380)) = false := by
    rw [memAt, Bool.or_false]
    exact decide_eq_false (by omega)
  unfold State.slowTemps
  simp only [dieTemp, hv, if_true, Option.isSome_none, Bool.false_eq_true, and_false, if_false, ite_self, hhot, if_neg (Nat.ne_of_lt hd)]
  refine (hwarn.trans (State.domStep_onPow _ d _)).congr ?_
  exact hthrottle { s.pow.getDom d with warned := false } hx _

/-- A domain whose sensor becomes suspect (R430). -/
def Domain.suspected (x : Domain) : Domain := ({ x with suspect := true, clearRun := 0 } : Domain).endRun

/-- A domain whose budget is held and whose estimate is recalibrated (R429). -/
def Domain.calibrated (k : Nat × Nat) (b : Nat) (x : Domain) : Domain :=
  ({ x with hold := some (16, b), kNum := k.1, kDen := k.2, diverge := min (2 ^ 16 - 1) (x.diverge + 1) } : Domain).endRun

/-- The third interval of a divergence run: the factor is that of the run's sums, unless nothing was estimated in it. -/
theorem State.divergence_spec (s : State) (d : Nat) : ∃ k,
    State.DomStep d (Domain.calibrated k (normalBudget d s.pow.effW * (s.pow.getDom d).runE / (s.pow.getDom d).runM)) s (s.divergence d) ∧
      ((s.pow.getDom d).runE ≠ 0 →
        k = ((s.pow.getDom d).kNum * (s.pow.getDom d).runM, (s.pow.getDom d).kDen * (s.pow.getDom d).runE)) := by
  unfold State.divergence
  dsimp only
  split
  · exact ⟨_, State.domStep_of_modDom rfl rfl, fun h => absurd ‹_› h⟩
  · exact ⟨_, State.domStep_of_modDom rfl rfl, fun _ => rfl⟩

section
variable {s : State} {d m e : Nat} (hx : (s.pow.getDom d).suspect = false)
include hx

theorem State.compare_near (hlow : e ≤ 2 * m) (hhigh : 100 * m ≤ 115 * e) :
    State.DomStep d Domain.endRun s (s.compare d m e) := by
  have hdiv : diverges m e = false := decide_eq_false (Nat.not_lt.2 hhigh)
  unfold State.compare
  simp only [hx, Bool.false_eq_true, if_false, if_neg (Nat.not_lt.2 hlow), hdiv]
  exact s.domStep_onPow d _

theorem State.compare_suspect (hlow : 2 * m < e) :
    State.DomStep d Domain.suspected s (s.compare d m e) ∧ (s.compare d m e).mgmt.service.getLsbD 3 = true := by
  unfold State.compare
  simp only [hx, Bool.false_eq_true, if_false, if_pos hlow]
  exact ⟨State.domStep_of_modDom (State.needsService_mem _ _) (State.needsService_pow _ _), State.needsService_service _ (by decide)⟩

theorem State.compare_diverges (hhigh : 115 * e < 100 * m) : s.compare d m e =
    if (s.pow.getDom d).runLen = 2 then (s.onPow fun w => w.modDom d fun x => x.extend m e).divergence d
    else s.onPow fun w => w.modDom d fun x => x.extend m e := by
  have hdiv : diverges m e = true := decide_eq_true hhigh
  unfold State.compare
  simp only [hx, Bool.false_eq_true, if_false, if_neg (show ¬ 2 * m < e by omega), hdiv, if_true, State.onPow_pow, Pow.getDom_modDom_self]
  exact if_congr (by simp [Domain.extend]) rfl rfl

/-- The third interval of a divergence run in which something was estimated holds the budget and recalibrates the estimate. -/
theorem State.compare_calibrates (hhigh : 115 * e < 100 * m) (hlen : (s.pow.getDom d).runLen = 2) (hsum : (s.pow.getDom d).runE + e ≠ 0) :
    (s.compare d m e).pow.getDom d = ((s.pow.getDom d).extend m e).calibrated
      ((s.pow.getDom d).kNum * ((s.pow.getDom d).runM + m), (s.pow.getDom d).kDen * ((s.pow.getDom d).runE + e))
      (normalBudget d s.pow.effW * ((s.pow.getDom d).runE + e) / ((s.pow.getDom d).runM + m)) := by
  obtain ⟨k, hk, hfactor⟩ := (s.onPow fun w => w.modDom d fun y => y.extend m e).divergence_spec d
  have hext : (s.onPow fun w => w.modDom d fun y => y.extend m e).pow.getDom d = (s.pow.getDom d).extend m e := Pow.getDom_modDom_self _ _ _
  have hdom := hk.dom
  rw [hext] at hfactor hdom
  rw [hfactor hsum] at hdom
  rw [State.compare_diverges hx hhigh, if_pos hlen, hdom]
  rfl

/-- Whatever the comparison finds, it changes no measurement. -/
theorem State.compare_keeps_readings :
    ∃ f, State.DomStep d f s (s.compare d m e) ∧ ∀ x, (f x).meas = x.meas ∧ (f x).est = x.est := by
  by_cases hlow : 2 * m < e
  · exact ⟨_, (State.compare_suspect hx hlow).1, fun _ => ⟨rfl, rfl⟩⟩
  · by_cases hhigh : 115 * e < 100 * m
    · rw [State.compare_diverges hx hhigh]
      have hext := s.domStep_onPow d fun x => x.extend m e
      split
      · obtain ⟨k, hk, _⟩ := State.divergence_spec (s.onPow fun w => w.modDom d fun x => x.extend m e) d
        exact ⟨_, hext.trans hk, fun _ => ⟨rfl, rfl⟩⟩
      · exact ⟨_, hext, fun _ => ⟨rfl, rfl⟩⟩
    · exact ⟨_, State.compare_near hx (Nat.not_lt.1 hlow) (Nat.not_lt.1 hhigh), fun _ => ⟨rfl, rfl⟩⟩

end

/-- The end of a slow interval: the top step of R428, an interval less of a hold that did not begin in it, what R432 notes, and the power sensors. -/
def State.settleInterval (s : State) (was : Domain) (d measured e : Nat) : State :=
  let began : Bool := (s.pow.getDom d).diverge ≠ was.diverge || (s.pow.getDom d).hold ≠ was.hold
  let suspect : Bool := was.suspect || (s.pow.getDom d).suspect
  let s := if d = 14 then s else
    s.onPow fun w => w.modDom d fun x => x.holdTo d (w.budget d) measured e suspect (w.spStatus.getLsbD 2)
  let s := if began then s else s.onPow fun w => w.modDom d Domain.tickHold
  let s := s.onPow fun w => w.markShort d (if suspect then e else max measured e)
  s.powerSensors d measured e

/-- A slow interval: the budgets of R424 and the end of a hold, the temperatures, the comparison of R429 and R430, and its end. -/
theorem State.slowLoop_eq (s : State) (d m estimate : Nat) (dieQ memQ : Option Int) : s.slowLoop d m estimate dieQ memQ =
    (let t := (s.onPow fun w => { w with effW := min w.capW w.ceilingNow }.modDom d Domain.endHold).slowTemps d dieQ memQ
     let was := t.pow.getDom d
     let e := was.scaled estimate
     ((t.onPow fun w => w.modDom d fun x => { x with meas := m, est := e }).compare d m e).settleInterval was d m e) := rfl

/-- What the end of an interval leaves of a domain: its top step by R428, its hold where that began in the interval, and the rest of what the
comparison left. -/
structure Domain.Settled (was x y : Domain) (budget m e : Nat) : Prop where
  meas : y.meas = x.meas
  est : y.est = x.est
  runLen : y.runLen = x.runLen
  suspect : y.suspect = x.suspect
  kNum : y.kNum = x.kNum
  kDen : y.kDen = x.kDen
  diverge : y.diverge = x.diverge
  hold : x.diverge ≠ was.diverge → y.hold = x.hold
  top : was.suspect = false → x.suspect = false → y.top =
    if budget < max m e then max 4 (x.top - 1) else if 16 * max m e < 15 * budget then min 16 (x.top + 1) else x.top

theorem Domain.settled_holdTo (was x : Domain) (d budget m e : Nat) (enforcing began short : Bool)
    (hbegan : x.diverge ≠ was.diverge → began = true) :
    let y := x.holdTo d budget m e (was.suspect || x.suspect) enforcing
    was.Settled x { (if began then y else y.tickHold) with short := short } budget m e := by
  intro y
  have htick : y.tickHold = { y with hold := y.tickHold.hold } := by
    unfold Domain.tickHold
    split <;> rfl
  have hy : (if began then y else y.tickHold) = { y with hold := if began then y.hold else y.tickHold.hold } := by
    split
    · rfl
    · exact htick
  rw [hy]
  refine ⟨rfl, rfl, rfl, rfl, rfl, rfl, rfl, fun hd => ?_, fun hw hx => ?_⟩
  · exact if_pos (hbegan hd)
  · have hp : (if (was.suspect || x.suspect) = true then e else max m e) = max m e := by simp [hw, hx]
    show (if budget < (if (was.suspect || x.suspect) = true then e else max m e) then _ else _) = _
    rw [hp]

theorem Pow.markShort_eq (w : Pow) (d p : Nat) :
    ∃ f : Domain → Domain, w.markShort d p = w.modDom d f ∧ ∀ x, ∃ short, f x = { x with short := short } := by
  unfold Pow.markShort
  exact ⟨_, rfl, fun _ => ⟨_, rfl⟩⟩

theorem State.markShort_spec (s : State) (d m e p : Nat) :
    ((s.onPow fun w => w.markShort d p).powerSensors d m e).mgmt.service = s.mgmt.service ∧
      ∃ f, State.DomStep d f s ((s.onPow fun w => w.markShort d p).powerSensors d m e) ∧ ∀ x, ∃ short, f x = { x with short := short } := by
  obtain ⟨f, hf, hshort⟩ := s.pow.markShort_eq d p
  exact ⟨rfl, f, State.domStep_of_modDom rfl hf, hshort⟩

theorem State.settleInterval_spec (s : State) (was : Domain) {d : Nat} (hd : d < 14) (m e : Nat) :
    ∃ f, State.DomStep d f s (s.settleInterval was d m e) ∧ (s.settleInterval was d m e).mgmt.service = s.mgmt.service ∧
      was.Settled (s.pow.getDom d) (f (s.pow.getDom d)) (s.pow.budget d) m e := by
  let began : Bool := (s.pow.getDom d).diverge ≠ was.diverge || (s.pow.getDom d).hold ≠ was.hold
  have htick (t : State) : State.DomStep d (fun x => if began then x else x.tickHold) t
      (if began then t else t.onPow fun w => w.modDom d Domain.tickHold) ∧
      (if began then t else t.onPow fun w => w.modDom d Domain.tickHold).mgmt = t.mgmt := by
    cases began
    · exact ⟨t.domStep_onPow d _, rfl⟩
    · exact ⟨t.domStep_id d, rfl⟩
  unfold State.settleInterval
  dsimp only
  rw [if_neg (Nat.ne_of_lt hd)]
  have hheld := s.domStep_onPow d fun x =>
    x.holdTo d (s.pow.budget d) m e (was.suspect || (s.pow.getDom d).suspect) (s.pow.spStatus.getLsbD 2)
  obtain ⟨hticked, hmgmt⟩ := htick (s.onPow fun w => w.modDom d fun x =>
    x.holdTo d (w.budget d) m e (was.suspect || (s.pow.getDom d).suspect) (w.spStatus.getLsbD 2))
  obtain ⟨hservice, f, hmarked, hf⟩ := State.markShort_spec _ d m e (if (was.suspect || (s.pow.getDom d).suspect) = true then e else max m e)
  refine ⟨_, (hheld.trans hticked).trans hmarked, hservice.trans (congrArg Mgmt.service hmgmt), ?_⟩
  obtain ⟨short, hshort⟩ := hf _
  rw [hshort]
  exact Domain.settled_holdTo was _ d _ m e _ began short fun h => by simp [began, h]

/-- A domain whose slow interval began at a time. -/
def Domain.since (n : Nat) (x : Domain) : Domain := { x with slowAt := n }

/-- A cool domain as a slow interval's comparison finds it. -/
def Domain.measured (m e : Nat) (x : Domain) : Domain := { x with warned := false, meas := m, est := e }

theorem Domain.endHold_since (x : Domain) (n : Nat) : (x.since n).endHold = x.endHold.since n := by
  unfold Domain.endHold Domain.since
  dsimp only
  split <;> rfl

/-- The interval of a domain begins: its time goes on, the cap and the ceiling take effect, and a hold that has passed ends. -/
def State.beginInterval (s : State) (d : Nat) : State :=
  (s.onPow fun w => w.modDom d fun x => { x with slowAt := x.slowAt + 200 }).onPow fun w =>
    { w with effW := min w.capW w.ceilingNow }.modDom d Domain.endHold

theorem State.beginInterval_getDom (s : State) (d : Nat) :
    (s.beginInterval d).pow.getDom d = (s.pow.getDom d).endHold.since ((s.pow.getDom d).slowAt + 200) := by
  have hsince : (s.pow.modDom d fun x => { x with slowAt := x.slowAt + 200 }).getDom d = (s.pow.getDom d).since ((s.pow.getDom d).slowAt + 200) :=
    Pow.getDom_modDom_self _ _ _
  rw [← Domain.endHold_since, ← hsince]
  exact Pow.getDom_modDom_self _ _ _

theorem State.beginInterval_other (s : State) {d k : Nat} (h : k ≠ d) : (s.beginInterval d).pow.getDom k = s.pow.getDom k := by
  have hsince : (s.pow.modDom d fun x => { x with slowAt := x.slowAt + 200 }).getDom k = s.pow.getDom k := Pow.getDom_modDom_other _ h _
  rw [← hsince]
  exact Pow.getDom_modDom_other _ h _

/-- The slow interval of a cool domain: it begins, the comparison of R429 and R430 is made, and it ends. -/
theorem State.slowLoop_cool {s : State} {d : Nat} {q : Int} (hd : d < 14) (hv : validTemp q = true) (hq : q < 368)
    (hx : (s.pow.getDom d).endHold.thermal = false) (m estimate : Nat) :
    ∃ (u : State) (was : Domain), State.DomStep d (Domain.measured m ((s.pow.getDom d).endHold.scaled estimate)) (s.beginInterval d) u ∧
      was.suspect = (s.pow.getDom d).endHold.suspect ∧ was.diverge = (s.pow.getDom d).endHold.diverge ∧
      (s.onPow fun w => w.modDom d fun x => { x with slowAt := x.slowAt + 200 }).slowLoop d m estimate (some q) none =
        (u.compare d m ((s.pow.getDom d).endHold.scaled estimate)).settleInterval was d m ((s.pow.getDom d).endHold.scaled estimate) := by
  have htemps := State.slowTemps_cool (s := s.beginInterval d) hd hv hq (by rw [State.beginInterval_getDom]; exact hx)
  have hwas := htemps.dom
  rw [State.beginInterval_getDom] at hwas
  have hscaled : (((s.beginInterval d).slowTemps d (some q) none).pow.getDom d).scaled estimate = (s.pow.getDom d).endHold.scaled estimate := by
    rw [hwas]
    rfl
  refine ⟨_, ((s.beginInterval d).slowTemps d (some q) none).pow.getDom d, (htemps.trans (State.domStep_onPow _ d fun x =>
    { x with meas := m, est := (s.pow.getDom d).endHold.scaled estimate })).congr rfl, by rw [hwas]; rfl,
    by rw [hwas]; rfl, ?_⟩
  rw [State.slowLoop_eq]
  dsimp only
  rw [← State.beginInterval, hscaled]

theorem exec_slowLoop_early {s : State} {d : Fin 15} (h : s.kettle < (s.pow.getDom d.val).slowAt + 200) (m estimate : Nat) (a b : Option Int) :
    exec (.slowLoop d m estimate a b) s = .next s := congrArg Host.Outcome.next (if_neg (Nat.not_le.2 h) : _ = _)

theorem exec_slowLoop_due {s : State} {d : Fin 15} (h : (s.pow.getDom d.val).slowAt + 200 ≤ s.kettle) (m estimate : Nat) (a b : Option Int) :
    exec (.slowLoop d m estimate a b) s =
      .next ((s.onPow fun w => w.modDom d.val fun x => { x with slowAt := x.slowAt + 200 }).slowLoop d.val m estimate a b) :=
  congrArg Host.Outcome.next (if_pos h : _ = _)

/-- Settles O52: the interval begins, then the comparison by its rule above, then the interval ends. -/
theorem slowInterval : Obligations.SlowInterval := by
  unfold Obligations.SlowInterval
  intro s d m estimate q hd x w e
  refine ⟨fun h => exec_slowLoop_early h _ _ _ _, fun h hv hq hcool hsure => ?_⟩
  obtain ⟨u, was, hu, hws, hwd, heq⟩ := State.slowLoop_cool hd hv hq hcool m estimate
  have hdom : u.pow.getDom d.val = Domain.measured m e (x.since ((s.pow.getDom d.val).slowAt + 200)) :=
    hu.dom.trans (by rw [State.beginInterval_getDom])
  have heff : u.pow.effW = w.effW := hu.effW
  have hsu : (u.pow.getDom d.val).suspect = false := by rw [hdom]; exact hsure
  obtain ⟨f, hcmp, hreads⟩ := State.compare_keeps_readings (m := m) (e := e) hsu
  obtain ⟨g, hend, hservice, hset⟩ := (u.compare d.val m e).settleInterval_spec was hd m e
  have hlast := hend.dom
  rw [← hlast] at hset
  refine ⟨_, (exec_slowLoop_due h _ _ _ _).trans (congrArg _ heq), (hend.mem.trans hcmp.mem).trans hu.mem,
    (hend.effW.trans hcmp.effW).trans heff, ?meas, ?est, fun k hk => ?other, fun hlow hhigh => ?near, fun hhigh hlen hsum hdiv => ?diverges,
    fun hlow => ?suspect⟩
  case meas => rw [hset.meas, hcmp.dom, (hreads _).1, hdom]; rfl
  case est => rw [hset.est, hcmp.dom, (hreads _).2, hdom]; rfl
  case other => rw [hend.other k hk, hcmp.other k hk, hu.other k hk, State.beginInterval_other _ hk]
  case near =>
    have hnear := State.compare_near hsu hlow hhigh
    have hbudget : (u.compare d.val m e).pow.budget d.val = w.budget d.val := by
      refine Pow.budget_congr (hnear.effW.trans heff) ?_ ?_ <;> rw [hnear.dom, hdom, Pow.getDom_modDom_self] <;> rfl
    rw [hset.runLen, hset.suspect, hset.kNum, hset.kDen, hset.top (hws.trans hsure) (by rw [hnear.dom]; exact hsu), hbudget, hnear.dom, hdom]
    exact ⟨rfl, hsure, rfl, rfl, rfl⟩
  case diverges =>
    have hlen' : (u.pow.getDom d.val).runLen = 2 := by rw [hdom]; exact hlen
    have hcal := State.compare_calibrates hsu hhigh hlen' (by rw [hdom]; exact hsum)
    rw [hdom, heff] at hcal
    have hbegan : ((u.compare d.val m e).pow.getDom d.val).diverge = x.diverge + 1 := by
      rw [hcal]
      exact Nat.min_eq_right hdiv
    rw [hset.runLen, hset.kNum, hset.kDen, hset.diverge, hset.hold (by rw [hbegan, hwd]; exact Nat.succ_ne_self _), hbegan, hcal]
    exact ⟨rfl, rfl, rfl, rfl, rfl⟩
  case suspect =>
    have ⟨hsus, hbit⟩ := State.compare_suspect hsu hlow
    rw [hset.suspect, hset.runLen, hsus.dom, hservice]
    exact ⟨rfl, rfl, hbit⟩

end Sys2Proof.Machine
end

section
/-!
PROOFS. The stops of the safety partition and the input ceiling (R424, R435, R437, R438, R481, R482): O53 and O54.
-/

namespace Sys2Proof.Machine

/-! ### Bits of SP_STATUS. -/

theorem getLsbD_foldl_or {w : Nat} (l : List Nat) (x : BitVec w) {n : Nat} (hn : n < w) :
    (l.foldl (fun x k => x ||| BitVec.ofNat w (2 ^ k)) x).getLsbD n = (x.getLsbD n || has l n) := by
  induction l generalizing x with
  | nil => simp [has]
  | cons k l ih =>
    rw [List.foldl_cons, ih, BitVec.getLsbD_or, getLsbD_ofNat_two_pow hn, Bool.or_assoc]
    rfl

theorem Pow.setSp_bit (w : Pow) (l : List Nat) {n : Nat} (hn : n < 9) : (w.setSp l).spStatus.getLsbD n = (w.spStatus.getLsbD n || has l n) :=
  getLsbD_foldl_or l w.spStatus hn

/-! ### Stops (R437, R438, R482). -/

/-- A state in which the device has stopped for a cause: bit n of SP_STATUS names it, and power removal is requested. -/
def State.StopsAs (s u : State) (cause n : Nat) (thermal : Bool) : Prop :=
  u.pow.clocksOff = true ∧ u.pow.stage = .stopped ∧ u.pow.tripCause = cause ∧ u.pow.spStatus.getLsbD 8 = true ∧
    u.pow.spStatus.getLsbD n = true ∧ (thermal = true → u.pow.thermtrip = true) ∧ (thermal = false → u.pow.alert = true) ∧
    u.dev.ready = false ∧ u.mgmt.l4 = true ∧ u.mem = s.mem ∧ u.pow.ceiling = s.pow.ceiling

/-- A log record changes nothing of a stop. -/
theorem State.StopsAs.log {s u : State} {cause n : Nat} {thermal : Bool} (h : s.StopsAs u cause n thermal) (type : Nat) (att ctx : Option Nat)
    (data : Bytes) : s.StopsAs (u.log type att ctx data) cause n thermal := by
  obtain ⟨h1, h2, h3, h4, h5, h6, h7, h8, h9, h10, h11⟩ := h
  exact ⟨h1, h2, h3, h4, h5, h6, h7, h8, (State.log_l4 _ _ _ _ _).trans h9, h10, h11⟩

/-- The power side after a stop. -/
def Pow.stopFor (w : Pow) (cause source reading : Nat) (bits : List Nat) (thermal : Bool) : Pow :=
  ({ w with clocksOff := true, stage := .stopped, tripCause := cause, tripSource := source % 2 ^ 8, tripReading := reading % 2 ^ 16,
            thermtrip := w.thermtrip || thermal, alert := w.alert || !thermal } : Pow).setSp (8 :: bits)

theorem State.safetyStop_pow (s : State) (cause source reading : Nat) (bits : List Nat) (thermal : Bool) :
    (s.safetyStop cause source reading bits thermal).pow = s.pow.stopFor cause source reading bits thermal := rfl

theorem State.safetyStop_stops (s : State) (cause source reading : Nat) {n : Nat} (hn : n < 9) (thermal : Bool) :
    s.StopsAs (s.safetyStop cause source reading [n] thermal) cause n thermal := by
  have hbit {k : Nat} (hk : k < 9) : (s.pow.stopFor cause source reading [n] thermal).spStatus.getLsbD k = (s.pow.spStatus.getLsbD k || has [8, n] k) :=
    Pow.setSp_bit _ _ hk
  unfold State.StopsAs
  rw [State.safetyStop_pow, hbit (by decide), hbit hn]
  refine ⟨rfl, rfl, rfl, by simp [has], by simp [has], ?_, ?_, ?_, rfl, rfl, rfl⟩
  · rintro rfl
    exact Bool.or_true _
  · rintro rfl
    exact Bool.or_true _
  · exact State.notify_ready _ _

theorem State.hardwareTrip_stops {s : State} (hr : s.pow.runs = true) (c : TripCause) (source : Nat) {reading : Nat} (h : tripAt c ≤ reading) :
    s.StopsAs (s.hardwareTrip c source reading) (match c with | .junction => 1 | .hbm => 2) 1 true := by
  unfold State.hardwareTrip
  rw [if_pos ⟨hr, h⟩]
  cases c <;> exact (s.safetyStop_stops _ source reading (n := 1) (by decide) true).log _ _ _ _

theorem State.supervisor_of_runs {s : State} (hr : s.pow.runs = true) (f : SupFault) (source reading : Nat) :
    s.supervisor f source reading =
      (s.safetyStop (match f with | .voltage => 4 | .clock => 5) source reading [match f with | .voltage => 4 | .clock => 5] false).log
        0x251 none none (leBytes 1 source ++ leBytes 2 reading) := if_pos (.inl hr)

theorem State.supervisor_stops {s : State} (hr : s.pow.runs = true) (f : SupFault) (source reading : Nat) :
    s.StopsAs (s.supervisor f source reading) (match f with | .voltage => 4 | .clock => 5) (match f with | .voltage => 4 | .clock => 5) false := by
  rw [State.supervisor_of_runs hr]
  exact (s.safetyStop_stops _ source reading (by cases f <;> decide) false).log _ _ _ _

/-- The state in which the reference has gone. -/
def State.refclkGone (s : State) : State := (s.onPow fun w => ({ w with refclk := false } : Pow).setSp [6]).log 0x240 none none []

theorem State.refclkLost_eq {s : State} (hc : s.pow.refclk = true) (hr : s.pow.runs = true) :
    ∃ source reading, s.refclkLost = (s.refclkGone.took 2).supervisor .clock source reading := by
  have hr' : s.refclkGone.pow.runs = true := hr
  unfold State.refclkLost
  rw [hc]
  exact ⟨_, _, if_pos hr'⟩

theorem State.refclkLost_stops {s : State} (hc : s.pow.refclk = true) (hr : s.pow.runs = true) :
    s.StopsAs s.refclkLost 5 5 false ∧ s.refclkLost.pow.refclk = false ∧ s.refclkLost.pow.spStatus.getLsbD 6 = true := by
  obtain ⟨source, reading, heq⟩ := State.refclkLost_eq hc hr
  have hr' : (s.refclkGone.took 2).pow.runs = true := hr
  have hgone : (s.refclkGone.took 2).pow.spStatus.getLsbD 6 = true := by
    show (Pow.setSp { s.pow with refclk := false } [6]).spStatus.getLsbD 6 = true
    rw [Pow.setSp_bit _ _ (by decide)]
    exact Bool.or_true _
  rw [heq]
  refine ⟨State.supervisor_stops hr' .clock source reading, ?_, ?_⟩
  · rw [State.supervisor_of_runs hr', State.log_pow, State.safetyStop_pow]
    rfl
  · rw [State.supervisor_of_runs hr', State.log_pow, State.safetyStop_pow]
    exact (Pow.setSp_bit _ _ (by decide)).trans (by rw [hgone]; rfl)

theorem State.ceilingStop_stops {s : State} {n : Nat} (hr : s.pow.runs = true) (henf : s.pow.spStatus.getLsbD 2 = true)
    (hover : 105 * s.pow.ceilingNow < 100 * n) (hlong : 20000 ≤ s.pow.enfRun) : s.StopsAs (s.ceilingStop n) 3 3 false := by
  unfold State.ceilingStop
  dsimp only
  rw [if_pos ⟨hr, henf, hover, hlong⟩]
  exact ((s.onPow fun w => w.input n).safetyStop_stops 3 0 n (by decide) false).log _ _ _ _

/-- Settles O53: each stop by its rule above. -/
theorem safetyStops : Obligations.SafetyStops := by
  unfold Obligations.SafetyStops
  intro s source reading hr stops
  refine ⟨fun h => ⟨_, rfl, State.hardwareTrip_stops hr .junction source h⟩, fun h => ⟨_, rfl, State.hardwareTrip_stops hr .hbm source h⟩,
    ⟨_, rfl, State.supervisor_stops hr .voltage source reading⟩, ⟨_, rfl, State.supervisor_stops hr .clock source reading⟩, fun hc => ?refclk,
    fun n henf hover hlong => ⟨_, rfl, State.ceilingStop_stops hr henf hover hlong⟩⟩
  case refclk =>
    obtain ⟨hstops, hclk, hbit⟩ := State.refclkLost_stops hc hr
    exact ⟨⟨_, rfl, hstops⟩, _, rfl, hclk, hbit⟩

/-! ### The input ceiling (R424, R438, R481). -/

/-- Domains changed one after the other, each by its own change. -/
theorem Pow.getDom_foldl_modDom (f : Nat → Domain → Domain) (w : Pow) (n k : Nat) :
    ((List.range n).foldl (fun w d => w.modDom d (f d)) w).getDom k = if k < n then f k (w.getDom k) else w.getDom k := by
  induction n with
  | zero => rfl
  | succ n ih =>
    rw [List.range_succ, List.foldl_append, List.foldl_cons, List.foldl_nil]
    by_cases hk : k = n
    · subst hk
      rw [Pow.getDom_modDom_self, ih, if_neg (Nat.lt_irrefl k), if_pos (Nat.lt_succ_self k)]
    · rw [Pow.getDom_modDom_other _ hk, ih]
      exact if_congr (by omega) rfl rfl

theorem Pow.foldl_modDom_view {β : Type} (g : Pow → β) (hg : ∀ w doms, g { w with doms := doms } = g w) (f : Nat → Domain → Domain) (w : Pow)
    (n : Nat) : g ((List.range n).foldl (fun w d => w.modDom d (f d)) w) = g w :=
  foldl_keep (fun v => g v = g w) _ (fun v _ h => (hg v _).trans h) _ w rfl

/-- The step at which an enforcement holds a domain. -/
def Domain.enforced (d : Nat) (x : Domain) : Domain := { x with step := if d < 10 then 4 else 1 }

/-- The power side as an enforcement begins. -/
def Pow.enforcing (w : Pow) (n : Nat) : Pow :=
  ({ w.input n with enforcements := min (2 ^ 16 - 1) (w.enforcements + 1), enfRun := 0 } : Pow).setSp [2]

theorem State.enforce_over {s : State} {n : Nat} (hr : s.pow.runs = true) (henf : s.pow.spStatus.getLsbD 2 = false)
    (hover : 105 * s.pow.ceilingNow < 100 * n) (hlong : 2000 ≤ s.pow.overRun) :
    (s.enforce n).mem = s.mem ∧ (s.enforce n).dev = s.dev ∧
      (s.enforce n).pow = (List.range 14).foldl (fun w d => w.modDom d (Domain.enforced d)) (s.pow.enforcing n) := by
  have hgo : ¬ (!(s.pow.input n).runs ∨ (s.pow.input n).spStatus.getLsbD 2 ∨ 100 * n ≤ 105 * (s.pow.input n).ceilingNow ∨
      (s.pow.input n).overRun < 2000) := by
    rintro (h | h | h | h)
    · exact absurd ((congrArg (!·) hr).symm.trans h) Bool.false_ne_true
    · exact absurd (henf.symm.trans h) Bool.false_ne_true
    · exact absurd hover (Nat.not_lt.2 h)
    · exact absurd hlong (Nat.not_le.2 h)
  obtain ⟨data, heq⟩ : ∃ data, s.enforce n = ((s.onPow fun w => w.input n).onPow fun w =>
      (List.range 14).foldl (fun w d => w.modDom d (Domain.enforced d))
        (({ w with enforcements := min (2 ^ 16 - 1) (w.enforcements + 1), enfRun := 0 } : Pow).setSp [2])).log 0x246 none none data :=
    ⟨_, if_neg hgo⟩
  rw [heq]
  exact ⟨by rw [State.log_mem, State.onPow_mem, State.onPow_mem], by rw [State.log_dev, State.onPow_dev, State.onPow_dev],
    by rw [State.log_pow, State.onPow_pow, State.onPow_pow]; rfl⟩

theorem State.release_kept {s : State} {n : Nat} (henf : s.pow.spStatus.getLsbD 2 = true) (hkept : n ≤ s.pow.ceilingNow)
    (hlong : 2000 ≤ s.pow.underRun) : (s.release n).mem = s.mem ∧ (s.release n).dev = s.dev ∧
      (s.release n).pow = { s.pow.input n with spStatus := s.pow.spStatus &&& ~~~4#9, enfRun := 0 } := by
  have hgo : ¬ (!(s.pow.input n).spStatus.getLsbD 2 ∨ (s.pow.input n).ceilingNow < n ∨ (s.pow.input n).underRun < 2000) := by
    rintro (h | h | h)
    · exact absurd ((congrArg (!·) henf).symm.trans h) Bool.false_ne_true
    · exact absurd hkept (Nat.not_le.2 h)
    · exact absurd hlong (Nat.not_le.2 h)
  have heq : s.release n = _ := if_neg hgo
  rw [heq]
  exact ⟨rfl, rfl, rfl⟩

theorem getLsbD_and_not_four (x : BitVec 9) {k : Nat} (hk : k < 9) : (x &&& ~~~4#9).getLsbD k = (x.getLsbD k && decide (k ≠ 2)) := by
  rw [BitVec.getLsbD_and, BitVec.getLsbD_not, show (4#9 : BitVec 9) = BitVec.ofNat 9 (2 ^ 2) from rfl, getLsbD_ofNat_two_pow hk, decide_eq_true hk,
    Bool.true_and, ← decide_not]
  exact congrArg (x.getLsbD k && ·) (decide_eq_decide.2 ⟨Ne.symm, Ne.symm⟩)

theorem Pow.trayWrite_eq (w : Pow) (v : Nat) : w.trayWrite v = { w with ceiling := if v < w.ceiling then max v w.fuseFloor else w.ceiling } := by
  unfold Pow.trayWrite
  split <;> rfl

/-! ### The coolant (R435). -/

/-- What does not look at the service reasons is as before a call for service. -/
theorem State.needsService_mgmt_view {β : Type} (g : Mgmt → β) (hg : ∀ m service events, g { m with service := service, events := events } = g m)
    (s : State) (reason : Nat) : g (s.needsService reason).mgmt = g s.mgmt := by
  rw [State.needsService_mgmt]
  split
  · rfl
  · exact hg _ _ _

/-- The state after a report of the coolant has been read. -/
def State.coolantRead (s : State) (inlet : Int) (flow : Nat) : State :=
  ((s.sensor 0x6000 (some inlet)).sensor 0x6100 (some flow)).onMgmt fun m => { m with coolRun := none }

/-- Coolant out of its rating asks for service; what is logged besides does not change the readings. -/
theorem State.coolant_out {s : State} {inlet : Int} {flow : Nat} (h : 160 < inlet ∨ flow < 80) :
    ∃ t : State, s.coolant inlet flow = t.needsService 4 ∧ t.mem = s.mem ∧ t.pow = s.pow ∧
      t.mgmt.coolRun = none ∧ t.mgmt.sensors = Map.put (Map.put s.mgmt.sensors 0x6000 (some inlet)) 0x6100 (some (flow : Int)) := by
  have hlog (t : State) (p : Prop) (hp : Decidable p) (data : Bytes) : ∀ u, u = (if p then t.log 0x245 none none data else t) →
      u.mem = t.mem ∧ u.pow = t.pow ∧ u.mgmt.coolRun = t.mgmt.coolRun ∧ u.mgmt.sensors = t.mgmt.sensors := by
    rintro u rfl
    split
    · exact ⟨rfl, rfl, State.log_view Mgmt.coolRun (fun _ _ _ _ _ _ => rfl) _ _ _ _ _,
        State.log_view Mgmt.sensors (fun _ _ _ _ _ _ => rfl) _ _ _ _ _⟩
    · exact ⟨rfl, rfl, rfl, rfl⟩
  unfold State.coolant
  dsimp only
  rw [if_pos h]
  obtain ⟨hm1, hp1, hc1, hs1⟩ := hlog (s.coolantRead inlet flow) _ _ _ _ rfl
  obtain ⟨hm2, hp2, hc2, hs2⟩ := hlog _ _ _ _ _ rfl
  exact ⟨_, rfl, hm2.trans hm1, hp2.trans hp1, hc2.trans hc1, hs2.trans hs1⟩

/-- Settles O54: each row by its rule above. -/
theorem inputCeiling : Obligations.InputCeiling := by
  unfold Obligations.InputCeiling
  intro s n
  refine ⟨fun hr henf hover hlong => ?enforce, fun henf hkept hlong => ?release, fun v => ⟨_, rfl, ⟨rfl, rfl, rfl, rfl, rfl⟩, Pow.trayWrite_eq _ _⟩,
    fun level => ⟨_, rfl, ⟨rfl, rfl, rfl, rfl, rfl⟩, rfl, rfl⟩, fun inlet flow h => ?coolant⟩
  case enforce =>
    obtain ⟨hmem, hdev, hpow⟩ := State.enforce_over hr henf hover hlong
    refine ⟨_, rfl, hmem, hdev, ?_⟩
    rw [hpow, Pow.foldl_modDom_view Pow.spStatus (fun _ _ => rfl), Pow.foldl_modDom_view Pow.enfRun (fun _ _ => rfl)]
    simp only [Pow.getDom_foldl_modDom]
    refine ⟨(Pow.setSp_bit _ _ (by decide)).trans (Bool.or_true _), rfl, fun d hd => ?_, fun d hlow hd => ?_⟩
    · rw [if_pos (by omega), Domain.enforced, if_pos hd]
      rfl
    · rw [if_pos hd, Domain.enforced, if_neg (by omega)]
      rfl
  case release =>
    obtain ⟨hmem, hdev, hpow⟩ := State.release_kept henf hkept hlong
    refine ⟨_, rfl, hmem, hdev, ?_⟩
    rw [hpow]
    exact ⟨fun k hk => getLsbD_and_not_four _ hk, rfl⟩
  case coolant =>
    obtain ⟨t, heq, hmem, hpow, hcool, hsensors⟩ := State.coolant_out (s := s) h
    have he : exec (.coolantReport inlet flow) s = .next (t.needsService 4) := congrArg Host.Outcome.next heq
    refine ⟨_, he, hmem, hpow, State.needsService_service t (by decide), ?_⟩
    rw [State.needsService_mgmt_view Mgmt.coolRun fun _ _ _ => rfl, State.needsService_mgmt_view Mgmt.sensors fun _ _ _ => rfl, hsensors]
    refine ⟨hcool, ?_, Map.get_put_self _ _ _ _⟩
    rw [Map.get_put, if_neg (by decide), Map.get_put_self]

end Sys2Proof.Machine
end

section
/-!
PROOFS. Messages of gates, statistics, queries and notes (R366, R387, R388, R394 to R400): O23, O24, O25.
-/

namespace Sys2Proof.Machine

/-- The row of a message that is taken answers what its handler answers. -/
theorem answers_of_taken {c : Instr} {s v : State} {mb : Mb} {m : MsgIn} {mine : Bytes → Bool} {f : MsgIn → State → State} {status : Nat}
    {payload : Bytes} (ht : Taken s mb m) (hx : exec c s = .next (s.message mb mine f)) (hm : mine m.b = true)
    (hf : f m (s.takeHead mb) = v.reply m.back status payload) : Answers c s m v status payload :=
  hx.trans (congrArg Host.Outcome.next ((message_taken ht hm f).trans hf))

theorem State.inCtx_of_some {s : State} {m : MsgIn} {c : Ctx} (hc : s.dev.getCtx m.n = some c) (f : Ctx → State → State) :
    s.inCtx m f = f c s := by
  unfold State.inCtx
  rw [hc]

/-! ### Gates (R366, R387). -/

theorem Dev.find_giveGates (d : Dev) (n first count : Nat) (v : Word) (h : Nat) :
    Map.find (d.giveGates n first count v).gates h =
      if first ≤ h ∧ h < first + count then some { value := v, owner := n } else Map.find d.gates h := by
  unfold Dev.giveGates
  dsimp only
  induction count with
  | zero => exact (if_neg (by omega)).symm
  | succ k ih =>
    rw [List.range_succ, List.foldl_append, List.foldl_cons, List.foldl_nil, Map.find_put, ih]
    by_cases hk : first + k = h
    · rw [if_pos hk, if_pos (by omega)]
    · rw [if_neg hk]
      exact if_congr (by omega) rfl rfl

theorem Dev.find_freeGates (d : Dev) (n first count step h : Nat) :
    Map.find (d.freeGates n first count step).gates h = if first ≤ h ∧ h < first + count then none else Map.find d.gates h := by
  refine (Map.find_filter d.gates (fun g => !(decide (first ≤ g) && decide (g < first + count))) h).trans ?_
  by_cases hin : first ≤ h ∧ h < first + count <;> simp [hin]

theorem State.freeRun_free {s : State} {p n g : Nat} (h : s.freeRun p n = some g) : ∀ i, i < n → s.dev.gateFree (g + i) = true := by
  obtain ⟨hfits, _⟩ := List.find?_eq_some_iff_append.1 h
  obtain ⟨_, hrun⟩ := Bool.and_eq_true_iff.1 hfits
  exact fun i hi => List.all_eq_true.1 hrun i (List.mem_range.2 hi)

section
variable {s : State} {m : MsgIn} {c : Ctx} {g k : Nat} (hc : s.dev.getCtx m.n = some c)
include hc

theorem State.gateAlloc_of_free (hk : k = field m.b 16 1) (h0 : k ≠ 0) (h64 : k ≤ 64) (hquota : (s.dev.gatesOf m.n).length + k ≤ c.quota)
    (hg : s.freeRun c.pt k = some g) :
    s.gateAlloc m = (s.onDev fun d => (d.giveGates m.n g k (BitVec.ofNat 64 (field m.b 24 8))).modCtx m.n fun c =>
      c.note (.galloc g k (BitVec.ofNat 64 (field m.b 24 8)))).reply m.back 0 (leBytes 2 g) := by
  subst hk
  unfold State.gateAlloc
  rw [State.inCtx_of_some hc]
  simp only [h0, Nat.not_lt.2 h64, Nat.not_lt.2 hquota, or_self, if_false, hg]

theorem State.gateFree_of_held (hg : g = field m.b 16 2) (hk : k = field m.b 18 1) (h0 : k ≠ 0) (h64 : k ≤ 64)
    (hheld : ∀ i, i < k → ∃ x, Map.find s.dev.gates (g + i) = some x ∧ x.owner = m.n)
    (hunused : (c.cmds.any fun x => !x.state.ended && (dGates x.desc).any fun y => has ((List.range k).map fun i => g + i) y) = false) :
    s.gateFree m = (s.onDev fun d => (d.freeGates m.n g k c.step).modCtx m.n fun c => c.note (.gfree g k)).reply m.back 0 [] := by
  subst hg hk
  have hmine : (((List.range (field m.b 18 1)).map fun i => field m.b 16 2 + i).any fun x =>
      match Map.find s.dev.gates x with | some y => decide (y.owner ≠ m.n) | none => true) = false := by
    refine List.any_eq_false.2 fun x hx => ?_
    obtain ⟨i, hi, rfl⟩ := List.mem_map.1 hx
    obtain ⟨y, hy, howner⟩ := hheld i (List.mem_range.1 hi)
    simp [hy, howner]
  unfold State.gateFree
  rw [State.inCtx_of_some hc]
  simp only [h0, Nat.not_lt.2 h64, or_self, if_false]
  exact (if_neg (Bool.eq_false_iff.1 hmine)).trans (if_neg (Bool.eq_false_iff.1 hunused))

end

/-- Settles O23, by the gates that each of the two messages gives or takes. -/
theorem gateMessages : Obligations.GateMessages := by
  unfold Obligations.GateMessages
  refine fun s mb m c ht hc => ⟨fun g k hop hk h0 h64 hquota hg => ?alloc, fun g k hop hg hk h0 h64 hheld hunused => ?free⟩
  case alloc =>
    refine ⟨_, answers_of_taken ht rfl (isOp_of_op hop) (State.gateAlloc_of_free hc hk h0 h64 hquota hg),
      (State.takeHead_only s mb).trans (onlyDev_onDev _ _), fun i hi => ?_, State.freeRun_free hg, fun h hh => ?_⟩
    · exact (Dev.find_giveGates _ m.n g k _ _).trans (if_pos (by omega))
    · exact (Dev.find_giveGates _ m.n g k _ _).trans (if_neg (by omega))
  case free =>
    refine ⟨_, answers_of_taken ht rfl (isOp_of_op hop) (State.gateFree_of_held hc hg hk h0 h64 hheld hunused),
      (State.takeHead_only s mb).trans (onlyDev_onDev _ _), fun i hi => ?_, fun h hh => ?_⟩
    · exact (Dev.find_freeGates _ m.n g k c.step _).trans (if_pos (by omega))
    · exact (Dev.find_freeGates _ m.n g k c.step _).trans (if_neg (by omega))

/-! ### Statistics (R394, R395, R397). -/

/-- The fields of a STATS_READ that asks for no mark lie in their ranges. -/
structure MsgIn.ReadsStats (m : MsgIn) : Prop where
  unmarked : field m.b 17 1 < 2
  asks     : field m.b 21 1 ≠ 0
  within   : field m.b 21 1 ≤ 28

namespace MsgIn.ReadsStats
variable {m : MsgIn} (h : m.ReadsStats) {s : State} {n : Nat} {c : Ctx}
include h

theorem noMark : bit (field m.b 17 1) 1 = false := Nat.testBit_lt_two_pow h.unmarked

theorem context (hkind : field m.b 16 1 = 0) (hctx : m.ctx = some n) (hc : s.dev.getCtx n = some c) :
    s.statsRead m = s.statsReply m c.stats (bit (field m.b 17 1) 0) := by
  have hn : s.dev.getCtx m.n = some c := by rw [MsgIn.n, hctx]; exact hc
  have hfl : ¬ 4 ≤ field m.b 17 1 := by have := h.unmarked; omega
  simp [State.statsRead, hkind, hctx, hfl, h.asks, Nat.not_lt.2 h.within, h.noMark, State.inCtx_of_some hn]

theorem partitionOfCtx (hkind : field m.b 16 1 = 1) (hctx : m.ctx = some n) (hc : s.dev.getCtx n = some c) :
    s.statsRead m = s.statsReply m (s.dev.getPt c.pt).stats (bit (field m.b 17 1) 0) := by
  have hfl : ¬ 4 ≤ field m.b 17 1 := by have := h.unmarked; omega
  simp [State.statsRead, hkind, hctx, hfl, h.asks, Nat.not_lt.2 h.within, h.noMark, hc]

theorem partition (hkind : field m.b 16 1 = 1) (hctx : m.ctx = none) (howner : s.mgmt.isOwner m.att = true)
    (hmask : recMask s.mgmt.record (field m.b 18 1) ≠ 0) :
    s.statsRead m = s.statsReply m (s.dev.getPt (field m.b 18 1)).stats (bit (field m.b 17 1) 0) := by
  have hfl : ¬ 4 ≤ field m.b 17 1 := by have := h.unmarked; omega
  simp [State.statsRead, hkind, hctx, hfl, h.asks, Nat.not_lt.2 h.within, h.noMark, howner, hmask]

theorem device (hkind : field m.b 16 1 = 2) (hctx : m.ctx = none) :
    s.statsRead m = s.statsReply m s.dev.stats (bit (field m.b 17 1) 0) := by
  have hfl : ¬ 4 ≤ field m.b 17 1 := by have := h.unmarked; omega
  simp [State.statsRead, hkind, hctx, hfl, h.asks, Nat.not_lt.2 h.within, h.noMark]

end MsgIn.ReadsStats

/-- Entries of a map changed one after the other, each once. -/
theorem Map.get_foldl_put {α : Type} (f : α → α) (d : α) (q : Nat) {l : List Nat} (hl : l.Nodup) (m : List (Nat × α)) :
    Map.get (l.foldl (fun m p => Map.put m p (f (Map.get m p d))) m) q d = if q ∈ l then f (Map.get m q d) else Map.get m q d := by
  induction l generalizing m with
  | nil => rfl
  | cons p l ih =>
    obtain ⟨hp, hnodup⟩ := List.nodup_cons.1 hl
    rw [List.foldl_cons, ih hnodup, Map.get_put]
    by_cases hq : p = q
    · subst hq
      simp [hp]
    · simp [hq, Ne.symm hq]

/-- A period mark latches the block of each partition that the record forms (R395). -/
theorem State.periodMark_getPt (s : State) {p : Nat} (hp : p < 8) :
    (s.periodMark.dev.getPt p).stats =
      if recMask s.mgmt.record p ≠ 0 then (s.dev.getPt p).stats.latch s.mgmt.curLog else (s.dev.getPt p).stats := by
  have hlatched := Map.get_foldl_put (fun q : Partn => { q with stats := q.stats.latch s.mgmt.curLog }) {} p
    ((List.nodup_range (n := 8)).filter fun p => decide (recMask s.mgmt.record p ≠ 0)) s.dev.partns
  refine (congrArg Partn.stats hlatched).trans ?_
  by_cases hmask : recMask s.mgmt.record p = 0 <;> simp [hmask, hp, Dev.getPt]

/-- Settles O24, by the block that each kind of STATS_READ shows and the blocks that a mark latches. -/
theorem statistics : Obligations.Statistics := by
  unfold Obligations.Statistics
  refine ⟨fun s mb m ht hop hfl h0 h28 => ?read, fun s hr hmark hdue => ?mark⟩
  case read =>
    have h : m.ReadsStats := ⟨hfl, h0, h28⟩
    exact ⟨fun n c hkind hctx hc => answers_of_taken ht rfl (by simp [isOp_of_op hop, sKind, hkind]) (h.context hkind hctx hc),
      fun n c hkind hctx hc => answers_of_taken ht rfl (by simp [isOp_of_op hop, sKind, hkind]) (h.partitionOfCtx hkind hctx hc),
      fun hkind hctx howner hmask => answers_of_taken ht rfl (by simp [isOp_of_op hop, sKind, hkind]) (h.partition hkind hctx howner hmask),
      fun hkind hctx => answers_of_taken ht rfl (by simp [isOp_of_op hop, sKind, hkind]) (h.device hkind hctx)⟩
  case mark =>
    have hi : recMark s.mgmt.record * 65536 ≠ 0 := by omega
    exact ⟨_, congrArg Host.Outcome.next (if_pos ⟨hr, hi, hdue⟩ : _ = _), rfl, rfl, rfl, rfl, fun p hp => State.periodMark_getPt s hp⟩

/-! ### QUERY, NOTE and LAYOUT_READ (R388, R399, R400). -/

theorem State.queryDevice {s : State} {m : MsgIn} (hkind : field m.b 16 1 = 0) :
    s.query m = s.reply m.back 0 (pad240 (leBytes 8 s.mgmt.hgId ++ leBytes 8 s.mgmt.serial.toNat ++ leBytes 8 s.mgmt.fwVersion.toNat ++
      leBytes 4 s.mgmt.layoutGen ++ leBytes 2 s.dev.ctxs.length ++ leBytes 2 0 ++ leBytes 8 s.mgmt.curLog)) := by
  simp only [State.query, hkind]

section
variable {s : State} {m : MsgIn} {n : Nat} {c : Ctx} (hctx : m.ctx = some n) (hc : s.dev.getCtx n = some c)
include hctx hc

theorem State.queryContext (hkind : field m.b 16 1 = 1) : s.query m = s.reply m.back 0 (pad240 (s.dev.queryCtx n c)) := by
  simp [State.query, hkind, hctx, State.inCtx, MsgIn.n, hc]

theorem State.queryObject {o : Obj} (hkind : field m.b 16 1 = 2) (ho : s.dev.getObj c.pt (field m.b 20 4) = some o) :
    s.query m = s.reply m.back 0 (pad240 (s.dev.queryObj c.pt (field m.b 20 4) o)) := by
  simp [State.query, hkind, hctx, State.inCtx, MsgIn.n, hc, ho]

theorem State.queryGate {g : Gate} (hkind : field m.b 16 1 = 3) (hg : Map.find s.dev.gates (field m.b 20 4) = some g) :
    s.query m = if g.owner = n then s.reply m.back 0 (pad240 (leBytes 8 g.value.toNat)) else s.refuse m 4 := by
  simp [State.query, hkind, hctx, State.inCtx, MsgIn.n, hc, hg]

theorem State.queryRange {e : RangeEntry} (hkind : field m.b 16 1 = 4) (he : c.entry (field m.b 24 8) = some e) :
    s.query m = s.reply m.back 0 (pad240 e.bytes) := by
  simp [State.query, hkind, hctx, State.inCtx, MsgIn.n, hc, he]

end

theorem State.noteMsg_within {s : State} {m : MsgIn} (h0 : field m.b 16 1 ≠ 0) (h47 : field m.b 16 1 ≤ 47) :
    s.noteMsg m = (s.log 1 (some m.att) m.ctx (leBytes 1 (field m.b 16 1) ++ sub m.b 32 47)).reply m.back 0 (leBytes 8 s.mgmt.logSeq) :=
  if_neg (by omega)

/-- Settles O25, by the answer of each kind. -/
theorem queries : Obligations.Queries := by
  unfold Obligations.Queries
  refine fun s mb m ht => ⟨fun hop hkind => ?device, fun n c hop hctx hc => ⟨fun hkind => ?context, fun o hkind ho => ?object,
    fun g hkind hg howner => ?gate, fun g hkind hg howner => ?other, fun e hkind he => ?range⟩, fun hop h0 h47 => ?note, fun hop hrun => ?layout⟩
  case device => exact answers_of_taken ht rfl (by simp [isOp_of_op hop, hkind]) (State.queryDevice hkind)
  case context => exact answers_of_taken ht rfl (by simp [qKind, isOp_of_op hop, hkind]) (State.queryContext hctx hc hkind)
  case object => exact answers_of_taken ht rfl (by simp [qKind, isOp_of_op hop, hkind]) (State.queryObject hctx hc hkind ho)
  case gate =>
    exact answers_of_taken ht rfl (by simp [qKind, isOp_of_op hop, hkind]) ((State.queryGate hctx hc hkind hg).trans (if_pos howner))
  case other =>
    exact answers_of_taken ht rfl (by simp [qKind, isOp_of_op hop, hkind]) ((State.queryGate hctx hc hkind hg).trans (if_neg howner))
  case range => exact answers_of_taken ht rfl (by simp [qKind, isOp_of_op hop, hkind]) (State.queryRange hctx hc hkind he)
  case note => exact answers_of_taken ht rfl (isOp_of_op hop) (State.noteMsg_within h0 h47)
  case layout => exact answers_of_taken ht rfl (isOp_of_op hop) (if_pos hrun)

end Sys2Proof.Machine
end

section
/-!
PROOFS. LAYOUT_WRITE (R362, R401, R484): O26.
-/

namespace Sys2Proof.Machine

/-! ### The effects of a record that comes into force (R362). -/

/-- Changes of memory made one after the other are one change of memory. -/
theorem State.foldl_onMem {α : Type} (f : α → Memory → Memory) (l : List α) (s : State) :
    l.foldl (fun s t => s.onMem (f t)) s = s.onMem fun m => l.foldl (fun m t => f t m) m := by
  induction l generalizing s with
  | nil => rfl
  | cons t l ih => exact ih _

/-- A terrace's caddy slice and its HBM read zero (R362). -/
def Memory.wipe (t : Nat) (m : Memory) : Memory := (m.zero (sliceBase t) sliceBytes).zero (hbmPa t 0) (2 ^ 38)

theorem Memory.zero_keeps_zero (m : Memory) (a n x : Nat) (h : Mem.get m.bytes x = 0) : Mem.get (m.zero a n).bytes x = 0 := by
  unfold Memory.zero
  rw [Mem.get_zero, h, ite_self]

theorem Memory.wipe_keeps_zero (t : Nat) (m : Memory) (x : Nat) (h : Mem.get m.bytes x = 0) : Mem.get (m.wipe t).bytes x = 0 :=
  Memory.zero_keeps_zero _ _ _ _ (Memory.zero_keeps_zero _ _ _ _ h)

theorem Memory.wipe_hbm (t : Nat) (m : Memory) {x : Nat} (hlo : hbmPa t 0 ≤ x) (hhi : x < hbmPa t 0 + 2 ^ 38) :
    Mem.get (m.wipe t).bytes x = 0 := by
  unfold Memory.wipe Memory.zero
  rw [Mem.get_zero, if_pos ⟨hlo, hhi⟩]

theorem State.relayout_mem (s : State) (new : Mem) :
    (s.relayout new).mem = (leaving s.mgmt.record new).foldl (fun m t => m.wipe t) s.mem :=
  congrArg State.mem (State.foldl_onMem (fun t m => m.wipe t) (leaving s.mgmt.record new) s)

theorem State.relayout_pow (s : State) (new : Mem) : (s.relayout new).pow = { s.pow with capW := recCap new } :=
  congrArg (fun t : State => { t.pow with capW := recCap new }) (State.foldl_onMem (fun t m => m.wipe t) (leaving s.mgmt.record new) s)

/-- The bytes of a slice that leaves a partition read zero (R362). -/
theorem State.relayout_zero (s : State) (new : Mem) {t x : Nat} (ht : t ∈ leaving s.mgmt.record new) (hlo : hbmPa t 0 ≤ x)
    (hhi : x < hbmPa t 0 + 2 ^ 38) : Mem.get (s.relayout new).mem.bytes x = 0 := by
  rw [State.relayout_mem]
  refine foldl_reaches (P := fun _ => True) (Q := fun m : Memory => Mem.get m.bytes x = 0) (a := t) (fun _ _ _ _ => trivial) ?_ ?_ ht trivial
  · exact fun m _ => m.wipe_hbm t hlo hhi
  · exact fun m r h => m.wipe_keeps_zero r x h

/-! ### COMMIT (R401, R484). -/

/-- A record in force under a generation, in both copies. -/
def Mgmt.enforce (m : Mgmt) (r : Mem) (g : Nat) : Mgmt := { m with record := r, layoutGen := g, copy0 := some r, copy1 := some r }

/-- A record comes into force under a generation, and the sender's buffer is empty. -/
def State.commit (s : State) (a : Nat) (r : Mem) (g : Nat) : State :=
  ((s.relayout r).onMgmt fun m => m.enforce r g).onDev fun d => d.modAtt a fun x => { x with staging := none }

theorem State.commit_log (s : State) (a : Nat) (r : Mem) (g : Nat) (att : Option Nat) (data : Bytes) :
    let v := (s.commit a r g).log 0x0100 att none data
    (v.mgmt.record = r ∧ v.mgmt.layoutGen = g) ∧ (v.mgmt.copy0 = some r ∧ v.mgmt.copy1 = some r) ∧ v.pow = { s.pow with capW := recCap r } ∧
      (v.dev.getAtt a).staging = none ∧
      ∀ t x, t ∈ leaving s.mgmt.record r → hbmPa t 0 ≤ x → x < hbmPa t 0 + 2 ^ 38 → Mem.get v.mem.bytes x = 0 := by
  refine ⟨⟨?_, ?_⟩, ⟨?_, ?_⟩, ?_, ?_, fun t x ht hlo hhi => ?_⟩
  · exact State.log_view Mgmt.record (fun _ _ _ _ _ _ => rfl) _ _ _ _ _
  · exact State.log_view Mgmt.layoutGen (fun _ _ _ _ _ _ => rfl) _ _ _ _ _
  · exact State.log_view Mgmt.copy0 (fun _ _ _ _ _ _ => rfl) _ _ _ _ _
  · exact State.log_view Mgmt.copy1 (fun _ _ _ _ _ _ => rfl) _ _ _ _ _
  · exact s.relayout_pow r
  · rw [State.log_dev]
    exact congrArg Att.staging (Dev.getAtt_modAtt_self _ _ _)
  · exact s.relayout_zero r ht hlo hhi

section
variable {s : State} {m : MsgIn} (hlen : field m.b 20 2 = 0) (hoff : field m.b 18 2 = 0)
include hlen hoff

theorem State.layoutCommit_of_ok {r : Mem} (hgen : field m.b 24 4 = s.mgmt.layoutGen) (hstage : (s.dev.getAtt m.att).staging = some r)
    (hcheck : recCheck r = true) (hok : recOk r [s.mgmt.split, recSplit r] = true) (hbusy : s.layoutBusy r = false) :
    s.layoutCommit m =
      ((s.commit m.att (recSeal (Mem.write r 8 (leBytes 4 ((s.mgmt.layoutGen + 1) % 2 ^ 32)))) ((s.mgmt.layoutGen + 1) % 2 ^ 32)).log 0x0100
        (some m.att) none (leBytes 4 ((s.mgmt.layoutGen + 1) % 2 ^ 32))).reply m.back 0 (leBytes 4 ((s.mgmt.layoutGen + 1) % 2 ^ 32)) := by
  unfold State.layoutCommit
  simp only [hlen, hoff, hgen, hstage, hcheck, hok, hbusy, ne_eq, not_true_eq_false, or_self, if_false, Bool.not_true, Bool.false_eq_true]
  rfl

theorem State.layoutDiscard_of_ok (hgen : field m.b 24 4 = 0) :
    s.layoutDiscard m = (s.onDev fun d => d.modAtt m.att fun x => { x with staging := none }).reply m.back 0 [] := by
  unfold State.layoutDiscard
  simp [hlen, hoff, hgen]

end

theorem State.layoutStage_of_ok {s : State} {m : MsgIn} (hrun : layoutRun (field m.b 18 2) (field m.b 20 2) = true) (hgen : field m.b 24 4 = 0) :
    s.layoutStage m = (s.onDev fun d => d.modAtt m.att fun x => { x with
      staging := some (Mem.write ((s.dev.getAtt m.att).staging.getD s.mgmt.record) (field m.b 18 2) (sub m.b 32 (field m.b 20 2))) }).reply
        m.back 0 [] := by
  unfold State.layoutStage
  simp [hrun, hgen]

/-- Settles O26, by what each of the three operations changes. -/
theorem layoutWrites : Obligations.LayoutWrites := by
  unfold Obligations.LayoutWrites
  refine fun s mb m ht hop howner => ⟨fun hk hrun hgen => ?stage, fun hk hoff hlen hgen => ?discard,
    fun r hk hoff hlen hgen hstage hcheck hok hbusy => ?commit⟩
  case stage =>
    refine ⟨_, answers_of_taken ht rfl (by simp [isOp_of_op hop, wOp, hk]) ((if_pos howner).trans ((if_neg (by omega)).trans
      (State.layoutStage_of_ok hrun hgen))), (State.takeHead_only s mb).trans (onlyDev_onDev _ _), Dev.getAtt_modAtt_self _ _ _⟩
  case discard =>
    exact ⟨_, answers_of_taken ht rfl (by simp [isOp_of_op hop, wOp, hk]) ((if_pos howner).trans (State.layoutDiscard_of_ok hlen hoff hgen)),
      (State.takeHead_only s mb).trans (onlyDev_onDev _ _), Dev.getAtt_modAtt_self _ _ _⟩
  case commit =>
    obtain ⟨hrecord, hcopies, hpow, hstaging, hzero⟩ := State.commit_log (s.takeHead mb) m.att
      (recSeal (Mem.write r 8 (leBytes 4 (((s.takeHead mb).mgmt.layoutGen + 1) % 2 ^ 32)))) (((s.takeHead mb).mgmt.layoutGen + 1) % 2 ^ 32)
      (some m.att) (leBytes 4 (((s.takeHead mb).mgmt.layoutGen + 1) % 2 ^ 32))
    obtain ⟨_, _, _, hsame, _⟩ := State.takeHead_only s mb
    exact ⟨_, answers_of_taken ht rfl (by simp [isOp_of_op hop, wOp, hk]) ((if_pos howner).trans
      (State.layoutCommit_of_ok hlen hoff hgen hstage hcheck hok hbusy)), hrecord.1, hrecord.2, hcopies.1, hcopies.2, by rw [hpow, hsame],
      hstaging, hzero⟩

end Sys2Proof.Machine
end

section
/-!
PROOFS. Attachments and what flows out of them (R349 to R356, R391, R392): O17, O45.
-/

namespace Sys2Proof.Machine

/-! ### ATTACH, REATTACH and DETACH (R354, R356). -/

section
variable {s : State} {m : MsgIn}

theorem State.attach_of_new (hnew : (s.dev.getAtt m.att).token = none) (hiova : field m.b 16 8 % 4096 = 0) (hlo : 6 ≤ field m.b 24 1)
    (hhi : field m.b 24 1 ≤ 16) (hintr : field m.b 25 1 < 2) :
    s.attach m = ((s.onDev fun d => d.modAtt m.att fun x => { x with
      token := some (Config.token s.dev.free), evtIova := field m.b 16 8, evtLog2 := field m.b 24 1, evtIntr := bit (field m.b 25 1) 0,
      rings := Map.del x.rings 0 }).took 1).reply m.back 0 (leBytes 8 (Config.token s.dev.free).toNat ++ leBytes 1 m.att) := by
  unfold State.attach
  simp [hnew, hiova, Nat.not_lt.2 hlo, Nat.not_lt.2 hhi, Nat.not_le.2 hintr]

/-- A context of an attachment is active again. -/
def Ctx.reattached (c : Ctx) (a : Nat) : Ctx := if c.home = a then { c with state := .active } else c

/-- The contexts of an attachment are active again, and its outflow is sent anew (R356). -/
def State.reattached (s : State) (a : Nat) : State :=
  (s.onDev fun d => { d with ctxs := d.ctxs.map fun c => (c.1, c.2.reattached a) }).onDev fun d =>
    d.modAtt a fun x => { x with held := false, orphanLeft := 0, resending := true, status := x.status &&& ~~~4#64 }

theorem State.reattach_of_token (htoken : (s.dev.getAtt m.att).token = some (BitVec.ofNat 64 (field m.b 16 8)))
    (hlost : s.dev.orphaned m.att = true ∨ (s.dev.getAtt m.att).orphanLeft ≠ 0) :
    s.reattach m = (s.reattached m.att).reply m.back 0 (leBytes 2 ((s.dev.homedAt m.att).filter fun c => c.2.state ≠ .active).length ++
      leBytes 6 0 ++ leBytes 8 (s.dev.getAtt m.att).ack) := by
  have hkeeps : ¬ ((!s.dev.orphaned m.att) = true ∧ (s.dev.getAtt m.att).orphanLeft = 0) := by
    rintro ⟨hnone, hzero⟩
    rcases hlost with h | h
    · simp [h] at hnone
    · exact h hzero
  exact (if_neg (not_not_intro htoken)).trans (if_neg hkeeps)

theorem State.reattached_getCtx (s : State) (a : Nat) {n : Nat} {c : Ctx} (hc : s.dev.getCtx n = some c) :
    (s.reattached a).dev.getCtx n = some (c.reattached a) :=
  (Map.find_map (fun _ (c : Ctx) => c.reattached a) s.dev.ctxs n).trans (congrArg _ hc)

/-- An attachment without an outflow item ends (R354). -/
def Att.detached (x : Att) : Att := { x with token := none, detach := none, lapHeld := [], held := false, orphanLeft := 0 }

theorem State.detachEnd_of_idle {t : State} {a k : Nat} {r : ReplyTo} (hdetach : (t.dev.getAtt a).detach = some (r, k))
    (hctxs : t.dev.homedAt a = []) (hitems : (t.dev.getAtt a).items = []) :
    t.detachEnd a = (t.onDev fun d => d.modAtt a Att.detached).reply r 0 (leBytes 2 k) := by
  unfold State.detachEnd
  simp only [hdetach, hctxs, hitems, List.isEmpty_nil, and_self, if_true]
  rfl

theorem State.detach_of_idle (hfree : (s.dev.getAtt m.att).detach = none) (hctxs : s.dev.homedAt m.att = [])
    (hitems : (s.dev.getAtt m.att).items = []) :
    s.detach m = ((s.onDev fun d => d.modAtt m.att fun x => { x with detach := some (m.back, 0) }).onDev fun d =>
      d.modAtt m.att Att.detached).reply m.back 0 (leBytes 2 0) := by
  unfold State.detach
  simp only [hfree, hctxs, Option.isSome_none, Bool.false_eq_true, if_false, List.map_nil, List.foldl_nil, List.length_nil]
  refine State.detachEnd_of_idle ?_ hctxs ?_
  · rw [State.onDev_dev, Dev.getAtt_modAtt_self]
  · rw [State.onDev_dev, Dev.getAtt_modAtt_self]
    exact hitems

end

/-- Settles O17, by what each of the three messages makes of the attachment. -/
theorem attachmentMessages : Obligations.AttachmentMessages := by
  unfold Obligations.AttachmentMessages
  refine fun s mb m ht => ⟨fun hop hnew hiova hlo hhi hintr => ?attach, fun hop htoken hlost => ?reattach, fun hop hfree hctxs hitems => ?detach⟩
  case attach => exact answers_of_taken ht rfl (isOp_of_op hop) (State.attach_of_new hnew hiova hlo hhi hintr)
  case reattach =>
    exact ⟨_, _, answers_of_taken ht rfl (isOp_of_op hop) (State.reattach_of_token htoken hlost),
      (State.takeHead_only s mb).trans ((onlyDev_onDev _ _).trans (onlyDev_onDev _ _)), fun n c hc => State.reattached_getCtx _ _ hc,
      Dev.getAtt_modAtt_self _ _ _⟩
  case detach =>
    refine ⟨_, answers_of_taken ht rfl (isOp_of_op hop) (State.detach_of_idle hfree hctxs hitems),
      (State.takeHead_only s mb).trans ((onlyDev_onDev _ _).trans (onlyDev_onDev _ _)), ?_⟩
    rw [State.onDev_dev, Dev.getAtt_modAtt_self, State.onDev_dev, Dev.getAtt_modAtt_self]
    rfl

/-! ### Items of the outflow (R349, R350, R392). -/

theorem State.entryInterrupt_only (s : State) (a ctx ring : Nat) : OnlyDev s (s.entryInterrupt a ctx ring) := by
  unfold State.entryInterrupt
  split
  · exact onlyDev_onDev _ _
  · split
    · exact ⟨rfl, rfl, rfl, rfl, rfl⟩
    · dsimp only
      split
      · split <;> exact onlyDev_onDev _ _
      · exact onlyDev_onDev _ _

/-- What of an attachment is neither an interrupt nor the time of one is as before an interrupt for an entry. -/
theorem State.entryInterrupt_att {β : Type} (g : Att → β)
    (hg : ∀ x pba sent vecSent, g { x with pba := pba, sent := sent, vecSent := vecSent } = g x) (s : State) (a ctx ring : Nat) :
    g ((s.entryInterrupt a ctx ring).dev.getAtt a) = g (s.dev.getAtt a) := by
  have hvector (x : Att) (v : Nat) : g (x.vector v) = g x := by
    obtain ⟨p, l, h⟩ := x.vector_interrupted v
    rw [h]
    exact hg _ _ _ _
  have hsend (now v : Nat) : g ((s.onDev fun d => d.modAtt a fun x => x.entrySend now v).dev.getAtt a) = g (s.dev.getAtt a) := by
    rw [State.onDev_dev, Dev.getAtt_modAtt_self]
    exact (hg _ (Att.vector _ v).pba (Att.vector _ v).sent _).trans (hvector _ v)
  unfold State.entryInterrupt
  split
  · rw [State.onDev_dev, Dev.getAtt_modAtt_self]
    split
    · exact hvector _ _
    · rfl
  · split
    · rfl
    · dsimp only
      split
      · split
        · rfl
        · exact hsend _ _
      · exact hsend _ _

section
variable {s : State} {a : Nat}

theorem State.outflowAck_within {v : Nat} (hlo : (s.dev.getAtt a).ack ≤ v) (hhi : v ≤ (s.dev.getAtt a).osn) :
    s.outflowAck a v = s.onDev fun d => d.modAtt a fun x => { x with ack := v, unacked := x.unacked.filter fun i => v < i.1 } :=
  if_neg (by omega)

theorem State.outflowAck_beyond {v : Nat} (h : v < (s.dev.getAtt a).ack ∨ (s.dev.getAtt a).osn < v) :
    s.outflowAck a v = s.withStatus fun s => s.onDev fun d => d.modAtt a fun x => x.setStatus 13 := if_pos h

/-- The writes of an entry reach host memory. -/
def State.entryWritten (s : State) (a iova : Nat) (data : Bytes) : State :=
  s.onDev fun d => d.modAtt a fun x => { x with host := Mem.write x.host iova data }

/-- The first item, an entry, completes. -/
theorem State.itemComplete_entry {n iova ring pos : Nat} {data : Bytes} {rest : List Item}
    (hitems : (s.dev.getAtt a).items = .entry n iova data ring pos :: rest) (hheld : (s.dev.getAtt a).held = false)
    (hresend : (s.dev.getAtt a).resending = false) (hfull : (s.dev.getAtt a).full = false) (hup : (s.dev.getAtt a).dlActive = true) :
    s.itemComplete a .ok = ((s.entryWritten a iova data).onDev fun d => d.modAtt a fun x => x.complete (.entry n iova data ring pos)).entryInterrupt
      a n ring := by
  unfold State.itemComplete
  simp only [hitems, List.head?_cons, hheld, hresend, hfull, hup, Bool.false_eq_true, or_self, if_false, Bool.not_true]
  rfl

/-- The oldest entry that waited for the previous lap is issued. -/
theorem Att.ringWrite_acked {x : Att} {ring n iova pos osn : Nat} {data : Bytes} {rest : List (Nat × Item)}
    (hheld : x.lapHeld = (ring, .entry n iova data ring pos) :: rest) (hpos : Map.find (Map.get x.rings ring (0, [])).2 pos = some osn)
    (hack : osn ≤ x.ack) : x.ringWrite ring = { x with
      items := x.items ++ [.entry n iova data ring pos]
      lapHeld := rest
      rings := Map.put x.rings ring ((Map.get x.rings ring (0, [])).1, Map.del (Map.get x.rings ring (0, [])).2 pos) } := by
  unfold Att.ringWrite
  simp [hheld, hpos, hack]

/-- Contexts that wait for a vector at a moment wait no more. -/
def Ctx.sent (c : Ctx) (home v t : Nat) : Ctx := if c.home = home ∧ c.vector = v ∧ c.sendDue = some t then { c with sendDue := none } else c

theorem State.holdoffEnd_due {n t : Nat} {c : Ctx} (hc : s.dev.getCtx n = some c) (hdue : c.sendDue = some t) (ht : t ≤ s.time.fabric) :
    s.holdoffEnd n = (s.onDev fun d => d.modAtt c.home fun x => x.entrySend s.time.fabric c.vector).onDev fun d =>
      { d with ctxs := d.ctxs.map fun y => (y.1, y.2.sent c.home c.vector t) } := by
  unfold State.holdoffEnd
  simp only [hc, hdue, ht, if_true]
  rfl

theorem State.resend_entry {osn n iova ring pos : Nat} {data : Bytes} (hr : (s.dev.getAtt a).resending = true)
    (hone : (s.dev.getAtt a).unacked = [(osn, .entry n iova data ring pos)]) (hack : (s.dev.getAtt a).ack < osn) :
    s.resend a = (s.entryWritten a iova data).withStatus fun s => s.onDev fun d => d.modAtt a fun x =>
      { x.setStatus 14 with resending := false } := by
  unfold State.resend
  simp only [hr, hone, hack, decide_true, List.filter_cons, List.filter_nil, if_true, List.foldl_cons, List.foldl_nil, Bool.not_true,
    Bool.false_eq_true, if_false]
  rfl

end

/-- Settles O45, by what each event of the outflow makes of its attachment. -/
theorem outflow : Obligations.Outflow := by
  unfold Obligations.Outflow
  refine fun s a => ⟨fun hl hd v => ⟨fun hlo hhi => ?within, fun hout => ?beyond⟩,
    fun n iova data ring pos rest hitems hheld hresend hfull hup => ?item, fun ring n iova data pos rest osn hheld hpos hack => ?lap,
    fun n c t hc hdue ht => ?holdoff, fun osn n iova data ring pos hr hone hack => ?resend⟩
  case within =>
    exact ⟨_, congrArg Host.Outcome.next ((State.host_of_linked hl hd _).trans (State.outflowAck_within hlo hhi)), onlyDev_onDev _ _,
      Dev.getAtt_modAtt_self _ _ _⟩
  case beyond =>
    refine ⟨_, congrArg Host.Outcome.next ((State.host_of_linked hl hd _).trans (State.outflowAck_beyond hout)),
      State.withStatus_modAtt_onlyDev _ _ _, State.withStatus_modAtt_att Att.ack (fun _ _ _ => rfl) _ _ _,
      State.withStatus_modAtt_att Att.unacked (fun _ _ _ => rfl) _ _ _, ?_⟩
    rw [State.withStatus_modAtt_att Att.status fun _ _ _ => rfl]
    exact Att.setStatus_bit _ (by decide)
  case item =>
    refine ⟨_, congrArg Host.Outcome.next (State.itemComplete_entry hitems hheld hresend hfull hup),
      ((onlyDev_onDev _ _).trans (onlyDev_onDev _ _)).trans (State.entryInterrupt_only _ _ _ _), ?_, ?_, ?_, ?_⟩
    · rw [State.entryInterrupt_att Att.osn fun _ _ _ _ => rfl, State.onDev_dev, Dev.getAtt_modAtt_self, State.entryWritten, State.onDev_dev,
        Dev.getAtt_modAtt_self]
      rfl
    · rw [State.entryInterrupt_att Att.items fun _ _ _ _ => rfl, State.onDev_dev, Dev.getAtt_modAtt_self, State.entryWritten, State.onDev_dev,
        Dev.getAtt_modAtt_self]
      exact congrArg (List.drop 1) hitems
    · rw [State.entryInterrupt_att Att.unacked fun _ _ _ _ => rfl, State.onDev_dev, Dev.getAtt_modAtt_self, State.entryWritten, State.onDev_dev,
        Dev.getAtt_modAtt_self]
      rfl
    · rw [State.entryInterrupt_att Att.host fun _ _ _ _ => rfl, State.onDev_dev, Dev.getAtt_modAtt_self, State.entryWritten, State.onDev_dev,
        Dev.getAtt_modAtt_self]
      rfl
  case lap =>
    refine ⟨_, rfl, onlyDev_onDev _ _, ?_⟩
    rw [State.onDev_dev, Dev.getAtt_modAtt_self, Att.ringWrite_acked hheld hpos hack]
    exact ⟨rfl, rfl, rfl⟩
  case holdoff =>
    refine ⟨_, congrArg Host.Outcome.next (State.holdoffEnd_due hc hdue ht), (onlyDev_onDev _ _).trans (onlyDev_onDev _ _), fun m y hy => ?_,
      Dev.getAtt_modAtt_self s.dev c.home fun x => x.entrySend s.time.fabric c.vector⟩
    exact (Map.find_map (fun _ (y : Ctx) => y.sent c.home c.vector t) s.dev.ctxs m).trans (congrArg _ hy)
  case resend =>
    have hwritten : (s.entryWritten a.val iova data).dev.getAtt a.val =
        { s.dev.getAtt a.val with host := Mem.write (s.dev.getAtt a.val).host iova data } := Dev.getAtt_modAtt_self _ _ _
    refine ⟨_, congrArg Host.Outcome.next (State.resend_entry hr hone hack), (onlyDev_onDev _ _).trans (State.withStatus_modAtt_onlyDev _ _ _),
      State.withStatus_modAtt_att Att.resending (fun _ _ _ => rfl) _ _ _, ?_, ?_, ?_⟩
    · rw [State.withStatus_modAtt_att Att.osn fun _ _ _ => rfl, hwritten]
      rfl
    · rw [State.withStatus_modAtt_att Att.host fun _ _ _ => rfl, hwritten]
      rfl
    · rw [State.withStatus_modAtt_att Att.status fun _ _ _ => rfl]
      exact Att.setStatus_bit _ (by decide)

end Sys2Proof.Machine
end

section
/-!
PROOFS. The life of contexts (R365, R367, R374 to R377, R385): what creation and the stages of a teardown change, and O18.
-/

namespace Sys2Proof.Machine

/-! ### Creation (R365, R367, R385). -/

theorem Dev.freeCtx_unused {d : Dev} {n : Nat} (h : d.freeCtx = some n) : d.getCtx n = none := by
  obtain ⟨hfits, _⟩ := List.find?_eq_some_iff_append.1 h
  obtain ⟨hfree, _⟩ := Bool.and_eq_true_iff.1 hfits
  exact Option.isNone_iff_eq_none.1 hfree

/-- The context that a CTX_CREATE makes. -/
def State.newCtx (s : State) (m : MsgIn) (n : Nat) : Ctx := {
  pt := field m.b 16 1, gen := (Map.get s.dev.gens n 15 + 1) % 16, home := m.att, prio := field m.b 17 1, vector := field m.b 18 1
  quota := field m.b 20 4, engShare := field m.b 24 2, caddyShare := field m.b 26 2, holdoff := field m.b 28 2, recIova := field m.b 32 8
  recLog2 := field m.b 40 1, evtIova := field m.b 48 8, evtLog2 := field m.b 41 1, served := s.mgmt.fwVersion.toNat }

/-- The state with a new context. -/
def State.withCtx (s : State) (n : Nat) (c : Ctx) : State :=
  s.onDev fun d => { d with ctxs := Map.put d.ctxs n c, gens := Map.put d.gens n c.gen, ghosts := Map.del d.ghosts n }

/-- The state with a new context and clear rings of its own. -/
def State.created (s : State) (m : MsgIn) (n : Nat) : State :=
  (s.withCtx n (s.newCtx m n)).onDev fun d =>
    d.modAtt m.att fun x => { x with rings := Map.del (Map.del x.rings (2 * n + 1)) (2 * n + 2) }

theorem State.create_of_free {s : State} {m : MsgIn} {n : Nat} (hok : s.createRefusal m = none) (hn : s.dev.freeCtx = some n) :
    s.create m = (s.created m n).reply m.back 0 (leBytes 2 n ++ leBytes 1 (s.newCtx m n).gen) := by
  unfold State.create
  simp only [hok, hn]
  rfl

theorem State.created_getCtx (s : State) (m : MsgIn) (n k : Nat) :
    (s.created m n).dev.getCtx k = if n = k then some (s.newCtx m n) else s.dev.getCtx k := Map.find_put _ _ _ _

/-! ### Parts that stop (R168, R171). -/

/-- What stops with a part: no context, no byte, and no part has written more. -/
structure State.Halts (s t : State) : Prop where
  ctxs  : t.dev.ctxs = s.dev.ctxs
  bytes : t.mem.bytes = s.mem.bytes
  wrote : ∀ u q, t.dev.getPart u = some q → ∃ p, s.dev.getPart u = some p ∧ q.wrote = p.wrote

theorem State.Halts.refl (s : State) : s.Halts s := ⟨rfl, rfl, fun _ q hq => ⟨q, hq, rfl⟩⟩

theorem State.Halts.trans {s t u : State} (h : s.Halts t) (k : t.Halts u) : s.Halts u where
  ctxs := k.ctxs.trans h.ctxs
  bytes := k.bytes.trans h.bytes
  wrote v q hq := by
    obtain ⟨p, hp, hpq⟩ := k.wrote v q hq
    obtain ⟨r, hr, hrp⟩ := h.wrote v p hp
    exact ⟨r, hr, hpq.trans hrp⟩

theorem Dev.releasePart_wrote (d : Dev) (uid u : Nat) :
    ((d.releasePart uid).getPart u).map Part.wrote = (d.getPart u).map Part.wrote := by
  cases hp : d.getPart uid with
  | none =>
    unfold Dev.releasePart
    rw [hp]
  | some p =>
    unfold Dev.getPart
    rw [Dev.releasePart_parts hp, Map.find_mod]
    split
    · rw [Option.map_map]
      rfl
    · rfl

theorem State.stopPart_halts (s : State) (uid : Nat) (stage : PartStage) : s.Halts (s.stopPart uid stage) := by
  refine ⟨State.stopPart_ctxs s uid stage, State.stopPart_bytes s uid stage, fun u q hq => ?_⟩
  cases hp : s.dev.getPart uid with
  | none =>
    rw [State.stopPart_none hp] at hq
    exact ⟨q, hq, rfl⟩
  | some p =>
    rw [State.stopPart_eq hp, State.took_getPart, Dev.getPart_modPart] at hq
    have hwrote : (((s.dev.quieted p).releasePart uid).getPart u).map Part.wrote = (s.dev.getPart u).map Part.wrote := by
      rw [Dev.releasePart_wrote, Dev.getPart, Dev.quieted_parts]
      rfl
    have hsame : some q.wrote = (s.dev.getPart u).map Part.wrote := by
      rw [← hwrote]
      split at hq
      · obtain ⟨r, hr, rfl⟩ := Option.map_eq_some_iff.1 hq
        rw [hr]
        rfl
      · rw [hq]
        rfl
    obtain ⟨r, hr, hrq⟩ := Option.map_eq_some_iff.1 hsame.symm
    exact ⟨r, hr, hrq.symm⟩

theorem State.stopParts_halts (s : State) (l : List Nat) (stage : PartStage) : s.Halts (l.foldl (fun s u => s.stopPart u stage) s) :=
  foldl_keep (fun t => s.Halts t) _ (fun t u h => h.trans (t.stopPart_halts u stage)) l s (.refl s)

theorem State.Halts.partsOf {s t : State} (h : s.Halts t) {x : Cmd} (hw : ∀ p ∈ s.dev.partsOf x, p.2.wrote = []) :
    ∀ p ∈ t.dev.partsOf x, p.2.wrote = [] := by
  intro p hp
  obtain ⟨u, hu, hmap⟩ := List.mem_filterMap.1 hp
  obtain ⟨q, hq, rfl⟩ := Option.map_eq_some_iff.1 hmap
  obtain ⟨r, hr, hqr⟩ := h.wrote u q hq
  exact hqr.trans (hw (u, r) (List.mem_filterMap.2 ⟨u, hu, by rw [hr]; rfl⟩))

/-! ### The fault queue takes held records (R273). -/

/-- Contexts, parts, gates and memory are as before. -/
structure State.Queued (s t : State) : Prop where
  mem   : t.mem = s.mem
  ctxs  : t.dev.ctxs = s.dev.ctxs
  parts : t.dev.parts = s.dev.parts
  gates : t.dev.gates = s.dev.gates

theorem State.Queued.refl (s : State) : s.Queued s := ⟨rfl, rfl, rfl, rfl⟩

theorem State.Queued.trans {s t u : State} (h : s.Queued t) (k : t.Queued u) : s.Queued u :=
  ⟨k.mem.trans h.mem, k.ctxs.trans h.ctxs, k.parts.trans h.parts, k.gates.trans h.gates⟩

theorem State.queued_event (s : State) (n type cause seq : Nat) (payload : Bytes) : s.Queued (s.event n type cause seq payload) := by
  rcases State.event_cases s n type cause seq payload with h | ⟨a, g, f, h⟩ <;> rw [h]
  · exact .refl s
  · exact ⟨rfl, rfl, rfl, rfl⟩

theorem State.queued_enter (s : State) (pt : Nat) (r : FaultRec) : s.Queued (s.enter pt r) := by
  cases h : (s.dev.getPt pt).joins r with
  | true =>
    rw [State.enter_joins h]
    exact ⟨rfl, rfl, rfl, rfl⟩
  | false =>
    rw [State.enter_opens h]
    unfold State.openEntry
    dsimp only
    refine State.Queued.trans ?_ (State.queued_event _ _ _ _ _ _)
    exact ⟨rfl, rfl, rfl, rfl⟩

theorem State.queued_unhold (s : State) (pt : Nat) (r : FaultRec) : s.Queued (s.onDev fun d => d.unhold pt r) := by
  unfold State.onDev Dev.unhold
  split <;> exact ⟨rfl, rfl, rfl, rfl⟩

theorem State.queued_refill (s : State) (pt : Nat) : s.Queued (s.refill pt) := by
  have hfuel (fuel : Nat) (s : State) : s.Queued (s.refillN fuel pt) := by
    induction fuel generalizing s with
    | zero => exact .refl s
    | succ fuel ih =>
      unfold State.refillN
      split
      · exact ((s.queued_unhold pt _).trans (State.queued_enter _ pt _)).trans (ih _)
      · exact .refl s
  exact hfuel _ s

theorem State.queued_closeFaults (s : State) (pt n : Nat) : s.Queued (s.closeFaults pt n) :=
  State.Queued.trans (t := s.onDev fun d => d.modPt pt fun q => q.closeCtx n) ⟨rfl, rfl, rfl, rfl⟩ (State.queued_refill _ pt)

/-! ### The start of a teardown (R374, R375). -/

theorem State.replies_told {α : Type} (f : State → α → State) (hf : ∀ t x, ∃ l : List (ReplyTo × Nat × Bytes), f t x =
    l.foldl (fun t r => t.reply r.1 r.2.1 r.2.2) t) (l : List α) (s : State) : OnlyDev s (l.foldl f s) ∧ s.dev.Told (l.foldl f s).dev := by
  refine foldl_keep (fun t : State => OnlyDev s t ∧ s.dev.Told t.dev) f (fun t x h => ?_) l s ⟨⟨rfl, rfl, rfl, rfl, rfl⟩, .refl _⟩
  obtain ⟨k, hk⟩ := hf t x
  rw [hk]
  exact foldl_keep (fun t : State => OnlyDev s t ∧ s.dev.Told t.dev) _
    (fun t r h => ⟨h.1.trans (State.reply_only t _ _ _), h.2.trans (State.reply_told t _ _ _)⟩) k t h

/-- The range table of a context without the entries that wait for their removal. -/
def Ctx.dropUnmaps (c : Ctx) : Ctx := { c with ranges := c.ranges.filter fun r => r.unmap.isNone }

def Dev.dropUnmaps (d : Dev) (n : Nat) : Dev := d.modCtx n Ctx.dropUnmaps

/-- The replies of a teardown tell, but for the entries that it removes. -/
theorem State.teardownReplies_told (s : State) (n : Nat) (c : Ctx) :
    OnlyDev s (s.teardownReplies n c) ∧ ∃ e, s.dev.Told e ∧ (e.dropUnmaps n).Told (s.teardownReplies n c).dev := by
  obtain ⟨honly, htold⟩ := State.replies_told (fun (s : State) (x : Cmd) => x.abortTo.foldl (fun s r => s.reply r stAborted []) s)
    (fun t x => ⟨x.abortTo.map fun r => (r, stAborted, []), by rw [List.foldl_map]⟩) c.cmds s
  unfold State.teardownReplies
  dsimp only
  generalize c.cmds.foldl (fun (s : State) (x : Cmd) => x.abortTo.foldl (fun s r => s.reply r stAborted []) s) s = t at honly htold ⊢
  obtain ⟨honly', htold'⟩ := State.replies_told (fun (s : State) (k : Nat) => match (c.ranges.filterMap fun r => r.unmap)[k]? with
      | some (some back, _) => s.reply back 0 (leBytes 2 (c.ranges.length - (k + 1)))
      | _ => s) (fun t k => by
    split
    · exact ⟨[(_, _, _)], rfl⟩
    · exact ⟨[], rfl⟩) (List.range (c.ranges.filterMap fun r => r.unmap).length) (t.onDev fun d => d.dropUnmaps n)
  exact ⟨(honly.trans (onlyDev_onDev _ _)).trans honly', _, htold, htold'⟩

/-- The live parts of a context are stopped, what its commands would have written is undefined, and what waits is answered. -/
def State.stopped (s : State) (n : Nat) (c : Ctx) : State :=
  ((c.cmds.filter fun x => !x.state.ended).foldl (fun s x => s.freeOutputs n x)
    ((s.dev.livePartsOf n).foldl (fun s u => s.stopPart u .aborted) s)).teardownReplies n c

theorem State.stopped_bytes {s : State} {n : Nat} {c : Ctx} (h : ∀ x ∈ c.cmds, x.state.ended = false →
    outExtents x.desc = [] ∧ hostExtents x.desc = [] ∧ ∀ p ∈ s.dev.partsOf x, p.2.wrote = []) :
    (s.stopped n c).mem.bytes = s.mem.bytes := by
  have hhalts := s.stopParts_halts (s.dev.livePartsOf n) .aborted
  unfold State.stopped
  generalize (s.dev.livePartsOf n).foldl (fun s u => s.stopPart u .aborted) s = t at hhalts ⊢
  have hsame : (c.cmds.filter fun x => !x.state.ended).foldl (fun s x => s.freeOutputs n x) t = t := by
    refine List.foldlRecOn (motive := fun u => u = t) _ _ rfl fun u hu x hx => ?_
    obtain ⟨hmem, hopen⟩ := List.mem_filter.1 hx
    obtain ⟨hout, hhost, hwrote⟩ := h x hmem (by simpa using hopen)
    rw [hu, State.freeOutputs_none n hout hhost (hhalts.partsOf hwrote)]
  rw [hsame, (State.teardownReplies_told t n c).1.mem_eq, hhalts.bytes]

theorem State.stopped_ctx (s : State) (n : Nat) (c : Ctx) : ∃ w e : Dev, w.ctxs = s.dev.ctxs ∧ w.Told e ∧ (e.dropUnmaps n).Told (s.stopped n c).dev := by
  obtain ⟨_, e, htold, htold'⟩ := State.teardownReplies_told ((c.cmds.filter fun x => !x.state.ended).foldl (fun s x => s.freeOutputs n x)
    ((s.dev.livePartsOf n).foldl (fun s u => s.stopPart u .aborted) s)) n c
  refine ⟨_, e, ?_, htold, htold'⟩
  exact (State.spoiled_foldl (fun t x => State.spoiled_freeOutputs t n x) _ _).ctxs.trans (s.stopParts_halts _ _).ctxs

/-- A context as its teardown leaves it. -/
def Ctx.tornDown (c : Ctx) (back : Option ReplyTo) (removed stopped : Nat) : Ctx := { c with
  teardown := some (back, removed, stopped), cmds := [], ranges := [], pins := [], planPins := [], journal := []
  freed := [], heldGates := [], rollDue := none, inflowLost := [] }

/-- The ports of queue pairs that a teardown moves to Error count. -/
def Dev.countErrors (d : Dev) (ports : List Nat) : Dev :=
  ports.foldl (fun d p => d.modEPort p fun x => { x with counts := Map.addSat x.counts 12 1 max64 }) d

/-- What bears the tag of a context n is gone: queue pairs, items, gates, parts. -/
def Dev.dropTagged (d : Dev) (n gen : Nat) (mine : Nat → Bool) : Dev := { d with
  qps := d.qps.map fun q => if q.2.ctx = n ∧ q.2.gen = gen then (q.1, { q.2 with err := true, msgs := [] }) else q
  atts := d.atts.map fun a => (a.1, a.2.dropItems n mine false)
  gates := d.gates.filter fun g => g.2.owner ≠ n
  parts := d.parts.filter fun p => p.2.ctx ≠ n }

/-- The windows that a range table names stop counting it. -/
def Dev.unrefAll (d : Dev) (rs : List RangeRow) : Dev := rs.foldl (fun d r => d.unref r.entry) d

/-- What engines, objects and windows keep of a context is gone. -/
def Dev.dropKept (d : Dev) (n pt : Nat) : Dev :=
  let d : Dev := ((d.dropRetained n).dropCached n).disown pt n
  { d with atts := d.atts.map fun a => (a.1, if a.2.bound.any (fun b => b.1 = n) then { a.2 with bound := none } else a.2) }

/-- What the data path keeps of a context once its teardown has begun (R375). -/
def Dev.tear (d : Dev) (n : Nat) (c : Ctx) (ports : List Nat) (mine : Nat → Bool) (back : Option ReplyTo) (removed stopped : Nat) : Dev :=
  ((((d.countErrors ports).dropTagged n c.gen mine).unrefAll c.ranges).dropKept n c.pt).modCtx n fun c => c.tornDown back removed stopped

theorem Dev.countErrors_view {β : Type} (g : Dev → β) (hg : ∀ d x, g { d with eports := x } = g d) (d : Dev) (ports : List Nat) :
    g (d.countErrors ports) = g d := foldl_keep (fun e => g e = g d) _ (fun e _ h => (hg e _).trans h) ports d rfl

theorem Dev.unrefAll_view {β : Type} (g : Dev → β) (hg : ∀ d x, g { d with windows := x } = g d) (d : Dev) (rs : List RangeRow) :
    g (d.unrefAll rs) = g d := by
  refine foldl_keep (fun e => g e = g d) _ (fun e r h => Eq.trans ?_ h) rs d rfl
  unfold Dev.unref
  dsimp only
  split
  · rfl
  · split <;> exact hg _ _

section
variable (d : Dev) (n : Nat) (c : Ctx) (ports : List Nat) (mine : Nat → Bool) (back : Option ReplyTo) (removed stopped : Nat)

theorem Dev.tear_parts : (d.tear n c ports mine back removed stopped).parts = d.parts.filter fun p => p.2.ctx ≠ n := by
  refine (Dev.unrefAll_view Dev.parts (fun _ _ => rfl) _ _).trans ?_
  unfold Dev.dropTagged
  rw [Dev.countErrors_view Dev.parts fun _ _ => rfl]

theorem Dev.tear_gates : (d.tear n c ports mine back removed stopped).gates = d.gates.filter fun g => g.2.owner ≠ n := by
  refine (Dev.unrefAll_view Dev.gates (fun _ _ => rfl) _ _).trans ?_
  unfold Dev.dropTagged
  rw [Dev.countErrors_view Dev.gates fun _ _ => rfl]

theorem Dev.tear_getCtx (k : Nat) : (d.tear n c ports mine back removed stopped).getCtx k =
    if n = k then (d.getCtx k).map fun c => c.tornDown back removed stopped else d.getCtx k := by
  have hsame : ((((d.countErrors ports).dropTagged n c.gen mine).unrefAll c.ranges).dropKept n c.pt).getCtx k = d.getCtx k :=
    (Dev.unrefAll_view (fun e => e.getCtx k) (fun _ _ => rfl) _ _).trans
      (Dev.countErrors_view (fun e => e.getCtx k) (fun _ _ => rfl) d ports)
  unfold Dev.tear
  rw [Dev.getCtx_modCtx, hsame]

end

/-- The writes of a context that are on their way are discarded (R375). -/
def Memory.fence (m : Memory) (n gen : Nat) : Memory := { m with flight := m.flight.filter fun w => ¬ (w.ctx = n ∧ w.gen = gen) }

section
variable {s : State} {n : Nat} {c : Ctx}

theorem State.teardownBegin_begun (hc : s.dev.getCtx n = some c) (h : c.teardown ≠ none) (back : Option ReplyTo) : s.teardownBegin n back = s := by
  unfold State.teardownBegin
  simp only [hc, Option.isSome_iff_ne_none.2 h, if_true]

theorem State.teardownBegin_none (hc : s.dev.getCtx n = none) (back : Option ReplyTo) : s.teardownBegin n back = s := by
  unfold State.teardownBegin
  simp only [hc]

/-- A teardown that begins: stops, tears, fences, and closes the context's fault entries. -/
theorem State.teardownBegin_new (hc : s.dev.getCtx n = some c) (h : c.teardown = none) (back : Option ReplyTo) : ∃ ports mine removed stopped,
    s.teardownBegin n back = (((s.stopped n c).onDev fun d => d.tear n c ports mine back removed stopped).onMem fun m => m.fence n c.gen).closeFaults
      c.pt n := by
  refine ⟨((s.stopped n c).dev.qps.filter fun q => q.2.ctx = n && q.2.gen = c.gen && !q.2.err).map fun q => q.2.port,
    fun u => match s.dev.getPart u with | some p => p.ctx = n | none => false,
    (c.cmds.filter fun x => !x.state.ended && x.parts.isEmpty).length, (s.dev.livePartsOf n).length, ?_⟩
  unfold State.teardownBegin
  simp only [hc, h, Option.isSome_none, Bool.false_eq_true, if_false]
  rfl

end

/-! ### The end of a teardown (R374, R375). -/

theorem State.detachEnd_frame (s : State) (a : Nat) : (s.detachEnd a).mem = s.mem ∧ s.dev.Told (s.detachEnd a).dev := by
  unfold State.detachEnd
  dsimp only
  split
  · exact ⟨rfl, .refl _⟩
  · split
    · exact ⟨(State.reply_only _ _ _ _).mem_eq, (Dev.told_modAtt s.dev a Att.detached).trans (State.reply_told (s.onDev fun d =>
        d.modAtt a Att.detached) _ _ _)⟩
    · exact ⟨rfl, .refl _⟩

theorem State.fwDone_frame (s : State) : s.fwDone.mem = s.mem ∧ s.fwDone.dev = s.dev := by
  obtain ⟨g, h⟩ := s.fwDone_cases
  rw [h]
  exact ⟨rfl, rfl⟩

/-- A context that is gone; its mailbox keeps the replies. -/
def Dev.forgetCtx (d : Dev) (n home : Nat) (box : Mailbox) : Dev := { d with ctxs := Map.del d.ctxs n, ghosts := Map.put d.ghosts n (home, box) }

theorem State.teardownEnd_torn {s : State} {n : Nat} {c : Ctx} {x : Option ReplyTo × Nat × Nat} (hc : s.dev.getCtx n = some c)
    (h : c.teardown = some x) : ∃ (t : State) (box : Mailbox), (t = s ∨ ∃ r payload, t = s.reply r 0 payload) ∧
      s.teardownEnd n = ((t.onDev fun d => d.forgetCtx n c.home box).fwDone).detachEnd c.home := by
  obtain ⟨back, removed, stopped⟩ := x
  unfold State.teardownEnd
  simp only [hc, h]
  cases back with
  | none => exact ⟨s, _, .inl rfl, rfl⟩
  | some r => exact ⟨s.reply r 0 (leBytes 4 removed ++ leBytes 4 stopped), _, .inr ⟨_, _, rfl⟩, rfl⟩

theorem State.teardownEnd_gone {s : State} {n : Nat} {c : Ctx} (hc : s.dev.getCtx n = some c) (h : c.teardown ≠ none) :
    (s.teardownEnd n).dev.getCtx n = none ∧ (s.teardownEnd n).mem = s.mem := by
  obtain ⟨x, hx⟩ := Option.ne_none_iff_exists'.1 h
  obtain ⟨t, box, ht, heq⟩ := State.teardownEnd_torn hc hx
  have hmem : t.mem = s.mem := by
    rcases ht with rfl | ⟨r, payload, rfl⟩
    · rfl
    · exact (State.reply_only _ _ _ _).mem_eq
  obtain ⟨hdmem, hdtold⟩ := State.detachEnd_frame ((t.onDev fun d => d.forgetCtx n c.home box).fwDone) c.home
  obtain ⟨hfmem, hfdev⟩ := State.fwDone_frame (t.onDev fun d => d.forgetCtx n c.home box)
  rw [heq]
  refine ⟨?_, hdmem.trans (hfmem.trans hmem)⟩
  have hgone : ((t.onDev fun d => d.forgetCtx n c.home box).fwDone.dev).getCtx n = none := by
    rw [hfdev]
    exact (Map.find_del _ _ _).trans (if_pos rfl)
  exact Option.map_eq_none_iff.1 ((hdtold.ctx n).trans (congrArg _ hgone))

/-- Settles O18, by the context that a creation makes, by the stages in which a teardown begins, and by its end. -/
theorem contextLife : Obligations.ContextLife := by
  unfold Obligations.ContextLife
  refine ⟨fun s mb m n ht hop hok hn => ?create, fun s mb m c ht hop hc hnew => ?begin, fun s n c back a b hc htorn hitems => ?finish⟩
  case create =>
    exact ⟨_, _, answers_of_taken ht rfl (isOp_of_op hop) (State.create_of_free hok hn),
      (State.takeHead_only s mb).trans ((onlyDev_onDev _ _).trans (onlyDev_onDev _ _)), (State.created_getCtx _ m n n).trans (if_pos rfl),
      Dev.freeCtx_unused hn, fun k hk => (State.created_getCtx _ m n k).trans (if_neg (Ne.symm hk)), rfl, rfl, rfl, rfl, rfl, rfl, rfl, rfl, rfl,
      rfl, rfl, rfl, rfl, rfl⟩
  case begin =>
    generalize hu : s.takeHead mb = u at hc ⊢
    have hmem : u.mem = s.mem := hu ▸ (State.takeHead_only s mb).mem_eq
    obtain ⟨ports, mine, removed, stopped, heq⟩ := State.teardownBegin_new hc hnew (some m.back)
    obtain ⟨w, e, hw, htold, htold'⟩ := State.stopped_ctx u m.n c
    obtain ⟨d₁, hd₁, _⟩ := htold.getCtx (show w.getCtx m.n = some c by rw [Dev.getCtx, hw]; exact hc)
    obtain ⟨d₂, hd₂, _⟩ := htold'.getCtx (Dev.getCtx_modCtx_of_some hd₁ _)
    have hq := State.queued_closeFaults (((u.stopped m.n c).onDev fun d => d.tear m.n c ports mine (some m.back) removed stopped).onMem
      fun x => x.fence m.n c.gen) c.pt m.n
    refine ⟨_, d₂.tornDown (some m.back) removed stopped, removed, stopped,
      congrArg Host.Outcome.next ((message_taken ht (isOp_of_op hop) _).trans ((congrArg (fun v : State => v.teardownBegin m.n (some m.back)) hu).trans heq)),
      ?_, rfl, rfl, rfl, rfl, rfl, ?_, ?_, ?_, fun hnone => ?_⟩
    · rw [Dev.getCtx, hq.ctxs]
      refine (Dev.tear_getCtx (u.stopped m.n c).dev m.n c ports mine (some m.back) removed stopped m.n).trans ?_
      rw [if_pos rfl, hd₂, Option.map_some]
    · rw [hq.parts, State.onMem_dev, State.onDev_dev, Dev.tear_parts]
      exact fun p hp => of_decide_eq_true (List.mem_filter.1 hp).2
    · rw [hq.gates, State.onMem_dev, State.onDev_dev, Dev.tear_gates]
      exact fun p hp => of_decide_eq_true (List.mem_filter.1 hp).2
    · rw [hq.mem]
      exact fun w hw => of_decide_eq_true (List.mem_filter.1 hw).2
    · rw [hq.mem]
      exact (State.stopped_bytes hnone).trans (congrArg Memory.bytes hmem)
  case finish =>
    have hidle : ¬ ((s.dev.getAtt c.home).items.any fun i => match i with | .entry k _ _ _ _ => k = n.val | _ => false) = true := by
      simp [hitems]
    obtain ⟨hgone, hmem⟩ := State.teardownEnd_gone hc (by simp [htorn])
    refine ⟨_, congrArg Host.Outcome.next (?_ : _ = s.teardownEnd n.val), hgone, hmem⟩
    simp only [hc]
    exact if_neg hidle

end Sys2Proof.Machine
end

section
/-!
PROOFS. The life of a host's link (R334, R339, R355, R357): training, loss and the end of the orphan hold, and O46.
-/

namespace Sys2Proof.Machine

/-! ### What an attachment shows after replies and events. -/

section
variable {β : Type} (g : Att → β)

theorem Dev.modAtt_att {f : Att → Att} (hf : ∀ x, g (f x) = g x) (d : Dev) (b a : Nat) : g ((d.modAtt b f).getAtt a) = g (d.getAtt a) := by
  rw [Dev.getAtt_modAtt]
  split
  · exact hf _
  · rfl

theorem Att.vector_view (hg : ∀ x pba sent, g { x with pba := pba, sent := sent } = g x) (x : Att) (v : Nat) : g (x.vector v) = g x := by
  obtain ⟨p, l, h⟩ := x.vector_interrupted v
  rw [h, hg]

/-- What is neither a mailbox nor an interrupt is as before a reply. -/
theorem State.reply_att (hg : ∀ x mbox pba sent, g { x with mbox := mbox, pba := pba, sent := sent } = g x) (s : State) (r : ReplyTo)
    (status : Nat) (payload : Bytes) (a : Nat) : g ((s.reply r status payload).dev.getAtt a) = g (s.dev.getAtt a) := by
  have hput (d : Dev) (mb : Mb) (f : Mailbox → Mailbox) : g ((d.modMbox mb f).getAtt a) = g (d.getAtt a) := by
    unfold Dev.modMbox
    split
    · exact Dev.modAtt_att g (fun x => hg x _ x.pba x.sent) d _ a
    · split <;> rfl
    · rfl
  have hsend (d : Dev) (b : Nat) (c : Bool) (v : Nat) : g ((d.modAtt b fun x => if c then x.vector v else x).getAtt a) = g (d.getAtt a) := by
    refine Dev.modAtt_att g (fun x => ?_) d b a
    split
    · exact Att.vector_view g (fun x => hg x x.mbox) x v
    · rfl
  unfold State.reply
  dsimp only
  split
  · rfl
  · exact (hsend _ _ _ _).trans (hput _ _ _)
  · rw [State.onDev_dev]
    split
    · exact (hsend _ _ _ _).trans (hput _ _ _)
    · exact hput _ _ _

/-- What is not a ring is as before an event. -/
theorem State.event_att (hg : ∀ x rings items lapHeld, g { x with rings := rings, items := items, lapHeld := lapHeld } = g x) (s : State)
    (n type cause seq : Nat) (payload : Bytes) (a : Nat) : g ((s.event n type cause seq payload).dev.getAtt a) = g (s.dev.getAtt a) := by
  unfold State.event
  split
  · rfl
  · refine Dev.modAtt_att g (fun x => ?_) _ _ a
    unfold Att.post
    dsimp only
    split <;> exact hg _ _ _ _

end

/-! ### A loss of the link (R339, R355). -/

/-- The registers of an attachment whose link is down (R339). -/
def Att.lost (x : Att) : Att := { x with
  staging := none, dlActive := false, speed := 0, width := 0, flit := false, retrains := min max64 (x.retrains + 1)
  mask := 0, scratch := 0, winCtx := 0, winVa := 0, msix := ({} : Att).msix, status := x.status &&& ~~~0x7F04#64 }

/-- Its outflow is held, its hold runs, its window is unbound (R355). -/
def Att.onHold (x : Att) (left : Nat) : Att := { x with held := true, orphanLeft := left, bound := none }

/-- A context becomes orphaned. -/
def Ctx.orphan (c : Ctx) : Ctx := { c with state := .orphaned }

/-- The contexts of a list of numbers become orphaned. -/
def Dev.orphanAll (d : Dev) (l : List (Nat × Ctx)) : Dev := l.foldl (fun d c => d.modCtx c.1 Ctx.orphan) d

theorem Dev.orphanAll_getCtx {d : Dev} {l : List (Nat × Ctx)} {n : Nat} {c k : Ctx} (hn : (n, k) ∈ l) (hc : d.getCtx n = some c) :
    (d.orphanAll l).getCtx n = some c.orphan := by
  refine foldl_reaches (P := fun e : Dev => e.getCtx n = some c ∨ e.getCtx n = some c.orphan) (Q := fun e => e.getCtx n = some c.orphan)
    (a := (n, k)) (fun e x _ h => ?_) (fun e h => ?_) (fun e x h => ?_) hn (.inl hc)
  · rw [Dev.getCtx_modCtx]
    split
    · rcases h with h | h <;> rw [h] <;> exact .inr rfl
    · exact h
  · rcases h with h | h <;> exact Dev.getCtx_modCtx_of_some h Ctx.orphan
  · rw [Dev.getCtx_modCtx]
    split
    · rw [h]
      rfl
    · exact h

theorem Dev.orphanAll_atts (d : Dev) (l : List (Nat × Ctx)) : (d.orphanAll l).atts = d.atts :=
  foldl_keep (fun e : Dev => e.atts = d.atts) (fun e (c : Nat × Ctx) => e.modCtx c.1 Ctx.orphan) (fun _ _ h => h) l d rfl

/-- The active contexts of an attachment that no teardown has reached. -/
def Dev.servedAt (d : Dev) (a : Nat) : List (Nat × Ctx) := (d.homedAt a).filter fun c => c.2.state = .active && c.2.teardown.isNone

/-- The state of a lost attachment whose contexts are orphaned, with no event told. -/
def State.orphaned (s : State) (a left : Nat) : State :=
  (s.onDev fun d => d.modAtt a fun x => x.onHold left).onDev fun d => d.orphanAll ((s.dev.modAtt a fun x => x.onHold left).servedAt a)

theorem State.orphan_of_first {s : State} {a : Nat} (h : (s.dev.getAtt a).orphanLeft = 0) (cause : Nat) : ∃ l : List (Nat × Ctx),
    s.orphan a cause = l.foldl (fun s c => s.event c.1 4 cause 0 (leBytes 4 orphanHold)) (s.orphaned a orphanHold) := by
  refine ⟨(s.dev.modAtt a fun x => x.onHold orphanHold).servedAt a, ?_⟩
  unfold State.orphan
  simp only [h, if_true]
  rfl

theorem State.orphanEvents_frame (s : State) (l : List (Nat × Ctx)) :
    let t := l.foldl (fun s c => s.event c.1 4 0 0 (leBytes 4 orphanHold)) s
    t.mem = s.mem ∧ s.dev.Told t.dev :=
  foldl_keep (fun t : State => t.mem = s.mem ∧ s.dev.Told t.dev) _
    (fun t _ h => ⟨(State.event_mem_pow t _ _ _ _ _).1.trans h.1, h.2.trans (State.event_told t _ _ _ _ _)⟩) l s ⟨rfl, .refl _⟩

/-- The fields of an attachment that a loss of its link settles. -/
def Att.linkView (x : Att) : Bool × Bool × Option (Nat × Nat) × Nat × Option Word × Word × Option Mem × Nat :=
  (x.dlActive, x.held, x.bound, x.orphanLeft, x.token, x.scratch, x.staging, x.retrains)

theorem State.lose_of_down (s : State) {a : Nat} {kind : LossKind} (hk : kind = .dlDown ∨ kind = .linkDisable ∨ kind = .hotReset)
    (ht : (s.dev.getAtt a).token ≠ none) : s.lose a kind = (s.onDev fun d => d.modAtt a Att.lost).orphan a 0 := by
  have hsome : ((s.onDev fun d => d.modAtt a Att.lost).dev.getAtt a).token.isSome = true := by
    rw [State.onDev_dev, Dev.getAtt_modAtt_self]
    exact Option.isSome_iff_ne_none.2 ht
  rcases hk with rfl | rfl | rfl <;> exact if_pos hsome

section
variable {s : State} {a : Nat} (h : (s.dev.getAtt a).orphanLeft = 0)
include h

theorem State.lost_view : ((s.onDev fun d => d.modAtt a Att.lost).orphan a 0).mem = s.mem ∧
    (((s.onDev fun d => d.modAtt a Att.lost).orphan a 0).dev.getAtt a).linkView = ((s.dev.getAtt a).lost.onHold orphanHold).linkView := by
  have hlost : ((s.onDev fun d => d.modAtt a Att.lost).dev.getAtt a) = (s.dev.getAtt a).lost := Dev.getAtt_modAtt_self _ _ _
  obtain ⟨l, hl⟩ := State.orphan_of_first (show ((s.onDev fun d => d.modAtt a Att.lost).dev.getAtt a).orphanLeft = 0 by rw [hlost]; exact h) 0
  rw [hl]
  refine ⟨(State.orphanEvents_frame _ l).1, ?_⟩
  refine (foldl_keep (fun t : State => (t.dev.getAtt a).linkView =
    (((s.onDev fun d => d.modAtt a Att.lost).orphaned a orphanHold).dev.getAtt a).linkView) _ (fun t c ht => ?_) l _ rfl).trans ?_
  · exact (State.event_att Att.linkView (fun _ _ _ _ => rfl) t _ _ _ _ _ a).trans ht
  · unfold State.orphaned
    rw [State.onDev_dev, Dev.getAtt, Dev.orphanAll_atts]
    refine congrArg Att.linkView ((Dev.getAtt_modAtt_self _ _ _).trans ?_)
    rw [hlost]

theorem State.lost_getCtx {n : Nat} {c : Ctx} (hc : s.dev.getCtx n = some c) (hhome : c.home = a) (hactive : c.state = .active)
    (hnew : c.teardown = none) : ∃ d, ((s.onDev fun d => d.modAtt a Att.lost).orphan a 0).dev.getCtx n = some d ∧ d.untold = c.orphan.untold := by
  have hlost : ((s.onDev fun d => d.modAtt a Att.lost).dev.getAtt a) = (s.dev.getAtt a).lost := Dev.getAtt_modAtt_self _ _ _
  obtain ⟨l, hl⟩ := State.orphan_of_first (show ((s.onDev fun d => d.modAtt a Att.lost).dev.getAtt a).orphanLeft = 0 by rw [hlost]; exact h) 0
  rw [hl]
  refine (State.orphanEvents_frame _ l).2.getCtx ?_
  refine Dev.orphanAll_getCtx (k := c) ?_ hc
  exact List.mem_filter.2 ⟨List.mem_filter.2 ⟨Map.mem_of_find hc, decide_eq_true hhome⟩, by simp [hactive, hnew]⟩

end

/-! ### The end of the orphan hold (R357). -/

/-- No context comes back, and none that is left is in another stage of its teardown. -/
def Dev.Fewer (d e : Dev) : Prop := ∀ k c, e.getCtx k = some c → ∃ b, d.getCtx k = some b ∧ c.teardown = b.teardown

section
variable {d e f : Dev}

theorem Dev.Fewer.refl (d : Dev) : d.Fewer d := fun _ c hc => ⟨c, hc, rfl⟩

theorem Dev.Fewer.trans (h : d.Fewer e) (k : e.Fewer f) : d.Fewer f := fun n c hc => by
  obtain ⟨b, hb, hcb⟩ := k n c hc
  obtain ⟨a, ha, hba⟩ := h n b hb
  exact ⟨a, ha, hcb.trans hba⟩

theorem Dev.fewer_of_ctxs (h : e.ctxs = d.ctxs) : d.Fewer e := fun k c hc => ⟨c, by rw [← hc, Dev.getCtx, Dev.getCtx, h], rfl⟩

theorem Dev.Told.fewer (h : d.Told e) : d.Fewer e := fun k c hc => by
  have hk := h.view Ctx.teardown (fun _ => rfl) k
  rw [hc, Option.map_some, eq_comm, Option.map_eq_some_iff] at hk
  obtain ⟨b, hb, hbc⟩ := hk
  exact ⟨b, hb, hbc.symm⟩

theorem Dev.fewer_modCtx (d : Dev) (n : Nat) {g : Ctx → Ctx} (hg : ∀ c, (g c).teardown = c.teardown) : d.Fewer (d.modCtx n g) := fun k c hc => by
  rw [Dev.getCtx_modCtx] at hc
  split at hc
  · obtain ⟨b, hb, rfl⟩ := Option.map_eq_some_iff.1 hc
    exact ⟨b, hb, hg b⟩
  · exact ⟨c, hc, rfl⟩

theorem Dev.fewer_forgetCtx (d : Dev) (n home : Nat) (box : Mailbox) : d.Fewer (d.forgetCtx n home box) := fun k c hc => by
  have hdel := (Map.find_del d.ctxs n k).symm.trans hc
  split at hdel
  · cases hdel
  · exact ⟨c, hdel, rfl⟩

end

/-- A context is torn down, or gone. -/
def Dev.Torn (d : Dev) (n : Nat) : Prop := ∀ c, d.getCtx n = some c → c.teardown ≠ none

theorem Dev.Fewer.torn {d e : Dev} (h : d.Fewer e) {n : Nat} (hn : d.Torn n) : e.Torn n := fun c hc => by
  obtain ⟨b, hb, hcb⟩ := h n c hc
  exact hcb ▸ hn b hb

theorem Dev.Fewer.gone {d e : Dev} (h : d.Fewer e) {n : Nat} (hn : d.getCtx n = none) : e.getCtx n = none := by
  cases hc : e.getCtx n with
  | none => rfl
  | some c =>
    obtain ⟨b, hb, _⟩ := h n c hc
    rw [hn] at hb
    cases hb

theorem State.stopped_fewer (s : State) (n : Nat) (c : Ctx) : s.dev.Fewer (s.stopped n c).dev := by
  obtain ⟨w, e, hw, htold, htold'⟩ := s.stopped_ctx n c
  exact (((Dev.fewer_of_ctxs hw).trans htold.fewer).trans (Dev.fewer_modCtx e n (g := Ctx.dropUnmaps) fun _ => rfl)).trans htold'.fewer

/-- A teardown that begins brings its own context to its teardown, and no other out of one. -/
theorem State.teardownBegin_torn (s : State) (n : Nat) (back : Option ReplyTo) {k : Nat} (h : n = k ∨ s.dev.Torn k) :
    (s.teardownBegin n back).dev.Torn k := by
  cases hc : s.dev.getCtx n with
  | none =>
    rw [State.teardownBegin_none hc]
    rcases h with rfl | h
    · exact fun c hk => by rw [hc] at hk; cases hk
    · exact h
  | some c =>
    cases ht : c.teardown with
    | some x =>
      have hbegun : c.teardown ≠ none := by simp [ht]
      rw [State.teardownBegin_begun hc hbegun]
      rcases h with rfl | h
      · exact fun b hb => by rw [hc] at hb; obtain rfl := Option.some.inj hb; exact hbegun
      · exact h
    | none =>
      obtain ⟨ports, mine, removed, stopped, heq⟩ := State.teardownBegin_new hc ht back
      rw [heq]
      intro b hb
      rw [Dev.getCtx, (State.queued_closeFaults _ _ _).ctxs] at hb
      have hk := (Dev.tear_getCtx (s.stopped n c).dev n c ports mine back removed stopped k).symm.trans hb
      split at hk
      · obtain ⟨b', _, rfl⟩ := Option.map_eq_some_iff.1 hk
        exact Option.some_ne_none _
      · exact (s.stopped_fewer n c).torn (h.resolve_left ‹_›) b hk

theorem State.failPart_fewer (s : State) (uid status : Nat) : s.dev.Fewer (s.failPart uid status).dev := by
  rcases s.failPart_cases uid status with h | ⟨p, l, _, h⟩ <;> rw [h]
  · exact .refl _
  · refine (Dev.fewer_of_ctxs ?_).trans (Dev.fewer_modCtx _ p.ctx fun _ => rfl)
    exact (State.stopLives_frame _ l).1.trans (s.stopPart_ctxs uid _)

theorem State.failExports_fewer (s : State) (a : Nat) : s.dev.Fewer (s.failExports a).dev := by
  unfold State.failExports
  dsimp only
  exact foldl_keep (fun t : State => s.dev.Fewer t.dev) _ (fun t u h => h.trans (t.failPart_fewer u _)) _ _ (Dev.fewer_of_ctxs rfl)

/-- An attachment that has ended holds nothing. -/
def Att.ended (x : Att) : Prop := x.token = none ∧ x.held = false ∧ x.items = []

theorem State.reply_ended {s : State} {a : Nat} (h : (s.dev.getAtt a).ended) (r : ReplyTo) (status : Nat) (payload : Bytes) :
    ((s.reply r status payload).dev.getAtt a).ended := by
  rw [State.reply_att Att.ended fun _ _ _ _ => rfl]
  exact h

theorem State.detachEnd_ended {s : State} {a : Nat} (h : (s.dev.getAtt a).ended) (b : Nat) : ((s.detachEnd b).dev.getAtt a).ended := by
  unfold State.detachEnd
  dsimp only
  split
  · exact h
  · split
    · refine State.reply_ended ?_ _ _ _
      rw [State.onDev_dev, Dev.getAtt_modAtt]
      split
      · exact ⟨rfl, rfl, h.2.2⟩
      · exact h
    · exact h

/-- The end of a teardown brings no context and no item back, and its own context is gone. -/
theorem State.teardownEnd_frame (s : State) (n : Nat) : s.dev.Fewer (s.teardownEnd n).dev ∧
    (s.dev.Torn n → (s.teardownEnd n).dev.getCtx n = none) ∧ ∀ a, (s.dev.getAtt a).ended → ((s.teardownEnd n).dev.getAtt a).ended := by
  cases hc : s.dev.getCtx n with
  | none =>
    have hsame : s.teardownEnd n = s := by
      unfold State.teardownEnd
      simp only [hc]
    rw [hsame]
    exact ⟨.refl _, fun _ => hc, fun _ h => h⟩
  | some c =>
    cases ht : c.teardown with
    | none =>
      have hsame : s.teardownEnd n = s := by
        unfold State.teardownEnd
        simp only [hc, ht]
      rw [hsame]
      exact ⟨.refl _, fun h => absurd ht (h c hc), fun _ h => h⟩
    | some x =>
      obtain ⟨t, box, hreply, heq⟩ := State.teardownEnd_torn hc ht
      have htold : s.dev.Told t.dev := by
        rcases hreply with rfl | ⟨r, payload, rfl⟩
        · exact .refl _
        · exact State.reply_told _ _ _ _
      have hended (a : Nat) (h : (s.dev.getAtt a).ended) : (t.dev.getAtt a).ended := by
        rcases hreply with rfl | ⟨r, payload, rfl⟩
        · exact h
        · exact State.reply_ended h _ _ _
      have hdev := (State.fwDone_frame (t.onDev fun d => d.forgetCtx n c.home box)).2
      refine ⟨?_, fun h => (State.teardownEnd_gone hc (h c hc)).1, fun a h => ?_⟩
      · rw [heq]
        refine (htold.fewer.trans (Dev.fewer_forgetCtx t.dev n c.home box)).trans ?_
        exact (Dev.fewer_of_ctxs (congrArg Dev.ctxs hdev)).trans (State.detachEnd_frame _ _).2.fewer
      · rw [heq]
        refine State.detachEnd_ended ?_ _
        rw [hdev]
        exact hended a h

/-- The contexts of an attachment that are not active. -/
def Dev.lostAt (d : Dev) (a : Nat) : List Nat := ((d.homedAt a).filter fun c => c.2.state ≠ .active).map fun c => c.1

theorem Dev.mem_lostAt {d : Dev} {a n : Nat} {c : Ctx} (hc : d.getCtx n = some c) (hhome : c.home = a) (h : c.state ≠ .active) : n ∈ d.lostAt a :=
  List.mem_map.2 ⟨(n, c), List.mem_filter.2 ⟨List.mem_filter.2 ⟨Map.mem_of_find hc, decide_eq_true hhome⟩, decide_eq_true h⟩, rfl⟩

/-- The end of the orphan hold: the attachment holds nothing, and its lost contexts are gone. -/
theorem State.holdEnds_frame (s : State) (a : Nat) :
    ((s.holdEnds a).dev.getAtt a).ended ∧ ∀ n ∈ s.dev.lostAt a, (s.holdEnds a).dev.getCtx n = none := by
  unfold State.holdEnds
  dsimp only
  simp only [State.log_dev]
  constructor
  · refine foldl_keep (fun t : State => (t.dev.getAtt a).ended) _ (fun t n h => (t.teardownEnd_frame n).2.2 a h) _ _ ?_
    rw [State.onDev_dev, Dev.getAtt_modAtt_self]
    exact ⟨rfl, rfl, rfl⟩
  · intro n hn
    have htorn : ((s.dev.lostAt a).foldl (fun s n => s.teardownBegin n none) s).dev.Torn n :=
      foldl_reaches (P := fun _ => True) (Q := fun t : State => t.dev.Torn n)
        (f := fun (s : State) n => s.teardownBegin n none) (fun _ _ _ _ => trivial)
        (fun t _ => t.teardownBegin_torn n none (.inl rfl)) (fun t k h => t.teardownBegin_torn k none (.inr h)) hn trivial
    have hbefore := (State.failExports_fewer _ a).torn htorn
    refine foldl_reaches (P := fun t : State => t.dev.Torn n) (Q := fun t : State => t.dev.getCtx n = none)
      (fun t m _ h => (t.teardownEnd_frame m).1.torn h) (fun t h => (t.teardownEnd_frame n).2.1 h)
      (fun t m h => (t.teardownEnd_frame m).1.gone h) hn ?_
    exact (Dev.fewer_of_ctxs rfl).torn hbefore

/-- Settles O46, by what each event of a link makes of its attachment and of the contexts that have it as their home. -/
theorem linkLife : Obligations.LinkLife := by
  unfold Obligations.LinkLife
  refine fun s a => ⟨?perst, fun speed width hex hp hup hdown => ?train, fun hl hd ht h0 kind hk => ?loss, fun hheld ht h0 hd => ?expiry⟩
  case perst => exact ⟨_, rfl, onlyDev_onDev _ _, Dev.getAtt_modAtt_self _ _ _, fun b hb => (Dev.getAtt_modAtt _ _ _ _).trans (if_neg (Ne.symm hb))⟩
  case train =>
    have hgo : ¬ ((!attExists s.mgmt.split a.val) = true ∨ (!(s.dev.getAtt a.val).perst) = true ∨ (!true) = true ∨ s.pow.stage ≠ .up) := by
      simp [hex, hp, hup]
    refine ⟨_, congrArg Host.Outcome.next (if_neg hgo), onlyDev_onDev _ _, (Dev.getAtt_modAtt_self _ _ _).trans ?_⟩
    simp [hdown]
  case loss =>
    have hstep : exec (.attachmentLoss a kind) s = .next (State.notify s ((s.onDev fun d => d.modAtt a.val Att.lost).orphan a.val 0)) := by
      refine congrArg Host.Outcome.next ((if_pos hl).trans ?_)
      rw [State.awake_of_not_dormant hd, State.withStatus, s.lose_of_down hk ht]
    obtain ⟨hmem, hview⟩ := State.lost_view h0
    have hshown := (State.notify_att Att.linkView (fun _ _ _ => rfl) s ((s.onDev fun d => d.modAtt a.val Att.lost).orphan a.val 0) a.val).trans hview
    simp only [Att.linkView, Prod.mk.injEq] at hshown
    obtain ⟨hdl, hheld, hbound, hleft, htoken, hscratch, hstaging, hretrains⟩ := hshown
    refine ⟨_, hstep, (State.notify_mem _ _).trans hmem, hdl, hheld, hbound, hleft, htoken, hscratch, hstaging, hretrains, fun n c hc hhome hactive hnew => ?_⟩
    obtain ⟨d, hgot, huntold⟩ := State.lost_getCtx h0 hc hhome hactive hnew
    exact ⟨d, (State.notify_getCtx _ _ _).trans hgot, (congrArg Ctx.state huntold :), (congrArg Ctx.cmds huntold :),
      (congrArg Ctx.ranges huntold :)⟩
  case expiry =>
    have hstep : exec (.orphanHoldExpiry a) s = .next (s.holdEnds a.val) := by
      refine congrArg Host.Outcome.next ((if_pos ⟨hheld, Option.isSome_iff_ne_none.2 ht, h0⟩).trans ?_)
      rw [State.awake_of_not_dormant hd]
    obtain ⟨⟨htoken, hheld', hitems⟩, hgone⟩ := s.holdEnds_frame a.val
    exact ⟨_, hstep, htoken, hheld', hitems, fun n c hc hhome hlost => hgone n (Dev.mem_lostAt hc hhome hlost)⟩

end Sys2Proof.Machine
end

section
/-!
PROOFS. The Ethernet ports (R402 to R404, R410 to R413): O48.
-/

namespace Sys2Proof.Machine

/-! ### Counters of a port (R414). -/

theorem EPort.get_count_self (y : EPort) (row : Nat) : Map.get (y.count row 1).counts row 0 = min max64 (Map.get y.counts row 0 + 1) :=
  Map.get_put_self y.counts row (min max64 (Map.get y.counts row 0 + 1)) 0

theorem Dev.netCount_self (d : Dev) (p row n : Nat) : (d.netCount p row n).getEPort p = (d.getEPort p).count row n := Dev.getEPort_modEPort_self _ _ _

/-! ### Frames that the port answers (R404). -/

/-- What follows from a frame that a port answers, where it owns the address, or discards. -/
theorem State.answerFrame_frame (s : State) (p : Nat) (own : Bool) (kind : Nat) :
    let y := s.dev.getEPort p
    let u := s.answerFrame p own kind
    OnlyDev s u ∧ u.dev = { s.dev with eports := u.dev.eports } ∧ (own = true → u.dev.getEPort p = { y with lastTx := kind }) ∧
      (own = false → Map.get (u.dev.getEPort p).counts 2 0 = min max64 (Map.get y.counts 2 0 + 1) ∧ (u.dev.getEPort p).lastTx = y.lastTx) := by
  cases own with
  | true => exact ⟨onlyDev_onDev _ _, rfl, fun _ => Dev.getEPort_modEPort_self s.dev p fun x => { x with lastTx := kind }, fun h => absurd h (by decide)⟩
  | false =>
    refine ⟨onlyDev_onDev _ _, rfl, fun h => absurd h (by decide), fun _ => ?_⟩
    have hcount : (s.answerFrame p false kind).dev.getEPort p = (s.dev.getEPort p).count 2 1 := Dev.netCount_self _ _ _ _
    rw [hcount]
    exact ⟨EPort.get_count_self _ _, rfl⟩

/-! ### Congestion and flow control (R411 to R413). -/

theorem Qp.halve_fields (x : Qp) (now : Nat) :
    (x.halve now).cnpRecv = some now ∧ (x.halve now).rate = if passed x.halved now then max 1 (x.rate / 2) else x.rate := by
  unfold Qp.halve
  dsimp only
  split <;> exact ⟨rfl, rfl⟩

theorem EPort.setFill_fields (x : EPort) (fill : Nat) :
    (x.setFill fill true).fill = fill ∧ (6 * 2 ^ 20 < fill → (x.setFill fill true).pfcOut = true) ∧
      (fill < 4 * 2 ^ 20 → (x.setFill fill true).pfcOut = false) ∧
      (4 * 2 ^ 20 ≤ fill → fill ≤ 6 * 2 ^ 20 → (x.setFill fill true).pfcOut = x.pfcOut) := by
  unfold EPort.setFill
  dsimp only
  split
  case isTrue h =>
    obtain ⟨_, _, hhigh⟩ := h
    exact ⟨rfl, fun _ => rfl, fun _ => by omega, fun _ _ => by omega⟩
  case isFalse hno =>
    split
    case isTrue h =>
      obtain ⟨_, _, hlow⟩ := h
      exact ⟨rfl, fun _ => by omega, fun _ => rfl, fun _ _ => by omega⟩
    case isFalse hno' =>
      refine ⟨rfl, fun hhigh => ?_, fun hlow => ?_, fun _ _ => rfl⟩
      · cases hout : x.pfcOut with
        | true => rfl
        | false => exact absurd ⟨rfl, by simp [hout], hhigh⟩ hno
      · cases hout : x.pfcOut with
        | true => exact absurd ⟨rfl, hout, hlow⟩ hno'
        | false => rfl

/-- Settles O48, by what each frame and each event of a port changes. -/
theorem networkPorts : Obligations.NetworkPorts := by
  unfold Obligations.NetworkPorts
  refine fun s p => ⟨fun hup hfill => ⟨fun ip => ?arp, fun ip => ?solicitation, fun ip => ⟨?echo6, ?echo4⟩, ?discard, fun q x hq hport =>
    ⟨fun hdue => ?sent, ?received⟩, fun prio pause hpfc hprio => ?pfc⟩, fun q x hq hquiet hdue => ?raise, fun fill hup hpfc => ?fill, ?down,
    fun hip hstage hawake => ?up⟩
  case arp => exact ⟨_, congrArg Host.Outcome.next (State.frame_taken hup hfill _), s.answerFrame_frame p.val _ _⟩
  case solicitation => exact ⟨_, congrArg Host.Outcome.next (State.frame_taken hup hfill _), s.answerFrame_frame p.val _ _⟩
  case echo6 => exact ⟨_, congrArg Host.Outcome.next (State.frame_taken hup hfill _), s.answerFrame_frame p.val _ _⟩
  case echo4 => exact ⟨_, congrArg Host.Outcome.next (State.frame_taken hup hfill _), s.answerFrame_frame p.val _ _⟩
  case discard => exact ⟨_, congrArg Host.Outcome.next (State.frame_taken hup hfill _), s.answerFrame_frame p.val _ _⟩
  case sent =>
    rw [← hport] at hup hfill ⊢
    have hsend : s.dev.sendCnp q s.time.fabric =
        (s.dev.modQp q fun x => { x with cnpSent := some s.time.fabric }).netCount x.port 7 1 := by
      unfold Dev.sendCnp
      simp only [hq, hdue, if_true]
    refine ⟨_, congrArg Host.Outcome.next (State.packet_taken hq hup hfill _), onlyDev_onDev _ _, ?_, ?_⟩
    · rw [State.onDev_dev, hsend]
      exact Dev.getQp_modQp_self hq _
    · beta_reduce
      rw [State.onDev_dev, hsend, Dev.netCount_self]
      exact EPort.get_count_self (s.dev.getEPort x.port) 7
  case received =>
    rw [← hport] at hup hfill ⊢
    obtain ⟨hrecv, hrate⟩ := x.halve_fields s.time.fabric
    refine ⟨_, _, congrArg Host.Outcome.next (State.packet_taken hq hup hfill _), onlyDev_onDev _ _, Dev.getQp_modQp_self hq _, ?_, hrecv, hrate⟩
    beta_reduce
    rw [State.onDev_dev, Dev.netCount_self]
    exact EPort.get_count_self (s.dev.getEPort x.port) 8
  case pfc =>
    refine ⟨_, congrArg Host.Outcome.next (State.frame_taken hup hfill _), onlyDev_onDev _ _, ?_, ?_⟩
    · rw [State.onDev_dev, if_pos ⟨hpfc, hprio⟩, Dev.getEPort_modEPort_self]
      rfl
    · beta_reduce
      rw [State.onDev_dev, if_pos ⟨hpfc, hprio⟩, Dev.getEPort_modEPort_self]
      exact EPort.get_count_self (s.dev.getEPort p.val) 10
  case raise =>
    refine ⟨_, rfl, onlyDev_onDev _ _, (Dev.getQp_modQp_self hq _).trans (congrArg some ?_)⟩
    exact if_pos ⟨hquiet, hdue⟩
  case fill =>
    refine ⟨_, rfl, onlyDev_onDev _ _, ?_⟩
    rw [State.onDev_dev, Dev.getEPort_modEPort_self, if_pos hup, hpfc]
    exact EPort.setFill_fields _ fill
  case down =>
    refine ⟨_, rfl, onlyDev_onDev _ _, rfl, ?_⟩
    rw [State.onDev_dev, Dev.getEPort_modEPort_self]
    exact ⟨rfl, rfl⟩
  case up =>
    exact ⟨_, congrArg Host.Outcome.next (if_pos ⟨rfl, hip, hstage, by simp [hawake]⟩ : _ = _), onlyDev_onDev _ _,
      Dev.getEPort_modEPort_self _ _ _, rfl⟩

end Sys2Proof.Machine
end

section
/-!
PROOFS. Main power (R473, R474, R495): O55. Byolo starts with AUX_12V from its active slot only while fewer than three starts in a row have failed.
-/

namespace Sys2Proof.Machine

/-- Byolo as its flash may hold it without AUX_12V: three starts from the active slot have failed, and the other slot holds no acceptable image. -/
def failedStarts : Component := { image0 := some (0, 0, 0), ok1 := false, attempts := 3 }

/-- A module without power whose Byolo has failed to start three times. -/
def unstartable : State := { mgmt := { comps := [(2, failedStarts)] }, pow := { refclk := true } }

/-- Its active slot is acceptable. -/
theorem unstartable_accepts : (unstartable.mgmt.comp 2).accepts 2 (unstartable.mgmt.comp 2).active unstartable.mgmt.fuse = true := by decide

/-- Byolo does not start. -/
theorem unstartable_auxPresent : unstartable.auxPresent.mgmt.running = false := by decide

/-- Refutes O55: AUX_12V appears at a module whose Byolo has failed to start three times in a row from an acceptable active slot, and whose
other slot is not acceptable; R474 passes that slot over, and Byolo does not run, where the statement says that it does. -/
theorem not_mainPower : ¬ Obligations.MainPower := by
  unfold Obligations.MainPower
  rintro ⟨_, hdown⟩
  obtain ⟨_, _, _, _, _, haux⟩ := hdown unstartable
  obtain ⟨u, hu, _, _, _, hrun⟩ := haux rfl rfl rfl rfl unstartable_accepts
  have hsame : unstartable.auxPresent = u := Host.Outcome.next.inj hu
  rw [← hsame, unstartable_auxPresent] at hrun
  exact Bool.false_ne_true hrun

end Sys2Proof.Machine
end

section
/-!
PROOFS. What Byolo answers (R466 to R468, R471, R472, R478, R479): O59.
-/

namespace Sys2Proof.Machine

/-! ### Blocks of bytes. -/

/-- One of blocks of one length that stand one after another. -/
theorem sub_flatMap_block {w : Nat} {g : Nat → Bytes} (hg : ∀ i, (g i).length = w) {n i : Nat} (hi : i < n) :
    sub ((List.range n).flatMap g) (w * i) w = g i := by
  have hread := Mem.read_write_blocks hg [] 0 hi
  rw [Nat.zero_add] at hread
  rw [← hread]
  refine List.map_congr_left fun k hk => ?_
  have hk' := List.mem_range.1 hk
  have hin : w * i + k < w * n :=
    calc w * i + k < w * i + w := by omega
      _ = w * (i + 1) := rfl
      _ ≤ w * n := Nat.mul_le_mul_left w hi
  rw [Mem.get_write, if_pos ⟨Nat.zero_le _, by rw [length_flatMap_range hg]; omega⟩, Nat.sub_zero]

/-! ### Requests of the tray to a Byolo that runs. -/

section
variable {s : State} (hr : s.mgmt.running = true) (f : State → State)
include hr

theorem State.mctp_tray : s.mctp .tray f = f s := by simp [State.mctp, hr]

theorem State.vendor_tray : s.vendor .tray f = f s := by simp [State.vendor, State.mctp_tray hr, Mgmt.serves]

theorem State.spdm_tray {stage : Nat} (h : stage ≤ s.mgmt.spdmOf .tray) : s.spdm .tray stage f = f s := by
  simp [State.spdm, State.mctp_tray hr, Nat.not_lt.2 h]

/-- A vendor message of an attachment that is not the owner is refused (R467). -/
theorem State.vendor_stranger {a : Fin 8} (ho : s.mgmt.isOwner a.val = false) (hl : s.linked a.val = true) (hd : s.pow.dormant = false) :
    s.vendor (.att a) f = s.says vNotPermitted [] := by
  unfold State.vendor State.mctp
  simp [hr, State.host_of_linked hl hd, Mgmt.serves, ho]

end

/-! ### Logs and dumps (R471, R472). -/

theorem State.logRead_within (s : State) (first : Nat) {count : Nat} (h1 : 1 ≤ count) (h16 : count ≤ 16) :
    s.logRead first count = s.says 0 (((s.mgmt.log.filter fun r => first ≤ r.1).take count).flatMap fun r => r.2.bytes r.1) :=
  if_neg (by omega)

/-- The entry of a dump in a list of dumps. -/
def dumpEntry (d : Option Dump) : Bytes :=
  match d with
  | some d => leBytes 1 1 ++ leBytes 1 d.level ++ leBytes 4 d.seq
  | none => leBytes 6 0

theorem length_dumpEntry (d : Option Dump) : (dumpEntry d).length = 6 := by
  cases d <;> simp [dumpEntry, length_leBytes]

theorem State.dumpList_within (s : State) {t : Nat} (ht : t < 8) :
    s.dumpList t = s.says 0 ((List.range 32).flatMap fun k => dumpEntry (Map.find (s.dev.getTerr t).dumps k)) :=
  if_neg (by omega)

theorem State.dumpRead_summary {s : State} {t slot off : Nat} {d : Dump} (ht : t < 8) (hslot : slot < 32) (halign : off % 1024 = 0)
    (hoff : off < 4096) (hidle : s.recoveryOf t = none) (hd : Map.find (s.dev.getTerr t).dumps slot = some d) :
    s.dumpRead t slot off = s.says 0 ((List.range 1024).map fun i => d.summary.getD (off + i) 0) := by
  have hbytes : ((List.range 1024).map fun i => d.byte t (off + i)) = (List.range 1024).map fun i => d.summary.getD (off + i) 0 := by
    refine List.map_congr_left fun i hi => if_pos ?_
    have := List.mem_range.1 hi
    omega
  unfold State.dumpRead
  rw [if_neg (by omega), if_neg (by simp [hidle]), hd, ← hbytes]

theorem State.summaryRead_found {s : State} {slot idx : Nat} {b : Bytes} (hslot : slot < 2) (hidx : idx < 4)
    (hb : Map.find s.mgmt.summ slot = some b) : s.summaryRead slot idx = s.says 0 (sub b (1024 * idx) 1024) := by
  unfold State.summaryRead
  rw [if_neg (by omega), hb]

/-! ### Attestation (R466, R478, R479). -/

theorem State.algorithms_offered (s : State) (r : Requester) {asym hash : Nat} (ha : bit asym 2 = true) (hh : bit hash 5 = true) :
    s.algorithms r asym hash = (s.spdmTo r 3).says 0 (leBytes 4 4 ++ leBytes 4 32) := if_pos (by rw [ha, hh]; rfl)

theorem State.certificate_within {s : State} {off : Nat} (h : off < s.mgmt.chain.length) (len : Nat) :
    s.certificate 0 off len = s.says 0 (leBytes 2 (min len (s.mgmt.chain.length - off)) ++
      leBytes 2 (s.mgmt.chain.length - off - min len (s.mgmt.chain.length - off)) ++ sub s.mgmt.chain off (min len (s.mgmt.chain.length - off))) :=
  if_neg (by omega)

theorem State.certificate_beyond {s : State} {off : Nat} (h : ¬ off < s.mgmt.chain.length) (len : Nat) :
    s.certificate 0 off len = s.says eInvalid [] := if_pos (.inr (Nat.not_lt.1 h))

theorem State.challenge_slot0 (s : State) (nonce : Nat) : s.challenge 0 nonce =
    s.says 0 (digestBytes (sha s.mgmt.chain) ++ s.mgmt.sign (digestBytes (sha s.mgmt.chain) ++ leBytes 32 nonce)) :=
  if_neg fun h => h rfl

theorem State.measurements_block (s : State) {k : Nat} (h1 : 1 ≤ k) (h7 : k ≤ 7) :
    s.measurements k = s.says 0 (leBytes 1 1 ++ s.mgmt.block k ++ s.mgmt.sign (s.mgmt.block k)) :=
  (if_neg (by omega)).trans (if_pos h7)

/-! ### Sensors (R468). -/

theorem State.sensorRead_available {s : State} {id : Nat} {v : Int} (hex : sensorExists (id / 4096) (id / 256 % 16) (id % 256) = true)
    (hkind : id / 4096 ≠ 4) (hv : s.reading id = some v) : s.sensorRead id = s.says 0 (leBytes 1 0 ++ leBytes 8 (code 64 v)) := by
  unfold State.sensorRead
  rw [if_neg (by simp [hex]), if_neg hkind, hv]

/-- Settles O59: each request by its rule above. -/
theorem managementReads : Obligations.ManagementReads := by
  unfold Obligations.ManagementReads
  intro s hr tells moves m
  refine ⟨fun first count h1 h16 => ?log, fun first count hout => ?field, fun a ho hl hd => ⟨?service, fun t slot off => ?dump⟩, ?reasons,
    fun t ht => ?list, fun t slot off d ht hslot halign hoff hidle hd => ?read, fun slot idx b hslot hidx hb => ?summary, ?version,
    fun h => ?capabilities, fun asym hash h ha hh => ?algorithms, fun h => ⟨?digests, fun off len => ?certificate, fun nonce => ?challenge,
    fun k h1 h7 => ?measure⟩, fun r v hex hkind hv => ?sensor⟩
  case log => exact congrArg Host.Outcome.next ((State.vendor_tray hr _).trans (s.logRead_within first h1 h16))
  case field => exact congrArg Host.Outcome.next ((State.vendor_tray hr _).trans (if_pos hout))
  case service => exact congrArg Host.Outcome.next (State.vendor_stranger hr _ ho hl hd)
  case dump => exact congrArg Host.Outcome.next (State.vendor_stranger hr _ ho hl hd)
  case reasons => exact congrArg Host.Outcome.next (State.vendor_tray hr _)
  case list =>
    refine ⟨_, congrArg Host.Outcome.next ((State.vendor_tray hr _).trans (s.dumpList_within ht)), ?_, fun k hk => ?_⟩
    · exact length_flatMap_range (fun _ => length_dumpEntry _) 32
    · exact sub_flatMap_block (g := fun k => dumpEntry (Map.find (s.dev.getTerr t).dumps k)) (fun _ => length_dumpEntry _) hk
  case read => exact congrArg Host.Outcome.next ((State.vendor_tray hr _).trans (State.dumpRead_summary ht hslot halign hoff hidle hd))
  case summary => exact congrArg Host.Outcome.next ((State.vendor_tray hr _).trans (State.summaryRead_found hslot hidx hb))
  case version => exact congrArg Host.Outcome.next (State.spdm_tray hr _ (Nat.zero_le _))
  case capabilities => exact congrArg Host.Outcome.next (State.spdm_tray hr _ h)
  case algorithms => exact congrArg Host.Outcome.next ((State.spdm_tray hr _ h).trans (s.algorithms_offered .tray ha hh))
  case digests => exact congrArg Host.Outcome.next (State.spdm_tray hr _ h)
  case certificate =>
    dsimp only
    split
    case isTrue hoff => exact congrArg Host.Outcome.next ((State.spdm_tray hr _ h).trans (State.certificate_within hoff len))
    case isFalse hoff => exact congrArg Host.Outcome.next ((State.spdm_tray hr _ h).trans (State.certificate_beyond hoff len))
  case challenge => exact congrArg Host.Outcome.next ((State.spdm_tray hr _ h).trans (s.challenge_slot0 nonce))
  case measure => exact congrArg Host.Outcome.next ((State.spdm_tray hr _ h).trans (s.measurements_block h1 h7))
  case sensor => exact congrArg Host.Outcome.next ((State.mctp_tray hr _).trans (State.sensorRead_available hex hkind hv))

end Sys2Proof.Machine
end

section
/-!
PROOFS. Firmware: updates, activation, handover, the fuse count and restarts of Byolo (R465, R473, R475 to R477): O60.
-/

namespace Sys2Proof.Machine

/-! ### Components and their slots. -/

@[simp] theorem Mgmt.comp_modComp_self (m : Mgmt) (c : Nat) (f : Component → Component) : (m.modComp c f).comp c = f (m.comp c) :=
  Map.get_put_self _ _ _ _

theorem Mgmt.comp_modComp_other (m : Mgmt) {c k : Nat} (h : k ≠ c) (f : Component → Component) : (m.modComp c f).comp k = m.comp k :=
  (Map.get_put _ _ _ _ _).trans (if_neg (Ne.symm h))

/-- What a component holds once an image is written to its inactive slot (R475). -/
theorem Component.write_slots (x : Component) (img : Image) (fuse : Nat) (h : x.active < 2) :
    let y := x.write img
    let c := img.component
    y.active = x.active ∧ y.slot c (1 - x.active) = (img.version, img.svn, img.digest) ∧ y.slot c x.active = x.slot c x.active ∧
      (if x.active = 1 then y.valid0 else y.valid1) = false ∧
      y.accepts c (1 - x.active) fuse = (img.keyOk && img.sigOk && img.digestOk && decide (fuse ≤ img.svn) && decide (img.svn ≤ 64)) := by
  obtain h | h : x.active = 0 ∨ x.active = 1 := by omega
  · simp [Component.write, Component.mark, Component.slot, Component.accepts, h]
  · simp [Component.write, Component.mark, Component.slot, Component.accepts, h]

/-! ### Records and replies change the log and the reply alone. -/

/-- What looks neither at the log nor at a reply is as before a firmware record. -/
theorem State.fwRecord_view {β : Type} (g : Mgmt → β)
    (hg : ∀ (m : Mgmt) next resv log kept dropped,
      g { m with nextLog := next, resvEnd := resv, log := log, kept := kept, dropped := dropped } = g m)
    (s : State) (comp stage : Nat) (im : Word × Nat × Nat) : g (s.fwRecord comp stage im).mgmt = g s.mgmt :=
  State.log_view g hg _ _ _ _ _

theorem State.fwRecord_only (s : State) (comp stage : Nat) (im : Word × Nat × Nat) : OnlyMgmt s (s.fwRecord comp stage im) :=
  ⟨rfl, rfl, rfl, rfl, rfl⟩

theorem onlyMgmt_onMgmt (s : State) (f : Mgmt → Mgmt) : OnlyMgmt s (s.onMgmt f) := ⟨rfl, rfl, rfl, rfl, rfl⟩

theorem OnlyMgmt.trans {s t u : State} (h : OnlyMgmt s t) (k : OnlyMgmt t u) : OnlyMgmt s u := by
  obtain ⟨h1, h2, h3, h4, h5⟩ := h
  obtain ⟨k1, k2, k3, k4, k5⟩ := k
  exact ⟨k1.trans h1, k2.trans h2, k3.trans h3, k4.trans h4, k5.trans h5⟩

/-- No status interrupt comes of a state that is as it was. -/
theorem State.notify_self (s : State) : State.notify s s = s := by
  unfold State.notify State.onDev
  simp

/-! ### The update agent (R467, R475). -/

section
variable {s : State} (hr : s.mgmt.running = true)
include hr

theorem State.fwMessage_tray (f : State → State) : s.fwMessage .tray f = f s := by
  simp [State.fwMessage, State.mctp_tray hr, Mgmt.serves]

theorem State.updating_tray {u : Update} (hu : s.mgmt.update = some u) (hw : u.who = .tray) (f : Update → State → State) :
    s.fwMessage .tray (fun s => s.updating .tray f) = f u s := by
  rw [State.fwMessage_tray hr]
  simp [State.updating, hu, hw]

end

/-- The images that an update has written, with one more. -/
def Update.withImage (u : Update) (img : Image) : Update := { u with
  written := (u.written.filter fun i => i.component ≠ img.component) ++ [img], verified := u.verified.filter fun v => v ≠ img.component }

theorem State.updateComponent_listed (s : State) (u : Update) {img : Image} (h1 : 1 ≤ img.component) (h3 : img.component ≤ 3) :
    s.updateComponent u img = (s.onMgmt fun m => { m.modComp img.component fun x => x.write img with update := some (u.withImage img) }).says 0 [] :=
  if_neg (by omega)

/-- An update of which a component is verified. -/
def Update.withVerified (u : Update) (c : Nat) : Update := { u with verified := addOnce u.verified c }

section
variable {s : State} {u : Update} {c : Nat} (hw : (u.written.any fun i => i.component = c) = true)
include hw

theorem State.verify_accepted (h : (s.mgmt.comp c).accepts c (1 - (s.mgmt.comp c).active) s.mgmt.fuse = true) :
    s.verify u c = ((s.onMgmt fun m => { m.modComp c fun x => x.mark (1 - (s.mgmt.comp c).active) true with
      update := some (u.withVerified c) }).fwRecord c 0 ((s.mgmt.comp c).slot c (1 - (s.mgmt.comp c).active))).says 0 [] := by
  unfold State.verify
  rw [if_neg (by simp [hw])]
  exact if_pos h

theorem State.verify_refused (h : (s.mgmt.comp c).accepts c (1 - (s.mgmt.comp c).active) s.mgmt.fuse = false) :
    s.verify u c = (s.fwRecord c 3 ((s.mgmt.comp c).slot c (1 - (s.mgmt.comp c).active))).says 1 [] := by
  unfold State.verify
  rw [if_neg (by simp [hw])]
  exact if_neg (by simp [h])

end

/-! ### Activation (R475, R477, Table 20.10). -/

/-- The state once the images of an update are activated. -/
def State.activated (s : State) (c : Nat) (starts : Bool) : State := (s.activateOne c starts).onMgmt fun m => { m with update := none }

theorem has_singleton (c k : Nat) : has [c] k = decide (c = k) := by simp [has]

/-- An update of one component that is verified is activated (Table 20.10). -/
theorem State.activate_one {s : State} {u : Update} {img : Image} (hw : u.written = [img]) (hv : has u.verified img.component = true)
    (hold : img.component = 1 → s.mgmt.fwOld = none) (starts : Bool) : s.activate u starts =
      (let t := s.activated img.component starts
       let t := (if img.component = 1 then t.withStatus State.fwDone else t).says 0
         (leBytes 1 (if s.mgmt.needsReset [img.component] then 1 else 0))
       if img.component = 2 then t.stopByolo 0 false else t) := by
  have hnotLive : ¬ (img.component = 1 ∧ s.mgmt.fwOld.isSome = true) := fun h => by simp [hold h.1] at h
  unfold State.activate
  simp only [hw, hv, has_singleton, decide_eq_true_eq, List.map_cons, List.map_nil, List.isEmpty_cons, List.any_cons, List.any_nil,
    Bool.not_true, Bool.or_false, Bool.false_eq_true, or_self, if_false, hnotLive, List.foldl_cons, List.foldl_nil]
  rfl

section
variable (s : State) (starts : Bool)

/-- The slot of a component flips, or a Jormon image is judged, with nothing logged. -/
def State.switched (c : Nat) : State :=
  if c = 1 then s.activateJormon starts
  else if c = 3 then s.onMgmt fun m => { m.flip 3 with loaderOn := [] }
  else s.onMgmt fun m => m.flip 2

theorem State.activated_eq (c : Nat) : ∃ stage im, s.activated c starts =
    ((((s.switched starts c).onMgmt fun m => { m with stableAt := (s.switched starts c).kettle }).fwRecord c stage im).onMgmt fun m =>
      { m with update := none }) := ⟨_, _, rfl⟩

/-- Beyond the switch of its slot, an activation changes the management side alone. -/
theorem State.activated_only (c : Nat) : OnlyMgmt (s.switched starts c) (s.activated c starts) := by
  obtain ⟨stage, im, h⟩ := s.activated_eq starts c
  rw [h]
  exact ((onlyMgmt_onMgmt _ _).trans (State.fwRecord_only _ _ _ _)).trans (onlyMgmt_onMgmt _ _)

/-- What looks neither at the log, nor at the update, nor at the time of stability is as after the switch. -/
theorem State.activated_view {β : Type} (g : Mgmt → β)
    (hg : ∀ (m : Mgmt) next resv log kept dropped,
      g { m with nextLog := next, resvEnd := resv, log := log, kept := kept, dropped := dropped } = g m)
    (hu : ∀ (m : Mgmt) update, g { m with update := update } = g m) (ht : ∀ (m : Mgmt) t, g { m with stableAt := t } = g m) (c : Nat) :
    g (s.activated c starts).mgmt = g (s.switched starts c).mgmt := by
  obtain ⟨stage, im, h⟩ := s.activated_eq starts c
  rw [h, State.onMgmt_mgmt, hu, State.fwRecord_view g hg, State.onMgmt_mgmt, ht]

theorem State.activated_update (c : Nat) : (s.activated c starts).mgmt.update = none := by
  obtain ⟨stage, im, h⟩ := s.activated_eq starts c
  rw [h]
  rfl

end

/-- What looks neither at the log nor at an old version is as before the end of a live update. -/
theorem State.fwDone_view {β : Type} (g : Mgmt → β)
    (hg : ∀ (m : Mgmt) next resv log kept dropped,
      g { m with nextLog := next, resvEnd := resv, log := log, kept := kept, dropped := dropped } = g m)
    (ho : ∀ (m : Mgmt) old, g { m with fwOld := old } = g m) (s : State) : g s.fwDone.mgmt = g s.mgmt := by
  unfold State.fwDone
  split
  · rfl
  · split
    · rfl
    · rw [State.log_view g hg, State.onMgmt_mgmt, ho]

theorem State.fwDone_none {s : State} (h : s.mgmt.fwOld = none) : s.fwDone = s := by
  unfold State.fwDone
  rw [h]

/-- The version in the active slot of Jormon, and that in the other. -/
def Mgmt.jormonNow (m : Mgmt) : Word := (m.inForce 1).1
def Mgmt.jormonNext (m : Mgmt) : Word := ((m.comp 1).slot 1 (1 - (m.comp 1).active)).1

/-- A new Jormon takes over beside the old one (R477). -/
def State.takenOver (s : State) : State :=
  s.onMgmt fun m => { m.flip 1 with fwOld := some s.mgmt.jormonNow, fwOldDigest := (s.mgmt.inForce 1).2.2, fwVersion := s.mgmt.jormonNext }

section
variable {s : State}

theorem Mgmt.needsReset_jormon (m : Mgmt) : m.needsReset [1] = decide (major m.jormonNow ≠ major m.jormonNext) := by
  unfold Mgmt.needsReset
  exact Bool.true_and _

theorem State.activateJormon_live (h : major s.mgmt.jormonNow = major s.mgmt.jormonNext) (hd : s.pow.dormant = false) :
    s.activateJormon true = State.notify s s.takenOver := by
  refine (if_pos h).trans ((if_neg (by decide)).trans ?_)
  rw [State.awake_of_not_dormant hd]
  rfl

theorem State.activateJormon_failed (h : major s.mgmt.jormonNow = major s.mgmt.jormonNext) :
    s.activateJormon false = s.onMgmt fun m => m.modComp 1 fun x => x.mark (1 - x.active) false := (if_pos h).trans (if_pos rfl)

theorem State.activateJormon_later (h : major s.mgmt.jormonNow ≠ major s.mgmt.jormonNext) (starts : Bool) :
    s.activateJormon starts = s.onMgmt fun m => m.modComp 1 fun x => { x with later := true } := if_neg h

/-- The end of an activation of Jormon leaves memory and contexts, and no status bit rises where no live update runs. -/
theorem State.fwDoneStatus_frame (s : State) :
    (s.withStatus State.fwDone).mem = s.mem ∧ (s.withStatus State.fwDone).dev.ctxs = s.dev.ctxs ∧
      (s.withStatus State.fwDone).mgmt = s.fwDone.mgmt ∧ (s.mgmt.fwOld = none → s.withStatus State.fwDone = s) := by
  unfold State.withStatus
  refine ⟨s.fwDone_frame.1, ?_, State.notify_mgmt _ _, fun h => ?_⟩
  · rw [State.notify_view Dev.ctxs fun _ _ => rfl, s.fwDone_frame.2]
  · rw [State.fwDone_none h, State.notify_self]

end

/-! ### Handover, the fuse count and restarts (R465, R476, R477). -/

theorem State.handover_idle {s : State} {n : Nat} {c : Ctx} (hold : s.mgmt.fwOld ≠ none) (hc : s.dev.getCtx n = some c)
    (hserved : c.served ≠ s.mgmt.fwVersion.toNat) (hcmds : c.cmds = []) (hfaults : (s.dev.getPt c.pt).faults = []) :
    s.handover n = s.withStatus fun s => s.nowServed n := by
  unfold State.handover
  simp [hc, hserved, hcmds, hfaults, Option.isSome_iff_ne_none.2 hold]

theorem State.fuseRaise_due {s : State} (hr : s.mgmt.running = true) (hup : s.pow.stage = .up) (hold : s.mgmt.fwOld = none)
    (hstable : s.mgmt.stableAt + 2 ^ 30 ≤ s.kettle) (hlow : s.mgmt.fuse < min 64 s.mgmt.lowestSvn) : ∃ stage im,
    s.fuseRaise = (s.onMgmt fun m => { m with fuse := min 64 s.mgmt.lowestSvn }).fwRecord s.mgmt.lowestComp stage im :=
  ⟨_, _, if_pos ⟨hr, hup, by rw [hold]; rfl, hstable, hlow⟩⟩

/-- Restarts of Byolo that still count, of which the window is 2^27 kettle cycles. -/
def State.recentRestarts (s : State) : List Nat := s.mgmt.restarts.filter fun t => s.kettle < t + 2 ^ 27

section
variable {s : State} (hr : s.mgmt.running = true) (cause : Nat)
include hr

theorem State.restartByolo_again (h : s.recentRestarts.length < 3) : s.restartByolo cause =
    (s.onMgmt fun m => { m with restarts := s.recentRestarts ++ [s.kettle] }).stopByolo cause (s.recentRestarts.length = 2) := by
  unfold State.restartByolo
  rw [if_neg (by simp [hr])]
  exact if_neg (Nat.not_le.2 h)

theorem State.restartByolo_last (h : 3 ≤ s.recentRestarts.length) : s.restartByolo cause =
    ((s.onMgmt fun m => { m with restarts := s.recentRestarts ++ [s.kettle] }).onMgmt fun m =>
      { m with running := false, failed := true, update := none, spdm := [] }).onPow fun w => ({ w with alert := true } : Pow).setSp [7] := by
  unfold State.restartByolo
  rw [if_neg (by simp [hr])]
  exact if_pos h

end

/-- Settles O60: each message of an update, each activation, each handover and each restart by its rule above. -/
theorem firmwareUpdates : Obligations.FirmwareUpdates := by
  unfold Obligations.FirmwareUpdates
  refine fun s => ⟨fun hr hnone => ?request, fun hr hopen => ?busy, fun u hr hu hwho => ⟨?cancel, fun img h1 h3 hactive => ?write,
    fun c hw => ⟨fun hok => ?verified, fun hbad => ?refused⟩, fun img hw hv => ⟨fun hc starts => ?loader, fun hc starts => ?byolo,
    fun hc hold hd => ⟨fun hmajor => ?live, fun hmajor => ?failed, fun hmajor starts => ?later⟩⟩⟩,
    fun n c hold hc hserved hcmds hfaults => ?handover, fun hr hup hold hstable hlow => ?fuse, fun hr cause => ⟨fun h => ?restart, fun h => ?stop⟩⟩
  case request =>
    have hask : s.requestUpdate .tray = (s.onMgmt fun m => { m with update := some { who := .tray } }).says 0 [] := if_neg (by rw [hnone]; decide)
    exact ⟨_, congrArg Host.Outcome.next ((State.fwMessage_tray hr _).trans hask), ⟨rfl, rfl, rfl, rfl, rfl⟩, rfl, rfl⟩
  case busy =>
    have hask : s.requestUpdate .tray = s.says pInUpdate [] := if_pos (Option.isSome_iff_ne_none.2 hopen)
    exact ⟨_, congrArg Host.Outcome.next ((State.fwMessage_tray hr _).trans hask), ⟨rfl, rfl, rfl, rfl, rfl⟩, rfl, rfl⟩
  case cancel =>
    exact ⟨_, congrArg Host.Outcome.next (State.updating_tray hr hu hwho _), ⟨rfl, rfl, rfl, rfl, rfl⟩, rfl, rfl⟩
  case write =>
    refine ⟨_, congrArg Host.Outcome.next ((State.updating_tray hr hu hwho _).trans (s.updateComponent_listed u h1 h3)),
      ⟨rfl, rfl, rfl, rfl, rfl⟩, rfl, ?_, fun c hc => s.mgmt.comp_modComp_other hc fun x => x.write img⟩
    have hcomp : ((((s.onMgmt fun m => { m.modComp img.component fun x => x.write img with update := some (u.withImage img) }).says 0 []).mgmt).comp
        img.component) = (s.mgmt.comp img.component).write img := s.mgmt.comp_modComp_self _ fun x => x.write img
    rw [hcomp]
    exact Component.write_slots _ img s.mgmt.fuse hactive
  case verified =>
    refine ⟨_, u.withVerified c, congrArg Host.Outcome.next ((State.updating_tray hr hu hwho _).trans (State.verify_accepted hw hok)),
      ⟨rfl, rfl, rfl, rfl, rfl⟩, rfl, ?_, ?_, ?_⟩
    · refine (State.fwRecord_view (fun m => m.comp c) (fun _ _ _ _ _ _ => rfl) _ _ _ _).trans ?_
      exact s.mgmt.comp_modComp_self c fun x => x.mark (1 - (s.mgmt.comp c).active) true
    · exact State.fwRecord_view Mgmt.update (fun _ _ _ _ _ _ => rfl) _ _ _ _
    · simp [Update.withVerified, has_addOnce]
  case refused =>
    exact ⟨_, congrArg Host.Outcome.next ((State.updating_tray hr hu hwho _).trans (State.verify_refused hw hbad)), ⟨rfl, rfl, rfl, rfl, rfl⟩, rfl,
      State.fwRecord_view Mgmt.comps (fun _ _ _ _ _ _ => rfl) _ _ _ _, State.fwRecord_view Mgmt.update (fun _ _ _ _ _ _ => rfl) _ _ _ _⟩
  case loader =>
    have hact := State.activate_one (s := s) hw hv (fun h => by omega) starts
    simp only [hc, (by decide : ¬ 3 = 1), (by decide : ¬ 3 = 2), if_false] at hact
    refine ⟨_, congrArg Host.Outcome.next ((State.updating_tray hr hu hwho _).trans hact),
      ((onlyMgmt_onMgmt s _).trans (s.activated_only starts 3)).trans (onlyMgmt_onMgmt _ _), s.activated_update starts 3, ?_, ?_⟩
    · exact s.activated_view starts Mgmt.loaderOn (fun _ _ _ _ _ _ => rfl) (fun _ _ => rfl) (fun _ _ => rfl) 3
    · refine (s.activated_view starts (fun m => (m.comp 3).active) (fun _ _ _ _ _ _ => rfl) (fun _ _ => rfl) (fun _ _ => rfl) 3).trans ?_
      exact congrArg Component.active (s.mgmt.comp_modComp_self 3 fun x => { x with active := 1 - x.active, later := false })
  case byolo =>
    have hact := State.activate_one (s := s) hw hv (fun h => by omega) starts
    simp only [hc, (by decide : ¬ 2 = 1), if_false, if_true] at hact
    have honly : OnlyMgmt s (s.activated 2 starts) := (onlyMgmt_onMgmt s _).trans (s.activated_only starts 2)
    refine ⟨_, congrArg Host.Outcome.next ((State.updating_tray hr hu hwho _).trans hact),
      (honly.trans (onlyMgmt_onMgmt _ _)).trans (onlyMgmt_onMgmt _ _), rfl, rfl, ?_, ?_⟩
    · obtain ⟨_, htime, _⟩ := honly
      exact congrArg (fun t : Time => some (t.fabric / 1000, 0, false)) htime
    · refine (s.activated_view starts (fun m => (m.comp 2).active) (fun _ _ _ _ _ _ => rfl) (fun _ _ => rfl) (fun _ _ => rfl) 2).trans ?_
      exact congrArg Component.active (s.mgmt.comp_modComp_self 2 fun x => { x with active := 1 - x.active, later := false })
  case live =>
    have hact := State.activate_one (s := s) hw hv (fun _ => hold) true
    simp only [hc, (by decide : ¬ 1 = 2), if_false, if_true, Mgmt.needsReset_jormon] at hact
    obtain ⟨hmem, hctxs, hmgmt, _⟩ := (s.activated 1 true).fwDoneStatus_frame
    obtain ⟨_, _, hmem', hdev', _⟩ := s.activated_only true 1
    have hswitch : s.switched true 1 = State.notify s s.takenOver := State.activateJormon_live hmajor hd
    have hview {β : Type} (g : Mgmt → β)
        (hg : ∀ (m : Mgmt) next resv log kept dropped,
          g { m with nextLog := next, resvEnd := resv, log := log, kept := kept, dropped := dropped } = g m)
        (ho : ∀ (m : Mgmt) old, g { m with fwOld := old } = g m) (hu : ∀ (m : Mgmt) update, g { m with update := update } = g m)
        (ht : ∀ (m : Mgmt) t, g { m with stableAt := t } = g m) :
        g ((s.activated 1 true).withStatus State.fwDone).mgmt = g s.takenOver.mgmt := by
      rw [hmgmt, State.fwDone_view g hg ho, s.activated_view true g hg hu ht, hswitch, State.notify_mgmt]
    refine ⟨_, congrArg Host.Outcome.next ((State.updating_tray hr hu hwho _).trans hact), ?_, ?_, ?_, ?_, ?_⟩
    · exact hmem.trans (hmem'.trans (by rw [hswitch]; rfl))
    · refine hctxs.trans ((congrArg Dev.ctxs hdev').trans ?_)
      rw [hswitch, State.notify_view Dev.ctxs fun _ _ => rfl]
      rfl
    · exact hview Mgmt.fwVersion (fun _ _ _ _ _ _ => rfl) (fun _ _ => rfl) (fun _ _ => rfl) fun _ _ => rfl
    · refine (hview (fun m => (m.comp 1).active) (fun _ _ _ _ _ _ => rfl) (fun _ _ => rfl) (fun _ _ => rfl) fun _ _ => rfl).trans ?_
      exact congrArg Component.active (s.mgmt.comp_modComp_self 1 fun x => { x with active := 1 - x.active, later := false })
    · have hkeep : major s.mgmt.jormonNow = major s.mgmt.jormonNext := hmajor
      simp [State.says, hkeep]
  case failed =>
    have hact := State.activate_one (s := s) hw hv (fun _ => hold) false
    simp only [hc, (by decide : ¬ 1 = 2), if_false, if_true, Mgmt.needsReset_jormon] at hact
    have hswitch : s.switched false 1 = s.onMgmt fun m => m.modComp 1 fun x => x.mark (1 - x.active) false := State.activateJormon_failed hmajor
    have hview {β : Type} (g : Mgmt → β)
        (hg : ∀ (m : Mgmt) next resv log kept dropped,
          g { m with nextLog := next, resvEnd := resv, log := log, kept := kept, dropped := dropped } = g m)
        (hu : ∀ (m : Mgmt) update, g { m with update := update } = g m) (ht : ∀ (m : Mgmt) t, g { m with stableAt := t } = g m) :
        g (s.activated 1 false).mgmt = g (s.mgmt.modComp 1 fun x => x.mark (1 - x.active) false) := by
      rw [s.activated_view false g hg hu ht, hswitch, State.onMgmt_mgmt]
    have hstill : (s.activated 1 false).mgmt.fwOld = none :=
      (hview Mgmt.fwOld (fun _ _ _ _ _ _ => rfl) (fun _ _ => rfl) fun _ _ => rfl).trans hold
    obtain ⟨_, _, _, hsame⟩ := (s.activated 1 false).fwDoneStatus_frame
    rw [hsame hstill] at hact
    refine ⟨_, congrArg Host.Outcome.next ((State.updating_tray hr hu hwho _).trans hact), ?_, ?_, hstill, ?_, ?_⟩
    · have honly := s.activated_only false 1
      rw [hswitch] at honly
      exact ((onlyMgmt_onMgmt s _).trans honly).trans (onlyMgmt_onMgmt _ _)
    · exact hview Mgmt.fwVersion (fun _ _ _ _ _ _ => rfl) (fun _ _ => rfl) fun _ _ => rfl
    · refine (hview (fun m => m.comp 1) (fun _ _ _ _ _ _ => rfl) (fun _ _ => rfl) fun _ _ => rfl).trans ?_
      exact s.mgmt.comp_modComp_self 1 fun x => x.mark (1 - x.active) false
    · have hkeep : major s.mgmt.jormonNow = major s.mgmt.jormonNext := hmajor
      simp [State.says, hkeep]
  case later =>
    have hact := State.activate_one (s := s) hw hv (fun _ => hold) starts
    simp only [hc, (by decide : ¬ 1 = 2), if_false, if_true, Mgmt.needsReset_jormon] at hact
    have hswitch : s.switched starts 1 = s.onMgmt fun m => m.modComp 1 fun x => { x with later := true } :=
      State.activateJormon_later hmajor starts
    have hview {β : Type} (g : Mgmt → β)
        (hg : ∀ (m : Mgmt) next resv log kept dropped,
          g { m with nextLog := next, resvEnd := resv, log := log, kept := kept, dropped := dropped } = g m)
        (hu : ∀ (m : Mgmt) update, g { m with update := update } = g m) (ht : ∀ (m : Mgmt) t, g { m with stableAt := t } = g m) :
        g (s.activated 1 starts).mgmt = g (s.mgmt.modComp 1 fun x => { x with later := true }) := by
      rw [s.activated_view starts g hg hu ht, hswitch, State.onMgmt_mgmt]
    have hstill : (s.activated 1 starts).mgmt.fwOld = none :=
      (hview Mgmt.fwOld (fun _ _ _ _ _ _ => rfl) (fun _ _ => rfl) fun _ _ => rfl).trans hold
    have hcomp : (s.activated 1 starts).mgmt.comp 1 = { s.mgmt.comp 1 with later := true } :=
      (hview (fun m => m.comp 1) (fun _ _ _ _ _ _ => rfl) (fun _ _ => rfl) fun _ _ => rfl).trans
        (s.mgmt.comp_modComp_self 1 fun x => { x with later := true })
    obtain ⟨_, _, _, hsame⟩ := (s.activated 1 starts).fwDoneStatus_frame
    rw [hsame hstill] at hact
    obtain ⟨_, _, hmem, hdev, _⟩ := s.activated_only starts 1
    refine ⟨_, congrArg Host.Outcome.next ((State.updating_tray hr hu hwho _).trans hact), ?_, ?_, ?_, ?_, ?_, ?_⟩
    · exact hmem.trans (by rw [hswitch]; rfl)
    · exact (congrArg Dev.ctxs hdev).trans (by rw [hswitch]; rfl)
    · exact hview Mgmt.fwVersion (fun _ _ _ _ _ _ => rfl) (fun _ _ => rfl) fun _ _ => rfl
    · exact (congrArg Component.active hcomp :)
    · exact (congrArg Component.later hcomp :)
    · have hchange : major s.mgmt.jormonNow ≠ major s.mgmt.jormonNext := hmajor
      simp [State.says, hchange]
  case handover =>
    refine ⟨_, congrArg Host.Outcome.next (State.handover_idle hold hc hserved hcmds hfaults), ?_, ?_, ?_⟩
    · exact (State.notify_mem _ _).trans (State.fwDone_frame _).1
    · exact (congrArg Mgmt.fwVersion (State.notify_mgmt _ _)).trans
        (State.fwDone_view Mgmt.fwVersion (fun _ _ _ _ _ _ => rfl) (fun _ _ => rfl) _)
    · refine (State.notify_getCtx _ _ _).trans ((congrArg (fun d : Dev => d.getCtx n.val) (State.fwDone_frame _).2).trans ?_)
      exact Dev.getCtx_modCtx_of_some hc _
  case fuse =>
    obtain ⟨stage, im, hraise⟩ := State.fuseRaise_due hr hup hold hstable hlow
    refine ⟨_, congrArg Host.Outcome.next hraise, (onlyMgmt_onMgmt s _).trans (State.fwRecord_only _ _ _ _), ?_, ?_⟩
    · exact State.fwRecord_view Mgmt.fuse (fun _ _ _ _ _ _ => rfl) _ _ _ _
    · exact State.fwRecord_view Mgmt.comps (fun _ _ _ _ _ _ => rfl) _ _ _ _
  case restart =>
    exact ⟨_, congrArg Host.Outcome.next (State.restartByolo_again hr (cause % 256) h), ⟨rfl, rfl, rfl, rfl, rfl⟩, rfl, rfl, rfl⟩
  case stop =>
    refine ⟨_, congrArg Host.Outcome.next (State.restartByolo_last hr (cause % 256) h), rfl, rfl, rfl, rfl, rfl, ?_⟩
    exact (Pow.setSp_bit { s.pow with alert := true } [7] (by decide)).trans (by simp [has])

end Sys2Proof.Machine
end

section
/-!
PROOFS. What a rollback leaves of a data path without work (R176, R177, R275, R449): no part, no queue pair and no write on its way appears,
and the recovery that runs goes on as it was.
-/

namespace Sys2Proof.Machine

/-! ### A data path without work. -/

/-- No part and no queue pair; the flag says whether Jormon takes messages. -/
def Dev.Emptied (b : Bool) (d : Dev) : Prop := d.parts = [] ∧ d.qps = [] ∧ d.ready = b

section
variable {b : Bool} {d : Dev}

theorem Dev.emptied_foldl {α : Type} {f : Dev → α → Dev} (hf : ∀ d a, Dev.Emptied b d → Dev.Emptied b (f d a)) (l : List α)
    (h : d.Emptied b) : (l.foldl f d).Emptied b := foldl_keep (Dev.Emptied b) f hf l d h

theorem Dev.emptied_ite {c : Prop} [Decidable c] {e : Dev} (hd : d.Emptied b) (he : e.Emptied b) : (if c then d else e).Emptied b := by
  split
  · exact hd
  · exact he

variable (h : d.Emptied b)
include h

theorem Dev.emptied_signal (n g inc : Nat) : (d.signal n g inc).Emptied b := by
  unfold Dev.signal
  split
  · split
    · exact h
    · split <;> exact h
  · exact h

theorem Dev.emptied_record (n : Nat) (bs : Bytes) : (d.record n bs).Emptied b := by
  unfold Dev.record
  split <;> exact h

theorem Dev.emptied_dropParts (x : Cmd) : (d.dropParts x).Emptied b := by
  obtain ⟨hparts, hqps, hready⟩ := h
  exact ⟨by rw [Dev.dropParts, hparts]; rfl, hqps, hready⟩

theorem Dev.emptied_freeDue (n : Nat) : (d.freeDue n).Emptied b := by
  unfold Dev.freeDue
  split
  · exact h
  · exact (Dev.emptied_foldl (f := fun d (g : Nat × Nat × Nat × Nat) => d.freeGates n g.1 g.2.1 g.2.2.1) (fun _ _ hd => hd) _ h :)

theorem Dev.emptied_endCmd (n seq : Nat) (fin : CmdState) (detail : Bytes) : (d.endCmd n seq fin detail).Emptied b := by
  unfold Dev.endCmd
  split
  · exact h
  rename_i x _
  have hsignal : (if fin = .completed ∨ x.flag 2 = true then (d.modCmd n seq fun y => y.endAs fin).signalAll n x.signals
      else d.modCmd n seq fun y => y.endAs fin).Emptied b := Dev.emptied_ite (Dev.emptied_foldl (fun _ _ hd => Dev.emptied_signal hd _ _ _) _ h) h
  have hrecord := fun bs => Dev.emptied_ite (c := x.again = true ∨ fin = .completed ∧ x.flag 3 = true) hsignal (Dev.emptied_record hsignal n bs)
  refine Dev.emptied_freeDue (Dev.emptied_dropParts ?_ x) n
  cases fin with
  | failed st =>
    exact Dev.emptied_ite (hrecord _) (Dev.emptied_foldl (fun _ _ hd => Dev.emptied_record hd n _) _ (hrecord _))
  | _ => exact hrecord _

theorem Dev.emptied_stepLost (n : Nat) (x : Cmd) : (d.stepLost n x).Emptied b :=
  Dev.emptied_ite h (Dev.emptied_ite h (Dev.emptied_endCmd h _ _ _ _))

theorem Dev.emptied_modMbox (mb : Mb) (f : Mailbox → Mailbox) : (d.modMbox mb f).Emptied b := by
  unfold Dev.modMbox
  split
  · exact h
  · split <;> exact h
  · exact h

theorem Dev.emptied_markDirty (pa : Nat) : (d.markDirty pa).Emptied b := by
  unfold Dev.markDirty
  split <;> exact h

theorem Dev.emptied_unhold (pt : Nat) (r : FaultRec) : (d.unhold pt r).Emptied b := by
  unfold Dev.unhold
  split <;> exact h

/-- Windows, ranges and the range caches are all that a restored range table touches. -/
theorem Dev.emptied_restoreRanges {e : Dev} {n : Nat} {c : Ctx} (he : d.restoreRanges n c = some e) : e.Emptied b := by
  obtain ⟨hparts, hqps, hready⟩ := h
  unfold Dev.restoreRanges at he
  obtain ⟨w, _, rfl⟩ := Option.map_eq_some_iff.1 he
  exact ⟨(Dev.unrefAll_view Dev.parts (fun _ _ => rfl) d c.ranges).trans hparts,
    (Dev.unrefAll_view Dev.qps (fun _ _ => rfl) d c.ranges).trans hqps,
    (Dev.unrefAll_view Dev.ready (fun _ _ => rfl) d c.ranges).trans hready⟩

theorem Dev.Emptied.getPart (u : Nat) : d.getPart u = none := by rw [Dev.getPart, h.1]; rfl

theorem Dev.Emptied.livePartsOf (n : Nat) : d.livePartsOf n = [] := by rw [Dev.livePartsOf, h.1]; rfl

end

/-! ### A device without work. -/

/-- The L3 that runs, whether it is held, and the resets so far. -/
def Mgmt.recovery (m : Mgmt) : Option Nat × Bool × Nat := (m.l3Since, m.l3Held, m.resets)

/-- Whether a device is dormant, and its recovery. -/
abbrev Phase : Type := Bool × Option Nat × Bool × Nat

def State.phase (s : State) : Phase := (s.pow.dormant, s.mgmt.recovery)

/-- A device without work, in a phase w. -/
structure State.Emptied (w : Phase) (b : Bool) (s : State) : Prop where
  dev : s.dev.Emptied b
  flight : s.mem.flight = []
  phase : s.phase = w

theorem State.log_phase (s : State) (type : Nat) (att ctx : Option Nat) (data : Bytes) : (s.log type att ctx data).phase = s.phase :=
  congrArg (Prod.mk s.pow.dormant) (State.log_view Mgmt.recovery (fun _ _ _ _ _ _ => rfl) s type att ctx data)

section
variable {w : Phase} {b : Bool} {s : State}

theorem State.emptied_foldl {α : Type} {f : State → α → State} (hf : ∀ t a, State.Emptied w b t → State.Emptied w b (f t a)) (l : List α)
    (h : s.Emptied w b) : (l.foldl f s).Emptied w b := foldl_keep (State.Emptied w b) f hf l s h

theorem State.Emptied.onDev (h : s.Emptied w b) {f : Dev → Dev} (hf : (f s.dev).Emptied b) : (s.onDev f).Emptied w b := { h with dev := hf }

variable (h : s.Emptied w b)
include h

theorem State.emptied_log (type : Nat) (att ctx : Option Nat) (data : Bytes) : (s.log type att ctx data).Emptied w b :=
  { h with dev := h.dev, phase := (s.log_phase type att ctx data).trans h.phase }

theorem State.emptied_event (n type cause seq : Nat) (payload : Bytes) : (s.event n type cause seq payload).Emptied w b := by
  unfold State.event
  split
  · exact h
  · exact (State.emptied_log h _ _ _ _).onDev h.dev

theorem State.emptied_attEvent (a type cause : Nat) (payload : Bytes) : (s.attEvent a type cause payload).Emptied w b := by
  unfold State.attEvent
  exact (State.emptied_log h _ _ _ _).onDev h.dev

theorem State.emptied_reply (back : ReplyTo) (status : Nat) (payload : Bytes) : (s.reply back status payload).Emptied w b := by
  have hbox := Dev.emptied_modMbox h.dev back.mb
  unfold State.reply
  dsimp only
  split
  · obtain ⟨hparts, hqps, hready⟩ := h.dev
    exact h.onDev ⟨hparts, by rw [Dev.modQp, hqps]; rfl, hready⟩
  · exact h.onDev (hbox _)
  · refine h.onDev ?_
    split
    · exact hbox _
    · exact hbox _

theorem State.emptied_fwDone : s.fwDone.Emptied w b := by
  unfold State.fwDone
  split
  · exact h
  · split
    · exact h
    · exact State.emptied_log (s := s.onMgmt fun g => { g with fwOld := none }) { h with phase := h.phase } _ _ _ _

/-! ### The fault queue (R268, R271, R273). -/

theorem State.emptied_enter (pt : Nat) (x : FaultRec) : (s.enter pt x).Emptied w b := by
  unfold State.enter
  split
  · exact h.onDev h.dev
  · exact State.emptied_event (h.onDev h.dev) _ _ _ _ _

theorem State.emptied_refill (pt : Nat) : (s.refill pt).Emptied w b := by
  have hfuel (fuel : Nat) (t : State) (ht : t.Emptied w b) : (t.refillN fuel pt).Emptied w b := by
    induction fuel generalizing t with
    | zero => exact ht
    | succ fuel ih =>
      unfold State.refillN
      split
      · exact ih _ (State.emptied_enter (ht.onDev (Dev.emptied_unhold ht.dev _ _)) _ _)
      · exact ht
  exact hfuel _ s h

theorem State.emptied_closeFaults (pt n : Nat) : (s.closeFaults pt n).Emptied w b := State.emptied_refill (h.onDev h.dev) pt

theorem State.emptied_queueFault (pt n seq va access cause : Nat) : (s.queueFault pt n seq va access cause).Emptied w b := by
  unfold State.queueFault
  dsimp only
  split
  · exact State.emptied_enter (h.onDev h.dev) _ _
  · exact (h.onDev (f := fun d => { d with serial := d.serial + 1 }) h.dev).onDev h.dev

/-! ### Scratch that becomes undefined (R229). -/

theorem State.emptied_homeWrite (line : Nat) (mask : BitVec 128) (data : Bytes) : (s.homeWrite line mask data).Emptied w b := by
  obtain ⟨y, p, c, x, hw⟩ := s.homeWrite_cases line mask data
  rw [hw]
  exact { h with dev := h.dev, flight := h.flight, phase := h.phase }

theorem State.emptied_writePa (a : Nat) (bs : Bytes) : (s.writePa a bs).Emptied w b :=
  State.emptied_foldl (fun _ _ ht => State.emptied_homeWrite ht _ _ _) _ h

theorem State.emptied_freeExtent (n : Nat) (x : Nat × Nat) : (s.freeExtent n x).Emptied w b := by
  refine State.emptied_foldl (fun t va ht => ?_) _ h
  have hput (pa : Nat) (bs : Bytes) (k : Nat) : (((t.writePa pa bs).onDev fun d => d.markDirty pa).took k).Emptied w b := by
    have hmark := Dev.emptied_markDirty (State.emptied_writePa ht pa bs).dev pa
    exact ((State.emptied_writePa ht pa bs).onDev (f := fun d => d.markDirty pa) hmark).onDev hmark
  split
  · exact ht
  · split
    · exact ht
    · dsimp only
      split
      · exact hput _ _ _
      · exact ht

theorem State.emptied_freeLine (key l : Nat) (mask : BitVec 128) : (s.freeLine key l mask).Emptied w b := by
  have htook {t : State} (ht : t.Emptied w b) : (t.took 128).Emptied w b := ht.onDev ht.dev
  unfold State.freeLine
  refine htook ?_
  have hhome : (match s.dev.keyLine key l with
      | some line => s.homeWrite line mask ((List.range 128).map fun i => Config.freeByte (s.dev.free + i))
      | none => s).Emptied w b := by
    split
    · exact State.emptied_homeWrite h _ _ _
    · exact h
  dsimp only
  split
  · exact hhome
  · split
    · split
      · exact hhome
      · exact hhome.onDev hhome.dev
    · exact hhome

theorem State.emptied_freeWrote (m : List (Nat × List (Nat × BitVec 128))) : (s.freeWrote m).Emptied w b :=
  State.emptied_foldl (fun _ k ht => State.emptied_foldl (fun _ _ hu => State.emptied_freeLine hu _ _ _) k.2 ht) m h

theorem State.emptied_freeScratch (n : Nat) (c : Ctx) : (s.freeScratch n c).Emptied w b := by
  have hw := State.emptied_freeWrote (State.emptied_foldl (f := fun s (x : Cmd) => (outExtents x.desc).foldl (fun s e => s.freeExtent n e) s)
    (fun _ x ht => State.emptied_foldl (fun _ _ hu => State.emptied_freeExtent hu _ _) (outExtents x.desc) ht)
    (c.cmds.filter fun x => !x.state.waiting) h) (c.dirtied.filter fun k => k.1 % 2 = 0)
  unfold State.freeScratch
  exact hw.onDev hw.dev

/-! ### The steps of a rollback (R449). -/

theorem State.emptied_settleAborts (n : Nat) (c : Ctx) : (s.settleAborts n c).Emptied w b :=
  State.emptied_foldl (fun _ x ht => State.emptied_foldl (fun _ _ hu => State.emptied_reply hu _ _ _) x.abortTo
    (ht.onDev (Dev.emptied_endCmd ht.dev _ _ _ _))) _ h

theorem State.emptied_stopWork (n : Nat) : (s.stopWork n).Emptied w b := by
  unfold State.stopWork
  rw [h.dev.livePartsOf n]
  obtain ⟨hparts, hqps, hready⟩ := h.dev
  exact h.onDev ⟨by show s.dev.parts.filter _ = []; rw [hparts]; rfl, hqps, hready⟩

theorem State.emptied_discardStep (n : Nat) (c : Ctx) (cause : RbCause) : (s.discardStep n c cause).Emptied w b := by
  have hw := State.emptied_freeScratch h n c
  have hkept : ((s.freeScratch n c).onDev fun d => ((d.disown c.pt n).dropRetained n).modCtx n fun c =>
    { c with planPins := [], rollDue := none, freeLater := [] }).Emptied w b := hw.onDev hw.dev
  unfold State.discardStep
  cases cause with
  | partitionReset => exact State.emptied_closeFaults hkept _ _
  | deviceReset => exact State.emptied_closeFaults hkept _ _
  | poison => exact State.emptied_refill (hkept.onDev hkept.dev) _
  | engineLost => exact State.emptied_refill (hkept.onDev hkept.dev) _

theorem State.emptied_answerOwed (n : Nat) (owed : List (Nat × ReplyTo)) : (s.answerOwed n owed).Emptied w b :=
  State.emptied_foldl (fun _ _ ht => State.emptied_reply ht _ _ _) _ h

theorem State.emptied_rolledBack (n : Nat) (cause : RbCause) (entries first : Nat) : (s.rolledBack n cause entries first).Emptied w b := by
  have he := State.emptied_event h n 3 (rbCode cause) 0 (leBytes 4 entries ++ leBytes 4 first)
  exact he.onDev he.dev

theorem State.emptied_nowServed (n : Nat) : (s.nowServed n).Emptied w b := State.emptied_fwDone (h.onDev h.dev)

theorem State.emptied_notMade (n : Nat) (c : Ctx) (cause : RbCause) : (s.notMade n c cause).Emptied w b := by
  have hlost := Dev.emptied_freeDue (Dev.emptied_foldl (fun _ x hd => Dev.emptied_stepLost hd n x) c.cmds h.dev) n
  have hdiscard := State.emptied_discardStep (h.onDev (f := fun d => (c.cmds.foldl (fun d x => d.stepLost n x) d).freeDue n) hlost) n c cause
  exact State.emptied_nowServed (State.emptied_rolledBack (hdiscard.onDev hdiscard.dev) n cause 0 0) n

end

/-! ### The replay (R177, R275). -/

theorem State.emptied_requeue {w : Phase} {b : Bool} {s t : State} {n seq : Nat} (h : s.Emptied w b) (ht : s.requeue n seq = some t) :
    t.Emptied w b := by
  unfold State.requeue at ht
  split at ht
  · cases ht
    exact h
  split at ht
  · cases ht
    exact h
  split at ht
  · cases ht
    exact h
  split at ht
  · extract_lets was at ht
    clear_value was
    split at ht
    · rw [← Option.some.inj ht]
      have hagain (f : Cmd → Cmd) : (s.dev.modCmd n seq f).Emptied b := h.dev
      exact h.onDev (Dev.emptied_endCmd (hagain _) _ _ _ _)
    · cases ht
  · extract_lets y s1 at ht
    have h1 : s1.Emptied w b := h.onDev h.dev
    split at ht
    · rw [← Option.some.inj ht]
      exact State.emptied_queueFault h1 _ _ _ _ _ _
    · split at ht
      · rw [← Option.some.inj ht]
        exact h1
      · rw [← Option.some.inj ht]
        exact State.emptied_queueFault (h1.onDev h1.dev) _ _ _ _ _ _

theorem State.emptied_mapEntries {w : Phase} {b : Bool} {s t : State} {n : Nat} {c : Ctx} {es : List RangeEntry} (h : s.Emptied w b)
    (ht : s.mapEntries n c es = .ok t) : t.Emptied w b := by
  unfold State.mapEntries at ht
  dsimp only at ht
  split at ht
  · cases ht
  · split at ht
    · cases ht
    · split at ht
      · cases ht
      · cases ht
        exact h.onDev h.dev

theorem State.emptied_replay {w : Phase} {b : Bool} {n : Nat} {owed : List (Nat × ReplyTo)} {t : State} (l : List JEntry) :
    ∀ {s : State}, s.Emptied w b → s.replay n l owed = some t → t.Emptied w b := by
  induction l with
  | nil =>
    intro s h ht
    cases ht
    exact h
  | cons e l ih =>
    intro s h ht
    unfold State.replay at ht
    split at ht
    · cases ht
      exact h
    extract_lets q at ht
    cases hq : q with
    | none => simp [hq] at ht
    | some u =>
      rw [hq] at ht
      refine ih ?_ ht
      unfold q at hq
      split at hq
      · exact State.emptied_requeue h hq
      · split at hq
        · rename_i hm
          cases hq
          exact State.emptied_mapEntries h hm
        · cases hq
      · cases hq
        exact h.onDev h.dev
      · cases hq
        exact h.onDev h.dev
      · cases hq
        have hlater (f : Ctx → Ctx) : (s.dev.modCtx n f).Emptied b := h.dev
        exact h.onDev (Dev.emptied_freeDue (hlater _) n)

/-- A rollback finds no work and brings none. -/
theorem State.emptied_rollback {w : Phase} {b : Bool} {s : State} (h : s.Emptied w b) (n : Nat) (cause : RbCause) (imageOk : Bool) :
    (s.rollback n cause imageOk).Emptied w b := by
  unfold State.rollback
  split
  · exact h
  rename_i c0 _
  split
  · exact h
  extract_lets s1
  have h1 : s1.Emptied w b := State.emptied_settleAborts (State.emptied_stopWork h n) n c0
  clear_value s1
  split
  · exact h1
  rename_i c _
  split
  · exact State.emptied_notMade h1 n c cause
  extract_lets s2
  have h2 : s2.Emptied w b := State.emptied_discardStep h1 n c cause
  clear_value s2
  split
  · exact State.emptied_notMade h1 n c cause
  rename_i d hd
  extract_lets s3
  have hranges := Dev.emptied_restoreRanges h2.dev hd
  have h3 : s3.Emptied w b := { h2 with dev := hranges }
  clear_value s3
  split
  · exact State.emptied_notMade h1 n c cause
  rename_i s4 hr
  have h4 := State.emptied_replay _ h3 hr
  extract_lets s5
  refine State.emptied_nowServed (State.emptied_rolledBack (State.emptied_answerOwed ?_ n c.owed) n cause _ _) n
  unfold s5
  split
  · exact h4
  · exact h4.onDev (Dev.emptied_foldl (fun _ x hd => Dev.emptied_stepLost hd n x) _ h4.dev)

theorem State.emptied_rollAll {w : Phase} {b : Bool} {s : State} (h : s.Emptied w b) (who : List Nat) (cause : RbCause) (bad : List Nat) :
    (s.rollAll who cause bad).Emptied w b := State.emptied_foldl (fun _ n ht => State.emptied_rollback ht n cause _) who h

end Sys2Proof.Machine
end

section
/-!
PROOFS. Device reset, power removal and Jormon cores (R455, R456, R459, R460, R462, R480, R499): O58.
-/

namespace Sys2Proof.Machine

/-! ### Stop, dump and self-refresh (R455 steps 1 to 3). -/

theorem State.phase_congr {s t : State} (hpow : t.pow = s.pow) (hmgmt : t.mgmt = s.mgmt) : t.phase = s.phase := by
  rw [State.phase, State.phase, hpow, hmgmt]

theorem State.dump_phase (s : State) (ts : List Nat) (level cause part trig scope : Nat) : (s.dump ts level cause part trig scope).phase = s.phase := by
  unfold State.dump
  exact State.log_phase _ _ _ _ _

/-- Recovery goes on as it was, and no write is on its way. -/
theorem State.quiesce_frame (s : State) : s.quiesce.phase = s.phase ∧ s.quiesce.mem.flight = [] := by
  have hdrains : ((List.range 96).foldl (fun s c => s.drain c) s).phase = s.phase :=
    foldl_keep (fun t : State => t.phase = s.phase) _
      (fun t c h => (State.phase_congr (t.drain_pow c) (t.drain_mgmt c)).trans h) _ s rfl
  unfold State.quiesce
  generalize (List.range 96).foldl (fun s c => s.drain c) s = t at hdrains
  have hback : t.writeBackCores.phase = t.phase :=
    State.phase_congr t.writtenBack_writeBackCores.pow t.writtenBack_writeBackCores.mgmt
  exact ⟨((State.dump_phase _ _ _ _ _ _ _).trans hback).trans hdrains, rfl⟩

/-! ### Dies come out of reset (R455 steps 4 to 7). -/

theorem Dev.emptied_resetDies (d : Dev) (badWays : List (EngId × Fin 8)) : (d.resetDies badWays).Emptied d.ready := ⟨rfl, rfl, rfl⟩

/-- Jormon starts again at a moment of the kettle clock; a reset has ended. -/
def Mgmt.restarted (m : Mgmt) (now : Nat) : Mgmt := { m.startJormon with
  l3Since := none, resets := m.resets + 1, stableAt := now, jorLost := [], jorSpare := [], loaderOn := List.range 40 }

theorem Mgmt.restarted_recovery (m : Mgmt) (now : Nat) : (m.restarted now).recovery = (none, m.l3Held, m.resets + 1) := by
  unfold Mgmt.restarted Mgmt.startJormon Mgmt.recovery
  split <;> rfl

section
variable {w : Phase} {b : Bool} {s : State} (h : s.Emptied w b)
include h

theorem State.emptied_laneFound (l : List LaneFinding) : (s.laneFound l).Emptied w b := by
  refine State.emptied_foldl (fun t x ht => ?_) l h
  split
  · exact State.emptied_log (ht.onDev ht.dev) _ _ _ _
  · exact ht.onDev ht.dev

theorem State.emptied_bootAgain (p : Nat) : (s.bootAgain p).Emptied w b := by
  unfold State.bootAgain
  split
  · exact State.emptied_writePa (State.emptied_writePa h _ _) _ _
  · exact h

/-! ### What was posted before the reset is delivered (R358). -/

theorem State.emptied_itemWrites (a : Nat) (i : Item) : (s.itemWrites a i).Emptied w b := by
  unfold State.itemWrites
  split
  · exact h.onDev h.dev
  · exact State.emptied_foldl (fun _ _ ht => ht.onDev ht.dev) _ h

theorem State.emptied_entryInterrupt (a n ring : Nat) : (s.entryInterrupt a n ring).Emptied w b := by
  unfold State.entryInterrupt
  split
  · exact h.onDev h.dev
  split
  · exact h
  dsimp only
  split
  · split <;> exact h.onDev h.dev
  · exact h.onDev h.dev

theorem State.emptied_itemComplete (a : Nat) (res : FlushResult) : (s.itemComplete a res).Emptied w b := by
  have hfail (u status : Nat) : s.failPart u status = s := by
    unfold State.failPart
    rw [h.dev.getPart u]
  have hwrites (i : Item) : ((s.itemWrites a i).onDev fun d => d.modAtt a fun x => x.complete i).Emptied w b :=
    (State.emptied_itemWrites h a i).onDev (State.emptied_itemWrites h a i).dev
  unfold State.itemComplete
  dsimp only
  split
  · exact h
  split
  · exact h
  split
  · split
    · exact h
    · exact State.emptied_entryInterrupt (hwrites _) _ _ _
  · rw [hfail, hfail, ite_self]
    split
    · exact h
    · split
      · exact hwrites _
      · exact h

theorem State.emptied_deliver (a n : Nat) : (s.deliver a n).Emptied w b := by
  induction n generalizing s with
  | zero => exact h
  | succ n ih => exact ih (State.emptied_itemComplete h a .ok)

theorem State.emptied_orphan (a cause : Nat) : (s.orphan a cause).Emptied w b := by
  unfold State.orphan
  dsimp only
  refine State.emptied_foldl (fun _ _ ht => State.emptied_event ht _ _ _ _ _) _ ?_
  exact (h.onDev (f := fun d => d.modAtt a _) h.dev).onDev (Dev.emptied_foldl (f := fun d (c : Nat × Ctx) => d.modCtx c.1 Ctx.orphan)
    (fun _ _ hd => hd) _ h.dev)

theorem State.emptied_restoreAtt (a : Nat) : (s.restoreAtt a).Emptied w b := by
  unfold State.restoreAtt
  split
  · exact h
  · exact State.emptied_orphan (State.emptied_deliver (State.emptied_attEvent (h.onDev h.dev) _ _ _ _) _ _) _ _

end

/-- A device that has reset has no work, and Jormon takes messages. -/
theorem State.emptied_resetDevice {s : State} {x : Bool × Option Nat} {held : Bool} {n : Nat} (hf : s.mem.flight = [])
    (hphase : s.phase = (x.1, x.2, held, n)) (badWays : List (EngId × Fin 8)) (bad : List Nat) (lanes : List LaneFinding) :
    (s.resetDevice badWays bad lanes).Emptied (false, none, held, n + 1) true := by
  have hdies : ((s.onDev fun d => d.resetDies badWays).laneFound lanes).Emptied s.phase s.dev.ready :=
    State.emptied_laneFound (s := s.onDev fun d => d.resetDies badWays) ⟨Dev.emptied_resetDies s.dev badWays, hf, rfl⟩ lanes
  unfold State.resetDevice
  extract_lets who s1 s2 s3 s4 s5 s6 s7
  have hrecovery : s1.mgmt.recovery = (x.2, held, n) := congrArg Prod.snd (hdies.phase.trans hphase)
  have hheld : s1.mgmt.l3Held = held := congrArg (fun y => y.2.1) hrecovery
  have hresets : s1.mgmt.resets = n := congrArg (fun y => y.2.2) hrecovery
  have h3 : s3.Emptied (false, none, held, n + 1) s.dev.ready := by
    refine ⟨hdies.dev, hdies.flight, congrArg (Prod.mk false) ?_⟩
    rw [← hheld, ← hresets]
    exact Mgmt.restarted_recovery s1.mgmt s1.kettle
  have h4 : s4.Emptied _ _ := State.emptied_rollAll h3 who .deviceReset bad
  have h6 : s6.Emptied _ _ := State.emptied_foldl (f := fun s p => if (s.mgmt.terraces p).isEmpty then s else s.bootAgain p)
    (fun t p ht => by
      split
      · exact ht
      · exact State.emptied_bootAgain ht p) _ (h4.onDev h4.dev)
  obtain ⟨hparts, hqps, _⟩ := h6.dev
  have h7 : s7.Emptied (false, none, held, n + 1) true := ⟨⟨hparts, hqps, rfl⟩, h6.flight, h6.phase⟩
  exact State.emptied_foldl (fun _ a ht => State.emptied_restoreAtt ht a) _ h7

/-! ### The device reset (R455, R499). -/

section
variable {s : State} {k : Nat} (hup : s.pow.stage = .up) (h4 : s.mgmt.l4 = false) (h3 : s.mgmt.l3Since = some k)
include hup h4 h3

/-- A reset that has been called for holds while RESET_N is low. -/
theorem State.deviceReset_held (hr : s.pow.resetN = false) (trains : Bool) (badWays : List (EngId × Fin 8)) (bad : List Nat) (lanes : List LaneFinding) :
    s.deviceReset trains badWays bad lanes = s.withStatus fun s => s.onMgmt fun m => { m with l3Held := true } := by
  simp [State.deviceReset, State.withStatus, hup, h4, h3, hr]

/-- The state in which the dies are reset. -/
def State.stopped3 (s : State) : State := (s.onMgmt fun m => { m with l3Held := false }).quiesce

theorem State.deviceReset_trains (hr : s.pow.resetN = true) (badWays : List (EngId × Fin 8)) (bad : List Nat) (lanes : List LaneFinding) :
    s.deviceReset true badWays bad lanes = s.withStatus fun s => s.stopped3.resetDevice badWays bad lanes := by
  simp [State.deviceReset, State.withStatus, State.stopped3, hup, h4, h3, hr]

theorem State.deviceReset_fails (hr : s.pow.resetN = true) (badWays : List (EngId × Fin 8)) (bad : List Nat) (lanes : List LaneFinding) :
    s.deviceReset false badWays bad lanes = s.withStatus fun s => (s.stopped3.onMgmt fun m => { m with l3Since := none }).callL4 := by
  simp [State.deviceReset, State.withStatus, State.stopped3, hup, h4, h3, hr]

end

/-- What a status interrupt leaves: a device without work stays so. -/
theorem State.emptied_notify {w : Phase} {b : Bool} {s : State} (h : s.Emptied w b) (old : State) : (State.notify old s).Emptied w b := by
  obtain ⟨hparts, hqps, hready⟩ := h.dev
  exact { h with
    dev := ⟨(State.notify_view Dev.parts (fun _ _ => rfl) old s).trans hparts, (State.notify_view Dev.qps (fun _ _ => rfl) old s).trans hqps,
      (State.notify_ready old s).trans hready⟩
    phase := h.phase }

theorem State.stopped3_frame (s : State) : s.stopped3.phase = (s.pow.dormant, s.mgmt.l3Since, false, s.mgmt.resets) ∧ s.stopped3.mem.flight = [] :=
  (s.onMgmt fun m => { m with l3Held := false }).quiesce_frame

theorem State.emptied_deviceReset (s : State) (badWays : List (EngId × Fin 8)) (bad : List Nat) (lanes : List LaneFinding) :
    (s.withStatus fun s => s.stopped3.resetDevice badWays bad lanes).Emptied (false, none, false, s.mgmt.resets + 1) true := by
  obtain ⟨hphase, hflight⟩ := s.stopped3_frame
  exact State.emptied_notify (State.emptied_resetDevice (x := (_, _)) hflight hphase badWays bad lanes) s

/-- What a device without work shows once its reset has ended. -/
theorem State.Emptied.ended {t : State} {n : Nat} (h : t.Emptied (false, none, false, n) true) : t.dev.ready = true ∧ t.mgmt.l3Since = none ∧
    t.mgmt.l3Held = false ∧ t.mgmt.resets = n ∧ t.dev.qps = [] ∧ t.dev.parts = [] ∧ t.mem.flight = [] ∧ t.pow.dormant = false := by
  obtain ⟨hparts, hqps, hready⟩ := h.dev
  have hphase := h.phase
  exact ⟨hready, congrArg (fun x : Phase => x.2.1) hphase, congrArg (fun x : Phase => x.2.2.1) hphase,
    congrArg (fun x : Phase => x.2.2.2) hphase, hqps, hparts, h.flight, congrArg (fun x : Phase => x.1) hphase⟩

/-- L4 in place of an L3. -/
theorem State.passedToL4 (old u : State) (t : State) (h : t = State.notify old ((u.onMgmt fun m => { m with l3Since := none }).callL4)) :
    t.mem = u.mem ∧ t.pow = u.pow ∧ t.dev.ready = false ∧ t.mgmt.l3Since = none ∧ t.mgmt.l4 = true := by
  rw [h]
  exact ⟨rfl, rfl, State.notify_ready _ _, rfl, rfl⟩

/-! ### Jormon cores (R10, R459). -/

/-- The record of a lost core, which a spare that serves none does not get. -/
def State.coreRecorded (s : State) (h c : Nat) : State :=
  let s := s.onMgmt fun m => { m with jorLost := m.jorLost ++ [5 * h + c] }
  match s.mgmt.jorLogical h c with
  | some l => s.log 0x232 none none (leBytes 1 h ++ leBytes 1 l)
  | none => s

theorem State.coreRecorded_frame (s : State) (h c : Nat) : (s.coreRecorded h c).mem = s.mem ∧ (s.coreRecorded h c).dev = s.dev ∧
    (s.coreRecorded h c).time = s.time := by
  unfold State.coreRecorded
  dsimp only
  split <;> exact ⟨rfl, rfl, rfl⟩

/-- What does not look at the log is as after the note of the loss. -/
theorem State.coreRecorded_view {β : Type} (g : Mgmt → β)
    (hg : ∀ (m : Mgmt) next resv log kept dropped,
      g { m with nextLog := next, resvEnd := resv, log := log, kept := kept, dropped := dropped } = g m)
    (s : State) (h c : Nat) : g (s.coreRecorded h c).mgmt = g { s.mgmt with jorLost := s.mgmt.jorLost ++ [5 * h + c] } := by
  unfold State.coreRecorded
  dsimp only
  split
  · exact State.log_view g hg _ _ _ _ _
  · rfl

/-- A call of L3, whatever status interrupts it brings. -/
theorem State.withStatus_callL3 {s : State} (h4 : s.mgmt.l4 = false) (hn : s.mgmt.l3Since = none) (hs : s.mgmt.l3s = []) :
    (s.withStatus State.callL3).mem = s.mem ∧ (s.withStatus State.callL3).mgmt.l3Since = some s.kettle ∧
      (s.withStatus State.callL3).dev.ready = false := by
  rw [State.withStatus, State.callL3_first h4 hn hs]
  exact ⟨rfl, rfl, State.notify_ready _ _⟩

/-- The state in which the spare of headgate h has taken the number of core c. -/
def State.spareIn (s : State) (h c : Nat) : State :=
  ((s.coreRecorded h c).onMgmt fun m => { m with jorSpare := Map.put m.jorSpare h c }).swapped (Config.unitKind 3) (4 * h + c) (5 * h + c)
    (5 * h + 4)

theorem State.spareIn_frame (s : State) (h c : Nat) : (s.spareIn h c).mem = s.mem ∧ (s.spareIn h c).dev = s.dev ∧
    Map.find (s.spareIn h c).mgmt.jorSpare h = some c ∧ (s.spareIn h c).mgmt.jorLost = s.mgmt.jorLost ++ [5 * h + c] := by
  obtain ⟨hmem, hdev, _⟩ := s.coreRecorded_frame h c
  have hlost := State.coreRecorded_view Mgmt.jorLost (fun _ _ _ _ _ _ => rfl) s h c
  unfold State.spareIn
  generalize s.coreRecorded h c = t at hmem hdev hlost
  refine ⟨hmem, hdev, ?_, (State.log_view Mgmt.jorLost (fun _ _ _ _ _ _ => rfl) _ _ _ _ _).trans hlost⟩
  exact (State.log_view (fun m => Map.find m.jorSpare h) (fun _ _ _ _ _ _ => rfl) _ _ _ _ _).trans (Map.find_put_self _ _ _)

/-- A call for service leaves what has been spared. -/
theorem State.spareIn_serviced (s : State) (h c : Nat) (t : State) (ht : t = (s.spareIn h c).needsService 0) : t.mem = s.mem ∧
    Map.find t.mgmt.jorSpare h = some c ∧ t.mgmt.jorLost = s.mgmt.jorLost ++ [5 * h + c] ∧ t.mgmt.service.getLsbD 0 = true ∧
    t.dev.ctxs = s.dev.ctxs := by
  obtain ⟨hmem, hdev, hspare, hlost⟩ := s.spareIn_frame h c
  rw [ht]
  generalize s.spareIn h c = u at hmem hdev hspare hlost
  refine ⟨hmem, ?_, ?_, State.needsService_service u (by decide), ?_⟩
  · exact (State.needsService_mgmt_view (fun m => Map.find m.jorSpare h) (fun _ _ _ => rfl) u 0).trans hspare
  · exact (State.needsService_mgmt_view Mgmt.jorLost (fun _ _ _ => rfl) u 0).trans hlost
  · exact (State.needsService_view Dev.ctxs (fun _ _ => rfl) u 0).trans (congrArg Dev.ctxs hdev)

/-- The loss of the last core of a headgate calls for L3. -/
theorem State.coreRecorded_calls {s : State} (h4 : s.mgmt.l4 = false) (hn : s.mgmt.l3Since = none) (hs : s.mgmt.l3s = []) (h c : Nat) (t : State)
    (ht : t = ((s.coreRecorded h c).needsService 5).withStatus State.callL3) :
    t.mem = s.mem ∧ t.mgmt.l3Since = some s.kettle ∧ t.dev.ready = false := by
  obtain ⟨hmem, _, htime⟩ := s.coreRecorded_frame h c
  have h4' := (State.coreRecorded_view Mgmt.l4 (fun _ _ _ _ _ _ => rfl) s h c).trans h4
  have hn' := (State.coreRecorded_view Mgmt.l3Since (fun _ _ _ _ _ _ => rfl) s h c).trans hn
  have hs' := (State.coreRecorded_view Mgmt.l3s (fun _ _ _ _ _ _ => rfl) s h c).trans hs
  rw [ht]
  generalize s.coreRecorded h c = u at hmem htime h4' hn' hs'
  obtain ⟨hm, hsince, hready⟩ := State.withStatus_callL3 (s := u.needsService 5)
    ((State.needsService_l4 u 5).trans h4')
    ((State.needsService_mgmt_view Mgmt.l3Since (fun _ _ _ => rfl) u 5).trans hn')
    ((State.needsService_mgmt_view Mgmt.l3s (fun _ _ _ => rfl) u 5).trans hs')
  refine ⟨hm.trans hmem, hsince.trans ?_, hready⟩
  show some (u.time.fabric / 1000) = some (s.time.fabric / 1000)
  rw [htime]

section
variable {s : State} {h c : Nat} (hnew : has s.mgmt.jorLost (5 * h + c) = false) (hup : s.pow.stage = .up)
include hnew hup

theorem State.jormonLost_spared (hk : s.mgmt.lostOn h = 0) (hc : c < 4) : s.jormonLost h c = (s.spareIn h c).needsService 0 := by
  unfold State.jormonLost
  rw [if_neg (by simp [hnew, hup]), if_pos hk, if_pos hc]
  rfl

theorem State.jormonLost_last (hk : s.mgmt.lostOn h = 4) : s.jormonLost h c = ((s.coreRecorded h c).needsService 5).withStatus State.callL3 := by
  unfold State.jormonLost
  rw [if_neg (by simp [hnew, hup]), if_neg (by omega), if_neg (by omega)]
  rfl

end

/-! ### What the rows of recovery do. -/

/-- Settles O58: a reset clears the tables of parts and queue pairs and the writes on their way, the rollbacks and deliveries that follow bring
none back, and the other rows change only what they name. -/
theorem deviceRecovery : Obligations.DeviceRecovery := by
  unfold Obligations.DeviceRecovery
  intro s
  refine ⟨fun k ways bad lanes hup h4 h3 => ⟨fun hr => ?_, fun hr => ?_, fun hr trains => ?_⟩, fun k h3 hk hheld => ?_, fun h4 => ?_,
    fun t k hk hlate => ?_, fun h c hnew hup => ⟨fun hlost hc => ?_, fun hlost h4 h3 hs => ?_⟩, fun hrun => ⟨fun hup h4 h3 hs => ?_, ?_⟩⟩
  · exact ⟨_, congrArg Host.Outcome.next (State.deviceReset_trains hup h4 h3 hr ways _ lanes), (s.emptied_deviceReset _ _ _).ended⟩
  · obtain ⟨_, _, hdown⟩ := State.passedToL4 s s.stopped3 _ rfl
    exact ⟨_, congrArg Host.Outcome.next (State.deviceReset_fails hup h4 h3 hr ways _ lanes), hdown⟩
  · exact ⟨_, congrArg Host.Outcome.next (State.deviceReset_held hup h4 h3 hr trains ways _ lanes), rfl, rfl, rfl⟩
  · have hdue : exec .l3BoundExpiry s = .next ((s.onMgmt fun m => { m with l3Since := none }).withStatus State.callL4) := by
      show execL3BoundExpiry s = _
      unfold execL3BoundExpiry
      rw [h3]
      exact congrArg Host.Outcome.next (if_pos ⟨hk, by rw [hheld]; rfl⟩)
    exact ⟨_, hdue, rfl, rfl, rfl, rfl, State.notify_ready _ _⟩
  · refine ⟨_, congrArg Host.Outcome.next (if_pos h4), rfl, rfl, rfl, ?_, rfl⟩
    refine (Pow.setSp_bit _ _ (by decide)).trans ?_
    rw [has_singleton, decide_eq_true rfl, Bool.or_true]
  · have hdue : exec (.dumpTruncated t) s = .next (s.onDev fun d => d.modTerr t.val fun x => { x with dumpCut := true }) := by
      show execDumpTruncated t s = _
      unfold execDumpTruncated
      rw [hk]
      exact congrArg Host.Outcome.next (if_pos hlate)
    exact ⟨_, hdue, onlyDev_onDev _ _, Dev.getTerr_modTerr_self _ _ _, fun j hj => Dev.getTerr_modTerr_other _ hj _⟩
  · exact ⟨_, congrArg Host.Outcome.next (State.jormonLost_spared hnew hup hlost hc), State.spareIn_serviced s h.val c.val _ rfl⟩
  · exact ⟨_, congrArg Host.Outcome.next (State.jormonLost_last hnew hup hlost), State.coreRecorded_calls h4 h3 hs h.val c.val _ rfl⟩
  · exact ⟨_, congrArg Host.Outcome.next (if_pos ⟨hrun, hup⟩), State.withStatus_callL3 h4 h3 hs⟩
  · refine ⟨_, congrArg Host.Outcome.next (if_pos hrun), ⟨rfl, rfl, rfl, rfl, rfl⟩, rfl, ?_⟩
    refine (Pow.setSp_bit _ _ (by decide)).trans ?_
    rw [has_singleton, decide_eq_true rfl, Bool.or_true]

end Sys2Proof.Machine
end
